-- ==== Sys2Proof/Word.lean ====
section
/-! DEFINITION. The word types: bytes, 64-bit register and memory words, 16-byte instruction words, and the
plainest arithmetic on bit fields of a natural number (R3, R4). -/

namespace Sys2Proof

/-- A byte (Table 0.1). -/
abbrev Byte := BitVec 8

/-- A 64-bit word of a register, a descriptor or a ring entry. -/
abbrev Word := BitVec 64

/-- Bits h down to l of a number, as a number (R3). -/
def bits (x h l : Nat) : Nat := x / 2 ^ l % 2 ^ (h + 1 - l)

/-- Replaces bits h down to l of a number. -/
def putBits (w h l v : Nat) : Nat := w - bits w h l * 2 ^ l + v % 2 ^ (h + 1 - l) * 2 ^ l

/-- Bit i of a number. -/
def bitOf (x i : Nat) : Bool := x / 2 ^ i % 2 == 1

/-- A two's-complement field of w bits as an integer. -/
def signed (w x : Nat) : Int := if x % 2 ^ w < 2 ^ (w - 1) then (x % 2 ^ w : Nat) else (x % 2 ^ w : Nat) - (2 ^ w : Nat)

/-- An integer as a two's-complement field of w bits. -/
def unsigned (w : Nat) (x : Int) : Nat := (x % (2 ^ w : Nat)).toNat

/-- 1 for true, 0 for false: the value of a one-bit field. -/
def b2n (b : Bool) : Nat := if b then 1 else 0

/-- ceil(a / b). -/
def cdiv (a b : Nat) : Nat := (a + b - 1) / b

end Sys2Proof
end

