-- ==== Sys2Proof/Syntax.lean ====
section
/-! DEFINITION. The commands of the block: one constructor for every row of the manual's table of operations and events.
A command is an access or message from outside, an instruction a cluster sequencer takes, or an event of one of the
module's engines. What an instruction's word, a descriptor, a ring entry or a mailbox slot says is read from the state,
where the manual keeps it; the operands here name the unit concerned and what only the outside can supply. -/

namespace Sys2Proof

/-- Matrix clusters MC0-MC27 (R12). -/
abbrev ClusterId := Fin 28

/-- Partitions P0-P3 (R287). -/
abbrev PartId := Fin 4

/-- Fabric ports L0-L9 (R252). -/
abbrev PortId := Fin 10

/-- Rack units RK0-RK15 (R12). -/
abbrev RackId := Fin 16

/-- Service ports S0 and S1. -/
abbrev SvcId := Fin 2

/-- Logical scratchpad banks B0-B31 (R210). -/
abbrev BankId := Fin 32

/-- Who makes a register access: the host of a partition, or the maltster (acting for the installer where the manual lets
it; Table 14.1, Table 9.3). -/
inductive Agent where
  | host (p : PartId)
  | maltster
  deriving DecidableEq, Repr

/-- What a scrub read or a memory read finds in a word (R133, R221, R246): nothing, an error that the code corrects (in a
bit column), or one it cannot correct. -/
inductive Found where
  | clean
  | correctable (bit : Nat)
  | uncorrectable
  deriving DecidableEq, Repr

/-- What a read of a DRAM frame found in a row of it, at a granule of the frame (R229, R246, R247). -/
structure RowFound where
  granule : Nat
  row : Nat
  found : Found
  deriving DecidableEq, Repr

/-- The two memory tiers and the two windows of a partition (R229, R230). -/
inductive Tier where
  | hbm | cellar
  deriving DecidableEq, Repr

/-- What stops an attempt of a kiln job (R166). -/
inductive AttemptFault where
  | bank
  | core (k : Fin 8)
  | lentCluster
  deriving DecidableEq, Repr

/-- A failing read of a march (R223, Table 9.10). -/
structure MarchFail where
  bank : Nat
  row : Nat
  col : Nat
  bit : Nat
  deriving DecidableEq, Repr

/-- What a read of a word of a scratchpad bank found, where it was no sound word (R221, R223). -/
structure WordFound where
  c : ClusterId
  bank : BankId
  word : Fin 32768
  found : Found
  deriving DecidableEq, Repr

/-- The three repairs of a scratchpad bank (R224). -/
inductive BankRepairKind where
  | row (r : Fin 1024)
  | column (k : Fin 576)
  | whole
  deriving DecidableEq, Repr

/-- The units of Table 15.2 that have a gated state of their own. -/
inductive GatedUnit where
  | vector (c : ClusterId) (u : Fin 4)
  | array (c : ClusterId)
  | cluster (c : ClusterId)
  | kilnCore (k : Fin 8)
  | rackClock (u : RackId)
  | rackPower (u : RackId)
  | hbmChannel (stack ch : Nat)
  | cellarChannel (pkg ch : Nat)
  | hbmStack (stack : Nat)
  | cellarPackage (pkg : Nat)
  | hart (h : Nat)
  | hostGroup (q : PartId)
  | fabricPort (n : PortId)
  | servicePort (s : SvcId)
  deriving DecidableEq, Repr

/-- The 48 V input, averaged over 10 µs: below 37 V, above 62 V, or in range again (R373). -/
inductive InputLevel where
  | under | over | inRange
  deriving DecidableEq, Repr

/-- The kinds of background work (Table 15.4). -/
inductive Background where
  | bankScrub | kilnBankScrub | patrolScrub | ownerDigest | calibration | linkAdaptation | wearSave
  deriving DecidableEq, Repr

/-- An event offered to the trace unit (Table 15.8): its class, code, unit and kind, its two arguments, and the partition
it concerns (none: the module). -/
structure TraceEvent where
  cls : Fin 8
  code : BitVec 8
  unit : BitVec 8
  kind : BitVec 8
  arg0 : Word
  arg1 : Word
  part : Option PartId
  deriving DecidableEq, Repr

/-- How a service-port work entry ends: acknowledged (with the bytes an RDMA READ returned), a NAK or exhausted retries,
or a remote key refusal (Table 16.12). -/
inductive WorkResult where
  | ok (data : List Byte)
  | remote (nak : Bool)
  | key
  deriving DecidableEq, Repr

/-- An incoming service-port request or datagram (R387, R388): a whole request, however many packets carried it; one that the network
marked as congested, or a congestion notification. -/
inductive ServicePacket where
  | send (p : PartId) (qp : Nat) (imm : Option (BitVec 32)) (data : List Byte)
  | rdmaWrite (p : PartId) (qp : Nat) (key : BitVec 32) (addr : Word) (imm : Option (BitVec 32)) (data : List Byte)
  | rdmaRead (p : PartId) (qp : Nat) (key : BitVec 32) (addr : Word) (len : Nat)
  | udp (p : PartId) (dport : BitVec 16) (data : List Byte)
  | unsupported (p : PartId) (qp : Nat)
  | marked (p : PartId) (qp : Nat)
  | notified (p : PartId) (qp : Nat)
  deriving DecidableEq, Repr

/-- The commands. The operands that say what the hardware found, or where a datagram came in, stand last; one left out says that a read
found nothing wrong, that nothing else is known, or that the datagram came to the port of its row. -/
inductive Instr where
  /-- NOP (R37): Control instruction that does nothing and completes at issue. -/
  | nop (c : ClusterId)
  /-- HALT (R29): Issues once all earlier work and deferred entries have completed, then enters HALTED and sets MC_SEQ_IRQ.done. -/
  | halt (c : ClusterId)
  /-- BR (R37): Conditional branch that adds a signed immediate to PC when the condition selected by sub holds. -/
  | br (c : ClusterId)
  /-- LOOP (R37): Repeats the next imm64[15:0] instructions Ga times, with at most four loops active. -/
  | loop (c : ClusterId)
  /-- GSET (R37): Sets general register Gd to imm64. -/
  | gset (c : ClusterId)
  /-- GADD (R37): Sets Gd to Ga plus imm64 modulo 2^64. -/
  | gadd (c : ClusterId)
  /-- GLD (R37): Loads Gd from an 8-byte-aligned scratchpad word. -/
  | gld (c : ClusterId)
  /-- ANSET (R37): Initialises an anchor slot with ea and eb at -2048 and logk from the global reduction length. -/
  | anset (c : ClusterId)
  /-- EVWAIT (R37): Waits until an event counter reaches a value, optionally subtracting that value when it passes. -/
  | evwait (c : ClusterId)
  /-- EVWAIT_PASS (R49): A waiting EVWAIT or wen wait passes in the first cycle the counter covers it, and consumes the count. -/
  | evwaitPass (c : ClusterId)
  /-- EVADD (R49): Adds to or sets a local event counter, saturating at 65,535 and setting evt_ovf. -/
  | evadd (c : ClusterId)
  /-- EVPOST (R50): Adds to an event counter of another cluster of the same partition, or faults with FOREIGN_CLUSTER. -/
  | evpost (c : ClusterId)
  /-- EVENT_COUNTER_CHANGE (R49): A posted addition reaches a cluster's event counter; all changes in one cycle are applied together. -/
  | eventCounterChange (c : ClusterId)
  /-- BAR_CLUSTER_SET (R51): Joins a cluster-set barrier over the clusters of the mask, which must name the issuer. -/
  | barClusterSet (c : ClusterId)
  /-- BAR_PARTITION (R51): Joins a barrier over all clusters of the partition. -/
  | barPartition (c : ClusterId)
  /-- LOCAL_BARRIER_COMPLETE (R51): The last member arrives at a cluster-set or partition barrier, and every member completes 48 cycles later. -/
  | localBarrierComplete (p : PartId) (b : Fin 16)
  /-- BAR_SLICE (R52): Joins a slice barrier through the fabric barrier unit, optionally as the flag check. -/
  | barSlice (c : ClusterId)
  /-- FTCWAIT (R53): Waits until the FTC reaches Ga plus imm64. -/
  | ftcwait (c : ClusterId)
  /-- FTC_TARGET_REACHED (R53): The FTC reaches the target of a waiting FTCWAIT, which then completes. -/
  | ftcTargetReached (c : ClusterId)
  /-- ROUSE (R78): Runs rouse operations at level 8 for a cycle count, ending early on a ready matrix instruction when sub[0] is 1. -/
  | rouse (c : ClusterId)
  /-- DWQFLUSH (R37): Waits until the deferred queue is empty and every entry has completed. -/
  | dwqflush (c : ClusterId)
  /-- FENCE (R37): Waits until every earlier instruction, and with sub[0] = 1 every earlier deferred entry, has completed. -/
  | fence (c : ClusterId)
  /-- MMA (R36): Accumulates A times B into a group of accumulator tiles in their window. -/
  | mma (c : ClusterId) (errors : List WordFound := [])
  /-- MMWG (R70): Accumulates a weight gradient, with optional curvature taps and sketch, at issue or pushed to the deferred queue. -/
  | mmwg (c : ClusterId)
  /-- DEFERRED_ENTRY_RUN (R56): A deferred MMWG entry starts on the array when it is idle and runs to completion. -/
  | deferredEntryRun (c : ClusterId)
  /-- GRAM (R69): Accumulates the exactly symmetric Gram product of A transpose times A. -/
  | gram (c : ClusterId)
  /-- MATRIX_INSTRUCTION_COMPLETE (R66): The last row of a matrix instruction becomes visible 19 cycles after its request, and the instruction signals completion. -/
  | matrixInstructionComplete (c : ClusterId)
  /-- TDLD (R38): Loads a descriptor slot from 32 bytes of scratchpad. -/
  | tdld (c : ClusterId)
  /-- TDBASE (R38): Sets a descriptor's base. -/
  | tdbase (c : ClusterId)
  /-- TDADD (R38): Adds a signed value to a descriptor's base modulo 2^48. -/
  | tdadd (c : ClusterId)
  /-- TDSHAPE (R38): Sets a descriptor's rows and columns. -/
  | tdshape (c : ClusterId)
  /-- MOV (R39): Copies a tile between memories, with exact, nearest-even or stochastic conversion. -/
  | mov (c : ClusterId)
  /-- MOVER_OP_COMPLETE (R34): A MOV or AADD on the mover completes, in any order, and signals its event. -/
  | moverOpComplete (c : ClusterId) (i : Nat)
  /-- ADRN (R97): Drains a group of accumulator tiles to memory with conversion and out-of-window detection. -/
  | adrn (c : ClusterId)
  /-- AFILL (R98): Sets the window of a group and fills it from memory. -/
  | afill (c : ClusterId)
  /-- AZERO (R83): Zeroes accumulator tiles and sets their window format and anchor. -/
  | azero (c : ClusterId)
  /-- AADD (R101): Atomically adds a group's window values into a W64 or W32 tensor at memory. -/
  | aadd (c : ClusterId)
  /-- ATOMIC_WINDOW_ADD (R102): One AADD update arrives at its memory word and is applied in arrival order, becoming the marker when out of range. -/
  | atomicWindowAdd (c : ClusterId) (i k : Nat)
  /-- AMAX (R88): Folds a tile's maximum exponent into ea, eb or both of an anchor slot. -/
  | amax (c : ClusterId)
  /-- AMAX_SLICE (R90): Reduces an anchor slot over the masked clusters of every module of the slice on the anchor channel. -/
  | amaxSlice (c : ClusterId)
  /-- FPOST (R282): Posts a collective descriptor to the fabric engine, which checks it and runs, holds or resolves it. -/
  | fpost (c : ClusterId)
  /-- VADD (R173): Element-wise add rounded once into vd's format. -/
  | vadd (c : ClusterId)
  /-- VMUL (R173): Element-wise multiply rounded once into vd's format. -/
  | vmul (c : ClusterId)
  /-- VFMA (R173): Fused element-wise va times vb plus vc. -/
  | vfma (c : ClusterId)
  /-- VFMAS (R173): Fused element-wise va times a scalar plus vb. -/
  | vfmas (c : ClusterId)
  /-- VCMP (R175): Writes mask bits for a relation between va and vb. -/
  | vcmp (c : ClusterId)
  /-- VSEL (R176): Selects va or vb per element by a mask. -/
  | vsel (c : ClusterId)
  /-- VMIN (R173): Element-wise IEEE minimum. -/
  | vmin (c : ClusterId)
  /-- VMAX (R173): Element-wise IEEE maximum. -/
  | vmax (c : ClusterId)
  /-- VCVT (R174): Converts va into vd's format by nearest-even or stochastic rounding. -/
  | vcvt (c : ClusterId)
  /-- VMASK (R176): Combines two masks word by word with AND, OR, XOR or AND NOT. -/
  | vmask (c : ClusterId)
  /-- VCOMPRESS (R177): Packs the mask-selected elements of va into vd and writes the count to a general register. -/
  | vcompress (c : ClusterId)
  /-- VEXPAND (R178): Scatters a packed sequence into the mask-selected elements of vd. -/
  | vexpand (c : ClusterId)
  /-- VRNG (R182): Writes counter-based random values of a distribution using draw number 1. -/
  | vrng (c : ClusterId)
  /-- VSEQ (R183): Computes a loaded function sequence, correctly rounded, per element. -/
  | vseq (c : ClusterId)
  /-- VREDMAX (R185): Reduces to a maximum with its global index. -/
  | vredmax (c : ClusterId)
  /-- VREDMIN (R185): Reduces to a minimum with its global index. -/
  | vredmin (c : ClusterId)
  /-- VNONFIN (R186): Sets the local non-finite flag when any selected element is NaN, infinite or a marker. -/
  | vnonfin (c : ClusterId)
  /-- VECTOR_OP_COMPLETE (R169): Every named vector unit finishes a VOP and its writes become visible. -/
  | vectorOpComplete (c : ClusterId) (i : Nat)
  /-- START (R27): A write of 1 to MC_SEQ_CTRL.start checks the region and PC and enters RUNNING, or sets start_err. -/
  | start (who : Agent) (c : ClusterId) (alsoStop : Bool)
  /-- STOP (R28): A write of 1 to MC_SEQ_CTRL.stop stops issue, withdraws waiting instructions and enters STOPPED once work completes. -/
  | stop (who : Agent) (c : ClusterId)
  /-- STOP_COMPLETE (R28): The last issued instruction and deferred entry complete under a stop, and the sequencer enters STOPPED. -/
  | stopComplete (c : ClusterId)
  /-- ACC_QUERY_WRITE (R83): A write to MC_ACC_QUERY selects the tile whose window is reported. -/
  | accQueryWrite (who : Agent) (c : ClusterId) (v : Word)
  /-- REGISTER_WRITE (R5): A host store to a register without a row of its own, applying access codes, reserved-encoding and stage-set rules. -/
  | registerWrite (who : Agent) (a : BitVec 48) (v : Word)
  /-- ROW_RETRY (R73): A row that failed the residue check is re-requested once the rows in flight have cleared stage 16. -/
  | rowRetry (c : ClusterId) (dpu : Fin 66)
  /-- ROUSE_HOLD_EXPIRY (R77): The array's hold of MC_ROUSE_CFG.hold cycles ends and it begins to ramp down. -/
  | rouseHoldExpiry (c : ClusterId)
  /-- RAMP_STEP (R77): Every ramp_step cycles the activity level moves one eighth down toward rest or up toward level 8. -/
  | rampStep (c : ClusterId)
  /-- FLAG_CHECK_RELEASE (R125): The flag check releases with the reduced nonfin, fault and drain bits delivered to every member. -/
  | flagCheckRelease (p : PartId)
  /-- NFLAG_WRITE (R123): A host write of 1 to FAB_NFLAGp sets nonfin, or fault together with nonfin. -/
  | nflagWrite (p : PartId) (v : Word)
  /-- KILN_RING_ENABLE (R168): Setting KLN_RINGp.en checks base and size and starts scanning, or sets ring_err. -/
  | kilnRingEnable (p : PartId) (v : Word)
  /-- KILN_RING_DISABLE (R165): Clearing KLN_RINGp.en aborts every picked-up unresolved job and resets head. -/
  | kilnRingDisable (p : PartId) (v : Word)
  /-- KILN_JOB_PICKUP (R142): The kiln reads an owned ring entry, checks it and advances head. -/
  | kilnJobPickup (p : PartId)
  /-- KILN_JOB_START (R144): A job starts in ring order once its cores, banks and factor block are free. -/
  | kilnJobStart (p : PartId)
  /-- INIT (R141): Writes a fresh factor block header, zero statistics and an identity root. -/
  | init (p : PartId) (j : Nat)
  /-- FOLD (R148): Folds statistics into the inactive factor slot after deciding whether the statistics gyle was skipped. -/
  | fold (p : PartId) (j : Nat)
  /-- ROOT (R150): Computes an inverse p-th root of the damped factor by coupled Newton iteration. -/
  | root (p : PartId) (j : Nat) (steps : Nat) (guests : List (ClusterId × Nat) := [])
  /-- CHOL (R151): Factors the damped factor by Cholesky with pivot regularisation. -/
  | chol (p : PartId) (j : Nat)
  /-- LDLT (R152): Factors the damped factor as L D L transpose with pivot regularisation. -/
  | ldlt (p : PartId) (j : Nat)
  /-- SOLVE (R155): Factors, solves for the right-hand sides and refines the solution. -/
  | solve (p : PartId) (j : Nat) (steps : Nat)
  /-- FOLD_OUTCOME_AVAILABLE (R148): A folding job waiting for stat_gyle's flag-check outcome finds it and proceeds or resolves. -/
  | foldOutcomeAvailable (p : PartId) (j : Nat)
  /-- KILN_JOB_RESOLVE (R167): A job resolves with a status code, commits its header, writes the descriptor and posts events. -/
  | kilnJobResolve (p : PartId) (j : Nat)
  /-- KILN_DEADLINE_COMMIT (R161): The commit of a deadline resolution completes within 2 µs and posts events. -/
  | kilnDeadlineCommit (p : PartId) (j : Nat)
  /-- KILN_ATTEMPT_RESTART (R166): A bank error, core failure or lent-cluster fault discards an attempt and restarts the job, or resolves it FAULT. -/
  | kilnAttemptRestart (p : PartId) (j : Nat) (why : AttemptFault)
  /-- KILN_BANK_SCRUB (R133): A scrub read of a kiln-bank word corrects or reports its error. -/
  | kilnBankScrub (b : Fin 52) (found : Found)
  /-- SWEEP_START (R196): A write of 1 to RK_SWEEPp.start evaluates, arms or refuses a sweep request. -/
  | sweepStart (p : PartId) (v : Word)
  /-- SWEEP_STOP (R203): A write of 1 to RK_SWEEPp.stop discards unwritten phases and enters STOPPED once write-outs end. -/
  | sweepStop (p : PartId) (v : Word)
  /-- BLOCK_HANDOUT (R202): The next block is handed to a free granted unit and its stamps decide its work, or fault with STAMP. -/
  | blockHandout (p : PartId) (u : RackId)
  /-- MOMENT_PHASE (R198): A block's moment phase forms new moments and writes momentum, second moment, sums and header. -/
  | momentPhase (u : RackId) (found : Found := .clean)
  /-- WEIGHT_PHASE (R198): A block's weight phase forms the new weight and lees from stored moments and writes them out. -/
  | weightPhase (u : RackId)
  /-- LAYER_COMPLETE (R195): Every listed block of an owned layer has wstamp n, and the layer's event is posted. -/
  | layerComplete (p : PartId) (l : Nat)
  /-- RACK_PHASE_RETRY (R204): A unit failing its checks before a write-out has the phase rerun, and is retired at its second failure. -/
  | rackPhaseRetry (u next : RackId) (writing : Bool := false)
  /-- STAGING_SLOT_WRITE (R206): A write into a gradient staging slot fills it, or is held until the slot is free. -/
  | stagingSlotWrite (p : PartId) (slot off : Nat) (data : List Byte)
  /-- REPLICA_CHECK (R207): A write of 1 to RK_CHKp.start checks replica blocks against their CRC-64 and refills mismatches. -/
  | replicaCheck (p : PartId) (v : Word)
  /-- OWNER_DIGEST_CHECK (R208): A block of an owned layer is checked against its SM3 digest within each ochk_ms period. -/
  | ownerDigestCheck (p : PartId) (l b : Nat)
  /-- BANK_REQUEST_BOOST (R214): A rank 3 to 5 request that has waited 64 cycles is served ahead of every class. -/
  | bankRequestBoost (c : ClusterId) (b : BankId) (rank : Nat) (displaced : Bool)
  /-- HANDOVER_REQUEST (R218): A store to BANK_OWNERb.req starts a permitted handover or sets ho_err. -/
  | handoverRequest (who : Agent) (c : ClusterId) (b : BankId) (v : Word)
  /-- HANDOVER_COMPLETE (R218): The new bank owner takes effect 8 cycles after the write or the last outstanding access. -/
  | handoverComplete (c : ClusterId) (b : BankId)
  /-- ALIAS_WRITE_SET (R220): A write through the bit-set alias ORs data into a scratchpad word. -/
  | aliasWriteSet (who : Agent) (a : BitVec 48) (data : Word) (be : BitVec 8)
  /-- ALIAS_WRITE_CLEAR (R220): A write through the bit-clear alias clears data bits of a scratchpad word. -/
  | aliasWriteClear (who : Agent) (a : BitVec 48) (data : Word) (be : BitVec 8)
  /-- BANK_SCRUB (R221): A background scrub read of a scratchpad word corrects or reports its error. -/
  | bankScrub (c : ClusterId) (b : BankId) (w : Fin 32768) (found : Found)
  /-- MARCH_DESTRUCTIVE (R222): A destructive march start hands FREE banks to TEST and runs March C-. -/
  | marchDestructive (who : Agent) (c : ClusterId) (v : Word)
  /-- MARCH_PRESERVING (R223): A preserving march start tests owned banks word by word without changing contents. -/
  | marchPreserving (who : Agent) (c : ClusterId) (v : Word)
  /-- MARCH_COMPLETE (R222): A march ends, zeroing destructive banks to FREE and reporting its result. -/
  | marchComplete (c : ClusterId) (fails : List MarchFail) (final : List WordFound := []) (waited : Nat := 0)
  /-- BANK_REPAIR (R224): The maltster repairs a scratchpad row, column or whole bank and records it. -/
  | bankRepair (c : ClusterId) (b : BankId) (what : BankRepairKind)
  /-- MOVER_RING_ENABLE (R251): Setting HBM_MRINGp.en checks the ring and starts scanning, or sets ring_err. -/
  | moverRingEnable (p : PartId) (v : Word)
  /-- MOVER_RING_DISABLE (R250): Clearing HBM_MRINGp.en resolves picked-up entries ABORTED. -/
  | moverRingDisable (p : PartId) (v : Word)
  /-- MOVER_ENTRY_PICKUP (R238): The mover picks up an owned ring entry and advances head. -/
  | moverEntryPickup (p : PartId)
  /-- PREFETCH (R239): Brings HBM-window pages into HBM by a deadline. -/
  | prefetch (p : PartId) (i : Nat)
  /-- EVICT (R240): Moves unpinned HBM-window pages to the cellar now. -/
  | evict (p : PartId) (i : Nat)
  /-- PIN (R238): Pins HBM-window pages, bringing evicted ones into HBM first. -/
  | pin (p : PartId) (i : Nat)
  /-- UNPIN (R238): Unpins pages. -/
  | unpin (p : PartId) (i : Nat)
  /-- SETSRC (R238): Sets the pages' clean-copy source attribute. -/
  | setsrc (p : PartId) (i : Nat)
  /-- MOVER_ENTRY_RESOLVE (R238): An entry resolves with its status and posts its event. -/
  | moverEntryResolve (p : PartId) (i : Nat)
  /-- DEMAND_FAULT_IN (R237): An access to a cellar-resident HBM-window page is held while the page is brought in. -/
  | demandFaultIn (p : PartId) (page : Nat)
  /-- POOL_EVICTION (R235): The pool evicts the oldest unpinned page of a partition at or over quota. -/
  | poolEviction (p : PartId)
  /-- PAGE_MOVE_COMPLETE (R235): A page copy completes, the mapping switches and the old frame is freed. -/
  | pageMoveComplete (p : PartId) (win : Tier) (page : Nat)
  /-- BUDDY_SNAPSHOT (R244): A snapshot start of kind 0 copies listed pages into a peer's buddy region. -/
  | buddySnapshot (p : PartId) (v : Word)
  /-- DRAW_SNAPSHOT (R245): A snapshot start of kind 1 copies listed pages into the partition's own cellar. -/
  | drawSnapshot (p : PartId) (v : Word)
  /-- SNAPSHOT_ABORT (R243): A write of 1 to CLR_SNAPp.abort ends the running snapshot ABORTED. -/
  | snapshotAbort (p : PartId) (v : Word)
  /-- SNAPSHOT_COMPLETE (R243): Every page and then the header of a snapshot become visible at the target. -/
  | snapshotComplete (p : PartId)
  /-- BUDDY_GENERATION_COMPLETE (R244): The receiver flips gen, sets valid, records the gyle and acknowledges. -/
  | buddyGenerationComplete (p : PartId) (src : BitVec 16) (gyle : BitVec 48)
  /-- BUDDY_ACK (R244): The source receives the acknowledgement and sets ckpt_clean on its pages. -/
  | buddyAck (p : PartId)
  /-- BUDDY_REGION_ENABLE (R251): Setting CLR_BUDDYp.en opens the region to snapshots and clears valid. -/
  | buddyRegionEnable (p : PartId) (v : Word)
  /-- PAGE_POISON (R248): An uncorrectable error poisons a page, holds its accesses and seeks a clean copy. -/
  | pagePoison (p : PartId) (win : Tier) (page : Nat) (granule : Nat := 0) (row : Nat := 0)
  /-- PAGE_REFILL_COMPLETE (R248): The clean copy arrives, poison clears and held accesses are retried. -/
  | pageRefillComplete (p : PartId) (win : Tier) (page : Nat)
  /-- REFILL_TIMEOUT (R249): A refill not complete 10 ms after poisoning releases the held accesses to fault. -/
  | refillTimeout (p : PartId) (win : Tier) (page : Nat)
  /-- PATROL_SCRUB (R246): A patrol read of a frame corrects or reports errors. -/
  | patrolScrub (t : Tier) (frame : Nat) (errors : List RowFound)
  /-- DRAM_ROW_REPAIR (R247): The pool moves a frame's page to a reserve frame and repairs or retires the row. -/
  | dramRowRepair (t : Tier) (frame : Nat) (spareRow : Bool) (granule : Nat := 0) (row : Nat := 0)
  /-- DATA_FLIT_RECEIVE (R260): A data flit is accepted in sequence order, or discarded on CRC or sequence error. -/
  | dataFlitReceive (n : PortId) (flit : List Byte)
  /-- CONTROL_FLIT_RECEIVE (R261): A control flit delivers acks, credits, timestamps and sideband slots. -/
  | controlFlitReceive (n : PortId) (flit : List Byte) (tRx : Word)
  /-- DATA_SLOT (R258): A data slot of a frame is given to its owner, transit or another partition, or carries an idle flit. -/
  | dataSlot (n : PortId) (slot : Nat)
  /-- LANE_FAILURE (R263): A lane loses lock or exceeds its error ratio, and the port begins a fast retrain. -/
  | laneFailure (n : PortId) (lane : Fin 8)
  /-- FAST_RETRAIN_COMPLETE (R263): A fast retrain ends and the port runs on its remaining lanes or enters FAULT. -/
  | fastRetrainComplete (n : PortId) (working : BitVec 8)
  /-- FULL_TRAINING_COMPLETE (R262): A port completes full training and sends IDENT. -/
  | fullTrainingComplete (n : PortId) (working : BitVec 8)
  /-- IDENT (R265): An IDENT sideband message is compared with the link map and sets the discovery result. -/
  | ident (n : PortId)
  /-- ARRIVE (R274): An ARRIVE sideband message combines a subtree into a channel of the barrier tree. -/
  | arrive (n : PortId)
  /-- RELEASE (R274): A RELEASE sideband message carries the release FTC and combined values down the tree. -/
  | release (n : PortId)
  /-- CHANNEL_RELEASE_REACHED (R274): The FTC reaches a channel's release value and the joining instruction completes. -/
  | channelReleaseReached (p : PartId) (ch : Fin 18)
  /-- FAULT (R278): A FAULT sideband message raises SLICE_FAULT and is flooded to other members. -/
  | fault (n : PortId)
  /-- CHANNEL_TIMEOUT (R278): A joined channel does not release within timeout_ms and SLICE_FAULT is raised. -/
  | channelTimeout (p : PartId) (ch : Fin 18)
  /-- DRAIN_ARRIVE (R285): A member's engine arrives on the drain channel when open_old reaches 0. -/
  | drainArrive (p : PartId)
  /-- COLL (R280): A collective message arrives, is combined and forwarded, or resolves MISMATCH on a differing signature. -/
  | coll (n : PortId) (vc : Fin 8)
  /-- ABORT (R280): An ABORT message resolves the collective MISMATCH on the receiving member. -/
  | abort (n : PortId) (vc : Fin 8)
  /-- WRITE (R255): A remote WRITE message writes its payload into the destination partition's view. -/
  | write (n : PortId) (vc : Fin 8)
  /-- READ (R256): A remote READ message is served and answered with a RESP. -/
  | read (n : PortId) (vc : Fin 8)
  /-- RESP (R256): A RESP message completes a remote read into its reserved buffer. -/
  | resp (n : PortId) (vc : Fin 8)
  /-- RINGPASS_STEP (R283): A RINGPASS block fully arrives, is forwarded and optionally posts a step event. -/
  | ringpassStep (p : PartId) (i : Nat)
  /-- COLLECTIVE_RESOLVE (R282): A collective completes, writes its status word and posts its events. -/
  | collectiveResolve (p : PartId) (i : Nat)
  /-- FTC_RATE_ADJUST (R271): After 64 offsets the FTC rate is adjusted, or stepped forward when unlocked, and lock is judged. -/
  | ftcRateAdjust
  /-- FTC_LOCK_LOSS (R272): A module loses its parent or root, runs on its own reference and clears ftc_locked. -/
  | ftcLockLoss
  /-- FTC_PPS_EDGE (R273): The root aligns or slews its FTC to a rising edge of FTC_PPS, or ignores a stray edge. -/
  | ftcPpsEdge (at1 : Word)
  /-- MAILBOX_PICKUP (R315): The maltster picks up an owned command slot and clears own. -/
  | mailboxPickup (p : PartId)
  /-- MAILBOX_BUSY_WRITE (R316): A store to an owned command slot is discarded and sets busy_wr. -/
  | mailboxBusyWrite (p : PartId) (i : Fin 16) (w : Fin 16) (v : Word)
  /-- IDENTITY (R318): Returns the ordering code, stepping, firmware, Numerics Level and module identity. -/
  | identity (k : Nat)
  /-- STAGE_OPEN (R322): Opens an installer or partition stage set. -/
  | stageOpen (k : Nat)
  /-- STAGE_WRITE (R321): Adds items to an open stage set. -/
  | stageWrite (k : Nat)
  /-- STAGE_CHECK (R323): Runs the consistency rules against the merged set. -/
  | stageCheck (k : Nat)
  /-- STAGE_COMMIT (R324): Commits a checked set now, at an FTC value or at a gyle, arming it when not now. -/
  | stageCommit (k : Nat)
  /-- STAGE_ABORT (R327): Discards an open, checked or armed set until its last moment. -/
  | stageAbort (k : Nat)
  /-- COMMIT_INSTANT (R325): At the commit instant the set is rechecked and every item changes in one cycle. -/
  | commitInstant (scope : Option PartId)
  /-- STAGE_SET_LAPSE (R322): An open or checked set receiving no command for 600 s is discarded. -/
  | stageSetLapse (scope : Option PartId)
  /-- PAGE_MAP (R230): Maps zeroed pages into the partition's window, optionally pinned. -/
  | pageMap (k : Nat)
  /-- PAGE_UNMAP (R230): Unmaps pages or every page of an object. -/
  | pageUnmap (k : Nat)
  /-- PAGE_ATTR (R318): Sets pin and source attributes of every page of an object. -/
  | pageAttr (k : Nat)
  /-- POOL_QUERY (R318): Returns page counts of an object or the partition. -/
  | poolQuery (k : Nat)
  /-- SLICE_FORM_PREPARE (R319): Checks the local formation conditions and records the request under its token. -/
  | sliceFormPrepare (k : Nat)
  /-- SLICE_FORM_COMMIT (R319): Schedules formation at an FTC value at least 200 µs after pickup. -/
  | sliceFormCommit (k : Nat)
  /-- SLICE_FORM_CANCEL (R319): Discards a formation preparation. -/
  | sliceFormCancel (k : Nat)
  /-- FORMATION_INSTANT (R319): At the instant each member writes its slice registers and arrives on the drain channel with a formation ARRIVE. -/
  | formationInstant (p : PartId)
  /-- FORMATION_RELEASE (R319): The formation release forms the slice or restores the registers with an error. -/
  | formationRelease (p : PartId)
  /-- FORMATION_TIMEOUT (R319): No formation release within timeout_ms restores the registers and answers TIMEOUT. -/
  | formationTimeout (p : PartId)
  /-- PREPARATION_LAPSE (R319): A formation preparation lapses 10 s after its answer without a COMMIT. -/
  | preparationLapse (p : PartId)
  /-- SLICE_DISSOLVE (R320): Dissolves the slice at an FTC value, or at once after a fault. -/
  | sliceDissolve (k : Nat)
  /-- DISSOLUTION_INSTANT (R297): At the instant, channels are cancelled, collectives aborted and the slice registers cleared. -/
  | dissolutionInstant (p : PartId)
  /-- DRAW (R306): Requests a draw snapshot, held while another snapshot copies. -/
  | draw (k : Nat)
  /-- PORT_TRAIN (R263): Runs full training of a port that no slice uses. -/
  | portTrain (k : Nat)
  /-- ATTEST (R343): Writes a signed 512-byte quote of the measurements. -/
  | attest (k : Nat)
  /-- SIGNED (R334): Checks a signed blob and runs its inner command with the signer's role. -/
  | signed (k : Nat)
  /-- KEY_ROTATION (R335): A key-rotation blob programs the next installer key slot. -/
  | keyRotation (k : Nat)
  /-- FW_INSTALL (R339): Checks a firmware image and writes it to flash. -/
  | fwInstall (k : Nat)
  /-- AUDIT_READ (R346): Copies audit entries and advances the read mark. -/
  | auditRead (k : Nat)
  /-- DIAG_OPEN (R347): Opens a diagnostic session of a scope and duration. -/
  | diagOpen (k : Nat)
  /-- DIAG_EXPIRY (R347): A diagnostic session ends at its expiry. -/
  | diagExpiry
  /-- FUSE_PROGRAM (R333): Programs fuse fields while manufacturing is open. -/
  | fuseProgram (k : Nat)
  /-- TEL_READ (R367): Writes a counter set, read in one cycle, to a buffer. -/
  | telRead (k : Nat)
  /-- MGT_DATAGRAM (R317): A UDP datagram to port 17,440 carries a command slot and is answered within 20 ms. -/
  | mgtDatagram (data : List Byte) (src : BitVec 128) (port : BitVec 16) (dst : BitVec 128 := 0) (dport : BitVec 16 := 17440) (udp : Bool := true)
  /-- HEARTBEAT (R308): A management-controller heartbeat request is answered; errors corrected in maltster memory since the last. -/
  | heartbeat (corrected : Nat := 0)
  /-- AUDIT_SEAL (R345): After 1,024 entries or 60 s a seal entry signs the chain. -/
  | auditSeal
  /-- WATCHDOG_EXPIRY (R308): The watchdog expires 50 ms after the last service and restarts the maltster. -/
  | watchdogExpiry
  /-- MALTSTER_RESTART (R309): The maltster restarts alone, reloads its image and settles pending commands and commits. -/
  | maltsterRestart
  /-- BOOT (R336): The boot ROM measures, verifies and loads the firmware image and starts the maltster. -/
  | boot
  /-- RECOVERY_DATAGRAM (R337): A recovery-image datagram to port 17,441 is stored and acknowledged; a complete image is checked. -/
  | recoveryDatagram (data : List Byte) (src : BitVec 128) (port : BitVec 16 := 17441) (dst : BitVec 128 := 0)
  /-- MOD_RESET_ASSERT (R377): MOD_RESET_N held asserted for 10 µs stops all work and switches core rails off. -/
  | modResetAssert
  /-- MOD_RESET_RELEASE (R376): Release of MOD_RESET_N with 48 V in range and no trip latched brings up the core rails. -/
  | modResetRelease
  /-- STANDBY_RESTORE (R376): Standby rail restoration starts the always-on domain and loads kept state. -/
  | standbyRestore
  /-- STANDBY_LOSS (R377): Loss of the standby rail switches every core rail off at once. -/
  | standbyLoss
  /-- INPUT_FAULT (R373): The 48 V input outside 37 to 62 V switches core rails off and records PWR_FAULT. -/
  | inputFault (level : InputLevel)
  /-- SENSOR_SAMPLE (R360): Every 100 µs the sensors are read and compared with their alarm and throttle limits. -/
  | sensorSample (temps : List (Option (BitVec 16)))
  /-- THERMAL_TRIP (R362): A sensor above its trip limit asserts THERM_TRIP_N and switches off every rail except standby. -/
  | thermalTrip (n : Fin 78) (temp : BitVec 16)
  /-- THERMAL_LOOP_STEP (R361): The thermal loop lowers its ACLK limit every 10 µs or raises it every ms. -/
  | thermalLoopStep
  /-- CAP_LOOP_STEP (R352): The cap loop steps ACLK down when power exceeds the cap, or up after 1 ms below it. -/
  | capLoopStep (watts centivolts centiamps : Nat)
  /-- ROW_ADMISSION_STEP (R353): With clocks at minimum and power over the cap, admitted row cycles fall by one eighth every 10 µs. -/
  | rowAdmissionStep (watts centivolts centiamps : Nat)
  /-- CURRENT_LIMIT (R354): Input current above 80 A over 5 µs sets the ACLK limit to 1.20 GHz and sets ilim. -/
  | currentLimit (watts centivolts centiamps : Nat)
  /-- CLOCK_STEP (R349): ACLK moves one 25 MHz step toward its ceiling at the permitted rate. -/
  | clockStep
  /-- POWER_GATE_ENTRY (R355): A unit idle for its period enters its gated state. -/
  | powerGateEntry (x : GatedUnit)
  /-- UNIT_WAKE (R357): A gated unit finishes waking and its waiting work proceeds. -/
  | unitWake (x : GatedUnit)
  /-- BACKGROUND_FORCED (R363): At 7/8 of its period with work left, a background kind becomes forced. -/
  | backgroundForced (b : Background) (left : Bool := true)
  /-- WEAR_SAVE (R365): Every hour the wear counters are saved to flash. -/
  | wearSave
  /-- TRACE_ENTRY (R368): An enabled event writes a trace entry into the partition's ring, or is dropped. -/
  | traceEntry (e : TraceEvent)
  /-- TRACE_ENABLE (R369): A write to TEL_TRACEp sets or clears tracing while en is clear, or is discarded. -/
  | traceEnable (p : PartId) (v : Word)
  /-- SVC_RING_ENABLE (R388): Setting a service-port ring's en checks it and starts polling, or sets ring_err. -/
  | svcRingEnable (p : PartId) (s : SvcId) (recv : Bool) (v : Word)
  /-- SVC_RING_DISABLE (R388): Clearing a service-port ring's en resolves picked-up entries ABORTED. -/
  | svcRingDisable (p : PartId) (s : SvcId) (recv : Bool) (v : Word)
  /-- SEND (R388): Work entry that sends a RoCEv2 message. -/
  | send (p : PartId) (s : SvcId)
  /-- SEND_WITH_IMMEDIATE (R388): Work entry that sends a RoCEv2 message with immediate data. -/
  | sendWithImmediate (p : PartId) (s : SvcId)
  /-- RDMA_WRITE (R388): Work entry that writes to a remote buffer. -/
  | rdmaWrite (p : PartId) (s : SvcId)
  /-- RDMA_WRITE_WITH_IMMEDIATE (R388): Work entry that writes to a remote buffer with immediate data. -/
  | rdmaWriteWithImmediate (p : PartId) (s : SvcId)
  /-- RDMA_READ (R388): Work entry that reads a remote buffer. -/
  | rdmaRead (p : PartId) (s : SvcId)
  /-- UDP (R388): Work entry that sends a plain UDP datagram. -/
  | udp (p : PartId) (s : SvcId)
  /-- WORK_ENTRY_COMPLETE (R388): A work entry completes, writes its status and posts its events. -/
  | workEntryComplete (p : PartId) (s : SvcId) (i : Nat) (res : WorkResult)
  /-- SERVICE_PACKET_RECEIVE (R388): An incoming RoCEv2 request or datagram fills a receive entry or is refused with a NAK. -/
  | servicePacketReceive (s : SvcId) (m : ServicePacket)
  /-- FRU_READ (R385): An I2C read at target 0x50 returns FRU data. -/
  | fruRead (off : BitVec 16) (count : Nat)
  /-- BYPASS (R386): JTAG instruction selecting the bypass register. -/
  | bypass
  /-- IDCODE (R386): JTAG instruction reading 0x1A41_C0B5. -/
  | idcode
  /-- SAMPLE_PRELOAD (R386): JTAG instruction sampling or preloading the boundary cells. -/
  | samplePreload (pins : List Bool) (load : List Bool)
  /-- EXTEST (R386): JTAG instruction driving pins from the chain while MOD_RESET_N is asserted. -/
  | extest (drive : List Bool)
  /-- CLAMP (R386): JTAG instruction holding pins while bypass is selected, under reset only. -/
  | clamp
  /-- HIGHZ (R386): JTAG instruction floating outputs while MOD_RESET_N is asserted. -/
  | highz
  /-- PARTNER_FIRST_SIGNAL (R262): A partner's first signal on a port starts full training, which takes a DOWN, OFF or unused port into TRAINING. -/
  | partnerFirstSignal (n : PortId)
  /-- REPLICA_CHECK_COMPLETE (R207): A replica check finishes its last block, clears busy, posts its event to the clusters in cmask and sets RK_IRQp.chk. -/
  | replicaCheckComplete (p : PartId)
  /-- HOST_ACCESS (R331): A host load or store to scratchpad, page or other address is checked against view, ownership, protection, poison and residency. -/
  | hostAccess (p : PartId) (a : BitVec 48) (width : Nat) (store : Option Word) (found : Found := .clean) (row : Nat := 0)
  /-- REGISTER_READ_CLEAR (R5): A read of a register holding RC fields returns their value and then clears them. -/
  | registerReadClear (who : Agent) (a : BitVec 48)
  /-- PAGE_AGE_SAMPLE (R231): Every 1 ms the pool advances each page's age since its last access, saturating at 65,535. -/
  | pageAgeSample
  /-- MGT_LINK_CHANGE (R384): The management port's link and RS-FEC alignment are gained or lost, and MGT_STATUS.link and fec_lock follow. -/
  | mgtLinkChange (link fec : Bool) (routerPrefix : Option (BitVec 64))
  deriving DecidableEq, Repr

end Sys2Proof
end

