-- ==== Sys2Proof/Decode.lean ====
section
/-! DEFINITION. The commands a word of the manual's table spells. The table of operations and events gives no row any bits: a command
is an event or an access, not a word. The words of the block's own instructions are read by Machine/Operands.lean. -/

namespace Sys2Proof

/-- No row of the table has bits, so no word spells a command. -/
def decodeTableWord (_nbits _w : Nat) : Option Instr := none

end Sys2Proof
end

