-- ==== Sys2Proof/Config.lean ====
section
/-! DEFINITION. What the manual leaves to the device or leaves open. Every opaque constant here is a FREE VALUE: it has no
body, so no proof can see a value of it. The log entry that introduces each is named in its docstring. -/

namespace Sys2Proof.Config

/-- A free 64-bit value, numbered by the state's counter of free values (log entry 1). -/
opaque freeWord : Nat → BitVec 64

/-- A free byte, numbered likewise (log entry 1). -/
opaque freeByte : Nat → BitVec 8

/-- A free choice, numbered likewise (log entry 1). -/
opaque freeBit : Nat → Bool

/-- The number of cycles, events or ticks of something whose timing the model leaves out (log entry 1). -/
opaque freeCount : Nat → Nat

/-- The 16-byte module serial number (R334, Table 16.10): fixed at manufacture (log entry 8). -/
opaque serial : BitVec 128

/-- The fuse field maker_hash, programmed at manufacture (R333; log entry 8). -/
opaque makerHash : BitVec 256

/-- The fuse field inst_hash0, programmed at manufacture to the buyer's key (R333; log entry 8). -/
opaque installerHash : BitVec 256

/-- The fuse field id_secret (R333; log entry 8). -/
opaque idSecret : BitVec 256

/-- The digest of the boot ROM, SEC_MEAS0 (R336; log entry 8). -/
opaque romDigest : BitVec 256

/-- The digest D of the firmware image the module is delivered with (R336; log entry 8). -/
opaque factoryDigest : BitVec 256

/-- The maker signature of the delivered image (log entry 8). -/
opaque factorySignature : BitVec 512

/-- The public key under which the ROM verifies an image's maker signature: the manual does not say where the ROM takes it from, and
maker_hash is all that it must match (R336; log entry 9). -/
opaque imageKey : (digest : BitVec 256) → (sig : BitVec 512) → BitVec 512

/-- The bytes of the host boot loader section of an image, by the image's digest D: the manual does not give the section
table's layout (R340, Table 14.6; log entry 9). -/
opaque bootLoader : (digest : BitVec 256) → List (BitVec 8)

/-- The manufacture date of Table 16.10 (log entry 8). -/
opaque manufactureDate : BitVec 32

/-- The maker's signature over serial and identity public key (Table 16.10; log entry 8). -/
opaque makerCertificate : BitVec 512

/-- The random number of an SM2 signature (GB/T 32918.2), by signature count (R343; log entry 1). -/
opaque sm2Nonce : Nat → Nat

/-- The fine digital offsets of a lane's training, not modelled: the delay asymmetry of a port (R262, R271; log entry 1). -/
opaque asym : Nat → Int

/-- The bytes of the FRU data that Table 16.10 does not name (R385; log entry 9). -/
opaque fruByte : (offset : Nat) → BitVec 8

/-- The coordinates of each module number, packed as FAB_COORD.coord: the table the management controller loads into the
fabric buffers, for which the manual gives no interface (R265; log entry 13). -/
opaque moduleCoord : (moduleNumber : Nat) → BitVec 25

/-- The coordinates of the time root, which every module needs to choose its parent (R270); the manual does not say where a
module holds them (log entry 13). -/
opaque rootCoord : BitVec 25

/-- Whether some intermediate module of the installation route to a destination forbids transit (R268): state of other
modules (log entry 13). -/
opaque transitRefused : (dst : Nat) → Bool

/-- Whether a peer's buddy region takes a snapshot: enabled, its source this module, large enough (R244): state of another
module (log entry 13). -/
opaque buddyAccepts : (target addr source pages : Nat) → Bool

/-- The partition of a peer whose buddy region begins at a snapshot's target address (R244): state of another module (log entry 13). -/
opaque buddyPart : (target addr source : Nat) → BitVec 2

/-- The signature field sig of a collective's descriptor fields: the manual names it and gives no formula (R280; log entry 9). -/
opaque collSignature : (op fmt pfmt axes count root : Nat) → BitVec 32

/-- Payload bytes less one of a packet of a QP whose path MTU code is none of 1, 2, 3 (R388; log entry 22). -/
opaque oddMtu : (code : Nat) → Nat

/-- The MAC address of a service port, derived from the serial in a way the manual does not give (R387; log entry 9). -/
opaque macAddress : (serial : BitVec 128) → (port : Nat) → BitVec 48

/-- The digest of the fuse measurement, SEC_MEAS7, over every fuse field but id_secret: the manual does not give the bytes it is
taken over (R342; log entry 9). The small fields are inst_valid, debug_lock, rights and mfg_closed. -/
opaque fuseDigest : (makerHash : BitVec 256) → (instHash : List (BitVec 256)) → (rollback : BitVec 64) → (small : List Nat) → BitVec 256

/-- The fuse bits that the inner command of a fuse-programming blob blows, by field of Table 14.3 in order: maker_hash,
inst_hash0 to inst_hash3, inst_valid, id_secret, rollback, debug_lock, rights, mfg_closed. The manual does not give the inner
command's layout (R333; log entry 9). -/
opaque fuseBits : (inner : List Nat) → (field : Nat) → BitVec 256

/-- The event codes of audit entries of role 3: the manual gives none (R344; log entry 9). -/
opaque eventCode : (event : Nat) → BitVec 8

/-- prog_digest of a partition's gyle, which the run-time supplies in a way the manual does not give (Table 12.5; log entry 93). -/
opaque progDigest : (partition gyle : Nat) → BitVec 256

/-- input_digest of a partition's gyle, which the run-time supplies (Table 12.5; log entry 93). -/
opaque inputDigest : (partition gyle : Nat) → BitVec 256

/-- The header digests, by layer identity and block, of the blocks that other members of the partition's slice own (Table 12.5; log entry
93). -/
opaque otherBlocks : (partition gyle : Nat) → List ((Nat × Nat) × BitVec 256)

end Sys2Proof.Config
end

