-- ==== Sys2Proof/Machine/Num.lean ====
section
/-! DEFINITION. Floating-point values and their one rounding: the encodings of Table 5.1 (R107, R108), the conversions of
Table 5.2 (R109), round to nearest even (R106) and stochastic rounding (R111), on exact dyadic numbers. -/

namespace Sys2Proof.Machine

/-- An exact value: NaN, a signed infinity, or (-1)^s x m x 2^e with its sign kept at zero (R107, R109). -/
inductive Val where
  | nan
  | inf (s : Bool)
  | fin (s : Bool) (m : Nat) (e : Int)
  deriving DecidableEq, Repr

/-- A floating-point format of Table 5.1: fraction and exponent widths, bias, code of the largest finite magnitude,
whether a finite overflow saturates (Table 5.2), canonical NaN. -/
structure FpFmt where
  fb : Nat
  eb : Nat
  bias : Nat
  maxFin : Nat
  sat : Bool
  nan : Nat
  deriving DecidableEq, Repr

/-- FP32 (Table 5.1). -/
def fp32 : FpFmt := ⟨23, 8, 127, 0x7F7FFFFF, false, 0x7FC00000⟩
/-- BF16 (Table 5.1). -/
def bf16 : FpFmt := ⟨7, 8, 127, 0x7F7F, false, 0x7FC0⟩
/-- FP16 (Table 5.1). -/
def fp16 : FpFmt := ⟨10, 5, 15, 0x7BFF, false, 0x7E00⟩
/-- FP8 E4M3 (Table 5.1, R108). -/
def e4m3 : FpFmt := ⟨3, 4, 7, 0x7E, true, 0x7F⟩
/-- FP8 E5M2 (Table 5.1, R108). -/
def e5m2 : FpFmt := ⟨2, 5, 15, 0x7B, true, 0x7E⟩

/-- The floating-point format of an element format code (R42). -/
def fpOf (fmt : Nat) : Option FpFmt :=
  if fmt = 0 then some fp32 else if fmt = 1 then some bf16 else if fmt = 2 then some fp16
  else if fmt = 3 then some e4m3 else if fmt = 4 then some e5m2 else none

/-- The bit of the sign. -/
def FpFmt.signBit (f : FpFmt) : Nat := 2 ^ (f.fb + f.eb)

/-- The exponent of the smallest subnormal. -/
def FpFmt.qmin (f : FpFmt) : Int := 1 - (f.bias : Int) - (f.fb : Int)

/-- 2^n for an integer n that is at least 0, and 1 below. -/
def pow2 (n : Int) : Nat := 2 ^ n.toNat

/-- The value of an encoding (R107, R108). -/
def FpFmt.decode (f : FpFmt) (c : Nat) : Val :=
  let s := c / f.signBit % 2 == 1
  let a := c % f.signBit
  let x := a / 2 ^ f.fb
  let m := a % 2 ^ f.fb
  if a > f.maxFin then
    if f.fb = 3 then .nan else if m = 0 then .inf s else .nan
  else if x = 0 then .fin s m f.qmin
  else .fin s (m + 2 ^ f.fb) (f.qmin + (x : Int) - 1)

/-- floor(m x 2^k) of a natural number. -/
def shiftFloor (m : Nat) (k : Int) : Nat := if 0 ≤ k then m * pow2 k else m / pow2 (-k)

/-- round_half_even(m x 2^k) of a natural number (R84). -/
def shiftHalfEven (m : Nat) (k : Int) : Nat :=
  if 0 ≤ k then m * pow2 k
  else
    let d := pow2 (-k)
    let n := m / d
    let r := m % d
    if 2 * r > d ∨ (2 * r = d ∧ n % 2 = 1) then n + 1 else n

/-- round_half_even(m x 2^k) of an integer. -/
def intShiftHalfEven (m : Int) (k : Int) : Int :=
  if m < 0 then -(shiftHalfEven m.natAbs k : Int) else (shiftHalfEven m.natAbs k : Int)

/-- floor(log2 m) of m x 2^e, for m > 0 (R87). -/
def expOf (m : Nat) (e : Int) : Int := (Nat.log2 m : Int) + e

/-- The exponent of the unit in the last place of m x 2^e in format f (R107: subnormals are not flushed). -/
def FpFmt.ulpExp (f : FpFmt) (m : Nat) (e : Int) : Int := max (expOf m e - (f.fb : Int)) f.qmin

/-- The code of n x 2^q in format f before any range check, for n at most 2^(fb+1) and q the unit in the last place. -/
def FpFmt.codeOf (f : FpFmt) (n : Nat) (q : Int) : Nat := (q - f.qmin).toNat * 2 ^ f.fb + n

/-- The infinity of format f with sign s; E4M3 has none and gives its NaN (Table 5.2). -/
def FpFmt.infCode (f : FpFmt) (s : Bool) : Nat :=
  if f.fb = 3 then f.nan else b2n s * f.signBit + (f.maxFin + 1)

/-- The code of a finite magnitude code a with sign s under the range rule of Table 5.2, and whether it overflowed to an
infinity. -/
def FpFmt.finish (f : FpFmt) (s : Bool) (a : Nat) : Nat × Bool :=
  if a ≤ f.maxFin then (b2n s * f.signBit + a, false)
  else if f.sat then (b2n s * f.signBit + f.maxFin, false)
  else (f.infCode s, true)

/-- Rounds a finite value once to nearest even: its code and whether a finite value became infinite (R106, R109, R110). -/
def FpFmt.roundFin (f : FpFmt) (s : Bool) (m : Nat) (e : Int) : Nat × Bool :=
  if m = 0 then (b2n s * f.signBit, false)
  else
    let q := f.ulpExp m e
    f.finish s (f.codeOf (shiftHalfEven m (e - q)) q)

/-- The conversion of a value to nearest even (R106, R109, Table 5.2): the code, and whether a finite source became an
infinity. -/
def FpFmt.round (f : FpFmt) (v : Val) : Nat × Bool :=
  match v with
  | .nan => (f.nan, false)
  | .inf s => (f.infCode s, false)
  | .fin s m e => f.roundFin s m e

/-- The code of a value rounded to nearest even. -/
def FpFmt.enc (f : FpFmt) (v : Val) : Nat := (f.round v).1

/-- Stochastic rounding of a finite value with the 32-bit draw u (R111); beyond the largest finite value the result is that
of Table 5.2. -/
def FpFmt.stochFin (f : FpFmt) (s : Bool) (m : Nat) (e : Int) (u : Nat) : Nat × Bool :=
  if m = 0 then (b2n s * f.signBit, false)
  else
    let q := f.ulpExp m e
    let lo := shiftFloor m (e - q)
    let d := shiftFloor m (e - q + 32) - lo * 2 ^ 32
    let exact := 0 ≤ e - q ∨ m % pow2 (q - e) = 0
    let a := f.codeOf lo q
    if exact then f.finish s a
    else if a < f.maxFin then f.finish s (if u < d then a + 1 else a)
    else f.roundFin s m e

/-- Stochastic conversion of a value (R109, R111). -/
def FpFmt.stoch (f : FpFmt) (v : Val) (u : Nat) : Nat × Bool :=
  match v with
  | .nan => (f.nan, false)
  | .inf s => (f.infCode s, false)
  | .fin s m e => f.stochFin s m e u

/-- Rounding toward zero of a finite non-negative value (Table 7.2, UNIFORM). -/
def FpFmt.truncFin (f : FpFmt) (m : Nat) (e : Int) : Nat :=
  if m = 0 then 0
  else
    let q := f.ulpExp m e
    f.codeOf (shiftFloor m (e - q)) q

/-- The value of an integer times a power of two; zero is +0. -/
def Val.ofInt (n : Int) (e : Int) : Val := .fin (decide (n < 0)) n.natAbs e

/-- v x 2^k exactly. -/
def Val.scale (v : Val) (k : Int) : Val :=
  match v with
  | .fin s m e => .fin s m (e + k)
  | w => w

/-- The sign of a value; false for NaN. -/
def Val.neg? : Val → Bool
  | .nan => false
  | .inf s => s
  | .fin s _ _ => s

/-- -v. -/
def Val.negate : Val → Val
  | .nan => .nan
  | .inf s => .inf (!s)
  | .fin s m e => .fin (!s) m e

/-- The value is a finite number. -/
def Val.isFin : Val → Bool
  | .fin _ _ _ => true
  | _ => false

/-- The value is NaN. -/
def Val.isNan : Val → Bool
  | .nan => true
  | _ => false

/-- The signed integer (-1)^s m. -/
def sgn (s : Bool) (m : Nat) : Int := if s then -(m : Int) else (m : Int)

/-- The integer n such that the finite value is n x 2^k, for k at most its exponent. -/
def alignTo (s : Bool) (m : Nat) (e k : Int) : Int := sgn s (m * pow2 (e - k))

/-- The exact product (R84, R173); 0 x infinity is NaN. -/
def Val.mul (x y : Val) : Val :=
  match x, y with
  | .nan, _ => .nan
  | _, .nan => .nan
  | .inf a, .inf b => .inf (xor a b)
  | .inf a, .fin b m _ => if m = 0 then .nan else .inf (xor a b)
  | .fin a m _, .inf b => if m = 0 then .nan else .inf (xor a b)
  | .fin a m e, .fin b n k => .fin (xor a b) (m * n) (e + k)

/-- The exact sum under round to nearest (R106, R173): an exact zero is +0 unless both terms are -0. -/
def Val.add (x y : Val) : Val :=
  match x, y with
  | .nan, _ => .nan
  | _, .nan => .nan
  | .inf a, .inf b => if a = b then .inf a else .nan
  | .inf a, .fin _ _ _ => .inf a
  | .fin _ _ _, .inf b => .inf b
  | .fin a m e, .fin b n k =>
    let q := min e k
    let t := alignTo a m e q + alignTo b n k q
    if t = 0 then .fin (a && b) 0 q else Val.ofInt t q

/-- x - y exactly. -/
def Val.sub (x y : Val) : Val := x.add y.negate

/-- Compares two values that are not NaN: -1, 0 or 1; +0 and -0 are equal. -/
def Val.cmp (x y : Val) : Int :=
  match x, y with
  | .inf a, .inf b => if a = b then 0 else if a then -1 else 1
  | .inf a, _ => if a then -1 else 1
  | _, .inf b => if b then 1 else -1
  | .fin a m e, .fin b n k =>
    let q := min e k
    let t := alignTo a m e q - alignTo b n k q
    if t < 0 then -1 else if t = 0 then 0 else 1
  | _, _ => 0

/-- x < y for values that are not NaN. -/
def Val.lt (x y : Val) : Bool := decide (x.cmp y < 0)

/-- x = 0 for a finite value. -/
def Val.isZero : Val → Bool
  | .fin _ m _ => m == 0
  | _ => false

/-- e(x) of R87: floor(log2 |x|) of a finite nonzero value, -2,048 for zero, none for a non-finite value. -/
def Val.expo : Val → Option Int
  | .fin _ m e => some (if m = 0 then -2048 else expOf m e)
  | _ => none

/-- fl(v): rounds to binary32 and reads the result back (R106, R129). -/
def fl32 (v : Val) : Val := fp32.decode (fp32.enc v)

/-- The value of a binary32 encoding. -/
def f32 (c : Nat) : Val := fp32.decode c

/-- Zero. -/
def Val.zero : Val := .fin false 0 0

/-- One. -/
def Val.one : Val := .fin false 1 0

/-- One bit more below n that says whether something was lost: a value strictly between n and n + 1 units rounds as this
does, when the unit is finer than half the target's unit in the last place. -/
def sticky (n : Nat) (lost : Bool) : Nat := 2 * n + b2n lost

/-- floor(sqrt n), by k steps of bitwise search from bit k - 1. -/
def isqrtFrom : Nat → Nat → Nat → Nat
  | 0, r, _ => r
  | k + 1, r, n => isqrtFrom k (if (r + 2 ^ k) * (r + 2 ^ k) ≤ n then r + 2 ^ k else r) n

/-- floor(sqrt n). -/
def isqrt (n : Nat) : Nat := isqrtFrom (Nat.log2 n / 2 + 1) 0 n

/-- x / y of finite values with y nonzero, to at least g bits past the leading one, with a sticky bit. -/
def divSticky (x y : Val) (g : Nat) : Val :=
  match x, y with
  | .fin a m e, .fin b n k =>
    if m = 0 then .fin (xor a b) 0 0
    else
      let h := g + Nat.log2 n + 2
      let num := m * 2 ^ h
      .fin (xor a b) (sticky (num / n) (num % n != 0)) (e - k - h - 1)
  | _, _ => .nan

/-- The exact quotient of IEEE 754 ready for one rounding: x / y with a sticky bit (R106). -/
def Val.div (x y : Val) : Val :=
  match x, y with
  | .nan, _ => .nan
  | _, .nan => .nan
  | .inf _, .inf _ => .nan
  | .inf a, .fin b _ _ => .inf (xor a b)
  | .fin a _ _, .inf b => .fin (xor a b) 0 0
  | .fin a m e, .fin b n k =>
    if n = 0 then (if m = 0 then .nan else .inf (xor a b)) else divSticky (.fin a m e) (.fin b n k) 200

/-- The square root ready for one rounding (R106): of -0 it is -0, of a negative value NaN. -/
def Val.sqrt (x : Val) : Val :=
  match x with
  | .nan => .nan
  | .inf s => if s then .nan else .inf false
  | .fin s m e =>
    if m = 0 then .fin s 0 0
    else if s then .nan
    else
      let h : Int := if e % 2 = 0 then 400 else 401
      let n := m * pow2 h
      let r := isqrt n
      .fin false (sticky r (r * r != n)) ((e - h) / 2 - 1)

/-- The minimum operation of IEEE 754-2019: NaN from either, -0 less than +0 (R173). -/
def Val.min (x y : Val) : Val :=
  if x.isNan || y.isNan then .nan
  else if x.cmp y < 0 then x else if x.cmp y = 0 then (if x.neg? then x else y) else y

/-- The maximum operation of IEEE 754-2019 (R173). -/
def Val.max (x y : Val) : Val :=
  if x.isNan || y.isNan then .nan
  else if x.cmp y < 0 then y else if x.cmp y = 0 then (if x.neg? then y else x) else x

/-- The smallest FP16 value at least a finite non-negative value (R117), as a code; an infinity when none is finite. -/
def roundupFp16 (m : Nat) (e : Int) : Nat :=
  if m = 0 then 0
  else
    let q := fp16.ulpExp m e
    let n := shiftFloor m (e - q)
    let a := fp16.codeOf n q
    let exact := decide (0 ≤ e - q) || m % pow2 (q - e) == 0
    let b := if exact then a else a + 1
    if b ≤ fp16.maxFin then b else fp16.infCode false

/-- y >= scale x 2^((c - 255.5) / 8), compared exactly through sixteenth powers (R117), for y > 0 and scale > 0 finite. -/
def q8lReaches (ym : Nat) (ye : Int) (sm : Nat) (se : Int) (c : Nat) : Bool :=
  let k := 16 * (ye - se) - (2 * (c : Int) - 511)
  if 0 ≤ k then decide (sm ^ 16 ≤ ym ^ 16 * pow2 k) else decide (sm ^ 16 * pow2 (-k) ≤ ym ^ 16)

/-- The largest code c in 1..n that y reaches, or 0 (R117). -/
def q8lCode (ym : Nat) (ye : Int) (sm : Nat) (se : Int) : Nat → Nat
  | 0 => 0
  | c + 1 => if q8lReaches ym ye sm se (c + 1) then c + 1 else q8lCode ym ye sm se c

/-- The binary32 value nearest 2^(j/8), as an integer times 2^-23 (R118). -/
def q8lQ (j : Nat) : Nat :=
  match j with
  | 0 => 8388608 | 1 => 9147842 | 2 => 9975792 | 3 => 10878679
  | 4 => 11863283 | 5 => 12937002 | 6 => 14107901 | _ => 15384775

/-- The value of a Q8L code in a block with scale code v and descriptor scale s (R118). -/
def q8lDecode (c v : Nat) (s : Int) : Val :=
  match fp16.decode v with
  | .nan => .nan
  | w =>
    if c = 0 then .zero
    else
      let t : Int := (c : Int) - 255
      let j := (t % 8).toNat
      let k := t / 8
      fl32 ((fl32 (w.mul (.fin false (q8lQ j) (-23)))).scale (k + s))

/-- Encodes a block of values already divided by 2^s: the scale code, the codes, and whether the block is non-finite (R117). -/
def q8lEncode (ys : List Val) : Nat × List Nat × Bool :=
  let m := ys.foldl (fun a y => if y.isFin && a.lt y then y else a) Val.zero
  let sc := match m with | .fin false n e => roundupFp16 n e | _ => 0
  if ys.any (fun y => !y.isFin) || sc > fp16.maxFin then (0x7E00, ys.map (fun _ => 0xFF), true)
  else
    match fp16.decode sc with
    | .fin _ sm se =>
      (sc, ys.map (fun y => match y with
        | .fin false n e => if n = 0 || sm = 0 then 0 else q8lCode n e sm se 255
        | _ => 0), false)
    | _ => (sc, ys.map (fun _ => 0), false)

/-- u(w) of R119 as an exponent: 2^(e(w) - 7) for normal weights, 2^-133 otherwise. -/
def leesUnit (m : Nat) (e : Int) : Int := if m = 0 then -133 else max (expOf m e - 7) (-133)

/-- The value a BF16 weight code and a lees value stand for (R119). -/
def leesValue (w : Nat) (l : Int) : Val :=
  match bf16.decode w with
  | .fin s m e =>
    (Val.fin s m e).add (Val.ofInt l (leesUnit m e - 16)) 
  | v => v

/-- BF16, to nearest with ties toward +infinity (R120), of a finite value. -/
def bf16TiesUp (s : Bool) (m : Nat) (e : Int) : Nat :=
  if m = 0 then b2n s * bf16.signBit
  else
    let q := bf16.ulpExp m e
    let d := e - q
    let n := shiftFloor m d
    let up :=
      if 0 ≤ d then false
      else
        let r := m % pow2 (-d)
        decide (2 * r > pow2 (-d)) || (decide (2 * r = pow2 (-d)) && !s)
    (bf16.finish s (bf16.codeOf (n + b2n up) q)).1

/-- The split of R120: the BF16 weight code and the lees value. -/
def leesSplit (v : Val) : Nat × Int :=
  match v with
  | .fin s m e =>
    let w := bf16TiesUp s m e
    match bf16.decode w with
    | .fin ws wm we =>
      let q := min e we
      let t := alignTo s m e q - alignTo ws wm we q
      (w, min (intShiftHalfEven t (q + 16 - leesUnit wm we)) 32767)
    | _ => (w, 0)
  | x => (bf16.enc x, 0)

/-- The size of an element in bytes (R42); none for a reserved code. -/
def fmtSize (fmt : Nat) : Option Nat :=
  if fmt = 0x00 then some 4 else if fmt = 0x01 then some 2 else if fmt = 0x02 then some 2
  else if fmt = 0x03 then some 1 else if fmt = 0x04 then some 1 else if fmt = 0x08 then some 8
  else if fmt = 0x09 then some 4 else if fmt = 0x0A then some 1 else if fmt = 0x0B then some 2
  else if fmt = 0x10 then some 4 else if fmt = 0x11 then some 8 else none

end Sys2Proof.Machine
end

