-- ==== Sys2Proof/Machine/Regs.lean ====
section
/-! DEFINITION. The register map of the module: every control register the field tables of the manual give
(Tables 2.2 to 16.13), its address (Tables 13.1 and 13.2 with each chapter's offsets), and its fields with their bits,
access code, reset value and reset domain (Table 0.2, R5, R11). -/

namespace Sys2Proof.Machine

/-- The access codes of Table 0.2 (R5). -/
inductive Access where
  | ro | rw | wo | w1c | w1s | rc
  deriving DecidableEq, Repr

/-- Which reset a field follows (R11): MOD_RESET_N, the always-on domain ("kept"), or the repair record, which every
later power-up applies (R74, R225, R247). -/
inductive Domain where
  | core | kept | repair
  deriving DecidableEq, Repr

/-- Whether a field is a stage-set item, and of which scope (R314, R321). -/
inductive StageScope where
  | none | installer | partition
  deriving DecidableEq, Repr

/-- One field of a register. -/
structure FieldDef where
  lo : Nat
  width : Nat
  acc : Access
  reset : Nat
  dom : Domain
  stage : StageScope
  deriving DecidableEq, Repr

/-- The registers, named as the manual names them; the arguments are the manual's indices (cluster c, partition p,
port or unit n, slot s, bank b, word w). -/
inductive Reg where
  /-- MC_SEQ_CTRL, Table 2.3. -/
  | mcSeqCtrl (c : Nat)
  /-- MC_SEQ_STATUS, Table 2.4. -/
  | mcSeqStatus (c : Nat)
  /-- MC_SEQ_BASE, Table 2.5. -/
  | mcSeqBase (c : Nat)
  /-- MC_SEQ_LEN, Table 2.5. -/
  | mcSeqLen (c : Nat)
  /-- MC_SEQ_PC, Table 2.5. -/
  | mcSeqPc (c : Nat)
  /-- MC_SEQ_FAULT, Table 2.5. -/
  | mcSeqFault (c : Nat)
  /-- MC_SEQ_IRQ, Table 2.6. -/
  | mcSeqIrq (c : Nat)
  /-- MC_SEQ_IRQ_EN, Table 2.6. -/
  | mcSeqIrqEn (c : Nat)
  /-- MC_DWQ_STATUS, Table 2.21. -/
  | mcDwqStatus (c : Nat)
  /-- MC_LEND, Table 2.22. -/
  | mcLend (c : Nat)
  /-- MC_RNG_SEED, Table 2.7. -/
  | mcRngSeed (c : Nat)
  /-- MC_GYLE, Table 2.7. -/
  | mcGyle (c : Nat)
  /-- MC_Gn, Table 2.7. -/
  | mcG (c : Nat) (n : Nat)
  /-- MC_EVTn, Table 2.7. -/
  | mcEvt (c : Nat) (n : Nat)
  /-- MC_ANCHORn, Table 2.19. -/
  | mcAnchor (c : Nat) (n : Nat)
  /-- MC_TDESCs word 0, Table 2.18. -/
  | mcTdesc0 (c : Nat) (s : Nat)
  /-- MC_TDESCs word 1, Table 2.18. -/
  | mcTdesc1 (c : Nat) (s : Nat)
  /-- MC_TDESCs word 2, Table 2.18. -/
  | mcTdesc2 (c : Nat) (s : Nat)
  /-- MC_TDESCs word 3, Table 2.18. -/
  | mcTdesc3 (c : Nat) (s : Nat)
  /-- MC_DPU_MAP, Table 3.5. -/
  | mcDpuMap (c : Nat)
  /-- MC_ROUSE_CFG, Table 3.6. -/
  | mcRouseCfg (c : Nat)
  /-- MC_ARR_STATUS, Table 3.6. -/
  | mcArrStatus (c : Nat)
  /-- MC_ARR_BUSY, Table 3.7. -/
  | mcArrBusy (c : Nat)
  /-- MC_ARR_STALL_LOAD, Table 3.7. -/
  | mcArrStallLoad (c : Nat)
  /-- MC_ARR_STALL_BANK, Table 3.7. -/
  | mcArrStallBank (c : Nat)
  /-- MC_ARR_ROUSE, Table 3.7. -/
  | mcArrRouse (c : Nat)
  /-- MC_ARR_ACC, Table 3.7. -/
  | mcArrAcc (c : Nat)
  /-- MC_WIN_STATUS, Table 4.5. -/
  | mcWinStatus (c : Nat)
  /-- MC_ACC_QUERY, Table 4.2. -/
  | mcAccQuery (c : Nat)
  /-- VEC_UNITu, Table 7.6. -/
  | vecUnit (c : Nat) (u : Nat)
  /-- VEC_BUSYu, Table 7.7. -/
  | vecBusy (c : Nat) (u : Nat)
  /-- VEC_STALLu, Table 7.7. -/
  | vecStall (c : Nat) (u : Nat)
  /-- VEC_SEQ_MAP, Table 7.8. -/
  | vecSeqMap (c : Nat)
  /-- VEC_STATUS, Table 7.8. -/
  | vecStatus (c : Nat)
  /-- BANK_OWNERb, Table 9.5. -/
  | bankOwner (c : Nat) (b : Nat)
  /-- BANK_STATUS, Table 9.6. -/
  | bankStatus (c : Nat)
  /-- BANK_MAP, Table 9.7. -/
  | bankMap (c : Nat)
  /-- BANK_MARCH_CTRL, Table 9.8. -/
  | bankMarchCtrl (c : Nat)
  /-- BANK_MARCH_STATUS, Table 9.9. -/
  | bankMarchStatus (c : Nat)
  /-- BANK_MARCH_FAIL, Table 9.10. -/
  | bankMarchFail (c : Nat)
  /-- BANK_REPAIRb, Table 9.11. -/
  | bankRepair (c : Nat) (b : Nat)
  /-- KLN_PCFGp, Table 6.9. -/
  | klnPcfg (p : Nat)
  /-- KLN_RINGp, Table 6.10. -/
  | klnRing (p : Nat)
  /-- KLN_RHEADp, Table 6.10. -/
  | klnRhead (p : Nat)
  /-- KLN_RSTATp, Table 6.11. -/
  | klnRstat (p : Nat)
  /-- KLN_IRQp, Table 6.12. -/
  | klnIrq (p : Nat)
  /-- KLN_IRQ_ENp, Table 6.12. -/
  | klnIrqEn (p : Nat)
  /-- KLN_CNTp, Table 6.13. -/
  | klnCnt (p : Nat)
  /-- KLN_COREc, Table 6.14. -/
  | klnCore (k : Nat)
  /-- RK_PCFGp, Table 8.7. -/
  | rkPcfg (p : Nat)
  /-- RK_LSCALEp, Table 5.3. -/
  | rkLscale (p : Nat)
  /-- RK_LSCALE_CFGp, Table 5.3. -/
  | rkLscaleCfg (p : Nat)
  /-- RK_SWEEPp, Table 8.8. -/
  | rkSweep (p : Nat)
  /-- RK_SLISTp, Table 8.8. -/
  | rkSlist (p : Nat)
  /-- RK_SSTATp, Table 8.9. -/
  | rkSstat (p : Nat)
  /-- RK_CNTp, Table 8.10. -/
  | rkCnt (p : Nat)
  /-- RK_IRQp, Table 8.10. -/
  | rkIrq (p : Nat)
  /-- RK_IRQ_ENp, Table 8.10. -/
  | rkIrqEn (p : Nat)
  /-- RK_CHKp, Table 8.11. -/
  | rkChk (p : Nat)
  /-- RK_SEEDp, Table 8.8. -/
  | rkSeed (p : Nat)
  /-- RK_CHKLp, Table 8.11. -/
  | rkChkl (p : Nat)
  /-- RK_UNITn, Table 8.12. -/
  | rkUnit (n : Nat)
  /-- FAB_COORD, Table 11.13. -/
  | fabCoord
  /-- FAB_TORUS, Table 11.13. -/
  | fabTorus
  /-- FAB_CFG, Table 11.14. -/
  | fabCfg
  /-- FAB_STATUS, Table 11.14. -/
  | fabStatus
  /-- FAB_FTC, Table 11.15. -/
  | fabFtc
  /-- FAB_FTC_CFG, Table 11.15. -/
  | fabFtcCfg
  /-- FAB_FTC_STAT, Table 11.15. -/
  | fabFtcStat
  /-- FAB_LMAPn, Table 11.16. -/
  | fabLmap (n : Nat)
  /-- FAB_PORTn, Table 11.17. -/
  | fabPort (n : Nat)
  /-- FAB_SLICEp, Table 11.18. -/
  | fabSlice (p : Nat)
  /-- FAB_SLCFGp, Table 11.18. -/
  | fabSlcfg (p : Nat)
  /-- FAB_EPOCHp, Table 11.19. -/
  | fabEpoch (p : Nat)
  /-- FAB_SLSTATp, Table 11.19. -/
  | fabSlstat (p : Nat)
  /-- FAB_IRQp, Table 11.20. -/
  | fabIrq (p : Nat)
  /-- FAB_IRQ_ENp, Table 11.20. -/
  | fabIrqEn (p : Nat)
  /-- FAB_NFLAGp, Table 5.5. -/
  | fabNflag (p : Nat)
  /-- FAB_PCNTn word 0, Table 11.21. -/
  | fabPcntTxFlits (n : Nat)
  /-- FAB_PCNTn word 1, Table 11.21. -/
  | fabPcntRxFlits (n : Nat)
  /-- FAB_PCNTn word 2, Table 11.21. -/
  | fabPcntReplays (n : Nat)
  /-- FAB_PCNTn word 3, Table 11.21. -/
  | fabPcntNaks (n : Nat)
  /-- FAB_PCNTn word 4, Table 11.21. -/
  | fabPcntFecCorr (n : Nat)
  /-- FAB_PCNTn word 5, Table 11.21. -/
  | fabPcntFecUncorr (n : Nat)
  /-- FAB_PCNTn word 6, Table 11.21. -/
  | fabPcntCreditStall (n : Nat)
  /-- FAB_PCNTn word 7, Table 11.21. -/
  | fabPcntTransit (n : Nat)
  /-- HBM_PQUOTAp, Table 10.7. -/
  | hbmPquota (p : Nat)
  /-- HBM_PUSEp, Table 10.8. -/
  | hbmPuse (p : Nat)
  /-- HBM_MRINGp, Table 10.9. -/
  | hbmMring (p : Nat)
  /-- HBM_MHEADp, Table 10.9. -/
  | hbmMhead (p : Nat)
  /-- HBM_MSTATp, Table 10.10. -/
  | hbmMstat (p : Nat)
  /-- HBM_MCNTp, Table 10.10. -/
  | hbmMcnt (p : Nat)
  /-- HBM_SCRUB, Table 10.11. -/
  | hbmScrub
  /-- HBM_UE_LOG, Table 10.11. -/
  | hbmUeLog
  /-- HBM_DEVn, Table 10.12. -/
  | hbmDev (n : Nat)
  /-- CLR_SNAPp, Table 10.13. -/
  | clrSnap (p : Nat)
  /-- CLR_SNAPLp, Table 10.13. -/
  | clrSnapl (p : Nat)
  /-- CLR_SNAPTp, Table 10.13. -/
  | clrSnapt (p : Nat)
  /-- CLR_BUDDYp, Table 10.14. -/
  | clrBuddy (p : Nat)
  /-- CLR_BUDDY_SRCp, Table 10.14. -/
  | clrBuddySrc (p : Nat)
  /-- CLR_DEVn, Table 10.12. -/
  | clrDev (n : Nat)
  /-- HOST_PCFGp, Table 12.6. -/
  | hostPcfg (p : Nat)
  /-- HOST_HGSTATq, Table 12.7. -/
  | hostHgstat (p : Nat)
  /-- command slot i, word w (Table 13.3), Tables 13.3 and 13.4. -/
  | mbxCmd (p : Nat) (i : Nat) (w : Nat)
  /-- response slot i, word w (Table 13.4), Tables 13.3 and 13.4. -/
  | mbxRsp (p : Nat) (i : Nat) (w : Nat)
  /-- MBX_STATp, Table 13.12. -/
  | mbxStat (p : Nat)
  /-- MBX_IRQp, Table 13.12. -/
  | mbxIrq (p : Nat)
  /-- MBX_IRQ_ENp, Table 13.12. -/
  | mbxIrqEn (p : Nat)
  /-- STG_ISTAT, Table 13.10. -/
  | stgIstat
  /-- STG_IWHEN, Table 13.11. -/
  | stgIwhen
  /-- STG_PSTATp, Table 13.10. -/
  | stgPstat (p : Nat)
  /-- STG_PWHENp, Table 13.11. -/
  | stgPwhen (p : Nat)
  /-- SEC_FUSE, Table 14.9. -/
  | secFuse
  /-- SEC_STATUS, Table 14.10. -/
  | secStatus
  /-- SEC_AUDIT, Table 14.10. -/
  | secAudit
  /-- SEC_DENYp, Table 14.11. -/
  | secDeny (p : Nat)
  /-- SEC_DIAG, Table 14.11. -/
  | secDiag
  /-- SEC_MEASn word w, Table 14.11. -/
  | secMeas (n : Nat) (w : Nat)
  /-- PWR_MODE, Table 15.9. -/
  | pwrMode
  /-- PWR_CFG, Table 15.9. -/
  | pwrCfg
  /-- PWR_STATUS, Table 15.10. -/
  | pwrStatus
  /-- PWR_METER, Table 15.11. -/
  | pwrMeter
  /-- PWR_ENERGY, Table 15.11. -/
  | pwrEnergy
  /-- PWR_THROTc, Table 15.11. -/
  | pwrThrot (n : Nat)
  /-- PWR_FAULT, Table 16.4. -/
  | pwrFault
  /-- TEL_ALERT, Table 15.12. -/
  | telAlert
  /-- TEL_WEAR_STAT, Table 15.12. -/
  | telWearStat
  /-- TEL_WEAR0, Table 15.13. -/
  | telWear0
  /-- TEL_WEAR1, Table 15.13. -/
  | telWear1
  /-- TEL_WEAR2, Table 15.13. -/
  | telWear2
  /-- TEL_WEAR3, Table 15.13. -/
  | telWear3
  /-- TEL_WEAR4, Table 15.13. -/
  | telWear4
  /-- TEL_TEMPn, Table 15.14. -/
  | telTemp (n : Nat)
  /-- TEL_ACTIVEp, Table 15.14. -/
  | telActive (p : Nat)
  /-- TEL_IDLEp_c, Table 15.14. -/
  | telIdle (p : Nat) (n : Nat)
  /-- TEL_TRACEp, Table 15.15. -/
  | telTrace (p : Nat)
  /-- TEL_THEADp, Table 15.15. -/
  | telThead (p : Nat)
  /-- TEL_TSTATp, Table 15.15. -/
  | telTstat (p : Nat)
  /-- SVC_WRINGps, Table 16.13. -/
  | svcWring (p : Nat) (s : Nat)
  /-- SVC_WHEADps, Table 16.13. -/
  | svcWhead (p : Nat) (s : Nat)
  /-- SVC_RRINGps, Table 16.13. -/
  | svcRring (p : Nat) (s : Nat)
  /-- SVC_RHEADps, Table 16.13. -/
  | svcRhead (p : Nat) (s : Nat)
  /-- SVC_QPTps, Table 16.13. -/
  | svcQpt (p : Nat) (s : Nat)
  /-- SVC_KEYTps, Table 16.13. -/
  | svcKeyt (p : Nat) (s : Nat)
  /-- SVC_STATps, Table 16.13. -/
  | svcStat (p : Nat) (s : Nat)
  /-- SVC_IRQps, Table 16.13. -/
  | svcIrq (p : Nat) (s : Nat)
  /-- SVC_IRQ_ENps, Table 16.13. -/
  | svcIrqEn (p : Nat) (s : Nat)
  /-- MGT_STATUS, Table 16.11. -/
  | mgtStatus
  deriving DecidableEq, Repr

/-- A field of a register: the register and the number of the field's lowest bit (R3). -/
structure FKey where
  reg : Reg
  lo : Nat
  deriving DecidableEq, Repr

/-- The never-committed value of a grant that partition P0 holds and the others do not. -/
def p0 (p v : Nat) : Nat := if p = 0 then v else 0

/-- The fields of each register, high to low. -/
def Reg.fields (r : Reg) : List FieldDef :=
  match r with
  | .mcSeqCtrl _ =>
    [ ⟨1, 1, .w1s, 0, .core, .none⟩,
      ⟨0, 1, .w1s, 0, .core, .none⟩ ]
  | .mcSeqStatus _ =>
    [ ⟨16, 4, .ro, 0, .core, .none⟩,
      ⟨8, 8, .ro, 0, .core, .none⟩,
      ⟨6, 1, .w1c, 0, .core, .none⟩,
      ⟨5, 1, .w1c, 0, .core, .none⟩,
      ⟨4, 1, .w1c, 0, .core, .none⟩,
      ⟨3, 1, .w1c, 0, .core, .none⟩,
      ⟨0, 3, .ro, 0, .core, .none⟩ ]
  | .mcSeqBase _ =>
    [ ⟨6, 20, .rw, 0, .core, .none⟩ ]
  | .mcSeqLen _ =>
    [ ⟨0, 23, .rw, 0, .core, .none⟩ ]
  | .mcSeqPc _ =>
    [ ⟨0, 22, .rw, 0, .core, .none⟩ ]
  | .mcSeqFault _ =>
    [ ⟨32, 22, .ro, 0, .core, .none⟩,
      ⟨8, 1, .ro, 0, .core, .none⟩,
      ⟨0, 8, .ro, 0, .core, .none⟩ ]
  | .mcSeqIrq _ =>
    [ ⟨4, 1, .w1c, 0, .core, .none⟩,
      ⟨3, 1, .w1c, 0, .core, .none⟩,
      ⟨2, 1, .w1c, 0, .core, .none⟩,
      ⟨1, 1, .w1c, 0, .core, .none⟩,
      ⟨0, 1, .w1c, 0, .core, .none⟩ ]
  | .mcSeqIrqEn _ =>
    [ ⟨4, 1, .rw, 0, .core, .none⟩,
      ⟨3, 1, .rw, 0, .core, .none⟩,
      ⟨2, 1, .rw, 0, .core, .none⟩,
      ⟨1, 1, .rw, 0, .core, .none⟩,
      ⟨0, 1, .rw, 0, .core, .none⟩ ]
  | .mcDwqStatus _ =>
    [ ⟨16, 32, .ro, 0, .core, .none⟩,
      ⟨7, 1, .ro, 0, .core, .none⟩,
      ⟨6, 1, .ro, 0, .core, .none⟩,
      ⟨0, 6, .ro, 0, .core, .none⟩ ]
  | .mcLend _ =>
    [ ⟨32, 32, .rw, 0, .core, .partition⟩,
      ⟨26, 1, .rw, 0, .core, .partition⟩,
      ⟨25, 1, .rw, 0, .core, .partition⟩,
      ⟨16, 9, .rw, 0, .core, .partition⟩,
      ⟨0, 9, .rw, 0, .core, .partition⟩ ]
  | .mcRngSeed _ =>
    [ ⟨0, 64, .rw, 0, .core, .none⟩ ]
  | .mcGyle _ =>
    [ ⟨0, 48, .rw, 0, .core, .none⟩ ]
  | .mcG _ _ =>
    [ ⟨0, 64, .rw, 0, .core, .none⟩ ]
  | .mcEvt _ _ =>
    [ ⟨0, 16, .rw, 0, .core, .none⟩ ]
  | .mcAnchor _ _ =>
    [ ⟨63, 1, .ro, 0, .core, .none⟩,
      ⟨62, 1, .ro, 0, .core, .none⟩,
      ⟨61, 1, .ro, 0, .core, .none⟩,
      ⟨32, 6, .rw, 0, .core, .none⟩,
      ⟨16, 12, .rw, 0xF00, .core, .none⟩,
      ⟨0, 12, .rw, 0xF00, .core, .none⟩ ]
  | .mcTdesc0 _ _ =>
    [ ⟨57, 1, .rw, 0, .core, .none⟩,
      ⟨56, 1, .rw, 0, .core, .none⟩,
      ⟨48, 8, .rw, 0, .core, .none⟩,
      ⟨0, 48, .rw, 0, .core, .none⟩ ]
  | .mcTdesc1 _ _ =>
    [ ⟨32, 32, .rw, 0, .core, .none⟩,
      ⟨16, 16, .rw, 0, .core, .none⟩,
      ⟨0, 16, .rw, 0, .core, .none⟩ ]
  | .mcTdesc2 _ _ =>
    [ ⟨24, 32, .rw, 0, .core, .none⟩,
      ⟨21, 3, .rw, 0, .core, .none⟩,
      ⟨16, 5, .rw, 0, .core, .none⟩,
      ⟨9, 4, .rw, 0, .core, .none⟩,
      ⟨8, 1, .rw, 0, .core, .none⟩,
      ⟨0, 8, .rw, 0, .core, .none⟩ ]
  | .mcTdesc3 _ _ =>
    [ ⟨24, 40, .rw, 0, .core, .none⟩,
      ⟨0, 24, .rw, 0, .core, .none⟩ ]
  | .mcDpuMap _ =>
    [ ⟨48, 16, .ro, 0, .core, .none⟩,
      ⟨40, 2, .ro, 2, .repair, .none⟩,
      ⟨24, 7, .ro, 0x7F, .repair, .none⟩,
      ⟨16, 7, .ro, 0x7F, .repair, .none⟩,
      ⟨0, 1, .ro, 0, .core, .none⟩ ]
  | .mcRouseCfg _ =>
    [ ⟨32, 16, .ro, 512, .core, .none⟩,
      ⟨8, 8, .ro, 16, .core, .none⟩,
      ⟨0, 1, .ro, 1, .core, .none⟩ ]
  | .mcArrStatus _ =>
    [ ⟨8, 4, .ro, 0, .core, .none⟩,
      ⟨0, 3, .ro, 0, .core, .none⟩ ]
  | .mcArrBusy _ =>
    [ ⟨0, 64, .ro, 0, .core, .none⟩ ]
  | .mcArrStallLoad _ =>
    [ ⟨0, 64, .ro, 0, .core, .none⟩ ]
  | .mcArrStallBank _ =>
    [ ⟨0, 64, .ro, 0, .core, .none⟩ ]
  | .mcArrRouse _ =>
    [ ⟨0, 64, .ro, 0, .core, .none⟩ ]
  | .mcArrAcc _ =>
    [ ⟨0, 64, .ro, 0, .core, .none⟩ ]
  | .mcWinStatus _ =>
    [ ⟨32, 32, .ro, 0, .core, .none⟩,
      ⟨2, 1, .w1c, 0, .core, .none⟩,
      ⟨1, 1, .w1c, 0, .core, .none⟩,
      ⟨0, 1, .w1c, 0, .core, .none⟩ ]
  | .mcAccQuery _ =>
    [ ⟨63, 1, .ro, 0, .core, .none⟩,
      ⟨62, 1, .ro, 0, .core, .none⟩,
      ⟨60, 2, .ro, 0, .core, .none⟩,
      ⟨32, 12, .ro, 0, .core, .none⟩,
      ⟨0, 9, .rw, 0, .core, .none⟩ ]
  | .vecUnit _ _ =>
    [ ⟨32, 32, .ro, 0, .core, .none⟩,
      ⟨4, 4, .ro, 0, .core, .none⟩,
      ⟨0, 3, .ro, 0, .core, .none⟩ ]
  | .vecBusy _ _ =>
    [ ⟨0, 64, .ro, 0, .core, .none⟩ ]
  | .vecStall _ _ =>
    [ ⟨0, 64, .ro, 0, .core, .none⟩ ]
  | .vecSeqMap _ =>
    [ ⟨0, 64, .ro, 0, .core, .none⟩ ]
  | .vecStatus _ =>
    [ ⟨1, 1, .w1c, 0, .core, .none⟩,
      ⟨0, 1, .w1c, 0, .core, .none⟩ ]
  | .bankOwner _ _ =>
    [ ⟨18, 2, .ro, 0, .core, .none⟩,
      ⟨17, 1, .ro, 0, .core, .none⟩,
      ⟨16, 1, .w1c, 0, .core, .none⟩,
      ⟨8, 3, .rw, 0, .core, .none⟩,
      ⟨0, 3, .ro, 0, .core, .none⟩ ]
  | .bankStatus _ =>
    [ ⟨32, 32, .ro, 0, .core, .none⟩,
      ⟨16, 16, .ro, 0, .core, .none⟩,
      ⟨3, 1, .w1c, 0, .core, .none⟩,
      ⟨2, 1, .w1c, 0, .core, .none⟩,
      ⟨1, 1, .w1c, 0, .core, .none⟩,
      ⟨0, 1, .w1c, 0, .core, .none⟩ ]
  | .bankMap _ =>
    [ ⟨0, 6, .ro, 0x3F, .repair, .none⟩ ]
  | .bankMarchCtrl _ =>
    [ ⟨32, 32, .rw, 0, .core, .none⟩,
      ⟨4, 4, .rw, 0, .core, .none⟩,
      ⟨1, 1, .rw, 0, .core, .none⟩,
      ⟨0, 1, .w1s, 0, .core, .none⟩ ]
  | .bankMarchStatus _ =>
    [ ⟨32, 32, .ro, 0, .core, .none⟩,
      ⟨8, 3, .ro, 0, .core, .none⟩,
      ⟨3, 1, .w1c, 0, .core, .none⟩,
      ⟨2, 1, .ro, 0, .core, .none⟩,
      ⟨0, 2, .ro, 0, .core, .none⟩ ]
  | .bankMarchFail _ =>
    [ ⟨63, 1, .ro, 0, .core, .none⟩,
      ⟨48, 5, .ro, 0, .core, .none⟩,
      ⟨32, 10, .ro, 0, .core, .none⟩,
      ⟨16, 10, .ro, 0, .core, .none⟩,
      ⟨0, 5, .ro, 0, .core, .none⟩ ]
  | .bankRepair _ _ =>
    [ ⟨48, 16, .ro, 0, .core, .none⟩,
      ⟨32, 4, .ro, 8, .repair, .none⟩,
      ⟨25, 3, .ro, 4, .repair, .none⟩,
      ⟨0, 1, .ro, 0, .repair, .none⟩ ]
  | .klnPcfg p =>
    [ ⟨32, 1, .ro, p0 p 1, .kept, .installer⟩,
      ⟨24, 6, .ro, p0 p 52, .kept, .installer⟩,
      ⟨16, 6, .ro, 0, .kept, .installer⟩,
      ⟨0, 8, .ro, p0 p 0xFF, .kept, .installer⟩ ]
  | .klnRing _ =>
    [ ⟨63, 1, .rw, 0, .core, .none⟩,
      ⟨48, 4, .rw, 0, .core, .none⟩,
      ⟨7, 41, .rw, 0, .core, .none⟩ ]
  | .klnRhead _ =>
    [ ⟨0, 12, .ro, 0, .core, .none⟩ ]
  | .klnRstat _ =>
    [ ⟨40, 8, .ro, 0, .core, .none⟩,
      ⟨8, 32, .ro, 0, .core, .none⟩,
      ⟨3, 1, .w1c, 0, .core, .none⟩,
      ⟨2, 1, .w1c, 0, .core, .none⟩,
      ⟨1, 1, .ro, 0, .core, .none⟩,
      ⟨0, 1, .ro, 0, .core, .none⟩ ]
  | .klnIrq _ =>
    [ ⟨2, 1, .w1c, 0, .core, .none⟩,
      ⟨1, 1, .w1c, 0, .core, .none⟩,
      ⟨0, 1, .w1c, 0, .core, .none⟩ ]
  | .klnIrqEn _ =>
    [ ⟨2, 1, .rw, 0, .core, .none⟩,
      ⟨1, 1, .rw, 0, .core, .none⟩,
      ⟨0, 1, .rw, 0, .core, .none⟩ ]
  | .klnCnt _ =>
    [ ⟨48, 16, .rc, 0, .core, .none⟩,
      ⟨32, 16, .rc, 0, .core, .none⟩,
      ⟨16, 16, .rc, 0, .core, .none⟩,
      ⟨0, 16, .rc, 0, .core, .none⟩ ]
  | .klnCore _ =>
    [ ⟨48, 8, .ro, 0, .core, .none⟩,
      ⟨32, 12, .ro, 0, .core, .none⟩,
      ⟨8, 2, .ro, 0, .core, .none⟩,
      ⟨0, 3, .ro, 0, .core, .none⟩ ]
  | .rkPcfg p =>
    [ ⟨16, 16, .ro, 60000, .kept, .installer⟩,
      ⟨0, 16, .ro, p0 p 0xFFFF, .kept, .installer⟩ ]
  | .rkLscale _ =>
    [ ⟨32, 32, .ro, 0, .core, .none⟩,
      ⟨16, 16, .rw, 0, .core, .none⟩,
      ⟨8, 8, .ro, 0x10, .core, .none⟩,
      ⟨0, 8, .rw, 0x10, .core, .none⟩ ]
  | .rkLscaleCfg _ =>
    [ ⟨32, 8, .rw, 0x10, .core, .partition⟩,
      ⟨24, 8, .rw, 0x20, .core, .partition⟩,
      ⟨16, 8, .rw, 0xE0, .core, .partition⟩,
      ⟨3, 13, .rw, 2000, .core, .partition⟩,
      ⟨1, 2, .rw, 0, .core, .partition⟩,
      ⟨0, 1, .rw, 1, .core, .partition⟩ ]
  | .rkSweep _ =>
    [ ⟨63, 1, .w1s, 0, .core, .none⟩,
      ⟨62, 1, .w1s, 0, .core, .none⟩,
      ⟨61, 1, .rw, 0, .core, .none⟩,
      ⟨0, 48, .rw, 0, .core, .none⟩ ]
  | .rkSlist _ =>
    [ ⟨48, 16, .rw, 0, .core, .none⟩,
      ⟨7, 41, .rw, 0, .core, .none⟩ ]
  | .rkSstat _ =>
    [ ⟨56, 8, .ro, 0, .core, .none⟩,
      ⟨55, 1, .w1c, 0, .core, .none⟩,
      ⟨48, 3, .ro, 0, .core, .none⟩,
      ⟨0, 48, .ro, 0, .core, .none⟩ ]
  | .rkCnt _ =>
    [ ⟨32, 32, .ro, 0, .core, .none⟩,
      ⟨16, 16, .rc, 0, .core, .none⟩,
      ⟨0, 16, .rc, 0, .core, .none⟩ ]
  | .rkIrq _ =>
    [ ⟨4, 1, .w1c, 0, .core, .none⟩,
      ⟨3, 1, .w1c, 0, .core, .none⟩,
      ⟨2, 1, .w1c, 0, .core, .none⟩,
      ⟨1, 1, .w1c, 0, .core, .none⟩,
      ⟨0, 1, .w1c, 0, .core, .none⟩ ]
  | .rkIrqEn _ =>
    [ ⟨4, 1, .rw, 0, .core, .none⟩,
      ⟨3, 1, .rw, 0, .core, .none⟩,
      ⟨2, 1, .rw, 0, .core, .none⟩,
      ⟨1, 1, .rw, 0, .core, .none⟩,
      ⟨0, 1, .rw, 0, .core, .none⟩ ]
  | .rkChk _ =>
    [ ⟨63, 1, .w1s, 0, .core, .none⟩,
      ⟨62, 1, .ro, 0, .core, .none⟩,
      ⟨48, 14, .rc, 0, .core, .none⟩,
      ⟨32, 4, .rw, 0, .core, .none⟩,
      ⟨0, 28, .rw, 0, .core, .none⟩ ]
  | .rkSeed _ =>
    [ ⟨0, 64, .rw, 0, .core, .none⟩ ]
  | .rkChkl _ =>
    [ ⟨48, 16, .rw, 0, .core, .none⟩,
      ⟨7, 41, .rw, 0, .core, .none⟩ ]
  | .rkUnit _ =>
    [ ⟨32, 32, .ro, 0, .core, .none⟩,
      ⟨20, 4, .ro, 0, .core, .none⟩,
      ⟨8, 2, .ro, 0, .core, .none⟩,
      ⟨0, 3, .ro, 0, .core, .none⟩ ]
  | .fabCoord =>
    [ ⟨16, 25, .ro, 0, .kept, .installer⟩,
      ⟨0, 16, .ro, 0, .kept, .installer⟩ ]
  | .fabTorus =>
    [ ⟨0, 25, .ro, 0, .kept, .installer⟩ ]
  | .fabCfg =>
    [ ⟨21, 1, .ro, 0, .kept, .installer⟩,
      ⟨20, 1, .ro, 0, .kept, .installer⟩,
      ⟨0, 20, .ro, 24, .kept, .installer⟩ ]
  | .fabStatus =>
    [ ⟨7, 1, .ro, 0, .core, .none⟩,
      ⟨3, 1, .ro, 0, .core, .none⟩,
      ⟨2, 1, .ro, 0, .core, .none⟩,
      ⟨1, 1, .ro, 0, .core, .none⟩,
      ⟨0, 1, .ro, 0, .core, .none⟩ ]
  | .fabFtc =>
    [ ⟨0, 64, .ro, 0, .core, .none⟩ ]
  | .fabFtcCfg =>
    [ ⟨32, 32, .ro, 0, .kept, .installer⟩,
      ⟨1, 1, .ro, 0, .kept, .installer⟩,
      ⟨0, 1, .ro, 0, .kept, .installer⟩ ]
  | .fabFtcStat =>
    [ ⟨48, 16, .ro, 0, .core, .none⟩,
      ⟨32, 16, .ro, 0, .core, .none⟩,
      ⟨8, 7, .ro, 0, .core, .none⟩,
      ⟨4, 4, .ro, 0xF, .core, .none⟩,
      ⟨0, 1, .ro, 0, .core, .none⟩ ]
  | .fabLmap _ =>
    [ ⟨20, 1, .ro, 0, .kept, .installer⟩,
      ⟨16, 4, .ro, 0, .kept, .installer⟩,
      ⟨0, 16, .ro, 0, .kept, .installer⟩ ]
  | .fabPort _ =>
    [ ⟨48, 16, .ro, 0, .core, .none⟩,
      ⟨44, 4, .ro, 0, .core, .none⟩,
      ⟨36, 8, .ro, 0, .core, .none⟩,
      ⟨28, 8, .ro, 0, .core, .none⟩,
      ⟨24, 4, .ro, 0, .core, .none⟩,
      ⟨16, 3, .ro, 0, .core, .none⟩,
      ⟨0, 4, .ro, 0, .core, .none⟩ ]
  | .fabSlice _ =>
    [ ⟨50, 1, .ro, 0, .core, .none⟩,
      ⟨25, 25, .ro, 0, .core, .none⟩,
      ⟨0, 25, .ro, 0, .core, .none⟩ ]
  | .fabSlcfg _ =>
    [ ⟨48, 16, .ro, 0, .core, .none⟩,
      ⟨44, 4, .ro, 0xF, .core, .none⟩,
      ⟨37, 7, .ro, 0, .core, .none⟩,
      ⟨36, 1, .ro, 0, .core, .none⟩,
      ⟨35, 1, .ro, 0, .core, .none⟩,
      ⟨0, 16, .ro, 0, .core, .none⟩ ]
  | .fabEpoch _ =>
    [ ⟨49, 1, .ro, 0, .core, .none⟩,
      ⟨48, 1, .ro, 0, .core, .none⟩,
      ⟨40, 8, .ro, 0, .core, .none⟩,
      ⟨16, 16, .ro, 0, .core, .partition⟩,
      ⟨0, 16, .ro, 0, .core, .none⟩ ]
  | .fabSlstat _ =>
    [ ⟨32, 32, .ro, 0, .core, .none⟩,
      ⟨16, 16, .rc, 0, .core, .none⟩,
      ⟨4, 4, .ro, 0, .core, .none⟩,
      ⟨0, 1, .ro, 0, .core, .none⟩ ]
  | .fabIrq _ =>
    [ ⟨3, 1, .w1c, 0, .core, .none⟩,
      ⟨2, 1, .w1c, 0, .core, .none⟩,
      ⟨1, 1, .w1c, 0, .core, .none⟩,
      ⟨0, 1, .w1c, 0, .core, .none⟩ ]
  | .fabIrqEn _ =>
    [ ⟨3, 1, .rw, 0, .core, .none⟩,
      ⟨2, 1, .rw, 0, .core, .none⟩,
      ⟨1, 1, .rw, 0, .core, .none⟩,
      ⟨0, 1, .rw, 0, .core, .none⟩ ]
  | .fabNflag _ =>
    [ ⟨16, 48, .ro, 0, .core, .none⟩,
      ⟨6, 1, .ro, 0, .core, .none⟩,
      ⟨5, 1, .ro, 0, .core, .none⟩,
      ⟨4, 1, .ro, 0, .core, .none⟩,
      ⟨1, 1, .w1s, 0, .core, .none⟩,
      ⟨0, 1, .w1s, 0, .core, .none⟩ ]
  | .fabPcntTxFlits _ =>
    [ ⟨0, 64, .ro, 0, .core, .none⟩ ]
  | .fabPcntRxFlits _ =>
    [ ⟨0, 64, .ro, 0, .core, .none⟩ ]
  | .fabPcntReplays _ =>
    [ ⟨0, 64, .ro, 0, .core, .none⟩ ]
  | .fabPcntNaks _ =>
    [ ⟨0, 64, .ro, 0, .core, .none⟩ ]
  | .fabPcntFecCorr _ =>
    [ ⟨0, 64, .ro, 0, .core, .none⟩ ]
  | .fabPcntFecUncorr _ =>
    [ ⟨0, 64, .ro, 0, .core, .none⟩ ]
  | .fabPcntCreditStall _ =>
    [ ⟨0, 64, .ro, 0, .core, .none⟩ ]
  | .fabPcntTransit _ =>
    [ ⟨0, 64, .ro, 0, .core, .none⟩ ]
  | .hbmPquota p =>
    [ ⟨56, 5, .ro, p0 p 16, .kept, .installer⟩,
      ⟨32, 20, .ro, p0 p 654592, .kept, .installer⟩,
      ⟨0, 19, .ro, p0 p 507648, .kept, .installer⟩ ]
  | .hbmPuse _ =>
    [ ⟨63, 1, .ro, 0, .core, .none⟩,
      ⟨62, 1, .ro, 0, .core, .none⟩,
      ⟨42, 20, .ro, 0, .core, .none⟩,
      ⟨22, 20, .ro, 0, .core, .none⟩,
      ⟨0, 19, .ro, 0, .core, .none⟩ ]
  | .hbmMring _ =>
    [ ⟨63, 1, .rw, 0, .core, .none⟩,
      ⟨48, 4, .rw, 0, .core, .none⟩,
      ⟨5, 43, .rw, 0, .core, .none⟩ ]
  | .hbmMhead _ =>
    [ ⟨0, 12, .ro, 0, .core, .none⟩ ]
  | .hbmMstat _ =>
    [ ⟨48, 16, .rc, 0, .core, .none⟩,
      ⟨16, 32, .ro, 0, .core, .none⟩,
      ⟨3, 1, .w1c, 0, .core, .none⟩,
      ⟨2, 1, .w1c, 0, .core, .none⟩,
      ⟨1, 1, .ro, 0, .core, .none⟩,
      ⟨0, 1, .ro, 0, .core, .none⟩ ]
  | .hbmMcnt _ =>
    [ ⟨32, 32, .ro, 0, .core, .none⟩,
      ⟨0, 32, .ro, 0, .core, .none⟩ ]
  | .hbmScrub =>
    [ ⟨32, 32, .ro, 0, .core, .none⟩,
      ⟨0, 8, .ro, 24, .kept, .installer⟩ ]
  | .hbmUeLog =>
    [ ⟨63, 1, .rc, 0, .core, .none⟩,
      ⟨61, 2, .ro, 0, .core, .none⟩,
      ⟨60, 1, .ro, 0, .core, .none⟩,
      ⟨58, 2, .ro, 0, .core, .none⟩,
      ⟨20, 20, .ro, 0, .core, .none⟩,
      ⟨0, 20, .ro, 0, .core, .none⟩ ]
  | .hbmDev _ =>
    [ ⟨48, 16, .ro, 0, .core, .none⟩,
      ⟨32, 16, .ro, 0, .core, .none⟩,
      ⟨16, 16, .ro, 0, .repair, .none⟩,
      ⟨8, 8, .ro, 0, .core, .none⟩ ]
  | .clrSnap _ =>
    [ ⟨63, 1, .w1s, 0, .core, .none⟩,
      ⟨62, 1, .w1s, 0, .core, .none⟩,
      ⟨61, 1, .w1c, 0, .core, .none⟩,
      ⟨60, 1, .rw, 0, .core, .none⟩,
      ⟨58, 2, .ro, 0, .core, .none⟩,
      ⟨48, 8, .ro, 0, .core, .none⟩,
      ⟨0, 48, .rw, 0, .core, .none⟩ ]
  | .clrSnapl _ =>
    [ ⟨48, 16, .rw, 0, .core, .none⟩,
      ⟨4, 44, .rw, 0, .core, .none⟩ ]
  | .clrSnapt _ =>
    [ ⟨48, 16, .rw, 0, .core, .none⟩,
      ⟨0, 48, .rw, 0, .core, .none⟩ ]
  | .clrBuddy _ =>
    [ ⟨63, 1, .rw, 0, .core, .none⟩,
      ⟨62, 1, .ro, 0, .core, .none⟩,
      ⟨61, 1, .ro, 0, .core, .none⟩,
      ⟨40, 19, .rw, 0, .core, .none⟩,
      ⟨0, 19, .rw, 0, .core, .none⟩ ]
  | .clrBuddySrc _ =>
    [ ⟨48, 16, .rw, 0, .core, .none⟩,
      ⟨0, 48, .ro, 0, .core, .none⟩ ]
  | .clrDev _ =>
    [ ⟨48, 16, .ro, 0, .core, .none⟩,
      ⟨32, 16, .ro, 0, .core, .none⟩,
      ⟨16, 16, .ro, 0, .repair, .none⟩,
      ⟨8, 8, .ro, 0, .core, .none⟩ ]
  | .hostPcfg p =>
    [ ⟨63, 1, .ro, p0 p 1, .kept, .installer⟩,
      ⟨56, 5, .ro, p0 p 16, .kept, .installer⟩,
      ⟨0, 28, .ro, p0 p 0xFFFFFFF, .kept, .installer⟩ ]
  | .hostHgstat _ =>
    [ ⟨48, 16, .ro, 0, .core, .none⟩,
      ⟨8, 2, .rw, 0, .core, .none⟩,
      ⟨4, 4, .ro, 0, .core, .none⟩,
      ⟨0, 3, .ro, 0, .core, .none⟩ ]
  | .mbxCmd _ _ _ =>
    [ ⟨0, 64, .rw, 0, .core, .none⟩ ]
  | .mbxRsp _ _ _ =>
    [ ⟨0, 64, .rw, 0, .core, .none⟩ ]
  | .mbxStat _ =>
    [ ⟨32, 32, .ro, 0, .core, .none⟩,
      ⟨4, 4, .ro, 0, .core, .none⟩,
      ⟨0, 1, .w1c, 0, .core, .none⟩ ]
  | .mbxIrq _ =>
    [ ⟨1, 1, .w1c, 0, .core, .none⟩,
      ⟨0, 1, .w1c, 0, .core, .none⟩ ]
  | .mbxIrqEn _ =>
    [ ⟨1, 1, .rw, 0, .core, .none⟩,
      ⟨0, 1, .rw, 0, .core, .none⟩ ]
  | .stgIstat =>
    [ ⟨40, 8, .ro, 0, .core, .none⟩,
      ⟨32, 8, .ro, 0, .core, .none⟩,
      ⟨22, 3, .ro, 0, .core, .none⟩,
      ⟨20, 2, .ro, 0, .core, .none⟩,
      ⟨8, 9, .ro, 0, .core, .none⟩,
      ⟨0, 3, .ro, 0, .core, .none⟩ ]
  | .stgIwhen =>
    [ ⟨0, 64, .ro, 0, .core, .none⟩ ]
  | .stgPstat _ =>
    [ ⟨40, 8, .ro, 0, .core, .none⟩,
      ⟨32, 8, .ro, 0, .core, .none⟩,
      ⟨25, 1, .w1c, 0, .core, .none⟩,
      ⟨20, 2, .ro, 0, .core, .none⟩,
      ⟨8, 9, .ro, 0, .core, .none⟩,
      ⟨0, 3, .ro, 0, .core, .none⟩ ]
  | .stgPwhen _ =>
    [ ⟨0, 64, .ro, 0, .core, .none⟩ ]
  | .secFuse =>
    [ ⟨16, 8, .ro, 0, .kept, .none⟩,
      ⟨15, 1, .ro, 0, .kept, .none⟩,
      ⟨13, 2, .ro, 0, .kept, .none⟩,
      ⟨4, 7, .ro, 0, .kept, .none⟩,
      ⟨0, 4, .ro, 0, .kept, .none⟩ ]
  | .secStatus =>
    [ ⟨32, 32, .ro, 0, .core, .none⟩,
      ⟨6, 2, .ro, 0, .core, .none⟩,
      ⟨2, 4, .ro, 0, .kept, .none⟩,
      ⟨1, 1, .ro, 0, .core, .none⟩,
      ⟨0, 1, .ro, 0, .core, .none⟩ ]
  | .secAudit =>
    [ ⟨43, 21, .ro, 0, .kept, .none⟩,
      ⟨22, 21, .ro, 0, .kept, .none⟩,
      ⟨2, 20, .ro, 0, .core, .none⟩,
      ⟨1, 1, .ro, 0, .core, .none⟩,
      ⟨0, 1, .ro, 0, .core, .none⟩ ]
  | .secDeny _ =>
    [ ⟨0, 64, .ro, 0, .core, .none⟩ ]
  | .secDiag =>
    [ ⟨0, 1, .ro, 0, .core, .installer⟩ ]
  | .secMeas _ _ =>
    [ ⟨0, 64, .ro, 0, .core, .none⟩ ]
  | .pwrMode =>
    [ ⟨8, 8, .ro, 128, .kept, .installer⟩,
      ⟨0, 2, .ro, 0, .kept, .installer⟩ ]
  | .pwrCfg =>
    [ ⟨32, 16, .ro, 512, .kept, .installer⟩,
      ⟨16, 1, .ro, 0, .kept, .installer⟩,
      ⟨0, 8, .ro, 28, .kept, .installer⟩ ]
  | .pwrStatus =>
    [ ⟨48, 16, .ro, 1500, .core, .none⟩,
      ⟨32, 16, .ro, 1500, .core, .none⟩,
      ⟨16, 16, .ro, 2600, .core, .none⟩,
      ⟨15, 1, .ro, 0, .kept, .none⟩,
      ⟨14, 1, .ro, 0, .core, .none⟩,
      ⟨13, 1, .ro, 0, .core, .none⟩,
      ⟨12, 1, .w1c, 0, .core, .none⟩,
      ⟨8, 4, .ro, 0, .core, .none⟩,
      ⟨4, 4, .ro, 8, .core, .none⟩,
      ⟨0, 2, .ro, 0, .kept, .none⟩ ]
  | .pwrMeter =>
    [ ⟨48, 16, .ro, 0, .core, .none⟩,
      ⟨32, 16, .ro, 0, .core, .none⟩,
      ⟨16, 16, .ro, 0, .core, .none⟩ ]
  | .pwrEnergy =>
    [ ⟨0, 64, .ro, 0, .core, .none⟩ ]
  | .pwrThrot _ =>
    [ ⟨0, 64, .ro, 0, .core, .none⟩ ]
  | .pwrFault =>
    [ ⟨8, 8, .ro, 0, .kept, .none⟩,
      ⟨1, 1, .rc, 0, .kept, .none⟩,
      ⟨0, 1, .rc, 0, .kept, .none⟩ ]
  | .telAlert =>
    [ ⟨56, 8, .ro, 0, .kept, .none⟩,
      ⟨55, 1, .ro, 0, .kept, .none⟩,
      ⟨7, 1, .rc, 0, .core, .none⟩,
      ⟨6, 1, .rc, 0, .core, .none⟩,
      ⟨5, 1, .rc, 0, .core, .none⟩,
      ⟨4, 1, .rc, 0, .core, .none⟩,
      ⟨3, 1, .rc, 0, .core, .none⟩,
      ⟨2, 1, .rc, 0, .core, .none⟩,
      ⟨1, 1, .rc, 0, .core, .none⟩,
      ⟨0, 1, .rc, 0, .core, .none⟩ ]
  | .telWearStat =>
    [ ⟨1, 5, .ro, 0, .kept, .none⟩,
      ⟨0, 1, .ro, 0, .kept, .none⟩ ]
  | .telWear0 =>
    [ ⟨32, 32, .ro, 0, .kept, .none⟩,
      ⟨0, 32, .ro, 0, .kept, .none⟩ ]
  | .telWear1 =>
    [ ⟨32, 32, .ro, 0, .kept, .none⟩,
      ⟨0, 32, .ro, 0, .kept, .none⟩ ]
  | .telWear2 =>
    [ ⟨48, 16, .ro, 0, .kept, .none⟩,
      ⟨32, 16, .ro, 0, .kept, .none⟩,
      ⟨16, 16, .ro, 0, .kept, .none⟩,
      ⟨0, 16, .ro, 0, .kept, .none⟩ ]
  | .telWear3 =>
    [ ⟨32, 32, .ro, 0, .kept, .none⟩,
      ⟨0, 32, .ro, 0, .kept, .none⟩ ]
  | .telWear4 =>
    [ ⟨48, 16, .ro, 0, .kept, .none⟩,
      ⟨32, 16, .ro, 0, .kept, .none⟩,
      ⟨0, 32, .ro, 0, .kept, .none⟩ ]
  | .telTemp _ =>
    [ ⟨18, 1, .ro, 0, .core, .none⟩,
      ⟨17, 1, .ro, 0, .core, .none⟩,
      ⟨16, 1, .ro, 0, .core, .none⟩,
      ⟨0, 16, .ro, 0, .core, .none⟩ ]
  | .telActive _ =>
    [ ⟨0, 64, .ro, 0, .core, .none⟩ ]
  | .telIdle _ _ =>
    [ ⟨0, 64, .ro, 0, .core, .none⟩ ]
  | .telTrace _ =>
    [ ⟨63, 1, .rw, 0, .core, .none⟩,
      ⟨62, 1, .rw, 0, .core, .none⟩,
      ⟨56, 4, .rw, 0, .core, .none⟩,
      ⟨48, 8, .rw, 0, .core, .none⟩,
      ⟨5, 43, .rw, 0, .core, .none⟩ ]
  | .telThead _ =>
    [ ⟨32, 32, .rw, 0, .core, .none⟩,
      ⟨0, 32, .ro, 0, .core, .none⟩ ]
  | .telTstat _ =>
    [ ⟨32, 32, .rc, 0, .core, .none⟩,
      ⟨0, 1, .w1c, 0, .core, .none⟩ ]
  | .svcWring _ _ =>
    [ ⟨63, 1, .rw, 0, .core, .none⟩,
      ⟨48, 4, .rw, 0, .core, .none⟩,
      ⟨5, 43, .rw, 0, .core, .none⟩ ]
  | .svcWhead _ _ =>
    [ ⟨0, 12, .ro, 0, .core, .none⟩ ]
  | .svcRring _ _ =>
    [ ⟨63, 1, .rw, 0, .core, .none⟩,
      ⟨48, 4, .rw, 0, .core, .none⟩,
      ⟨5, 43, .rw, 0, .core, .none⟩ ]
  | .svcRhead _ _ =>
    [ ⟨0, 12, .ro, 0, .core, .none⟩ ]
  | .svcQpt _ _ =>
    [ ⟨48, 16, .rw, 0, .core, .none⟩,
      ⟨6, 42, .rw, 0, .core, .none⟩ ]
  | .svcKeyt _ _ =>
    [ ⟨48, 16, .rw, 0, .core, .none⟩,
      ⟨6, 42, .rw, 0, .core, .none⟩ ]
  | .svcStat _ _ =>
    [ ⟨32, 32, .ro, 0, .core, .none⟩,
      ⟨16, 16, .ro, 0, .core, .none⟩,
      ⟨1, 1, .w1c, 0, .core, .none⟩,
      ⟨0, 1, .w1c, 0, .core, .none⟩ ]
  | .svcIrq _ _ =>
    [ ⟨1, 1, .w1c, 0, .core, .none⟩,
      ⟨0, 1, .w1c, 0, .core, .none⟩ ]
  | .svcIrqEn _ _ =>
    [ ⟨1, 1, .rw, 0, .core, .none⟩,
      ⟨0, 1, .rw, 0, .core, .none⟩ ]
  | .mgtStatus =>
    [ ⟨32, 32, .ro, 0, .core, .none⟩,
      ⟨16, 16, .ro, 0, .core, .none⟩,
      ⟨2, 1, .ro, 0, .core, .none⟩,
      ⟨1, 1, .ro, 0, .core, .none⟩,
      ⟨0, 1, .ro, 0, .core, .none⟩ ]

/-- The module address of each register (Tables 13.1 and 13.2). -/
def Reg.addr (r : Reg) : Nat :=
  match r with
  | .mcSeqCtrl c => 0x080000000000 + 0x10000 * c + 0x0000
  | .mcSeqStatus c => 0x080000000000 + 0x10000 * c + 0x0008
  | .mcSeqBase c => 0x080000000000 + 0x10000 * c + 0x0010
  | .mcSeqLen c => 0x080000000000 + 0x10000 * c + 0x0018
  | .mcSeqPc c => 0x080000000000 + 0x10000 * c + 0x0020
  | .mcSeqFault c => 0x080000000000 + 0x10000 * c + 0x0028
  | .mcSeqIrq c => 0x080000000000 + 0x10000 * c + 0x0030
  | .mcSeqIrqEn c => 0x080000000000 + 0x10000 * c + 0x0038
  | .mcDwqStatus c => 0x080000000000 + 0x10000 * c + 0x0040
  | .mcLend c => 0x080000000000 + 0x10000 * c + 0x0048
  | .mcRngSeed c => 0x080000000000 + 0x10000 * c + 0x0050
  | .mcGyle c => 0x080000000000 + 0x10000 * c + 0x0058
  | .mcG c n => 0x080000000000 + 0x10000 * c + 0x0080 + 8 * n
  | .mcEvt c n => 0x080000000000 + 0x10000 * c + 0x0100 + 8 * n
  | .mcAnchor c n => 0x080000000000 + 0x10000 * c + 0x0180 + 8 * n
  | .mcTdesc0 c s => 0x080000000000 + 0x10000 * c + 0x0200 + 32 * s + 0
  | .mcTdesc1 c s => 0x080000000000 + 0x10000 * c + 0x0200 + 32 * s + 8
  | .mcTdesc2 c s => 0x080000000000 + 0x10000 * c + 0x0200 + 32 * s + 16
  | .mcTdesc3 c s => 0x080000000000 + 0x10000 * c + 0x0200 + 32 * s + 24
  | .mcDpuMap c => 0x080000000000 + 0x10000 * c + 0x0C00
  | .mcRouseCfg c => 0x080000000000 + 0x10000 * c + 0x0C08
  | .mcArrStatus c => 0x080000000000 + 0x10000 * c + 0x0C10
  | .mcArrBusy c => 0x080000000000 + 0x10000 * c + 0x0C40
  | .mcArrStallLoad c => 0x080000000000 + 0x10000 * c + 0x0C48
  | .mcArrStallBank c => 0x080000000000 + 0x10000 * c + 0x0C50
  | .mcArrRouse c => 0x080000000000 + 0x10000 * c + 0x0C58
  | .mcArrAcc c => 0x080000000000 + 0x10000 * c + 0x0C60
  | .mcWinStatus c => 0x080000000000 + 0x10000 * c + 0x0C80
  | .mcAccQuery c => 0x080000000000 + 0x10000 * c + 0x0C88
  | .vecUnit c u => 0x080000000000 + 0x10000 * c + 0x0D00 + 8 * u
  | .vecBusy c u => 0x080000000000 + 0x10000 * c + 0x0D20 + 8 * u
  | .vecStall c u => 0x080000000000 + 0x10000 * c + 0x0D40 + 8 * u
  | .vecSeqMap c => 0x080000000000 + 0x10000 * c + 0x0D60
  | .vecStatus c => 0x080000000000 + 0x10000 * c + 0x0D68
  | .bankOwner c b => 0x080000000000 + 0x10000 * c + 0x0E00 + 8 * b
  | .bankStatus c => 0x080000000000 + 0x10000 * c + 0x0F00
  | .bankMap c => 0x080000000000 + 0x10000 * c + 0x0F08
  | .bankMarchCtrl c => 0x080000000000 + 0x10000 * c + 0x0F10
  | .bankMarchStatus c => 0x080000000000 + 0x10000 * c + 0x0F18
  | .bankMarchFail c => 0x080000000000 + 0x10000 * c + 0x0F20
  | .bankRepair c b => 0x080000000000 + 0x10000 * c + 0x1000 + 8 * b
  | .klnPcfg p => 0x080000200000 + 0x40 * p + 0x0100
  | .klnRing p => 0x080000200000 + 0x40 * p + 0x0108
  | .klnRhead p => 0x080000200000 + 0x40 * p + 0x0110
  | .klnRstat p => 0x080000200000 + 0x40 * p + 0x0118
  | .klnIrq p => 0x080000200000 + 0x40 * p + 0x0120
  | .klnIrqEn p => 0x080000200000 + 0x40 * p + 0x0128
  | .klnCnt p => 0x080000200000 + 0x40 * p + 0x0130
  | .klnCore k => 0x080000200400 + 8 * k
  | .rkPcfg p => 0x080000210000 + 8 * p
  | .rkLscale p => 0x080000210100 + 16 * p
  | .rkLscaleCfg p => 0x080000210108 + 16 * p
  | .rkSweep p => 0x080000210200 + 0x80 * p + 0x00
  | .rkSlist p => 0x080000210200 + 0x80 * p + 0x08
  | .rkSstat p => 0x080000210200 + 0x80 * p + 0x10
  | .rkCnt p => 0x080000210200 + 0x80 * p + 0x18
  | .rkIrq p => 0x080000210200 + 0x80 * p + 0x20
  | .rkIrqEn p => 0x080000210200 + 0x80 * p + 0x28
  | .rkChk p => 0x080000210200 + 0x80 * p + 0x30
  | .rkSeed p => 0x080000210200 + 0x80 * p + 0x38
  | .rkChkl p => 0x080000210200 + 0x80 * p + 0x40
  | .rkUnit n => 0x080000210600 + 8 * n
  | .fabCoord => 0x080000220000 + 0x0000
  | .fabTorus => 0x080000220000 + 0x0008
  | .fabCfg => 0x080000220000 + 0x0010
  | .fabStatus => 0x080000220000 + 0x0018
  | .fabFtc => 0x080000220000 + 0x0020
  | .fabFtcCfg => 0x080000220000 + 0x0028
  | .fabFtcStat => 0x080000220000 + 0x0030
  | .fabLmap n => 0x080000220000 + 0x0100 + 8 * n
  | .fabPort n => 0x080000220000 + 0x0200 + 8 * n
  | .fabSlice p => 0x080000220000 + 0x0300 + 0x40 * p + 0x00
  | .fabSlcfg p => 0x080000220000 + 0x0300 + 0x40 * p + 0x08
  | .fabEpoch p => 0x080000220000 + 0x0300 + 0x40 * p + 0x10
  | .fabSlstat p => 0x080000220000 + 0x0300 + 0x40 * p + 0x18
  | .fabIrq p => 0x080000220000 + 0x0300 + 0x40 * p + 0x20
  | .fabIrqEn p => 0x080000220000 + 0x0300 + 0x40 * p + 0x28
  | .fabNflag p => 0x080000220000 + 0x0400 + 8 * p
  | .fabPcntTxFlits n => 0x080000220000 + 0x0800 + 0x40 * n + 0
  | .fabPcntRxFlits n => 0x080000220000 + 0x0800 + 0x40 * n + 8
  | .fabPcntReplays n => 0x080000220000 + 0x0800 + 0x40 * n + 16
  | .fabPcntNaks n => 0x080000220000 + 0x0800 + 0x40 * n + 24
  | .fabPcntFecCorr n => 0x080000220000 + 0x0800 + 0x40 * n + 32
  | .fabPcntFecUncorr n => 0x080000220000 + 0x0800 + 0x40 * n + 40
  | .fabPcntCreditStall n => 0x080000220000 + 0x0800 + 0x40 * n + 48
  | .fabPcntTransit n => 0x080000220000 + 0x0800 + 0x40 * n + 56
  | .hbmPquota p => 0x080000230000 + 0x0000 + 8 * p
  | .hbmPuse p => 0x080000230000 + 0x0040 + 8 * p
  | .hbmMring p => 0x080000230000 + 0x0080 + 0x20 * p + 0x00
  | .hbmMhead p => 0x080000230000 + 0x0080 + 0x20 * p + 0x08
  | .hbmMstat p => 0x080000230000 + 0x0080 + 0x20 * p + 0x10
  | .hbmMcnt p => 0x080000230000 + 0x0080 + 0x20 * p + 0x18
  | .hbmScrub => 0x080000230000 + 0x0200
  | .hbmUeLog => 0x080000230000 + 0x0208
  | .hbmDev n => 0x080000230000 + 0x0400 + 8 * n
  | .clrSnap p => 0x080000240000 + 0x40 * p + 0x00
  | .clrSnapl p => 0x080000240000 + 0x40 * p + 0x08
  | .clrSnapt p => 0x080000240000 + 0x40 * p + 0x10
  | .clrBuddy p => 0x080000240000 + 0x40 * p + 0x18
  | .clrBuddySrc p => 0x080000240000 + 0x40 * p + 0x20
  | .clrDev n => 0x080000240000 + 0x0400 + 8 * n
  | .hostPcfg p => 0x080000250000 + 8 * p
  | .hostHgstat p => 0x080000250040 + 8 * p
  | .mbxCmd p i w => 0x080000260000 + 0x2000 * p + 0x80 * i + 8 * w
  | .mbxRsp p i w => 0x080000260000 + 0x2000 * p + 0x0800 + 0x80 * i + 8 * w
  | .mbxStat p => 0x080000260000 + 0x2000 * p + 0x1000
  | .mbxIrq p => 0x080000260000 + 0x2000 * p + 0x1008
  | .mbxIrqEn p => 0x080000260000 + 0x2000 * p + 0x1010
  | .stgIstat => 0x080000270000 + 0x0000
  | .stgIwhen => 0x080000270000 + 0x0008
  | .stgPstat p => 0x080000270000 + 0x0040 + 8 * p
  | .stgPwhen p => 0x080000270000 + 0x0080 + 8 * p
  | .secFuse => 0x080000280000 + 0x0000
  | .secStatus => 0x080000280000 + 0x0008
  | .secAudit => 0x080000280000 + 0x0010
  | .secDeny p => 0x080000280000 + 0x0040 + 8 * p
  | .secDiag => 0x080000280000 + 0x0060
  | .secMeas n w => 0x080000280000 + 0x0100 + 32 * n + 8 * w
  | .pwrMode => 0x080000290000 + 0x0000
  | .pwrCfg => 0x080000290000 + 0x0008
  | .pwrStatus => 0x080000290000 + 0x0010
  | .pwrMeter => 0x080000290000 + 0x0018
  | .pwrEnergy => 0x080000290000 + 0x0020
  | .pwrThrot n => 0x080000290000 + 0x0040 + 8 * n
  | .pwrFault => 0x080000290000 + 0x0060
  | .telAlert => 0x0800002A0000 + 0x0000
  | .telWearStat => 0x0800002A0000 + 0x0008
  | .telWear0 => 0x0800002A0000 + 0x0010
  | .telWear1 => 0x0800002A0000 + 0x0018
  | .telWear2 => 0x0800002A0000 + 0x0020
  | .telWear3 => 0x0800002A0000 + 0x0028
  | .telWear4 => 0x0800002A0000 + 0x0030
  | .telTemp n => 0x0800002A0000 + 0x0100 + 8 * n
  | .telActive p => 0x0800002A0000 + 0x0400 + 0x80 * p
  | .telIdle p n => 0x0800002A0000 + 0x0408 + 0x80 * p + 8 * n
  | .telTrace p => 0x0800002A0000 + 0x0600 + 0x20 * p + 0x00
  | .telThead p => 0x0800002A0000 + 0x0600 + 0x20 * p + 0x08
  | .telTstat p => 0x0800002A0000 + 0x0600 + 0x20 * p + 0x10
  | .svcWring p s => 0x0800002B0000 + 0x100 * p + 0x80 * s + 0x00
  | .svcWhead p s => 0x0800002B0000 + 0x100 * p + 0x80 * s + 0x08
  | .svcRring p s => 0x0800002B0000 + 0x100 * p + 0x80 * s + 0x10
  | .svcRhead p s => 0x0800002B0000 + 0x100 * p + 0x80 * s + 0x18
  | .svcQpt p s => 0x0800002B0000 + 0x100 * p + 0x80 * s + 0x20
  | .svcKeyt p s => 0x0800002B0000 + 0x100 * p + 0x80 * s + 0x28
  | .svcStat p s => 0x0800002B0000 + 0x100 * p + 0x80 * s + 0x30
  | .svcIrq p s => 0x0800002B0000 + 0x100 * p + 0x80 * s + 0x38
  | .svcIrqEn p s => 0x0800002B0000 + 0x100 * p + 0x80 * s + 0x40
  | .mgtStatus => 0x0800002C0000

/-- The register of a cluster block at offset o (Table 2.2 and the offsets of chapters 3, 4, 7 and 9). -/
def Reg.ofCluster (c o : Nat) : Option Reg :=
  if o = 0x0 then some (.mcSeqCtrl c)
  else if o = 0x8 then some (.mcSeqStatus c)
  else if o = 0x10 then some (.mcSeqBase c)
  else if o = 0x18 then some (.mcSeqLen c)
  else if o = 0x20 then some (.mcSeqPc c)
  else if o = 0x28 then some (.mcSeqFault c)
  else if o = 0x30 then some (.mcSeqIrq c)
  else if o = 0x38 then some (.mcSeqIrqEn c)
  else if o = 0x40 then some (.mcDwqStatus c)
  else if o = 0x48 then some (.mcLend c)
  else if o = 0x50 then some (.mcRngSeed c)
  else if o = 0x58 then some (.mcGyle c)
  else if 0x80 ≤ o ∧ o < 0x100 ∧ (o - 0x80) % 8 = 0 then some (.mcG c ((o - 0x80) / 8))
  else if 0x100 ≤ o ∧ o < 0x180 ∧ (o - 0x100) % 8 = 0 then some (.mcEvt c ((o - 0x100) / 8))
  else if 0x180 ≤ o ∧ o < 0x200 ∧ (o - 0x180) % 8 = 0 then some (.mcAnchor c ((o - 0x180) / 8))
  else if 0x200 ≤ o ∧ o < 0xA00 ∧ (o - 0x200) % 32 = 0 then some (.mcTdesc0 c ((o - 0x200) / 32))
  else if 0x208 ≤ o ∧ o < 0xA08 ∧ (o - 0x208) % 32 = 0 then some (.mcTdesc1 c ((o - 0x208) / 32))
  else if 0x210 ≤ o ∧ o < 0xA10 ∧ (o - 0x210) % 32 = 0 then some (.mcTdesc2 c ((o - 0x210) / 32))
  else if 0x218 ≤ o ∧ o < 0xA18 ∧ (o - 0x218) % 32 = 0 then some (.mcTdesc3 c ((o - 0x218) / 32))
  else if o = 0xC00 then some (.mcDpuMap c)
  else if o = 0xC08 then some (.mcRouseCfg c)
  else if o = 0xC10 then some (.mcArrStatus c)
  else if o = 0xC40 then some (.mcArrBusy c)
  else if o = 0xC48 then some (.mcArrStallLoad c)
  else if o = 0xC50 then some (.mcArrStallBank c)
  else if o = 0xC58 then some (.mcArrRouse c)
  else if o = 0xC60 then some (.mcArrAcc c)
  else if o = 0xC80 then some (.mcWinStatus c)
  else if o = 0xC88 then some (.mcAccQuery c)
  else if 0xD00 ≤ o ∧ o < 0xD20 ∧ (o - 0xD00) % 8 = 0 then some (.vecUnit c ((o - 0xD00) / 8))
  else if 0xD20 ≤ o ∧ o < 0xD40 ∧ (o - 0xD20) % 8 = 0 then some (.vecBusy c ((o - 0xD20) / 8))
  else if 0xD40 ≤ o ∧ o < 0xD60 ∧ (o - 0xD40) % 8 = 0 then some (.vecStall c ((o - 0xD40) / 8))
  else if o = 0xD60 then some (.vecSeqMap c)
  else if o = 0xD68 then some (.vecStatus c)
  else if 0xE00 ≤ o ∧ o < 0xF00 ∧ (o - 0xE00) % 8 = 0 then some (.bankOwner c ((o - 0xE00) / 8))
  else if o = 0xF00 then some (.bankStatus c)
  else if o = 0xF08 then some (.bankMap c)
  else if o = 0xF10 then some (.bankMarchCtrl c)
  else if o = 0xF18 then some (.bankMarchStatus c)
  else if o = 0xF20 then some (.bankMarchFail c)
  else if 0x1000 ≤ o ∧ o < 0x1100 ∧ (o - 0x1000) % 8 = 0 then some (.bankRepair c ((o - 0x1000) / 8))
  else none

/-- The register of the KLN_ block at offset o. -/
def Reg.ofKln (o : Nat) : Option Reg :=
  if 0x100 ≤ o ∧ o < 0x200 ∧ (o - 0x100) % 64 = 0 then some (.klnPcfg ((o - 0x100) / 64))
  else if 0x108 ≤ o ∧ o < 0x208 ∧ (o - 0x108) % 64 = 0 then some (.klnRing ((o - 0x108) / 64))
  else if 0x110 ≤ o ∧ o < 0x210 ∧ (o - 0x110) % 64 = 0 then some (.klnRhead ((o - 0x110) / 64))
  else if 0x118 ≤ o ∧ o < 0x218 ∧ (o - 0x118) % 64 = 0 then some (.klnRstat ((o - 0x118) / 64))
  else if 0x120 ≤ o ∧ o < 0x220 ∧ (o - 0x120) % 64 = 0 then some (.klnIrq ((o - 0x120) / 64))
  else if 0x128 ≤ o ∧ o < 0x228 ∧ (o - 0x128) % 64 = 0 then some (.klnIrqEn ((o - 0x128) / 64))
  else if 0x130 ≤ o ∧ o < 0x230 ∧ (o - 0x130) % 64 = 0 then some (.klnCnt ((o - 0x130) / 64))
  else if 0x400 ≤ o ∧ o < 0x440 ∧ (o - 0x400) % 8 = 0 then some (.klnCore ((o - 0x400) / 8))
  else none

/-- The register of the RK_ block at offset o. -/
def Reg.ofRk (o : Nat) : Option Reg :=
  if 0x0 ≤ o ∧ o < 0x20 ∧ (o - 0x0) % 8 = 0 then some (.rkPcfg ((o - 0x0) / 8))
  else if 0x100 ≤ o ∧ o < 0x140 ∧ (o - 0x100) % 16 = 0 then some (.rkLscale ((o - 0x100) / 16))
  else if 0x108 ≤ o ∧ o < 0x148 ∧ (o - 0x108) % 16 = 0 then some (.rkLscaleCfg ((o - 0x108) / 16))
  else if 0x200 ≤ o ∧ o < 0x400 ∧ (o - 0x200) % 128 = 0 then some (.rkSweep ((o - 0x200) / 128))
  else if 0x208 ≤ o ∧ o < 0x408 ∧ (o - 0x208) % 128 = 0 then some (.rkSlist ((o - 0x208) / 128))
  else if 0x210 ≤ o ∧ o < 0x410 ∧ (o - 0x210) % 128 = 0 then some (.rkSstat ((o - 0x210) / 128))
  else if 0x218 ≤ o ∧ o < 0x418 ∧ (o - 0x218) % 128 = 0 then some (.rkCnt ((o - 0x218) / 128))
  else if 0x220 ≤ o ∧ o < 0x420 ∧ (o - 0x220) % 128 = 0 then some (.rkIrq ((o - 0x220) / 128))
  else if 0x228 ≤ o ∧ o < 0x428 ∧ (o - 0x228) % 128 = 0 then some (.rkIrqEn ((o - 0x228) / 128))
  else if 0x230 ≤ o ∧ o < 0x430 ∧ (o - 0x230) % 128 = 0 then some (.rkChk ((o - 0x230) / 128))
  else if 0x238 ≤ o ∧ o < 0x438 ∧ (o - 0x238) % 128 = 0 then some (.rkSeed ((o - 0x238) / 128))
  else if 0x240 ≤ o ∧ o < 0x440 ∧ (o - 0x240) % 128 = 0 then some (.rkChkl ((o - 0x240) / 128))
  else if 0x600 ≤ o ∧ o < 0x680 ∧ (o - 0x600) % 8 = 0 then some (.rkUnit ((o - 0x600) / 8))
  else none

/-- The register of the FAB_ block at offset o. -/
def Reg.ofFab (o : Nat) : Option Reg :=
  if o = 0x0 then some (.fabCoord)
  else if o = 0x8 then some (.fabTorus)
  else if o = 0x10 then some (.fabCfg)
  else if o = 0x18 then some (.fabStatus)
  else if o = 0x20 then some (.fabFtc)
  else if o = 0x28 then some (.fabFtcCfg)
  else if o = 0x30 then some (.fabFtcStat)
  else if 0x100 ≤ o ∧ o < 0x150 ∧ (o - 0x100) % 8 = 0 then some (.fabLmap ((o - 0x100) / 8))
  else if 0x200 ≤ o ∧ o < 0x250 ∧ (o - 0x200) % 8 = 0 then some (.fabPort ((o - 0x200) / 8))
  else if 0x300 ≤ o ∧ o < 0x400 ∧ (o - 0x300) % 64 = 0 then some (.fabSlice ((o - 0x300) / 64))
  else if 0x308 ≤ o ∧ o < 0x408 ∧ (o - 0x308) % 64 = 0 then some (.fabSlcfg ((o - 0x308) / 64))
  else if 0x310 ≤ o ∧ o < 0x410 ∧ (o - 0x310) % 64 = 0 then some (.fabEpoch ((o - 0x310) / 64))
  else if 0x318 ≤ o ∧ o < 0x418 ∧ (o - 0x318) % 64 = 0 then some (.fabSlstat ((o - 0x318) / 64))
  else if 0x320 ≤ o ∧ o < 0x420 ∧ (o - 0x320) % 64 = 0 then some (.fabIrq ((o - 0x320) / 64))
  else if 0x328 ≤ o ∧ o < 0x428 ∧ (o - 0x328) % 64 = 0 then some (.fabIrqEn ((o - 0x328) / 64))
  else if 0x400 ≤ o ∧ o < 0x420 ∧ (o - 0x400) % 8 = 0 then some (.fabNflag ((o - 0x400) / 8))
  else if 0x800 ≤ o ∧ o < 0xA80 ∧ (o - 0x800) % 64 = 0 then some (.fabPcntTxFlits ((o - 0x800) / 64))
  else if 0x808 ≤ o ∧ o < 0xA88 ∧ (o - 0x808) % 64 = 0 then some (.fabPcntRxFlits ((o - 0x808) / 64))
  else if 0x810 ≤ o ∧ o < 0xA90 ∧ (o - 0x810) % 64 = 0 then some (.fabPcntReplays ((o - 0x810) / 64))
  else if 0x818 ≤ o ∧ o < 0xA98 ∧ (o - 0x818) % 64 = 0 then some (.fabPcntNaks ((o - 0x818) / 64))
  else if 0x820 ≤ o ∧ o < 0xAA0 ∧ (o - 0x820) % 64 = 0 then some (.fabPcntFecCorr ((o - 0x820) / 64))
  else if 0x828 ≤ o ∧ o < 0xAA8 ∧ (o - 0x828) % 64 = 0 then some (.fabPcntFecUncorr ((o - 0x828) / 64))
  else if 0x830 ≤ o ∧ o < 0xAB0 ∧ (o - 0x830) % 64 = 0 then some (.fabPcntCreditStall ((o - 0x830) / 64))
  else if 0x838 ≤ o ∧ o < 0xAB8 ∧ (o - 0x838) % 64 = 0 then some (.fabPcntTransit ((o - 0x838) / 64))
  else none

/-- The register of the HBM_ block at offset o. -/
def Reg.ofHbm (o : Nat) : Option Reg :=
  if 0x0 ≤ o ∧ o < 0x20 ∧ (o - 0x0) % 8 = 0 then some (.hbmPquota ((o - 0x0) / 8))
  else if 0x40 ≤ o ∧ o < 0x60 ∧ (o - 0x40) % 8 = 0 then some (.hbmPuse ((o - 0x40) / 8))
  else if 0x80 ≤ o ∧ o < 0x100 ∧ (o - 0x80) % 32 = 0 then some (.hbmMring ((o - 0x80) / 32))
  else if 0x88 ≤ o ∧ o < 0x108 ∧ (o - 0x88) % 32 = 0 then some (.hbmMhead ((o - 0x88) / 32))
  else if 0x90 ≤ o ∧ o < 0x110 ∧ (o - 0x90) % 32 = 0 then some (.hbmMstat ((o - 0x90) / 32))
  else if 0x98 ≤ o ∧ o < 0x118 ∧ (o - 0x98) % 32 = 0 then some (.hbmMcnt ((o - 0x98) / 32))
  else if o = 0x200 then some (.hbmScrub)
  else if o = 0x208 then some (.hbmUeLog)
  else if 0x400 ≤ o ∧ o < 0x480 ∧ (o - 0x400) % 8 = 0 then some (.hbmDev ((o - 0x400) / 8))
  else none

/-- The register of the CLR_ block at offset o. -/
def Reg.ofClr (o : Nat) : Option Reg :=
  if 0x0 ≤ o ∧ o < 0x100 ∧ (o - 0x0) % 64 = 0 then some (.clrSnap ((o - 0x0) / 64))
  else if 0x8 ≤ o ∧ o < 0x108 ∧ (o - 0x8) % 64 = 0 then some (.clrSnapl ((o - 0x8) / 64))
  else if 0x10 ≤ o ∧ o < 0x110 ∧ (o - 0x10) % 64 = 0 then some (.clrSnapt ((o - 0x10) / 64))
  else if 0x18 ≤ o ∧ o < 0x118 ∧ (o - 0x18) % 64 = 0 then some (.clrBuddy ((o - 0x18) / 64))
  else if 0x20 ≤ o ∧ o < 0x120 ∧ (o - 0x20) % 64 = 0 then some (.clrBuddySrc ((o - 0x20) / 64))
  else if 0x400 ≤ o ∧ o < 0x480 ∧ (o - 0x400) % 8 = 0 then some (.clrDev ((o - 0x400) / 8))
  else none

/-- The register of the HOST_ block at offset o. -/
def Reg.ofHost (o : Nat) : Option Reg :=
  if 0x0 ≤ o ∧ o < 0x20 ∧ (o - 0x0) % 8 = 0 then some (.hostPcfg ((o - 0x0) / 8))
  else if 0x40 ≤ o ∧ o < 0x60 ∧ (o - 0x40) % 8 = 0 then some (.hostHgstat ((o - 0x40) / 8))
  else none

/-- The register of the STG_ block at offset o. -/
def Reg.ofStg (o : Nat) : Option Reg :=
  if o = 0x0 then some (.stgIstat)
  else if o = 0x8 then some (.stgIwhen)
  else if 0x40 ≤ o ∧ o < 0x60 ∧ (o - 0x40) % 8 = 0 then some (.stgPstat ((o - 0x40) / 8))
  else if 0x80 ≤ o ∧ o < 0xA0 ∧ (o - 0x80) % 8 = 0 then some (.stgPwhen ((o - 0x80) / 8))
  else none

/-- The register of the SEC_ block at offset o. -/
def Reg.ofSec (o : Nat) : Option Reg :=
  if o = 0x0 then some (.secFuse)
  else if o = 0x8 then some (.secStatus)
  else if o = 0x10 then some (.secAudit)
  else if 0x40 ≤ o ∧ o < 0x60 ∧ (o - 0x40) % 8 = 0 then some (.secDeny ((o - 0x40) / 8))
  else if o = 0x60 then some (.secDiag)
  else if 0x100 ≤ o ∧ o < 0x200 ∧ o % 8 = 0 then some (.secMeas ((o - 0x100) / 32) ((o - 0x100) / 8 % 4))
  else none

/-- The register of the PWR_ block at offset o. -/
def Reg.ofPwr (o : Nat) : Option Reg :=
  if o = 0x0 then some (.pwrMode)
  else if o = 0x8 then some (.pwrCfg)
  else if o = 0x10 then some (.pwrStatus)
  else if o = 0x18 then some (.pwrMeter)
  else if o = 0x20 then some (.pwrEnergy)
  else if 0x40 ≤ o ∧ o < 0x60 ∧ (o - 0x40) % 8 = 0 then some (.pwrThrot ((o - 0x40) / 8))
  else if o = 0x60 then some (.pwrFault)
  else none

/-- The register of the TEL_ block at offset o. -/
def Reg.ofTel (o : Nat) : Option Reg :=
  if o = 0x0 then some (.telAlert)
  else if o = 0x8 then some (.telWearStat)
  else if o = 0x10 then some (.telWear0)
  else if o = 0x18 then some (.telWear1)
  else if o = 0x20 then some (.telWear2)
  else if o = 0x28 then some (.telWear3)
  else if o = 0x30 then some (.telWear4)
  else if 0x100 ≤ o ∧ o < 0x370 ∧ (o - 0x100) % 8 = 0 then some (.telTemp ((o - 0x100) / 8))
  else if 0x400 ≤ o ∧ o < 0x600 ∧ (o - 0x400) % 128 = 0 then some (.telActive ((o - 0x400) / 128))
  else if 0x408 ≤ o ∧ o < 0x600 ∧ o % 8 = 0 ∧ 1 ≤ (o - 0x400) % 0x80 / 8 ∧ (o - 0x400) % 0x80 / 8 ≤ 8 then some (.telIdle ((o - 0x400) / 0x80) ((o - 0x400) % 0x80 / 8 - 1))
  else if 0x600 ≤ o ∧ o < 0x680 ∧ (o - 0x600) % 32 = 0 then some (.telTrace ((o - 0x600) / 32))
  else if 0x608 ≤ o ∧ o < 0x688 ∧ (o - 0x608) % 32 = 0 then some (.telThead ((o - 0x608) / 32))
  else if 0x610 ≤ o ∧ o < 0x690 ∧ (o - 0x610) % 32 = 0 then some (.telTstat ((o - 0x610) / 32))
  else none

/-- The register of the SVC_ block at offset o. -/
def Reg.ofSvc (o : Nat) : Option Reg :=
  if o < 0x400 ∧ o % 0x80 = 0x0 then some (.svcWring (o / 0x100) (o % 0x100 / 0x80))
  else if o < 0x400 ∧ o % 0x80 = 0x8 then some (.svcWhead (o / 0x100) (o % 0x100 / 0x80))
  else if o < 0x400 ∧ o % 0x80 = 0x10 then some (.svcRring (o / 0x100) (o % 0x100 / 0x80))
  else if o < 0x400 ∧ o % 0x80 = 0x18 then some (.svcRhead (o / 0x100) (o % 0x100 / 0x80))
  else if o < 0x400 ∧ o % 0x80 = 0x20 then some (.svcQpt (o / 0x100) (o % 0x100 / 0x80))
  else if o < 0x400 ∧ o % 0x80 = 0x28 then some (.svcKeyt (o / 0x100) (o % 0x100 / 0x80))
  else if o < 0x400 ∧ o % 0x80 = 0x30 then some (.svcStat (o / 0x100) (o % 0x100 / 0x80))
  else if o < 0x400 ∧ o % 0x80 = 0x38 then some (.svcIrq (o / 0x100) (o % 0x100 / 0x80))
  else if o < 0x400 ∧ o % 0x80 = 0x40 then some (.svcIrqEn (o / 0x100) (o % 0x100 / 0x80))
  else none

/-- The register of the MGT_ block at offset o. -/
def Reg.ofMgt (o : Nat) : Option Reg :=
  if o = 0x0 then some (.mgtStatus)
  else none

/-- The register of a mailbox block at offset o of partition p's block. -/
def Reg.ofMbx (p o : Nat) : Option Reg :=
  if o < 0x800 ∧ o % 8 = 0 then some (.mbxCmd p (o / 0x80) (o % 0x80 / 8))
  else if 0x800 ≤ o ∧ o < 0x1000 ∧ o % 8 = 0 then some (.mbxRsp p ((o - 0x800) / 0x80) (o % 0x80 / 8))
  else if o = 0x1000 then some (.mbxStat p)
  else if o = 0x1008 then some (.mbxIrq p)
  else if o = 0x1010 then some (.mbxIrqEn p)
  else none

/-- The register at a module address (Tables 13.1 and 13.2); none where no register lies. -/
def Reg.ofAddr (a : Nat) : Option Reg :=
  if a < 0x080000000000 then none
  else
    let o := a - 0x080000000000
    if o < 0x1C0000 then Reg.ofCluster (o / 0x10000) (o % 0x10000)
    else if o < 0x200000 then none
    else
      let b := o / 0x10000
      let q := o % 0x10000
      if b = 0x20 then Reg.ofKln q
      else if b = 0x21 then Reg.ofRk q
      else if b = 0x22 then Reg.ofFab q
      else if b = 0x23 then Reg.ofHbm q
      else if b = 0x24 then Reg.ofClr q
      else if b = 0x25 then Reg.ofHost q
      else if b = 0x26 then (if q < 0x8000 then Reg.ofMbx (q / 0x2000) (q % 0x2000) else none)
      else if b = 0x27 then Reg.ofStg q
      else if b = 0x28 then Reg.ofSec q
      else if b = 0x29 then Reg.ofPwr q
      else if b = 0x2A then Reg.ofTel q
      else if b = 0x2B then Reg.ofSvc q
      else if b = 0x2C then Reg.ofMgt q
      else none

/-- The definition of a field, where its register has one at that bit. -/
def FKey.def? (k : FKey) : Option FieldDef := k.reg.fields.find? (fun f => f.lo == k.lo)

/-- Width of a field in bits; 0 where there is no such field. -/
def FKey.width (k : FKey) : Nat := match k.def? with | some f => f.width | none => 0

/-- Reset value of a field (R11; the value a kept field holds when never committed). -/
def FKey.reset (k : FKey) : Nat := match k.def? with | some f => f.reset | none => 0

/-- Reset domain of a field. -/
def FKey.dom (k : FKey) : Domain := match k.def? with | some f => f.dom | none => .core

/-! The fields under the manual's own names: F.<register>_<field>. -/

/-- MC_SEQ_CTRL.stop. -/
abbrev F.mcSeqCtrl_stop (c : Nat) : FKey := ⟨.mcSeqCtrl c, 1⟩
/-- MC_SEQ_CTRL.start. -/
abbrev F.mcSeqCtrl_start (c : Nat) : FKey := ⟨.mcSeqCtrl c, 0⟩
/-- MC_SEQ_STATUS.loop_depth. -/
abbrev F.mcSeqStatus_loop_depth (c : Nat) : FKey := ⟨.mcSeqStatus c, 16⟩
/-- MC_SEQ_STATUS.wait_cause. -/
abbrev F.mcSeqStatus_wait_cause (c : Nat) : FKey := ⟨.mcSeqStatus c, 8⟩
/-- MC_SEQ_STATUS.evt_ovf. -/
abbrev F.mcSeqStatus_evt_ovf (c : Nat) : FKey := ⟨.mcSeqStatus c, 6⟩
/-- MC_SEQ_STATUS.prot_hit. -/
abbrev F.mcSeqStatus_prot_hit (c : Nat) : FKey := ⟨.mcSeqStatus c, 5⟩
/-- MC_SEQ_STATUS.wr_err. -/
abbrev F.mcSeqStatus_wr_err (c : Nat) : FKey := ⟨.mcSeqStatus c, 4⟩
/-- MC_SEQ_STATUS.start_err. -/
abbrev F.mcSeqStatus_start_err (c : Nat) : FKey := ⟨.mcSeqStatus c, 3⟩
/-- MC_SEQ_STATUS.state. -/
abbrev F.mcSeqStatus_state (c : Nat) : FKey := ⟨.mcSeqStatus c, 0⟩
/-- MC_SEQ_BASE.base. -/
abbrev F.mcSeqBase_base (c : Nat) : FKey := ⟨.mcSeqBase c, 6⟩
/-- MC_SEQ_LEN.len. -/
abbrev F.mcSeqLen_len (c : Nat) : FKey := ⟨.mcSeqLen c, 0⟩
/-- MC_SEQ_PC.pc. -/
abbrev F.mcSeqPc_pc (c : Nat) : FKey := ⟨.mcSeqPc c, 0⟩
/-- MC_SEQ_FAULT.pc. -/
abbrev F.mcSeqFault_pc (c : Nat) : FKey := ⟨.mcSeqFault c, 32⟩
/-- MC_SEQ_FAULT.deferred. -/
abbrev F.mcSeqFault_deferred (c : Nat) : FKey := ⟨.mcSeqFault c, 8⟩
/-- MC_SEQ_FAULT.cause. -/
abbrev F.mcSeqFault_cause (c : Nat) : FKey := ⟨.mcSeqFault c, 0⟩
/-- MC_SEQ_IRQ.stopped. -/
abbrev F.mcSeqIrq_stopped (c : Nat) : FKey := ⟨.mcSeqIrq c, 4⟩
/-- MC_SEQ_IRQ.prot. -/
abbrev F.mcSeqIrq_prot (c : Nat) : FKey := ⟨.mcSeqIrq c, 3⟩
/-- MC_SEQ_IRQ.evt_ovf. -/
abbrev F.mcSeqIrq_evt_ovf (c : Nat) : FKey := ⟨.mcSeqIrq c, 2⟩
/-- MC_SEQ_IRQ.fault. -/
abbrev F.mcSeqIrq_fault (c : Nat) : FKey := ⟨.mcSeqIrq c, 1⟩
/-- MC_SEQ_IRQ.done. -/
abbrev F.mcSeqIrq_done (c : Nat) : FKey := ⟨.mcSeqIrq c, 0⟩
/-- MC_SEQ_IRQ_EN.stopped. -/
abbrev F.mcSeqIrqEn_stopped (c : Nat) : FKey := ⟨.mcSeqIrqEn c, 4⟩
/-- MC_SEQ_IRQ_EN.prot. -/
abbrev F.mcSeqIrqEn_prot (c : Nat) : FKey := ⟨.mcSeqIrqEn c, 3⟩
/-- MC_SEQ_IRQ_EN.evt_ovf. -/
abbrev F.mcSeqIrqEn_evt_ovf (c : Nat) : FKey := ⟨.mcSeqIrqEn c, 2⟩
/-- MC_SEQ_IRQ_EN.fault. -/
abbrev F.mcSeqIrqEn_fault (c : Nat) : FKey := ⟨.mcSeqIrqEn c, 1⟩
/-- MC_SEQ_IRQ_EN.done. -/
abbrev F.mcSeqIrqEn_done (c : Nat) : FKey := ⟨.mcSeqIrqEn c, 0⟩
/-- MC_DWQ_STATUS.done. -/
abbrev F.mcDwqStatus_done (c : Nat) : FKey := ⟨.mcDwqStatus c, 16⟩
/-- MC_DWQ_STATUS.running. -/
abbrev F.mcDwqStatus_running (c : Nat) : FKey := ⟨.mcDwqStatus c, 7⟩
/-- MC_DWQ_STATUS.full. -/
abbrev F.mcDwqStatus_full (c : Nat) : FKey := ⟨.mcDwqStatus c, 6⟩
/-- MC_DWQ_STATUS.occupancy. -/
abbrev F.mcDwqStatus_occupancy (c : Nat) : FKey := ⟨.mcDwqStatus c, 0⟩
/-- MC_LEND.bank_mask. -/
abbrev F.mcLend_bank_mask (c : Nat) : FKey := ⟨.mcLend c, 32⟩
/-- MC_LEND.lend_all. -/
abbrev F.mcLend_lend_all (c : Nat) : FKey := ⟨.mcLend c, 26⟩
/-- MC_LEND.enable. -/
abbrev F.mcLend_enable (c : Nat) : FKey := ⟨.mcLend c, 25⟩
/-- MC_LEND.acc_cnt. -/
abbrev F.mcLend_acc_cnt (c : Nat) : FKey := ⟨.mcLend c, 16⟩
/-- MC_LEND.acc_base. -/
abbrev F.mcLend_acc_base (c : Nat) : FKey := ⟨.mcLend c, 0⟩
/-- MC_RNG_SEED.seed. -/
abbrev F.mcRngSeed_seed (c : Nat) : FKey := ⟨.mcRngSeed c, 0⟩
/-- MC_GYLE.gyle. -/
abbrev F.mcGyle_gyle (c : Nat) : FKey := ⟨.mcGyle c, 0⟩
/-- MC_Gn.value. -/
abbrev F.mcG_value (c : Nat) (n : Nat) : FKey := ⟨.mcG c n, 0⟩
/-- MC_EVTn.count. -/
abbrev F.mcEvt_count (c : Nat) (n : Nat) : FKey := ⟨.mcEvt c n, 0⟩
/-- MC_ANCHORn.reduced. -/
abbrev F.mcAnchor_reduced (c : Nat) (n : Nat) : FKey := ⟨.mcAnchor c n, 63⟩
/-- MC_ANCHORn.eb_set. -/
abbrev F.mcAnchor_eb_set (c : Nat) (n : Nat) : FKey := ⟨.mcAnchor c n, 62⟩
/-- MC_ANCHORn.ea_set. -/
abbrev F.mcAnchor_ea_set (c : Nat) (n : Nat) : FKey := ⟨.mcAnchor c n, 61⟩
/-- MC_ANCHORn.logk. -/
abbrev F.mcAnchor_logk (c : Nat) (n : Nat) : FKey := ⟨.mcAnchor c n, 32⟩
/-- MC_ANCHORn.eb. -/
abbrev F.mcAnchor_eb (c : Nat) (n : Nat) : FKey := ⟨.mcAnchor c n, 16⟩
/-- MC_ANCHORn.ea. -/
abbrev F.mcAnchor_ea (c : Nat) (n : Nat) : FKey := ⟨.mcAnchor c n, 0⟩
/-- MC_TDESCs word 0.valid. -/
abbrev F.mcTdesc0_valid (c : Nat) (s : Nat) : FKey := ⟨.mcTdesc0 c s, 57⟩
/-- MC_TDESCs word 0.trans. -/
abbrev F.mcTdesc0_trans (c : Nat) (s : Nat) : FKey := ⟨.mcTdesc0 c s, 56⟩
/-- MC_TDESCs word 0.fmt. -/
abbrev F.mcTdesc0_fmt (c : Nat) (s : Nat) : FKey := ⟨.mcTdesc0 c s, 48⟩
/-- MC_TDESCs word 0.base. -/
abbrev F.mcTdesc0_base (c : Nat) (s : Nat) : FKey := ⟨.mcTdesc0 c s, 0⟩
/-- MC_TDESCs word 1.row_stride. -/
abbrev F.mcTdesc1_row_stride (c : Nat) (s : Nat) : FKey := ⟨.mcTdesc1 c s, 32⟩
/-- MC_TDESCs word 1.cols. -/
abbrev F.mcTdesc1_cols (c : Nat) (s : Nat) : FKey := ⟨.mcTdesc1 c s, 16⟩
/-- MC_TDESCs word 1.rows. -/
abbrev F.mcTdesc1_rows (c : Nat) (s : Nat) : FKey := ⟨.mcTdesc1 c s, 0⟩
/-- MC_TDESCs word 2.gcols. -/
abbrev F.mcTdesc2_gcols (c : Nat) (s : Nat) : FKey := ⟨.mcTdesc2 c s, 24⟩
/-- MC_TDESCs word 2.interleave. -/
abbrev F.mcTdesc2_interleave (c : Nat) (s : Nat) : FKey := ⟨.mcTdesc2 c s, 21⟩
/-- MC_TDESCs word 2.bank_start. -/
abbrev F.mcTdesc2_bank_start (c : Nat) (s : Nat) : FKey := ⟨.mcTdesc2 c s, 16⟩
/-- MC_TDESCs word 2.scale_slot. -/
abbrev F.mcTdesc2_scale_slot (c : Nat) (s : Nat) : FKey := ⟨.mcTdesc2 c s, 9⟩
/-- MC_TDESCs word 2.scale_src. -/
abbrev F.mcTdesc2_scale_src (c : Nat) (s : Nat) : FKey := ⟨.mcTdesc2 c s, 8⟩
/-- MC_TDESCs word 2.scale_exp. -/
abbrev F.mcTdesc2_scale_exp (c : Nat) (s : Nat) : FKey := ⟨.mcTdesc2 c s, 0⟩
/-- MC_TDESCs word 3.elem_base. -/
abbrev F.mcTdesc3_elem_base (c : Nat) (s : Nat) : FKey := ⟨.mcTdesc3 c s, 24⟩
/-- MC_TDESCs word 3.tensor_id. -/
abbrev F.mcTdesc3_tensor_id (c : Nat) (s : Nat) : FKey := ⟨.mcTdesc3 c s, 0⟩
/-- MC_DPU_MAP.retries. -/
abbrev F.mcDpuMap_retries (c : Nat) : FKey := ⟨.mcDpuMap c, 48⟩
/-- MC_DPU_MAP.spares_left. -/
abbrev F.mcDpuMap_spares_left (c : Nat) : FKey := ⟨.mcDpuMap c, 40⟩
/-- MC_DPU_MAP.out1. -/
abbrev F.mcDpuMap_out1 (c : Nat) : FKey := ⟨.mcDpuMap c, 24⟩
/-- MC_DPU_MAP.out0. -/
abbrev F.mcDpuMap_out0 (c : Nat) : FKey := ⟨.mcDpuMap c, 16⟩
/-- MC_DPU_MAP.retired. -/
abbrev F.mcDpuMap_retired (c : Nat) : FKey := ⟨.mcDpuMap c, 0⟩
/-- MC_ROUSE_CFG.hold. -/
abbrev F.mcRouseCfg_hold (c : Nat) : FKey := ⟨.mcRouseCfg c, 32⟩
/-- MC_ROUSE_CFG.ramp_step. -/
abbrev F.mcRouseCfg_ramp_step (c : Nat) : FKey := ⟨.mcRouseCfg c, 8⟩
/-- MC_ROUSE_CFG.auto_en. -/
abbrev F.mcRouseCfg_auto_en (c : Nat) : FKey := ⟨.mcRouseCfg c, 0⟩
/-- MC_ARR_STATUS.level. -/
abbrev F.mcArrStatus_level (c : Nat) : FKey := ⟨.mcArrStatus c, 8⟩
/-- MC_ARR_STATUS.phase. -/
abbrev F.mcArrStatus_phase (c : Nat) : FKey := ⟨.mcArrStatus c, 0⟩
/-- MC_ARR_BUSY.count. -/
abbrev F.mcArrBusy_count (c : Nat) : FKey := ⟨.mcArrBusy c, 0⟩
/-- MC_ARR_STALL_LOAD.count. -/
abbrev F.mcArrStallLoad_count (c : Nat) : FKey := ⟨.mcArrStallLoad c, 0⟩
/-- MC_ARR_STALL_BANK.count. -/
abbrev F.mcArrStallBank_count (c : Nat) : FKey := ⟨.mcArrStallBank c, 0⟩
/-- MC_ARR_ROUSE.count. -/
abbrev F.mcArrRouse_count (c : Nat) : FKey := ⟨.mcArrRouse c, 0⟩
/-- MC_ARR_ACC.count. -/
abbrev F.mcArrAcc_count (c : Nat) : FKey := ⟨.mcArrAcc c, 0⟩
/-- MC_WIN_STATUS.oow_count. -/
abbrev F.mcWinStatus_oow_count (c : Nat) : FKey := ⟨.mcWinStatus c, 32⟩
/-- MC_WIN_STATUS.inf_seen. -/
abbrev F.mcWinStatus_inf_seen (c : Nat) : FKey := ⟨.mcWinStatus c, 2⟩
/-- MC_WIN_STATUS.fixed_oow. -/
abbrev F.mcWinStatus_fixed_oow (c : Nat) : FKey := ⟨.mcWinStatus c, 1⟩
/-- MC_WIN_STATUS.oow. -/
abbrev F.mcWinStatus_oow (c : Nat) : FKey := ⟨.mcWinStatus c, 0⟩
/-- MC_ACC_QUERY.valid. -/
abbrev F.mcAccQuery_valid (c : Nat) : FKey := ⟨.mcAccQuery c, 63⟩
/-- MC_ACC_QUERY.fixed. -/
abbrev F.mcAccQuery_fixed (c : Nat) : FKey := ⟨.mcAccQuery c, 62⟩
/-- MC_ACC_QUERY.wfmt. -/
abbrev F.mcAccQuery_wfmt (c : Nat) : FKey := ⟨.mcAccQuery c, 60⟩
/-- MC_ACC_QUERY.anchor. -/
abbrev F.mcAccQuery_anchor (c : Nat) : FKey := ⟨.mcAccQuery c, 32⟩
/-- MC_ACC_QUERY.tile. -/
abbrev F.mcAccQuery_tile (c : Nat) : FKey := ⟨.mcAccQuery c, 0⟩
/-- VEC_UNITu.done. -/
abbrev F.vecUnit_done (c : Nat) (u : Nat) : FKey := ⟨.vecUnit c u, 32⟩
/-- VEC_UNITu.queued. -/
abbrev F.vecUnit_queued (c : Nat) (u : Nat) : FKey := ⟨.vecUnit c u, 4⟩
/-- VEC_UNITu.state. -/
abbrev F.vecUnit_state (c : Nat) (u : Nat) : FKey := ⟨.vecUnit c u, 0⟩
/-- VEC_BUSYu.count. -/
abbrev F.vecBusy_count (c : Nat) (u : Nat) : FKey := ⟨.vecBusy c u, 0⟩
/-- VEC_STALLu.count. -/
abbrev F.vecStall_count (c : Nat) (u : Nat) : FKey := ⟨.vecStall c u, 0⟩
/-- VEC_SEQ_MAP.loaded. -/
abbrev F.vecSeqMap_loaded (c : Nat) : FKey := ⟨.vecSeqMap c, 0⟩
/-- VEC_STATUS.expand_short. -/
abbrev F.vecStatus_expand_short (c : Nat) : FKey := ⟨.vecStatus c, 1⟩
/-- VEC_STATUS.compress_trunc. -/
abbrev F.vecStatus_compress_trunc (c : Nat) : FKey := ⟨.vecStatus c, 0⟩
/-- BANK_OWNERb.part. -/
abbrev F.bankOwner_part (c : Nat) (b : Nat) : FKey := ⟨.bankOwner c b, 18⟩
/-- BANK_OWNERb.pending. -/
abbrev F.bankOwner_pending (c : Nat) (b : Nat) : FKey := ⟨.bankOwner c b, 17⟩
/-- BANK_OWNERb.ho_err. -/
abbrev F.bankOwner_ho_err (c : Nat) (b : Nat) : FKey := ⟨.bankOwner c b, 16⟩
/-- BANK_OWNERb.req. -/
abbrev F.bankOwner_req (c : Nat) (b : Nat) : FKey := ⟨.bankOwner c b, 8⟩
/-- BANK_OWNERb.owner. -/
abbrev F.bankOwner_owner (c : Nat) (b : Nat) : FKey := ⟨.bankOwner c b, 0⟩
/-- BANK_STATUS.nonowner. -/
abbrev F.bankStatus_nonowner (c : Nat) : FKey := ⟨.bankStatus c, 32⟩
/-- BANK_STATUS.boosts. -/
abbrev F.bankStatus_boosts (c : Nat) : FKey := ⟨.bankStatus c, 16⟩
/-- BANK_STATUS.ue. -/
abbrev F.bankStatus_ue (c : Nat) : FKey := ⟨.bankStatus c, 3⟩
/-- BANK_STATUS.ce. -/
abbrev F.bankStatus_ce (c : Nat) : FKey := ⟨.bankStatus c, 2⟩
/-- BANK_STATUS.enc_err. -/
abbrev F.bankStatus_enc_err (c : Nat) : FKey := ⟨.bankStatus c, 1⟩
/-- BANK_STATUS.nonown. -/
abbrev F.bankStatus_nonown (c : Nat) : FKey := ⟨.bankStatus c, 0⟩
/-- BANK_MAP.spare_for. -/
abbrev F.bankMap_spare_for (c : Nat) : FKey := ⟨.bankMap c, 0⟩
/-- BANK_MARCH_CTRL.bank_mask. -/
abbrev F.bankMarchCtrl_bank_mask (c : Nat) : FKey := ⟨.bankMarchCtrl c, 32⟩
/-- BANK_MARCH_CTRL.bg. -/
abbrev F.bankMarchCtrl_bg (c : Nat) : FKey := ⟨.bankMarchCtrl c, 4⟩
/-- BANK_MARCH_CTRL.mode. -/
abbrev F.bankMarchCtrl_mode (c : Nat) : FKey := ⟨.bankMarchCtrl c, 1⟩
/-- BANK_MARCH_CTRL.start. -/
abbrev F.bankMarchCtrl_start (c : Nat) : FKey := ⟨.bankMarchCtrl c, 0⟩
/-- BANK_MARCH_STATUS.fails. -/
abbrev F.bankMarchStatus_fails (c : Nat) : FKey := ⟨.bankMarchStatus c, 32⟩
/-- BANK_MARCH_STATUS.step. -/
abbrev F.bankMarchStatus_step (c : Nat) : FKey := ⟨.bankMarchStatus c, 8⟩
/-- BANK_MARCH_STATUS.refused. -/
abbrev F.bankMarchStatus_refused (c : Nat) : FKey := ⟨.bankMarchStatus c, 3⟩
/-- BANK_MARCH_STATUS.pass. -/
abbrev F.bankMarchStatus_pass (c : Nat) : FKey := ⟨.bankMarchStatus c, 2⟩
/-- BANK_MARCH_STATUS.state. -/
abbrev F.bankMarchStatus_state (c : Nat) : FKey := ⟨.bankMarchStatus c, 0⟩
/-- BANK_MARCH_FAIL.valid. -/
abbrev F.bankMarchFail_valid (c : Nat) : FKey := ⟨.bankMarchFail c, 63⟩
/-- BANK_MARCH_FAIL.bank. -/
abbrev F.bankMarchFail_bank (c : Nat) : FKey := ⟨.bankMarchFail c, 48⟩
/-- BANK_MARCH_FAIL.row. -/
abbrev F.bankMarchFail_row (c : Nat) : FKey := ⟨.bankMarchFail c, 32⟩
/-- BANK_MARCH_FAIL.bit. -/
abbrev F.bankMarchFail_bit (c : Nat) : FKey := ⟨.bankMarchFail c, 16⟩
/-- BANK_MARCH_FAIL.col. -/
abbrev F.bankMarchFail_col (c : Nat) : FKey := ⟨.bankMarchFail c, 0⟩
/-- BANK_REPAIRb.ce_count. -/
abbrev F.bankRepair_ce_count (c : Nat) (b : Nat) : FKey := ⟨.bankRepair c b, 48⟩
/-- BANK_REPAIRb.rows_left. -/
abbrev F.bankRepair_rows_left (c : Nat) (b : Nat) : FKey := ⟨.bankRepair c b, 32⟩
/-- BANK_REPAIRb.cols_left. -/
abbrev F.bankRepair_cols_left (c : Nat) (b : Nat) : FKey := ⟨.bankRepair c b, 25⟩
/-- BANK_REPAIRb.replaced. -/
abbrev F.bankRepair_replaced (c : Nat) (b : Nat) : FKey := ⟨.bankRepair c b, 0⟩
/-- KLN_PCFGp.stream_en. -/
abbrev F.klnPcfg_stream_en (p : Nat) : FKey := ⟨.klnPcfg p, 32⟩
/-- KLN_PCFGp.bank_cnt. -/
abbrev F.klnPcfg_bank_cnt (p : Nat) : FKey := ⟨.klnPcfg p, 24⟩
/-- KLN_PCFGp.bank_first. -/
abbrev F.klnPcfg_bank_first (p : Nat) : FKey := ⟨.klnPcfg p, 16⟩
/-- KLN_PCFGp.cores. -/
abbrev F.klnPcfg_cores (p : Nat) : FKey := ⟨.klnPcfg p, 0⟩
/-- KLN_RINGp.en. -/
abbrev F.klnRing_en (p : Nat) : FKey := ⟨.klnRing p, 63⟩
/-- KLN_RINGp.size_log2. -/
abbrev F.klnRing_size_log2 (p : Nat) : FKey := ⟨.klnRing p, 48⟩
/-- KLN_RINGp.base. -/
abbrev F.klnRing_base (p : Nat) : FKey := ⟨.klnRing p, 7⟩
/-- KLN_RHEADp.head. -/
abbrev F.klnRhead_head (p : Nat) : FKey := ⟨.klnRhead p, 0⟩
/-- KLN_RSTATp.active. -/
abbrev F.klnRstat_active (p : Nat) : FKey := ⟨.klnRstat p, 40⟩
/-- KLN_RSTATp.resolved. -/
abbrev F.klnRstat_resolved (p : Nat) : FKey := ⟨.klnRstat p, 8⟩
/-- KLN_RSTATp.wr_err. -/
abbrev F.klnRstat_wr_err (p : Nat) : FKey := ⟨.klnRstat p, 3⟩
/-- KLN_RSTATp.ring_err. -/
abbrev F.klnRstat_ring_err (p : Nat) : FKey := ⟨.klnRstat p, 2⟩
/-- KLN_RSTATp.waiting. -/
abbrev F.klnRstat_waiting (p : Nat) : FKey := ⟨.klnRstat p, 1⟩
/-- KLN_RSTATp.scanning. -/
abbrev F.klnRstat_scanning (p : Nat) : FKey := ⟨.klnRstat p, 0⟩
/-- KLN_IRQp.err. -/
abbrev F.klnIrq_err (p : Nat) : FKey := ⟨.klnIrq p, 2⟩
/-- KLN_IRQp.kept. -/
abbrev F.klnIrq_kept (p : Nat) : FKey := ⟨.klnIrq p, 1⟩
/-- KLN_IRQp.done. -/
abbrev F.klnIrq_done (p : Nat) : FKey := ⟨.klnIrq p, 0⟩
/-- KLN_IRQ_ENp.err. -/
abbrev F.klnIrqEn_err (p : Nat) : FKey := ⟨.klnIrqEn p, 2⟩
/-- KLN_IRQ_ENp.kept. -/
abbrev F.klnIrqEn_kept (p : Nat) : FKey := ⟨.klnIrqEn p, 1⟩
/-- KLN_IRQ_ENp.done. -/
abbrev F.klnIrqEn_done (p : Nat) : FKey := ⟨.klnIrqEn p, 0⟩
/-- KLN_CNTp.overflow_kept. -/
abbrev F.klnCnt_overflow_kept (p : Nat) : FKey := ⟨.klnCnt p, 48⟩
/-- KLN_CNTp.stale_kept. -/
abbrev F.klnCnt_stale_kept (p : Nat) : FKey := ⟨.klnCnt p, 32⟩
/-- KLN_CNTp.stale_accepted. -/
abbrev F.klnCnt_stale_accepted (p : Nat) : FKey := ⟨.klnCnt p, 16⟩
/-- KLN_CNTp.pivots. -/
abbrev F.klnCnt_pivots (p : Nat) : FKey := ⟨.klnCnt p, 0⟩
/-- KLN_COREc.iter. -/
abbrev F.klnCore_iter (k : Nat) : FKey := ⟨.klnCore k, 48⟩
/-- KLN_COREc.job. -/
abbrev F.klnCore_job (k : Nat) : FKey := ⟨.klnCore k, 32⟩
/-- KLN_COREc.part. -/
abbrev F.klnCore_part (k : Nat) : FKey := ⟨.klnCore k, 8⟩
/-- KLN_COREc.state. -/
abbrev F.klnCore_state (k : Nat) : FKey := ⟨.klnCore k, 0⟩
/-- RK_PCFGp.ochk_ms. -/
abbrev F.rkPcfg_ochk_ms (p : Nat) : FKey := ⟨.rkPcfg p, 16⟩
/-- RK_PCFGp.units. -/
abbrev F.rkPcfg_units (p : Nat) : FKey := ⟨.rkPcfg p, 0⟩
/-- RK_LSCALEp.skips. -/
abbrev F.rkLscale_skips (p : Nat) : FKey := ⟨.rkLscale p, 32⟩
/-- RK_LSCALEp.clean. -/
abbrev F.rkLscale_clean (p : Nat) : FKey := ⟨.rkLscale p, 16⟩
/-- RK_LSCALEp.sweep_exp. -/
abbrev F.rkLscale_sweep_exp (p : Nat) : FKey := ⟨.rkLscale p, 8⟩
/-- RK_LSCALEp.exp. -/
abbrev F.rkLscale_exp (p : Nat) : FKey := ⟨.rkLscale p, 0⟩
/-- RK_LSCALE_CFGp.init. -/
abbrev F.rkLscaleCfg_init (p : Nat) : FKey := ⟨.rkLscaleCfg p, 32⟩
/-- RK_LSCALE_CFGp.max. -/
abbrev F.rkLscaleCfg_max (p : Nat) : FKey := ⟨.rkLscaleCfg p, 24⟩
/-- RK_LSCALE_CFGp.min. -/
abbrev F.rkLscaleCfg_min (p : Nat) : FKey := ⟨.rkLscaleCfg p, 16⟩
/-- RK_LSCALE_CFGp.interval. -/
abbrev F.rkLscaleCfg_interval (p : Nat) : FKey := ⟨.rkLscaleCfg p, 3⟩
/-- RK_LSCALE_CFGp.backoff. -/
abbrev F.rkLscaleCfg_backoff (p : Nat) : FKey := ⟨.rkLscaleCfg p, 1⟩
/-- RK_LSCALE_CFGp.auto. -/
abbrev F.rkLscaleCfg_auto (p : Nat) : FKey := ⟨.rkLscaleCfg p, 0⟩
/-- RK_SWEEPp.start. -/
abbrev F.rkSweep_start (p : Nat) : FKey := ⟨.rkSweep p, 63⟩
/-- RK_SWEEPp.stop. -/
abbrev F.rkSweep_stop (p : Nat) : FKey := ⟨.rkSweep p, 62⟩
/-- RK_SWEEPp.resume. -/
abbrev F.rkSweep_resume (p : Nat) : FKey := ⟨.rkSweep p, 61⟩
/-- RK_SWEEPp.gyle. -/
abbrev F.rkSweep_gyle (p : Nat) : FKey := ⟨.rkSweep p, 0⟩
/-- RK_SLISTp.count. -/
abbrev F.rkSlist_count (p : Nat) : FKey := ⟨.rkSlist p, 48⟩
/-- RK_SLISTp.base. -/
abbrev F.rkSlist_base (p : Nat) : FKey := ⟨.rkSlist p, 7⟩
/-- RK_SSTATp.err. -/
abbrev F.rkSstat_err (p : Nat) : FKey := ⟨.rkSstat p, 56⟩
/-- RK_SSTATp.wr_err. -/
abbrev F.rkSstat_wr_err (p : Nat) : FKey := ⟨.rkSstat p, 55⟩
/-- RK_SSTATp.state. -/
abbrev F.rkSstat_state (p : Nat) : FKey := ⟨.rkSstat p, 48⟩
/-- RK_SSTATp.last_gyle. -/
abbrev F.rkSstat_last_gyle (p : Nat) : FKey := ⟨.rkSstat p, 0⟩
/-- RK_CNTp.blocks. -/
abbrev F.rkCnt_blocks (p : Nat) : FKey := ⟨.rkCnt p, 32⟩
/-- RK_CNTp.held. -/
abbrev F.rkCnt_held (p : Nat) : FKey := ⟨.rkCnt p, 16⟩
/-- RK_CNTp.ratio_exceed. -/
abbrev F.rkCnt_ratio_exceed (p : Nat) : FKey := ⟨.rkCnt p, 0⟩
/-- RK_IRQp.chk. -/
abbrev F.rkIrq_chk (p : Nat) : FKey := ⟨.rkIrq p, 4⟩
/-- RK_IRQp.ratio. -/
abbrev F.rkIrq_ratio (p : Nat) : FKey := ⟨.rkIrq p, 3⟩
/-- RK_IRQp.refused. -/
abbrev F.rkIrq_refused (p : Nat) : FKey := ⟨.rkIrq p, 2⟩
/-- RK_IRQp.fault. -/
abbrev F.rkIrq_fault (p : Nat) : FKey := ⟨.rkIrq p, 1⟩
/-- RK_IRQp.done. -/
abbrev F.rkIrq_done (p : Nat) : FKey := ⟨.rkIrq p, 0⟩
/-- RK_IRQ_ENp.chk. -/
abbrev F.rkIrqEn_chk (p : Nat) : FKey := ⟨.rkIrqEn p, 4⟩
/-- RK_IRQ_ENp.ratio. -/
abbrev F.rkIrqEn_ratio (p : Nat) : FKey := ⟨.rkIrqEn p, 3⟩
/-- RK_IRQ_ENp.refused. -/
abbrev F.rkIrqEn_refused (p : Nat) : FKey := ⟨.rkIrqEn p, 2⟩
/-- RK_IRQ_ENp.fault. -/
abbrev F.rkIrqEn_fault (p : Nat) : FKey := ⟨.rkIrqEn p, 1⟩
/-- RK_IRQ_ENp.done. -/
abbrev F.rkIrqEn_done (p : Nat) : FKey := ⟨.rkIrqEn p, 0⟩
/-- RK_CHKp.start. -/
abbrev F.rkChk_start (p : Nat) : FKey := ⟨.rkChk p, 63⟩
/-- RK_CHKp.busy. -/
abbrev F.rkChk_busy (p : Nat) : FKey := ⟨.rkChk p, 62⟩
/-- RK_CHKp.bad. -/
abbrev F.rkChk_bad (p : Nat) : FKey := ⟨.rkChk p, 48⟩
/-- RK_CHKp.evt. -/
abbrev F.rkChk_evt (p : Nat) : FKey := ⟨.rkChk p, 32⟩
/-- RK_CHKp.cmask. -/
abbrev F.rkChk_cmask (p : Nat) : FKey := ⟨.rkChk p, 0⟩
/-- RK_SEEDp.seed. -/
abbrev F.rkSeed_seed (p : Nat) : FKey := ⟨.rkSeed p, 0⟩
/-- RK_CHKLp.count. -/
abbrev F.rkChkl_count (p : Nat) : FKey := ⟨.rkChkl p, 48⟩
/-- RK_CHKLp.base. -/
abbrev F.rkChkl_base (p : Nat) : FKey := ⟨.rkChkl p, 7⟩
/-- RK_UNITn.blocks. -/
abbrev F.rkUnit_blocks (n : Nat) : FKey := ⟨.rkUnit n, 32⟩
/-- RK_UNITn.retries. -/
abbrev F.rkUnit_retries (n : Nat) : FKey := ⟨.rkUnit n, 20⟩
/-- RK_UNITn.part. -/
abbrev F.rkUnit_part (n : Nat) : FKey := ⟨.rkUnit n, 8⟩
/-- RK_UNITn.state. -/
abbrev F.rkUnit_state (n : Nat) : FKey := ⟨.rkUnit n, 0⟩
/-- FAB_COORD.coord. -/
abbrev F.fabCoord_coord : FKey := ⟨.fabCoord, 16⟩
/-- FAB_COORD.module. -/
abbrev F.fabCoord_module : FKey := ⟨.fabCoord, 0⟩
/-- FAB_TORUS.size. -/
abbrev F.fabTorus_size : FKey := ⟨.fabTorus, 0⟩
/-- FAB_CFG.fixed_slots. -/
abbrev F.fabCfg_fixed_slots : FKey := ⟨.fabCfg, 21⟩
/-- FAB_CFG.transit_ok. -/
abbrev F.fabCfg_transit_ok : FKey := ⟨.fabCfg, 20⟩
/-- FAB_CFG.share. -/
abbrev F.fabCfg_share : FKey := ⟨.fabCfg, 0⟩
/-- FAB_STATUS.ftc_locked. -/
abbrev F.fabStatus_ftc_locked : FKey := ⟨.fabStatus, 7⟩
/-- FAB_STATUS.held. -/
abbrev F.fabStatus_held : FKey := ⟨.fabStatus, 3⟩
/-- FAB_STATUS.quarantined. -/
abbrev F.fabStatus_quarantined : FKey := ⟨.fabStatus, 2⟩
/-- FAB_STATUS.missing. -/
abbrev F.fabStatus_missing : FKey := ⟨.fabStatus, 1⟩
/-- FAB_STATUS.ready. -/
abbrev F.fabStatus_ready : FKey := ⟨.fabStatus, 0⟩
/-- FAB_FTC.ftc. -/
abbrev F.fabFtc_ftc : FKey := ⟨.fabFtc, 0⟩
/-- FAB_FTC_CFG.pps_offset. -/
abbrev F.fabFtcCfg_pps_offset : FKey := ⟨.fabFtcCfg, 32⟩
/-- FAB_FTC_CFG.pps_en. -/
abbrev F.fabFtcCfg_pps_en : FKey := ⟨.fabFtcCfg, 1⟩
/-- FAB_FTC_CFG.root. -/
abbrev F.fabFtcCfg_root : FKey := ⟨.fabFtcCfg, 0⟩
/-- FAB_FTC_STAT.steps. -/
abbrev F.fabFtcStat_steps : FKey := ⟨.fabFtcStat, 48⟩
/-- FAB_FTC_STAT.offset. -/
abbrev F.fabFtcStat_offset : FKey := ⟨.fabFtcStat, 32⟩
/-- FAB_FTC_STAT.depth. -/
abbrev F.fabFtcStat_depth : FKey := ⟨.fabFtcStat, 8⟩
/-- FAB_FTC_STAT.parent. -/
abbrev F.fabFtcStat_parent : FKey := ⟨.fabFtcStat, 4⟩
/-- FAB_FTC_STAT.locked. -/
abbrev F.fabFtcStat_locked : FKey := ⟨.fabFtcStat, 0⟩
/-- FAB_LMAPn.used. -/
abbrev F.fabLmap_used (n : Nat) : FKey := ⟨.fabLmap n, 20⟩
/-- FAB_LMAPn.nb_port. -/
abbrev F.fabLmap_nb_port (n : Nat) : FKey := ⟨.fabLmap n, 16⟩
/-- FAB_LMAPn.nb_module. -/
abbrev F.fabLmap_nb_module (n : Nat) : FKey := ⟨.fabLmap n, 0⟩
/-- FAB_PORTn.nb_module. -/
abbrev F.fabPort_nb_module (n : Nat) : FKey := ⟨.fabPort n, 48⟩
/-- FAB_PORTn.nb_port. -/
abbrev F.fabPort_nb_port (n : Nat) : FKey := ⟨.fabPort n, 44⟩
/-- FAB_PORTn.retrains. -/
abbrev F.fabPort_retrains (n : Nat) : FKey := ⟨.fabPort n, 36⟩
/-- FAB_PORTn.lane_mask. -/
abbrev F.fabPort_lane_mask (n : Nat) : FKey := ⟨.fabPort n, 28⟩
/-- FAB_PORTn.lanes. -/
abbrev F.fabPort_lanes (n : Nat) : FKey := ⟨.fabPort n, 24⟩
/-- FAB_PORTn.disc. -/
abbrev F.fabPort_disc (n : Nat) : FKey := ⟨.fabPort n, 16⟩
/-- FAB_PORTn.state. -/
abbrev F.fabPort_state (n : Nat) : FKey := ⟨.fabPort n, 0⟩
/-- FAB_SLICEp.valid. -/
abbrev F.fabSlice_valid (p : Nat) : FKey := ⟨.fabSlice p, 50⟩
/-- FAB_SLICEp.size. -/
abbrev F.fabSlice_size (p : Nat) : FKey := ⟨.fabSlice p, 25⟩
/-- FAB_SLICEp.origin. -/
abbrev F.fabSlice_origin (p : Nat) : FKey := ⟨.fabSlice p, 0⟩
/-- FAB_SLCFGp.timeout_ms. -/
abbrev F.fabSlcfg_timeout_ms (p : Nat) : FKey := ⟨.fabSlcfg p, 48⟩
/-- FAB_SLCFGp.up. -/
abbrev F.fabSlcfg_up (p : Nat) : FKey := ⟨.fabSlcfg p, 44⟩
/-- FAB_SLCFGp.depth. -/
abbrev F.fabSlcfg_depth (p : Nat) : FKey := ⟨.fabSlcfg p, 37⟩
/-- FAB_SLCFGp.root. -/
abbrev F.fabSlcfg_root (p : Nat) : FKey := ⟨.fabSlcfg p, 36⟩
/-- FAB_SLCFGp.sealed. -/
abbrev F.fabSlcfg_sealed (p : Nat) : FKey := ⟨.fabSlcfg p, 35⟩
/-- FAB_SLCFGp.rel_delay. -/
abbrev F.fabSlcfg_rel_delay (p : Nat) : FKey := ⟨.fabSlcfg p, 0⟩
/-- FAB_EPOCHp.draining. -/
abbrev F.fabEpoch_draining (p : Nat) : FKey := ⟨.fabEpoch p, 49⟩
/-- FAB_EPOCHp.pvalid. -/
abbrev F.fabEpoch_pvalid (p : Nat) : FKey := ⟨.fabEpoch p, 48⟩
/-- FAB_EPOCHp.open_old. -/
abbrev F.fabEpoch_open_old (p : Nat) : FKey := ⟨.fabEpoch p, 40⟩
/-- FAB_EPOCHp.pending. -/
abbrev F.fabEpoch_pending (p : Nat) : FKey := ⟨.fabEpoch p, 16⟩
/-- FAB_EPOCHp.cur. -/
abbrev F.fabEpoch_cur (p : Nat) : FKey := ⟨.fabEpoch p, 0⟩
/-- FAB_SLSTATp.releases. -/
abbrev F.fabSlstat_releases (p : Nat) : FKey := ⟨.fabSlstat p, 32⟩
/-- FAB_SLSTATp.late. -/
abbrev F.fabSlstat_late (p : Nat) : FKey := ⟨.fabSlstat p, 16⟩
/-- FAB_SLSTATp.cause. -/
abbrev F.fabSlstat_cause (p : Nat) : FKey := ⟨.fabSlstat p, 4⟩
/-- FAB_SLSTATp.fault. -/
abbrev F.fabSlstat_fault (p : Nat) : FKey := ⟨.fabSlstat p, 0⟩
/-- FAB_IRQp.coll_err. -/
abbrev F.fabIrq_coll_err (p : Nat) : FKey := ⟨.fabIrq p, 3⟩
/-- FAB_IRQp.late. -/
abbrev F.fabIrq_late (p : Nat) : FKey := ⟨.fabIrq p, 2⟩
/-- FAB_IRQp.port. -/
abbrev F.fabIrq_port (p : Nat) : FKey := ⟨.fabIrq p, 1⟩
/-- FAB_IRQp.slice_fault. -/
abbrev F.fabIrq_slice_fault (p : Nat) : FKey := ⟨.fabIrq p, 0⟩
/-- FAB_IRQ_ENp.coll_err. -/
abbrev F.fabIrqEn_coll_err (p : Nat) : FKey := ⟨.fabIrqEn p, 3⟩
/-- FAB_IRQ_ENp.late. -/
abbrev F.fabIrqEn_late (p : Nat) : FKey := ⟨.fabIrqEn p, 2⟩
/-- FAB_IRQ_ENp.port. -/
abbrev F.fabIrqEn_port (p : Nat) : FKey := ⟨.fabIrqEn p, 1⟩
/-- FAB_IRQ_ENp.slice_fault. -/
abbrev F.fabIrqEn_slice_fault (p : Nat) : FKey := ⟨.fabIrqEn p, 0⟩
/-- FAB_NFLAGp.chk_gyle. -/
abbrev F.fabNflag_chk_gyle (p : Nat) : FKey := ⟨.fabNflag p, 16⟩
/-- FAB_NFLAGp.chk_valid. -/
abbrev F.fabNflag_chk_valid (p : Nat) : FKey := ⟨.fabNflag p, 6⟩
/-- FAB_NFLAGp.red_fault. -/
abbrev F.fabNflag_red_fault (p : Nat) : FKey := ⟨.fabNflag p, 5⟩
/-- FAB_NFLAGp.red_nonfin. -/
abbrev F.fabNflag_red_nonfin (p : Nat) : FKey := ⟨.fabNflag p, 4⟩
/-- FAB_NFLAGp.fault. -/
abbrev F.fabNflag_fault (p : Nat) : FKey := ⟨.fabNflag p, 1⟩
/-- FAB_NFLAGp.nonfin. -/
abbrev F.fabNflag_nonfin (p : Nat) : FKey := ⟨.fabNflag p, 0⟩
/-- FAB_PCNTn word 0.tx_flits. -/
abbrev F.fabPcntTxFlits_tx_flits (n : Nat) : FKey := ⟨.fabPcntTxFlits n, 0⟩
/-- FAB_PCNTn word 1.rx_flits. -/
abbrev F.fabPcntRxFlits_rx_flits (n : Nat) : FKey := ⟨.fabPcntRxFlits n, 0⟩
/-- FAB_PCNTn word 2.replays. -/
abbrev F.fabPcntReplays_replays (n : Nat) : FKey := ⟨.fabPcntReplays n, 0⟩
/-- FAB_PCNTn word 3.naks. -/
abbrev F.fabPcntNaks_naks (n : Nat) : FKey := ⟨.fabPcntNaks n, 0⟩
/-- FAB_PCNTn word 4.fec_corr. -/
abbrev F.fabPcntFecCorr_fec_corr (n : Nat) : FKey := ⟨.fabPcntFecCorr n, 0⟩
/-- FAB_PCNTn word 5.fec_uncorr. -/
abbrev F.fabPcntFecUncorr_fec_uncorr (n : Nat) : FKey := ⟨.fabPcntFecUncorr n, 0⟩
/-- FAB_PCNTn word 6.credit_stall. -/
abbrev F.fabPcntCreditStall_credit_stall (n : Nat) : FKey := ⟨.fabPcntCreditStall n, 0⟩
/-- FAB_PCNTn word 7.transit. -/
abbrev F.fabPcntTransit_transit (n : Nat) : FKey := ⟨.fabPcntTransit n, 0⟩
/-- HBM_PQUOTAp.share. -/
abbrev F.hbmPquota_share (p : Nat) : FKey := ⟨.hbmPquota p, 56⟩
/-- HBM_PQUOTAp.hbm_quota. -/
abbrev F.hbmPquota_hbm_quota (p : Nat) : FKey := ⟨.hbmPquota p, 32⟩
/-- HBM_PQUOTAp.clr_quota. -/
abbrev F.hbmPquota_clr_quota (p : Nat) : FKey := ⟨.hbmPquota p, 0⟩
/-- HBM_PUSEp.over. -/
abbrev F.hbmPuse_over (p : Nat) : FKey := ⟨.hbmPuse p, 63⟩
/-- HBM_PUSEp.blocked. -/
abbrev F.hbmPuse_blocked (p : Nat) : FKey := ⟨.hbmPuse p, 62⟩
/-- HBM_PUSEp.pinned. -/
abbrev F.hbmPuse_pinned (p : Nat) : FKey := ⟨.hbmPuse p, 42⟩
/-- HBM_PUSEp.hbm_used. -/
abbrev F.hbmPuse_hbm_used (p : Nat) : FKey := ⟨.hbmPuse p, 22⟩
/-- HBM_PUSEp.clr_used. -/
abbrev F.hbmPuse_clr_used (p : Nat) : FKey := ⟨.hbmPuse p, 0⟩
/-- HBM_MRINGp.en. -/
abbrev F.hbmMring_en (p : Nat) : FKey := ⟨.hbmMring p, 63⟩
/-- HBM_MRINGp.size_log2. -/
abbrev F.hbmMring_size_log2 (p : Nat) : FKey := ⟨.hbmMring p, 48⟩
/-- HBM_MRINGp.base. -/
abbrev F.hbmMring_base (p : Nat) : FKey := ⟨.hbmMring p, 5⟩
/-- HBM_MHEADp.head. -/
abbrev F.hbmMhead_head (p : Nat) : FKey := ⟨.hbmMhead p, 0⟩
/-- HBM_MSTATp.late. -/
abbrev F.hbmMstat_late (p : Nat) : FKey := ⟨.hbmMstat p, 48⟩
/-- HBM_MSTATp.faultins. -/
abbrev F.hbmMstat_faultins (p : Nat) : FKey := ⟨.hbmMstat p, 16⟩
/-- HBM_MSTATp.wr_err. -/
abbrev F.hbmMstat_wr_err (p : Nat) : FKey := ⟨.hbmMstat p, 3⟩
/-- HBM_MSTATp.ring_err. -/
abbrev F.hbmMstat_ring_err (p : Nat) : FKey := ⟨.hbmMstat p, 2⟩
/-- HBM_MSTATp.evicting. -/
abbrev F.hbmMstat_evicting (p : Nat) : FKey := ⟨.hbmMstat p, 1⟩
/-- HBM_MSTATp.scanning. -/
abbrev F.hbmMstat_scanning (p : Nat) : FKey := ⟨.hbmMstat p, 0⟩
/-- HBM_MCNTp.evicted. -/
abbrev F.hbmMcnt_evicted (p : Nat) : FKey := ⟨.hbmMcnt p, 32⟩
/-- HBM_MCNTp.brought. -/
abbrev F.hbmMcnt_brought (p : Nat) : FKey := ⟨.hbmMcnt p, 0⟩
/-- HBM_SCRUB.passes. -/
abbrev F.hbmScrub_passes : FKey := ⟨.hbmScrub, 32⟩
/-- HBM_SCRUB.period_h. -/
abbrev F.hbmScrub_period_h : FKey := ⟨.hbmScrub, 0⟩
/-- HBM_UE_LOG.valid. -/
abbrev F.hbmUeLog_valid : FKey := ⟨.hbmUeLog, 63⟩
/-- HBM_UE_LOG.outcome. -/
abbrev F.hbmUeLog_outcome : FKey := ⟨.hbmUeLog, 61⟩
/-- HBM_UE_LOG.tier. -/
abbrev F.hbmUeLog_tier : FKey := ⟨.hbmUeLog, 60⟩
/-- HBM_UE_LOG.part. -/
abbrev F.hbmUeLog_part : FKey := ⟨.hbmUeLog, 58⟩
/-- HBM_UE_LOG.page. -/
abbrev F.hbmUeLog_page : FKey := ⟨.hbmUeLog, 20⟩
/-- HBM_UE_LOG.frame. -/
abbrev F.hbmUeLog_frame : FKey := ⟨.hbmUeLog, 0⟩
/-- HBM_DEVn.ce_count. -/
abbrev F.hbmDev_ce_count (n : Nat) : FKey := ⟨.hbmDev n, 48⟩
/-- HBM_DEVn.ue_count. -/
abbrev F.hbmDev_ue_count (n : Nat) : FKey := ⟨.hbmDev n, 32⟩
/-- HBM_DEVn.retired. -/
abbrev F.hbmDev_retired (n : Nat) : FKey := ⟨.hbmDev n, 16⟩
/-- HBM_DEVn.repairs. -/
abbrev F.hbmDev_repairs (n : Nat) : FKey := ⟨.hbmDev n, 8⟩
/-- CLR_SNAPp.start. -/
abbrev F.clrSnap_start (p : Nat) : FKey := ⟨.clrSnap p, 63⟩
/-- CLR_SNAPp.abort. -/
abbrev F.clrSnap_abort (p : Nat) : FKey := ⟨.clrSnap p, 62⟩
/-- CLR_SNAPp.wr_err. -/
abbrev F.clrSnap_wr_err (p : Nat) : FKey := ⟨.clrSnap p, 61⟩
/-- CLR_SNAPp.kind. -/
abbrev F.clrSnap_kind (p : Nat) : FKey := ⟨.clrSnap p, 60⟩
/-- CLR_SNAPp.state. -/
abbrev F.clrSnap_state (p : Nat) : FKey := ⟨.clrSnap p, 58⟩
/-- CLR_SNAPp.status. -/
abbrev F.clrSnap_status (p : Nat) : FKey := ⟨.clrSnap p, 48⟩
/-- CLR_SNAPp.gyle. -/
abbrev F.clrSnap_gyle (p : Nat) : FKey := ⟨.clrSnap p, 0⟩
/-- CLR_SNAPLp.count. -/
abbrev F.clrSnapl_count (p : Nat) : FKey := ⟨.clrSnapl p, 48⟩
/-- CLR_SNAPLp.base. -/
abbrev F.clrSnapl_base (p : Nat) : FKey := ⟨.clrSnapl p, 4⟩
/-- CLR_SNAPTp.module. -/
abbrev F.clrSnapt_module (p : Nat) : FKey := ⟨.clrSnapt p, 48⟩
/-- CLR_SNAPTp.addr. -/
abbrev F.clrSnapt_addr (p : Nat) : FKey := ⟨.clrSnapt p, 0⟩
/-- CLR_BUDDYp.en. -/
abbrev F.clrBuddy_en (p : Nat) : FKey := ⟨.clrBuddy p, 63⟩
/-- CLR_BUDDYp.gen. -/
abbrev F.clrBuddy_gen (p : Nat) : FKey := ⟨.clrBuddy p, 62⟩
/-- CLR_BUDDYp.valid. -/
abbrev F.clrBuddy_valid (p : Nat) : FKey := ⟨.clrBuddy p, 61⟩
/-- CLR_BUDDYp.gpages. -/
abbrev F.clrBuddy_gpages (p : Nat) : FKey := ⟨.clrBuddy p, 40⟩
/-- CLR_BUDDYp.base. -/
abbrev F.clrBuddy_base (p : Nat) : FKey := ⟨.clrBuddy p, 0⟩
/-- CLR_BUDDY_SRCp.src. -/
abbrev F.clrBuddySrc_src (p : Nat) : FKey := ⟨.clrBuddySrc p, 48⟩
/-- CLR_BUDDY_SRCp.last_gyle. -/
abbrev F.clrBuddySrc_last_gyle (p : Nat) : FKey := ⟨.clrBuddySrc p, 0⟩
/-- CLR_DEVn.ce_count. -/
abbrev F.clrDev_ce_count (n : Nat) : FKey := ⟨.clrDev n, 48⟩
/-- CLR_DEVn.ue_count. -/
abbrev F.clrDev_ue_count (n : Nat) : FKey := ⟨.clrDev n, 32⟩
/-- CLR_DEVn.retired. -/
abbrev F.clrDev_retired (n : Nat) : FKey := ⟨.clrDev n, 16⟩
/-- CLR_DEVn.repairs. -/
abbrev F.clrDev_repairs (n : Nat) : FKey := ⟨.clrDev n, 8⟩
/-- HOST_PCFGp.en. -/
abbrev F.hostPcfg_en (p : Nat) : FKey := ⟨.hostPcfg p, 63⟩
/-- HOST_PCFGp.svc_share. -/
abbrev F.hostPcfg_svc_share (p : Nat) : FKey := ⟨.hostPcfg p, 56⟩
/-- HOST_PCFGp.clusters. -/
abbrev F.hostPcfg_clusters (p : Nat) : FKey := ⟨.hostPcfg p, 0⟩
/-- HOST_HGSTATq.boots. -/
abbrev F.hostHgstat_boots (p : Nat) : FKey := ⟨.hostHgstat p, 48⟩
/-- HOST_HGSTATq.msi_hart. -/
abbrev F.hostHgstat_msi_hart (p : Nat) : FKey := ⟨.hostHgstat p, 8⟩
/-- HOST_HGSTATq.cores_up. -/
abbrev F.hostHgstat_cores_up (p : Nat) : FKey := ⟨.hostHgstat p, 4⟩
/-- HOST_HGSTATq.state. -/
abbrev F.hostHgstat_state (p : Nat) : FKey := ⟨.hostHgstat p, 0⟩
/-- command slot i.word. -/
abbrev F.mbxCmd_word (p : Nat) (i : Nat) (w : Nat) : FKey := ⟨.mbxCmd p i w, 0⟩
/-- response slot i.word. -/
abbrev F.mbxRsp_word (p : Nat) (i : Nat) (w : Nat) : FKey := ⟨.mbxRsp p i w, 0⟩
/-- MBX_STATp.picked. -/
abbrev F.mbxStat_picked (p : Nat) : FKey := ⟨.mbxStat p, 32⟩
/-- MBX_STATp.last_slot. -/
abbrev F.mbxStat_last_slot (p : Nat) : FKey := ⟨.mbxStat p, 4⟩
/-- MBX_STATp.busy_wr. -/
abbrev F.mbxStat_busy_wr (p : Nat) : FKey := ⟨.mbxStat p, 0⟩
/-- MBX_IRQp.restart. -/
abbrev F.mbxIrq_restart (p : Nat) : FKey := ⟨.mbxIrq p, 1⟩
/-- MBX_IRQp.resp. -/
abbrev F.mbxIrq_resp (p : Nat) : FKey := ⟨.mbxIrq p, 0⟩
/-- MBX_IRQ_ENp.restart. -/
abbrev F.mbxIrqEn_restart (p : Nat) : FKey := ⟨.mbxIrqEn p, 1⟩
/-- MBX_IRQ_ENp.resp. -/
abbrev F.mbxIrqEn_resp (p : Nat) : FKey := ⟨.mbxIrqEn p, 0⟩
/-- STG_ISTAT.reason. -/
abbrev F.stgIstat_reason : FKey := ⟨.stgIstat, 40⟩
/-- STG_ISTAT.last. -/
abbrev F.stgIstat_last : FKey := ⟨.stgIstat, 32⟩
/-- STG_ISTAT.chan. -/
abbrev F.stgIstat_chan : FKey := ⟨.stgIstat, 22⟩
/-- STG_ISTAT.when. -/
abbrev F.stgIstat_when : FKey := ⟨.stgIstat, 20⟩
/-- STG_ISTAT.items. -/
abbrev F.stgIstat_items : FKey := ⟨.stgIstat, 8⟩
/-- STG_ISTAT.state. -/
abbrev F.stgIstat_state : FKey := ⟨.stgIstat, 0⟩
/-- STG_IWHEN.instant. -/
abbrev F.stgIwhen_instant : FKey := ⟨.stgIwhen, 0⟩
/-- STG_PSTATp.reason. -/
abbrev F.stgPstat_reason (p : Nat) : FKey := ⟨.stgPstat p, 40⟩
/-- STG_PSTATp.last. -/
abbrev F.stgPstat_last (p : Nat) : FKey := ⟨.stgPstat p, 32⟩
/-- STG_PSTATp.direct_err. -/
abbrev F.stgPstat_direct_err (p : Nat) : FKey := ⟨.stgPstat p, 25⟩
/-- STG_PSTATp.when. -/
abbrev F.stgPstat_when (p : Nat) : FKey := ⟨.stgPstat p, 20⟩
/-- STG_PSTATp.items. -/
abbrev F.stgPstat_items (p : Nat) : FKey := ⟨.stgPstat p, 8⟩
/-- STG_PSTATp.state. -/
abbrev F.stgPstat_state (p : Nat) : FKey := ⟨.stgPstat p, 0⟩
/-- STG_PWHENp.instant. -/
abbrev F.stgPwhen_instant (p : Nat) : FKey := ⟨.stgPwhen p, 0⟩
/-- SEC_FUSE.rights. -/
abbrev F.secFuse_rights : FKey := ⟨.secFuse, 16⟩
/-- SEC_FUSE.mfg_closed. -/
abbrev F.secFuse_mfg_closed : FKey := ⟨.secFuse, 15⟩
/-- SEC_FUSE.debug_lock. -/
abbrev F.secFuse_debug_lock : FKey := ⟨.secFuse, 13⟩
/-- SEC_FUSE.rollback. -/
abbrev F.secFuse_rollback : FKey := ⟨.secFuse, 4⟩
/-- SEC_FUSE.inst_valid. -/
abbrev F.secFuse_inst_valid : FKey := ⟨.secFuse, 0⟩
/-- SEC_STATUS.rejected. -/
abbrev F.secStatus_rejected : FKey := ⟨.secStatus, 32⟩
/-- SEC_STATUS.diag. -/
abbrev F.secStatus_diag : FKey := ⟨.secStatus, 6⟩
/-- SEC_STATUS.inst_slot. -/
abbrev F.secStatus_inst_slot : FKey := ⟨.secStatus, 2⟩
/-- SEC_STATUS.fw_pending. -/
abbrev F.secStatus_fw_pending : FKey := ⟨.secStatus, 1⟩
/-- SEC_STATUS.recovery. -/
abbrev F.secStatus_recovery : FKey := ⟨.secStatus, 0⟩
/-- SEC_AUDIT.next. -/
abbrev F.secAudit_next : FKey := ⟨.secAudit, 43⟩
/-- SEC_AUDIT.read_mark. -/
abbrev F.secAudit_read_mark : FKey := ⟨.secAudit, 22⟩
/-- SEC_AUDIT.lost. -/
abbrev F.secAudit_lost : FKey := ⟨.secAudit, 2⟩
/-- SEC_AUDIT.full. -/
abbrev F.secAudit_full : FKey := ⟨.secAudit, 1⟩
/-- SEC_AUDIT.near_full. -/
abbrev F.secAudit_near_full : FKey := ⟨.secAudit, 0⟩
/-- SEC_DENYp.count. -/
abbrev F.secDeny_count (p : Nat) : FKey := ⟨.secDeny p, 0⟩
/-- SEC_DIAG.close. -/
abbrev F.secDiag_close : FKey := ⟨.secDiag, 0⟩
/-- SEC_MEASn word w.digest. -/
abbrev F.secMeas_digest (n : Nat) (w : Nat) : FKey := ⟨.secMeas n w, 0⟩
/-- PWR_MODE.cap. -/
abbrev F.pwrMode_cap : FKey := ⟨.pwrMode, 8⟩
/-- PWR_MODE.mode. -/
abbrev F.pwrMode_mode : FKey := ⟨.pwrMode, 0⟩
/-- PWR_CFG.hold. -/
abbrev F.pwrCfg_hold : FKey := ⟨.pwrCfg, 32⟩
/-- PWR_CFG.pg_dis. -/
abbrev F.pwrCfg_pg_dis : FKey := ⟨.pwrCfg, 16⟩
/-- PWR_CFG.slew. -/
abbrev F.pwrCfg_slew : FKey := ⟨.pwrCfg, 0⟩
/-- PWR_STATUS.aclk. -/
abbrev F.pwrStatus_aclk : FKey := ⟨.pwrStatus, 48⟩
/-- PWR_STATUS.ceiling. -/
abbrev F.pwrStatus_ceiling : FKey := ⟨.pwrStatus, 32⟩
/-- PWR_STATUS.hclk. -/
abbrev F.pwrStatus_hclk : FKey := ⟨.pwrStatus, 16⟩
/-- PWR_STATUS.hist. -/
abbrev F.pwrStatus_hist : FKey := ⟨.pwrStatus, 15⟩
/-- PWR_STATUS.steady_ok. -/
abbrev F.pwrStatus_steady_ok : FKey := ⟨.pwrStatus, 14⟩
/-- PWR_STATUS.steady_broken. -/
abbrev F.pwrStatus_steady_broken : FKey := ⟨.pwrStatus, 13⟩
/-- PWR_STATUS.ilim. -/
abbrev F.pwrStatus_ilim : FKey := ⟨.pwrStatus, 12⟩
/-- PWR_STATUS.limit. -/
abbrev F.pwrStatus_limit : FKey := ⟨.pwrStatus, 8⟩
/-- PWR_STATUS.admit. -/
abbrev F.pwrStatus_admit : FKey := ⟨.pwrStatus, 4⟩
/-- PWR_STATUS.mode. -/
abbrev F.pwrStatus_mode : FKey := ⟨.pwrStatus, 0⟩
/-- PWR_METER.power. -/
abbrev F.pwrMeter_power : FKey := ⟨.pwrMeter, 48⟩
/-- PWR_METER.volts. -/
abbrev F.pwrMeter_volts : FKey := ⟨.pwrMeter, 32⟩
/-- PWR_METER.amps. -/
abbrev F.pwrMeter_amps : FKey := ⟨.pwrMeter, 16⟩
/-- PWR_ENERGY.mj. -/
abbrev F.pwrEnergy_mj : FKey := ⟨.pwrEnergy, 0⟩
/-- PWR_THROTc.ticks. -/
abbrev F.pwrThrot_ticks (n : Nat) : FKey := ⟨.pwrThrot n, 0⟩
/-- PWR_FAULT.count. -/
abbrev F.pwrFault_count : FKey := ⟨.pwrFault, 8⟩
/-- PWR_FAULT.over. -/
abbrev F.pwrFault_over : FKey := ⟨.pwrFault, 1⟩
/-- PWR_FAULT.under. -/
abbrev F.pwrFault_under : FKey := ⟨.pwrFault, 0⟩
/-- TEL_ALERT.trip_sensor. -/
abbrev F.telAlert_trip_sensor : FKey := ⟨.telAlert, 56⟩
/-- TEL_ALERT.trip. -/
abbrev F.telAlert_trip : FKey := ⟨.telAlert, 55⟩
/-- TEL_ALERT.audit. -/
abbrev F.telAlert_audit : FKey := ⟨.telAlert, 7⟩
/-- TEL_ALERT.recovery. -/
abbrev F.telAlert_recovery : FKey := ⟨.telAlert, 6⟩
/-- TEL_ALERT.mrestart. -/
abbrev F.telAlert_mrestart : FKey := ⟨.telAlert, 5⟩
/-- TEL_ALERT.wear. -/
abbrev F.telAlert_wear : FKey := ⟨.telAlert, 4⟩
/-- TEL_ALERT.ilim. -/
abbrev F.telAlert_ilim : FKey := ⟨.telAlert, 3⟩
/-- TEL_ALERT.coolant. -/
abbrev F.telAlert_coolant : FKey := ⟨.telAlert, 2⟩
/-- TEL_ALERT.alarm. -/
abbrev F.telAlert_alarm : FKey := ⟨.telAlert, 1⟩
/-- TEL_ALERT.throttle. -/
abbrev F.telAlert_throttle : FKey := ⟨.telAlert, 0⟩
/-- TEL_WEAR_STAT.cause. -/
abbrev F.telWearStat_cause : FKey := ⟨.telWearStat, 1⟩
/-- TEL_WEAR_STAT.advise. -/
abbrev F.telWearStat_advise : FKey := ⟨.telWearStat, 0⟩
/-- TEL_WEAR0.powered_h. -/
abbrev F.telWear0_powered_h : FKey := ⟨.telWear0, 32⟩
/-- TEL_WEAR0.hot_h. -/
abbrev F.telWear0_hot_h : FKey := ⟨.telWear0, 0⟩
/-- TEL_WEAR1.cycles. -/
abbrev F.telWear1_cycles : FKey := ⟨.telWear1, 32⟩
/-- TEL_WEAR1.restores. -/
abbrev F.telWear1_restores : FKey := ⟨.telWear1, 0⟩
/-- TEL_WEAR2.dpus. -/
abbrev F.telWear2_dpus : FKey := ⟨.telWear2, 48⟩
/-- TEL_WEAR2.banks. -/
abbrev F.telWear2_banks : FKey := ⟨.telWear2, 32⟩
/-- TEL_WEAR2.rows. -/
abbrev F.telWear2_rows : FKey := ⟨.telWear2, 16⟩
/-- TEL_WEAR2.cols. -/
abbrev F.telWear2_cols : FKey := ⟨.telWear2, 0⟩
/-- TEL_WEAR3.hbm_retired. -/
abbrev F.telWear3_hbm_retired : FKey := ⟨.telWear3, 32⟩
/-- TEL_WEAR3.clr_retired. -/
abbrev F.telWear3_clr_retired : FKey := ⟨.telWear3, 0⟩
/-- TEL_WEAR4.lanes. -/
abbrev F.telWear4_lanes : FKey := ⟨.telWear4, 48⟩
/-- TEL_WEAR4.units. -/
abbrev F.telWear4_units : FKey := ⟨.telWear4, 32⟩
/-- TEL_WEAR4.erases. -/
abbrev F.telWear4_erases : FKey := ⟨.telWear4, 0⟩
/-- TEL_TEMPn.over. -/
abbrev F.telTemp_over (n : Nat) : FKey := ⟨.telTemp n, 18⟩
/-- TEL_TEMPn.alarm. -/
abbrev F.telTemp_alarm (n : Nat) : FKey := ⟨.telTemp n, 17⟩
/-- TEL_TEMPn.valid. -/
abbrev F.telTemp_valid (n : Nat) : FKey := ⟨.telTemp n, 16⟩
/-- TEL_TEMPn.temp. -/
abbrev F.telTemp_temp (n : Nat) : FKey := ⟨.telTemp n, 0⟩
/-- TEL_ACTIVEp.ticks. -/
abbrev F.telActive_ticks (p : Nat) : FKey := ⟨.telActive p, 0⟩
/-- TEL_IDLEp_c.ticks. -/
abbrev F.telIdle_ticks (p : Nat) (n : Nat) : FKey := ⟨.telIdle p n, 0⟩
/-- TEL_TRACEp.en. -/
abbrev F.telTrace_en (p : Nat) : FKey := ⟨.telTrace p, 63⟩
/-- TEL_TRACEp.wrap. -/
abbrev F.telTrace_wrap (p : Nat) : FKey := ⟨.telTrace p, 62⟩
/-- TEL_TRACEp.size_log2. -/
abbrev F.telTrace_size_log2 (p : Nat) : FKey := ⟨.telTrace p, 56⟩
/-- TEL_TRACEp.mask. -/
abbrev F.telTrace_mask (p : Nat) : FKey := ⟨.telTrace p, 48⟩
/-- TEL_TRACEp.base. -/
abbrev F.telTrace_base (p : Nat) : FKey := ⟨.telTrace p, 5⟩
/-- TEL_THEADp.tail. -/
abbrev F.telThead_tail (p : Nat) : FKey := ⟨.telThead p, 32⟩
/-- TEL_THEADp.head. -/
abbrev F.telThead_head (p : Nat) : FKey := ⟨.telThead p, 0⟩
/-- TEL_TSTATp.lost. -/
abbrev F.telTstat_lost (p : Nat) : FKey := ⟨.telTstat p, 32⟩
/-- TEL_TSTATp.wr_err. -/
abbrev F.telTstat_wr_err (p : Nat) : FKey := ⟨.telTstat p, 0⟩
/-- SVC_WRINGps.en. -/
abbrev F.svcWring_en (p : Nat) (s : Nat) : FKey := ⟨.svcWring p s, 63⟩
/-- SVC_WRINGps.size_log2. -/
abbrev F.svcWring_size_log2 (p : Nat) (s : Nat) : FKey := ⟨.svcWring p s, 48⟩
/-- SVC_WRINGps.base. -/
abbrev F.svcWring_base (p : Nat) (s : Nat) : FKey := ⟨.svcWring p s, 5⟩
/-- SVC_WHEADps.head. -/
abbrev F.svcWhead_head (p : Nat) (s : Nat) : FKey := ⟨.svcWhead p s, 0⟩
/-- SVC_RRINGps.en. -/
abbrev F.svcRring_en (p : Nat) (s : Nat) : FKey := ⟨.svcRring p s, 63⟩
/-- SVC_RRINGps.size_log2. -/
abbrev F.svcRring_size_log2 (p : Nat) (s : Nat) : FKey := ⟨.svcRring p s, 48⟩
/-- SVC_RRINGps.base. -/
abbrev F.svcRring_base (p : Nat) (s : Nat) : FKey := ⟨.svcRring p s, 5⟩
/-- SVC_RHEADps.head. -/
abbrev F.svcRhead_head (p : Nat) (s : Nat) : FKey := ⟨.svcRhead p s, 0⟩
/-- SVC_QPTps.count. -/
abbrev F.svcQpt_count (p : Nat) (s : Nat) : FKey := ⟨.svcQpt p s, 48⟩
/-- SVC_QPTps.base. -/
abbrev F.svcQpt_base (p : Nat) (s : Nat) : FKey := ⟨.svcQpt p s, 6⟩
/-- SVC_KEYTps.count. -/
abbrev F.svcKeyt_count (p : Nat) (s : Nat) : FKey := ⟨.svcKeyt p s, 48⟩
/-- SVC_KEYTps.base. -/
abbrev F.svcKeyt_base (p : Nat) (s : Nat) : FKey := ⟨.svcKeyt p s, 6⟩
/-- SVC_STATps.naks. -/
abbrev F.svcStat_naks (p : Nat) (s : Nat) : FKey := ⟨.svcStat p s, 32⟩
/-- SVC_STATps.qp_err. -/
abbrev F.svcStat_qp_err (p : Nat) (s : Nat) : FKey := ⟨.svcStat p s, 16⟩
/-- SVC_STATps.ring_err. -/
abbrev F.svcStat_ring_err (p : Nat) (s : Nat) : FKey := ⟨.svcStat p s, 1⟩
/-- SVC_STATps.wr_err. -/
abbrev F.svcStat_wr_err (p : Nat) (s : Nat) : FKey := ⟨.svcStat p s, 0⟩
/-- SVC_IRQps.err. -/
abbrev F.svcIrq_err (p : Nat) (s : Nat) : FKey := ⟨.svcIrq p s, 1⟩
/-- SVC_IRQps.done. -/
abbrev F.svcIrq_done (p : Nat) (s : Nat) : FKey := ⟨.svcIrq p s, 0⟩
/-- SVC_IRQ_ENps.err. -/
abbrev F.svcIrqEn_err (p : Nat) (s : Nat) : FKey := ⟨.svcIrqEn p s, 1⟩
/-- SVC_IRQ_ENps.done. -/
abbrev F.svcIrqEn_done (p : Nat) (s : Nat) : FKey := ⟨.svcIrqEn p s, 0⟩
/-- MGT_STATUS.dropped. -/
abbrev F.mgtStatus_dropped : FKey := ⟨.mgtStatus, 32⟩
/-- MGT_STATUS.heartbeats. -/
abbrev F.mgtStatus_heartbeats : FKey := ⟨.mgtStatus, 16⟩
/-- MGT_STATUS.global. -/
abbrev F.mgtStatus_global : FKey := ⟨.mgtStatus, 2⟩
/-- MGT_STATUS.fec_lock. -/
abbrev F.mgtStatus_fec_lock : FKey := ⟨.mgtStatus, 1⟩
/-- MGT_STATUS.link. -/
abbrev F.mgtStatus_link : FKey := ⟨.mgtStatus, 0⟩

end Sys2Proof.Machine
end

