-- ==== Sys2Proof/Machine/State.lean ====
section
/-! DEFINITION. The state of the module as plain data: its registers, memories, page pool, clusters, engines, fabric,
maltster, security store, pins and outputs, and the queue of waiting commands. -/

namespace Sys2Proof.Machine

/-- A finite table: pairs of a key and a value, the first pair of a key holding. -/
abbrev Tab (κ α : Type) := List (κ × α)

/-- A descriptor as an instruction reads it (Table 2.18); the scale is the effective one once resolved (R113). -/
structure Desc where
  valid : Bool
  trans : Bool
  fmt : Nat
  base : Nat
  stride : Nat
  cols : Nat
  rows : Nat
  gcols : Nat
  interleave : Nat
  bankStart : Nat
  scaleSlot : Nat
  scaleSrc : Bool
  scaleExp : Int
  elemBase : Nat
  tensor : Nat
  deriving DecidableEq, Repr

/-- An accumulator entry (R83): the 72-bit integer, or in REFERENCE mode a binary32 code (R128), and the mark. -/
structure AccEntry where
  v : BitVec 72
  m : Bool
  deriving DecidableEq, Repr

/-- The window of an accumulator tile (R83): 0 W64 or 1 W32, the anchor, whether it was set FIXED. -/
structure Win where
  wfmt : Nat
  anchor : Int
  fixed : Bool
  deriving DecidableEq, Repr

/-- An active hardware loop (Table 2.13 LOOP): first instruction of the body, first after it, iterations left. -/
structure LoopRec where
  first : Nat
  stop : Nat
  left : Nat
  deriving DecidableEq, Repr

/-- One update of an AADD on its way to its memory word (R102): module address, bytes, value. -/
structure AddOp where
  addr : Nat
  size : Nat
  value : Nat
  deriving DecidableEq, Repr

/-- A MOV on the mover: descriptors with their scales resolved, conversion, and the generator key read at issue (R180). -/
structure MoveOp where
  src : Desc
  dst : Desc
  cvt : Nat
  seed : Nat
  gyle : Nat
  deriving DecidableEq, Repr

/-- The queue an issued instruction runs in (R34); a vector instruction names its units as a mask. -/
inductive JobUnit where
  | array
  | vec (units : Nat)
  | mover
  | fabric
  deriving DecidableEq, Repr

/-- An issued, incomplete instruction: what it signals, the accumulator tiles, anchor slots and banks it names, and
what its completion still does. -/
structure Job where
  unit : JobUnit
  sig : Option Nat
  tiles : List Nat
  accum : Bool
  slots : List Nat
  banks : List (Nat × Nat)
  nonfin : Bool
  move : Option MoveOp
  adds : List AddOp
  post : Option Nat
  rouse : Option Bool
  deriving DecidableEq, Repr

/-- An entry of the deferred queue (R55): the instruction word, the PC of its push, its descriptors and groups. -/
structure Deferred where
  word : Nat
  pc : Nat
  a : Desc
  g : Desc
  sk : Option Desc
  tiles : List Nat
  sig : Option Nat
  deriving DecidableEq, Repr

/-- What an issued control instruction, or an AMAX with cvt 2, waits for (R28, R49, R51-R53). -/
inductive WaitFor where
  | event (e k : Nat) (consume : Bool)
  | barrier (b : Nat)
  | channel (ch : Nat) (gd : Option Nat)
  | anchor (slot : Nat)
  | ftc (target : Nat)
  | deferred
  | fence (entries : Bool)
  deriving DecidableEq, Repr

/-- A waiting instruction: its condition, the counter its wen wait consumed, and what it signals. -/
structure WaitOp where
  on : WaitFor
  wen : Option Nat
  sig : Option Nat
  deriving DecidableEq, Repr

/-- A fault that waits for earlier work to complete (R59, R60). -/
structure PendFault where
  cause : Nat
  pc : Nat
  deferred : Bool
  deriving DecidableEq, Repr

/-- A running march test (R222, R223): the banks and whether contents are preserved. -/
structure March where
  mask : Nat
  preserving : Bool
  deriving DecidableEq, Repr

/-- A bank handover in progress (R218). -/
structure Handover where
  bank : Nat
  owner : Nat
  deriving DecidableEq, Repr

/-- A kiln guest product under way on a lent cluster (R58): the partition and ring index of its job, and the lent banks it uses. -/
structure Guest where
  p : Nat
  job : Nat
  banks : Nat
  deriving DecidableEq, Repr

/-- What a cluster holds beside its registers; guest is the kiln's product in its bubbles; rouseOld is the ramp_step and hold that a ramp
or hold in progress still runs by after a change of MC_ROUSE_CFG (R79). -/
structure Cluster where
  loops : List LoopRec
  jobs : List Job
  dwq : List Deferred
  waiting : Option WaitOp
  pend : Option PendFault
  posts : List (Nat × Nat)
  restState : Nat
  dpuFails : List Nat
  march : Option March
  handovers : List Handover
  ceRows : List (Nat × Nat × Nat)
  ceCols : List (Nat × Nat × Nat)
  startBlocked : Bool
  lastFmt : Nat
  rouseOld : Option (Nat × Nat)
  guest : Option Guest
  deriving DecidableEq, Repr

/-- A cluster with nothing running (Table 2.1 IDLE). -/
def Cluster.idle : Cluster :=
  { loops := [], jobs := [], dwq := [], waiting := none, pend := none, posts := [], restState := 0, dpuFails := [],
    march := none, handovers := [], ceRows := [], ceCols := [], startBlocked := false, lastFmt := 0, rouseOld := none, guest := none }

/-- A local barrier (R51): the mask its first arrival fixed and the clusters arrived. -/
structure LocalBarrier where
  mask : Nat
  arrived : List Nat
  deriving DecidableEq, Repr

/-- Whether a page's data are whole, being refilled, or lost (R248, R249). -/
inductive Poison where
  | sound | refilling | lost
  deriving DecidableEq, Repr

/-- A mapped page (Table 10.2), with the deadline of the prefetch that brought it and that nothing has read since (R235), and the number of
the write or mapping it last had (R244). -/
structure Page where
  tier : Tier
  frame : Nat
  obj : Nat
  pin : Bool
  src : Option (Nat × Nat × Nat)
  age : Nat
  ckptClean : Bool
  poison : Poison
  stamp : Nat
  fetched : Option Nat
  deriving DecidableEq, Repr

/-- A page of a partition's window: partition, window, page number. -/
abbrev PageKey := Nat × Tier × Nat

/-- A message-signalled interrupt sent (R287): the hart and the register whose bit was set. -/
structure Msi where
  hart : Nat
  cause : Reg
  deriving DecidableEq, Repr

/-- What the last host or maltster access returned (R5, R312, R331). -/
inductive BusResult where
  | none
  | value (v : Word)
  | accessError
  | held
  deriving DecidableEq, Repr

/-- What a whole-module failure names (Table 1.7; R74, R166, R204, R221, R224, R247, R309). -/
inductive FaultUnit where
  | cluster (c : Nat)
  | bank (c b : Nat)
  | kilnBank (b : Nat)
  | kilnCore (k : Nat)
  | kilnJob (p : Nat)
  | rackUnit (u : Nat)
  | staging (u : Nat)
  | reserve (t : Tier)
  | maltster
  deriving DecidableEq, Repr

/-- What the maltster has reported to the management controller. -/
inductive Report where
  | moduleFault (u : FaultUnit)
  | sliceFault (p cause : Nat)
  | restart
  | heartbeat
  deriving DecidableEq, Repr

/-- A data flit (Tables 11.1, 11.2). -/
structure Flit where
  msg : Nat
  len : Nat
  dpart : Nat
  kind : Nat
  part : Nat
  src : Nat
  dst : Nat
  seq : Nat
  eom : Bool
  vc : Nat
  payload : List Byte
  deriving DecidableEq, Repr

/-- A message (Tables 11.2, 11.3). -/
structure Msg where
  kind : Nat
  part : Nat
  src : Nat
  dst : Nat
  dpart : Nat
  tag : Nat
  addr : Nat
  length : Nat
  epoch : Nat
  inst : Nat
  step : Nat
  sig : Nat
  data : List Byte
  deriving DecidableEq, Repr

/-- A sideband message (Table 11.5); ext is the slot's bytes 16 to 19, in which a RELEASE of the anchor channel carries the reduced ea
and eb (log entry 24). -/
structure SbMsg where
  type : Nat
  part : Nat
  chan : Nat
  gen : Nat
  flags : Nat
  value : Nat
  ext : Nat
  deriving DecidableEq, Repr

/-- What a port holds beside its registers: sequence numbers, replay buffer and how much of it is to be resent (R260), flits
ready to go with their source (8 times the port they came in by plus their channel there; 80: this module), the source and class of the
message in progress on each channel, credits received and used by (class, VC) and buffers freed,
sideband messages out and in (R261), the last time stamps received, flits of unfinished messages, and messages received. -/
structure Port where
  txSeq : Nat
  rxSeq : Nat
  nak : Bool
  replay : List Flit
  resend : Nat
  replays : Nat
  ready : List (Nat × Flit)
  lastVc : List (Nat × Nat)
  lock : List (Nat × Nat × Nat)
  credit : List ((Nat × Nat) × Nat)
  used : List ((Nat × Nat) × Nat)
  freed : List ((Nat × Nat) × Nat)
  sbTx : Nat
  sbRx : Nat
  sbOut : List (Nat × SbMsg)
  sbIn : List SbMsg
  lastTx : Nat
  lastRx : Nat
  parts : List Flit
  inbox : List (Nat × Msg)
  trained : Bool
  signal : Bool
  ident : Option (Nat × Nat × Nat)
  deriving DecidableEq, Repr

/-- An arrival on a channel: the flags and value of Table 11.5. -/
structure Arrival where
  flags : Nat
  value : Nat
  deriving DecidableEq, Repr

/-- A use of a channel of the barrier unit (R274): the clusters of this module that joined and the mask their first fixed
(R90), whether the engine itself joined (R285) and whether for a formation (R319), the module's own combination, its
children's arrivals by port, whether ARRIVE went up, the release, and the flag check's gyle. -/
structure Chan where
  mask : Nat
  joined : List Nat
  engine : Bool
  formation : Bool
  own : Option Arrival
  kids : List (Nat × Arrival)
  sent : Bool
  release : Option (Nat × Arrival)
  cancelled : Bool
  check : Option Nat
  deriving DecidableEq, Repr

/-- A collective posted and not resolved (Table 11.10): its cluster, partition and descriptor, the instance of its tag, the blocks received
by number and offset, the axis it is at, whether it runs as a chain, and what it has combined so far (R281; log entry 15). -/
structure Coll where
  id : Nat
  c : Nat
  p : Nat
  desc : Nat
  op : Nat
  fmt : Nat
  pfmt : Nat
  axes : Nat
  count : Nat
  root : Nat
  src : Nat
  dst : Nat
  epoch : Nat
  tag : Nat
  evt : Nat
  cmask : Nat
  sevt : Option Nat
  inst : Nat
  held : Bool
  posted : Nat
  blocks : List (Nat × Nat × List Byte)
  stepped : Nat
  phase : Nat
  chain : Bool
  cur : List Byte
  deriving DecidableEq, Repr

/-- A remote read outstanding (R256): the page part it fetches, and what its RESP brought. -/
structure RemoteRead where
  req : Nat
  key : PageKey
  off : Nat
  len : Nat
  result : Option (Nat × List Byte)
  deriving DecidableEq, Repr

/-- Why a page is on its way (R235, R237, R238). -/
inductive MoveKind where
  | evict
  | bring (deadline : Option Nat)
  | swap (victim : Nat)
  deriving DecidableEq, Repr

/-- A page copy in progress: the page, why, and the frame it goes to. -/
structure PageMove where
  key : PageKey
  kind : MoveKind
  frame : Nat
  deriving DecidableEq, Repr

/-- A mover ring entry picked up and not resolved (Table 10.3): its address and words, whether its work has begun, and a status
already decided. -/
structure MoverEntry where
  slot : Nat
  w0 : Nat
  w1 : Nat
  w2 : Nat
  w3 : Nat
  begun : Bool
  status : Option Nat
  deriving DecidableEq, Repr

/-- A listed page of a snapshot: its contents once the mover has copied it (none: not yet), and its stamp then (R242, R244). -/
structure SnapPage where
  key : PageKey
  cells : Option (List Host.Cell)
  stamp : Nat
  deriving DecidableEq, Repr

/-- A snapshot (R243): its kind, gyle, target, listed pages, and the range list's bytes. -/
structure Snap where
  kind : Nat
  gyle : Nat
  module : Nat
  addr : Nat
  pages : List SnapPage
  ranges : List Byte
  deriving DecidableEq, Repr

/-- A buddy generation that stands complete at a peer (R244): its module, the partition and address of its region there, and the pages
it holds, in order after the header. -/
structure BuddyGen where
  module : Nat
  part : Nat
  addr : Nat
  keys : List PageKey
  deriving DecidableEq, Repr

/-- What a snapshot is asked to copy, and where to (R243). -/
structure SnapReq where
  kind : Nat
  gyle : Nat
  module : Nat
  addr : Nat
  list : Nat
  count : Nat
  deriving DecidableEq, Repr

/-- A host access held until its page is back (R237, R248) or copied (R242); one held since before a running snapshot's instant is part of
the page that it copies (R243). -/
structure HeldAccess where
  p : Nat
  addr : Nat
  width : Nat
  store : Option Word
  early : Bool
  deriving DecidableEq, Repr

/-- What an attempt of a kiln job holds (R149 to R155): whether it is prepared, the damped factor, its norm and floor, the pivots
regularised, the iterates or solution, the factor's columns and diagonal, the right-hand sides, iterations done, best residual,
and iterations since. Matrices are rows of binary32 codes. -/
structure KilnWork where
  ready : Bool
  ad : List (List Nat)
  norm : Nat
  delta : Nat
  pivots : Nat
  x : List (List Nat)
  m : List (List Nat)
  cols : List (List Nat)
  diag : List Nat
  rhs : List (List Nat)
  iter : Nat
  best : Nat
  flat : Nat
  deriving DecidableEq, Repr

/-- A kiln job picked up and not resolved (R142 to R166): its ring index and words, the FTC at pickup, whether it has started and
whether it may start on fewer cores than it wants (R166), its cores and banks, whether its deadline has passed (R156), the mode it computes
in once that is fixed (R18), whether the skip decision is made, s_c and c after the fold, restarts, the attempt's work, and the status
decided, with whether it was decided at the deadline. -/
structure KilnJob where
  idx : Nat
  slot : Nat
  words : List Nat
  ftc : Nat
  started : Bool
  upTo : Bool
  want : Nat
  cores : List Nat
  banks : List Nat
  late : Bool
  mode : Option Nat
  decided : Bool
  folded : Option (Nat × Nat)
  retries : Nat
  work : KilnWork
  outcome : Option Nat
  atDeadline : Bool
  deriving DecidableEq, Repr

/-- A kiln entry of a batch record (R163). -/
structure KilnEntry where
  layer : Nat
  side : Nat
  status : Nat
  iter : Nat
  pivots : Nat
  gen : Nat
  deriving DecidableEq, Repr

/-- Where a reduction of a REFERENCE gyle ran (R131): the cluster, the PC and the instruction word. -/
structure Placement where
  cluster : Nat
  pc : Nat
  word : Nat
  deriving DecidableEq, Repr

/-- A batch record (Table 12.5): whether it is not yet open, open or closed (0 to 2), and the fields the maltster fills; early holds the
kiln entries of jobs resolved before the release of their gyle's flag check, for the record it opens (R14, R163). -/
structure BatchRec where
  state : Nat
  mode : Nat
  epoch : Nat
  cuts : Nat
  outcome : Nat
  sweepExp : Nat
  kiln : List KilnEntry
  early : List KilnEntry
  level : Nat
  progDigest : BitVec 256
  inputDigest : BitVec 256
  digest : List Byte
  size : Nat
  origin : Nat
  rank : Nat
  placement : List Placement
  deriving DecidableEq, Repr

/-- A layer of a sweep (R195): its descriptor's words, its listed blocks that do not yet have wstamp = n, and whether its event is
posted. -/
structure SweepLayer where
  words : List Nat
  left : Nat
  posted : Bool
  deriving DecidableEq, Repr

/-- A block in a rack unit (R190, R198): partition, layer and block of its shard, its number among the blocks that read from
staging with the unit and place of its slot, and whether its weight phase is next. -/
structure RackWork where
  p : Nat
  layer : Nat
  block : Nat
  slot : Option (Nat × Nat × Nat)
  weight : Bool
  deriving DecidableEq, Repr

/-- The sweep of a partition, or its last (R196 to R203): its gyle, the mode of the gyle (R18), whether it resumes, the scale exponent,
its owned layers, the next layer and block to hand out, whether that layer's start is done, how many blocks were handed out and how many
of those read staging, whether a stamp fault waits for the blocks in progress, the units granted at its start, and blocks waiting to run a
phase again, with the unit that failed it (R204). -/
structure Sweep where
  gyle : Nat
  mode : Nat
  resume : Bool
  exp : Int
  layers : List SweepLayer
  layer : Nat
  block : Nat
  begun : Bool
  handed : Nat
  staged : Nat
  stamp : Bool
  units : List Nat
  again : List (RackWork × Nat)
  deriving DecidableEq, Repr

/-- An evaluation of a sweep that waits for a page of its list (R196, R237): its gyle, the scale exponent and the mode. -/
structure SweepEval where
  gyle : Nat
  exp : Int
  mode : Nat
  deriving DecidableEq, Repr

/-- A gradient staging slot (R206): bytes written into it, and how many fill it. -/
structure StgSlot where
  count : Nat
  need : Nat
  deriving DecidableEq, Repr

/-- A work entry of a service port picked up and not complete (R388): its place, its words, and the status its checks decided. -/
structure SvcEntry where
  slot : Nat
  words : List Nat
  status : Option Nat
  deriving DecidableEq, Repr

/-- A packet a service port sent (R387, R388): port, partition, kind (the work entry's op 0 to 5; 6 acknowledgement, with the bytes
an RDMA READ asked for; 7 invalid-request NAK; 8 remote-access NAK; 9 receiver-not-ready NAK; 10 congestion notification), remote QP
number, sequence number, whether it is the first and the last packet of its message, immediate data, remote address, remote key,
source MAC address, destination address, UDP ports, and bytes. -/
structure SvcPacket where
  port : Nat
  part : Nat
  kind : Nat
  qp : Nat
  psn : Nat
  first : Bool
  last : Bool
  imm : Nat
  raddr : Nat
  rkey : Nat
  smac : BitVec 48
  daddr : Nat
  sport : Nat
  dport : Nat
  data : List Byte
  deriving DecidableEq, Repr

/-- An item of a stage set (R321): a register, the bits it changes, and their values; items of one register are merged. -/
structure StageItem where
  reg : Reg
  mask : Nat
  value : Nat
  deriving DecidableEq, Repr

/-- A stage set (R321, R322): its items in order, and the picked-up STAGE_COMMIT that armed it. Its state, when, instant and channel
stand in STG_ISTAT, STG_PSTATp, STG_IWHEN and STG_PWHENp. -/
structure StageSet where
  items : List StageItem
  cmd : Option Nat
  deriving DecidableEq, Repr

/-- A command picked up and not answered (R315, R317): its number, channel (0 to 3 mailbox, 4 management port), slot, word 0 as
taken, the words of the command in effect (the inner one once a SIGNED blob is accepted), role (0 operator, 1 installer, 2 maker),
kind, sequence and signer key hash of its blob, the bytes the audit entry digests, a blob that came in the same datagram, the address to answer,
the FTC and the gyle of the partition's last flag-check arrival at pickup, and whether it waits for an instant, a release, a port or a
snapshot. -/
structure MbxCmd where
  id : Nat
  chan : Nat
  slot : Nat
  outer : Nat
  words : List Nat
  role : Nat
  kind : Nat
  seq : Nat
  key : Nat
  bytes : List Byte
  blob : List Byte
  src : Nat × Nat
  ftc : Nat
  arrived : Option Nat
  waits : Bool
  deriving DecidableEq, Repr

/-- A formation of a partition (R319): its request, the command to answer, how far it is (0 prepared, 1 COMMIT taken, 2 arrived on
the drain channel), its instant, and the register fields to restore. -/
structure Formation where
  token : Nat
  origin : Nat
  size : Nat
  epoch : Nat
  timeout : Nat
  cuts : Nat
  cmd : Nat
  phase : Nat
  instant : Nat
  saved : List (FKey × Nat)
  deriving DecidableEq, Repr

/-- What an audit entry records (R344). -/
structure AuditReq where
  role : Nat
  chan : Nat
  code : Nat
  status : Nat
  tag : Nat
  seq : Nat
  bytes : List Byte
  key : Nat
  deriving DecidableEq, Repr

/-- A datagram sent by the management port: destination address and port, and bytes. -/
structure Datagram where
  dst : Nat
  port : Nat
  data : List Byte
  deriving DecidableEq, Repr

/-- The instructions of the test access port (R386). -/
inductive JtagInstr where
  | bypass | idcode | sample | extest | clamp | highz
  deriving DecidableEq, Repr

/-- The test access port: the instruction selected, the boundary cells' update values, the bits last shifted out, and what the
pins do (0 functional, 1 driven from the chain, 2 floating). -/
structure Jtag where
  ir : JtagInstr
  cells : List Bool
  tdo : List Bool
  pins : Nat
  deriving DecidableEq, Repr

/-- Everything the module holds but the security store of chapter 14. -/
structure Dev where
  /-- Register fields that differ from their reset values (R11). -/
  f : Tab FKey Nat
  /-- Memory: strictly rising addresses, no zero byte listed; an unlisted byte reads 0 (R219, R230; log entry 4). -/
  mem : List Host.Cell
  /-- Mapped pages (R230). -/
  pages : Tab PageKey Page
  /-- Accumulator entries by cluster, tile and place row x 64 + column (R83); an absent entry is zero (log entry 6). -/
  acc : Tab (Nat × Nat × Nat) AccEntry
  /-- Windows of the tiles that carry one (R45). -/
  wins : Tab (Nat × Nat) Win
  /-- Clusters that are not idle and empty. -/
  cl : Tab Nat Cluster
  /-- Local barriers by partition and number (R51). -/
  bars : Tab (Nat × Nat) LocalBarrier
  /-- Mode in effect of each partition, and the mode of the gyle of its last flag check (R18). -/
  modes : Tab Nat Nat
  checkModes : Tab Nat Nat
  /-- Message-signalled interrupts sent, newest first. -/
  msis : List Msi
  /-- The result of the last access. -/
  bus : BusResult
  /-- The number of free values drawn: the model's own (log entry 1). -/
  free : Nat
  /-- Ports that differ from a port just out of reset (R260 to R265). -/
  ports : Tab Nat Port
  /-- Channel uses under way by partition and channel, and the use count of each channel (R274). -/
  chans : Tab (Nat × Nat) Chan
  gens : Tab (Nat × Nat) Nat
  /-- Collectives in post order, the number of the next, and the posts of each tag of a partition (R280). -/
  colls : List Coll
  collNext : Nat
  insts : Tab (Nat × Nat) Nat
  /-- Remote reads outstanding and the next request number (R256). -/
  reads : List RemoteRead
  readNext : Nat
  /-- Offsets from the parent summed, and their number (R271); the correction that the FTC's rate still makes, and the part of a tick it has
  made, in units of 1/40,960,000 tick (R271, R273); edges of FTC_PPS ignored in a row (R379). -/
  offSum : Int
  offCount : Nat
  slew : Int
  frac : Int
  ppsIgnored : Nat
  /-- The FTC at the last edge the root took (R379), and whether FAB_COORD was ever committed (R392). -/
  ppsRef : Option Nat
  coordSet : Bool
  /-- The flag-check history of each partition, newest first (R127), and the gyle of its last arrival (R324). -/
  history : Tab Nat (List (Nat × Bool))
  arrived : Tab Nat Nat
  /-- The last flit each port has sent: data or idle, and control. -/
  sentData : Tab Nat (List Byte)
  sentCtl : Tab Nat (List Byte)
  /-- Reports to the management controller, newest first. -/
  reports : List Report
  /-- Background kinds now forced (R363). -/
  forced : List Background
  /-- Page copies in progress (R235, R237), fault-ins without a victim (R237), mover entries of each partition (R238). -/
  moves : List PageMove
  blocked : List (Nat × Nat)
  mover : Tab Nat (List MoverEntry)
  /-- The running snapshot of each partition, or its last (R243). -/
  snaps : Tab Nat Snap
  /-- Buddy snapshots of each partition that are complete and not acknowledged, oldest first, the last generation acknowledged, and the
  acknowledgements sent to sources: module, partition of the region, gyle, newest first (R244). -/
  acks : Tab Nat (List Snap)
  buddies : Tab Nat BuddyGen
  acked : List (Nat × Nat × Nat)
  /-- Number of the next write or mapping of a page (R244). -/
  stamps : Nat
  /-- Commands picked up before a start of a snapshot that waits (R306). -/
  snapAt : Tab Nat Nat
  /-- Errors counted against a row of a frame, rows with an uncorrectable error awaiting repair, rows soft-repaired and recorded for hard
  repair, frames read in the patrol's pass, and how the repair reserve differs from its first frames: taken from it, joined to it, and
  frames retired (R246, R247, log entry 5). -/
  frameErrs : Tab (Tier × Nat × Nat) Nat
  badRows : List (Tier × Nat × Nat)
  hardRows : List (Tier × Nat × Nat)
  patrolled : List (Tier × Nat)
  taken : List (Tier × Nat)
  joined : List (Tier × Nat)
  retired : List (Tier × Nat)
  /-- Host accesses held, in arrival order (R237, R248). -/
  held : List HeldAccess
  /-- Kiln jobs of each partition in ring order (R142), the corrected errors counted of each kiln bank (R133), the cores that have failed
  since MOD_RESET_N (R166), the batch records by partition and gyle (R305), and the reductions of each partition since its last flag check
  in REFERENCE mode (R131). -/
  kjobs : Tab Nat (List KilnJob)
  kilnCe : Tab Nat Nat
  coreFails : List Nat
  batch : Tab (Nat × Nat) BatchRec
  placed : Tab Nat (List Placement)
  /-- Sweeps of each partition, evaluations waiting for a page, the blocks in the rack units, and the units that have failed since
  MOD_RESET_N (R204). -/
  sweeps : Tab Nat Sweep
  evals : Tab Nat SweepEval
  rack : Tab Nat RackWork
  rackFails : List Nat
  /-- Gradient staging slots by unit and place, and bytes whose write is held: unit, place, offset, byte (R206). -/
  stg : Tab (Nat × Nat) StgSlot
  stgHeld : List (Nat × Nat × Nat × Byte)
  /-- Descriptors of the running replica check of each partition (R207). -/
  checks : Tab Nat (List (List Nat))
  /-- Work entries of each partition and service port in ring order, and packets sent, newest first (R388). -/
  svc : Tab (Nat × Nat) (List SvcEntry)
  svcOut : List SvcPacket
  /-- Sequence numbers of the QPs in use, by partition, service port and QP: the next sent and the next expected (R388). -/
  qps : Tab (Nat × Nat × Nat) (Nat × Nat)
  /-- Commands picked up and not answered, in pickup order, the next number, and the partition served last (R291). -/
  picked : List MbxCmd
  mbxNext : Nat
  mbxTurn : Nat
  /-- Stage sets: key 0 to 3 a partition's, 4 the installer's (R321); the instant of the last commit with the committed fields
  before its first set (R325), and the FTC of the last commit of a mode (R18). -/
  sets : Tab Nat StageSet
  cycle : Option (Nat × Tab FKey Nat)
  modeAt : Nat
  /-- Formations (R319), dissolutions waiting for their FTC with the command to answer (R320), and the cuts of each slice (R286). -/
  forms : Tab Nat Formation
  ends : Tab Nat (Nat × Nat)
  cuts : Tab Nat Nat
  /-- The FTC at which another member's commit ends the seal of each slice, a free value drawn when the slice forms (R269; log entry 25). -/
  sealEnd : Tab Nat Nat
  /-- The maltster: 0 not started, 1 running, 2 held in reset, 3 waiting for a recovery image, 4 restarting (R309, R336, R337), the errors
  corrected in its memories (R308), the FTC of its last restart, and the version of the image it runs. -/
  malt : Nat
  maltCe : Nat
  lastRestart : Option Nat
  version : Nat × Nat × Nat
  /-- Audit entries to be written (R344), oldest first. -/
  audits : List AuditReq
  /-- Management datagrams sent, newest first (R317), and the port's global address (R384). -/
  datagrams : List Datagram
  mgtGlobal : Option Nat
  /-- The bytes of the last I2C read (R385). -/
  i2c : List Byte
  jtag : Jtag
  /-- Pins and rails (R375 to R377): standby present, MOD_RESET_N asserted, PWR_GOOD, 48 V in range, and an
  input fault since the last release with the input in range (R373). -/
  standby : Bool
  inReset : Bool
  powerGood : Bool
  inputOk : Bool
  inputTrip : Bool
  /-- ACLK limits of the cap, thermal and current loops in MHz (R348), and sensor samples at above 1,500 W (R350). -/
  capLimit : Nat
  thermLimit : Nat
  ilimLimit : Nat
  hotSteps : Nat
  /-- Units in a gated state that no register shows, units waking, and those waiting for a place to wake (R355, R357). -/
  gated : List GatedUnit
  waking : List GatedUnit
  wakeQueue : List GatedUnit
  /-- Wear counters as saved in flash (R365), and the extremes of the compute-die maximum since the last thermal cycle (Table 15.13). -/
  wearSaved : Tab FKey Nat
  swing : Option (Int × Int)
  /-- The last reading of each sensor in the always-on domain, in 1/16 °C (R360, R362). -/
  readings : Tab Nat Int
  /-- FTC of the last trace entry of each partition (R368). -/
  traced : Tab Nat Nat
  deriving DecidableEq, Repr

/-- The fuse array (Table 14.3). -/
structure Fuses where
  makerHash : BitVec 256
  instHash : List (BitVec 256)
  instValid : BitVec 4
  idSecret : BitVec 256
  rollback : BitVec 64
  debugLock : BitVec 2
  rights : BitVec 8
  mfgClosed : Bool
  deriving DecidableEq, Repr

/-- The firmware image in flash, by its header and its digest D (Table 14.6). -/
structure FwImage where
  major : Nat
  minor : Nat
  patch : Nat
  rb : Nat
  digest : BitVec 256
  sig : BitVec 512
  deriving DecidableEq, Repr

/-- The diagnostic session (R347): its scope, its length in minutes, and the FTC at its opening. -/
structure Diag where
  scope : Nat
  minutes : Nat
  opened : Nat
  deriving DecidableEq, Repr

/-- The security store of chapter 14. -/
structure Sec where
  /-- The fuses (R333). -/
  fuses : Fuses
  /-- The image in flash, and the digest of an image whose first complete boot is still to come (R338). -/
  image : FwImage
  /-- A write to flash left no image that passes R336; the FW_INSTALL that is writing one, and its image (R339). -/
  torn : Bool
  install : Option (Nat × FwImage)
  /-- The audit log (R344 to R346): entries of 128 bytes not erased, newest first, the sequence of the next, entries since the last
  seal, the FTC of the first of them, and the read mark. -/
  log : List (Nat × List Byte)
  next : Nat
  unsealed : Nat
  unsealedAt : Nat
  readMark : Nat
  /-- Last accepted blob sequences of installer and maker (R334). -/
  instSeq : Nat
  makerSeq : Nat
  /-- The diagnostic session open (R347). -/
  diag : Option Diag
  /-- Pieces of a recovery image received, by offset (R337). -/
  recovery : List (Nat × List Byte)
  /-- SM2 signatures made: the number of the next nonce (R343, R345). -/
  signs : Nat
  /-- Of SEC_AUDIT.lost, how many an entry has recorded (R346). -/
  lostNoted : Nat
  /-- The firmware version the maltster last wrote into the FRU data (R385). -/
  fru : Nat × Nat × Nat
  deriving DecidableEq, Repr

/-- The state of the block: the queue of waiting commands, first in first out, the module, and its security store. -/
structure State where
  pending : List Instr
  dev : Dev
  sec : Sec
  deriving DecidableEq, Repr

/-- A fault of the model. No command of this module stops the model: whatever the manual calls a fault is a state of the module. -/
inductive Fault where
  deriving DecidableEq, Repr

/-- A refusal of the model. -/
inductive Refusal where
  /-- Raised by an arm of exec whose command has no meaning yet; safe. -/
  | notModelled (mnemonic : String)
  deriving DecidableEq, Repr

/-- The module right after power-up and release of MOD_RESET_N, before the boot ROM has run (Table 16.6 steps 1 and 2): every
register at its reset value (R11), memory zero, nothing under way. -/
def Dev.reset : Dev :=
  { f := [], mem := [], pages := [], acc := [], wins := [], cl := [], bars := [], modes := [], checkModes := [], msis := [], bus := .none, free := 0
    ports := [], chans := [], gens := [], colls := [], collNext := 0, insts := [], reads := [], readNext := 0, offSum := 0
    offCount := 0, slew := 0, frac := 0, ppsIgnored := 0, ppsRef := none, coordSet := false, history := [], arrived := [], sentData := [], sentCtl := []
    reports := [], forced := [], moves := [], blocked := [], mover := [], snaps := [], snapAt := [], acks := [], buddies := []
    acked := [], stamps := 0, frameErrs := [], badRows := [], hardRows := [], patrolled := [], taken := []
    joined := [], retired := [], held := [], kjobs := [], kilnCe := [], coreFails := [], batch := [], placed := [], sweeps := [], evals := [], rack := [], rackFails := []
    stg := [], stgHeld := [], checks := [], svc := [], svcOut := [], qps := [], picked := [], mbxNext := 0, mbxTurn := 3, sets := []
    cycle := none, modeAt := 0, forms := [], ends := [], cuts := [], sealEnd := [], malt := 0, maltCe := 0, lastRestart := none, version := (0, 0, 0)
    audits := [], datagrams := [], mgtGlobal := none, i2c := [], jtag := ⟨.idcode, List.replicate 14 false, [], 0⟩, standby := true, inReset := false
    powerGood := true, inputOk := true, inputTrip := false, capLimit := 1800, thermLimit := 1800, ilimLimit := 1800, hotSteps := 0, gated := []
    waking := [], wakeQueue := [], wearSaved := [], swing := none, readings := [], traced := [] }

/-- The security store as delivered (log entry 8). -/
def Sec.reset : Sec :=
  { fuses := { makerHash := Config.makerHash, instHash := [Config.installerHash, 0, 0, 0], instValid := 1, idSecret := Config.idSecret
               rollback := 0, debugLock := 1, rights := 0, mfgClosed := true }
    image := { major := 1, minor := 0, patch := 0, rb := 0, digest := Config.factoryDigest, sig := Config.factorySignature }
    torn := false, install := none
    log := [], next := 1, unsealed := 0, unsealedAt := 0, readMark := 0, instSeq := 0, makerSeq := 0, diag := none, recovery := []
    signs := 0, lostNoted := 0, fru := (1, 0, 0) }

/-- The machine right after reset. -/
def State.reset : State := { pending := [], dev := Dev.reset, sec := Sec.reset }

end Sys2Proof.Machine
end

