-- ==== Sys2Proof/Machine/Ops.lean ====
section
/-! DEFINITION. The named operations over registers, memory and pages: field reads and writes (R5, R11), interrupts, the
byte memory, the partition's view of the address space (R310, R311), and the local flags (R123). -/

namespace Sys2Proof.Machine

/-- Looks a key up. -/
def Tab.get? {κ α : Type} [DecidableEq κ] (t : Tab κ α) (k : κ) : Option α :=
  match t with
  | [] => none
  | (x, v) :: r => if x = k then some v else Tab.get? r k

/-- Removes a key. -/
def Tab.erase {κ α : Type} [DecidableEq κ] (t : Tab κ α) (k : κ) : Tab κ α := t.filter (fun e => !decide (e.1 = k))

/-- Sets a key. -/
def Tab.put {κ α : Type} [DecidableEq κ] (t : Tab κ α) (k : κ) (v : α) : Tab κ α := (k, v) :: Tab.erase t k

/-- The value of a field: as last set, else its reset value (R11). -/
def getF (d : Dev) (k : FKey) : Nat := (Tab.get? d.f k).getD k.reset

/-- Sets a field to a value cut to its width (R3). -/
def setF (d : Dev) (k : FKey) (v : Nat) : Dev := { d with f := Tab.put d.f k (v % 2 ^ k.width) }

/-- A one-bit field as a Bool. -/
def flag (d : Dev) (k : FKey) : Bool := getF d k != 0

/-- Adds to a field that counts modulo its width. -/
def addF (d : Dev) (k : FKey) (n : Nat) : Dev := setF d k (getF d k + n)

/-- Adds to a field that saturates at its largest value. -/
def satF (d : Dev) (k : FKey) (n : Nat) : Dev := setF d k (min (getF d k + n) (2 ^ k.width - 1))

/-- The fields of a register packed into its 64 bits; write-only fields and reserved bits read zero (R5, R9). -/
def packFields (d : Dev) (r : Reg) (fs : List FieldDef) : Nat :=
  fs.foldl (fun a x => if x.acc = .wo then a else a + getF d ⟨r, x.lo⟩ * 2 ^ x.lo) 0

/-- A field's bits in a store of v. -/
def fieldOf (v : Nat) (x : FieldDef) : Nat := v / 2 ^ x.lo % 2 ^ x.width

/-- Draws a free value's number. -/
def nextFree (d : Dev) : Nat × Dev := (d.free, { d with free := d.free + 1 })

/-- n free bytes (log entries 70, 92). -/
def freeBytes (d : Dev) (n : Nat) : List Byte × Dev := ((List.range n).map (fun i => Config.freeByte (d.free + i)), { d with free := d.free + n })

/-- Applies a function to each element in turn. -/
def forEach {α : Type} (l : List α) (d : Dev) (g : Dev → α → Dev) : Dev := l.foldl g d

/-! Partitions and clusters -/

/-- Cluster c belongs to partition p (HOST_PCFGp.clusters, R288). -/
def ownsCluster (d : Dev) (p c : Nat) : Bool := bitOf (getF d (F.hostPcfg_clusters p)) c

/-- The partition of a cluster. -/
def partOf (d : Dev) (c : Nat) : Option Nat := (List.range 4).find? (fun p => ownsCluster d p c)

/-- The clusters of a partition. -/
def clustersOf (d : Dev) (p : Nat) : List Nat := (List.range 28).filter (fun c => ownsCluster d p c)

/-- The clusters a mask names. -/
def maskClusters (m : Nat) : List Nat := (List.range 28).filter (fun c => bitOf m c)

/-- A cmask names only clusters of the partition (R394). -/
def cmaskOk (d : Dev) (p m : Nat) : Bool := (maskClusters m).all (fun c => ownsCluster d p c)

/-- What a cluster holds beside its registers. -/
def clusterOf (d : Dev) (c : Nat) : Cluster := (Tab.get? d.cl c).getD Cluster.idle

/-- Replaces what a cluster holds. -/
def setCluster (d : Dev) (c : Nat) (x : Cluster) : Dev := { d with cl := Tab.put d.cl c x }

/-- Changes what a cluster holds. -/
def modCluster (d : Dev) (c : Nat) (g : Cluster → Cluster) : Dev := setCluster d c (g (clusterOf d c))

/-- The mode in effect of a partition (R18): 0 FULL, 1 STEADY, 2 CAPPED, 3 REFERENCE (Table 15.9). -/
def modeOf (d : Dev) (p : Nat) : Nat := (Tab.get? d.modes p).getD (getF d F.pwrMode_mode)

/-- The partition computes in REFERENCE mode (R105). -/
def isRef (d : Dev) (p : Nat) : Bool := modeOf d p == 3

/-- The mode a gyle of partition p computes in (R18): of a gyle whose flag check has released, the mode it began in. -/
def gyleMode (d : Dev) (p n : Nat) : Nat :=
  if flag d (F.fabNflag_chk_valid p) && decide (n ≤ getF d (F.fabNflag_chk_gyle p)) then (Tab.get? d.checkModes p).getD (modeOf d p)
  else modeOf d p

/-! Interrupts -/

/-- Sends a message-signalled interrupt to partition p's host group (R287). -/
def sendMsi (d : Dev) (p : Nat) (r : Reg) : Dev :=
  { d with msis := ⟨4 * p + getF d (F.hostHgstat_msi_hart p), r⟩ :: d.msis }

/-- Sets an interrupt bit; when it becomes set while its enable is 1, one interrupt is sent (Table 2.6 and alike). -/
def raise (d : Dev) (p : Option Nat) (irq en : FKey) : Dev :=
  let d' := setF d irq 1
  match p with
  | some q => if getF d irq = 0 ∧ getF d en = 1 then sendMsi d' q irq.reg else d'
  | none => d'

/-! The local flags (R123) -/

/-- Sets the local non-finite flag of a partition. -/
def setNonfin (d : Dev) (p : Nat) : Dev := setF d (F.fabNflag_nonfin p) 1

/-- Sets nonfin and fault of a partition (Table 5.4, memory errors). -/
def setDataFault (d : Dev) (p : Nat) : Dev := setF (setNonfin d p) (F.fabNflag_fault p) 1

/-! Event counters (R49) -/

/-- Adds to E[e] of a cluster, saturating at 65,535 and setting evt_ovf (R49). -/
def evAdd (d : Dev) (c e k : Nat) : Dev :=
  let v := getF d (F.mcEvt_count c e) + k
  if v ≤ 65535 then setF d (F.mcEvt_count c e) v
  else
    raise (setF (setF d (F.mcEvt_count c e) 65535) (F.mcSeqStatus_evt_ovf c) 1) (partOf d c)
      (F.mcSeqIrq_evt_ovf c) (F.mcSeqIrqEn_evt_ovf c)

/-- Subtracts from E[e]; a passing wait covers what it takes (R49). -/
def evSub (d : Dev) (c e k : Nat) : Dev := setF d (F.mcEvt_count c e) (getF d (F.mcEvt_count c e) - k)

/-- Posts an addition to E[e] of cluster c, applied when it arrives (R49, R50). -/
def evPost (d : Dev) (c e k : Nat) : Dev := modCluster d c (fun x => { x with posts := x.posts ++ [(e, k)] })

/-- Posts 1 to E[e] of every cluster of a mask, as EVPOST does (R394). -/
def postMask (d : Dev) (mask e : Nat) : Dev := forEach (maskClusters mask) d (fun d c => evPost d c e 1)

/-- Signals the counter of the common header on completion (R33). -/
def signal (d : Dev) (c : Nat) (sig : Option Nat) : Dev :=
  match sig with
  | some e => evAdd d c e 1
  | none => d

/-! Byte memory -/

/-- The byte an address holds; an unlisted byte reads 0 (R219, R230). -/
def memGet (m : List Host.Cell) (a : Nat) : Byte :=
  match m with
  | [] => 0
  | (x, b) :: r => if x = a then b else memGet r a

/-- Writes a byte, keeping the canonical form. -/
def memPut (m : List Host.Cell) (a : Nat) (b : Byte) : List Host.Cell :=
  match m with
  | [] => if b = 0 then [] else [(a, b)]
  | (x, y) :: r =>
    if a < x then (if b = 0 then (x, y) :: r else (a, b) :: (x, y) :: r)
    else if a = x then (if b = 0 then r else (a, b) :: r)
    else (x, y) :: memPut r a b

/-- The canonical form: addresses strictly rising, no zero byte. -/
def Memory.wf (m : List Host.Cell) : Bool :=
  match m with
  | [] => true
  | (x, b) :: r => b != 0 && r.all (fun e => decide (x < e.1)) && Memory.wf r

/-- Writes a list of bytes from an address up. -/
def memPutList (m : List Host.Cell) (a : Nat) : List Byte → List Host.Cell
  | [] => m
  | b :: r => memPutList (memPut m a b) (a + 1) r

/-- Zeroes n bytes from an address. -/
def memZero (m : List Host.Cell) (a n : Nat) : List Host.Cell := m.filter (fun e => decide (e.1 < a ∨ a + n ≤ e.1))

/-- The listed bytes of n bytes from an address, by offset. -/
def memCells (m : List Host.Cell) (a n : Nat) : List Host.Cell :=
  (m.filter (fun e => decide (a ≤ e.1 ∧ e.1 < a + n))).map (fun e => (e.1 - a, e.2))

/-- Writes listed bytes over a zeroed range of n bytes from an address. -/
def memLoad (m : List Host.Cell) (a n : Nat) (cs : List Host.Cell) : List Host.Cell :=
  cs.foldl (fun m e => if e.1 < n then memPut m (a + e.1) e.2 else m) (memZero m a n)

/-- The little-endian number of a list of bytes (R4). -/
def leNat : List Byte → Nat
  | [] => 0
  | b :: r => b.toNat + 256 * leNat r

/-- n little-endian bytes of a number (R4). -/
def leBytes : Nat → Nat → List Byte
  | 0, _ => []
  | n + 1, v => BitVec.ofNat 8 v :: leBytes n (v / 256)

/-- n big-endian bytes of a number (R332, Table 14.2). -/
def beBytes (n v : Nat) : List Byte := (leBytes n v).reverse

/-- The big-endian number of a list of bytes. -/
def beNat (l : List Byte) : Nat := leNat l.reverse

/-- The words of a list of bytes, eight bytes each, as numbers; a short last word is padded with zeros. -/
def wordsOf (n : Nat) (l : List Byte) : List Nat :=
  match n with
  | 0 => []
  | n + 1 => leNat (l.take 8) :: wordsOf n (l.drop 8)

/-- Element i of a list of numbers, 0 past its end. -/
def nth (l : List Nat) (i : Nat) : Nat := l.getD i 0

/-! The address space -/

/-- A page is 2 MiB (R229). -/
def pageSize : Nat := 0x200000

/-- Place of an HBM frame in memory. -/
def hbmFrame (f : Nat) : Nat := f * 0x200000
/-- Place of a cellar frame in memory. -/
def cellarFrame (f : Nat) : Nat := 0x020000000000 + f * 0x200000
/-- Place of a cluster's scratchpad in memory: its module address (Table 13.1). -/
def spadBase (c : Nat) : Nat := 0x040000000000 + 0x4000000 * c
/-- Place of rack unit u's staging slot i in memory, eight slots of 64 KiB each. -/
def stagingBase (u i : Nat) : Nat := 0x040080000000 + 0x10000 * (8 * u + i)

/-- Place of a page's frame. -/
def framePlace (t : Tier) (f : Nat) : Nat :=
  match t with
  | .hbm => hbmFrame f
  | .cellar => cellarFrame f

/-- The page that a partition has mapped at a window page. -/
def pageAt (d : Dev) (p : Nat) (w : Tier) (v : Nat) : Option Page := Tab.get? d.pages (p, w, v)

/-- Replaces a mapped page's record. -/
def setPage (d : Dev) (p : Nat) (w : Tier) (v : Nat) (x : Page) : Dev :=
  { d with pages := Tab.put d.pages (p, w, v) x }

/-- The rack units granted to a partition, ascending (R189). -/
def unitsOf (d : Dev) (p : Nat) : List Nat := (List.range 16).filter (fun u => bitOf (getF d (F.rkPcfg_units p)) u)

/-- The rack units whose gradient slots a partition's window shows (R206): those granted, but of a running sweep those it started with
(log entry 91). -/
def slotUnits (d : Dev) (p : Nat) : List Nat :=
  match Tab.get? d.sweeps p with
  | some s => if getF d (F.rkSstat_state p) = 2 then s.units else unitsOf d p
  | none => unitsOf d p

/-- What a module address names in partition p's view (R310, R311). -/
inductive Place where
  | page (w : Tier) (v off : Nat)
  | spad (c off : Nat)
  | staging (slot off : Nat)
  | aliasSet (c off : Nat)
  | aliasClear (c off : Nat)
  | reg (a : Nat)
  | nothing
  deriving DecidableEq, Repr

/-- The region of Table 13.1 an address lies in, by partition p's view. -/
def placeOf (d : Dev) (p a : Nat) : Place :=
  if a < 0x014000000000 then
    (if (pageAt d p .hbm (a / pageSize)).isSome then .page .hbm (a / pageSize) (a % pageSize) else .nothing)
  else if 0x020000000000 ≤ a ∧ a < 0x02F800000000 then
    let v := (a - 0x020000000000) / pageSize
    (if (pageAt d p .cellar v).isSome then .page .cellar v (a % pageSize) else .nothing)
  else if 0x040000000000 ≤ a ∧ a < 0x040070000000 then
    let c := (a - 0x040000000000) / 0x4000000
    (if ownsCluster d p c then .spad c (a % 0x4000000) else .nothing)
  else if 0x040080000000 ≤ a ∧ a < 0x040080000000 + 0x10000 * (8 * (slotUnits d p).length) then
    .staging ((a - 0x040080000000) / 0x10000) (a % 0x10000)
  else if 0x040100000000 ≤ a ∧ a < 0x040170000000 then
    let c := (a - 0x040100000000) / 0x4000000
    (if ownsCluster d p c then .aliasSet c (a % 0x4000000) else .nothing)
  else if 0x040200000000 ≤ a ∧ a < 0x040270000000 then
    let c := (a - 0x040200000000) / 0x4000000
    (if ownsCluster d p c then .aliasClear c (a % 0x4000000) else .nothing)
  else if 0x080000000000 ≤ a ∧ a < 0x0800002D0000 then .reg a
  else .nothing

/-- Memory place of a byte of the view; none where no memory lies. Through the aliases a read is a plain read (R220). -/
def keyOf (d : Dev) (p a : Nat) : Option Nat :=
  match placeOf d p a with
  | .page w v off => (pageAt d p w v).map (fun x => framePlace x.tier x.frame + off)
  | .spad c off => some (spadBase c + off)
  | .staging s off => some (stagingBase ((slotUnits d p).getD (s / 8) 0) (s % 8) + off)
  | .aliasSet c off => some (spadBase c + off)
  | .aliasClear c off => some (spadBase c + off)
  | _ => none

/-- The byte lies in a page whose data are lost (R249). -/
def lostByte (d : Dev) (p a : Nat) : Bool :=
  match placeOf d p a with
  | .page w v _ => match pageAt d p w v with | some x => x.poison == .lost | none => false
  | _ => false

/-- Accesses to the page are held: it is poisoned and being refilled, or an HBM-window page whose data lie in the cellar and are not
lost (R237, R248, R249). -/
def Page.held (x : Page) (w : Tier) : Bool :=
  x.poison == .refilling || (w == .hbm && x.tier == .cellar && x.poison != .lost)

/-- The byte lies in a page whose accesses are held (R237, R248). -/
def heldByte (d : Dev) (p a : Nat) : Bool :=
  match placeOf d p a with
  | .page w v _ =>
    match pageAt d p w v with
    | some x => x.held w
    | none => false
  | _ => false

/-- One byte of partition p's view: 0xFF from a lost page (R249), 0 where nothing lies. -/
def viewByte (d : Dev) (p a : Nat) : Byte :=
  if lostByte d p a then 0xFF
  else match keyOf d p a with
    | some k => memGet d.mem k
    | none => 0

/-- n bytes of the view from an address. -/
def viewRead (d : Dev) (p a : Nat) : Nat → List Byte
  | 0 => []
  | n + 1 => viewByte d p a :: viewRead d p (a + 1) n

/-- The little-endian word of n bytes at an address. -/
def viewNat (d : Dev) (p a n : Nat) : Nat := leNat (viewRead d p a n)

/-- The places (HBM or cellar window page) that n bytes from an address touch. -/
def pagesTouched (d : Dev) (p a n : Nat) : List (Tier × Nat) :=
  let at' (x : Nat) : List (Tier × Nat) := match placeOf d p x with | .page w v _ => [(w, v)] | _ => []
  if n = 0 then []
  else (List.range ((a + n - 1) / pageSize + 1 - a / pageSize)).flatMap
    (fun i => at' (if i = 0 then a else (a / pageSize + i) * pageSize))

/-- Some of the bytes are held (R237, R248). -/
def heldRange (d : Dev) (p a n : Nat) : Bool :=
  (pagesTouched d p a n).any (fun wv =>
    match pageAt d p wv.1 wv.2 with
    | some x => x.held wv.1
    | none => false)

/-- A running snapshot lists the page and has not copied it (R242). -/
def uncopied (d : Dev) (k : PageKey) : Bool :=
  getF d (F.clrSnap_state k.1) == 1 &&
  (match Tab.get? d.snaps k.1 with
   | some s => s.pages.any (fun e => e.key == k && e.cells.isNone)
   | none => false)

/-- A write of the bytes is held: by a page (R237, R248), or until a snapshot has copied one (R242). -/
def heldWrite (d : Dev) (p a n : Nat) : Bool :=
  heldRange d p a n || (pagesTouched d p a n).any (fun wv => uncopied d (p, wv.1, wv.2))

/-- Every byte of the range lies in memory of the view (pages, scratchpads, staging). -/
def rangeMapped (d : Dev) (p a n : Nat) : Bool :=
  let ok (x : Nat) : Bool :=
    match placeOf d p x with
    | .page _ _ _ => true | .spad _ _ => true | .staging _ _ => true | _ => false
  n == 0 || (ok a && (List.range ((a + n - 1) / 0x10000 - a / 0x10000)).all (fun i => ok ((a / 0x10000 + i + 1) * 0x10000)))

/-- Every byte of the range lies in mapped pages of one of the partition's two windows. -/
def rangePages (d : Dev) (p a n : Nat) : Bool :=
  let ok (x : Nat) : Bool := match placeOf d p x with | .page _ _ _ => true | _ => false
  n == 0 || (ok a && (List.range ((a + n - 1) / pageSize - a / pageSize)).all (fun i => ok ((a / pageSize + i + 1) * pageSize)))

/-- The move brings a page into HBM in the place of page k, which goes to the cellar (R237). -/
def PageMove.displaces (m : PageMove) (k : PageKey) : Bool :=
  match m.kind with
  | .swap v => (m.key.1, Tier.hbm, v) == k
  | _ => false

/-- An access to a page under eviction cancels the eviction (R240); a fault-in that was taking the page's place waits for another
(log entry 75). -/
def cancelEviction (d : Dev) (k : PageKey) : Dev :=
  { d with
    moves := d.moves.filter (fun m => !(m.key == k && m.kind == .evict) && !m.displaces k)
    blocked := d.blocked ++ (d.moves.filter (fun m => m.displaces k)).map (fun m => (m.key.1, m.key.2.2)) }

/-! Gated units (R355 to R357) -/

/-- The unit's gated state is a power-gated one (Table 15.2). -/
def powerGated : GatedUnit → Bool
  | .cluster _ | .kilnCore _ | .rackPower _ | .hostGroup _ | .fabricPort _ | .servicePort _ => true
  | _ => false

/-- A power-gated unit is asked to wake: at most four wake at once, further requests queue in arrival order (R357). -/
def requestWake (d : Dev) (x : GatedUnit) : Dev :=
  if d.waking.contains x || d.wakeQueue.contains x then d
  else
    let d := { d with gated := d.gated.filter (fun y => y != x) }
    if d.waking.length < 4 then { d with waking := d.waking ++ [x] } else { d with wakeQueue := d.wakeQueue ++ [x] }

/-- A waking unit is awake; the next request in the queue begins to wake (R357). -/
def endWake (d : Dev) (x : GatedUnit) : Dev :=
  if d.waking.contains x then
    let d := { d with waking := d.waking.filter (fun y => y != x) }
    match d.wakeQueue with
    | y :: r => if d.waking.length < 4 then { d with waking := d.waking ++ [y], wakeQueue := r } else d
    | [] => d
  else d

/-- A unit works: it is not gated. -/
def ungate (d : Dev) (x : GatedUnit) : Dev := { d with gated := d.gated.filter (fun y => y != x) }

/-- A unit is reached: if it is gated it wakes, a power-gated one in its turn (R355, R357). -/
def reachUnit (d : Dev) (x : GatedUnit) : Dev :=
  if !d.gated.contains x then d else if powerGated x then requestWake d x else ungate d x

/-- A cluster's registers or scratchpad are reached. -/
def reachCluster (d : Dev) (c : Nat) : Dev := reachUnit d (.cluster (Fin.ofNat 28 c))

/-- A cluster is power-gated or waking. -/
def asleep (d : Dev) (c : Nat) : Bool :=
  let is (x : GatedUnit) : Bool := match x with | .cluster k => k.val == c | _ => false
  d.gated.any is || d.waking.any is || d.wakeQueue.any is

/-- Where granule g of a frame lies (R229): stack and pseudo-channel, or package and channel. -/
def granulePlace : Tier → Nat → Nat → Nat × Nat
  | .hbm, f, g => (f % 16, g % 32)
  | .cellar, f, g => ((g + f) % 64 / 4, (g + f) % 64 % 4)

/-- The granule of a frame that holds its byte off (R229). -/
def granuleOf : Tier → Nat → Nat
  | .hbm, off => off / 2048
  | .cellar, off => off / 32768

/-- Bytes lo to hi of page frame f lie, in part, in a channel or device of the tier (R229). -/
def reachesDevice (t : Tier) (f lo hi : Nat) (x : GatedUnit) : Bool :=
  let first := granuleOf t lo
  let gs := (List.range (min 64 (granuleOf t (hi - 1) + 1 - first))).map (fun i => granulePlace t f (first + i))
  match t, x with
  | .hbm, .hbmChannel s c => gs.contains (s, c)
  | .hbm, .hbmStack s => gs.any (fun e => e.1 == s)
  | .cellar, .cellarChannel k c => gs.contains (k, c)
  | .cellar, .cellarPackage k => gs.any (fun e => e.1 == k)
  | _, _ => false

/-- First address of a page of a window (R230). -/
def pageBase (w : Tier) (v : Nat) : Nat := (match w with | .hbm => 0 | .cellar => 0x020000000000) + pageSize * v

/-- An access to n bytes of the view from a reaches a gated unit (R355): a cluster by its scratchpad, a rack unit by its staging, or a
memory channel or device. -/
def reachesUnit (d : Dev) (p a n : Nat) (x : GatedUnit) : Bool :=
  match x with
  | .cluster c =>
    ownsCluster d p c.val && [0x040000000000, 0x040100000000, 0x040200000000].any (fun b =>
      decide (a < b + 0x4000000 * (c.val + 1) ∧ b + 0x4000000 * c.val < a + n))
  | .rackPower u => match placeOf d p a with | .staging s _ => (slotUnits d p).getD (s / 8) 0 == u.val | _ => false
  | _ => (pagesTouched d p a n).any (fun wv =>
    match pageAt d p wv.1 wv.2 with
    | some y =>
      let b := pageBase wv.1 wv.2
      reachesDevice y.tier y.frame (max a b - b) (min (a + n) (b + pageSize) - b) x
    | none => false)

/-- An access to n bytes of the view wakes every gated unit that it reaches; it waits for it within its own time (R355; log entry 96). -/
def reachRange (d : Dev) (p a n : Nat) : Dev := forEach (d.gated.filter (reachesUnit d p a n)) d reachUnit

/-- What reading a range does beside giving its bytes: gated units on the way wake, the pages' age is 0, an eviction is cancelled, and a
lost page sets both flags (R231, R240, R249, R355). -/
def noteRead (d : Dev) (p a n : Nat) : Dev :=
  forEach (pagesTouched d p a n) (reachRange d p a n) (fun d wv =>
    match pageAt d p wv.1 wv.2 with
    | some x =>
      let d' := setPage (cancelEviction d (p, wv.1, wv.2)) p wv.1 wv.2 { x with age := 0, fetched := none }
      if x.poison = .lost then setDataFault d' p else d'
    | none => d)

/-- What writing a range does beside: gated units on the way wake, and its pages have age 0, an eviction is cancelled, ckpt_clean is cleared
(R240, R244, R355). -/
def noteWrite (d : Dev) (p a n : Nat) : Dev :=
  forEach (pagesTouched d p a n) (reachRange d p a n) (fun d wv =>
    match pageAt d p wv.1 wv.2 with
    | some x => if x.poison = .lost then d else
        let d := setPage (cancelEviction d (p, wv.1, wv.2)) p wv.1 wv.2
          { x with age := 0, fetched := none, ckptClean := false, stamp := d.stamps }
        { d with stamps := d.stamps + 1 }
    | none => d)

/-- Staging slot i of unit u (R206). -/
def stgSlot (d : Dev) (u i : Nat) : StgSlot := (Tab.get? d.stg (u, i)).getD ⟨0, 0x10000⟩

/-- Writes a byte into a gradient staging slot: it counts there, or is held until the slot is free (R206). -/
def stagePut (d : Dev) (u i off : Nat) (b : Byte) : Dev :=
  let s := stgSlot d u i
  if s.need ≤ s.count then { d with stgHeld := d.stgHeld ++ [(u, i, off, b)] }
  else { d with mem := memPut d.mem (stagingBase u i + off) b, stg := Tab.put d.stg (u, i) { s with count := s.count + 1 } }

/-- Writes a byte of the view; a write to a lost page is discarded (R249), and staging has slots of its own (R206). -/
def viewPut (d : Dev) (p a : Nat) (b : Byte) : Dev :=
  if lostByte d p a then d
  else match placeOf d p a with
    | .staging s off => stagePut d ((slotUnits d p).getD (s / 8) 0) (s % 8) off b
    | _ => match keyOf d p a with
      | some k => { d with mem := memPut d.mem k b }
      | none => d

/-- Writes bytes of the view one after another. -/
def viewPutList (d : Dev) (p a : Nat) : List Byte → Dev
  | [] => d
  | b :: r => viewPutList (viewPut d p a b) p (a + 1) r

/-- A write of bytes to the view, with its effect on the pages' records. -/
def viewWrite (d : Dev) (p a : Nat) (bs : List Byte) : Dev := noteWrite (viewPutList d p a bs) p a bs.length

/-- A write of an n-byte little-endian word to the view. -/
def viewWriteNat (d : Dev) (p a n v : Nat) : Dev := viewWrite d p a (leBytes n v)

/-! Scratchpad protection and ownership (R30, R216) -/

/-- The sequencer state of Table 2.1. -/
def seqState (d : Dev) (c : Nat) : Nat := getF d (F.mcSeqStatus_state c)

/-- The sequencer is RUNNING or WAITING. -/
def seqActive (d : Dev) (c : Nat) : Bool := seqState d c == 1 || seqState d c == 2

/-- The sequencer is IDLE, HALTED, STOPPED or FAULTED. -/
def seqAtRest (d : Dev) (c : Nat) : Bool :=
  seqState d c == 0 || seqState d c == 3 || seqState d c == 4 || seqState d c == 5

/-- First byte of the program region (R26). -/
def progBase (d : Dev) (c : Nat) : Nat := 64 * getF d (F.mcSeqBase_base c)

/-- Byte after the program region. -/
def progEnd (d : Dev) (c : Nat) : Nat := progBase d c + 16 * getF d (F.mcSeqLen_len c)

/-- Scratchpad offsets lo..lo+n-1 of cluster c overlap its program region. -/
def overlapsProg (d : Dev) (c lo n : Nat) : Bool := decide (lo < progEnd d c ∧ progBase d c < lo + n)

/-- The region of cluster c is protected and the offsets overlap it (R30). -/
def protectedHit (d : Dev) (c lo n : Nat) : Bool := seqActive d c && overlapsProg d c lo n

/-- A write into a protected region by another agent was discarded (R30). -/
def noteProtHit (d : Dev) (c : Nat) : Dev :=
  raise (setF d (F.mcSeqStatus_prot_hit c) 1) (partOf d c) (F.mcSeqIrq_prot c) (F.mcSeqIrqEn_prot c)

/-- A bank admits the cluster's program and the agents of its partition: owned by CLUSTER with no handover pending
(R216, R218). -/
def bankOpen (d : Dev) (c b : Nat) : Bool :=
  getF d (F.bankOwner_owner c b) == 1 && getF d (F.bankOwner_pending c b) == 0

/-- A non-owner access to cluster c (R217). -/
def noteNonOwner (d : Dev) (c : Nat) : Dev := satF (setF d (F.bankStatus_nonown c) 1) (F.bankStatus_nonowner c) 1

/-- The banks that offsets lo..lo+n-1 touch. -/
def banksOf (lo n : Nat) : List Nat :=
  if n = 0 then [] else (List.range ((lo + n - 1) / 0x200000 + 1 - lo / 0x200000)).map (fun i => lo / 0x200000 + i)

end Sys2Proof.Machine
end

