-- ==== Sys2Proof/Machine/Alert.lean ====
section
/-! DEFINITION. Access errors (R331, R312), alerts (Table 15.12), module faults (Table 1.7) and the steady-broken flag
(R20). -/

namespace Sys2Proof.Machine

/-- An access error of a host counts in SEC_DENYp (R331); a load then returns zero. -/
def accessError (d : Dev) (who : Agent) : Dev :=
  let d := { d with bus := .accessError }
  match who with
  | .host p => addF d (F.secDeny_count p) 1
  | .maltster => d

/-- The agent may reach cluster c's registers and scratchpad: the host of its partition, or the maltster (R311). -/
def reachesCluster (d : Dev) (who : Agent) (c : Nat) : Bool :=
  match who with
  | .host p => ownsCluster d p c
  | .maltster => true

/-- The partition an agent acts in at cluster c. -/
def agentPart (d : Dev) (who : Agent) (c : Nat) : Option Nat :=
  match who with
  | .host p => some p
  | .maltster => partOf d c

/-- Reports to the management controller. -/
def report (d : Dev) (r : Report) : Dev := { d with reports := r :: d.reports }

/-- A module fault is reported (Table 1.7). -/
def moduleFault (d : Dev) (u : FaultUnit) : Dev := report d (.moduleFault u)

/-- Some partition of the module runs in STEADY. -/
def inSteady (d : Dev) : Bool := (List.range 4).any (fun p => modeOf d p == 1)

/-- A STEADY module sets the steady-broken flag (R20). -/
def steadyBroken (d : Dev) : Dev := if inSteady d then setF d F.pwrStatus_steady_broken 1 else d

/-- A unit leaves its partition's grant (R294). -/
def dropBit (d : Dev) (k : FKey) (i : Nat) : Dev := if bitOf (getF d k) i then setF d k (getF d k - 2 ^ i) else d

end Sys2Proof.Machine
end

