-- ==== Sys2Proof/Machine/Operands.lean ====
section
/-! DEFINITION. The fields of a tile instruction's word (Tables 2.8 to 2.17), the unused-field rule (R393), tile descriptors
(R41, R42), where a tile's bytes lie (R211, R212, R116), and the checks on operands in the causes of Table 2.23. -/

namespace Sys2Proof.Machine

/-! Fault causes (Table 2.23) -/

/-- OPCODE. -/
def cOpcode : Nat := 0x01
/-- RESERVED_BIT. -/
def cReserved : Nat := 0x02
/-- ENCODING. -/
def cEncoding : Nat := 0x03
/-- ACC_RANGE. -/
def cAccRange : Nat := 0x04
/-- DESC_INVALID. -/
def cDescInvalid : Nat := 0x05
/-- DESC_FORMAT. -/
def cDescFormat : Nat := 0x06
/-- SHAPE. -/
def cShape : Nat := 0x07
/-- PC_RANGE. -/
def cPcRange : Nat := 0x08
/-- LOOP_EXIT. -/
def cLoopExit : Nat := 0x09
/-- LOOP_DEPTH. -/
def cLoopDepth : Nat := 0x0A
/-- ANCHOR_UNSET. -/
def cAnchorUnset : Nat := 0x0B
/-- WINDOW. -/
def cWindow : Nat := 0x0C
/-- ANCHOR_UNREDUCED. -/
def cUnreduced : Nat := 0x0D
/-- ADDRESS. -/
def cAddress : Nat := 0x10
/-- BANK_OWNER. -/
def cBankOwner : Nat := 0x11
/-- PROGRAM_WRITE. -/
def cProgramWrite : Nat := 0x12
/-- FOREIGN_CLUSTER. -/
def cForeign : Nat := 0x14
/-- LENT. -/
def cLent : Nat := 0x15
/-- BARRIER_MASK. -/
def cBarrierMask : Nat := 0x19

/-! Fields of the word -/

/-- Opcode. -/
def wOp (w : Nat) : Nat := bits w 7 0
/-- wen. -/
def wWen (w : Nat) : Bool := bitOf w 8
/-- wevt. -/
def wWevt (w : Nat) : Nat := bits w 12 9
/-- sen. -/
def wSen (w : Nat) : Bool := bitOf w 13
/-- sevt. -/
def wSevt (w : Nat) : Nat := bits w 17 14
/-- gd of format C. -/
def wGd (w : Nat) : Nat := bits w 23 20
/-- ga of format C. -/
def wGa (w : Nat) : Nat := bits w 27 24
/-- gb of format C. -/
def wGb (w : Nat) : Nat := bits w 31 28
/-- sub of format C. -/
def wSub (w : Nat) : Nat := bits w 35 32
/-- e of format C. -/
def wE (w : Nat) : Nat := bits w 39 36
/-- misc of format C. -/
def wMisc (w : Nat) : Nat := bits w 47 40
/-- imm64. -/
def wImm (w : Nat) : Nat := bits w 127 64
/-- ta, slot, td: bits 25:20. -/
def wTa (w : Nat) : Nat := bits w 25 20
/-- tb, ts: bits 31:26. -/
def wTb (w : Nat) : Nat := bits w 31 26
/-- acc. -/
def wAcc (w : Nat) : Nat := bits w 40 32
/-- tacc of format T. -/
def wTacc (w : Nat) : Nat := bits w 54 46
/-- gacc of format T. -/
def wGacc (w : Nat) : Nat := bits w 63 55
/-- tsk of format T. -/
def wTsk (w : Nat) : Nat := bits w 69 64
/-- cnt of format M. -/
def wCnt (w : Nat) : Nat := bits w 49 41
/-- cvt of format M. -/
def wCvt (w : Nat) : Nat := bits w 53 50
/-- wfmt of format M. -/
def wWfmt (w : Nat) : Nat := bits w 55 54
/-- fixed of format M. -/
def wFixed (w : Nat) : Bool := bitOf w 56
/-- aslot of format M. -/
def wAslot (w : Nat) : Nat := bits w 60 57
/-- anchor of format M. -/
def wAnchor (w : Nat) : Int := signed 12 (bits w 72 61)
/-- addr of format M. -/
def wAddr (w : Nat) : Nat := bits w 121 74
/-- fn of format V. -/
def wFn (w : Nat) : Nat := bits w 27 20
/-- vd of format V. -/
def wVd (w : Nat) : Nat := bits w 33 28
/-- va of format V. -/
def wVa (w : Nat) : Nat := bits w 39 34
/-- vb of format V. -/
def wVb (w : Nat) : Nat := bits w 45 40
/-- vc of format V. -/
def wVc (w : Nat) : Nat := bits w 51 46
/-- vm of format V. -/
def wVm (w : Nat) : Nat := bits w 57 52
/-- men of format V. -/
def wMen (w : Nat) : Bool := bitOf w 58
/-- vus of format V. -/
def wVus (w : Nat) : Nat := bits w 62 59
/-- imm32 of format V. -/
def wImm32 (w : Nat) : Nat := bits w 95 64
/-- rnd of format V. -/
def wRnd (w : Nat) : Nat := bits w 99 96

/-- The opcode is one of Table 2.9. -/
def opcodeKnown (op : Nat) : Bool :=
  op ≤ 0x12 || (0x20 ≤ op && op ≤ 0x23) || (0x28 ≤ op && op ≤ 0x2E) || op == 0x30

/-- The used fields of a format C word beside the header (Tables 2.12, 2.13, R393). -/
def usedC (w : Nat) : List (Nat × Nat) :=
  match wOp w with
  | 0x02 => [(35, 32)] ++
      (if wSub w ≤ 6 then [(127, 64)] else []) ++
      (if 1 ≤ wSub w ∧ wSub w ≤ 6 then [(27, 24)] else []) ++ (if wSub w = 5 ∨ wSub w = 6 then [(31, 28)] else [])
  | 0x03 => [(27, 24), (79, 64)]
  | 0x04 => [(23, 20), (127, 64)]
  | 0x05 => [(23, 20), (27, 24), (127, 64)]
  | 0x06 => [(23, 20), (127, 64)]
  | 0x07 => [(39, 36), (127, 64)]
  | 0x08 => [(39, 36), (32, 32), (79, 64)]
  | 0x09 => [(35, 32)] ++ (if wSub w ≤ 1 then [(39, 36), (79, 64)] else [])
  | 0x0A => [(39, 36), (47, 40), (79, 64)]
  | 0x0B => [(35, 32)] ++
      (if wSub w = 0 then [(43, 40), (91, 64)] else if wSub w = 1 then [(43, 40)]
       else if wSub w = 2 then [(44, 40)] ++ (if bitOf w 44 then [(23, 20)] else []) else [])
  | 0x0C => [(27, 24), (127, 64)]
  | 0x0D => [(32, 32), (95, 64)]
  | 0x0F => [(32, 32)]
  | _ => []

/-- The used fields of a format T word (Table 2.10, R393). -/
def usedT (w : Nat) : List (Nat × Nat) :=
  match wOp w with
  | 0x10 => [(25, 20), (31, 26), (40, 32), (41, 41), (42, 42)]
  | 0x11 => [(25, 20), (31, 26), (40, 32), (43, 43), (44, 44)] ++
      (if bitOf w 44 then [(45, 45), (54, 46), (63, 55)] ++ (if bitOf w 45 then [(69, 64)] else []) else [])
  | _ => [(25, 20), (40, 32)]

/-- The used fields of a format M word (Tables 2.15, 2.16, R393). -/
def usedM (w : Nat) : List (Nat × Nat) :=
  let win := [(55, 54), (56, 56)] ++ (if wFixed w then [(72, 61)] else [(60, 57)])
  match wOp w with
  | 0x28 => [(25, 20), (31, 26), (53, 50)]
  | 0x29 => [(25, 20), (40, 32), (53, 50)]
  | 0x2A => [(31, 26), (40, 32), (53, 50)] ++ win
  | 0x2B => [(40, 32), (49, 41)] ++ win
  | 0x2C => [(25, 20), (40, 32)]
  | 0x2D => [(60, 57), (53, 50)] ++
      (if wCvt w = 2 then [(101, 74)] else if wCvt w ≤ 3 then [(31, 26)] else [])
  | _ => [(121, 74)]

/-- The used fields of a VOP (Table 7.1, R170, R393): vm is a mask where men = 1, the selector of VSEL, and the selection of
VCOMPRESS and VEXPAND. -/
def usedV (w : Nat) : List (Nat × Nat) :=
  let men := (58, 58) :: (if wMen w then [(57, 52)] else [])
  let va := (39, 34)
  let vb := (45, 40)
  let vc := (51, 46)
  let vd := (33, 28)
  [(27, 20), (62, 59)] ++
  (match wFn w with
  | 0x00 => [va, vb, vd] ++ men
  | 0x01 => [va, vb, vd] ++ men
  | 0x02 => [va, vb, vc, vd] ++ men
  | 0x03 => [va, vb, vd, (95, 64)] ++ men
  | 0x04 => [va, vb, vd, (66, 64)] ++ men
  | 0x05 => [va, vb, vd, (57, 52)]
  | 0x06 => [va, vb, vd] ++ men
  | 0x07 => [va, vb, vd] ++ men
  | 0x08 => [va, vd, (99, 96)] ++ men
  | 0x09 => [va, vb, vd, (65, 64)]
  | 0x0A => [va, vd, (57, 52), (67, 64)]
  | 0x0B => [va, vd, (57, 52), (67, 64)]
  | 0x0C => (if bits w 65 64 = 2 then [va, (95, 64)] else [(65, 64)]) ++ [vd] ++ men
  | 0x0D => [va, vd, (71, 64)] ++ men
  | 0x0E => [va, vd, (65, 64)] ++ (if bitOf w 65 then [(79, 72)] else []) ++ men
  | 0x0F => [va, vd, (65, 64)] ++ (if bitOf w 65 then [(79, 72)] else []) ++ men
  | 0x10 => [va] ++ men
  | _ => [])

/-- Every used field of a word (R393): the header's, then the format's. -/
def usedFields (w : Nat) : List (Nat × Nat) :=
  [(7, 0), (8, 8), (13, 13)] ++ (if wWen w then [(12, 9)] else []) ++ (if wSen w then [(17, 14)] else []) ++
  (if wOp w ≤ 0x0F then usedC w else if wOp w ≤ 0x12 then usedT w
   else if wOp w ≤ 0x23 then [(25, 20), (30, 30), (127, 64)] ++ (if bitOf w 30 then [(29, 26)] else [])
   else if wOp w ≤ 0x2E then usedM w else usedV w)

/-- A reserved bit or an unused field is not zero (R393): the used fields do not make up the word. -/
def unusedNonzero (w : Nat) : Bool :=
  (usedFields w).foldl (fun a hl => a + bits w hl.1 hl.2 * 2 ^ hl.2) 0 != w

/-- The word has a reserved opcode, or an unused field that is not zero. -/
def headFaults (w : Nat) : List (Bool × Nat) := [(!opcodeKnown (wOp w), cOpcode), (unusedNonzero w, cReserved)]

/-! Descriptors -/

/-- The descriptor a slot holds (Table 2.18). -/
def descOf (d : Dev) (c s : Nat) : Desc :=
  { valid := flag d (F.mcTdesc0_valid c s), trans := flag d (F.mcTdesc0_trans c s), fmt := getF d (F.mcTdesc0_fmt c s)
    base := getF d (F.mcTdesc0_base c s), stride := getF d (F.mcTdesc1_row_stride c s)
    cols := getF d (F.mcTdesc1_cols c s), rows := getF d (F.mcTdesc1_rows c s), gcols := getF d (F.mcTdesc2_gcols c s)
    interleave := getF d (F.mcTdesc2_interleave c s), bankStart := getF d (F.mcTdesc2_bank_start c s)
    scaleSlot := getF d (F.mcTdesc2_scale_slot c s), scaleSrc := flag d (F.mcTdesc2_scale_src c s)
    scaleExp := signed 8 (getF d (F.mcTdesc2_scale_exp c s)), elemBase := getF d (F.mcTdesc3_elem_base c s)
    tensor := getF d (F.mcTdesc3_tensor_id c s) }

/-- Loads a slot from four words (Table 2.18). -/
def loadDesc (d : Dev) (c s w0 w1 w2 w3 : Nat) : Dev :=
  let put (d : Dev) (r : Reg) (w : Nat) : Dev := forEach r.fields d (fun d x => setF d ⟨r, x.lo⟩ (fieldOf w x))
  put (put (put (put d (.mcTdesc0 c s) w0) (.mcTdesc1 c s) w1) (.mcTdesc2 c s) w2) (.mcTdesc3 c s) w3

/-- Size of an element; 1 for a reserved format, which a check refuses first. -/
def Desc.size (t : Desc) : Nat := (fmtSize t.fmt).getD 1

/-- Stored lines (R41): the rows, or the columns when trans = 1. -/
def Desc.lines (t : Desc) : Nat := if t.trans then t.cols else t.rows

/-- Elements of a stored line. -/
def Desc.lineLen (t : Desc) : Nat := if t.trans then t.rows else t.cols

/-- Packed bytes of a stored line (R41, R116). -/
def Desc.packed (t : Desc) : Nat :=
  if t.fmt = 0x0A then cdiv t.lineLen 256 * 258 else t.lineLen * t.size

/-- The cluster whose plain scratchpad window holds the base. -/
def spadOf (a : Nat) : Option Nat :=
  if 0x040000000000 ≤ a ∧ a < 0x040070000000 then some ((a - 0x040000000000) / 0x4000000) else none

/-- Module address of byte y of stored line n (R212 in a scratchpad, plain elsewhere). -/
def Desc.addr (t : Desc) (n y : Nat) : Nat :=
  match spadOf t.base with
  | some c =>
    let q := n * t.stride + y
    let j := q / 64
    let k := 2 ^ t.interleave
    spadBase c + 0x200000 * ((t.bankStart + j % k) % 32) + t.base % 0x200000 + 64 * (j / k) + q % 64
  | none => t.base + n * t.stride + y

/-- Stored line and place in it of element (r, c). -/
def Desc.at (t : Desc) (r c : Nat) : Nat × Nat := if t.trans then (c, r) else (r, c)

/-- Byte of a stored line where element i starts (R116 for Q8L). -/
def Desc.offset (t : Desc) (i : Nat) : Nat := if t.fmt = 0x0A then i / 256 * 258 + i % 256 else i * t.size

/-- Global index of element (r, c) (R41), modulo 2^64 (R180). -/
def Desc.index (t : Desc) (r c : Nat) : Nat := (t.elemBase + r * t.gcols + c) % 2 ^ 64

/-- The code of element (r, c) as it stands in memory. -/
def tileCode (d : Dev) (p : Nat) (t : Desc) (r c : Nat) : Nat :=
  let (n, i) := t.at r c
  leNat ((List.range t.size).map (fun b => viewByte d p (t.addr n (t.offset i + b))))

/-- The FP16 scale of the Q8L block that holds element (r, c) (R116). -/
def tileScale (d : Dev) (p : Nat) (t : Desc) (r c : Nat) : Nat :=
  let (n, i) := t.at r c
  leNat ((List.range 2).map (fun b => viewByte d p (t.addr n (i / 256 * 258 + 256 + b))))

/-- The formats that carry a descriptor scale (R112). -/
def scaled (fmt : Nat) : Bool := fmt == 0x03 || fmt == 0x04 || fmt == 0x0A

/-- The effective scale exponent of a format: 0 where it carries none (R112). -/
def Desc.exp (t : Desc) : Int := if scaled t.fmt then t.scaleExp else 0

/-- The value of element (r, c), scale applied (R107, R112, R118); NaN for a format that is no number. -/
def tileVal (d : Dev) (p : Nat) (t : Desc) (r c : Nat) : Val :=
  if t.fmt = 0x0A then q8lDecode (tileCode d p t r c) (tileScale d p t r c) t.exp
  else match fpOf t.fmt with
    | some f => (f.decode (tileCode d p t r c)).scale t.exp
    | none => .nan

/-- Element (r, c) is a Q8L element of finite code, scale and descriptor scale whose decoding overflows to an infinity (R110, R118). -/
def tileOverflow (d : Dev) (p : Nat) (t : Desc) (r c : Nat) : Bool :=
  t.fmt == 0x0A && (fp16.decode (tileScale d p t r c)).isFin && !(tileVal d p t r c).isFin

/-- One byte written by an instruction, a mover or an engine (R30, R220): nothing into another's protected program region,
OR and AND NOT through the aliases, else a plain write. -/
def agentPut (d : Dev) (p a : Nat) (b : Byte) : Dev :=
  match placeOf d p a with
  | .spad c off => if protectedHit d c off 1 then d else viewPut d p a b
  | .aliasSet c off =>
    if protectedHit d c off 1 then d else { d with mem := memPut d.mem (spadBase c + off) (memGet d.mem (spadBase c + off) ||| b) }
  | .aliasClear c off =>
    if protectedHit d c off 1 then d else { d with mem := memPut d.mem (spadBase c + off) (memGet d.mem (spadBase c + off) &&& ~~~b) }
  | _ => viewPut d p a b

/-- A write of a mover or engine of partition p into a protected region of cluster c is discarded: prot_hit is set and the writer's
partition is denied (R30, R331; log entry 30). -/
def deniedWrite (d : Dev) (p c : Nat) : Dev := addF (noteProtHit d c) (F.secDeny_count p) 1

/-- Clusters and banks that n bytes from a module address touch in the scratchpads (R211). -/
def plainBanks (a n : Nat) : List (Nat × Nat) :=
  (banksOf a n).filterMap (fun g =>
    if 0x200000 ≤ g ∧ g < 0x200000 + 28 * 32 then some ((g - 0x200000) / 32, (g - 0x200000) % 32) else none)

/-- Of them, those that do not admit the agents of their cluster's partition (R216). -/
def shutBanks (d : Dev) (a n : Nat) : List (Nat × Nat) := (plainBanks a n).filter (fun x => !bankOpen d x.1 x.2)

/-- An engine of partition p is refused n bytes from an address that touch a closed bank: a non-owner access, and an access error to
it (R217, Table 9.3; log entry 30). -/
def engineDeny (d : Dev) (p a n : Nat) : Dev :=
  match shutBanks d a n with
  | x :: _ => addF (noteNonOwner d x.1) (F.secDeny_count p) 1
  | [] => d

/-- The first of some extents that touches a closed bank is refused (R217). -/
def denyFirst (d : Dev) (p : Nat) (l : List (Nat × Nat)) : Dev :=
  match l.find? (fun x => !(shutBanks d x.1 x.2).isEmpty) with
  | some x => engineDeny d p x.1 x.2
  | none => d

/-- Clusters whose protected program region n bytes from a module address overlap (R30). -/
def guardedAt (d : Dev) (a n : Nat) : List Nat :=
  ((plainBanks a n).map (fun x => x.1)).dedup.filter (fun c =>
    protectedHit d c (a - spadBase c) (a + n - spadBase c - (a - spadBase c)))

/-- An engine whose access passed its owner check writes bytes into partition p's view (R30, R218, R240, R244). -/
def engineWrite (d : Dev) (p a : Nat) (bs : List Byte) : Dev :=
  let e := bs.zipIdx.foldl (fun d x => agentPut d p (a + x.2) x.1) d
  noteWrite (forEach (guardedAt d a bs.length) e (fun e c => deniedWrite e p c)) p a bs.length

/-- An engine's write that passes its owner check only now (R216, R217). -/
def engineStore (d : Dev) (p a : Nat) (bs : List Byte) : Dev :=
  if (shutBanks d a bs.length).isEmpty then engineWrite d p a bs else engineDeny d p a bs.length

/-- Writes bytes of a stored line from byte y. -/
def putLine (d : Dev) (p : Nat) (t : Desc) (n y : Nat) : List Byte → Dev
  | [] => d
  | b :: r => putLine (agentPut d p (t.addr n y) b) p t n (y + 1) r

/-- Writes the code of element (r, c). -/
def tilePut (d : Dev) (p : Nat) (t : Desc) (r c code : Nat) : Dev :=
  let (n, i) := t.at r c
  putLine d p t n (t.offset i) (leBytes t.size code)

/-- Places (r, c) of a tile, row by row. -/
def places (rows cols : Nat) : List (Nat × Nat) :=
  (List.range rows).flatMap (fun r => (List.range cols).map (fun c => (r, c)))

/-- Bytes from base over all stored lines (R60). -/
def Desc.extent (t : Desc) : Nat := t.lines * t.stride

/-- The bank ranges (bank, first byte, bytes) of a scratchpad tile (R212): one share for each bank of the interleave. -/
def Desc.shares (t : Desc) : List (Nat × Nat × Nat) :=
  let k := 2 ^ t.interleave
  (List.range k).map (fun i => ((t.bankStart + i) % 32, t.base % 0x200000, 64 * cdiv (cdiv t.extent 64) k))

/-- The banks of any cluster that an operand's extent touches. -/
def operandBanks (t : Desc) : List (Nat × Nat) :=
  match spadOf t.base with
  | some c => t.shares.map (fun x => (c, x.1))
  | none =>
    let al (lo : Nat) : List (Nat × Nat) :=
      let o := t.base - lo
      (banksOf (o % 0x4000000) t.extent).map (fun b => (o / 0x4000000, b))
    if 0x040100000000 ≤ t.base ∧ t.base < 0x040170000000 then al 0x040100000000
    else if 0x040200000000 ≤ t.base ∧ t.base < 0x040270000000 then al 0x040200000000
    else []

/-- An alias window holds the base (R220). -/
def inAlias (a : Nat) : Bool := 0x040100000000 ≤ a && a < 0x040270000000 && !(0x040170000000 ≤ a && a < 0x040200000000)

/-- ADDRESS (Table 2.23): the extent leaves the partition's view, or a share its bank; an alias window only where the
instruction may use it. -/
def extentOutside (d : Dev) (p : Nat) (t : Desc) (aliasOk : Bool) : Bool :=
  match spadOf t.base with
  | some c => !ownsCluster d p c || t.shares.any (fun x => decide (x.2.1 + x.2.2 > 0x200000))
  | none =>
    if inAlias t.base then
      !aliasOk || (match placeOf d p t.base, placeOf d p (t.base + (t.extent - 1)) with
        | .aliasSet a _, .aliasSet b _ => a != b
        | .aliasClear a _, .aliasClear b _ => a != b
        | _, _ => true)
    else !rangeMapped d p t.base t.extent

/-- BANK_OWNER (Table 2.23): a bank of the extent is not the cluster's (R216, R217). -/
def extentForeign (d : Dev) (t : Desc) : Bool := (operandBanks t).any (fun x => !bankOpen d x.1 x.2)

/-- PROGRAM_WRITE (R30): a destination's extent overlaps the program region of the instruction's own cluster c. -/
def extentProgram (d : Dev) (c : Nat) (t : Desc) : Bool :=
  match spadOf t.base with
  | some k => k == c && t.shares.any (fun x => overlapsProg d c (0x200000 * x.1 + x.2.1) x.2.2)
  | none => inAlias t.base && (operandBanks t).any (fun x => x.1 == c) && overlapsProg d c (t.base % 0x4000000) t.extent

/-- A mover's destination overlaps the protected region of another cluster (R30). -/
def extentProtected (d : Dev) (c : Nat) (t : Desc) : List Nat :=
  ((operandBanks t).map (fun x => x.1)).dedup.filter (fun k => k != c && seqActive d k && extentProgram d k t)

/-- DESC_FORMAT of one operand (Table 2.23, R41, R42, R212): a format not allowed, not in the required scratchpad, no rows or
columns, a misaligned or too small stride, a misaligned base, a reserved interleave. -/
def descBad (t : Desc) (own : Option Nat) (allowed : List Nat) : Bool :=
  (fmtSize t.fmt).isNone || !allowed.contains t.fmt ||
  (match own with | some c => spadOf t.base != some c | none => false) ||
  t.rows == 0 || t.cols == 0 || decide (t.interleave > 5) || decide (t.stride < t.packed) ||
  (match spadOf t.base with
   | some _ => t.base % 64 != 0 || t.stride % 64 != 0 || t.base / 0x200000 % 32 != t.bankStart
   | none => t.base % t.size != 0 || t.stride % t.size != 0)

/-- FP32, BF16, FP16. -/
def fmtWide : List Nat := [0x00, 0x01, 0x02]
/-- The five floating-point formats (Table 7.1 "float"). -/
def fmtFloat : List Nat := [0x00, 0x01, 0x02, 0x03, 0x04]
/-- Every format of R42. -/
def fmtAny : List Nat := [0x00, 0x01, 0x02, 0x03, 0x04, 0x08, 0x09, 0x0A, 0x0B, 0x10, 0x11]

/-- A Q8L stored line is no multiple of 256 elements (R116). -/
def q8lShapeBad (t : Desc) : Bool := t.fmt == 0x0A && t.lineLen % 256 != 0

/-- The module is one of a slice of more than one (R43, R113): the slice has an extent above 1 on some axis (Table 11.18). -/
def multiModule (d : Dev) (p : Nat) : Bool :=
  flag d (F.fabSlice_valid p) && getF d (F.fabSlice_size p) != 0

/-- emax of R113. -/
def emaxOf (fmt : Nat) : Int := if fmt = 0x03 then 8 else 15

/-- The descriptor takes its scale from an anchor slot (R113). -/
def Desc.wantsSlot (t : Desc) : Bool := t.scaleSrc && scaled t.fmt

/-- ANCHOR_UNSET of a scale source (R113). -/
def scaleUnset (d : Dev) (c : Nat) (t : Desc) : Bool := t.wantsSlot && !flag d (F.mcAnchor_ea_set c t.scaleSlot)

/-- ANCHOR_UNREDUCED of a scale source (R113). -/
def scaleUnreduced (d : Dev) (p c : Nat) (t : Desc) : Bool :=
  t.wantsSlot && multiModule d p && !flag d (F.mcAnchor_reduced c t.scaleSlot)

/-- The descriptor with its scale resolved (R112, R113). -/
def resolveScale (d : Dev) (c : Nat) (t : Desc) : Desc :=
  if t.wantsSlot then
    { t with scaleSrc := false
             scaleExp := max (-128) (min 127 (signed 12 (getF d (F.mcAnchor_ea c t.scaleSlot)) + 1 - emaxOf t.fmt)) }
  else t

/-- A written destination keeps its resolved scale (R114). -/
def keepScale (d : Dev) (c s : Nat) (before after : Desc) : Dev :=
  if before.wantsSlot then
    setF (setF d (F.mcTdesc2_scale_exp c s) (unsigned 8 after.scaleExp)) (F.mcTdesc2_scale_src c s) 0
  else d

/-- The anchor slots that operands read for their scales. -/
def scaleSlots (ts : List Desc) : List Nat := (ts.filter Desc.wantsSlot).map Desc.scaleSlot

/-! Accumulator groups (R44, R45) -/

/-- The tiles of a group for rows x cols from a first tile (R44). -/
def groupTiles (first rows cols : Nat) : List Nat := (List.range (cdiv rows 64 * cdiv cols 64)).map (fun i => first + i)

/-- The group passes ACC447 (R44). -/
def groupPast (first rows cols : Nat) : Bool := decide (first + cdiv rows 64 * cdiv cols 64 > 448)

/-- Tile and place in it of entry (i, j) of a group for cols columns (R44). -/
def groupEntry (first cols i j : Nat) : Nat × Nat := (first + (i / 64) * cdiv cols 64 + j / 64, i % 64 * 64 + j % 64)

/-- The window of a tile. -/
def winOf (d : Dev) (c t : Nat) : Option Win := Tab.get? d.wins (c, t)

/-- WINDOW (R45): a tile of the group without a window, or unequal windows. -/
def windowBad (d : Dev) (c : Nat) (ts : List Nat) : Bool :=
  match ts with
  | [] => false
  | t :: r =>
    match winOf d c t with
    | none => true
    | some x => r.any (fun u => match winOf d c u with | some y => y.wfmt != x.wfmt || y.anchor != x.anchor | none => true)

/-- LENT (R58): a tile of the group is lent to the kiln. -/
def lentHit (d : Dev) (c : Nat) (ts : List Nat) : Bool :=
  flag d (F.mcLend_enable c) &&
  ts.any (fun t => decide (getF d (F.mcLend_acc_base c) ≤ t ∧ t < getF d (F.mcLend_acc_base c) + getF d (F.mcLend_acc_cnt c)))

/-- An accumulator entry; zero where none is held. -/
def accAt (d : Dev) (c t i : Nat) : AccEntry := (Tab.get? d.acc (c, t, i)).getD ⟨0, false⟩

/-- Sets an accumulator entry. -/
def setAcc (d : Dev) (c t i : Nat) (x : AccEntry) : Dev := { d with acc := Tab.put d.acc (c, t, i) x }

/-! Issuing one instruction -/

/-- How an instruction that issues leaves the sequencer: complete, complete with another next PC (taken: by a branch), in a queue,
waiting for its own condition, or at the end of the program. -/
inductive End where
  | done (d : Dev)
  | jump (d : Dev) (pc : Nat) (taken : Bool)
  | queued (d : Dev)
  | hold (d : Dev) (on : WaitFor)
  | halted (d : Dev)

/-- An instruction at issue: its checks in the order of Table 2.23 with their causes, the banks it names (R217), the wait cause that
keeps it from issuing now, and what it does. -/
structure Plan where
  checks : List (Bool × Nat)
  banks : List (Nat × Nat)
  block : Option Nat
  run : Unit → End

/-- An instruction that neither a check nor a wait stops. -/
def freely (k : Unit → End) : Plan := ⟨[], [], none, k⟩

/-- What issuing an instruction comes to: a fault of Table 2.23 with the non-owned banks it named (R217), a block before issue with its
wait cause, or its run. -/
inductive Issue where
  | fault (cause : Nat) (foreign : List (Nat × Nat))
  | block (cause : Nat)
  | ran (x : End)

/-- No check of Table 2.23 stops the instruction, and nothing keeps it from issuing now. -/
def Plan.free (x : Plan) : Bool := x.checks.all (fun y => !y.1) && x.block.isNone

/-- The first check that fails gives the cause (R59); a blocked instruction waits. -/
def Plan.issue (d : Dev) (x : Plan) : Issue :=
  match x.checks.find? (fun y => y.1) with
  | some y => .fault y.2 (if y.2 = cBankOwner then x.banks.filter (fun b => !bankOpen d b.1 b.2) else [])
  | none => match x.block with
    | some k => .block k
    | none => .ran (x.run ())

end Sys2Proof.Machine
end

