-- ==== Sys2Proof/Machine/Tile.lean ====
section
/-! DEFINITION. The cluster sequencer (R26 to R34, R59, R60): fetch at the PC, the wen wait, issue, hardware loops, waits,
faults, and what a completion lets go on. -/

namespace Sys2Proof.Machine

/-- The PC of a cluster. -/
def pcOf (d : Dev) (c : Nat) : Nat := getF d (F.mcSeqPc_pc c)

/-- The instruction word at a program index (R32). -/
def wordAt (d : Dev) (c pc : Nat) : Nat :=
  leNat ((List.range 16).map (fun i => memGet d.mem (spadBase c + progBase d c + 16 * pc + i)))

/-- The word at the PC. -/
def fetchWord (d : Dev) (c : Nat) : Nat := wordAt d c (pcOf d c)

/-- Every issued instruction and pushed entry has completed, and none waits. -/
def drained (d : Dev) (c : Nat) : Bool :=
  (clusterOf d c).jobs.isEmpty && (clusterOf d c).dwq.isEmpty && (clusterOf d c).waiting.isNone

/-- The sequencer can issue: RUNNING or WAITING before issue, with no stop requested and no fault pending (R28, R59), and not retired
(R74). -/
def canIssue (d : Dev) (c : Nat) : Bool :=
  seqActive d c && (clusterOf d c).waiting.isNone && (clusterOf d c).pend.isNone && !flag d (F.mcSeqCtrl_stop c) &&
  (partOf d c).isSome && !flag d (F.mcDpuMap_retired c)

/-- Blocked before issue (Table 2.1 WAITING). -/
def setWait (d : Dev) (c cause : Nat) : Dev :=
  setF (setF d (F.mcSeqStatus_state c) 2) (F.mcSeqStatus_wait_cause c) cause

/-- Issuing again (Table 2.1 RUNNING). -/
def setRunning (d : Dev) (c : Nat) : Dev := setF (setF d (F.mcSeqStatus_state c) 1) (F.mcSeqStatus_wait_cause c) 0

/-- Enters a state of rest; with lend_all the cluster is then LENT (R58). -/
def enterRest (d : Dev) (c st : Nat) : Dev :=
  let d := setF (setF d (F.mcSeqStatus_wait_cause c) 0) (F.mcSeqCtrl_stop c) 0
  if flag d (F.mcLend_enable c) && flag d (F.mcLend_lend_all c) then
    setF (modCluster d c (fun x => { x with restState := st })) (F.mcSeqStatus_state c) 6
  else setF d (F.mcSeqStatus_state c) st

/-- Where sequential issue goes after npc - 1, and the loops then active: the back-edges of loops that end at npc
(Table 2.13 LOOP). -/
def loopNext (npc : Nat) : List LoopRec → Nat × List LoopRec
  | [] => (npc, [])
  | l :: r =>
    if l.stop = npc then
      (if l.left > 1 then (l.first, { l with left := l.left - 1 } :: r) else loopNext npc r)
    else (npc, l :: r)

/-- Sets the active loops and their count. -/
def setLoops (d : Dev) (c : Nat) (ls : List LoopRec) : Dev :=
  setF (modCluster d c (fun x => { x with loops := ls })) (F.mcSeqStatus_loop_depth c) ls.length

/-- A fault waits for earlier work (R59, R60); the first stands. -/
def setPend (d : Dev) (c cause pc : Nat) (deferred : Bool) : Dev :=
  modCluster d c (fun x => { x with pend := x.pend.or (some ⟨cause, pc, deferred⟩) })

/-- Moves the PC to the next instruction in sequence, npc before loops are looked at; past the last instruction it stays at
MC_SEQ_LEN - 1 and PC_RANGE is pending (R59). -/
def advanceTo (d : Dev) (c npc : Nat) : Dev :=
  let t := loopNext npc (clusterOf d c).loops
  let d := setRunning (setLoops d c t.2) c
  if t.1 < getF d (F.mcSeqLen_len c) then setF d (F.mcSeqPc_pc c) t.1
  else
    let last := getF d (F.mcSeqLen_len c) - 1
    setPend (setF d (F.mcSeqPc_pc c) last) c cPcRange last false

/-- Moves the PC past the instruction at it. -/
def advance (d : Dev) (c : Nat) : Dev := advanceTo d c (pcOf d c + 1)

/-- The counter an instruction's word signals (Table 2.8). -/
def sigOf (w : Nat) : Option Nat := if wSen w then some (wSevt w) else none

/-- The counter an instruction's word waits on (Table 2.8). -/
def wenOf (w : Nat) : Option Nat := if wWen w then some (wWevt w) else none

/-- A local barrier no longer counts a cluster (R28). -/
def leaveBarrier (d : Dev) (p b c : Nat) : Dev :=
  match Tab.get? d.bars (p, b) with
  | none => d
  | some x =>
    let rest := x.arrived.filter (fun k => k != c)
    if rest.isEmpty then { d with bars := Tab.erase d.bars (p, b) }
    else { d with bars := Tab.put d.bars (p, b) { x with arrived := rest } }

/-- Withdraws the waiting instruction as if it had never issued: its wen wait is added back and PC stays (R28). -/
def withdraw (d : Dev) (c : Nat) : Dev :=
  match (clusterOf d c).waiting with
  | none => d
  | some w =>
    let d := match w.on, partOf d c with
      | .barrier b, some p => leaveBarrier d p b c
      | _, _ => d
    modCluster (signal d c w.wen) c (fun x => { x with waiting := none })

/-- The waits that a stop or a deferred fault withdraws: EVWAIT, FTCWAIT and BAR with sub 0 or 1 (R28). -/
def withdrawable : WaitFor → Bool
  | .event _ _ _ => true
  | .barrier _ => true
  | .ftc _ => true
  | _ => false

/-- The waiting instruction completes: it signals, and issue goes on after it. -/
def endWait (d : Dev) (c : Nat) : Dev :=
  match (clusterOf d c).waiting with
  | none => d
  | some w => advance (signal (modCluster d c (fun x => { x with waiting := none })) c w.sig) c

/-- A waiting FENCE or DWQFLUSH has its condition (Table 2.13). -/
def fenceMet (d : Dev) (c : Nat) : Bool :=
  match (clusterOf d c).waiting with
  | some ⟨.deferred, _, _⟩ => (clusterOf d c).dwq.isEmpty
  | some ⟨.fence e, _, _⟩ => (clusterOf d c).jobs.isEmpty && (!e || (clusterOf d c).dwq.isEmpty)
  | _ => false

/-- Enters FAULTED with the pending fault (R59, R60). -/
def enterFaulted (d : Dev) (c : Nat) (f : PendFault) : Dev :=
  let d := setF (setF (setF d (F.mcSeqFault_cause c) f.cause) (F.mcSeqFault_pc c) f.pc) (F.mcSeqFault_deferred c) (b2n f.deferred)
  let d := enterRest (modCluster d c (fun x => { x with pend := none })) c 5
  raise d (partOf d c) (F.mcSeqIrq_fault c) (F.mcSeqIrqEn_fault c)

/-- A pending fault: a wait that can be withdrawn is, and once every earlier instruction and entry has completed the
sequencer enters FAULTED (R59, R60). -/
def settleFault (d : Dev) (c : Nat) : Dev :=
  match (clusterOf d c).pend with
  | none => d
  | some f =>
    let d := match (clusterOf d c).waiting with
      | some w => if withdrawable w.on then withdraw d c else d
      | none => d
    if drained d c then enterFaulted d c f else d

/-- What the end of earlier work lets go on: a FENCE or DWQFLUSH, then a pending fault. -/
def settle (d : Dev) (c : Nat) : Dev := settleFault (if fenceMet d c then endWait d c else d) c

/-- The wait cause a waiting instruction shows (Table 2.4). -/
def waitCause : WaitFor → Nat
  | .event _ _ _ => 1
  | .barrier _ => 2
  | .channel _ _ => 3
  | .anchor _ => 3
  | .ftc _ => 4
  | .deferred => 5
  | .fence _ => 8

/-- The word is a reduction (R131): a matrix product, AADD, FPOST, or a vector reduction. -/
def reduces (w : Nat) : Bool :=
  [0x10, 0x11, 0x12, 0x2C, 0x2E].contains (wOp w) || (wOp w == 0x30 && (wFn w == 0x0E || wFn w == 0x0F))

/-- In REFERENCE mode the placement of a reduction is noted for the batch record (R131, R305). -/
def notePlaced (d : Dev) (c w : Nat) : Dev :=
  match partOf d c with
  | some p =>
    if isRef d p && reduces w then
      { d with placed := Tab.put d.placed p ((Tab.get? d.placed p).getD [] ++ [⟨c, pcOf d c, w⟩]) }
    else d
  | none => d

/-- An instruction that has run leaves the sequencer: it signals at once, waits, or ends the program (R29, R33). After a HALT the PC is
the next index, modulo its 22 bits, also where that is MC_SEQ_LEN (log entry 90). -/
def finishRun (c w : Nat) (x : End) : Dev :=
  match x with
  | .done e => settle (advance (signal e c (sigOf w)) c) c
  | .jump e pc taken =>
    let e := signal e c (sigOf w)
    settle (if taken then setF (setRunning e c) (F.mcSeqPc_pc c) pc else advanceTo e c pc) c
  | .queued e => settle (advance (notePlaced e c w) c) c
  | .hold e on => settle (setWait (modCluster e c (fun x => { x with waiting := some ⟨on, wenOf w, sigOf w⟩ })) c (waitCause on)) c
  | .halted e =>
    let e := signal e c (sigOf w)
    let e := enterRest (setF e (F.mcSeqPc_pc c) (pcOf e c + 1)) c 3
    raise e (partOf e c) (F.mcSeqIrq_done c) (F.mcSeqIrqEn_done c)

/-- What issuing a word comes to; a fault or a block leaves its wen wait unconsumed (R33, R59). -/
def finishIssue (d : Dev) (c w : Nat) (r : Issue) : Dev :=
  match r with
  | .fault k bs => settle (setPend (forEach bs d (fun d b => noteNonOwner d b.1)) c k (pcOf d c) false) c
  | .block k => setWait d c k
  | .ran x => finishRun c w x

/-- The state in which the wen wait of a word has been consumed (R33). -/
def takeWen (d : Dev) (c w : Nat) : Dev := if wWen w then evSub d c (wWevt w) 1 else d

/-- Issues the word at the PC: its wen wait (R33), the head checks, then the instruction's own function of partition,
cluster and word. -/
def issueWord (go : Nat → Nat → Nat → Dev → Plan) (d : Dev) (c w : Nat) : Dev :=
  match partOf d c with
  | none => d
  | some p =>
    if wWen w && getF d (F.mcEvt_count c (wWevt w)) == 0 then setWait d c 1
    else
      let e := takeWen d c w
      match (headFaults w).find? (fun x => x.1) with
      | some x => finishIssue d c w (.fault x.2 [])
      | none => finishIssue d c w ((go p c w e).issue e)

/-- One tile instruction of a row: op and sel say which words are of the row. A word with a reserved opcode is of every row,
since the sequencer takes it and faults (R59); a word of another row is not this command. A cluster that is still waking waits with
wait_cause 7 (R355). -/
def tileStep (op : Nat) (sel : Nat → Bool) (go : Nat → Nat → Nat → Dev → Plan) (c : Nat) (d : Dev) : Dev :=
  if canIssue d c then
    let w := fetchWord d c
    let mine := !opcodeKnown (wOp w) || (wOp w == op && sel w)
    if asleep d c then (if mine then setWait d c 7 else d)
    else if mine then issueWord go d c w else d
  else d

/-! Queues (R34) -/

/-- Adds an issued instruction to a cluster. -/
def addJob (d : Dev) (c : Nat) (j : Job) : Dev := modCluster d c (fun x => { x with jobs := x.jobs ++ [j] })

/-- A job with nothing to do at completion but to signal. -/
def plainJob (u : JobUnit) (w : Nat) : Job :=
  { unit := u, sig := sigOf w, tiles := [], accum := false, slots := [], banks := [], nonfin := false, move := none,
    adds := [], post := none, rouse := none }

/-- The array runs this job. -/
def Job.onArray (j : Job) : Bool := j.unit == .array
/-- The mover runs this job. -/
def Job.onMover (j : Job) : Bool := j.unit == .mover
/-- The fabric engine runs this job. -/
def Job.onFabric (j : Job) : Bool := j.unit == .fabric
/-- A vector unit runs this job. -/
def Job.onVec (j : Job) : Bool := match j.unit with | .vec _ => true | _ => false
/-- Vector unit u runs this job. -/
def Job.onUnit (j : Job) (u : Nat) : Bool := match j.unit with | .vec m => bitOf m u | _ => false

/-- Two lists of tiles or slots share a member. -/
def shares (a b : List Nat) : Bool := a.any (fun x => b.contains x)

/-- An earlier, incomplete operation on a tile or anchor slot must complete first (R46, R89): only accumulations overlap. -/
def interlocked (d : Dev) (c : Nat) (tiles : List Nat) (accum : Bool) (slots : List Nat) : Bool :=
  (clusterOf d c).jobs.any (fun j => (shares tiles j.tiles && !(accum && j.accum)) || shares slots j.slots) ||
  (clusterOf d c).dwq.any (fun e => shares tiles e.tiles && !accum)

/-- The k-th job of a kind, with its place among all jobs. -/
def nthJob (d : Dev) (c : Nat) (kind : Job → Bool) (k : Nat) : Option (Nat × Job) :=
  (((clusterOf d c).jobs.zipIdx.filter (fun x => kind x.1)).map (fun x => (x.2, x.1)))[k]?

/-- Removes a job. -/
def dropJob (d : Dev) (c i : Nat) : Dev := modCluster d c (fun x => { x with jobs := x.jobs.eraseIdx i })

/-- A job completes: the flag it found is set (R123), it signals, and waiting work goes on. -/
def finishJob (d : Dev) (c i : Nat) (j : Job) : Dev :=
  let d := dropJob d c i
  let d := match j.nonfin, partOf d c with
    | true, some p => setNonfin d p
    | _, _ => d
  settle (signal d c j.sig) c

/-- Jobs of the mover in flight. -/
def moverCount (d : Dev) (c : Nat) : Nat := ((clusterOf d c).jobs.filter Job.onMover).length

/-- FPOSTs in flight. -/
def postCount (d : Dev) (c : Nat) : Nat := ((clusterOf d c).jobs.filter Job.onFabric).length

/-- Instructions queued in a vector unit (Table 7.6). -/
def unitCount (d : Dev) (c u : Nat) : Nat := ((clusterOf d c).jobs.filter (fun j => j.onUnit u)).length

/-- A named vector unit's queue of 8 is full (R169). -/
def vecFull (d : Dev) (c m : Nat) : Bool := (List.range 4).any (fun u => bitOf m u && decide (unitCount d c u ≥ 8))

end Sys2Proof.Machine
end

