-- ==== Sys2Proof/Machine/Banks.lean ====
section
/-! DEFINITION. Scratchpad banks: ownership and handovers (R216 to R219), alias writes (R220), errors (R221), the march engine
(R222, R223) and repair (R224, R225). -/

namespace Sys2Proof.Machine

/-- The agent reads or writes scratchpad bytes lo..lo+n-1 of cluster c only in open banks (R216, R217). -/
def banksOpen (d : Dev) (c lo n : Nat) : Bool := (banksOf lo n).all (bankOpen d c)

/-- A non-owner access of an agent that is no instruction (Table 9.3). -/
def foreignAccess (d : Dev) (who : Agent) (c : Nat) : Dev := accessError (noteNonOwner d c) who

/-- A discarded write into a protected program region (R30). -/
def protectedWrite (d : Dev) (who : Agent) (c : Nat) : Dev := accessError (noteProtHit d c) who

/-! Handovers (R218) -/

/-- The bank is part of a running program's region (Table 9.4). -/
def holdsProgram (d : Dev) (c b : Nat) : Bool := protectedHit d c (0x200000 * b) 0x200000

/-- A handover of bank b begins. -/
def beginHandover (d : Dev) (c b owner : Nat) : Dev :=
  modCluster (setF d (F.bankOwner_pending c b) 1) c (fun x => { x with handovers := x.handovers ++ [⟨b, owner⟩] })

/-- The owner a bank is being handed to. -/
def handoverTo (d : Dev) (c b : Nat) : Option Nat :=
  ((clusterOf d c).handovers.find? (fun h => h.bank == b)).map (fun h => h.owner)

/-- A host write of req starts this handover (Table 9.4). -/
def handoverAllowed (d : Dev) (c b req : Nat) : Bool :=
  match getF d (F.bankOwner_owner c b), req with
  | 0, 1 => (partOf d c).isSome
  | 1, 0 => !holdsProgram d c b
  | _, _ => false

/-- A store to BANK_OWNERb (R218, R10, Table 9.5). -/
def bankOwnerWrite (d : Dev) (c b v : Nat) : Dev :=
  let d := if bitOf v 16 then setF d (F.bankOwner_ho_err c b) 0 else d
  let req := bits v 10 8
  if req > 3 then setF d (F.bankStatus_enc_err c) 1
  else if flag d (F.bankOwner_pending c b) then
    (if handoverTo d c b = some req then setF d (F.bankOwner_req c b) req else setF d (F.bankOwner_ho_err c b) 1)
  else if req = getF d (F.bankOwner_owner c b) then setF d (F.bankOwner_req c b) req
  else if handoverAllowed d c b req then beginHandover (setF d (F.bankOwner_req c b) req) c b req
  else setF d (F.bankOwner_ho_err c b) 1

/-- Every bank of a cluster is zeroed and left FREE (R219). -/
def freeBanks (d : Dev) (c : Nat) : Dev :=
  let d := { d with mem := memZero d.mem (spadBase c) 0x4000000 }
  modCluster (forEach (List.range 32) d (fun d b =>
    setF (setF (setF d (F.bankOwner_owner c b) 0) (F.bankOwner_pending c b) 0) (F.bankOwner_req c b) 0)) c
    (fun x => { x with handovers := [] })

/-! Alias writes (R220) -/

/-- Applies a byte function over the enabled bytes of a scratchpad word. -/
def applyBytes (f : Byte → Byte → Byte) (m : List Host.Cell) (k : Nat) (data : Word) (be : BitVec 8) : Nat → List Host.Cell
  | 0 => m
  | n + 1 =>
    let m := applyBytes f m k data be n
    if be.getLsbD n then memPut m (k + n) (f (memGet m (k + n)) (BitVec.ofNat 8 (data.toNat / 256 ^ n))) else m

/-- An 8-byte write with byte enables to scratchpad offset off of cluster c: ownership, protection, then the bytes. -/
def spadWrite (d : Dev) (who : Agent) (c off : Nat) (f : Byte → Byte → Byte) (data : Word) (be : BitVec 8) : Dev :=
  if !reachesCluster d who c || off + 8 > 0x4000000 then accessError d who
  else if !banksOpen d c off 8 then foreignAccess d who c
  else if protectedHit d c off 8 then protectedWrite d who c
  else { reachCluster d c with mem := applyBytes f d.mem (spadBase c + off) data be 8, bus := .none }

/-- A write through the alias window that begins at base. -/
def aliasWrite (d : Dev) (who : Agent) (base a : Nat) (f : Byte → Byte → Byte) (data : Word) (be : BitVec 8) : Dev :=
  if base ≤ a ∧ a < base + 0x70000000 then
    spadWrite d who ((a - base) / 0x4000000) ((a - base) % 0x4000000) f data be
  else accessError d who

/-! Errors and repair (R221, R224) -/

/-- Cycles that a bank's array requests waited count as bank stalls of its cluster (R67, R223, R224). -/
def bankHold (d : Dev) (c n : Nat) : Dev := addF d (F.mcArrStallBank_count c) n

/-- Adds n to the errors recorded against a row. -/
def noteRow (l : List (Nat × Nat × Nat)) (b r n : Nat) : List (Nat × Nat × Nat) :=
  let old := ((l.find? (fun e => e.1 == b && e.2.1 == r)).map (fun e => e.2.2)).getD 0
  (b, r, old + n) :: l.filter (fun e => !(e.1 == b && e.2.1 == r))

/-- Errors recorded against a row. -/
def rowErrors (d : Dev) (c b r : Nat) : Nat :=
  (((clusterOf d c).ceRows.find? (fun e => e.1 == b && e.2.1 == r)).map (fun e => e.2.2)).getD 0

/-- Records an error in a row, and in a bit column of it. -/
def noteError (d : Dev) (c b r n : Nat) (col : Option Nat) : Dev :=
  modCluster d c (fun x => { x with
    ceRows := noteRow x.ceRows b r n
    ceCols := match col with | some k => (b, k, r) :: x.ceCols | none => x.ceCols })

/-- Different rows in which a bit column has failed. -/
def columnRows (d : Dev) (c b k : Nat) : Nat :=
  (((clusterOf d c).ceCols.filter (fun e => e.1 == b && e.2.1 == k)).map (fun e => e.2.2)).dedup.length

/-- Word w of a bank gives no data to any reader until it is written again (R221; log entry 70). -/
def loseWord (d : Dev) (c b w : Nat) : Dev :=
  let t := freeBytes d 64
  { t.2 with mem := t.1.zipIdx.foldl (fun m x => memPut m (spadBase c + 0x200000 * b + 64 * w + x.2) x.1) t.2.mem }

/-- A read of word w found its error (R221). -/
def bankError (d : Dev) (c b w : Nat) (found : Found) : Dev :=
  match found with
  | .clean => d
  | .correctable bit =>
    noteError (satF (setF d (F.bankStatus_ce c) 1) (F.bankRepair_ce_count c b) 1) c b (w / 32) 1 (some bit)
  | .uncorrectable => moduleFault (noteError (setF (loseWord d c b w) (F.bankStatus_ue c) 1) c b (w / 32) 2 none) (.bank c b)

/-- A row needs repair (R224). -/
def rowNeeds (d : Dev) (c b r : Nat) : Bool := rowErrors d c b r ≥ 2

/-- A bit column needs repair (R224). -/
def columnNeeds (d : Dev) (c b k : Nat) : Bool := columnRows d c b k ≥ 3

/-- A ninth row or a fifth column of the bank needs repair (R224). -/
def bankNeeds (d : Dev) (c b : Nat) : Bool :=
  (getF d (F.bankRepair_rows_left c b) = 0 && (clusterOf d c).ceRows.any (fun e => e.1 == b && e.2.2 ≥ 2)) ||
  (getF d (F.bankRepair_cols_left c b) = 0 && (clusterOf d c).ceCols.any (fun e => e.1 == b && columnNeeds d c b e.2.1))

/-- The maltster repairs a row, a column or a whole bank and holds the bank meanwhile (R224, R225). -/
def repairBank (d : Dev) (c b : Nat) (what : BankRepairKind) : Dev :=
  match what with
  | .row r =>
    if rowNeeds d c b r && getF d (F.bankRepair_rows_left c b) > 0 then
      let d := setF d (F.bankRepair_rows_left c b) (getF d (F.bankRepair_rows_left c b) - 1)
      steadyBroken (bankHold (satF (modCluster d c (fun x =>
        { x with ceRows := x.ceRows.filter (fun e => !(e.1 == b && e.2.1 == r.val)) })) F.telWear2_rows 1) c 64)
    else d
  | .column k =>
    if columnNeeds d c b k && getF d (F.bankRepair_cols_left c b) > 0 then
      let d := setF d (F.bankRepair_cols_left c b) (getF d (F.bankRepair_cols_left c b) - 1)
      steadyBroken (bankHold (satF (modCluster d c (fun x =>
        { x with ceCols := x.ceCols.filter (fun e => !(e.1 == b && e.2.1 == k.val)) })) F.telWear2_cols 1) c 2048)
    else d
  | .whole =>
    if bankNeeds d c b then
      (if getF d (F.bankMap_spare_for c) = 0x3F then
        let d := setF (setF d (F.bankMap_spare_for c) b) (F.bankRepair_replaced c b) 1
        steadyBroken (bankHold (satF (modCluster d c (fun x =>
          { x with ceRows := x.ceRows.filter (fun e => e.1 != b), ceCols := x.ceCols.filter (fun e => e.1 != b) }))
          F.telWear2_banks 1) c 65536)
       else moduleFault d (.bank c b))
    else d

/-! March (R222, R223) -/

/-- Every named bank may take the march of the mode. -/
def marchAllowed (d : Dev) (who : Agent) (c mask : Nat) (preserving : Bool) : Bool :=
  ((List.range 32).filter (fun b => bitOf mask b)).all (fun b =>
    if preserving then bankOpen d c b && (match who with | .host p => ownsCluster d p c | .maltster => (partOf d c).isSome)
    else getF d (F.bankOwner_owner c b) == 0 && getF d (F.bankOwner_pending c b) == 0)

/-- An accepted march start. -/
def beginMarch (d : Dev) (c mask : Nat) (preserving : Bool) : Dev :=
  let d := setF (setF (setF (setF d (F.bankMarchStatus_state c) 1) (F.bankMarchStatus_fails c) 0) (F.bankMarchStatus_step c) 0)
    (F.bankMarchFail_valid c) 0
  let d := modCluster d c (fun x => { x with march := some ⟨mask, preserving⟩ })
  if preserving then steadyBroken d
  else forEach ((List.range 32).filter (fun b => bitOf mask b)) d (fun d b => setF d (F.bankOwner_owner c b) 3)

/-- A store to BANK_MARCH_CTRL (Table 9.8, R10, R222, R223). -/
def marchWrite (d : Dev) (who : Agent) (c v : Nat) : Dev :=
  if getF d (F.bankMarchStatus_state c) = 1 then setF d (F.bankMarchStatus_refused c) 1
  else
    let preserving := bitOf v 1
    let d := setF (setF d (F.bankMarchCtrl_bank_mask c) (bits v 63 32)) (F.bankMarchCtrl_mode c) (b2n preserving)
    let badBg := !preserving && bits v 7 4 == 0
    let d := if badBg then setF d (F.bankMarchStatus_refused c) 1 else setF d (F.bankMarchCtrl_bg c) (bits v 7 4)
    if !bitOf v 0 then d
    else if marchAllowed d who c (bits v 63 32) preserving && (preserving || getF d (F.bankMarchCtrl_bg c) != 0) then
      beginMarch d c (bits v 63 32) preserving
    else setF d (F.bankMarchStatus_refused c) 1

/-- The first failing read of a run is recorded (Table 9.10). -/
def recordFail (d : Dev) (c : Nat) (f : MarchFail) : Dev :=
  setF (setF (setF (setF (setF d (F.bankMarchFail_valid c) 1) (F.bankMarchFail_bank c) f.bank) (F.bankMarchFail_row c) f.row)
    (F.bankMarchFail_bit c) f.bit) (F.bankMarchFail_col c) f.col

/-- What reads of some words found (R221). -/
def wordErrors (d : Dev) (l : List WordFound) : Dev := forEach l d (fun d x => bankError d x.c x.bank x.word x.found)

/-- A march ends with the failing reads it found (R222, R223). A preserving run hands the words whose final read failed its ECC check to
R221, and requests waited for it. -/
def completeMarch (d : Dev) (c : Nat) (fails : List MarchFail) (final : List WordFound) (waited : Nat) : Dev :=
  match (clusterOf d c).march with
  | none => d
  | some m =>
    let d := match fails.head? with | some f => recordFail d c f | none => d
    let d := satF d (F.bankMarchStatus_fails c) fails.length
    let d := forEach fails d (fun d f => noteError d c f.bank f.row 2 (some f.bit))
    let d := setF (setF d (F.bankMarchStatus_pass c) (b2n fails.isEmpty)) (F.bankMarchStatus_state c) 2
    let d := modCluster d c (fun x => { x with march := none })
    if m.preserving then bankHold (wordErrors d (final.filter (fun x => x.c.val == c && bitOf m.mask x.bank))) c waited
    else forEach ((List.range 32).filter (fun b => bitOf m.mask b)) d (fun d b =>
      setF { d with mem := memZero d.mem (spadBase c + 0x200000 * b) 0x200000 } (F.bankOwner_owner c b) 0)

/-- A waiting request is served ahead of every class (R214): rank 3 to 5, or a forced scrub's. -/
def boostRequest (d : Dev) (c rank : Nat) (displaced : Bool) : Dev :=
  if (3 ≤ rank ∧ rank ≤ 5) ∨ (rank = 7 ∧ d.forced.contains .bankScrub = true) then
    let d := satF d (F.bankStatus_boosts c) 1
    if displaced then addF d (F.mcArrStallBank_count c) 1 else d
  else d

end Sys2Proof.Machine
end

