-- ==== Sys2Proof/Machine/Crc.lean ====
section
/-! DEFINITION. The CRC-64 of R193: polynomial 0x42F0E1EBA9EA3693, bits reflected, all ones before and after. -/

namespace Sys2Proof.Machine

/-- One bit of the reflected CRC-64. -/
def crcBit (x : Nat) : Nat := if x % 2 = 1 then Nat.xor (x / 2) 0xC96C5795D7870F42 else x / 2

/-- One byte of the reflected CRC-64. -/
def crcByte (x : Nat) (b : Byte) : Nat :=
  crcBit (crcBit (crcBit (crcBit (crcBit (crcBit (crcBit (crcBit (Nat.xor x b.toNat))))))))

/-- The CRC-64 of bytes (R193). -/
def crc64 (l : List Byte) : Nat := Nat.xor (l.foldl crcByte 0xFFFFFFFFFFFFFFFF) 0xFFFFFFFFFFFFFFFF

end Sys2Proof.Machine
end

