-- ==== Sys2Proof/Machine/Control.lean ====
section
/-! DEFINITION. The control and descriptor instructions (R29, R37, R38, R49 to R53, R78), and the events that end their
waits. -/

namespace Sys2Proof.Machine

/-- General register n of a cluster. -/
def gReg (d : Dev) (c n : Nat) : Nat := getF d (F.mcG_value c n)

/-- The FTC (R270). -/
def ftcOf (d : Dev) : Nat := getF d F.fabFtc_ftc

/-- NOP: nothing. -/
def goNop (_ _ _ : Nat) (d : Dev) : Plan := freely (fun _ => .done d)

/-- HALT issues only when every earlier instruction and entry has completed (R29). -/
def goHalt (_ c _ : Nat) (d : Dev) : Plan := ⟨[], [], if drained d c then none else some 8, fun _ => .halted d⟩

/-- The condition of BR by sub (Table 2.13). -/
def branchTaken (sub a b : Nat) : Bool :=
  match sub with
  | 0 => true
  | 1 => a == 0
  | 2 => a != 0
  | 3 => bitOf a 63
  | 4 => !bitOf a 63
  | 5 => a == b
  | _ => a != b

/-- BR (Table 2.13). -/
def goBr (_ c w : Nat) (d : Dev) : Plan :=
  let t : Int := (pcOf d c : Int) + signed 64 (wImm w)
  let taken := branchTaken (wSub w) (gReg d c (wGa w)) (gReg d c (wGb w))
  let leaves (l : LoopRec) : Bool :=
    decide (l.first ≤ pcOf d c ∧ pcOf d c < l.stop) && !(decide ((l.first : Int) ≤ t ∧ t < (l.stop : Int)))
  ⟨[ (decide (wSub w > 6), cEncoding),
      (taken && !(decide (0 ≤ t ∧ t < (getF d (F.mcSeqLen_len c) : Int))), cPcRange),
      (taken && (clusterOf d c).loops.any leaves, cLoopExit) ], [], none,
    fun _ => if taken then .jump d t.toNat true else .done d⟩

/-- LOOP (Table 2.13). With four loops active it is a fifth nested LOOP also for a count of 0, which the manual does not single out
(log entry 90). -/
def goLoop (_ c w : Nat) (d : Dev) : Plan :=
  let n := wImm w % 2 ^ 16
  let k := gReg d c (wGa w)
  let first := pcOf d c + 1
  ⟨[ (decide (n = 0 ∨ n > 4096), cEncoding), (decide ((clusterOf d c).loops.length ≥ 4), cLoopDepth) ], [], none,
    fun _ => if k = 0 then .jump d (first + n) false
      else .done (setLoops d c (⟨first, first + n, k⟩ :: (clusterOf d c).loops))⟩

/-- GSET (Table 2.13). -/
def goGset (_ c w : Nat) (d : Dev) : Plan := freely (fun _ => .done (setF d (F.mcG_value c (wGd w)) (wImm w)))

/-- GADD (Table 2.13). -/
def goGadd (_ c w : Nat) (d : Dev) : Plan :=
  freely (fun _ => .done (setF d (F.mcG_value c (wGd w)) (gReg d c (wGa w) + wImm w)))

/-- n bytes of the cluster's own scratchpad at an offset. -/
def spadNat (d : Dev) (c off n : Nat) : Nat :=
  leNat ((List.range n).map (fun i => memGet d.mem (spadBase c + off + i)))

/-- The checks on a plain scratchpad offset (Table 2.23): alignment, extent, ownership. -/
def offsetFaults (d : Dev) (c off n : Nat) : List (Bool × Nat) :=
  [ (off % n != 0, cEncoding), (decide (off + n > 0x4000000), cAddress), (!bankOpen d c (off / 0x200000), cBankOwner) ]

/-- GLD (Table 2.13). -/
def goGld (_ c w : Nat) (d : Dev) : Plan :=
  let o := wImm w
  ⟨offsetFaults d c o 8, [(c, o / 0x200000)], none, fun _ => .done (setF d (F.mcG_value c (wGd w)) (spadNat d c o 8))⟩

/-- ceil(log2 n). -/
def clog2 (n : Nat) : Nat := if n ≤ 1 then 0 else Nat.log2 (n - 1) + 1

/-- Sets an anchor slot's fields. -/
def setAnchor (d : Dev) (c s : Nat) (ea eb : Int) (logk : Nat) (eaSet ebSet reduced : Bool) : Dev :=
  let d := setF (setF d (F.mcAnchor_ea c s) (unsigned 12 ea)) (F.mcAnchor_eb c s) (unsigned 12 eb)
  let d := setF (setF d (F.mcAnchor_logk c s) logk) (F.mcAnchor_ea_set c s) (b2n eaSet)
  setF (setF d (F.mcAnchor_eb_set c s) (b2n ebSet)) (F.mcAnchor_reduced c s) (b2n reduced)

/-- ANSET (Table 2.13, R89). -/
def goAnset (_ c w : Nat) (d : Dev) : Plan :=
  ⟨[(decide (wImm w = 0 ∨ wImm w > 2 ^ 48), cEncoding)], [], if interlocked d c [] false [wE w] then some 6 else none,
    fun _ => .done (setAnchor d c (wE w) (-2048) (-2048) (clog2 (wImm w)) false false false)⟩

/-- EVWAIT: passes at once when the counter covers it, else waits (R49). -/
def goEvwait (_ c w : Nat) (d : Dev) : Plan :=
  let k := wImm w % 2 ^ 16
  freely (fun _ =>
    if getF d (F.mcEvt_count c (wE w)) ≥ k then .done (if bitOf w 32 then evSub d c (wE w) k else d)
    else .hold d (.event (wE w) k (bitOf w 32)))

/-- EVADD (Table 2.13, R49). -/
def goEvadd (_ c w : Nat) (d : Dev) : Plan :=
  let k := wImm w % 2 ^ 16
  ⟨[(decide (wSub w > 1), cEncoding)], [], none,
    fun _ => .done (if wSub w = 0 then evAdd d c (wE w) k else setF d (F.mcEvt_count c (wE w)) k)⟩

/-- EVPOST (R50). -/
def goEvpost (p _ w : Nat) (d : Dev) : Plan :=
  ⟨[(decide (wMisc w > 27) || !ownsCluster d p (wMisc w), cForeign)], [], none,
    fun _ => .done (evPost d (wMisc w) (wE w) (wImm w % 2 ^ 16))⟩

/-- Arrival at a local barrier (R51). -/
def arriveLocal (d : Dev) (p c b mask : Nat) : Plan :=
  let x := (Tab.get? d.bars (p, b)).getD ⟨mask, []⟩
  ⟨[(!bitOf mask c || x.mask != mask, cBarrierMask)], [], none,
    fun _ => .hold { d with bars := Tab.put d.bars (p, b) { x with arrived := x.arrived ++ [c] } } (.barrier b)⟩

/-- The mask of all clusters of a partition (HOST_PCFGp.clusters). -/
def partMask (d : Dev) (p : Nat) : Nat := getF d (F.hostPcfg_clusters p)

/-- BAR with sub 0 (R51). -/
def goBarSet (p c w : Nat) (d : Dev) : Plan :=
  let x := arriveLocal d p c (bits w 43 40) (wImm w % 2 ^ 28)
  { x with checks := (decide (wSub w > 2), cEncoding) :: x.checks }

/-- BAR with sub 1 (R51). -/
def goBarPart (p c w : Nat) (d : Dev) : Plan := arriveLocal d p c (bits w 43 40) (partMask d p)

/-- FTCWAIT (R53). -/
def goFtcwait (_ c w : Nat) (d : Dev) : Plan :=
  let t := (gReg d c (wGa w) + wImm w) % 2 ^ 64
  freely (fun _ => if t ≤ ftcOf d then .done d else .hold d (.ftc t))

/-! Activity of the array (R76 to R80) -/

/-- ramp_step in effect: a ramp in progress keeps its old one (R79). -/
def rampStep (d : Dev) (c : Nat) : Nat :=
  match (clusterOf d c).rouseOld with | some x => x.1 | none => getF d (F.mcRouseCfg_ramp_step c)

/-- hold in effect (R79). -/
def holdCycles (d : Dev) (c : Nat) : Nat :=
  match (clusterOf d c).rouseOld with | some x => x.2 | none => getF d (F.mcRouseCfg_hold c)

/-- An instruction boundary of the array: MC_ROUSE_CFG as it now stands takes effect (R79). -/
def newRouse (d : Dev) (c : Nat) : Dev :=
  if (clusterOf d c).rouseOld.isSome then modCluster d c (fun x => { x with rouseOld := none }) else d

/-- Level of full activity: 8, or the admitted eighths of row-request cycles (R77, R353). -/
def fullLevel (d : Dev) : Nat := getF d F.pwrStatus_admit

/-- Some instruction is on the array. -/
def arrayTaken (d : Dev) (c : Nat) : Bool := (clusterOf d c).jobs.any Job.onArray

/-- A hold or a ramp down that work cuts short counts the cycles it lasted, which is a matter of timing (R77, R80; log entry 1). -/
def cutShort (d : Dev) (c whole : Nat) : Dev :=
  let (n, d) := nextFree d
  addF d (F.mcArrRouse_count c) (Config.freeCount n % max 1 whole)

/-- Work arrives at an array that runs none, its first block taking load cycles of the front-load bus: during a hold it starts at once,
below full activity the level rises first; the first row waits for both, which are load stalls (R65, R77, R80). Ramp steps count
when they are made. -/
def arrayStart (d : Dev) (c phase load : Nat) : Dev :=
  let was := getF d (F.mcArrStatus_phase c)
  let up := rampStep d c * (fullLevel d - getF d (F.mcArrStatus_level c))
  let ramps := flag d (F.mcRouseCfg_auto_en c) && decide (getF d (F.mcArrStatus_level c) < fullLevel d)
  let d := if was = 3 then cutShort d c (holdCycles d c) else if was = 4 then cutShort d c (rampStep d c) else d
  let d := addF (if was = 4 ∨ was = 5 then d else newRouse d c) (F.mcArrStallLoad_count c) (if ramps then load - up else load)
  if ramps then setF d (F.mcArrStatus_phase c) 5
  else
    let d := if flag d (F.mcRouseCfg_auto_en c) then d else setF d (F.mcArrStatus_level c) (fullLevel d)
    setF d (F.mcArrStatus_phase c) phase

/-- The array has work in its queue: an idle one takes it up, one that runs goes on (R34, R76). -/
def arrayBusy (d : Dev) (c phase load : Nat) : Dev :=
  let d := ungate d (.array (Fin.ofNat 28 c))
  if arrayTaken d c then d else arrayStart d c phase load

/-- The array has no work of its cluster left: it goes on with a kiln guest product in this bubble (R58, R76), holds its level with rouse
operations, or with the hold off drops to rest (R77, Table 3.6). -/
def arrayIdle (d : Dev) (c : Nat) : Dev :=
  if (clusterOf d c).guest.isSome && (clusterOf d c).dwq.isEmpty then setF d (F.mcArrStatus_phase c) 6
  else if flag d (F.mcRouseCfg_auto_en c) then setF d (F.mcArrStatus_phase c) 3
  else setF (setF d (F.mcArrStatus_level c) 0) (F.mcArrStatus_phase c) 0

/-- ROUSE runs on the array once the deferred queue is empty (R56, R78). -/
def goRouse (_ c w : Nat) (d : Dev) : Plan :=
  ⟨[], [], if (clusterOf d c).dwq.isEmpty then none else some 5, fun _ =>
    let (n, d) := nextFree d
    let k := wImm w % 2 ^ 32
    let k := if bitOf w 32 then Config.freeCount n % (k + 1) else k
    .queued (addJob (addF (arrayBusy d c 2 0) (F.mcArrRouse_count c) k) c
      { plainJob .array w with rouse := some (bitOf w 32) })⟩

/-- DWQFLUSH (Table 2.13). -/
def goDwqflush (_ c _ : Nat) (d : Dev) : Plan :=
  freely (fun _ => if (clusterOf d c).dwq.isEmpty then .done d else .hold d .deferred)

/-- FENCE (Table 2.13). -/
def goFence (_ c w : Nat) (d : Dev) : Plan :=
  freely (fun _ =>
    if (clusterOf d c).jobs.isEmpty && (!bitOf w 32 || (clusterOf d c).dwq.isEmpty) then .done d
    else .hold d (.fence (bitOf w 32)))

/-- v of format D: imm64, plus Gg when gadd = 1 (Table 2.14). -/
def dValue (d : Dev) (c w : Nat) : Nat :=
  (wImm w + (if bitOf w 30 then gReg d c (bits w 29 26) else 0)) % 2 ^ 64

/-- TDLD (Table 2.14). -/
def goTdld (_ c w : Nat) (d : Dev) : Plan :=
  let v := dValue d c w
  let word (i : Nat) : Nat := spadNat d c (v + 8 * i) 8
  ⟨offsetFaults d c v 32, [(c, v / 0x200000)], none, fun _ => .done (loadDesc d c (wTa w) (word 0) (word 1) (word 2) (word 3))⟩

/-- TDBASE (Table 2.14). -/
def goTdbase (_ c w : Nat) (d : Dev) : Plan :=
  let v := dValue d c w
  ⟨[(decide (v ≥ 2 ^ 48), cEncoding)], [], none, fun _ => .done (setF d (F.mcTdesc0_base c (wTa w)) v)⟩

/-- TDADD (Table 2.14). -/
def goTdadd (_ c w : Nat) (d : Dev) : Plan :=
  freely (fun _ => .done (setF d (F.mcTdesc0_base c (wTa w)) (getF d (F.mcTdesc0_base c (wTa w)) + dValue d c w)))

/-- TDSHAPE (Table 2.14). -/
def goTdshape (_ c w : Nat) (d : Dev) : Plan :=
  let v := dValue d c w
  ⟨[(decide (v ≥ 2 ^ 32), cEncoding)], [], none,
    fun _ => .done (setF (setF d (F.mcTdesc1_rows c (wTa w)) (bits v 15 0)) (F.mcTdesc1_cols c (wTa w)) (bits v 31 16))⟩

/-! Events that end waits -/

/-- A waiting EVWAIT whose counter covers it passes, and consumes the count if it asks (R49). -/
def passEvwait (d : Dev) (c : Nat) : Dev :=
  match (clusterOf d c).waiting with
  | some ⟨.event e k consume, _, _⟩ =>
    if getF d (F.mcEvt_count c e) ≥ k then settle (endWait (if consume then evSub d c e k else d) c) c else d
  | _ => d

/-- Every posted addition that has reached the cluster is applied together (R49, R50). -/
def applyPosts (d : Dev) (c : Nat) : Dev :=
  let ps := (clusterOf d c).posts
  let sum (e : Nat) : Nat := (ps.filter (fun x => x.1 == e)).foldl (fun a x => a + x.2) 0
  forEach (List.range 16) (modCluster d c (fun x => { x with posts := [] }))
    (fun d e => if sum e = 0 then d else evAdd d c e (sum e))

/-- The last member has arrived: every member completes its BAR (R51). -/
def completeLocal (d : Dev) (p b : Nat) : Dev :=
  match Tab.get? d.bars (p, b) with
  | none => d
  | some x =>
    if (maskClusters x.mask).all (fun c => x.arrived.contains c) then
      forEach x.arrived { d with bars := Tab.erase d.bars (p, b) } (fun d c => settle (endWait d c) c)
    else d

/-- The FTC reaches the target of a waiting FTCWAIT (R53). -/
def reachFtc (d : Dev) (c : Nat) : Dev :=
  match (clusterOf d c).waiting with
  | some ⟨.ftc t, _, _⟩ => settle (endWait (setF d F.fabFtc_ftc (max (ftcOf d) t)) c) c
  | _ => d

end Sys2Proof.Machine
end

