-- ==== Sys2Proof/Machine/Lane.lean ====
section
/-! DEFINITION. The lane generator (R180, R181): every draw a pure function of its key. -/

namespace Sys2Proof.Machine

/-- mix of R180. -/
def mix (z : BitVec 64) : BitVec 64 :=
  let z := z ^^^ (z >>> 31)
  let z := z * 0xD1B54A32D192ED03#64
  let z := z ^^^ (z >>> 29)
  let z := z * 0xAEF17502108EF2D9#64
  z ^^^ (z >>> 32)

/-- draw of R180: seed, gyle, tensor identity, global index, draw number. -/
def laneDraw (seed gyle tid idx j : Nat) : BitVec 64 :=
  let h := mix (BitVec.ofNat 64 seed ^^^ 0x4B656E6F6F6E2D31#64)
  let h := mix (h ^^^ BitVec.ofNat 64 idx)
  let h := mix (h ^^^ BitVec.ofNat 64 (gyle + 2 ^ 48 * (tid % 2 ^ 16)))
  mix (h ^^^ BitVec.ofNat 64 (tid / 2 ^ 16 + 2 ^ 8 * j))

/-- The 32-bit rounding draw u of R111: bits [63:32] of draw number 0 (R181). -/
def roundingDraw (seed gyle tid idx : Nat) : Nat := (laneDraw seed gyle tid idx 0).toNat / 2 ^ 32

end Sys2Proof.Machine
end

