-- ==== Sys2Proof/Machine/Window.lean ====
section
/-! DEFINITION. Windowed accumulation (R82 to R86, R97, R101) and the sequential binary32 evaluation of REFERENCE mode
(R128 to R130), on accumulator entries and on memory words. -/

namespace Sys2Proof.Machine

/-- s of Table 4.1. -/
def winS (wfmt : Nat) : Int := if wfmt = 0 then 62 else 30

/-- lim of R82. -/
def winLim (wfmt : Nat) : Int := if wfmt = 0 then 2 ^ 63 - 1 else 2 ^ 31 - 1

/-- Bits of a memory word of the format. -/
def winBits (wfmt : Nat) : Nat := if wfmt = 0 then 64 else 32

/-- The marker of Table 4.1 as an unsigned word. -/
def winMarker (wfmt : Nat) : Nat := 2 ^ (winBits wfmt - 1)

/-- The contribution of a term x times y to a window (R84): an integer and a mark. -/
def contrib (x y : Val) (a : Int) (wfmt : Nat) : Int × Bool :=
  match x, y with
  | .fin s m e, .fin t n k =>
    let v := intShiftHalfEven (sgn (xor s t) (m * n)) (e + k - (a - winS wfmt))
    if v < -winLim wfmt ∨ v > winLim wfmt then (0, true) else (v, false)
  | _, _ => (0, true)

/-- A contribution enters an entry (R85). -/
def accEnter (x : AccEntry) (c : Int × Bool) : AccEntry := ⟨x.v + BitVec.ofInt 72 c.1, x.m || c.2⟩

/-- The entry is in window (R83). -/
def inWindow (wfmt : Nat) (x : AccEntry) : Bool :=
  !x.m && decide (-winLim wfmt ≤ x.v.toInt) && decide (x.v.toInt ≤ winLim wfmt)

/-- The binary32 value an entry holds in REFERENCE mode (R128). -/
def accFloat (x : AccEntry) : Val := f32 (x.v.toNat % 2 ^ 32)

/-- An entry that holds a binary32 value (R128). -/
def floatAcc (v : Val) : AccEntry := ⟨BitVec.ofNat 72 (fp32.enc v), false⟩

/-- One term of REFERENCE mode: c := fl(c + fl(x times y)) (R129). -/
def refEnter (x : AccEntry) (t : Val × Val) : AccEntry := floatAcc ((accFloat x).add (fl32 (t.1.mul t.2)))

/-- Adds terms, in order, to an entry: window contributions (R84, R85), or in REFERENCE mode binary32 steps (R129). -/
def addTerms (ref : Bool) (w : Win) (x : AccEntry) (ts : List (Val × Val)) : AccEntry :=
  if ref then ts.foldl refEnter x else ts.foldl (fun x t => accEnter x (contrib t.1 t.2 w.anchor w.wfmt)) x

/-- The window of a group's first tile; the group's tiles agree (R45). -/
def groupWin (d : Dev) (c first : Nat) : Win := (winOf d c first).getD ⟨0, 0, false⟩

/-- Adds to every entry (i, j) of a group for rows x cols its terms (R44, R85, R129). -/
def accumGroup (d : Dev) (ref : Bool) (c first rows cols : Nat) (terms : Nat → Nat → List (Val × Val)) : Dev :=
  let w := groupWin d c first
  forEach (places rows cols) d (fun d ij =>
    let e := groupEntry first cols ij.1 ij.2
    setAcc d c e.1 e.2 (addTerms ref w (accAt d c e.1 e.2) (terms ij.1 ij.2)))

/-- What an entry gives when it is drained to a window word (R97, R101), and whether it was out of window; in REFERENCE mode
its binary32 code, and whether it was not finite (R128, R130). -/
def drainWord (ref : Bool) (wfmt : Nat) (x : AccEntry) : Nat × Bool :=
  if ref then (x.v.toNat % 2 ^ 32, !(accFloat x).isFin)
  else if inWindow wfmt x then (unsigned (winBits wfmt) x.v.toInt, false)
  else (winMarker wfmt, true)

/-- What draining one entry does: the code written, whether it was out of window or not finite, whether its conversion
overflowed to an infinity (R97, R100, R128, R130). -/
structure Drained where
  code : Nat
  bad : Bool
  inf : Bool
  deriving DecidableEq, Repr

/-- Drains an entry to a floating-point format (R97): cvt 1 to nearest even, cvt 2 stochastically with draw u. -/
def drainFloat (ref : Bool) (w : Win) (f : FpFmt) (cvt u : Nat) (x : AccEntry) : Drained :=
  let conv (v : Val) : Nat × Bool := if cvt = 2 then f.stoch v u else f.round v
  if ref then
    let v := accFloat x
    let r := conv v
    ⟨r.1, !v.isFin, r.2⟩
  else if inWindow w.wfmt x then
    let r := conv (Val.ofInt x.v.toInt (w.anchor - winS w.wfmt))
    ⟨r.1, false, r.2⟩
  else ⟨f.nan, true, false⟩

/-- The memory word w after adding d (R101), and whether the sum left the window. -/
def windowAdd (wfmt w d : Nat) : Nat × Bool :=
  if w = winMarker wfmt ∨ d = winMarker wfmt then (winMarker wfmt, false)
  else
    let t := signed (winBits wfmt) w + signed (winBits wfmt) d
    if t < -winLim wfmt ∨ t > winLim wfmt then (winMarker wfmt, true) else (unsigned (winBits wfmt) t, false)

/-- The memory word after a REFERENCE add of its low 32 bits (R128, R130): w := fl(w + d), and whether finite operands gave an
infinity. -/
def refAdd (w d : Nat) : Nat × Bool :=
  let x := f32 (w % 2 ^ 32)
  let y := f32 (d % 2 ^ 32)
  let z := fp32.enc (x.add y)
  (z, x.isFin && y.isFin && !(f32 z).isFin)

/-- The entry AFILL makes of a memory value (R98): cvt 0 of a window word, cvt 1 of a value; in REFERENCE mode binary32
(R128). -/
def fillEntry (ref : Bool) (w : Win) (cvt code : Nat) (v : Val) : AccEntry :=
  if ref then (if cvt = 0 then ⟨BitVec.ofNat 72 (code % 2 ^ 32), false⟩ else floatAcc v)
  else if cvt = 0 then
    (if code = winMarker w.wfmt then ⟨0, true⟩ else ⟨BitVec.ofInt 72 (signed (winBits w.wfmt) code), false⟩)
  else accEnter ⟨0, false⟩ (contrib v Val.one w.anchor w.wfmt)

/-- Clears a tile's entries and gives it a window (R83, R98). -/
def openTile (d : Dev) (c t : Nat) (w : Win) : Dev :=
  { d with acc := d.acc.filter (fun e => !(e.1.1 == c && e.1.2.1 == t)), wins := Tab.put d.wins (c, t) w }

/-- Gives a list of tiles a window and zeroes them. -/
def openTiles (d : Dev) (c : Nat) (ts : List Nat) (w : Win) : Dev := forEach ts d (fun d t => openTile d c t w)

/-- Tiles of a cluster cease to carry a window (R105, R292). -/
def closeWindows (d : Dev) (c : Nat) : Dev :=
  { d with acc := d.acc.filter (fun e => e.1.1 != c), wins := d.wins.filter (fun e => e.1.1 != c) }

/-- The maximum exponent of values (R87). -/
def maxExpo (vs : List Val) : Int := vs.foldl (fun a v => match v.expo with | some e => max a e | none => a) (-2048)

/-- The anchor of BOUND anchoring (R91). -/
def boundAnchor (ea eb : Int) (logk : Nat) : Int := max (-2048) (min 2047 (ea + eb + 2 + logk))

end Sys2Proof.Machine
end

