-- ==== Sys2Proof/Machine/Matrix.lean ====
section
/-! DEFINITION. The format T and accumulator instructions (R36, R39, R43 to R48, R55 to R58, R68 to R71, R83 to R100), the
deferred queue, and the mover's MOV and AADD (R101, R102, R109 to R117). -/

namespace Sys2Proof.Machine

/-- The operand value of a format T instruction: as stored with its scale (R84), in REFERENCE mode converted to binary32
(R128). -/
def tVal (d : Dev) (ref : Bool) (p : Nat) (t : Desc) (r c : Nat) : Val :=
  if ref then fl32 (tileVal d p t r c) else tileVal d p t r c

/-- The REFERENCE conversion of some operand element turns a finite value into an infinity (R110, R128). -/
def tOverflow (d : Dev) (ref : Bool) (p : Nat) (t : Desc) : Bool :=
  ref && (places t.rows t.cols).any (fun x => (fp32.round (tileVal d p t x.1 x.2)).2)

/-- Kc of Table 3.1. -/
def chunkLen (fmt : Nat) : Nat := if fmt = 0 then 32 else if fmt = 1 ∨ fmt = 2 then 128 else 256

/-- The smallest power of two at least n, up to 64 (R47). -/
def ceilPow2 (n : Nat) : Nat := if n ≤ 1 then 1 else 2 ^ (Nat.log2 (n - 1) + 1)

/-- F, the fold of a pass of width w (R47). -/
def foldOf (w : Nat) : Nat := min 8 (64 / ceilPow2 w)

/-- Rounds of one pass of width w over c chunks (R47). -/
def passRounds (w c : Nat) : Nat := cdiv c (foldOf w)

/-- Row requests of an M x N product with reduction K (R47): every round of every pass streams M rows. -/
def streamRows (m n k fmt : Nat) : Nat :=
  let c := cdiv k (chunkLen fmt)
  (n / 64) * passRounds 64 c * m + (if n % 64 = 0 then 0 else passRounds (n % 64) c * m)

/-- Row requests of a Gram product of order n over t rows (R69, R70). -/
def gramRows (n t fmt : Nat) : Nat :=
  cdiv t (chunkLen fmt) * ((List.range (cdiv n 64)).map (fun j => min n (64 * (j + 1)))).sum

/-- L, the load time of a stationary block (Table 3.1). -/
def loadTime (fmt : Nat) : Nat := if fmt = 0 then 16 else 32

/-- D of R64: the front-load bus cycles of a block of m streamed rows with fold f, the stream in stream order or through the transpose
stage. -/
def busCycles (fmt : Nat) (inOrder : Bool) (f m : Nat) : Nat :=
  if inOrder then loadTime fmt else loadTime fmt * (1 + f * cdiv m 64)

/-- Load stalls of one block: what max(m, D) adds to its m row requests (R64). -/
def blockStalls (fmt : Nat) (inOrder : Bool) (f m : Nat) : Nat := max m (busCycles fmt inOrder f m) - m

/-- Load stalls of the blocks of an M x N product with reduction K (R47, R64): one block for each round of each pass. -/
def streamStalls (m n k fmt : Nat) (inOrder : Bool) : Nat :=
  let c := cdiv k (chunkLen fmt)
  let pass (w : Nat) : Nat := passRounds w c * blockStalls fmt inOrder (foldOf w) m
  (n / 64) * pass 64 + (if n % 64 = 0 then 0 else pass (n % 64))

/-- Load stalls of the blocks of a Gram product, unfolded (R64, R69). -/
def gramStalls (n t fmt : Nat) (inOrder : Bool) : Nat :=
  cdiv t (chunkLen fmt) * ((List.range (cdiv n 64)).map (fun j => blockStalls fmt inOrder 1 (min n (64 * (j + 1))))).sum

/-- Counts the array cycles of an instruction: row requests by the formulas of R47 and R70, the load stalls of its blocks by R64, and as
the timing gives (free values, log entry 1) the bank stalls and the front-load waits behind them (R67). -/
def countArray (d : Dev) (c rows stalls : Nat) : Dev :=
  let (n, d) := nextFree d
  let (m, d) := nextFree d
  addF (addF (addF d (F.mcArrBusy_count c) rows) (F.mcArrStallLoad_count c) (stalls + Config.freeCount n))
    (F.mcArrStallBank_count c) (Config.freeCount m)

/-- The instruction the array runs: the oldest in its queue (R34). -/
def arrayHead (d : Dev) (c : Nat) : Option Job := (clusterOf d c).jobs.find? Job.onArray

/-- The phase of MC_ARR_STATUS while the array runs the oldest of its queue (Table 3.6). -/
def runPhase (d : Dev) (c : Nat) : Nat :=
  match arrayHead d c with | some j => (if j.rouse.isSome then 2 else 1) | none => 0

/-- A running ROUSE that ends early does so when a matrix instruction is ready (R78). -/
def endRouse (d : Dev) (c : Nat) : Dev :=
  match nthJob d c Job.onArray 0 with
  | some (i, j) => if j.rouse = some true then signal (dropJob d c i) c j.sig else d
  | none => d

/-- A matrix instruction enters the array queue with its effect done in program order (R34, R46; log entry 10). -/
def intoArray (d : Dev) (c w fmt rows stalls : Nat) (tiles : List Nat) (slots : List Nat) (banks : List (Nat × Nat))
    (nonfin : Bool) : Dev :=
  addJob (modCluster (arrayBusy (countArray (endRouse d c) c rows stalls) c 1 (loadTime fmt)) c (fun x => { x with lastFmt := fmt })) c
    { plainJob .array w with tiles := tiles, accum := true, slots := slots, banks := banks, nonfin := nonfin }

/-! MMA and GRAM -/

/-- The rows and columns of an operand after transposition (Table 2.11). -/
def opShape (t : Desc) (tr : Bool) : Nat × Nat := if tr then (t.cols, t.rows) else (t.rows, t.cols)

/-- The operand formats of a format T instruction agree (R36): equal, or both FP8. -/
def mixOk (a b : Desc) : Bool := a.fmt == b.fmt || ((a.fmt == 3 || a.fmt == 4) && (b.fmt == 3 || b.fmt == 4))

/-- The checks that operands of the own scratchpad, read only, share (Table 2.23), in order around the caller's shape and
group checks. -/
def readFaults (d : Dev) (p c : Nat) (ts : List Desc) (allowed : List Nat) (fmtBad shapeBad groupBad : Bool)
    (groups : List (List Nat)) : List (Bool × Nat) :=
  [ (ts.any (fun t => !t.valid), cDescInvalid),
    (ts.any (fun t => descBad t (some c) allowed) || fmtBad, cDescFormat),
    (shapeBad, cShape), (groupBad, cAccRange),
    (ts.any (scaleUnset d c), cAnchorUnset),
    (groups.any (windowBad d c), cWindow),
    (ts.any (scaleUnreduced d p c), cUnreduced),
    (ts.any (fun t => extentOutside d p t false), cAddress),
    (ts.any (extentForeign d), cBankOwner),
    (groups.any (lentHit d c), cLent) ]

/-- MMA (R36, R62, R84, R129), when reads of its operands' words found errors: one that is uncorrectable gives no data (R221). -/
def goMmaOn (errors : List WordFound) (p c w : Nat) (d : Dev) : Plan :=
  let ta := descOf d c (wTa w)
  let tb := descOf d c (wTb w)
  let tra := bitOf w 41
  let trb := bitOf w 42
  let m := (opShape ta tra).1
  let k := (opShape ta tra).2
  let n := (opShape tb trb).2
  let tiles := groupTiles (wAcc w) m n
  let slots := scaleSlots [ta, tb]
  ⟨[(decide (wAcc w > 447), cAccRange)] ++
     readFaults d p c [ta, tb] fmtFloat (!mixOk ta tb) (decide (k ≠ (opShape tb trb).1)) (groupPast (wAcc w) m n) [tiles],
    operandBanks ta ++ operandBanks tb,
    if interlocked d c tiles true slots then some 6 else none,
    fun _ =>
       let a := resolveScale d c ta
       let b := resolveScale d c tb
       let ref := isRef d p
       let seen := errors.filter (fun x => (operandBanks ta ++ operandBanks tb).contains (x.c.val, x.bank.val))
       let r := wordErrors d seen
       let term (i j x : Nat) : Val × Val :=
         (if tra then tVal r ref p a x i else tVal r ref p a i x, if trb then tVal r ref p b j x else tVal r ref p b x j)
       .queued (intoArray (accumGroup r ref c (wAcc w) m n (fun i j => (List.range k).map (term i j))) c w ta.fmt
         (streamRows m n k ta.fmt) (streamStalls m n k ta.fmt (ta.trans == tra)) tiles slots (operandBanks ta ++ operandBanks tb)
         (tOverflow r ref p a || tOverflow r ref p b))⟩

/-- MMA whose operands' words are sound. -/
def goMma : Nat → Nat → Nat → Dev → Plan := goMmaOn []

/-- GRAM: A transposed times A (R69). -/
def goGram (p c w : Nat) (d : Dev) : Plan :=
  let ta := descOf d c (wTa w)
  let n := ta.cols
  let tiles := groupTiles (wAcc w) n n
  let slots := scaleSlots [ta]
  ⟨[(decide (wAcc w > 447), cAccRange)] ++
     readFaults d p c [ta] fmtFloat false false (groupPast (wAcc w) n n) [tiles],
    operandBanks ta,
    if interlocked d c tiles true slots then some 6 else none,
    fun _ =>
       let a := resolveScale d c ta
       let ref := isRef d p
       .queued (intoArray
         (accumGroup d ref c (wAcc w) n n (fun i j => (List.range a.rows).map (fun t => (tVal d ref p a t i, tVal d ref p a t j))))
         c w ta.fmt (gramRows n ta.rows ta.fmt) (gramStalls n ta.rows ta.fmt ta.trans) tiles slots (operandBanks ta)
         (tOverflow d ref p a))⟩

/-! MMWG and the deferred queue -/

/-- Entry k of a sketch map (R71). -/
def sketchEntry (d : Dev) (p : Nat) (s : Desc) (k : Nat) : Nat := viewNat d p (s.base + 4 * k) 4

/-- bin(k) of R71 for a sketch of r columns. -/
def sketchBin (e k r : Nat) : Nat := 64 * (bits e 15 6 % (r / 64)) + k % 64

/-- The terms of sketched entry (b, b') (R71, R129): t, then k, then k' ascending. -/
def sketchTerms (d : Dev) (ref : Bool) (p : Nat) (a s : Desc) (b b' : Nat) : List (Val × Val) :=
  (List.range a.rows).flatMap (fun t => (List.range a.cols).flatMap (fun k =>
    (List.range a.cols).filterMap (fun k' =>
      let e := sketchEntry d p s k
      let e' := sketchEntry d p s k'
      if sketchBin e k s.cols = b ∧ sketchBin e' k' s.cols = b' then
        let x := tVal d ref p a t k
        some (if bitOf e 31 = bitOf e' 31 then x else x.negate, tVal d ref p a t k')
      else none)))

/-- The groups of an MMWG (R70): first tile, rows, columns of acc, and with taps of tacc and gacc. -/
def mmwgGroups (w : Nat) (a g : Desc) (s : Option Desc) : List (Nat × Nat × Nat) :=
  (wAcc w, g.cols, a.cols) ::
  (if bitOf w 44 then
    let n := match s with | some t => t.cols | none => a.cols
    [(wTacc w, n, n), (wGacc w, g.cols, g.cols)] else [])

/-- The three accumulations of an MMWG on memory as it stands in d (R70, R71, R129). -/
def mmwgEffect (d : Dev) (ref : Bool) (p c w : Nat) (a g : Desc) (s : Option Desc) : Dev :=
  let ts := List.range a.rows
  let e := accumGroup d ref c (wAcc w) g.cols a.cols (fun i j => ts.map (fun t => (tVal d ref p g t i, tVal d ref p a t j)))
  if bitOf w 44 then
    let e := match s with
      | some sk => accumGroup e ref c (wTacc w) sk.cols sk.cols (fun i j => sketchTerms d ref p a sk i j)
      | none => accumGroup e ref c (wTacc w) a.cols a.cols (fun i j => ts.map (fun t => (tVal d ref p a t i, tVal d ref p a t j)))
    accumGroup e ref c (wGacc w) g.cols g.cols (fun i j => ts.map (fun t => (tVal d ref p g t i, tVal d ref p g t j)))
  else e

/-- Row requests of an MMWG (R70). -/
def mmwgRows (w : Nat) (a g : Desc) : Nat :=
  streamRows g.cols a.cols a.rows a.fmt +
  (if bitOf w 44 then gramRows a.cols a.rows a.fmt + gramRows g.cols a.rows a.fmt else 0)

/-- Load stalls of an MMWG (R64, R70, R71): the main part streams rows of the transpose of G, the AᵀA tap reuses blocks and has none, the
GᵀG tap loads its own, and a sketch map is read before the first block. -/
def mmwgStalls (w : Nat) (a g : Desc) : Nat :=
  streamStalls g.cols a.cols a.rows a.fmt g.trans +
  (if bitOf w 44 then gramStalls g.cols a.rows a.fmt g.trans + (if bitOf w 45 then cdiv a.cols 128 else 0) else 0)

/-- The extent of a sketch map: 4 bytes for each column of A from base (R71). -/
def sketchExtent (s a : Desc) : Desc := { s with rows := 1, cols := a.cols, stride := 4 * a.cols, interleave := 0, trans := false }

/-- A sketch descriptor of the wrong format or place (R71). -/
def sketchBad (c : Nat) (s : Desc) : Bool :=
  s.fmt != 0x10 || spadOf s.base != some c || s.base % 64 != 0 || s.rows == 0 || s.cols == 0

/-- A sketch map's plain extent leaves the scratchpad. -/
def sketchOutside (d : Dev) (p : Nat) (s a : Desc) : Bool := !rangeMapped d p s.base (4 * a.cols) ||
  spadOf s.base != spadOf (s.base + (4 * a.cols - 1))

/-- The banks of a sketch map's plain extent. -/
def sketchBanks (s a : Desc) : List (Nat × Nat) :=
  match spadOf s.base with
  | some c => (banksOf (s.base % 0x4000000) (4 * a.cols)).map (fun b => (c, b))
  | none => []

/-- The checks of an MMWG at issue or push (R55, R59, R70, R71). -/
def mmwgFaults (d : Dev) (p c w : Nat) (a g : Desc) (s : Option Desc) : List (Bool × Nat) :=
  let gs := mmwgGroups w a g s
  let tiles := gs.map (fun x => groupTiles x.1 x.2.1 x.2.2)
  let sk (t : Desc → Bool) : Bool := match s with | some x => t x | none => false
  [ (gs.any (fun x => decide (x.1 > 447)), cAccRange),
    (!a.valid || !g.valid || sk (fun x => !x.valid), cDescInvalid),
    (descBad a (some c) fmtFloat || descBad g (some c) fmtFloat || !mixOk a g || sk (sketchBad c), cDescFormat),
    (a.rows != g.rows || sk (fun x => x.rows != x.cols || x.cols % 64 != 0), cShape),
    (gs.any (fun x => groupPast x.1 x.2.1 x.2.2), cAccRange),
    (scaleUnset d c a || scaleUnset d c g, cAnchorUnset),
    (tiles.any (windowBad d c), cWindow),
    (scaleUnreduced d p c a || scaleUnreduced d p c g, cUnreduced),
    (extentOutside d p a false || extentOutside d p g false || sk (fun x => sketchOutside d p x a), cAddress),
    (extentForeign d a || extentForeign d g || sk (fun x => (sketchBanks x a).any (fun b => !bankOpen d b.1 b.2)), cBankOwner),
    (tiles.any (lentHit d c), cLent) ]

/-- The banks an MMWG reads. -/
def mmwgBanks (a g : Desc) (s : Option Desc) : List (Nat × Nat) :=
  operandBanks a ++ operandBanks g ++ (match s with | some x => sketchBanks x a | none => [])

/-- An idle array takes up work that one command brings to its end: it ends a hold or ramp, rises to full activity, each eighth a load
stall of ramp_step cycles, and runs (R77, R78, R80). -/
def arrayWhole (d : Dev) (c load : Nat) : Dev :=
  let d := arrayStart (ungate d (.array (Fin.ofNat 28 c))) c 1 load
  if getF d (F.mcArrStatus_phase c) = 5 then
    let up := rampStep d c * (fullLevel d - getF d (F.mcArrStatus_level c))
    let d := addF (addF d (F.mcArrRouse_count c) up) (F.mcArrStallLoad_count c) up
    newRouse (setF (setF d (F.mcArrStatus_level c) (fullLevel d)) (F.mcArrStatus_phase c) 1) c
  else d

/-- A deferred entry runs from start to end (R55, R56, R60, R80): its extents checked again, its accumulations made, sevt
signalled, and the idle array then holds; an entry that fails the check writes nothing and leaves a deferred fault. -/
def runEntry (d : Dev) (p c : Nat) (e : Deferred) : Dev :=
  let d := modCluster d c (fun x => { x with dwq := x.dwq.drop 1 })
  let skOut := match e.sk with | some s => sketchOutside d p s e.a | none => false
  let foreign := (mmwgBanks e.a e.g e.sk).filter (fun b => !bankOpen d b.1 b.2)
  if extentOutside d p e.a false || extentOutside d p e.g false || skOut then setPend d c cAddress e.pc true
  else if !foreign.isEmpty then setPend (forEach foreign d (fun d b => noteNonOwner d b.1)) c cBankOwner e.pc true
  else
    let d := arrayWhole (mmwgEffect d false p c e.word e.a e.g e.sk) c (loadTime e.a.fmt)
    let d := modCluster (countArray d c (mmwgRows e.word e.a e.g) (mmwgStalls e.word e.a e.g)) c (fun x => { x with lastFmt := e.a.fmt })
    signal (addF (arrayIdle d c) (F.mcDwqStatus_done c) 1) c e.sig

/-- MMWG (R36, R55, R57, R70): at issue, or with defer = 1 outside REFERENCE mode pushed to the deferred queue. A push that finds
the queue full waits until the oldest entry has run (R55). -/
def goMmwg (p c w : Nat) (d : Dev) : Plan :=
  let ta := descOf d c (wTa w)
  let tg := descOf d c (wTb w)
  let ts := if bitOf w 44 && bitOf w 45 then some (descOf d c (wTsk w)) else none
  let tiles := (mmwgGroups w ta tg ts).flatMap (fun x => groupTiles x.1 x.2.1 x.2.2)
  let slots := scaleSlots [ta, tg]
  let ref := isRef d p
  ⟨mmwgFaults d p c w ta tg ts,
    mmwgBanks ta tg ts,
    if interlocked d c tiles true slots then some 6
    else if bitOf w 43 && !ref && decide (32 ≤ (clusterOf d c).dwq.length) then some 5
    else none,
    fun _ =>
       let a := resolveScale d c ta
       let g := resolveScale d c tg
       if bitOf w 43 && !ref then
         .queued (modCluster d c (fun x => { x with dwq := x.dwq ++ [⟨w, pcOf d c, a, g, ts, tiles, sigOf w⟩] }))
       else
         .queued (intoArray (mmwgEffect d ref p c w a g ts) c w a.fmt (mmwgRows w a g) (mmwgStalls w a g) tiles slots
           (mmwgBanks ta tg ts) (tOverflow d ref p a || tOverflow d ref p g))⟩

/-! ADRN, AFILL, AZERO -/

/-- The window that AZERO and AFILL give (R91, Table 2.15). -/
def newWin (d : Dev) (c w : Nat) : Win :=
  if wFixed w then ⟨wWfmt w, wAnchor w, true⟩
  else
    ⟨wWfmt w, boundAnchor (signed 12 (getF d (F.mcAnchor_ea c (wAslot w)))) (signed 12 (getF d (F.mcAnchor_eb c (wAslot w))))
      (getF d (F.mcAnchor_logk c (wAslot w))), false⟩

/-- ANCHOR_UNSET of a BOUND slot (R43). -/
def slotUnset (d : Dev) (c w : Nat) : Bool :=
  !wFixed w && (!flag d (F.mcAnchor_ea_set c (wAslot w)) || !flag d (F.mcAnchor_eb_set c (wAslot w)))

/-- ANCHOR_UNREDUCED of a BOUND slot (R43). -/
def slotUnreduced (d : Dev) (p c w : Nat) : Bool :=
  !wFixed w && multiModule d p && !flag d (F.mcAnchor_reduced c (wAslot w))

/-- The anchor slot an AZERO or AFILL reads. -/
def boundSlots (w : Nat) : List Nat := if wFixed w then [] else [wAslot w]

/-- Array cycles per tile of an accumulator operation (Table 3.4). -/
def accCycles (tiles per : Nat) : Nat := tiles * per

/-- An accumulator operation enters the array queue (R68). -/
def intoAcc (d : Dev) (c w per : Nat) (tiles slots : List Nat) (banks : List (Nat × Nat)) (nonfin : Bool) : Dev :=
  addJob (arrayBusy (addF (endRouse d c) (F.mcArrAcc_count c) (accCycles tiles.length per)) c 1 0) c
    { plainJob .array w with tiles := tiles, slots := slots, banks := banks, nonfin := nonfin }

/-- AZERO (R83, R91, R128). -/
def goAzero (p c w : Nat) (d : Dev) : Plan :=
  let tiles := (List.range (wCnt w)).map (fun i => wAcc w + i)
  ⟨[ (decide (wWfmt w > 1 ∨ wCnt w = 0 ∨ wCnt w > 448), cEncoding),
      (decide (wAcc w > 447 ∨ wAcc w + wCnt w > 448), cAccRange),
      (slotUnset d c w, cAnchorUnset), (slotUnreduced d p c w, cUnreduced), (lentHit d c tiles, cLent) ],
    [],
    if interlocked d c tiles false (boundSlots w) then some 6 else none,
    fun _ => .queued (intoAcc (openTiles d c tiles (newWin d c w)) c w 2 tiles (boundSlots w) [] false)⟩

/-- AFILL (R96, R98, R128). -/
def goAfill (p c w : Nat) (d : Dev) : Plan :=
  let ts := descOf d c (wTb w)
  let cvt := wCvt w
  let tiles := groupTiles (wAcc w) ts.rows ts.cols
  let allowed := if cvt = 0 then (if wWfmt w = 0 then [0x08] else [0x09]) else fmtWide
  ⟨[ (decide (cvt > 1 ∨ wWfmt w > 1), cEncoding), (decide (wAcc w > 447), cAccRange), (!ts.valid, cDescInvalid),
      (descBad ts (some c) allowed, cDescFormat), (groupPast (wAcc w) ts.rows ts.cols, cAccRange),
      (slotUnset d c w, cAnchorUnset), (slotUnreduced d p c w, cUnreduced),
      (extentOutside d p ts false, cAddress), (extentForeign d ts, cBankOwner), (lentHit d c tiles, cLent) ],
    operandBanks ts,
    if interlocked d c tiles false (boundSlots w) then some 6 else none,
    fun _ =>
       let win := newWin d c w
       let ref := isRef d p
       let e := forEach (places ts.rows ts.cols) (openTiles d c tiles win) (fun e x =>
         let g := groupEntry (wAcc w) ts.cols x.1 x.2
         setAcc e c g.1 g.2 (fillEntry ref win cvt (tileCode d p ts x.1 x.2) (tileVal d p ts x.1 x.2)))
       .queued (intoAcc e c w 64 tiles (boundSlots w) (operandBanks ts) false)⟩

/-- An entry of tile t found out of window updates MC_WIN_STATUS, by the window its own tile was given (R100). -/
def noteOutOfWindow (d : Dev) (c t : Nat) : Dev :=
  let d := satF (setF d (F.mcWinStatus_oow c) 1) (F.mcWinStatus_oow_count c) 1
  match winOf d c t with
  | some x => if x.fixed then setF d (F.mcWinStatus_fixed_oow c) 1 else d
  | none => d

/-- ADRN (R96, R97, R100, R128, R130). -/
def goAdrn (p c w : Nat) (d : Dev) : Plan :=
  let td := descOf d c (wTa w)
  let cvt := wCvt w
  let tiles := groupTiles (wAcc w) td.rows td.cols
  let allowed := if cvt = 3 then [0x09] else if cvt = 4 then [0x08] else fmtWide
  let win := groupWin d c (wAcc w)
  let wfmtBad := (cvt == 3 && win.wfmt != 1 || cvt == 4 && win.wfmt != 0) && (winOf d c (wAcc w)).isSome
  ⟨[ (decide (cvt = 0 ∨ cvt > 4), cEncoding), (decide (wAcc w > 447), cAccRange), (!td.valid, cDescInvalid),
      (descBad td (some c) allowed || wfmtBad, cDescFormat), (groupPast (wAcc w) td.rows td.cols, cAccRange),
      (windowBad d c tiles, cWindow), (extentOutside d p td false, cAddress), (extentForeign d td, cBankOwner),
      (extentProgram d c td, cProgramWrite), (lentHit d c tiles, cLent) ],
    operandBanks td,
    if interlocked d c tiles false [] then some 6 else none,
    fun _ =>
       let ref := isRef d p
       let seed := getF d (F.mcRngSeed_seed c)
       let gyle := getF d (F.mcGyle_gyle c)
       let out (x : Nat × Nat) : Drained :=
         let g := groupEntry (wAcc w) td.cols x.1 x.2
         let e := accAt d c g.1 g.2
         match fpOf td.fmt with
         | some f => drainFloat ref win f cvt (roundingDraw seed gyle td.tensor (td.index x.1 x.2)) e
         | none => let r := drainWord ref win.wfmt e; ⟨r.1, r.2, false⟩
       let all := places td.rows td.cols
       let e := forEach all d (fun e x => tilePut e p td x.1 x.2 (out x).code)
       let e := forEach (if ref then [] else all.filter (fun x => (out x).bad)) e
         (fun e x => noteOutOfWindow e c (groupEntry (wAcc w) td.cols x.1 x.2).1)
       let e := if all.any (fun x => (out x).inf) then setF e (F.mcWinStatus_inf_seen c) 1 else e
       .queued (intoAcc e c w 64 tiles [] (operandBanks td) (all.any (fun x => (out x).bad || (out x).inf)))⟩

/-! AMAX with cvt 0, 1 and 3 -/

/-- A unit takes an instruction: a gated one wakes (R169, R355). -/
def unitsBusy (d : Dev) (c m : Nat) : Dev :=
  forEach ((List.range 4).filter (fun u => bitOf m u)) d (fun d u =>
    if getF d (F.vecUnit_state c u) = 0 then setF d (F.vecUnit_state c u) 3
    else if getF d (F.vecUnit_state c u) = 1 then setF d (F.vecUnit_state c u) 2 else d)

/-- Counts processing cycles and, as the timing gives, stalls of a unit (R188; log entry 1). -/
def countUnit (d : Dev) (c u cycles : Nat) : Dev :=
  let (n, d) := nextFree d
  addF (addF d (F.vecBusy_count c u) cycles) (F.vecStall_count c u) (Config.freeCount n)

/-- AMAX folds a tile's maximum exponent into a slot (R87, R88). -/
def goAmaxFold (p c w : Nat) (d : Dev) : Plan :=
  let ts := descOf d c (wTb w)
  let s := wAslot w
  let slots := s :: scaleSlots [ts]
  ⟨[ (decide (wCvt w > 3), cEncoding), (!ts.valid, cDescInvalid), (descBad ts (some c) fmtFloat, cDescFormat),
      (scaleUnset d c ts, cAnchorUnset), (scaleUnreduced d p c ts, cUnreduced),
      (extentOutside d p ts false, cAddress), (extentForeign d ts, cBankOwner) ],
    operandBanks ts,
    if interlocked d c [] false slots then some 6 else if vecFull d c 1 then some 0 else none,
    fun _ =>
       let t := resolveScale d c ts
       let e := maxExpo ((places t.rows t.cols).map (fun x => tileVal d p t x.1 x.2))
       let ea := signed 12 (getF d (F.mcAnchor_ea c s))
       let eb := signed 12 (getF d (F.mcAnchor_eb c s))
       let intoA := decide (wCvt w ≠ 1)
       let intoB := decide (wCvt w ≠ 0)
       let d' := setAnchor d c s (if intoA then max ea e else ea) (if intoB then max eb e else eb) (getF d (F.mcAnchor_logk c s))
         (intoA || flag d (F.mcAnchor_ea_set c s)) (intoB || flag d (F.mcAnchor_eb_set c s)) false
       .queued (addJob (countUnit (unitsBusy d' c 1) c 0 (cdiv (t.lines * t.packed) 256)) c
         { plainJob (.vec 1) w with slots := slots, banks := operandBanks ts })⟩

/-! MOV and AADD -/

/-- Writes the values of a stored line of a Q8L tile, block by block (R116, R117); ys are values divided by 2^s. The result
says whether a block was non-finite. -/
def putQ8lLine (d : Dev) (p : Nat) (t : Desc) (n : Nat) (ys : List Val) : Nat → Dev × Bool
  | 0 => (d, false)
  | k + 1 =>
    let (d, bad) := putQ8lLine d p t n ys k
    let e := q8lEncode ((ys.drop (256 * k)).take 256)
    (putLine d p t n (258 * k) (e.2.1.map (BitVec.ofNat 8) ++ leBytes 2 e.1), bad || e.2.2)

/-- Writes a Q8L tile from the value of each element (R117). -/
def putQ8l (d : Dev) (p : Nat) (t : Desc) (v : Nat → Nat → Val) : Dev × Bool :=
  (List.range t.lines).foldl (fun (x : Dev × Bool) n =>
    let ys := (List.range t.lineLen).map (fun i => (if t.trans then v i n else v n i).scale (-t.exp))
    let r := putQ8lLine x.1 p t n ys (cdiv t.lineLen 256)
    (r.1, x.2 || r.2)) (d, false)

/-- The code a float destination takes of a value, to nearest even or stochastically, and whether a finite value became
infinite (R109 to R111). -/
def convCode (t : Desc) (f : FpFmt) (stoch : Bool) (seed gyle r c : Nat) (v : Val) : Nat × Bool :=
  let q := v.scale (-t.exp)
  if stoch then f.stoch q (roundingDraw seed gyle t.tensor (t.index r c)) else f.round q

/-- The conversion of element (r, c) of tile s into tile t of float format f: its code, and whether a finite source became infinite
(R109 to R111), be it already at its decoding (R118). -/
def convTile (d : Dev) (p : Nat) (s t : Desc) (f : FpFmt) (stoch : Bool) (seed gyle r c : Nat) : Nat × Bool :=
  let x := convCode t f stoch seed gyle r c (tileVal d p s r c)
  (x.1, x.2 || (fmtWide.contains t.fmt && tileOverflow d p s r c))

/-- The copy a MOV makes, its source read whole from d first (R109, R116, R117): the new state and whether the local flag is
set. -/
def moveEffect (d : Dev) (p : Nat) (m : MoveOp) : Dev × Bool :=
  let s := m.src
  let t := m.dst
  if m.cvt = 0 then
    if t.fmt = 0x0A then
      (forEach (List.range s.lines) d (fun e n =>
        putLine e p t n 0 ((List.range s.packed).map (fun y => viewByte d p (s.addr n y)))), false)
    else (forEach (places s.rows s.cols) d (fun e x => tilePut e p t x.1 x.2 (tileCode d p s x.1 x.2)), false)
  else if t.fmt = 0x0A then putQ8l d p t (fun r c => tileVal d p s r c)
  else
    match fpOf t.fmt with
    | none => (d, false)
    | some f =>
      let r (x : Nat × Nat) : Nat × Bool := convTile d p s t f (m.cvt == 2) m.seed m.gyle x.1 x.2
      (forEach (places s.rows s.cols) d (fun e x => tilePut e p t x.1 x.2 (r x).1), (places s.rows s.cols).any (fun x => (r x).2))

/-- The formats MOV may convert between (R109, R117). -/
def movSources : List Nat := [0x00, 0x01, 0x02, 0x03, 0x04, 0x0A]

/-- MOV enters the mover (R34, R39, R113 to R117). -/
def goMov (p c w : Nat) (d : Dev) : Plan :=
  let ts := descOf d c (wTb w)
  let td := descOf d c (wTa w)
  let cvt := wCvt w
  let slots := scaleSlots [ts, td]
  ⟨[ (decide (cvt > 2), cEncoding), (!ts.valid || !td.valid, cDescInvalid),
      (descBad ts none (if cvt = 0 then fmtAny else movSources) ||
       descBad td none (if cvt = 0 then fmtAny else if cvt = 1 then movSources else fmtFloat) ||
       (cvt == 0 && (ts.fmt != td.fmt || (ts.fmt == 0x0A && ts.trans != td.trans))), cDescFormat),
      (ts.rows != td.rows || ts.cols != td.cols || q8lShapeBad ts || q8lShapeBad td, cShape),
      (scaleUnset d c ts || scaleUnset d c td, cAnchorUnset),
      (scaleUnreduced d p c ts || scaleUnreduced d p c td, cUnreduced),
      (extentOutside d p ts true || extentOutside d p td (cvt == 0), cAddress),
      (extentForeign d ts || extentForeign d td, cBankOwner), (extentProgram d c td, cProgramWrite) ],
    operandBanks ts ++ operandBanks td,
    if interlocked d c [] false slots then some 6 else if moverCount d c ≥ 8 then some 9 else none,
    fun _ =>
       let s := resolveScale d c ts
       let t := resolveScale d c td
       .queued (addJob (keepScale d c (wTa w) td t) c
         { plainJob .mover w with
           slots := slots, banks := operandBanks ts ++ operandBanks td
           move := some ⟨s, t, cvt, getF d (F.mcRngSeed_seed c), getF d (F.mcGyle_gyle c)⟩ })⟩

/-- AADD enters the mover with one update for each entry (R101, R102). -/
def goAadd (p c w : Nat) (d : Dev) : Plan :=
  let td := descOf d c (wTa w)
  let tiles := groupTiles (wAcc w) td.rows td.cols
  let win := groupWin d c (wAcc w)
  let ref := isRef d p
  let wrong := (winOf d c (wAcc w)).isSome && td.fmt != (if win.wfmt = 0 then 0x08 else 0x09)
  ⟨[ (decide (wAcc w > 447), cAccRange), (!td.valid, cDescInvalid), (descBad td none [0x08, 0x09] || wrong, cDescFormat),
      (groupPast (wAcc w) td.rows td.cols, cAccRange), (windowBad d c tiles, cWindow),
      (extentOutside d p td false, cAddress), (extentForeign d td, cBankOwner), (extentProgram d c td, cProgramWrite),
      (lentHit d c tiles, cLent) ],
    operandBanks td,
    if interlocked d c tiles false [] then some 6 else if moverCount d c ≥ 8 then some 9 else none,
    fun _ =>
       let all := places td.rows td.cols
       let out (x : Nat × Nat) : Nat × Bool :=
         let g := groupEntry (wAcc w) td.cols x.1 x.2
         drainWord ref win.wfmt (accAt d c g.1 g.2)
       let e := forEach (if ref then [] else all.filter (fun x => (out x).2)) d
         (fun e x => noteOutOfWindow e c (groupEntry (wAcc w) td.cols x.1 x.2).1)
       .queued (addJob e c
         { plainJob .mover w with
           tiles := tiles, banks := operandBanks td, nonfin := all.any (fun x => (out x).2)
           adds := all.map (fun x => let q := td.at x.1 x.2; ⟨td.addr q.1 (td.offset q.2), td.size, (out x).1⟩) })⟩

/-- One AADD update arrives at its memory word (R101, R102, R130): the new state and whether the local flag is set. -/
def applyAdd (d : Dev) (p : Nat) (a : AddOp) : Dev × Bool :=
  let w := viewNat d p a.addr a.size
  let r := if isRef d p then refAdd w a.value else windowAdd (if a.size = 8 then 0 else 1) w a.value
  let e := noteWrite ((leBytes a.size r.1).zipIdx.foldl (fun d b => agentPut d p (a.addr + b.2) b.1) d) p a.addr a.size
  match placeOf d p a.addr with
  | .spad k off => (if protectedHit d k off a.size then deniedWrite e p k else e, r.2)
  | _ => (e, r.2)

/-- Replaces a job. -/
def putJob (d : Dev) (c i : Nat) (j : Job) : Dev := modCluster d c (fun x => { x with jobs := x.jobs.set i j })

/-- Update k of a cluster's i-th mover operation arrives (R102); held while its page is (R237, R248). -/
def arriveAdd (d : Dev) (c i k : Nat) : Dev :=
  match nthJob d c Job.onMover i, partOf d c with
  | some (n, j), some p =>
    match j.adds[k]? with
    | some a =>
      if heldWrite d p a.addr a.size then steadyBroken d
      else
        let r := applyAdd d p a
        putJob (noteRead r.1 p a.addr a.size) c n { j with adds := j.adds.eraseIdx k, nonfin := j.nonfin || r.2 }
    | none => d
  | _, _ => d

/-- The plain extents that a tile outside the scratchpads covers are held (R237, R248). -/
def tileHeld (d : Dev) (p : Nat) (t : Desc) : Bool :=
  (spadOf t.base).isNone && heldRange d p t.base t.extent

/-- A write of the tile is held: also until a snapshot has copied its pages (R242). -/
def tileHeldWrite (d : Dev) (p : Nat) (t : Desc) : Bool :=
  (spadOf t.base).isNone && heldWrite d p t.base t.extent

/-- The i-th mover operation of a cluster completes (R34): a MOV makes its copy, an AADD's remaining updates arrive. -/
def completeMover (d : Dev) (c i : Nat) : Dev :=
  match nthJob d c Job.onMover i, partOf d c with
  | some (n, j), some p =>
    match j.move with
    | some m =>
      if tileHeld d p m.src || tileHeldWrite d p m.dst then steadyBroken d
      else
        let r := moveEffect d p m
        let e := noteRead r.1 p m.src.base m.src.extent
        let e := if (spadOf m.dst.base).isNone then noteWrite e p m.dst.base m.dst.extent else reachRange e p m.dst.base m.dst.extent
        let e := forEach (extentProtected d c m.dst) e (fun e k => deniedWrite e p k)
        finishJob e c n { j with nonfin := j.nonfin || r.2 }
    | none =>
      if j.adds.any (fun a => heldWrite d p a.addr a.size) then steadyBroken d
      else
        let r := j.adds.foldl (fun (x : Dev × Bool) a => let y := applyAdd x.1 p a; (y.1, x.2 || y.2)) (d, false)
        finishJob r.1 c n { j with adds := [], nonfin := j.nonfin || r.2 }
  | _, _ => d

/-- The next instruction of the array's queue begins where one ended: MC_ROUSE_CFG takes effect (R79), and a ROUSE that ends early does so
at once when work stands behind it (R78). -/
def arrayNext (d : Dev) (c : Nat) : Dev :=
  let d := if ((clusterOf d c).jobs.filter Job.onArray).length > 1 then endRouse d c else d
  newRouse (if arrayTaken d c then setF d (F.mcArrStatus_phase c) (runPhase d c) else arrayIdle d c) c

/-- The oldest instruction on the array completes 19 cycles after its last row request (R66), which it makes only once the ramp up has
ended (R77): it signals, and an array left idle holds. -/
def completeArray (d : Dev) (c : Nat) : Dev :=
  match nthJob d c Job.onArray 0 with
  | some (n, j) => if getF d (F.mcArrStatus_phase c) = 5 then d else arrayNext (finishJob d c n j) c
  | none => d

/-! Deferred entries run (R56) -/

/-- The function of an instruction that runs on the array, ROUSE aside (Table 2.9). -/
def arrayOp (op : Nat) : Option (Nat → Nat → Nat → Dev → Plan) :=
  match op with
  | 0x10 => some goMma
  | 0x11 => some goMmwg
  | 0x12 => some goGram
  | 0x29 => some goAdrn
  | 0x2A => some goAfill
  | 0x2B => some goAzero
  | _ => none

/-- The instruction at PC is one for the array and could issue to it now: a push to the deferred queue needs no array, and ROUSE waits
until that queue is empty (R56). -/
def arrayReady (d : Dev) (p c : Nat) : Bool :=
  let w := fetchWord d c
  canIssue d c && !asleep d c && !(wWen w && getF d (F.mcEvt_count c (wWevt w)) == 0) && !unusedNonzero w &&
  !(wOp w == 0x11 && bitOf w 43 && !isRef d p) &&
  (match arrayOp (wOp w) with | some go => (go p c w (takeWen d c w)).free | none => false)

/-- The oldest deferred entry runs when the array is idle: no instruction is on it, and none is ready to issue to it (R56). -/
def runDeferred (d : Dev) (c : Nat) : Dev :=
  match (clusterOf d c).dwq, partOf d c with
  | e :: _, some p => if arrayTaken d c || arrayReady d p c then d else settle (runEntry d p c e) c
  | _, _ => d

end Sys2Proof.Machine
end

