-- ==== Sys2Proof/Machine/Sequencer.lean ====
section
/-! DEFINITION. What the host and the array do to a cluster beside its instructions: start and stop (R27, R28), row retries and
exclusions (R73 to R75), the rouse hold and ramps (R77), and the register rules of R31. -/

namespace Sys2Proof.Machine

/-- R26 holds of the program region, and the PC lies in it (R27). -/
def startable (d : Dev) (c : Nat) : Bool :=
  let len := getF d (F.mcSeqLen_len c)
  decide (1 ≤ len) && decide (progEnd d c ≤ 0x4000000) && banksOpen d c (progBase d c) (16 * len) && decide (pcOf d c < len)

/-- An accepted or failed start (R27, R292); a retired cluster takes none (R74). -/
def startCluster (d : Dev) (c : Nat) (alsoStop : Bool) : Dev :=
  if !alsoStop && seqAtRest d c && startable d c && (partOf d c).isSome && !(clusterOf d c).startBlocked &&
      !flag d (F.mcDpuMap_retired c) then
    let d := setF (setF (setF d (F.mcSeqFault_cause c) 0) (F.mcSeqFault_pc c) 0) (F.mcSeqFault_deferred c) 0
    let d := if asleep d c then requestWake d (.cluster (Fin.ofNat 28 c)) else d
    setRunning (setLoops d c []) c
  else setF d (F.mcSeqStatus_start_err c) 1

/-- A waiting BAR with sub 2 or AMAX with cvt 2 whose channel was cancelled, so that no use under way counts it, is withdrawn under a
stop (R28). -/
def withdrawCancelled (d : Dev) (c : Nat) : Dev :=
  match (clusterOf d c).waiting, partOf d c with
  | some w, some p =>
    let gone (ch : Nat) : Bool := match Tab.get? d.chans (p, ch) with | some x => x.cancelled || !x.joined.contains c | none => true
    match w.on with
    | .channel ch _ => if gone ch then withdraw d c else d
    | .anchor _ => if gone 16 then withdraw d c else d
    | _ => d
  | _, _ => d

/-- A stop request (R28). -/
def stopCluster (d : Dev) (c : Nat) : Dev :=
  if seqActive d c then
    let d := setF d (F.mcSeqCtrl_stop c) 1
    let d := match (clusterOf d c).waiting with
      | some w => if withdrawable w.on then withdraw d c else d
      | none => d
    withdrawCancelled d c
  else d

/-- All issued work has completed under a stop (R28). -/
def completeStop (d : Dev) (c : Nat) : Dev :=
  if flag d (F.mcSeqCtrl_stop c) && drained d c && (clusterOf d c).pend.isNone then
    let d := enterRest d c 4
    raise d (partOf d c) (F.mcSeqIrq_stopped c) (F.mcSeqIrqEn_stopped c)
  else d

/-- MC_ROUSE_CFG of every cluster from PWR_CFG (R358); an array that is not at rest goes on by the old values until its next instruction
boundary or the end of its ramp (R79). -/
def setRouse (d : Dev) : Dev :=
  let n := ((List.range 28).filter (fun c => !flag d (F.mcDpuMap_retired c))).length
  let step := max 4 (cdiv (16 * n) (max 1 (getF d F.pwrCfg_slew)))
  forEach (List.range 28) d (fun d c =>
    let old := (rampStep d c, holdCycles d c)
    let d := if getF d (F.mcArrStatus_phase c) = 0 then d else modCluster d c (fun x => { x with rouseOld := some old })
    setF (setF d (F.mcRouseCfg_ramp_step c) (min 255 step)) (F.mcRouseCfg_hold c) (getF d F.pwrCfg_hold))

/-- A cluster is retired: it writes nothing further, so what it had issued or pushed is dropped, and it leaves its partition
(R74, R294). -/
def retireCluster (d : Dev) (c : Nat) : Dev :=
  let d := setRouse (setF d (F.mcDpuMap_retired c) 1)
  let d := match partOf d c with | some p => dropBit d (F.hostPcfg_clusters p) c | none => d
  let d := modCluster d c (fun x => { x with jobs := [], dwq := [], waiting := none, pend := none })
  moduleFault (satF d F.telWear4_units 1) (.cluster c)

/-- The physical DPUs that serve logical DPUs 0 to 63, in order: the first 64 of the 66 that are not excluded (R72). -/
def servingDpus (d : Dev) (c : Nat) : List Nat :=
  ((List.range 66).filter (fun i => i != getF d (F.mcDpuMap_out0 c) && i != getF d (F.mcDpuMap_out1 c))).take 64

/-- A DPU is excluded, and the stationary block is loaded again (R74). -/
def excludeDpu (d : Dev) (c dpu : Nat) : Dev :=
  let first := getF d (F.mcDpuMap_out0 c) = 0x7F
  let d := setF (setF d (if first then F.mcDpuMap_out0 c else F.mcDpuMap_out1 c) dpu) (F.mcDpuMap_spares_left c) (if first then 1 else 0)
  addF (satF d F.telWear2_dpus 1) (F.mcArrStallLoad_count c) (loadTime (clusterOf d c).lastFmt)

/-- The array streams rows of a product now (Table 3.6); in rouse cycles it requests none. -/
def streaming (d : Dev) (c : Nat) : Bool :=
  getF d (F.mcArrStatus_phase c) == 6 ||
  (getF d (F.mcArrStatus_phase c) == 1 && (match arrayHead d c with | some j => j.accum | none => false))

/-- The failed row and the later rows that were in flight are requested again: up to 16 of those, as the timing gives (R73; log entry 37). -/
def retryRows (d : Dev) (c : Nat) : Dev :=
  if streaming d c then
    let (n, d) := nextFree d
    let k := 1 + Config.freeCount n % 17
    steadyBroken (addF (satF d (F.mcDpuMap_retries c) k) (F.mcArrBusy_count c) k)
  else d

/-- A serving DPU of an active array fails its residue check, in a matrix or a rouse cycle: its rows are retried; at its second
failure it is excluded first; where two are excluded already the cluster is retired and nothing is retried (R72 to R75). -/
def retryRow (d : Dev) (c dpu : Nat) : Dev :=
  if getF d (F.mcArrStatus_phase c) = 0 ∨ (servingDpus d c).contains dpu = false ∨ flag d (F.mcDpuMap_retired c) = true then d
  else if (clusterOf d c).dpuFails.contains dpu then
    (if getF d (F.mcDpuMap_out0 c) ≠ 0x7F ∧ getF d (F.mcDpuMap_out1 c) ≠ 0x7F then retireCluster d c
     else retryRows (steadyBroken (excludeDpu d c dpu)) c)
  else retryRows (modCluster d c (fun x => { x with dpuFails := dpu :: x.dpuFails })) c

/-- The hold ends and the ramp down begins (R77). -/
def expireHold (d : Dev) (c : Nat) : Dev :=
  if getF d (F.mcArrStatus_phase c) = 3 then
    setF (addF d (F.mcArrRouse_count c) (holdCycles d c)) (F.mcArrStatus_phase c) 4
  else d

/-- One eighth: down to rest; up to the work that waits, whose wait is a load stall where rows are to be requested (R77, R78); or toward
the admitted activity while the array works (R353). -/
def rampOnce (d : Dev) (c : Nat) : Dev :=
  let step := rampStep d c
  let level := getF d (F.mcArrStatus_level c)
  let phase := getF d (F.mcArrStatus_phase c)
  if phase = 4 then
    let d := setF (addF d (F.mcArrRouse_count c) step) (F.mcArrStatus_level c) (level - 1)
    if level ≤ 1 then newRouse (setF d (F.mcArrStatus_phase c) 0) c else d
  else if phase = 5 then
    let d' := setF (addF d (F.mcArrRouse_count c) step) (F.mcArrStatus_level c) (min (fullLevel d) (level + 1))
    let d' := if runPhase d c = 2 then d' else addF d' (F.mcArrStallLoad_count c) step
    if level + 1 ≥ fullLevel d then newRouse (setF d' (F.mcArrStatus_phase c) (runPhase d c)) c else d'
  else if phase = 0 ∨ level = fullLevel d then d
  else setF d (F.mcArrStatus_level c) (if level < fullLevel d then level + 1 else level - 1)

/-- The registers of R31 take writes only at rest; other writes are discarded and set wr_err (R31). -/
def guardedWrite (d : Dev) (c : Nat) (g : Dev → Dev) : Dev :=
  if seqAtRest d c then g d else setF d (F.mcSeqStatus_wr_err c) 1

end Sys2Proof.Machine
end

