-- ==== Sys2Proof/Machine/Fabric.lean ====
section
/-! DEFINITION. The fabric below the collectives: flits and messages (R252 to R259), slots and credits (R256 to R258), link
retry and sideband (R260, R261), training and discovery (R262 to R265, R392), routes (R266 to R268), the time counter
(R270 to R273), and SLICE_FAULT (R278). -/

namespace Sys2Proof.Machine

/-! Ports -/

/-- A port with nothing sent or received. -/
def Port.fresh : Port :=
  { txSeq := 0, rxSeq := 0, nak := false, replay := [], resend := 0, replays := 0, ready := [], lastVc := [], lock := []
    credit := [], used := [], freed := [], sbTx := 0, sbRx := 0, sbOut := [], sbIn := [], lastTx := 0, lastRx := 0
    parts := [], inbox := [], trained := false, signal := false, ident := none }

/-- What a port holds. -/
def portOf (d : Dev) (n : Nat) : Port := (Tab.get? d.ports n).getD Port.fresh

/-- Replaces what a port holds. -/
def setPort (d : Dev) (n : Nat) (x : Port) : Dev := { d with ports := Tab.put d.ports n x }

/-- Changes what a port holds. -/
def modPort (d : Dev) (n : Nat) (g : Port → Port) : Dev := setPort d n (g (portOf d n))

/-- A table of numbers, 0 where nothing is listed. -/
def count? {κ : Type} [DecidableEq κ] (t : List (κ × Nat)) (k : κ) : Nat := (Tab.get? t k).getD 0

/-- State of a port (Table 11.7). -/
def portState (d : Dev) (n : Nat) : Nat := getF d (F.fabPort_state n)

/-- The port is UP. -/
def portUp (d : Dev) (n : Nat) : Bool := portState d n == 4

/-! Geometry (R252, R265, R266) -/

/-- Coordinate on axis x of packed coordinates. -/
def axis (coord x : Nat) : Nat := bits coord (5 * x + 4) (5 * x)

/-- Packed coordinates with another coordinate on axis x. -/
def setAxis (coord x v : Nat) : Nat := coord - axis coord x * 2 ^ (5 * x) + v * 2 ^ (5 * x)

/-- This module's coordinates. -/
def ownCoord (d : Dev) : Nat := getF d F.fabCoord_coord

/-- Installation size on an axis. -/
def torusSize (d : Dev) (x : Nat) : Nat := axis (getF d F.fabTorus_size) x + 1

/-- Size of partition p's slice on an axis. -/
def sliceSize (d : Dev) (p x : Nat) : Nat := axis (getF d (F.fabSlice_size p)) x + 1

/-- The five axes. -/
def axes : List Nat := [0, 1, 2, 3, 4]

/-- Offset on an axis of a member at coordinates coord (R266). -/
def offsetAt (d : Dev) (p coord x : Nat) : Nat :=
  (axis coord x + torusSize d x - axis (getF d (F.fabSlice_origin p)) x % torusSize d x) % torusSize d x

/-- The coordinates lie in partition p's slice. -/
def inSlice (d : Dev) (p coord : Nat) : Bool :=
  flag d (F.fabSlice_valid p) && axes.all (fun x => decide (offsetAt d p coord x < sliceSize d p x))

/-- The axis is full in the slice. -/
def fullAxis (d : Dev) (p x : Nat) : Bool := sliceSize d p x == torusSize d x

/-- The neighbour's coordinates through port n (R252); none on an axis of size 1. -/
def neighbour (d : Dev) (coord n : Nat) : Option Nat :=
  let x := n / 2
  let size := torusSize d x
  if size = 1 ∨ n > 9 then none
  else some (setAxis coord x ((axis coord x + (if n % 2 = 1 then 1 else size - 1)) % size))

/-- The port's link joins coordinates N - 1 and 0 of its axis. -/
def wrapLink (d : Dev) (coord n : Nat) : Bool :=
  let x := n / 2
  if n % 2 = 1 then axis coord x + 1 == torusSize d x else axis coord x == 0

/-- The port of a module at coordinates src that leads toward dst on an axis where they differ: inside a slice straight on a
partial axis (R267), else the shorter installation direction, + on ties (R268). -/
def axisPort (d : Dev) (slice : Option Nat) (src dst x : Nat) : Nat :=
  let size := torusSize d x
  let ahead := (axis dst x + size - axis src x) % size
  let plus : Bool := match slice with
    | some p => if fullAxis d p x then decide (2 * ahead ≤ size) else decide (offsetAt d p src x < offsetAt d p dst x)
    | none => decide (2 * ahead ≤ size)
  2 * x + b2n plus

/-- The out port toward dst in dimension order A to E (R267, R268). -/
def routePort (d : Dev) (slice : Option Nat) (src dst : Nat) : Option Nat :=
  (axes.find? (fun x => axis src x != axis dst x)).map (axisPort d slice src dst)

/-- One hop toward dst on the first axis, in the order E to A, on which it differs (R270, R274). -/
def upPort (d : Dev) (slice : Option Nat) (src dst : Nat) : Option Nat :=
  (axes.reverse.find? (fun x => axis src x != axis dst x)).map (axisPort d slice src dst)

/-- The slice of a message that stays inside it. -/
def sliceOf (d : Dev) (part vc dst : Nat) : Option Nat := if vc ≤ 5 && inSlice d part dst then some part else none

/-- The virtual channel after a wrap link (R267, R268). -/
def wrapVc (vc : Nat) : Nat := if vc = 2 then 3 else if vc = 4 then 5 else if vc = 6 then 7 else vc

/-! Flits and messages (Tables 11.1 to 11.3) -/

/-- Bytes of a list from a place. -/
def cut (l : List Byte) (o n : Nat) : List Byte := (l.drop o).take n

/-- A list padded with zeros to n bytes. -/
def padTo (n : Nat) (l : List Byte) : List Byte := l.take n ++ List.replicate (n - l.length) 0

/-- The 256 bytes of a data flit (Tables 11.1, 11.2). -/
def Flit.bytes (f : Flit) : List Byte :=
  let h := f.msg * 2 ^ 80 + f.len * 2 ^ 72 + f.dpart * 2 ^ 67 + f.kind * 2 ^ 64 + f.part * 2 ^ 61 + f.src * 2 ^ 45 +
    f.dst * 2 ^ 20 + f.seq * 2 ^ 8 + b2n f.eom * 2 ^ 7 + f.vc * 2 ^ 4 + 1
  let body := leBytes 12 h ++ padTo 236 f.payload
  body ++ leBytes 8 (crc64 body)

/-- The 256 bytes of an idle flit. -/
def idleFlit : List Byte :=
  let body := List.replicate 248 0
  body ++ leBytes 8 (crc64 body)

/-- The fields of a data flit's bytes. -/
def Flit.ofBytes (l : List Byte) : Flit :=
  let h := leNat (l.take 12)
  { msg := bits h 95 80, len := bits h 79 72, dpart := bits h 68 67, kind := bits h 66 64, part := bits h 62 61
    src := bits h 60 45, dst := bits h 44 20, seq := bits h 19 8, eom := bitOf h 7, vc := bits h 6 4
    payload := cut l 12 236 }

/-- The flit's length and CRC are right (R254). -/
def flitGood (l : List Byte) : Bool := l.length == 256 && leNat (l.drop 248) == crc64 (l.take 248)

/-- The 16-byte header of a message (Table 11.3). -/
def Msg.header (m : Msg) : List Byte :=
  leBytes 6 m.addr ++ leBytes 2 m.length ++ leBytes 2 m.epoch ++ leBytes 1 m.inst ++ leBytes 1 m.step ++ leBytes 4 m.sig

/-- Cuts a list into pieces of 236 bytes, at most n. -/
def pieces : Nat → List Byte → List (List Byte)
  | 0, _ => []
  | n + 1, l => if l.length ≤ 236 then [l] else l.take 236 :: pieces n (l.drop 236)

/-- The flits of a message on a channel (R255). -/
def Msg.flits (m : Msg) (vc : Nat) : List Flit :=
  let ps := pieces 71 (m.header ++ m.data)
  ps.zipIdx.map (fun x =>
    { msg := m.tag, len := x.1.length, dpart := m.dpart, kind := m.kind, part := m.part, src := m.src, dst := m.dst, seq := 0
      eom := x.2 + 1 == ps.length, vc := vc, payload := x.1 })

/-- The message its flits make up. -/
def Msg.ofFlits (fs : List Flit) : Option Msg :=
  match fs with
  | [] => none
  | f :: _ =>
    let l := fs.flatMap (fun g => g.payload.take g.len)
    some { kind := f.kind, part := f.part, src := f.src, dst := f.dst, dpart := f.dpart, tag := f.msg
           addr := leNat (cut l 0 6), length := leNat (cut l 6 2), epoch := leNat (cut l 8 2), inst := leNat (cut l 10 1)
           step := leNat (cut l 11 1), sig := leNat (cut l 12 4), data := l.drop 16 }

/-- Flits a message takes. -/
def Msg.flitCount (m : Msg) : Nat := cdiv (16 + m.data.length) 236

/-- The source of this module's own flits. -/
def ownSource : Nat := 80

/-- A route may lead through the port: it is UP, or UP but for a fast retrain that holds its flits (R263, R265). -/
def portCarries (d : Dev) (n : Nat) : Bool := portUp d n || (portState d n == 5 && getF d (F.fabPort_disc n) == 1)

/-- Flits join those ready at a port, unless no route leads through it (R265; log entry 14). -/
def queueFlits (d : Dev) (n source : Nat) (fs : List Flit) : Dev :=
  if portCarries d n then modPort d n (fun x => { x with ready := x.ready ++ fs.map (fun f => (source, f)) }) else d

/-- Sends a message on a channel toward its destination. -/
def sendMsg (d : Dev) (m : Msg) (vc : Nat) : Dev :=
  match routePort d (sliceOf d m.part vc m.dst) (ownCoord d) m.dst with
  | some n => queueFlits d n ownSource (m.flits (if wrapLink d (ownCoord d) n then wrapVc vc else vc))
  | none => d

/-- Sends a WRITE, READ, RESP or ABORT (class 0 request, 1 response) to coordinates, inside the slice or in transit (R267,
R268). -/
def sendTo (d : Dev) (m : Msg) (response : Bool) : Dev :=
  sendMsg d m (if inSlice d m.part m.dst then (if response then 4 else 2) else 6)

/-! Slots (R256 to R258) -/

/-- The share of a partition in FAB_CFG. -/
def fabShare (d : Dev) (p : Nat) : Nat := bits (getF d F.fabCfg_share) (5 * p + 4) (5 * p)

/-- Sum of the shares. -/
def fabShares (d : Dev) : Nat := fabShare d 0 + fabShare d 1 + fabShare d 2 + fabShare d 3

/-- Flits of a partition's receive buffer (Table 11.6, R256); class 4 is transit. -/
def bufferFlits (d : Dev) (cls vc : Nat) : Nat :=
  if cls = 4 then (if vc = 6 then 64 else 32)
  else if fabShares d = 0 then 0 else nth [256, 128, 64, 64, 96, 96] vc * fabShare d cls / fabShares d

/-- The partition with the largest credit, the lowest on ties. -/
def topCredit (c : List Nat) : Nat :=
  (List.range 4).foldl (fun q p => if nth c p > nth c q then p else q) 0

/-- The owner of slot 24 - n .. 24 by the procedure of R257; credits offset by 24 x 24 to stay natural. -/
def ownersFrom (d : Dev) (j : Nat) (credit : List Nat) : Nat → List Nat
  | 0 => []
  | n + 1 =>
    if flag d F.fabCfg_transit_ok && j % 8 = 0 then 4 :: ownersFrom d (j + 1) credit n
    else
      let c := (List.range 4).map (fun p => nth credit p + fabShare d p)
      let q := topCredit c
      q :: ownersFrom d (j + 1) ((List.range 4).map (fun p => if p = q then nth c p - fabShares d else nth c p)) n

/-- The owner of data slot j: a partition, or 4 for transit (R257). -/
def slotOwner (d : Dev) (j : Nat) : Nat := nth (ownersFrom d 1 [10000, 10000, 10000, 10000] 24) (j - 1)

/-- The class whose slots and buffers a flit uses (log entry 14). -/
def Flit.cls (f : Flit) : Nat := if f.vc ≥ 6 then 4 else f.part

/-- The ready flit next on a channel of a class: of the message in progress on the channel, else the first (R255). -/
def nextFlit (x : Port) (cls vc : Nat) : Option (Nat × Flit) :=
  let mine := x.ready.filter (fun r => r.2.cls == cls && r.2.vc == vc)
  match Tab.get? x.lock vc with
  | some (source, c) => if c = cls then mine.find? (fun r => r.1 == source) else none
  | none => mine.head?

/-- A credit is left (R256). -/
def hasCredit (x : Port) (cls vc : Nat) : Bool := (count? x.credit (cls, vc) + 65536 - count? x.used (cls, vc) % 65536) % 65536 != 0

/-- The flit a class sends, in round-robin order of its channels, transit in the order they became ready (R258). -/
def sendable (x : Port) (cls : Nat) : Option (Nat × Flit) :=
  if cls = 4 then
    let c := [6, 7].filterMap (fun v => if hasCredit x 4 v then nextFlit x 4 v else none)
    x.ready.find? (fun r => c.contains r)
  else
    let start := match Tab.get? x.lastVc cls with | some v => v + 1 | none => 0
    (List.range 6).findSome? (fun i => let v := (start + i) % 6; if hasCredit x cls v then nextFlit x cls v else none)

/-- Some ready flit lacks its credit. -/
def lacksCredit (x : Port) : Bool :=
  (List.range 5).any (fun cls => (List.range 8).any (fun v => (nextFlit x cls v).isSome && !hasCredit x cls v))

/-- The flit a data slot carries (R258). -/
def slotChoice (d : Dev) (x : Port) (slot : Nat) : Option (Nat × Flit) :=
  let o := slotOwner d slot
  match sendable x o with
  | some r => some r
  | none =>
    if flag d F.fabCfg_fixed_slots then none
    else (4 :: (List.range 4).map (fun i => if o = 4 then i else (o + 1 + i) % 4)).findSome? (sendable x)

/-- Buffers of (class, vc) are free again (R256). -/
def freeBuffers (d : Dev) (n cls vc k : Nat) : Dev :=
  modPort d n (fun x => { x with freed := Tab.put x.freed (cls, vc) (count? x.freed (cls, vc) + k) })

/-- A flit that came from another module has left: its receive buffer is free (R256). -/
def freeSource (d : Dev) (source : Nat) (f : Flit) : Dev :=
  if source < ownSource then freeBuffers d (source / 8) f.cls (source % 8) 1 else d

/-- A new flit leaves the port. -/
def sendFlit (d : Dev) (n : Nat) (r : Nat × Flit) : Dev :=
  let d := freeSource d r.1 r.2
  let x := portOf d n
  let f := { r.2 with seq := x.txSeq }
  let k := (f.cls, f.vc)
  let x := { x with
    ready := x.ready.erase r
    txSeq := (x.txSeq + 1) % 4096
    replay := x.replay ++ [f]
    lastVc := Tab.put x.lastVc f.cls f.vc
    lock := if f.eom then Tab.erase x.lock f.vc else Tab.put x.lock f.vc (r.1, f.cls)
    used := Tab.put x.used k (count? x.used k + 1) }
  let d := addF (setPort d n x) (F.fabPcntTxFlits_tx_flits n) 1
  { d with sentData := Tab.put d.sentData n f.bytes }

/-- An idle flit leaves the port. -/
def sendIdle (d : Dev) (n : Nat) : Dev := { d with sentData := Tab.put d.sentData n idleFlit }

/-- A flit is sent again (R260); the replays in a row of the oldest unacknowledged one are counted (R261). -/
def sendAgain (d : Dev) (n : Nat) : Dev :=
  let x := portOf d n
  match x.replay[x.replay.length - x.resend]? with
  | some f =>
    let again := if x.resend = x.replay.length then x.replays + 1 else x.replays
    let d := addF (setPort d n { x with resend := x.resend - 1, replays := again }) (F.fabPcntReplays_replays n) 1
    { d with sentData := Tab.put d.sentData n f.bytes }
  | none => d

/-- Credits granted on (class, vc): buffers of the configuration and buffers freed since (R256). -/
def granted (d : Dev) (x : Port) (cls vc : Nat) : Nat := (bufferFlits d cls vc + count? x.freed (cls, vc)) % 65536

/-- A sideband slot (Table 11.5). -/
def SbMsg.bytes (m : SbMsg) (sbseq : Nat) : List Byte :=
  leBytes 1 sbseq ++ leBytes 1 m.type ++ leBytes 1 m.part ++ leBytes 1 m.chan ++ leBytes 2 m.gen ++ leBytes 2 m.flags ++
  leBytes 8 m.value ++ leBytes 4 m.ext

/-- The control flit of slot 0 of a frame (Table 11.4). -/
def controlFlit (d : Dev) (x : Port) : List Byte :=
  let tTx := ftcOf d * 64 % 2 ^ 64
  let h := 2 + (x.rxSeq + 4095) % 4096 * 2 ^ 4 + b2n x.nak * 2 ^ 16 + (x.sbRx + 255) % 256 * 2 ^ 17
  let credits := (List.range 4).flatMap (fun p => (List.range 6).flatMap (fun v => leBytes 2 (granted d x p v))) ++
    leBytes 2 (granted d x 4 6) ++ leBytes 2 (granted d x 4 7)
  let body := leBytes 12 h ++ credits ++ leBytes 8 tTx ++ leBytes 8 x.lastTx ++
    leBytes 8 ((tTx + 2 ^ 64 - x.lastRx % 2 ^ 64) % 2 ^ 64) ++
    padTo 160 ((x.sbOut.take 8).flatMap (fun m => m.2.bytes m.1))
  body ++ leBytes 8 (crc64 body)

/-- A frame begins: its control flit leaves; a nak asked for is counted (R254, R260). -/
def sendControl (d : Dev) (n : Nat) : Dev :=
  let x := portOf d n
  let d := { d with sentCtl := Tab.put d.sentCtl n (controlFlit d x) }
  if x.nak then addF (setPort d n { x with nak := false }) (F.fabPcntNaks_naks n) 1 else d

/-- Data slot j of a frame (R258, R260); the frame's control flit goes out with its first data slot (log entry 14). -/
def runSlot (d : Dev) (n slot : Nat) : Dev :=
  if (portState d n = 4 ∨ portState d n = 3) ∧ 1 ≤ slot ∧ slot ≤ 24 then
    let d := if slot = 1 then sendControl d n else d
    if portState d n = 3 then sendIdle d n
    else
      let x := portOf d n
      let d := if lacksCredit x then addF d (F.fabPcntCreditStall_credit_stall n) 1 else d
      if x.resend > 0 then sendAgain d n
      else if x.replay.length ≥ 1024 then sendIdle d n
      else match slotChoice d x slot with
        | some r => sendFlit d n r
        | none => sendIdle d n
  else d

/-! Sideband (R261) -/

/-- A sideband message joins those a port sends until they are acknowledged. -/
def sendSb (d : Dev) (n : Nat) (m : SbMsg) : Dev :=
  modPort d n (fun x => { x with sbOut := x.sbOut ++ [(x.sbTx, m)], sbTx := (x.sbTx + 1) % 256 })

/-- The first received sideband message of a type that can be acted on, and the state without it. -/
def takeSb (d : Dev) (n type : Nat) (ok : SbMsg → Bool := fun _ => true) : Option (SbMsg × Dev) :=
  let x := portOf d n
  (x.sbIn.find? (fun m => m.type == type && ok m)).map (fun m => (m, setPort d n { x with sbIn := x.sbIn.erase m }))

/-- A sideband slot of a control flit. -/
def SbMsg.ofBytes (l : List Byte) : Nat × SbMsg :=
  (leNat (cut l 0 1), ⟨leNat (cut l 1 1), leNat (cut l 2 1) % 4, leNat (cut l 3 1), leNat (cut l 4 2), leNat (cut l 6 2),
    leNat (cut l 8 8), leNat (cut l 16 4)⟩)

/-- Takes the sideband slots in order, each sequence number once. -/
def takeSlots (x : Port) : List (List Byte) → Port
  | [] => x
  | l :: r =>
    let (s, m) := SbMsg.ofBytes l
    takeSlots (if m.type != 0 && s == x.sbRx then { x with sbRx := (x.sbRx + 1) % 256, sbIn := x.sbIn ++ [m] } else x) r

/-! SLICE_FAULT (R278) -/

/-- The port's neighbour is another member of partition p's slice. -/
def sliceUses (d : Dev) (p n : Nat) : Bool :=
  match neighbour d (ownCoord d) n with
  | some k => inSlice d p k && (fullAxis d p (n / 2) || !wrapLink d (ownCoord d) n)
  | none => false

/-- Writes a collective's word 6 (Table 11.10). -/
def writeStatus (d : Dev) (k : Coll) (steps status : Nat) : Dev :=
  let us := min (2 ^ 32 - 1) ((ftcOf d - k.posted) / 2000)
  engineWrite d k.p (k.desc + 48) (leBytes 8 (us * 2 ^ 32 + steps % 2 ^ 16 * 2 ^ 8 + status))

/-- open_old: collectives of the current epoch, saturating (R284). -/
def syncOpen (d : Dev) (p : Nat) : Dev :=
  setF d (F.fabEpoch_open_old p)
    (min 255 (d.colls.filter (fun k => k.p == p && !k.held && k.epoch == getF d (F.fabEpoch_cur p))).length)

/-- The FPOST of a collective completes (R282): its job goes and signals. -/
def finishPost (d : Dev) (k : Coll) : Dev :=
  match (clusterOf d k.c).jobs.findIdx? (fun j => j.post == some k.id) with
  | some i => match (clusterOf d k.c).jobs[i]? with | some j => finishJob d k.c i j | none => d
  | none => d

/-- A collective resolves with a status: word 6, its events, its error interrupt (R282, Table 11.20). -/
def resolveColl (d : Dev) (k : Coll) (steps status : Nat) : Dev :=
  let d := writeStatus { d with colls := d.colls.filter (fun x => x.id != k.id) } k steps status
  let d := syncOpen (postMask d k.cmask k.evt) k.p
  let d := if 2 ≤ status ∧ status ≠ 3 then raise d (some k.p) (F.fabIrq_coll_err k.p) (F.fabIrqEn_coll_err k.p) else d
  finishPost d k

/-- Every open collective of a partition resolves ABORTED. -/
def abortColls (d : Dev) (p : Nat) : Dev :=
  forEach (d.colls.filter (fun k => k.p == p)) d (fun d k => resolveColl d k k.stepped 3)

/-- Every open channel of a partition is cancelled without release; a stopped cluster's wait is withdrawn (R28, R278). -/
def cancelChannels (d : Dev) (p : Nat) : Dev :=
  let d := { d with chans := d.chans.map (fun e => if e.1.1 = p then (e.1, { e.2 with cancelled := true }) else e) }
  forEach (clustersOf d p) d (fun d c => if flag d (F.mcSeqCtrl_stop c) then withdrawCancelled d c else d)

/-- SLICE_FAULT of a partition's slice (R278). -/
def sliceFault (d : Dev) (p cause : Nat) : Dev :=
  if !flag d (F.fabSlice_valid p) || flag d (F.fabSlstat_fault p) then d
  else
    let d := setF (setF d (F.fabSlstat_fault p) 1) (F.fabSlstat_cause p) cause
    let d := raise d (some p) (F.fabIrq_slice_fault p) (F.fabIrqEn_slice_fault p)
    let d := report d (.sliceFault p cause)
    let d := forEach ((List.range 10).filter (fun n => portUp d n && sliceUses d p n)) d (fun d n => sendSb d n ⟨3, p, 0, 0, 0, cause, 0⟩)
    abortColls (cancelChannels d p) p

/-- A FAULT message arrives (R278). -/
def faultMessage (d : Dev) (n : Nat) : Dev :=
  match takeSb d n 3 with
  | some (m, d) => sliceFault d m.part (if m.value % 16 = 5 then 5 else 4)
  | none => d

/-! The time counter (R270 to R273) -/

/-- Distance to the root over the axes. -/
def hopsTo (d : Dev) (a b : Nat) : Nat :=
  (axes.map (fun x => let s := torusSize d x; let k := (axis b x + s - axis a x) % s; min k (s - k))).sum

/-- The port may lead to the parent: it is UP, or the parent's already and in a fast retrain, which does not end the lock (R270, R272). -/
def mayParent (d : Dev) (n : Nat) : Bool := portUp d n || (portState d n == 5 && getF d F.fabFtcStat_parent == n)

/-- The parent's port (R270): the first axis, E to A, with a difference whose port is UP. -/
def parentPort (d : Dev) : Option Nat :=
  let root := Config.rootCoord.toNat
  (axes.reverse.filter (fun x => axis (ownCoord d) x != axis root x)).findSome? (fun x =>
    let n := axisPort d none (ownCoord d) root x
    if mayParent d n then some n else none)

/-- Lock state. -/
def setLocked (d : Dev) (b : Bool) : Dev := setF d F.fabFtcStat_locked (b2n b)

/-- A module loses lock (R272). -/
def loseLock (d : Dev) : Dev :=
  if flag d F.fabFtcStat_locked then steadyBroken { setLocked d false with offSum := 0, offCount := 0 } else d

/-- Chooses the parent again after a port or the installation's geometry has changed; the root without FTC_PPS is locked, a
module without a parent is not (R270, R271). -/
def chooseParent (d : Dev) : Dev :=
  if flag d F.fabFtcCfg_root then
    let d := setF (setF d F.fabFtcStat_parent 0xF) F.fabFtcStat_depth 0
    if flag d F.fabFtcCfg_pps_en then d else setLocked d true
  else match parentPort d with
    | some n =>
      let d := setF d F.fabFtcStat_depth (hopsTo d (ownCoord d) Config.rootCoord.toNat)
      if getF d F.fabFtcStat_parent = n then d
      else { setF d F.fabFtcStat_parent n with offSum := 0, offCount := 0 }
    | none => loseLock (setF (setF d F.fabFtcStat_parent 0xF) F.fabFtcStat_depth 0)

/-- The module belongs to some slice. -/
def inAnySlice (d : Dev) : Bool := (List.range 4).any (fun p => flag d (F.fabSlice_valid p))

/-- A forward step of the FTC (R271, R272). -/
def stepFtc (d : Dev) (ticks : Nat) : Dev :=
  if ticks = 0 then d else satF (setF d F.fabFtc_ftc (min (2 ^ 64 - 1) (ftcOf d + ticks))) F.fabFtcStat_steps 1

/-- A number saturated to a 16-bit two's-complement field. -/
def sat16 (x : Int) : Nat := unsigned 16 (max (-32768) (min 32767 x))

/-- Units of the FTC's rate correction in one tick: the rate changes by at most 100 ppm, 4,096 of them a tick (R271). -/
def slewTick : Nat := 40960000

/-- After 64 offsets, an unlocked module outside every slice steps forward by the whole ticks of their mean, the rate removes what is
left, and lock is judged: the mean lies within 8/64 tick (R271). -/
def adjustRate (d : Dev) : Dev :=
  if flag d F.fabFtcCfg_root || d.offCount < 64 || getF d F.fabFtcStat_parent = 0xF then d
  else
    let (sum, count) := (d.offSum, (d.offCount : Int))
    let d := { setF d F.fabFtcStat_offset (sat16 (sum.tdiv count)) with offSum := 0, offCount := 0 }
    let steps := if !flag d F.fabFtcStat_locked && !inAnySlice d then (sum / (64 * count)).toNat else 0
    let d := { stepFtc d steps with slew := (sum - 64 * count * steps) * 640000 / count }
    if -8 * count ≤ sum ∧ sum ≤ 8 * count then setLocked d true else loseLock d

/-- Adds the offset a control flit from the parent shows (R271); times in 1/64 tick. -/
def noteOffset (d : Dev) (n tTx tEcho tTurn tRx : Nat) : Dev :=
  if getF d F.fabFtcStat_parent = n ∧ portUp d n = true ∧ d.offCount < 64 then
    let rtt := signed 64 ((tRx + 2 * 2 ^ 64 - tEcho - tTurn) % 2 ^ 64)
    let delay := rtt / 2 + Config.asym n
    { d with offSum := d.offSum + (signed 64 ((tTx + 2 ^ 64 - tRx) % 2 ^ 64) + delay), offCount := d.offCount + 1 }
  else d

/-- The FTC has reached a value. -/
def ftcReaches (d : Dev) (t : Nat) : Dev := setF d F.fabFtc_ftc (max (ftcOf d) t)

/-- How far the FTC lies from the value that R273 sets for an edge: behind it when positive. -/
def ppsError (d : Dev) : Int :=
  let second := 2000000000
  let behind := (getF d F.fabFtcCfg_pps_offset % second + second - ftcOf d % second) % second
  if 2 * behind ≤ second then behind else (behind : Int) - second

/-- A rising edge of FTC_PPS at FTC value t (R273, R379): aligned, it locks the root; else an unlocked root outside every slice steps forward,
and any other slews. After the first aligned edge, one more than 1 µs from its expected value is ignored. -/
def ppsEdge (d : Dev) (t : Nat) : Dev :=
  if !(flag d F.fabFtcCfg_root && flag d F.fabFtcCfg_pps_en) then d
  else
    let d := ftcReaches d t
    let err := ppsError d
    if d.ppsRef.isSome && decide (err < -2000 ∨ 2000 < err) then
      (if d.ppsIgnored + 1 ≥ 8 then { loseLock d with ppsIgnored := 0, ppsRef := none }
       else { d with ppsIgnored := d.ppsIgnored + 1 })
    else
      let d := { d with ppsIgnored := 0 }
      if err = 0 then setLocked { d with ppsRef := some (ftcOf d), slew := 0 } true
      else if !flag d F.fabFtcStat_locked && !inAnySlice d then stepFtc d (err % 2000000000).toNat
      else { d with slew := err * slewTick }

/-- A commit makes this module the root that follows FTC_PPS: it is locked once an edge finds it aligned (R271). -/
def beginPps (d : Dev) : Dev := { loseLock d with ppsIgnored := 0, ppsRef := none }

/-! Training and discovery (R262 to R265, R392) -/

/-- A port changes state: the event is raised, slices that lose it fault, and the parent is chosen again (R264, R278). -/
def setPortState (d : Dev) (n st : Nat) : Dev :=
  let was := portState d n
  if was = st then d
  else
    let d := setF d (F.fabPort_state n) st
    let d := forEach (List.range 4) d (fun d p => raise d (some p) (F.fabIrq_port p) (F.fabIrqEn_port p))
    let d := if st = 8 ∨ (st = 1 ∧ was = 4) then
        forEach ((List.range 4).filter (fun p => sliceUses d p n)) d (fun d p => sliceFault d p (if st = 8 then 1 else 2))
      else d
    chooseParent d

/-- Number of lanes a mask names. -/
def laneCount (m : Nat) : Nat := ((List.range 8).filter (fun i => bitOf m i)).length

/-- Sets the working lanes of a port; lanes dropped count as wear (Table 15.13). -/
def setLanes (d : Dev) (n m : Nat) : Dev := setF (setF d (F.fabPort_lane_mask n) m) (F.fabPort_lanes n) (laneCount m)

/-- Sends this module's identity (R265); a module whose FAB_COORD was never committed sends none (R392). -/
def sendIdent (d : Dev) (n : Nat) : Dev :=
  if d.coordSet then
    sendSb d n ⟨4, 0, 0, 0, 0, getF d F.fabCoord_module + ownCoord d * 2 ^ 16 + n * 2 ^ 41, 0⟩
  else d

/-- The port is planned used. -/
def plannedUsed (d : Dev) (n : Nat) : Bool := flag d (F.fabLmap_used n)

/-- Compares the partner's identity with the plan and the geometry (Table 11.8). -/
def discover (d : Dev) (n : Nat) : Dev :=
  match (portOf d n).ident with
  | none => d
  | some (m, coord, port) =>
    if !plannedUsed d n then setPortState (setF d (F.fabPort_disc n) 4) n 7
    else if m == getF d (F.fabLmap_nb_module n) && port == getF d (F.fabLmap_nb_port n) &&
        neighbour d (ownCoord d) n == some coord && port == Nat.xor n 1 then
      setPortState (setF d (F.fabPort_disc n) 1) n 4
    else setPortState (setF d (F.fabPort_disc n) 3) n 6

/-- An IDENT message arrives (R265). -/
def identMessage (d : Dev) (n : Nat) : Dev :=
  match takeSb d n 4 with
  | some (m, d) =>
    let (k, coord, port) := (bits m.value 15 0, bits m.value 40 16, bits m.value 44 41)
    let d := setF (setF d (F.fabPort_nb_module n) k) (F.fabPort_nb_port n) port
    let d := modPort d n (fun x => { x with ident := some (k, coord, port) })
    if portState d n = 3 then discover d n else d
  | none => d

/-- A partner's first signal starts full training once the maltster has started (R262, Table 16.6). -/
def firstSignal (d : Dev) (n : Nat) : Dev :=
  if portState d n = 2 then modPort d n (fun x => { x with signal := true })
  else if d.malt ≠ 0 ∧ (portState d n = 0 ∨ portState d n = 1) then
    setPortState (modPort (setF (reachUnit d (.fabricPort (Fin.ofNat 10 n))) (F.fabPort_disc n) 0) n (fun x => { x with signal := true })) n 2
  else d

/-- Full training ends with a set of working lanes (R262, R264); where no partner trained, the port is DOWN or OFF (Table 11.8). A power-gated port that it woke is awake (Table 15.2). -/
def completeTraining (d : Dev) (n mask : Nat) : Dev :=
  if portState d n != 2 || d.wakeQueue.contains (.fabricPort (Fin.ofNat 10 n)) then d
  else
    let d := setLanes (endWake d (.fabricPort (Fin.ofNat 10 n))) n mask
    if laneCount mask = 0 then
      (if (portOf d n).signal then setPortState d n 8
       else if plannedUsed d n then setPortState (setF d (F.fabPort_disc n) 2) n 1
       else setPortState d n 0)
    else
      let d := sendIdent (modPort d n (fun _ => { Port.fresh with trained := true, signal := true })) n
      setPortState (setF d (F.fabPort_disc n) 0) n 3

/-- A fast retrain begins (R261, R263). -/
def beginRetrain (d : Dev) (n : Nat) : Dev :=
  steadyBroken (satF (setPortState d n 5) (F.fabPort_retrains n) 1)

/-- A lane fails (R263). -/
def failLane (d : Dev) (n lane : Nat) : Dev :=
  if (portOf d n).trained && bitOf (getF d (F.fabPort_lane_mask n)) lane && [3, 4, 6, 7].contains (portState d n) then
    beginRetrain d n
  else d

/-- A fast retrain ends: failed lanes are dropped, unacknowledged flits are sent again (R263, R264). -/
def completeRetrain (d : Dev) (n mask : Nat) : Dev :=
  if portState d n != 5 then d
  else
    let was := getF d (F.fabPort_lane_mask n)
    let now := Nat.land was mask
    let d := satF (setLanes d n now) F.telWear4_lanes (laneCount was - laneCount now)
    if now = 0 then setPortState d n 8
    else
      let d := modPort d n (fun x => { x with resend := x.replay.length, replays := 0 })
      match getF d (F.fabPort_disc n) with
      | 1 => setPortState d n 4
      | 3 => setPortState d n 6
      | 4 => setPortState d n 7
      | _ => if (portOf d n).ident.isSome then discover d n else setPortState d n 3

/-- A trained port is compared again after a commit of FAB_COORD, FAB_TORUS or FAB_LMAPn (R265, R392). -/
def recheckPort (d : Dev) (n : Nat) : Dev :=
  if portState d n = 6 ∨ portState d n = 7 ∨ (portState d n = 3 ∧ (portOf d n).ident.isSome = true) then discover d n
  else if portState d n = 0 ∧ plannedUsed d n = true then setPortState (setF d (F.fabPort_disc n) 2) n 1
  else if portState d n = 1 ∧ plannedUsed d n = false then setPortState (setF d (F.fabPort_disc n) 0) n 0
  else d

/-- A commit changed the installation's geometry (R265, R270, R392). -/
def recheckPorts (d : Dev) (coordCommitted : Bool) : Dev :=
  let first := coordCommitted && !d.coordSet
  let d := { d with coordSet := d.coordSet || coordCommitted }
  let d := if first then forEach ((List.range 10).filter (fun n => (portOf d n).trained)) d sendIdent else d
  chooseParent (forEach (List.range 10) d recheckPort)

/-- FAB_STATUS as read (Table 11.14). -/
def fabReady (d : Dev) : Bool :=
  (List.range 10).all (fun n => portState d n != 1 && portState d n != 6 && (!plannedUsed d n || getF d (F.fabPort_disc n) == 1))

/-! Receiving (R254, R260, R261) -/

/-- A flit for this module joins its message; the message's last flit completes it (R255). The engine takes every flit as it comes but the
last, whose buffer stays until the message has been acted on; a RESP goes to the buffer reserved for it (R256; log entry 14). -/
def acceptFlit (d : Dev) (n : Nat) (f : Flit) : Dev :=
  let d := if f.eom && f.kind != 2 then d else freeBuffers d n f.cls f.vc 1
  modPort d n (fun x =>
    let fs := x.parts.filter (fun g => g.vc == f.vc) ++ [f]
    if f.eom then
      let rest := x.parts.filter (fun g => g.vc != f.vc)
      match Msg.ofFlits fs with
      | some m => { x with parts := rest, inbox := x.inbox ++ [(f.vc, m)] }
      | none => { x with parts := rest }
    else { x with parts := x.parts ++ [f] })

/-- A flit for another module goes on toward it (R267, R268); its buffer is free once it has left, or at once where no port leads on. -/
def forwardFlit (d : Dev) (n : Nat) (f : Flit) : Dev :=
  let d := if f.vc ≥ 6 then addF d (F.fabPcntTransit_transit n) 1 else d
  match routePort d (sliceOf d f.part f.vc f.dst) (ownCoord d) f.dst with
  | some o =>
    if portCarries d o then
      queueFlits d o (8 * n + f.vc) [{ f with vc := if wrapLink d (ownCoord d) o then wrapVc f.vc else f.vc }]
    else freeBuffers d n f.cls f.vc 1
  | none => freeBuffers d n f.cls f.vc 1

/-- Adds a free number of events to a counter whose rate the manual does not fix (log entry 1). -/
def addFree (d : Dev) (k : FKey) : Dev :=
  let (i, d) := nextFree d
  addF d k (Config.freeCount i)

/-- The codewords a flit came in (R253): the symbols corrected, or where its CRC fails the codewords that could not be; how many is free
(log entry 1). -/
def noteFec (d : Dev) (n : Nat) (good : Bool) : Dev :=
  addFree d (if good then F.fabPcntFecCorr_fec_corr n else F.fabPcntFecUncorr_fec_uncorr n)

/-- A data flit arrives (R260). -/
def receiveFlit (d : Dev) (n : Nat) (l : List Byte) : Dev :=
  if !portUp d n then d
  else
    let d := noteFec d n (flitGood l)
    if !flitGood l then modPort d n (fun x => { x with nak := true })
    else if leNat (l.take 1) % 16 != 1 then d
    else
      let f := Flit.ofBytes l
      let x := portOf d n
      if f.seq ≠ x.rxSeq then modPort d n (fun x => { x with nak := true })
      else
        let d := setPort d n { x with rxSeq := (x.rxSeq + 1) % 4096, nak := false }
        let d := addF d (F.fabPcntRxFlits_rx_flits n) 1
        if f.dst = ownCoord d then acceptFlit d n f else forwardFlit d n f

/-- Flits an ack covers leave the replay buffer (R260). -/
def ackFlits (x : Port) (ack : Nat) : Port :=
  match x.replay.findIdx? (fun f => f.seq == ack) with
  | some i => { x with replay := x.replay.drop (i + 1), resend := min x.resend (x.replay.length - (i + 1)), replays := 0 }
  | none => x

/-- Sideband messages an sb_ack covers are done (R261). -/
def ackSb (x : Port) (ack : Nat) : Port :=
  match (x.sbOut.take 128).findIdx? (fun m => m.1 == ack) with
  | some i => { x with sbOut := x.sbOut.drop (i + 1) }
  | none => x

/-- The credit counters of a control flit (Table 11.4). -/
def readCredits (l : List Byte) : List ((Nat × Nat) × Nat) :=
  let at' (i : Nat) : Nat := leNat (cut l (12 + 2 * i) 2)
  (List.range 4).flatMap (fun p => (List.range 6).map (fun v => ((p, v), at' (6 * p + v)))) ++ [((4, 6), at' 24), ((4, 7), at' 25)]

/-- A port that has trained and is in no retrain. -/
def portTrained (d : Dev) (n : Nat) : Bool := [3, 4, 6, 7].contains (portState d n)

/-- A control flit arrives at local time tRx, in 1/64 tick (R260, R261, R271). A nak asks for a replay; where the oldest flit has been
replayed 16 times in a row already, the port enters RETRAIN. -/
def receiveControl (d : Dev) (n : Nat) (l : List Byte) (tRx : Nat) : Dev :=
  if !portTrained d n then d
  else if !flitGood l || leNat (l.take 1) % 16 != 2 then noteFec d n (flitGood l)
  else
    let d := noteFec d n true
    let h := leNat (l.take 12)
    let t (o : Nat) : Nat := leNat (cut l o 8)
    let x := takeSlots { ackSb (ackFlits (portOf d n) (bits h 15 4)) (bits h 24 17) with
      credit := readCredits l, lastTx := t 64, lastRx := tRx } ((List.range 8).map (fun i => cut l (88 + 20 * i) 20))
    let nak := bitOf h 16 && !x.replay.isEmpty
    let x := if nak then { x with resend := x.replay.length } else x
    let d := noteOffset (setPort d n x) n (t 64) (t 72) (t 80) tRx
    if nak && x.replays ≥ 16 && portUp d n then beginRetrain d n else d

/-- The first received message of a kind on a channel, and the state without it, its last buffer free (a RESP's was free already). -/
def takeMsg (d : Dev) (n vc kind : Nat) (ok : Msg → Bool) : Option (Msg × Dev) :=
  let x := portOf d n
  (x.inbox.find? (fun m => m.1 == vc && m.2.kind == kind && ok m.2)).map (fun m =>
    (m.2, freeBuffers (setPort d n { x with inbox := x.inbox.erase m }) n (if vc ≥ 6 then 4 else m.2.part) vc (if kind = 2 then 0 else 1)))

end Sys2Proof.Machine
end

