-- ==== Sys2Proof/Machine/Elem.lean ====
section
/-! DEFINITION. The elementary functions of the function sequences and of VRNG NORMAL (R182, R183, Table 7.4), each by its
exact value: integer intervals that enclose the value at a precision of p bits below the point, refined until every value
strictly inside the interval rounds alike. -/

namespace Sys2Proof.Machine

/-- A closed interval lo x 2^-p .. hi x 2^-p; p is carried by the caller. -/
structure Ivl where
  lo : Int
  hi : Int
  deriving DecidableEq, Repr

/-- ceil(a / 2^p) of an integer. -/
def ceilShift (a : Int) (p : Nat) : Int := -((-a) / 2 ^ p)

/-- floor(a / 2^p) of an integer. -/
def floorShift (a : Int) (p : Nat) : Int := a / 2 ^ p

/-- Product of two intervals. -/
def ivlMul (p : Nat) (x y : Ivl) : Ivl :=
  let a := x.lo * y.lo
  let b := x.lo * y.hi
  let c := x.hi * y.lo
  let d := x.hi * y.hi
  ⟨floorShift (min (min a b) (min c d)) p, ceilShift (max (max a b) (max c d)) p⟩

/-- Sum of two intervals. -/
def ivlAdd (x y : Ivl) : Ivl := ⟨x.lo + y.lo, x.hi + y.hi⟩

/-- Negation of an interval. -/
def ivlNeg (x : Ivl) : Ivl := ⟨-x.hi, -x.lo⟩

/-- An interval divided by a positive natural number. -/
def ivlDivNat (x : Ivl) (n : Nat) : Ivl := ⟨x.lo / n, -((-x.hi) / (n : Int))⟩

/-- An interval divided by an interval of positive numbers. -/
def ivlDiv (p : Nat) (x y : Ivl) : Ivl :=
  let q (a b : Int) : Int := a * 2 ^ p / b
  let r (a b : Int) : Int := -((-(a * 2 ^ p)) / b)
  ⟨min (q x.lo y.lo) (q x.lo y.hi), max (r x.hi y.lo) (r x.hi y.hi)⟩

/-- The number n as an interval. -/
def ivlNat (p n : Nat) : Ivl := ⟨n * 2 ^ p, n * 2 ^ p⟩

/-- A finite value as an interval. -/
def ivlVal (p : Nat) (s : Bool) (m : Nat) (e : Int) : Ivl :=
  let k := e + (p : Int)
  if 0 ≤ k then ⟨sgn s (m * pow2 k), sgn s (m * pow2 k)⟩
  else ⟨sgn s m / pow2 (-k), -((-(sgn s m)) / (pow2 (-k) : Int))⟩

/-- Widens an interval by one unit each side. -/
def ivlWiden (x : Ivl) : Ivl := ⟨x.lo - 1, x.hi + 1⟩

/-- x times 2^k. -/
def ivlScale (x : Ivl) (k : Int) : Ivl :=
  if 0 ≤ k then ⟨x.lo * pow2 k, x.hi * pow2 k⟩
  else ⟨x.lo / pow2 (-k), -((-x.hi) / (pow2 (-k) : Int))⟩

/-- The sum of 1/((2i+1) n^(2i+1)), with alternating signs when alt: atanh(1/n) or atan(1/n), by at most k terms. -/
def atanhSeries (p n : Nat) (alt : Bool) : Nat → Nat → Ivl → Ivl → Ivl
  | 0, _, _, acc => ivlWiden acc
  | k + 1, i, pw, acc =>
    let t := ivlDivNat pw (2 * i + 1)
    let t' := if alt && i % 2 == 1 then ivlNeg t else t
    atanhSeries p n alt k (i + 1) (ivlDivNat pw (n * n)) (ivlAdd acc t')

/-- ln 2 = 2 atanh(1/3). -/
def ivlLn2 (p : Nat) : Ivl :=
  let t := atanhSeries p 3 false p 0 (ivlDivNat (ivlNat p 1) 3) ⟨0, 0⟩
  ⟨2 * t.lo, 2 * t.hi⟩

/-- pi = 16 atan(1/5) - 4 atan(1/239). -/
def ivlPi (p : Nat) : Ivl :=
  let a := atanhSeries p 5 true p 0 (ivlDivNat (ivlNat p 1) 5) ⟨0, 0⟩
  let b := atanhSeries p 239 true p 0 (ivlDivNat (ivlNat p 1) 239) ⟨0, 0⟩
  ⟨16 * a.lo - 4 * b.hi, 16 * a.hi - 4 * b.lo⟩

/-- The exponential series of r with |r| at most 1, by at most k terms. -/
def expSeries (p : Nat) (r : Ivl) : Nat → Nat → Ivl → Ivl → Ivl
  | 0, _, _, acc => ⟨acc.lo - 4, acc.hi + 4⟩
  | k + 1, i, t, acc => expSeries p r k (i + 1) (ivlDivNat (ivlMul p t r) (i + 1)) (ivlAdd acc t)

/-- e^x of an interval; x reduced by k ln 2. -/
def ivlExp (p : Nat) (x : Ivl) : Ivl :=
  let ln2 := ivlLn2 p
  let k := x.lo / ln2.lo
  let r := ivlAdd x (ivlMul p ⟨-(k * 2 ^ p), -(k * 2 ^ p)⟩ ln2)
  ivlScale (expSeries p r (p + 8) 0 (ivlNat p 1) ⟨0, 0⟩) k

/-- The series z + z^3/3 + z^5/5 + ..., |z| at most 1/3, by at most k terms. -/
def logSeries (p : Nat) (z2 : Ivl) : Nat → Nat → Ivl → Ivl → Ivl
  | 0, _, _, acc => ivlWiden (ivlWiden acc)
  | k + 1, i, pw, acc => logSeries p z2 k (i + 1) (ivlMul p pw z2) (ivlAdd acc (ivlDivNat pw (2 * i + 1)))

/-- ln y of an interval of numbers between 1/2 and 2. -/
def ivlLogNear (p : Nat) (y : Ivl) : Ivl :=
  let one := ivlNat p 1
  let z := ivlDiv p (ivlAdd y (ivlNeg one)) (ivlAdd y one)
  let t := logSeries p (ivlMul p z z) p 0 z ⟨0, 0⟩
  ⟨2 * t.lo, 2 * t.hi⟩

/-- ln(m x 2^e) for m > 0. -/
def ivlLog (p m : Nat) (e : Int) : Ivl :=
  let k := expOf m e
  let n := ivlLogNear p (ivlVal p false m (e - k))
  ivlAdd n (ivlMul p ⟨k * 2 ^ p, k * 2 ^ p⟩ (ivlLn2 p))

/-- The sine series (j = 1) or cosine series (j = 0) of r with |r| at most 4, by at most k terms. -/
def trigSeries (p : Nat) (r2 : Ivl) : Nat → Nat → Ivl → Ivl → Ivl
  | 0, _, _, acc => ⟨acc.lo - 4, acc.hi + 4⟩
  | k + 1, j, t, acc =>
    trigSeries p r2 k (j + 2) (ivlNeg (ivlDivNat (ivlDivNat (ivlMul p t r2) (j + 1)) (j + 2))) (ivlAdd acc t)

/-- sin x (co = false) or cos x (co = true) of a finite value. -/
def ivlTrig (p : Nat) (co : Bool) (s : Bool) (m : Nat) (e : Int) : Ivl :=
  let g := p + 160
  let x := ivlVal g s m e
  let pi2 := ivlPi g
  let tau : Ivl := ⟨2 * pi2.lo, 2 * pi2.hi⟩
  let k := (2 * x.lo + tau.lo) / (2 * tau.lo)
  let r := ivlAdd x (ivlMul g ⟨-(k * 2 ^ g), -(k * 2 ^ g)⟩ tau)
  let r2 := ivlMul g r r
  let v := if co then trigSeries g r2 (g + 16) 0 (ivlNat g 1) ⟨0, 0⟩ else trigSeries g r2 (g + 16) 1 r ⟨0, 0⟩
  ⟨floorShift v.lo 160, ceilShift v.hi 160⟩

/-- The sum of c^n x^(2n+1)/(2n+1)!!, x2 being c x^2, by at most k terms. -/
def erfSeries (p : Nat) (x2 : Ivl) : Nat → Nat → Ivl → Ivl → Ivl
  | 0, _, _, acc => acc
  | k + 1, n, t, acc =>
    if t.hi ≤ 1 then ⟨acc.lo, acc.hi + 16⟩
    else erfSeries p x2 k (n + 1) (ivlDivNat (ivlMul p t x2) (2 * n + 3)) (ivlAdd acc t)

/-- floor and ceiling of a square root of an interval of positive numbers. -/
def ivlSqrt (p : Nat) (x : Ivl) : Ivl :=
  ⟨isqrt (x.lo.toNat * 2 ^ p), (isqrt (x.hi.toNat * 2 ^ p) : Int) + 1⟩

/-- erf x for 0 <= x < 32: (2/sqrt pi) e^(-x^2) times the series. -/
def ivlErf (p m : Nat) (e : Int) : Ivl :=
  let g := p + 1600
  let x := ivlVal g false m e
  let x2 := ivlMul g x x
  let ser := erfSeries g ⟨2 * x2.lo, 2 * x2.hi⟩ (g + 4096) 0 x ⟨0, 0⟩
  let v := ivlDiv g (ivlMul g (ivlMul g ser (ivlExp g (ivlNeg x2))) (ivlNat g 2)) (ivlSqrt g (ivlPi g))
  ⟨floorShift v.lo 1600, ceilShift v.hi 1600⟩

/-- The standard normal distribution function of a finite value with |x| < 40 (R182, Table 7.4 GELU). -/
def ivlPhi (p : Nat) (s : Bool) (m : Nat) (e : Int) : Ivl :=
  let g := p + 1600
  let x := ivlVal g false m e
  let x2 := ivlMul g x x
  let ser := erfSeries g x2 (g + 4096) 0 x ⟨0, 0⟩
  let pdf := ivlDiv g (ivlExp g (ivlNeg (ivlDivNat x2 2))) (ivlSqrt g (ivlMul g (ivlNat g 2) (ivlPi g)))
  let h := ivlMul g ser pdf
  let half : Ivl := ivlDivNat (ivlNat g 1) 2
  let v := if s then ivlAdd half (ivlNeg h) else ivlAdd half h
  ⟨floorShift v.lo 1600, ceilShift v.hi 1600⟩

/-- Rounds one end of an open interval, inside it: a value just above lo, or just below hi (units of 2^-p). -/
def ivlEnd (f : FpFmt) (k : Int) (p : Nat) (n : Int) (up : Bool) : Nat :=
  f.enc (Val.ofInt (if up then 4 * n + 1 else 4 * n - 1) (-(p : Int) - 2 + k))

/-- The one code that every value strictly inside the interval, times 2^k, rounds to; none when they differ. -/
def ivlRound (f : FpFmt) (k : Int) (p : Nat) (x : Ivl) : Option Nat :=
  let a := ivlEnd f k p (x.lo - 1) true
  let b := ivlEnd f k p (x.hi + 1) false
  if a = b then some a else none

/-- Raises the precision until the value's rounding is decided: 128, 256, ... bits. -/
def refine (f : FpFmt) (k : Int) (g : Nat → Ivl) : Nat → Nat → Nat
  | 0, p => f.enc (Val.ofInt (g p).lo (-(p : Int) + k))
  | n + 1, p =>
    match ivlRound f k p (g p) with
    | some c => c
    | none => refine f k g n (2 * p)

/-- The rounded value of a function enclosed by g, divided by 2^ds (R183). -/
def refined (f : FpFmt) (ds : Int) (g : Nat → Ivl) : Nat := refine f (-ds) g 5 128

/-- A value that is not a power of two's exact image: just below or above v by less than any format can see. -/
def justBelow (f : FpFmt) (ds : Int) (v : Val) : Nat :=
  match v with
  | .fin s m e => f.enc (.fin s (m * 2 ^ 600 - 1) (e - 600 - ds))
  | w => f.enc w

/-- The magnitude just above v. -/
def justAbove (f : FpFmt) (ds : Int) (v : Val) : Nat :=
  match v with
  | .fin s m e => f.enc (.fin s (m * 2 ^ 600 + 1) (e - 600 - ds))
  | w => f.enc w

/-- The magnitude is at least 2^n. -/
def magAtLeast (m : Nat) (e n : Int) : Bool := m != 0 && decide (n ≤ expOf m e)

/-- The magnitude 2^-900, below half of every format's smallest subnormal at every scale. -/
def tiny (s : Bool) : Val := .fin s 1 (-900)

/-- The magnitude 2^900, beyond every format's range at every scale. -/
def huge (s : Bool) : Val := .fin s 1 900

/-- The integer value of a finite number, when it is one. -/
def intOf (s : Bool) (m : Nat) (e : Int) : Option Int :=
  if 0 ≤ e then some (sgn s (m * pow2 e)) else if m % pow2 (-e) = 0 then some (sgn s (m / pow2 (-e))) else none

/-- e^x for a finite nonzero x. -/
def encExp (f : FpFmt) (ds : Int) (s : Bool) (m : Nat) (e : Int) : Nat :=
  if magAtLeast m e 10 then f.enc ((if s then tiny false else huge false).scale (-ds))
  else refined f ds (fun p => ivlExp (p + 8) (ivlVal (p + 8) s m e) |> fun x => ⟨floorShift x.lo 8, ceilShift x.hi 8⟩)

/-- 2^x for a finite nonzero x. -/
def encExp2 (f : FpFmt) (ds : Int) (s : Bool) (m : Nat) (e : Int) : Nat :=
  if magAtLeast m e 10 then f.enc ((if s then tiny false else huge false).scale (-ds))
  else match intOf s m e with
    | some n => f.enc (.fin false 1 (n - ds))
    | none => refined f ds (fun p => ivlExp p (ivlMul p (ivlVal p s m e) (ivlLn2 p)))

/-- ln x for x > 0, x not 1. -/
def encLog (f : FpFmt) (ds : Int) (m : Nat) (e : Int) : Nat :=
  refined f ds (fun p => ivlLog (p + 16) m e |> fun x => ⟨floorShift x.lo 16, ceilShift x.hi 16⟩)

/-- log2 x for x > 0. -/
def encLog2 (f : FpFmt) (ds : Int) (m : Nat) (e : Int) : Nat :=
  if m = 2 ^ Nat.log2 m then f.enc (Val.ofInt (expOf m e) (-ds))
  else refined f ds (fun p => ivlDiv p (ivlLog p m e) (ivlLn2 p))

/-- The interval of e^-2|x| or e^-|x|. -/
def ivlExpNeg (p : Nat) (m : Nat) (e : Int) : Ivl := ivlExp p (ivlVal p true m e)

/-- tanh x for a finite nonzero x. -/
def encTanh (f : FpFmt) (ds : Int) (s : Bool) (m : Nat) (e : Int) : Nat :=
  if magAtLeast m e 10 then justBelow f ds (.fin s 1 0)
  else refined f ds (fun p =>
    let t := ivlExpNeg p m (e + 1)
    let v := ivlDiv p (ivlAdd (ivlNat p 1) (ivlNeg t)) (ivlAdd (ivlNat p 1) t)
    if s then ivlNeg v else v)

/-- The interval of 1/(1 + e^-x). -/
def ivlSigmoid (p : Nat) (s : Bool) (m : Nat) (e : Int) : Ivl :=
  ivlDiv p (ivlNat p 1) (ivlAdd (ivlNat p 1) (ivlExp p (ivlVal p (!s) m e)))

/-- 1/(1 + e^-x) for a finite nonzero x. -/
def encSigmoid (f : FpFmt) (ds : Int) (s : Bool) (m : Nat) (e : Int) : Nat :=
  if magAtLeast m e 10 then (if s then f.enc ((tiny false).scale (-ds)) else justBelow f ds Val.one)
  else refined f ds (fun p => ivlSigmoid p s m e)

/-- erf x for a finite nonzero x. -/
def encErf (f : FpFmt) (ds : Int) (s : Bool) (m : Nat) (e : Int) : Nat :=
  if magAtLeast m e 5 then justBelow f ds (.fin s 1 0)
  else refined f ds (fun p => let v := ivlErf p m e; if s then ivlNeg v else v)

/-- x Phi(x) for a finite nonzero x. -/
def encGelu (f : FpFmt) (ds : Int) (s : Bool) (m : Nat) (e : Int) : Nat :=
  if magAtLeast m e 5 then (if s then f.enc ((tiny true).scale (-ds)) else justBelow f ds (.fin false m e))
  else refined f ds (fun p => ivlMul p (ivlVal p s m e) (ivlPhi p s m e))

/-- x/(1 + e^-x) for a finite nonzero x. -/
def encSilu (f : FpFmt) (ds : Int) (s : Bool) (m : Nat) (e : Int) : Nat :=
  if magAtLeast m e 10 then (if s then f.enc ((tiny true).scale (-ds)) else justBelow f ds (.fin false m e))
  else refined f ds (fun p => ivlMul p (ivlVal p s m e) (ivlSigmoid p s m e))

/-- ln(1 + e^x) for a finite value. -/
def encSoftplus (f : FpFmt) (ds : Int) (s : Bool) (m : Nat) (e : Int) : Nat :=
  if magAtLeast m e 10 then (if s then f.enc ((tiny false).scale (-ds)) else justAbove f ds (.fin false m e))
  else refined f ds (fun p =>
    let t := ivlExpNeg p m e
    let l := ivlLogNear p (ivlAdd (ivlNat p 1) t)
    if s then l else ivlAdd (ivlVal p false m e) l)

/-- sin x or cos x for a finite nonzero x. -/
def encTrig (f : FpFmt) (ds : Int) (co s : Bool) (m : Nat) (e : Int) : Nat :=
  refined f ds (fun p => ivlTrig p co s m e)

/-- One element of VSEQ: the sequence's function at v, divided by 2^ds and rounded once into f (R183, Table 7.4). -/
def seqEval (n : Nat) (f : FpFmt) (ds : Int) (v : Val) : Nat :=
  let out (w : Val) : Nat := f.enc (w.scale (-ds))
  match v with
  | .nan => f.nan
  | .inf s =>
    match n with
    | 0x00 => if s then out .zero else out (.inf false)
    | 0x01 => if s then out .zero else out (.inf false)
    | 0x02 => if s then f.nan else out (.inf false)
    | 0x03 => if s then f.nan else out (.inf false)
    | 0x04 => out (.fin s 0 0)
    | 0x05 => if s then f.nan else out (.inf false)
    | 0x06 => if s then f.nan else out .zero
    | 0x07 => out (.fin s 1 0)
    | 0x08 => if s then out .zero else out .one
    | 0x09 => out (.fin s 1 0)
    | 0x0A => if s then out (.fin true 0 0) else out (.inf false)
    | 0x0B => if s then out (.fin true 0 0) else out (.inf false)
    | 0x0C => if s then out .zero else out (.inf false)
    | _ => f.nan
  | .fin s m e =>
    if m = 0 then
      match n with
      | 0x00 => out .one
      | 0x01 => out .one
      | 0x02 => out (.inf true)
      | 0x03 => out (.inf true)
      | 0x04 => out (.inf s)
      | 0x05 => out (.fin s 0 0)
      | 0x06 => out (.inf s)
      | 0x08 => out (.fin false 1 (-1))
      | 0x0C => encSoftplus f ds false 0 0
      | 0x0E => out .one
      | _ => out (.fin s 0 0)
    else
      match n with
      | 0x00 => encExp f ds s m e
      | 0x01 => encExp2 f ds s m e
      | 0x02 => if s then f.nan else if m = 2 ^ Nat.log2 m && expOf m e = 0 then out .zero else encLog f ds m e
      | 0x03 => if s then f.nan else encLog2 f ds m e
      | 0x04 => out (Val.one.div v)
      | 0x05 => out v.sqrt
      | 0x06 => if s then f.nan else
          let h : Int := if e % 2 = 0 then 0 else 1
          let g := 2 * Nat.log2 m + 800
          let q := 2 ^ (2 * g) / (m * pow2 h)
          let r := isqrt q
          out (.fin false (sticky r (r * r * (m * pow2 h) != 2 ^ (2 * g))) (-((e - h) / 2) - g - 1))
      | 0x07 => encTanh f ds s m e
      | 0x08 => encSigmoid f ds s m e
      | 0x09 => encErf f ds s m e
      | 0x0A => encGelu f ds s m e
      | 0x0B => encSilu f ds s m e
      | 0x0C => encSoftplus f ds s m e
      | 0x0D => encTrig f ds false s m e
      | _ => encTrig f ds true s m e

/-- Phi of a non-negative value is below u x 2^-25, decided by refining the enclosure. -/
def phiBelow (m : Nat) (e : Int) (u : Nat) : Nat → Nat → Bool
  | 0, p => decide ((ivlPhi p false m e).lo * 2 ^ 25 < (u : Int) * 2 ^ p)
  | n + 1, p =>
    let x := ivlPhi p false m e
    if x.hi * 2 ^ 25 < (u : Int) * 2 ^ p then true
    else if x.lo * 2 ^ 25 > (u : Int) * 2 ^ p then false
    else phiBelow m e u n (2 * p)

/-- The value halfway between two neighbouring magnitude codes of f. -/
def midpoint (f : FpFmt) (c : Nat) : Nat × Int :=
  match f.decode c, f.decode (c + 1) with
  | .fin _ a e, .fin _ b k => let q := min e k; (a * pow2 (e - q) + b * pow2 (k - q), q - 1)
  | _, _ => (1, 900)

/-- The largest code c below 2^k + base whose lower midpoint lies below the quantile u x 2^-25, u over one half. -/
def quantileCode (f : FpFmt) (u : Nat) : Nat → Nat → Nat
  | 0, c => c
  | k + 1, c =>
    let t := c + 2 ^ k
    let below := if t > f.maxFin then false
      else let (m, e) := midpoint f (t - 1); if magAtLeast m e 5 then false else phiBelow m e u 6 128
    quantileCode f u k (if below then t else c)

/-- The standard normal quantile of (n + 1/2) x 2^-24, correctly rounded into f (Table 7.2 NORMAL). -/
def normalCode (f : FpFmt) (n : Nat) : Nat :=
  let u := 2 * n + 1
  if u < 2 ^ 24 then f.signBit + quantileCode f (2 ^ 25 - u) (f.fb + f.eb) 0
  else quantileCode f u (f.fb + f.eb) 0

end Sys2Proof.Machine
end

