-- ==== Sys2Proof/Machine/Vector.lean ====
section
/-! DEFINITION. The vector engine (R169 to R188): shapes, masks, element functions, the generator, function sequences,
reductions, and the completion of a VOP. -/

namespace Sys2Proof.Machine

/-- The fields of a VOP and the state it reads: partition, cluster, word. -/
structure Vop where
  p : Nat
  c : Nat
  w : Nat
  deriving DecidableEq, Repr

/-- va's descriptor. -/
def Vop.va (o : Vop) (d : Dev) : Desc := resolveScale d o.c (descOf d o.c (wVa o.w))
/-- vb's descriptor. -/
def Vop.vb (o : Vop) (d : Dev) : Desc := resolveScale d o.c (descOf d o.c (wVb o.w))
/-- vc's descriptor. -/
def Vop.vc (o : Vop) (d : Dev) : Desc := resolveScale d o.c (descOf d o.c (wVc o.w))
/-- vd's descriptor. -/
def Vop.vd (o : Vop) (d : Dev) : Desc := resolveScale d o.c (descOf d o.c (wVd o.w))
/-- vm's descriptor. -/
def Vop.vm (o : Vop) (d : Dev) : Desc := descOf d o.c (wVm o.w)

/-- Row and column of a source for element (r, c), broadcast (R170). -/
def bcast (t : Desc) (r c : Nat) : Nat × Nat := (if t.rows = 1 then 0 else r, if t.rows = 1 ∧ t.cols = 1 then 0 else c)

/-- The value of a source at element (r, c). -/
def srcVal (d : Dev) (p : Nat) (t : Desc) (r c : Nat) : Val := let b := bcast t r c; tileVal d p t b.1 b.2

/-- The code of a source at element (r, c). -/
def srcCode (d : Dev) (p : Nat) (t : Desc) (r c : Nat) : Nat := let b := bcast t r c; tileCode d p t b.1 b.2

/-- The bit of a mask for element (r, c) (R171). -/
def maskBit (d : Dev) (p : Nat) (t : Desc) (r c : Nat) : Bool := bitOf (tileCode d p t r (c / 32)) (c % 32)

/-- Element (r, c) is selected: men = 0, or its mask bit is 1 (R172). -/
def Vop.sel (o : Vop) (d : Dev) (r c : Nat) : Bool := !wMen o.w || maskBit d o.p (o.vm d) r c

/-- SHAPE of a source (R170): the element shape, or where broadcast is allowed one row of it or a scalar. -/
def srcShapeBad (t : Desc) (rows cols : Nat) (bc : Bool) : Bool :=
  !((t.rows == rows && t.cols == cols) || (bc && t.rows == 1 && (t.cols == cols || t.cols == 1)))

/-- SHAPE of a mask (R171). -/
def maskShapeBad (t : Desc) (rows cols : Nat) : Bool := t.rows != rows || t.cols != cdiv cols 32

/-- Two scratchpad tiles share bytes. -/
def tilesMeet (a b : Desc) : Bool :=
  spadOf a.base == spadOf b.base &&
  a.shares.any (fun x => b.shares.any (fun y =>
    x.1 == y.1 && decide (x.2.1 < y.2.1 + y.2.2) && decide (y.2.1 < x.2.1 + x.2.2)))

/-- vd overlaps a source, and not exactly (R179). -/
def badOverlap (vd s : Desc) : Bool :=
  tilesMeet vd s &&
    !(s.base == vd.base && s.stride == vd.stride && s.fmt == vd.fmt && s.rows == vd.rows && s.cols == vd.cols &&
      s.trans == vd.trans && s.interleave == vd.interleave)

/-- Which sources of a VOP vd overlaps inexactly (R179): va, vb and vc have the numbers 0, 1 and 2, the mask 3. -/
def clash (vd : Desc) (srcs ms : List Desc) (i : Nat) : Bool :=
  if i = 3 then ms.any (badOverlap vd) else (srcs[i]?).any (badOverlap vd)

/-- vd overlaps some source inexactly. -/
def clashes (bad : Nat → Bool) : Bool := (List.range 4).any bad

/-- What a VOP's read number n sees of source i (R179): of one that vd overlaps inexactly, by free choice, the state d before the
instruction or the state e with the results written so far (log entry 1); of any other the state before. -/
def look (d e : Dev) (bad : Nat → Bool) (n i : Nat) : Dev :=
  if bad i && (Config.freeWord (d.free + n)).getLsbD i then e else d

/-- The results of a VOP with their numbers, in the order in which they reach vd: a free one where vd overlaps a source inexactly, so
that a read may meet any other result (R179; log entry 1). -/
def arrivals {α : Type} (free m : Nat) (bad : Nat → Bool) (xs : List α) : List (α × Nat) :=
  if clashes bad then
    xs.zipIdx.insertionSort (fun x y => (Config.freeWord (free + x.2 * m)).toNat / 16 ≤ (Config.freeWord (free + y.2 * m)).toNat / 16)
  else xs.zipIdx

/-- Writes the results of a VOP, each with m reads (R179): put gives the state with one result written, from the views that its reads
take of the sources, and whether it sets the local flag. -/
def writeResults {α : Type} (d : Dev) (bad : Nat → Bool) (m : Nat) (xs : List α)
    (put : Dev → (Nat → Nat → Dev) → α → Dev × Bool) : Dev × Bool :=
  (arrivals d.free m bad xs).foldl (fun (x : Dev × Bool) y =>
    let r := put x.1 (fun k => look d x.1 bad (y.2 * m + k)) y.1
    (r.1, x.2 || r.2)) (if clashes bad then { d with free := d.free + xs.length * m } else d, false)

/-- Writes a code to each selected element: the code from the views of its sources, and whether it sets the local flag. -/
def writeCodes (d : Dev) (p : Nat) (t : Desc) (rows cols : Nat) (bad : Nat → Bool) (sel : Dev → Nat → Nat → Bool)
    (code : (Nat → Dev) → Nat → Nat → Nat × Bool) : Dev × Bool :=
  writeResults d bad 1 (places rows cols) (fun e v x =>
    if sel (v 0 3) x.1 x.2 then
      let k := code (v 0) x.1 x.2
      (tilePut e p t x.1 x.2 k.1, k.2)
    else (e, false))

/-- Every element is written. -/
def everySel (_ : Dev) (_ _ : Nat) : Bool := true

/-- Word j of row r of a mask result: the new bit of each selected element, the old bit of the others, 0 beyond cols
(R171, R172). -/
def maskWord (cols j : Nat) (sel new old : Nat → Bool) : Nat :=
  (List.range 32).foldl (fun a b =>
    let c := 32 * j + b
    a + b2n (decide (c < cols) && (if sel c then new c else old c)) * 2 ^ b) 0

/-- Writes a mask of an element shape, each word with the reads of its 32 elements (R171, R172). -/
def writeMask (d : Dev) (o : Vop) (t : Desc) (rows cols : Nat) (bad : Nat → Bool) (bit : (Nat → Dev) → Nat → Nat → Bool) : Dev :=
  (writeResults d bad 32 (places rows (cdiv cols 32)) (fun e v x =>
    (tilePut e o.p t x.1 x.2 (maskWord cols x.2 (fun k => o.sel (v (k % 32) 3) x.1 k) (fun k => bit (v (k % 32)) x.1 k)
      (maskBit d o.p t x.1)), false))).1

/-- Writes the blocks of a Q8L tile that hold a selected element from the value of each of their elements (R116, R117, R174): an
element that is not selected keeps its decoded old value. -/
def writeBlocks (d : Dev) (p : Nat) (t : Desc) (bad : Nat → Bool) (sel : Dev → Nat → Nat → Bool) (val : (Nat → Dev) → Nat → Nat → Val) :
    Dev × Bool :=
  writeResults d bad 256 (places t.lines (cdiv t.lineLen 256)) (fun e v nk =>
    let pos (i : Nat) : Nat × Nat := if t.trans then (256 * nk.2 + i, nk.1) else (nk.1, 256 * nk.2 + i)
    let chosen (i : Nat) : Bool := sel (v i 3) (pos i).1 (pos i).2
    if (List.range 256).any chosen then
      let b := q8lEncode ((List.range 256).map (fun i =>
        (if chosen i then val (v i) (pos i).1 (pos i).2 else tileVal d p t (pos i).1 (pos i).2).scale (-t.exp)))
      (putLine e p t nk.1 (258 * nk.2) (b.2.1.map (BitVec.ofNat 8) ++ leBytes 2 b.1), b.2.2)
    else (e, false))

/-- The faults every VOP shares, in the order of Table 2.23: the operands named, whether formats and shapes are wrong, the
sources whose extents are read, the destination whose extent is written. A Q8L operand whose stored line is no multiple of 256 elements
faults with SHAPE here as it does in MOV: DESIGN CHOICE, since R116 gives that fault to MOV alone (log entry 32). -/
def vopFaults (d : Dev) (o : Vop) (encBad : Bool) (ops : List Desc) (fmtBad shapeBad : Bool) (wr : List Desc) :
    List (Bool × Nat) :=
  let raw := ops
  [ (wVus o.w == 0 || encBad, cEncoding), (raw.any (fun t => !t.valid), cDescInvalid),
    (fmtBad, cDescFormat), (shapeBad || raw.any q8lShapeBad, cShape),
    (raw.any (scaleUnset d o.c), cAnchorUnset), (raw.any (scaleUnreduced d o.p o.c), cUnreduced),
    (raw.any (fun t => extentOutside d o.p t false), cAddress), (raw.any (extentForeign d), cBankOwner),
    (wr.any (extentProgram d o.c), cProgramWrite) ]

/-- The rows the unit of rank i of k processes (R169). -/
def rankRows (rows k i : Nat) : Nat := (rows + k - 1 - i) / k

/-- The named units in ascending number. -/
def namedUnits (m : Nat) : List Nat := (List.range 4).filter (fun u => bitOf m u)

/-- Counts the processing cycles of each named unit (R188): c for each group of 64 elements of its rows. -/
def countVop (d : Dev) (c m rows cols cost : Nat) : Dev :=
  let us := namedUnits m
  forEach us.zipIdx d (fun d x => countUnit d c x.1 (cost * (rankRows rows us.length x.2 * cdiv cols 64)))

/-- A VOP enters its units' queues with its effect done in program order (R169; log entry 10). -/
def intoUnits (d : Dev) (o : Vop) (rows cols cost : Nat) (ops : List Desc) (nonfin : Bool) : Dev :=
  addJob (countVop (unitsBusy d o.c (wVus o.w)) o.c (wVus o.w) rows cols cost) o.c
    { plainJob (.vec (wVus o.w)) o.w with slots := scaleSlots ops, banks := ops.flatMap operandBanks, nonfin := nonfin }

/-- Issues a VOP: the checks, then interlocks and queue room, then the effect and the queue entry. eff gives the new state
and whether the local flag is set at completion. -/
def issueVop (d : Dev) (o : Vop) (faults : List (Bool × Nat)) (ops : List Desc) (rows cols cost : Nat) (eff : Unit → Dev × Bool) :
    Plan :=
  ⟨faults,
    ops.flatMap operandBanks,
    if interlocked d o.c [] false (scaleSlots ops) then some 6 else if vecFull d o.c (wVus o.w) then some 0 else none,
    fun _ => let r := eff (); .queued (intoUnits r.1 o rows cols cost ops r.2)⟩

/-- The mask operand, when men = 1. -/
def Vop.maskOps (o : Vop) (d : Dev) : List Desc := if wMen o.w then [o.vm d] else []

/-- A mask operand of the wrong format. -/
def maskFmtBad (c : Nat) (ms : List Desc) : Bool := ms.any (fun t => descBad t (some c) [0x10])

/-- Element-wise arithmetic with float sources and destination (R173): op on the exact values, one rounding. -/
def goArith (nsrc : Nat) (op : List Val → Val) (p c w : Nat) (d : Dev) : Plan :=
  let o : Vop := ⟨p, c, w⟩
  let raw (s : Nat) : Desc := descOf d c s
  let rs := ([wVa w, wVb w, wVc w].take nsrc).map raw
  let rd := raw (wVd w)
  let ms := o.maskOps d
  let ss := rs.map (resolveScale d c)
  let t := resolveScale d c rd
  let ops := rs ++ [rd] ++ ms
  let rows := rd.rows
  let cols := rd.cols
  let code (v : Nat → Dev) (r k : Nat) : Nat × Bool :=
    match fpOf t.fmt with
    | some f => (f.enc ((op (ss.zipIdx.map (fun s => srcVal (v s.2) p s.1 r k))).scale (-t.exp)), false)
    | none => (0, false)
  issueVop d o
    (vopFaults d o false ops ((rs ++ [rd]).any (fun x => descBad x (some c) fmtFloat) || maskFmtBad c ms)
      (rs.any (fun s => srcShapeBad s rows cols true) || ms.any (fun m => maskShapeBad m rows cols)) [rd])
    ops rows cols 1 (fun _ => writeCodes d p t rows cols (clash rd rs ms) o.sel code)

/-- The first two values of a list combined. -/
def on2 (g : Val → Val → Val) : List Val → Val
  | x :: y :: _ => g x y
  | _ => .nan

/-- VADD (R173). -/
def goVadd (p c w : Nat) (d : Dev) : Plan := goArith 2 (on2 Val.add) p c w d
/-- VMUL (R173). -/
def goVmul (p c w : Nat) (d : Dev) : Plan := goArith 2 (on2 Val.mul) p c w d
/-- VMIN (R173). -/
def goVmin (p c w : Nat) (d : Dev) : Plan := goArith 2 (on2 Val.min) p c w d
/-- VMAX (R173). -/
def goVmax (p c w : Nat) (d : Dev) : Plan := goArith 2 (on2 Val.max) p c w d

/-- The fused multiply-add of three values (R173). -/
def fma3 : List Val → Val
  | x :: y :: z :: _ => (x.mul y).add z
  | _ => .nan

/-- VFMA: va x vb + vc (R173). -/
def goVfma (p c w : Nat) (d : Dev) : Plan := goArith 3 fma3 p c w d
/-- VFMAS: va x imm32 + vb (R173). -/
def goVfmas (p c w : Nat) (d : Dev) : Plan := goArith 2 (on2 (fun x y => (x.mul (f32 (wImm32 w))).add y)) p c w d

/-- The relations of Table 7.3 (R175). -/
def relation (k : Nat) (x y : Val) : Bool :=
  let un := x.isNan || y.isNan
  match k with
  | 0 => !un && x.cmp y == 0
  | 1 => un || x.cmp y != 0
  | 2 => !un && decide (x.cmp y < 0)
  | 3 => !un && decide (x.cmp y ≤ 0)
  | 4 => !un && decide (x.cmp y > 0)
  | 5 => !un && decide (x.cmp y ≥ 0)
  | _ => un

/-- VCMP (R170, R175). -/
def goVcmp (p c w : Nat) (d : Dev) : Plan :=
  let o : Vop := ⟨p, c, w⟩
  let ra := descOf d c (wVa w)
  let rb := descOf d c (wVb w)
  let rd := descOf d c (wVd w)
  let ms := o.maskOps d
  let ops := [ra, rb, rd] ++ ms
  let k := wImm32 w % 8
  let a := resolveScale d c ra
  let b := resolveScale d c rb
  issueVop d o
    (vopFaults d o (k == 7) ops
      (descBad ra (some c) fmtFloat || descBad rb (some c) fmtFloat || maskFmtBad c (rd :: ms))
      (srcShapeBad rb ra.rows ra.cols true || (rd :: ms).any (fun m => maskShapeBad m ra.rows ra.cols)) [rd])
    ops ra.rows ra.cols 1
    (fun _ => (writeMask d o rd ra.rows ra.cols (clash rd [ra, rb] ms)
      (fun v r j => relation k (srcVal (v 0) p a r j) (srcVal (v 1) p b r j)), false))

/-- VSEL (R170, R176): bit patterns, or for Q8L values encoded again. -/
def goVsel (p c w : Nat) (d : Dev) : Plan :=
  let o : Vop := ⟨p, c, w⟩
  let ra := descOf d c (wVa w)
  let rb := descOf d c (wVb w)
  let rd := descOf d c (wVd w)
  let vm := o.vm d
  let ops := [ra, rb, rd, vm]
  let a := resolveScale d c ra
  let b := resolveScale d c rb
  let t := resolveScale d c rd
  let bad := clash rd [ra, rb] [vm]
  let pick {α : Type} (g : Dev → Nat → Desc → Nat → Nat → α) (v : Nat → Dev) (r k : Nat) : α :=
    if maskBit (v 3) p vm r k then g (v 0) p a r k else g (v 1) p b r k
  issueVop d o
    (vopFaults d o false ops
      ([ra, rb, rd].any (fun x => descBad x (some c) fmtAny) || rb.fmt != ra.fmt || rd.fmt != ra.fmt || maskFmtBad c [vm])
      (srcShapeBad ra rd.rows rd.cols true || srcShapeBad rb rd.rows rd.cols true || maskShapeBad vm rd.rows rd.cols) [rd])
    ops rd.rows rd.cols 1
    (fun _ => if rd.fmt = 0x0A then writeBlocks d p t bad everySel (pick srcVal)
     else writeCodes d p t rd.rows rd.cols bad everySel (fun v r k => (pick srcCode v r k, false)))

/-- VCVT (R174, R110, R111). -/
def goVcvt (p c w : Nat) (d : Dev) : Plan :=
  let o : Vop := ⟨p, c, w⟩
  let ra := descOf d c (wVa w)
  let rd := descOf d c (wVd w)
  let ms := o.maskOps d
  let ops := [ra, rd] ++ ms
  let a := resolveScale d c ra
  let t := resolveScale d c rd
  let e := keepScale d c (wVd w) rd t
  let seed := getF d (F.mcRngSeed_seed c)
  let gyle := getF d (F.mcGyle_gyle c)
  let stoch := wRnd w == 1
  let bad := clash rd [ra] ms
  let eff : Dev × Bool :=
    match fpOf t.fmt with
    | some f =>
      writeCodes e p t rd.rows rd.cols bad o.sel (fun v i k => convTile (v 0) p a t f stoch seed gyle i k)
    | none => writeBlocks e p t bad o.sel (fun v i k => tileVal (v 0) p a i k)
  issueVop d o
    (vopFaults d o (decide (wRnd w > 1)) ops
      (descBad ra (some c) movSources || descBad rd (some c) movSources || (stoch && rd.fmt == 0x0A) || maskFmtBad c ms)
      (srcShapeBad ra rd.rows rd.cols false || ms.any (fun m => maskShapeBad m rd.rows rd.cols)) [rd])
    ops rd.rows rd.cols 1 (fun _ => eff)

/-- The logic of VMASK (R176). -/
def maskLogic (k x y : Nat) : Nat :=
  match k with
  | 0 => x &&& y
  | 1 => x ||| y
  | 2 => x ^^^ y
  | _ => x &&& (y ^^^ 0xFFFFFFFF)

/-- VMASK (R176). -/
def goVmask (p c w : Nat) (d : Dev) : Plan :=
  let o : Vop := ⟨p, c, w⟩
  let ra := descOf d c (wVa w)
  let rb := descOf d c (wVb w)
  let rd := descOf d c (wVd w)
  let ops := [ra, rb, rd]
  issueVop d o
    (vopFaults d o false ops (maskFmtBad c ops)
      (srcShapeBad ra rd.rows rd.cols false || srcShapeBad rb rd.rows rd.cols false) [rd])
    ops rd.rows rd.cols 1
    (fun _ => writeCodes d p rd rd.rows rd.cols (clash rd [ra, rb] []) everySel
      (fun v r k => (maskLogic (wImm32 w % 4) (tileCode (v 0) p ra r k) (tileCode (v 1) p rb r k), false)))

/-- The bytes of element (r, c) of a tile. -/
def elemPlaces (t : Desc) (r c : Nat) : List Nat :=
  let (n, i) := t.at r c
  (List.range t.size).map (fun b => t.addr n (t.offset i + b))

/-- The elements that the selector vm of VCOMPRESS or VEXPAND chooses, row by row (R177, R178), and the state past the free values
taken. A bit of a mask word that vd overlaps, not exactly, is free: the device reads it before or after any of its writes (R179; log
entry 1). -/
def chosenBy (d : Dev) (p : Nat) (vd vm : Desc) (rows cols : Nat) : List (Nat × Nat) × Dev :=
  let out := (places vd.rows vd.cols).flatMap (fun x => elemPlaces vd x.1 x.2)
  let bit (x : Nat × Nat) : Bool :=
    if badOverlap vd vm && (elemPlaces vm x.1 (x.2 / 32)).any out.contains then Config.freeBit (d.free + x.1 * cols + x.2)
    else maskBit d p vm x.1 x.2
  ((places rows cols).filter bit, if badOverlap vd vm then { d with free := d.free + rows * cols } else d)

/-- VCOMPRESS (R177). -/
def goVcompress (p c w : Nat) (d : Dev) : Plan :=
  let o : Vop := ⟨p, c, w⟩
  let ra := descOf d c (wVa w)
  let rd := descOf d c (wVd w)
  let vm := o.vm d
  let ops := [ra, rd, vm]
  let r := chosenBy d p rd vm ra.rows ra.cols
  let chosen := r.1
  let e := (writeResults r.2 (clash rd [ra] []) 1 ((places rd.rows rd.cols).zip chosen) (fun e v x =>
    (tilePut e p rd x.1.1 x.1.2 (tileCode (v 0 0) p ra x.2.1 x.2.2), false))).1
  let e := setF e (F.mcG_value c (wImm32 w % 16)) chosen.length
  let e := if chosen.length > rd.rows * rd.cols then setF e (F.vecStatus_compress_trunc c) 1 else e
  issueVop d o
    (vopFaults d o false ops
      (descBad ra (some c) (fmtAny.filter (fun f => f != 0x0A)) || descBad rd (some c) [ra.fmt] || maskFmtBad c [vm])
      (maskShapeBad vm ra.rows ra.cols) [rd])
    ops ra.rows ra.cols 2 (fun _ => (e, false))

/-- VEXPAND (R178). -/
def goVexpand (p c w : Nat) (d : Dev) : Plan :=
  let o : Vop := ⟨p, c, w⟩
  let ra := descOf d c (wVa w)
  let rd := descOf d c (wVd w)
  let vm := o.vm d
  let ops := [ra, rd, vm]
  let r := chosenBy d p rd vm rd.rows rd.cols
  let chosen := r.1
  let code (e : Dev) (i : Nat) : Nat := if i < ra.rows * ra.cols then tileCode e p ra (i / ra.cols) (i % ra.cols) else 0
  let e := (writeResults r.2 (clash rd [ra] []) 1 chosen.zipIdx (fun e v x =>
    (tilePut e p rd x.1.1 x.1.2 (code (v 0 0) x.2), false))).1
  let e := setF e (F.mcG_value c (wImm32 w % 16)) chosen.length
  let e := if chosen.length > ra.rows * ra.cols then setF e (F.vecStatus_expand_short c) 1 else e
  issueVop d o
    (vopFaults d o false ops
      (descBad ra (some c) (fmtAny.filter (fun f => f != 0x0A)) || descBad rd (some c) [ra.fmt] || maskFmtBad c [vm])
      (maskShapeBad vm rd.rows rd.cols) [rd])
    ops rd.rows rd.cols 2 (fun _ => (e, false))

/-- VRNG with RAW, UNIFORM or NORMAL (R182): keyed by vd. -/
def rngCode (t : Desc) (dist : Nat) (u : BitVec 64) : Nat :=
  match dist with
  | 0 => u.toNat / 2 ^ 32
  | 1 => match fpOf t.fmt with | some f => f.truncFin (u.toNat / 2 ^ 40) (-24) | none => 0
  | _ => match fpOf t.fmt with | some f => normalCode f (u.toNat / 2 ^ 40) | none => 0

/-- VRNG (R182, Table 7.2). -/
def goVrng (p c w : Nat) (d : Dev) : Plan :=
  let o : Vop := ⟨p, c, w⟩
  let dist := wImm32 w % 4
  let rd := descOf d c (wVd w)
  let ms := o.maskOps d
  let seed := getF d (F.mcRngSeed_seed c)
  let gyle := getF d (F.mcGyle_gyle c)
  if dist = 2 then
    let ra := descOf d c (wVa w)
    let ops := [ra, rd] ++ ms
    issueVop d o
      (vopFaults d o false ops (descBad ra (some c) fmtAny || maskFmtBad c (rd :: ms))
        ((rd :: ms).any (fun m => maskShapeBad m ra.rows ra.cols)) [rd])
      ops ra.rows ra.cols 1
      (fun _ => (writeMask d o rd ra.rows ra.cols (clash rd [] ms)
        (fun _ r k => decide ((laneDraw seed gyle ra.tensor (ra.index r k) 1).toNat / 2 ^ 34 < wImm32 w / 4)), false))
  else
    let ops := rd :: ms
    issueVop d o
      (vopFaults d o false ops (descBad rd (some c) (if dist = 0 then [0x10] else fmtWide) || maskFmtBad c ms)
        (ms.any (fun m => maskShapeBad m rd.rows rd.cols)) [rd])
      ops rd.rows rd.cols (if dist = 3 then 6 else 1)
      (fun _ => writeCodes d p rd rd.rows rd.cols (clash rd [] ms) o.sel
        (fun _ r k => (rngCode rd dist (laneDraw seed gyle rd.tensor (rd.index r k) 1), false)))

/-- The cost of a sequence in cycles per group (Table 7.4). -/
def seqCost (n : Nat) : Nat := nth [4, 3, 5, 4, 2, 2, 3, 6, 6, 6, 8, 7, 7, 9, 9] n

/-- VSEQ (R183, R184). -/
def goVseq (p c w : Nat) (d : Dev) : Plan :=
  let o : Vop := ⟨p, c, w⟩
  let n := wImm32 w % 256
  let ra := descOf d c (wVa w)
  let rd := descOf d c (wVd w)
  let ms := o.maskOps d
  let ops := [ra, rd] ++ ms
  let a := resolveScale d c ra
  let t := resolveScale d c rd
  let code (e : Dev) (r k : Nat) : Nat := match fpOf t.fmt with | some f => seqEval n f t.exp (tileVal e p a r k) | none => 0
  issueVop d o
    (vopFaults d o (decide (n > 0x3F) || !bitOf (getF d (F.vecSeqMap_loaded c)) n) ops
      (descBad ra (some c) fmtFloat || descBad rd (some c) fmtFloat || maskFmtBad c ms)
      (srcShapeBad ra rd.rows rd.cols false || ms.any (fun m => maskShapeBad m rd.rows rd.cols)) [rd])
    ops rd.rows rd.cols (seqCost n)
    (fun _ => writeCodes d p t rd.rows rd.cols (clash rd [ra] ms) o.sel (fun v r k => (code (v 0) r k, false)))

/-! Reductions (R104, R185) -/

/-- A value's code is a NaN or a marker (R104). -/
def isSpecial (fmt code : Nat) : Bool :=
  match fpOf fmt with
  | some f => (f.decode code).isNan
  | none => code == winMarker (if fmt = 0x08 then 0 else 1)

/-- The canonical NaN, or the marker (R104). -/
def specialCode (fmt : Nat) : Nat :=
  match fpOf fmt with
  | some f => f.nan
  | none => winMarker (if fmt = 0x08 then 0 else 1)

/-- Compares two codes that are not special: -1, 0, 1. -/
def codeCmp (fmt x y : Nat) : Int :=
  match fpOf fmt with
  | some f => (f.decode x).cmp (f.decode y)
  | none =>
    let n := if fmt = 0x08 then 64 else 32
    if signed n x < signed n y then -1 else if signed n x = signed n y then 0 else 1

/-- The combine of R104 on (code, index) pairs. -/
def maxPair (isMax : Bool) (fmt : Nat) (a b : Nat × Nat) : Nat × Nat :=
  let sa := isSpecial fmt a.1
  let sb := isSpecial fmt b.1
  if sa && sb then (specialCode fmt, min a.2 b.2)
  else if sa then (specialCode fmt, a.2)
  else if sb then (specialCode fmt, b.2)
  else
    let k := if isMax then codeCmp fmt a.1 b.1 else codeCmp fmt b.1 a.1
    if k > 0 then a else if k < 0 then b else if a.2 ≤ b.2 then a else b

/-- The identity pair (R104, R185). -/
def identPair (isMax : Bool) (fmt : Nat) : Nat × Nat :=
  (match fpOf fmt with
   | some f => if f.fb = 3 then (if isMax then 0xFE else 0x7E) else f.infCode isMax
   | none =>
     let n := if fmt = 0x08 then 64 else 32
     if isMax then 2 ^ (n - 1) + 1 else 2 ^ (n - 1) - 1, 2 ^ 64 - 1)

/-- The pairs of a row that a reduction takes: selected elements with their indices, or pair input (R185). v gives the view that the
read of each element takes of va (source 0) and of the mask (source 3). -/
def rowPairs (v : Nat → Nat → Dev) (o : Vop) (t : Desc) (pairs : Bool) (r : Nat) : List (Nat × Nat) :=
  let n (k : Nat) : Nat := r * t.cols + k
  if pairs then
    (List.range (t.cols / 2)).map (fun k => (tileCode (v (n (2 * k)) 0) o.p t r (2 * k), tileCode (v (n (2 * k + 1)) 0) o.p t r (2 * k + 1)))
  else ((List.range t.cols).filter (fun k => o.sel (v (n k) 3) r k)).map (fun k => (tileCode (v (n k) 0) o.p t r k, t.index r k))

/-- VREDMAX and VREDMIN (R104, R185). -/
def goVred (isMax : Bool) (p c w : Nat) (d : Dev) : Plan :=
  let o : Vop := ⟨p, c, w⟩
  let byRow := bitOf (wImm32 w) 0
  let pairs := bitOf (wImm32 w) 1
  let ra := descOf d c (wVa w)
  let rd := descOf d c (wVd w)
  let ms := o.maskOps d
  let ops := [ra, rd] ++ ms
  let numFmts := fmtFloat ++ [0x08, 0x09]
  let fmt := if pairs then bits w 79 72 else ra.fmt
  let fold (l : List (Nat × Nat)) : Nat × Nat := l.foldl (maxPair isMax fmt) (identPair isMax fmt)
  let rowsOf (i : Nat) : List Nat := if byRow then [i] else List.range ra.rows
  let e := (writeResults d (clash rd [ra] ms) (ra.rows * ra.cols) (List.range (if byRow then ra.rows else 1)) (fun e v i =>
    let x := fold ((rowsOf i).flatMap (rowPairs v o ra pairs))
    (tilePut (tilePut e p rd i 0 x.1) p rd i 1 x.2, false))).1
  issueVop d o
    (vopFaults d o (pairs && (wMen w || !numFmts.contains fmt)) ops
      (descBad ra (some c) (if pairs then [0x11] else numFmts) || descBad rd (some c) [0x11] || maskFmtBad c ms)
      (rd.cols != 2 || rd.rows != (if byRow then ra.rows else 1) || (pairs && ra.cols % 2 != 0) ||
       ms.any (fun m => maskShapeBad m ra.rows ra.cols)) [rd])
    ops ra.rows ra.cols 1 (fun _ => (e, false))

/-- VREDMAX (R185). -/
def goVredmax (p c w : Nat) (d : Dev) : Plan := goVred true p c w d
/-- VREDMIN (R185). -/
def goVredmin (p c w : Nat) (d : Dev) : Plan := goVred false p c w d

/-- The element is NaN, infinite or a marker (R186). -/
def nonFinite (d : Dev) (p : Nat) (t : Desc) (r c : Nat) : Bool :=
  match fpOf t.fmt with
  | some _ => !(tileVal d p t r c).isFin
  | none => isSpecial t.fmt (tileCode d p t r c)

/-- VNONFIN (R186). -/
def goVnonfin (p c w : Nat) (d : Dev) : Plan :=
  let o : Vop := ⟨p, c, w⟩
  let ra := descOf d c (wVa w)
  let ms := o.maskOps d
  let ops := ra :: ms
  issueVop d o
    (vopFaults d o false ops (descBad ra (some c) (fmtFloat ++ [0x08, 0x09]) || maskFmtBad c ms)
      (ms.any (fun m => maskShapeBad m ra.rows ra.cols)) [])
    ops ra.rows ra.cols 1
    (fun _ => (d, (places ra.rows ra.cols).any (fun x => o.sel d x.1 x.2 && nonFinite d p ra x.1 x.2)))

/-- Every named unit finishes the i-th vector instruction (R169): their counts rise, an empty unit is gated, and it signals. -/
def completeVop (d : Dev) (c i : Nat) : Dev :=
  match nthJob d c Job.onVec i with
  | some (n, j) =>
    match j.unit with
    | .vec m =>
      -- a unit runs its queue in issue order: no earlier instruction may hold one of the named units
      if ((clusterOf d c).jobs.take n).any (fun k => (namedUnits m).any (fun u => k.onUnit u)) then d
      else
        let d := finishJob d c n j
        forEach (namedUnits m) d (fun d u =>
          let d := addF d (F.vecUnit_done c u) 1
          setF d (F.vecUnit_state c u) (if unitCount d c u = 0 then 0 else 2))
    | _ => d
  | none => d

end Sys2Proof.Machine
end

