-- ==== Sys2Proof/Machine/Collective.lean ====
section
/-! DEFINITION. Collectives (R279 to R284, Tables 11.10 to 11.12, R103, R104, R130) and FPOST. A collective goes axis by axis: on each, two
rings, one in each direction, carry the members' halves to all of the axis, where they are combined; the sums of REFERENCE mode go along a
chain in ascending group rank (R267, R281; log entry 15). -/

namespace Sys2Proof.Machine

/-! Groups (R266, R279) -/

/-- The axes of a group's mask. -/
def groupAxes (m : Nat) : List Nat := axes.filter (fun x => bitOf m x)

/-- Size of a group. -/
def groupSize (d : Dev) (p m : Nat) : Nat := (groupAxes m).foldl (fun a x => a * sliceSize d p x) 1

/-- Group rank of coordinates. -/
def groupRank (d : Dev) (p m coord : Nat) : Nat :=
  ((groupAxes m).foldl (fun (a : Nat × Nat) x => (a.1 + a.2 * offsetAt d p coord x, a.2 * sliceSize d p x)) (0, 1)).1

/-- Coordinates of the member of a group rank: this module's but on the group's axes. -/
def rankCoord (d : Dev) (p m r : Nat) : Nat :=
  ((groupAxes m).foldl (fun (a : Nat × Nat) x =>
    let n := sliceSize d p x
    (setAxis a.1 x ((axis (getF d (F.fabSlice_origin p)) x + a.2 % n) % torusSize d x), a.2 / n)) (ownCoord d, r)).1

/-- This module's group rank. -/
def ownRank (d : Dev) (k : Coll) : Nat := groupRank d k.p k.axes (ownCoord d)

/-- Size of a collective's group. -/
def Coll.size (d : Dev) (k : Coll) : Nat := groupSize d k.p k.axes

/-! Descriptors (Table 11.10) -/

/-- Bytes of an element (Table 11.10). -/
def elemBytes (fmt : Nat) : Nat := if fmt = 0 then 8 else if fmt = 1 then 4 else if fmt = 2 then 1 else 16

/-- The formats an op takes (Table 11.11). -/
def opFormats (op : Nat) : List Nat :=
  if op ≤ 1 then [0, 1] else if op ≤ 3 then [0, 1, 2, 3] else if op ≤ 5 then [3] else if op = 6 then [2] else []

/-- The words of a descriptor in memory. -/
def descWords (d : Dev) (p a n : Nat) : List Nat := wordsOf n (viewRead d p a (8 * n))

/-- The collective a descriptor asks for. -/
def collOf (d : Dev) (p c a : Nat) (w : List Nat) : Coll :=
  { id := d.collNext, c := c, p := p, desc := a, op := bits (nth w 0) 3 0, fmt := bits (nth w 0) 7 4, pfmt := bits (nth w 0) 15 8
    axes := bits (nth w 0) 20 16, count := bits (nth w 3) 39 0, root := bits (nth w 4) 31 0, src := bits (nth w 1) 47 0
    dst := bits (nth w 2) 47 0, epoch := bits (nth w 0) 47 32, tag := bits (nth w 0) 63 48, evt := bits (nth w 5) 3 0
    cmask := bits (nth w 5) 31 4, sevt := if bitOf (nth w 5) 36 then some (bits (nth w 5) 35 32) else none
    inst := 0, held := false, posted := ftcOf d, blocks := [], stepped := 0, phase := 0, chain := isRef d p && decide (bits (nth w 0) 3 0 ≤ 1)
    cur := [] }

/-- Some reserved bit of the descriptor is set. -/
def collReserved (w : List Nat) : Bool :=
  bits (nth w 0) 31 21 != 0 || bits (nth w 1) 63 48 != 0 || bits (nth w 2) 63 48 != 0 || bits (nth w 3) 63 40 != 0 ||
  bits (nth w 4) 63 32 != 0 || bits (nth w 5) 63 37 != 0 || bits (nth w 6) 31 24 != 0 || nth w 7 != 0

/-- Bytes of a rank's src (Table 11.11); a BROADCAST reads the root's alone, the others pass one byte (log entry 15). -/
def Coll.srcBytes (k : Coll) (g r : Nat) : Nat :=
  let n := k.count * elemBytes k.fmt
  if k.op = 1 then g * n else if k.op = 3 then (if r = k.root then n else 1) else n

/-- Bytes of dst (Table 11.11). -/
def Coll.dstBytes (k : Coll) (g : Nat) : Nat :=
  let n := k.count * elemBytes k.fmt
  if k.op = 2 ∨ k.op = 6 then g * n else n

/-- An extent the engine may use: aligned to 64, mapped, in open banks (R216, Table 11.12). -/
def engineExtent (d : Dev) (p a n : Nat) : Bool :=
  a % 64 == 0 && rangeMapped d p a n && (shutBanks d a n).isEmpty

/-- The extents a collective reads and writes (Table 11.11). -/
def Coll.extents (d : Dev) (k : Coll) : List (Nat × Nat) :=
  (k.dst, k.dstBytes (k.size d)) ::
    (if k.op = 3 ∧ ownRank d k ≠ k.root then [] else [(k.src, k.srcBytes (k.size d) (ownRank d k))])

/-- The status of a descriptor that fails a check, in the order of R282. -/
def collStatus (d : Dev) (k : Coll) (w : List Nat) : Option Nat :=
  let g := k.size d
  if k.op > 6 ∨ (opFormats k.op).contains k.fmt = false then some 0x10
  else if collReserved w || (k.pfmt != 0 && k.fmt != 3) || (k.fmt == 3 && !(fmtFloat ++ [0x08, 0x09]).contains k.pfmt) ||
      k.count == 0 || k.axes == 0 || (k.op == 6 && (groupAxes k.axes).length != 1) || !cmaskOk d k.p k.cmask then some 0x11
  else if !flag d (F.fabSlice_valid k.p) then some 0x13
  else if k.root ≥ g then some 0x11
  else if fabShare d k.p == 0 || (k.extents d).any (fun x => !engineExtent d k.p x.1 x.2) then some 0x12
  else none

/-- The signature of the fields that must agree (R280). -/
def Coll.sig (k : Coll) : Nat := (Config.collSignature k.op k.fmt k.pfmt k.axes k.count k.root).toNat

/-! Blocks -/

/-- Cuts a list into pieces of n bytes with their offsets. -/
def chunks (n : Nat) : Nat → Nat → List Byte → List (Nat × List Byte)
  | 0, _, _ => []
  | m + 1, o, l => if l.isEmpty then [] else (o, l.take n) :: chunks n m (o + n) (l.drop n)

/-- Replaces a collective. -/
def setColl (d : Dev) (k : Coll) : Dev := { d with colls := d.colls.map (fun x => if x.id = k.id then k else x) }

/-- The axis of a phase: the group's axes in ascending order. -/
def Coll.axis (k : Coll) (j : Nat) : Nat := nth (groupAxes k.axes) j

/-- Members on a phase's axis. -/
def Coll.ring (d : Dev) (k : Coll) (j : Nat) : Nat := sliceSize d k.p (k.axis j)

/-- This module's place on a phase's axis. -/
def Coll.place (d : Dev) (k : Coll) (j : Nat) : Nat := offsetAt d k.p (ownCoord d) (k.axis j)

/-- Place of a group rank on the axis of a phase (R266). -/
def Coll.rankPlace (d : Dev) (k : Coll) (r j : Nat) : Nat :=
  offsetAt d k.p (rankCoord d k.p k.axes r) (k.axis j)

/-- Number of the block of a phase and a place on its axis; a chain's partial sum is block 0 and its total block 64. -/
def blockKey (j place : Nat) : Nat := 64 * j + place

/-- The bytes received of a block. -/
def Coll.block (k : Coll) (key : Nat) : List Byte := (k.blocks.filter (fun x => x.1 == key)).flatMap (fun x => x.2.2)

/-- The block of a place in a phase of a BROADCAST comes from the root. -/
def Coll.fromRoot (d : Dev) (k : Coll) (j place : Nat) : Bool :=
  place == k.rankPlace d k.root j &&
  ((List.range (groupAxes k.axes).length).all (fun i => decide (i ≤ j) || k.place d i == k.rankPlace d k.root i))

/-- Bytes of the block of a place in a phase (Table 11.11): an ALLGATHER's grow from axis to axis. -/
def Coll.blockBytes (d : Dev) (k : Coll) (j place : Nat) : Nat :=
  let n := k.count * elemBytes k.fmt
  if k.op = 1 then k.size d * n
  else if k.op = 2 then n * ((List.range j).map (k.ring d)).foldl (fun a x => a * x) 1
  else if k.op = 3 then (if k.fromRoot d j place then n else 1)
  else n

/-- A phase's block is whole. -/
def Coll.whole (d : Dev) (k : Coll) (j place : Nat) : Bool :=
  decide ((k.block (blockKey j place)).length ≥ k.blockBytes d j place)

/-- Bytes of a block that the + ring carries; the − ring carries the rest (R267). A RINGPASS has one ring (R283). -/
def Coll.firstHalf (k : Coll) (n : Nat) : Nat := if k.op = 6 then n else (n + 1) / 2

/-- The message of a piece. -/
def Coll.msg (d : Dev) (k : Coll) (dst step off : Nat) (data : List Byte) : Msg :=
  { kind := 3, part := k.p, src := getF d F.fabCoord_module, dst := dst, dpart := k.p, tag := k.tag, addr := off
    length := data.length, epoch := k.epoch, inst := k.inst, step := step, sig := k.sig, data := data }

/-- Sends a piece one hop along the ring of a phase: from the last place of a partial axis the closing hop goes back through the members on
FOLD, any other goes to the neighbour on COLL (R267). -/
def sendHop (d : Dev) (k : Coll) (j s : Nat) (plus : Bool) (off : Nat) (data : List Byte) : Dev :=
  let (x, n, o) := (k.axis j, k.ring d j, k.place d j)
  let next := if plus then (o + 1) % n else (o + n - 1) % n
  let dst := setAxis (ownCoord d) x ((axis (getF d (F.fabSlice_origin k.p)) x + next) % torusSize d x)
  let closing := !fullAxis d k.p x && (if plus then o + 1 == n else o == 0)
  queueFlits d (2 * x + b2n (plus != closing)) ownSource ((k.msg d dst (32 * j + s) off data).flits (b2n closing))

/-- Sends a block's halves on both rings of a phase, in messages of at most 16,384 bytes. -/
def sendBlock (d : Dev) (k : Coll) (j s : Nat) (l : List Byte) : Dev :=
  let h := k.firstHalf l.length
  let d := forEach (chunks 16384 (h / 16384 + 1) 0 (l.take h)) d (fun d x => sendHop d k j s true x.1 x.2)
  forEach (chunks 16384 (l.length / 16384 + 1) h (l.drop h)) d (fun d x => sendHop d k j s false x.1 x.2)

/-- Sends a chain's partial sum (step 1, to the next rank) or total (step 2, to the one before). -/
def sendChain (d : Dev) (k : Coll) (step r : Nat) (l : List Byte) : Dev :=
  forEach (chunks 16384 (l.length / 16384 + 1) 0 l) d
    (fun d x => sendMsg d (k.msg d (rankCoord d k.p k.axes r) step x.1 x.2) 0)

/-! Combining (R101, R103, R104, R130) -/

/-- Words of n bytes each of a list of bytes. -/
def wordList (n : Nat) : Nat → List Byte → List Nat
  | 0, _ => []
  | m + 1, l => leNat (l.take n) :: wordList n m (l.drop n)

/-- The bytes of words of n bytes. -/
def wordBytes (n : Nat) (l : List Nat) : List Byte := l.flatMap (leBytes n)

/-- Two lists combined word by word, and whether some word left the window (R101, R103, R130). -/
def addWords (ref : Bool) (fmt : Nat) (a b : List Nat) : List Nat × Bool :=
  let r := (a.zip b).map (fun x => if ref then refAdd x.1 x.2 else windowAdd fmt x.1 x.2)
  (r.map (fun x => x.1), r.any (fun x => x.2))

/-- The left fold of the members' words in ascending order. -/
def foldWords (ref : Bool) (fmt : Nat) : List (List Nat) → List Nat × Bool
  | [] => ([], false)
  | a :: r => r.foldl (fun (x : List Nat × Bool) b => let y := addWords ref fmt x.1 b; (y.1, x.2 || y.2)) (a, false)

/-- Pairs combined element by element (R104). -/
def foldPairs (isMax : Bool) (fmt : Nat) : List (List Nat) → List Nat
  | [] => []
  | a :: r => r.foldl (fun x b => x.zipWith (fun u v =>
      let m := maxPair isMax fmt (u % 2 ^ 64, u / 2 ^ 64) (v % 2 ^ 64, v / 2 ^ 64)
      m.1 + m.2 * 2 ^ 64) b) a

/-- Bytes as the words of a collective's format. -/
def Coll.toWords (k : Coll) (l : List Byte) : List Nat := wordList (elemBytes k.fmt) (l.length / elemBytes k.fmt) l

/-- What the blocks of an axis, in ascending place, make together, and whether the local flag is set (R103). -/
def Coll.combine (d : Dev) (k : Coll) (j : Nat) (blocks : List (List Byte)) : List Byte × Bool :=
  let es := elemBytes k.fmt
  match k.op with
  | 0 | 1 => let r := foldWords false k.fmt (blocks.map k.toWords); (wordBytes es r.1, r.2)
  | 3 => (blocks.getD (k.rankPlace d k.root j) [], false)
  | 4 => (wordBytes es (foldPairs true k.pfmt (blocks.map k.toWords)), false)
  | 5 => (wordBytes es (foldPairs false k.pfmt (blocks.map k.toWords)), false)
  | _ => (blocks.flatten, false)

/-- A phase begins with what this module brings to it: its own block, which leaves on both rings. -/
def beginPhase (d : Dev) (k : Coll) : Dev × Coll :=
  let j := k.phase
  if j ≥ (groupAxes k.axes).length then (d, k)
  else
    let k := { k with blocks := k.blocks ++ [(blockKey j (k.place d j), 0, k.cur)] }
    (if k.ring d j > 1 then sendBlock d k j 1 k.cur else d, k)

/-- Every axis whose blocks are all whole is combined and the next begins; at most n of them. -/
def advanceRings : Nat → Dev → Coll → Dev × Coll
  | 0, d, k => (d, k)
  | n + 1, d, k =>
    let j := k.phase
    let places := List.range (k.ring d j)
    if j ≥ (groupAxes k.axes).length || !places.all (k.whole d j) then (d, k)
    else
      let r := k.combine d j (places.map (fun x => k.block (blockKey j x)))
      let x := beginPhase (if r.2 then setNonfin d k.p else d)
        { k with phase := j + 1, cur := r.1, blocks := k.blocks.filter (fun y => decide (64 * (j + 1) ≤ y.1)) }
      advanceRings n x.1 x.2

/-- A chain (R281, R130): a partial sum that is whole is added to and goes on to the next rank; the last rank's is the total, which goes back
to every rank. -/
def advanceChain (d : Dev) (k : Coll) : Dev × Coll :=
  let r := ownRank d k
  let g := k.size d
  let whole (key : Nat) : Bool := decide ((k.block key).length ≥ k.cur.length)
  let (d, k) := if k.phase = 0 ∧ (r = 0 ∨ whole 0 = true) then
      let s := if r = 0 then (k.cur, false) else
        let y := addWords true k.fmt (k.toWords (k.block 0)) (k.toWords k.cur)
        (wordBytes (elemBytes k.fmt) y.1, y.2)
      let d := if s.2 then setNonfin d k.p else d
      if r + 1 = g then (if r = 0 then d else sendChain d k 2 (r - 1) s.1, { k with phase := 2, cur := s.1 })
      else (sendChain d k 1 (r + 1) s.1, { k with phase := 1 })
    else (d, k)
  if k.phase = 1 ∧ whole 64 = true then
    (if r = 0 then d else sendChain d k 2 (r - 1) (k.block 64), { k with phase := 2, cur := k.block 64 })
  else (d, k)

/-- A collective goes on as far as the blocks it has allow. A RINGPASS goes on by its steps (R283). -/
def advanceColl (d : Dev) (k : Coll) : Dev :=
  if k.op = 6 then setColl d k
  else
    let x := if k.chain then advanceChain d k else advanceRings 6 d k
    setColl x.1 x.2

/-- Everything a collective combines has been combined here. -/
def Coll.combined (k : Coll) : Bool := if k.chain then k.phase == 2 else decide (k.phase ≥ (groupAxes k.axes).length)

/-- A collective begins to run: its src is read, RINGPASS copies it to its block of dst, and its first blocks leave (R283). -/
def startColl (d : Dev) (k : Coll) : Dev :=
  let r := ownRank d k
  let n := k.srcBytes (k.size d) r
  let own := if k.op = 3 ∧ r ≠ k.root then [0] else viewRead d k.p k.src n
  let d := if k.op = 3 ∧ r ≠ k.root then d else noteRead d k.p k.src n
  let d := if k.op = 6 then engineWrite d k.p (k.dst + r * k.count) own else d
  let k := { k with held := false, cur := own }
  let x := if k.chain then (d, k) else beginPhase d k
  syncOpen (advanceColl x.1 x.2) k.p

/-- Held collectives of the current epoch run (R285). -/
def runHeld (d : Dev) (p : Nat) : Dev :=
  forEach (d.colls.filter (fun k => k.p == p && k.held && k.epoch == getF d (F.fabEpoch_cur p))) d startColl

/-- The pending layout epoch becomes current (R285). -/
def applyEpoch (d : Dev) (p : Nat) : Dev :=
  let d := setF d (F.fabEpoch_cur p) (getF d (F.fabEpoch_pending p))
  runHeld (syncOpen (setF (setF d (F.fabEpoch_pvalid p) 0) (F.fabEpoch_draining p) 0) p) p

/-- Posts the descriptor at an address: refused with a status, held or run (R282, R284). -/
def postColl (d : Dev) (p c w a : Nat) : End :=
  let ws := descWords d p a 8
  let k := collOf d p c a ws
  let refuse (s : Nat) : End :=
    let d := if s = 0x12 then denyFirst d p (k.extents d) else d
    let e := writeStatus d k 0 s
    let e := if cmaskOk d p k.cmask then postMask e k.cmask k.evt else e
    .done (raise e (some p) (F.fabIrq_coll_err p) (F.fabIrqEn_coll_err p))
  match collStatus d k ws with
  | some s => refuse s
  | none =>
    let cur := decide (k.epoch = getF d (F.fabEpoch_cur p))
    if cur || (flag d (F.fabEpoch_pvalid p) && k.epoch == getF d (F.fabEpoch_pending p)) then
      let i := count? d.insts (p, k.tag)
      let k := { k with inst := i % 256, held := !cur }
      let e := { d with colls := d.colls ++ [k], collNext := d.collNext + 1, insts := Tab.put d.insts (p, k.tag) (i + 1) }
      let e := addJob e c { plainJob .fabric w with post := some k.id }
      .queued (if cur then startColl e k else e)
    else refuse 4

/-- FPOST (R39, R282). -/
def goFpost (p c w : Nat) (d : Dev) : Plan :=
  let a := wAddr w
  ⟨[ (!rangeMapped d p a 64, cAddress), (!(shutBanks d a 64).isEmpty, cBankOwner),
      (spadOf a == some c && overlapsProg d c (a - spadBase c + 48) 8, cProgramWrite) ],
    plainBanks a 64,
    if postCount d c ≥ 4 ∨ heldRange d p a 64 = true then some 10 else none,
    fun _ => postColl (noteRead d p a 64) p c w a⟩

/-! Arrivals -/

/-- The open collective a message belongs to (R280). -/
def collFor (d : Dev) (m : Msg) : Option Coll :=
  d.colls.find? (fun k => k.p == m.dpart && k.tag == m.tag && k.epoch == m.epoch && k.inst == m.inst)

/-- Sends ABORT to every other group member and resolves MISMATCH (R280). -/
def mismatch (d : Dev) (k : Coll) : Dev :=
  let others := (List.range (k.size d)).filter (fun r => r != ownRank d k)
  let d := forEach others d (fun d r =>
    sendTo d { kind := 4, part := k.p, src := getF d F.fabCoord_module, dst := rankCoord d k.p k.axes r, dpart := k.p
               tag := k.tag, addr := 0, length := 1, epoch := k.epoch, inst := k.inst, step := 0, sig := k.sig, data := [0] } false)
  resolveColl d k k.stepped 2

/-- A piece of a ring arrives: it is kept, and goes on round the ring until it has come to every member of the axis. -/
def ringPiece (d : Dev) (k : Coll) (m : Msg) : Dev :=
  let (j, s) := (m.step / 32, m.step % 32)
  let (n, o) := (k.ring d j, k.place d j)
  let before := (o + n - s % n) % n
  let plus : Bool := decide (m.addr < k.firstHalf (k.blockBytes d j before))
  let k := { k with blocks := k.blocks ++ [(blockKey j (if plus then before else (o + s) % n), m.addr, m.data)] }
  advanceColl (if k.op != 6 && decide (s + 1 < n) then sendHop d k j (s + 1) plus m.addr m.data else d) k

/-- A COLL message arrives for a running collective (R280, R281); one for a collective not posted yet waits. -/
def collMessage (d : Dev) (n vc : Nat) : Dev :=
  match takeMsg d n vc 3 (fun m => match collFor d m with | some k => !k.held | none => false) with
  | none => d
  | some (m, e) =>
    match collFor e m with
    | none => d
    | some k =>
      if m.sig ≠ k.sig then mismatch e k
      else if k.chain then advanceColl e { k with blocks := k.blocks ++ [(64 * (m.step - 1), m.addr, m.data)] }
      else ringPiece e k m

/-- An ABORT message arrives (R280). -/
def abortMessage (d : Dev) (n vc : Nat) : Dev :=
  match takeMsg d n vc 4 (fun m => (collFor d m).isSome) with
  | none => d
  | some (m, e) => match collFor e m with | some k => resolveColl e k k.stepped 2 | none => d

/-- The i-th open collective of a partition. -/
def nthColl (d : Dev) (p i : Nat) : Option Coll := (d.colls.filter (fun k => k.p == p))[i]?

/-- The next block of a RINGPASS has arrived whole: it stands in dst, goes on to the next rank, and posts its step event
(R283). -/
def ringStep (d : Dev) (p i : Nat) : Dev :=
  match nthColl d p i with
  | none => d
  | some k =>
    let g := k.size d
    let s := k.stepped + 1
    let r := (ownRank d k + g - s % g) % g
    if k.op != 6 || k.held || s ≥ g || !k.whole d 0 r then d
    else if heldWrite d p (k.dst + r * k.count) k.count then steadyBroken d
    else
      let d := setColl (engineWrite d p (k.dst + r * k.count) (k.block r)) { k with stepped := s }
      let d := if s + 1 < g then sendBlock d k 0 (s + 1) (k.block r) else d
      match k.sevt with
      | some e => postMask d k.cmask e
      | none => d

/-! Results -/

/-- The bytes of dst of a complete collective (Table 11.11). -/
def collResult (d : Dev) (k : Coll) : List Byte :=
  let n := k.count * elemBytes k.fmt
  if k.op = 1 then cut k.cur (ownRank d k * n) n else k.cur

/-- Steps of a complete collective: of a chain up and back, else of the ring of every axis. -/
def Coll.steps (d : Dev) (k : Coll) : Nat :=
  if k.chain then 2 * (k.size d - 1) else ((groupAxes k.axes).map (fun x => sliceSize d k.p x - 1)).sum

/-- The i-th open collective of a partition completes (R282). -/
def completeColl (d : Dev) (p i : Nat) : Dev :=
  match nthColl d p i with
  | none => d
  | some k =>
    let g := k.size d
    if k.held || !(if k.op = 6 then k.stepped + 1 == g else k.combined) then d
    else if heldWrite d p k.dst (k.dstBytes g) || heldWrite d p (k.desc + 48) 8 then steadyBroken d
    else
      let d := if k.op = 6 then d else engineWrite d p k.dst (collResult d k)
      resolveColl d k (k.steps d) 1

end Sys2Proof.Machine
end

