-- ==== Sys2Proof/Machine/Service.lean ====
section
/-! DEFINITION. The service ports (R387, R388, Tables 16.12 and 16.13): their rings, work entries, and incoming packets. -/

namespace Sys2Proof.Machine

/-! Rings -/

/-- The en field of a work or receive ring. -/
def svcEn (recv : Bool) (p s : Nat) : FKey := if recv then F.svcRring_en p s else F.svcWring_en p s
/-- The size_log2 field of a work or receive ring. -/
def svcSize (recv : Bool) (p s : Nat) : FKey := if recv then F.svcRring_size_log2 p s else F.svcWring_size_log2 p s
/-- The base field of a work or receive ring. -/
def svcBase (recv : Bool) (p s : Nat) : FKey := if recv then F.svcRring_base p s else F.svcWring_base p s
/-- The head field of a work or receive ring. -/
def svcHead (recv : Bool) (p s : Nat) : FKey := if recv then F.svcRhead_head p s else F.svcWhead_head p s

/-- Bytes of an entry of a ring. -/
def svcEntryBytes (recv : Bool) : Nat := if recv then 32 else 64

/-- Address of the entry at a ring's head. -/
def svcSlot (d : Dev) (recv : Bool) (p s : Nat) : Nat :=
  32 * getF d (svcBase recv p s) + svcEntryBytes recv * getF d (svcHead recv p s)

/-- The head moves on one entry. -/
def svcAdvance (d : Dev) (recv : Bool) (p s : Nat) : Dev :=
  setF d (svcHead recv p s) ((getF d (svcHead recv p s) + 1) % 2 ^ getF d (svcSize recv p s))

/-- Work entries in flight. -/
def svcOf (d : Dev) (p s : Nat) : List SvcEntry := (Tab.get? d.svc (p, s)).getD []

/-- The QP of a work entry. -/
def SvcEntry.qp (e : SvcEntry) : Nat := bits (nth e.words 0) 33 24
/-- The op of a work entry. -/
def SvcEntry.op (e : SvcEntry) : Nat := bits (nth e.words 0) 7 4
/-- Bytes of a work entry. -/
def SvcEntry.bytes (e : SvcEntry) : Nat := bits (nth e.words 2) 31 0
/-- Local buffer of a work entry. -/
def SvcEntry.laddr (e : SvcEntry) : Nat := bits (nth e.words 1) 47 0

/-- A work entry completes with a status: word 0, its events, its interrupts (R388). -/
def svcFinish (d : Dev) (p s : Nat) (e : SvcEntry) (status : Nat) : Dev :=
  let w := nth e.words 0
  let mask := bits w 61 34
  let d := engineWrite d p e.slot (leBytes 8 (putBits (putBits w 15 8 status) 0 0 0))
  let d := if cmaskOk d p mask then postMask d mask (bits w 23 20) else d
  let d := if bitOf w 16 then raise d (some p) (F.svcIrq_done p s) (F.svcIrqEn_done p s) else d
  if status = 1 then d else raise d (some p) (F.svcIrq_err p s) (F.svcIrqEn_err p s)

/-- Clearing a ring's en resolves what was picked up ABORTED (Table 16.13). -/
def svcAbort (d : Dev) (p s : Nat) : Dev :=
  forEach (svcOf d p s) { d with svc := Tab.erase d.svc (p, s) } (fun d e => svcFinish d p s e 0x16)

/-- The ring as it stands may be enabled (Table 16.13). -/
def svcRingOk (d : Dev) (p s : Nat) (recv : Bool) : Bool :=
  let k := getF d (svcSize recv p s)
  decide (2 ≤ k ∧ k ≤ 12) && rangeMapped d p (32 * getF d (svcBase recv p s)) (2 ^ k * svcEntryBytes recv) &&
  getF d (F.hostPcfg_svc_share p) != 0

/-- A store to SVC_WRINGps or SVC_RRINGps (R10, Table 16.13): fields, then the enable or the disable. -/
def svcRingWrite (d : Dev) (p s : Nat) (recv : Bool) (v : Nat) : Dev :=
  let on := flag d (svcEn recv p s)
  if on && bitOf v 63 then setF d (F.svcStat_wr_err p s) 1
  else
    let k := bits v 51 48
    let d := setF d (svcBase recv p s) (bits v 47 5)
    let d := if 2 ≤ k ∧ k ≤ 12 then setF d (svcSize recv p s) k else setF d (F.svcStat_wr_err p s) 1
    if bitOf v 63 then
      (if svcRingOk d p s recv then setF d (svcEn recv p s) 1 else setF d (F.svcStat_ring_err p s) 1)
    else if on then
      let d := setF (setF d (svcEn recv p s) 0) (svcHead recv p s) 0
      if recv then d else svcAbort d p s
    else d

/-- Every ring of a partition is disabled (R293). -/
def svcDisable (d : Dev) (p : Nat) : Dev :=
  forEach [0, 1] d (fun d s =>
    let off (d : Dev) (recv : Bool) : Dev :=
      if flag d (svcEn recv p s) then setF (setF d (svcEn recv p s) 0) (svcHead recv p s) 0 else d
    off (svcAbort (off d false) p s) true)

/-! QPs and keys -/

/-- Address of a QP table entry. -/
def qpAddr (d : Dev) (p s q : Nat) : Nat := 64 * getF d (F.svcQpt_base p s) + 64 * q

/-- The QP is in the table and ready (state 1 at byte 28). -/
def qpReady (d : Dev) (p s q : Nat) : Bool :=
  decide (q < getF d (F.svcQpt_count p s)) && (shutBanks d (qpAddr d p s q) 64).isEmpty &&
    (viewByte d p (qpAddr d p s q + 28)).toNat == 1

/-- A transport error sets the QP's state to 2 (R388). -/
def qpError (d : Dev) (p s q : Nat) : Dev :=
  if q < getF d (F.svcQpt_count p s) then
    satF (engineStore { d with qps := Tab.erase d.qps (p, s, q) } p (qpAddr d p s q + 28) [2]) (F.svcStat_qp_err p s) 1
  else d

/-- Bytes of a QP table entry from byte o, as a little-endian number. -/
def qpField (d : Dev) (p s q o n : Nat) : Nat := viewNat d p (qpAddr d p s q + o) n

/-- The remote IPv6 address of a QP, bytes 0 to 15 in network order. -/
def qpRemote (d : Dev) (p s q : Nat) : Nat := beNat (viewRead d p (qpAddr d p s q) 16)

/-- The sequence numbers of a QP: the initial ones of its table entry until it has sent or taken a message (R388). -/
def qpSeqs (d : Dev) (p s q : Nat) : Nat × Nat :=
  (Tab.get? d.qps (p, s, q)).getD (qpField d p s q 20 3, qpField d p s q 24 3)

/-- Payload bytes of a packet of a QP (path MTU, R387, R388). -/
def qpMtu (d : Dev) (p s q : Nat) : Nat :=
  let k := qpField d p s q 29 1
  if k = 1 then 1024 else if k = 2 then 2048 else if k = 3 then 4096 else Config.oddMtu k + 1

/-- A QP has sent m packets of requests and taken n. -/
def qpAdvance (d : Dev) (p s q m n : Nat) : Dev :=
  let x := qpSeqs d p s q
  { d with qps := Tab.put d.qps (p, s, q) ((x.1 + m) % 2 ^ 24, (x.2 + n) % 2 ^ 24) }

/-- Address of the key-table entry of a key. -/
def keyAddr (d : Dev) (p s key : Nat) : Nat := 64 * getF d (F.svcKeyt_base p s) + 32 * (key % 256)

/-- The key admits an access of n bytes from an address: bit 0 of word 2 for a read, bit 1 for a write. Its key is generation x 256
+ k, and the generation is an 8-bit number at word 2 [15:8] (log entry 22). -/
def keyAdmits (d : Dev) (p s key a n acc : Nat) : Bool :=
  let k := key % 256
  let w (i : Nat) : Nat := viewNat d p (keyAddr d p s key + 8 * i) 8
  decide (k < getF d (F.svcKeyt_count p s)) && (shutBanks d (keyAddr d p s key) 32).isEmpty && key == bits (w 2) 15 8 * 256 + k &&
  bitOf (w 2) acc && decide (w 0 ≤ a ∧ a + n ≤ w 0 + w 1) && rangeMapped d p a n && (shutBanks d a n).isEmpty

/-! Work entries -/

/-- The status of a work entry whose checks fail (Table 16.12). -/
def svcCheck (d : Dev) (p s : Nat) (e : SvcEntry) : Option Nat :=
  let w := nth e.words 0
  let high (i l : Nat) : Bool := nth e.words i / 2 ^ l != 0
  let most := if e.op = 5 then 8952 else 2 ^ 30
  if e.op > 5 || bits w 63 62 != 0 || bits w 19 17 != 0 || bits w 3 1 != 0 || high 1 48 || high 4 32 || high 7 32 ||
      e.bytes == 0 || decide (e.bytes > most) || (e.op != 5 && decide (e.qp ≥ getF d (F.svcQpt_count p s))) ||
      !cmaskOk d p (bits w 61 34) then some 0x10
  else if !rangeMapped d p e.laddr e.bytes || !(shutBanks d e.laddr e.bytes).isEmpty then some 0x12
  else none

/-- Cuts a message's bytes into pieces of k bytes, at most n; an empty message is one empty piece. -/
def segments (k : Nat) : Nat → List Byte → List (List Byte)
  | 0, _ => []
  | n + 1, l => if l.length ≤ k then [l] else l.take k :: segments k n (l.drop k)

/-- The packets of a message of a QP, in order: each at most the path MTU, with consecutive sequence numbers (R387). -/
def rocePackets (d : Dev) (p s q kind psn imm raddr rkey : Nat) (data : List Byte) : List SvcPacket :=
  let l := segments (qpMtu d p s q) (data.length + 1) data
  l.zipIdx.map (fun x =>
    { port := s, part := p, kind := kind, qp := qpField d p s q 16 3, psn := (psn + x.2) % 2 ^ 24, first := x.2 == 0
      last := x.2 + 1 == l.length, imm := imm, raddr := raddr, rkey := rkey
      smac := Config.macAddress Config.serial s, daddr := qpRemote d p s q, sport := 0, dport := 4791
      data := x.1 })

/-- The packets of a work entry, in order: a UDP datagram is one, to the address and ports of its words 5 to 7. -/
def svcPackets (d : Dev) (p s : Nat) (e : SvcEntry) : List SvcPacket :=
  let w (i : Nat) : Nat := nth e.words i
  if e.op = 5 then
    [{ port := s, part := p, kind := 5, qp := 0, psn := 0, first := true, last := true, imm := 0, raddr := 0, rkey := 0
       smac := Config.macAddress Config.serial s, daddr := beNat (leBytes 8 (w 5) ++ leBytes 8 (w 6)), sport := bits (w 7) 31 16, dport := bits (w 7) 15 0
       data := viewRead d p e.laddr e.bytes }]
  else
    rocePackets d p s e.qp e.op (qpSeqs d p s e.qp).1 (if e.op = 1 ∨ e.op = 3 then bits (w 2) 63 32 else 0)
      (if e.op = 0 ∨ e.op = 1 then 0 else w 3) (if e.op = 0 ∨ e.op = 1 then 0 else w 4)
      (if e.op = 4 then [] else viewRead d p e.laddr e.bytes)

/-- Sequence numbers a message of n bytes takes on a QP: one for each packet that carries its bytes. -/
def packetCount (d : Dev) (p s q n : Nat) : Nat := max 1 (cdiv n (qpMtu d p s q))

/-- The engine takes the entry at the head of a work ring when it is of the row's op; a reserved op is of every row. An entry
that fails its checks sends nothing; neither does one whose QP is not ready (R388). A ring in a closed bank cannot be polled (R217). -/
def svcRun (op : Nat) (p s : Nat) (d : Dev) : Dev :=
  let a := svcSlot d false p s
  let e : SvcEntry := ⟨a, (List.range 8).map (fun i => viewNat d p (a + 8 * i) 8), none⟩
  if flag d (F.svcWring_en p s) && !(shutBanks d a 64).isEmpty then engineDeny d p a 64
  else if flag d (F.svcWring_en p s) && heldRange d p a 64 then steadyBroken d
  else if flag d (F.svcWring_en p s) && bitOf (nth e.words 0) 0 && (e.op == op || decide (e.op > 5)) &&
      !(svcOf d p s).any (fun x => x.slot == a) then
    if heldRange d p e.laddr e.bytes then steadyBroken d else
    let e := { e with status := svcCheck d p s e }
    let d := svcAdvance (noteRead d p a 64) false p s
    let d := { d with svc := Tab.put d.svc (p, s) (svcOf d p s ++ [e]) }
    if e.status.isSome then (if e.status = some 0x12 then denyFirst d p [(e.laddr, e.bytes)] else d)
    else if op != 5 && !qpReady d p s e.qp then denyFirst d p [(qpAddr d p s e.qp, 64)]
    else
      let d' := { d with svcOut := (svcPackets d p s e).reverse ++ d.svcOut }
      let d' := if op = 5 then d' else qpAdvance d' p s e.qp (packetCount d p s e.qp e.bytes) 0
      if op = 4 then d' else noteRead d' p e.laddr e.bytes
  else d

/-- Status of an outcome (Table 16.12). -/
def workStatus : WorkResult → Nat
  | .ok _ => 1
  | .remote _ => 2
  | .key => 3

/-- The i-th entry in flight completes (R388): entries of one QP in ring order. -/
def svcComplete (d : Dev) (p s i : Nat) (res : WorkResult) : Dev :=
  match (svcOf d p s)[i]? with
  | none => d
  | some e =>
    let blocked := e.op != 5 && ((svcOf d p s).take i).any (fun x => x.op != 5 && x.qp == e.qp)
    let status := e.status.getD (workStatus res)
    if blocked || (e.status.isNone && e.op == 5 && status != 1) then d
    else if heldWrite d p e.slot 64 || (e.op == 4 && heldWrite d p e.laddr e.bytes) then steadyBroken d
    else
      let d := { d with svc := Tab.put d.svc (p, s) ((svcOf d p s).eraseIdx i) }
      let d := match e.status, res with
        | none, .ok data => if e.op = 4 then engineWrite d p e.laddr (padTo e.bytes data) else d
        | none, .remote nak => qpError (if nak then addF d (F.svcStat_naks p s) 1 else d) p s e.qp
        | none, .key => qpError (addF d (F.svcStat_naks p s) 1) p s e.qp
        | some _, _ => d
      svcFinish d p s e status

/-! Incoming packets -/

/-- A port answers a request on a QP from a sequence number (log entry 22). -/
def svcReply (d : Dev) (p s kind qp psn : Nat) (data : List Byte) : Dev :=
  { d with svcOut := (rocePackets d p s qp kind psn 0 0 0 data).reverse ++ d.svcOut }

/-- What a receive entry at the head can take: its buffer and capacity. A ring in a closed bank gives none (R217). -/
def recvEntry (d : Dev) (p s : Nat) : Option (Nat × Nat) :=
  let a := svcSlot d true p s
  if flag d (F.svcRring_en p s) && (shutBanks d a 32).isEmpty && bitOf (viewNat d p a 8) 0 then
    some (bits (viewNat d p (a + 8) 8) 47 0, bits (viewNat d p (a + 16) 8) 31 0)
  else none

/-- The receive entry at the head completes with n bytes received. -/
def fillRecv (d : Dev) (p s n imm : Nat) : Dev :=
  let a := svcSlot d true p s
  let d := engineWrite d p (a + 24) (leBytes 8 (imm * 2 ^ 32 + n % 2 ^ 32))
  svcAdvance (engineWrite d p a (leBytes 8 (putBits (putBits (viewNat d p a 8) 15 8 1) 0 0 0))) true p s

/-- A request of a QP is refused with a NAK of the sequence number expected. -/
def svcNak (d : Dev) (p s kind qp : Nat) : Dev := svcReply d p s kind qp (qpSeqs d p s qp).2 []

/-- A request of n bytes on a QP is done: it is acknowledged with the sequence number of its last packet. -/
def svcAck (d : Dev) (p s qp n : Nat) : Dev :=
  let k := packetCount d p s qp n
  svcReply (qpAdvance d p s qp 0 k) p s 6 qp (((qpSeqs d p s qp).2 + k + 2 ^ 24 - 1) % 2 ^ 24) []

/-- A message fills a receive entry: with no entry, or one too small, the sender hears why (log entry 22). -/
def deliver (d : Dev) (p s qp imm : Nat) (data : List Byte) (answers : Bool) : Dev :=
  let say (d : Dev) (k : Nat) : Dev := if answers then svcNak d p s k qp else d
  match recvEntry d p s with
  | none => say (denyFirst d p (if flag d (F.svcRring_en p s) then [(svcSlot d true p s, 32)] else [])) 9
  | some (a, cap) =>
    if cap < data.length ∨ rangeMapped d p a data.length = false then say d 7
    else if !(shutBanks d a data.length).isEmpty then say (engineDeny d p a data.length) 7
    else if heldWrite d p a data.length || heldWrite d p (svcSlot d true p s) 32 then steadyBroken d
    else
      let d := fillRecv (engineWrite d p a data) p s data.length imm
      if answers then svcAck d p s qp data.length else d

/-- A request with a key: refused unless its QP is ready, its key and extent admit it (R388) and the banks are open (R217); it waits
while a page of its extent is held. -/
def keyed (d : Dev) (p s qp key a n acc : Nat) (run : Dev → Dev) : Dev :=
  if !qpReady d p s qp then svcNak (denyFirst d p [(qpAddr d p s qp, 64)]) p s 7 qp
  else if !keyAdmits d p s key a n acc then svcNak (denyFirst d p [(keyAddr d p s key, 32), (a, n)]) p s 8 qp
  else if (if acc = 1 then heldWrite d p a n else heldRange d p a n) then steadyBroken d
  else run d

/-- An incoming packet (R387, R388). A congestion-marked one is answered with a notification; a notification slows the sender, which
changes timing only (log entry 3). -/
def svcReceive (d : Dev) (s : Nat) (m : ServicePacket) : Dev :=
  match m with
  | .unsupported p qp => svcNak d p s 7 qp
  | .marked p qp => svcNak d p s 10 qp
  | .notified _ _ => d
  | .udp p _ data => if data.length ≤ 8952 then deliver d p s 0 0 data false else d
  | .send p qp imm data =>
    if qpReady d p s qp then deliver d p s qp (match imm with | some x => x.toNat | none => 0) data true
    else svcNak (denyFirst d p [(qpAddr d p s qp, 64)]) p s 7 qp
  | .rdmaWrite p qp key a imm data =>
    keyed d p s qp key.toNat a.toNat data.length 1 (fun d =>
      match imm with
      | none => svcAck (engineWrite d p a.toNat data) p s qp data.length
      | some x =>
        if (recvEntry d p s).isNone then
          svcNak (denyFirst d p (if flag d (F.svcRring_en p s) then [(svcSlot d true p s, 32)] else [])) p s 9 qp
        else if heldWrite d p (svcSlot d true p s) 32 then steadyBroken d
        else svcAck (fillRecv (engineWrite d p a.toNat data) p s data.length x.toNat) p s qp data.length)
  | .rdmaRead p qp key a len =>
    keyed d p s qp key.toNat a.toNat len 0 (fun d =>
      let e := svcReply (noteRead d p a.toNat len) p s 6 qp (qpSeqs d p s qp).2 (viewRead d p a.toNat len)
      qpAdvance e p s qp 0 (packetCount d p s qp len))

end Sys2Proof.Machine
end

