-- ==== Sys2Proof/Machine/Handover.lean ====
section
/-! DEFINITION. The end of a bank handover (R218), which waits for every agent whose access passed its owner check before. -/

namespace Sys2Proof.Machine

/-- An instruction of any cluster that has issued uses the bank. -/
def jobUses (d : Dev) (c b : Nat) : Bool := d.cl.any (fun x => x.2.jobs.any (fun j => j.banks.contains (c, b)))

/-- A collective that passed its check at its post uses the bank: its source, its destination, or its status word (R282). -/
def collUses (d : Dev) (c b : Nat) : Bool :=
  d.colls.any (fun k => ((k.desc, 64) :: k.extents d).any (fun x => (plainBanks x.1 x.2).contains (c, b)))

/-- A service port's entry that passed its check at its pickup uses the bank: its buffer, or its own place in the ring (R388). -/
def svcUses (d : Dev) (c b : Nat) : Bool :=
  d.svc.any (fun x => x.2.any (fun e =>
    ((e.slot, 64) :: (if e.status.isNone then [(e.laddr, e.bytes)] else [])).any (fun y => (plainBanks y.1 y.2).contains (c, b))))

/-- A kiln guest product under way uses the bank (R58, Table 9.4). -/
def guestUses (d : Dev) (c b : Nat) : Bool := match (clusterOf d c).guest with | some g => bitOf g.banks b | none => false

/-- An access that passed its owner check is not complete in the bank (R218). -/
def bankBusy (d : Dev) (c b : Nat) : Bool := jobUses d c b || collUses d c b || svcUses d c b || guestUses d c b

/-- The new owner takes effect once no earlier access is left (R218). -/
def completeHandover (d : Dev) (c b : Nat) : Dev :=
  match handoverTo d c b with
  | some o =>
    if bankBusy d c b then d
    else modCluster (setF (setF d (F.bankOwner_owner c b) o) (F.bankOwner_pending c b) 0) c
      (fun x => { x with handovers := x.handovers.filter (fun h => h.bank != b) })
  | none => d

end Sys2Proof.Machine
end

