-- ==== Sys2Proof/Machine/Sm3.lean ====
section
/-! DEFINITION. SM3 (GB/T 32905), which R193, R243 and R332 name (log entry 8 for its constants). -/

namespace Sys2Proof.Machine

/-- A 32-bit word rotated left. -/
def rotl (x n : Nat) : Nat := (x * 2 ^ (n % 32) + x / 2 ^ (32 - n % 32)) % 2 ^ 32

/-- Complement of a 32-bit word. -/
def not32 (x : Nat) : Nat := 2 ^ 32 - 1 - x

/-- P0 of SM3. -/
def sm3P0 (x : Nat) : Nat := Nat.xor (Nat.xor x (rotl x 9)) (rotl x 17)

/-- P1 of SM3. -/
def sm3P1 (x : Nat) : Nat := Nat.xor (Nat.xor x (rotl x 15)) (rotl x 23)

/-- FF of SM3 in round j. -/
def sm3FF (j x y z : Nat) : Nat :=
  if j < 16 then Nat.xor (Nat.xor x y) z else Nat.lor (Nat.lor (Nat.land x y) (Nat.land x z)) (Nat.land y z)

/-- GG of SM3 in round j. -/
def sm3GG (j x y z : Nat) : Nat :=
  if j < 16 then Nat.xor (Nat.xor x y) z else Nat.lor (Nat.land x y) (Nat.land (not32 x) z)

/-- T of SM3 in round j. -/
def sm3T (j : Nat) : Nat := if j < 16 then 0x79CC4519 else 0x7A879D8A

/-- Extends the message words, newest first, n times. -/
def sm3Expand : Nat → List Nat → List Nat
  | 0, w => w
  | n + 1, w =>
    let x := Nat.xor (Nat.xor (sm3P1 (Nat.xor (Nat.xor (nth w 15) (nth w 8)) (rotl (nth w 2) 15))) (rotl (nth w 12) 7)) (nth w 5)
    sm3Expand n (x :: w)

/-- The eight working words. -/
structure Sm3 where
  a : Nat
  b : Nat
  c : Nat
  d : Nat
  e : Nat
  f : Nat
  g : Nat
  h : Nat
  deriving DecidableEq, Repr

/-- One round. -/
def sm3Round (s : Sm3) (j w w' : Nat) : Sm3 :=
  let m := 2 ^ 32
  let ss1 := rotl ((rotl s.a 12 + s.e + rotl (sm3T j) j) % m) 7
  let ss2 := Nat.xor ss1 (rotl s.a 12)
  let tt1 := (sm3FF j s.a s.b s.c + s.d + ss2 + w') % m
  let tt2 := (sm3GG j s.e s.f s.g + s.h + ss1 + w) % m
  ⟨tt1, s.a, rotl s.b 9, s.c, sm3P0 tt2, s.e, rotl s.f 19, s.g⟩

/-- The compression of one block of sixteen words. -/
def sm3Block (v : Sm3) (b : List Nat) : Sm3 :=
  let w := (sm3Expand 52 b.reverse).reverse
  let s := (List.range 64).foldl (fun s j => sm3Round s j (nth w j) (Nat.xor (nth w j) (nth w (j + 4)))) v
  ⟨Nat.xor v.a s.a, Nat.xor v.b s.b, Nat.xor v.c s.c, Nat.xor v.d s.d, Nat.xor v.e s.e, Nat.xor v.f s.f, Nat.xor v.g s.g,
   Nat.xor v.h s.h⟩

/-- Big-endian words of four bytes. -/
def beWords : Nat → List Byte → List Nat
  | 0, _ => []
  | n + 1, l => beNat (l.take 4) :: beWords n (l.drop 4)

/-- Compresses n blocks of 64 bytes. -/
def sm3Blocks : Nat → Sm3 → List Byte → Sm3
  | 0, v, _ => v
  | n + 1, v, l => sm3Blocks n (sm3Block v (beWords 16 (l.take 64))) (l.drop 64)

/-- The SM3 digest of bytes, as 32 bytes. -/
def sm3 (l : List Byte) : List Byte :=
  let n := l.length
  let pad := l ++ [0x80] ++ List.replicate ((119 - n % 64) % 64) 0 ++ beBytes 8 (8 * n)
  let r := sm3Blocks (pad.length / 64)
    ⟨0x7380166F, 0x4914B2B9, 0x172442D7, 0xDA8A0600, 0xA96F30BC, 0x163138AA, 0xE38DEE4D, 0xB0FB0E4E⟩ pad
  [r.a, r.b, r.c, r.d, r.e, r.f, r.g, r.h].flatMap (beBytes 4)

end Sys2Proof.Machine
end

