-- ==== Sys2Proof/Machine/Pool.lean ====
section
/-! DEFINITION. HBM, cellar and the page pool (R229 to R251): frames, mapping, quotas and eviction, the page mover and its rings,
snapshots, error handling and poisoned pages. -/

namespace Sys2Proof.Machine

/-! Frames (R229, R231, R232, R247) -/

/-- Frames of a tier. -/
def tierFrames : Tier → Nat
  | .hbm => 655360
  | .cellar => 507904

/-- Frames of a tier that pages of partitions may take: the rest are the maltster's and the first reserve (R232; log entry 5). -/
def poolFrames : Tier → Nat
  | .hbm => 654592
  | .cellar => 507648

/-- First frame of the first repair reserve (log entry 5). -/
def reserveFirst : Tier → Nat
  | .hbm => 654848
  | .cellar => 507648

/-- The frame is in the repair reserve. -/
def inReserve (d : Dev) (t : Tier) (f : Nat) : Bool :=
  (decide (reserveFirst t ≤ f ∧ f < tierFrames t) && !d.taken.contains (t, f) && !d.retired.contains (t, f)) || d.joined.contains (t, f)

/-- The frame holds a page or a page's copy in progress. -/
def frameUsed (d : Dev) (t : Tier) (f : Nat) : Bool :=
  d.pages.any (fun e => e.2.tier == t && e.2.frame == f) ||
  d.moves.any (fun m => m.frame == f && (match m.kind with | .evict => t == .cellar | .bring _ => t == .hbm | .swap _ => false))

/-- The frame may take a page. -/
def frameFree (d : Dev) (t : Tier) (f : Nat) : Bool :=
  (decide (f < poolFrames t) || d.taken.contains (t, f)) && !inReserve d t f && !d.retired.contains (t, f) &&
  !d.badRows.any (fun x => x.1 == t && x.2.1 == f) && !frameUsed d t f

/-- Frames at most which can be taken: a bound on the search for a free one. -/
def frameBound (d : Dev) : Nat := d.pages.length + d.moves.length + d.retired.length + d.joined.length + d.badRows.length + 1

/-- A free frame for page v of the HBM window: in stack v mod 16, else the next (R231), the lowest there (log entry 5). -/
def freeHbm (d : Dev) (v : Nat) : Option Nat :=
  (List.range 16).findSome? (fun s =>
    ((List.range (frameBound d)).map (fun i => 16 * i + (v + s) % 16)).find? (frameFree d .hbm))

/-- A free cellar frame, the lowest (log entry 5). -/
def freeCellar (d : Dev) : Option Nat := (List.range (frameBound d)).find? (frameFree d .cellar)

/-- A frame of the repair reserve. -/
def reserveFrame (d : Dev) (t : Tier) : Option Nat :=
  (d.joined.find? (fun x => x.1 == t)).map (fun x => x.2) |>.or
    (((List.range (d.taken.length + d.retired.length + 1)).map (fun i => reserveFirst t + i)).find? (inReserve d t))

/-- Takes a frame out of the reserve. -/
def takeReserve (d : Dev) (t : Tier) (f : Nat) : Dev :=
  if d.joined.contains (t, f) then { d with joined := d.joined.erase (t, f) } else { d with taken := (t, f) :: d.taken }

/-- Zeroes a frame (R230). -/
def zeroFrame (d : Dev) (t : Tier) (f : Nat) : Dev := { d with mem := memZero d.mem (framePlace t f) pageSize }

/-- Copies a frame's bytes to another. -/
def copyFrame (d : Dev) (t : Tier) (f : Nat) (t' : Tier) (f' : Nat) : Dev :=
  { d with mem := memLoad d.mem (framePlace t' f') pageSize (memCells d.mem (framePlace t f) pageSize) }

/-! Usage and quotas (R232 to R236) -/

/-- Mapped pages of a partition. -/
def pagesOf (d : Dev) (p : Nat) : List (PageKey × Page) := d.pages.filter (fun e => e.1.1 == p)

/-- Moves of a kind of a partition. -/
def movesOf (d : Dev) (p : Nat) (ok : MoveKind → Bool) : Nat := (d.moves.filter (fun m => m.key.1 == p && ok m.kind)).length

/-- An eviction is in progress. -/
def isEvict : MoveKind → Bool
  | .evict => true
  | _ => false

/-- A page comes into HBM, into a frame of its own or its victim's. -/
def comesIn : MoveKind → Bool
  | .evict => false
  | _ => true

/-- A page leaves HBM: evicted, or the victim of a swap. -/
def goesOut : MoveKind → Bool
  | .bring _ => false
  | _ => true

/-- HBM usage: a page in transit counts in both tiers (R233). -/
def hbmUsed (d : Dev) (p : Nat) : Nat :=
  ((pagesOf d p).filter (fun e => e.1.2.1 == .hbm && e.2.tier == .hbm)).length + movesOf d p comesIn

/-- Cellar usage: a page in transit counts in both tiers (R233). -/
def clrUsed (d : Dev) (p : Nat) : Nat := ((pagesOf d p).filter (fun e => e.2.tier == .cellar)).length + movesOf d p goesOut

/-- HBM quota. -/
def hbmQuota (d : Dev) (p : Nat) : Nat := getF d (F.hbmPquota_hbm_quota p)

/-- Cellar quota. -/
def clrQuota (d : Dev) (p : Nat) : Nat := getF d (F.hbmPquota_clr_quota p)

/-- Some entry of the partition's mover ring that has not resolved names page v with this operation. -/
def entryNames (e : MoverEntry) (w : Tier) (v : Nat) : Bool :=
  let base := bits e.w1 47 0
  let first := match w with | .hbm => base / pageSize | .cellar => (base - 0x020000000000) / pageSize
  let inWindow := match w with | .hbm => decide (base < 0x014000000000) | .cellar => decide (0x020000000000 ≤ base ∧ base < 0x02F800000000)
  inWindow && decide (first ≤ v ∧ v < first + bits e.w0 63 48)

/-- The unresolved entries of a partition's mover ring. -/
def moverOf (d : Dev) (p : Nat) : List MoverEntry := (Tab.get? d.mover p).getD []

/-- A deadline has passed; 0 stands for none, which never does (Table 10.3). -/
def pastDue (d : Dev) (t : Nat) : Bool := t != 0 && decide (t < ftcOf d)

/-- A page may be evicted (R235): resident, unpinned, sound, with no prefetch pending and no prefetch unread, unless its deadline has
passed. -/
def evictable (d : Dev) (p : Nat) (e : PageKey × Page) : Bool :=
  e.1.1 == p && e.1.2.1 == .hbm && e.2.tier == .hbm && !e.2.pin && e.2.poison == .sound &&
  !d.moves.any (fun m => m.key == e.1 || m.displaces e.1) &&
  !(moverOf d p).any (fun x => bits x.w0 7 4 == 0 && x.status.isNone && entryNames x .hbm e.1.2.2 && !pastDue d x.w3) &&
  (match e.2.fetched with | some t => pastDue d t | none => true)

/-- The older of two pages, the lower page number on equal ages (R235). -/
def older (a b : PageKey × Page) : PageKey × Page :=
  if b.2.age > a.2.age ∨ (b.2.age = a.2.age ∧ b.1.2.2 < a.1.2.2) then b else a

/-- The page the pool evicts next (R235). -/
def victim (d : Dev) (p : Nat) : Option (PageKey × Page) :=
  match d.pages.filter (evictable d p) with
  | [] => none
  | a :: r => some (r.foldl older a)

/-- Starts the eviction of a page. -/
def beginEvict (d : Dev) (k : PageKey) : Dev :=
  match freeCellar d with
  | some f => { d with moves := d.moves ++ [⟨k, .evict, f⟩] }
  | none => d

/-- A page's data lie in another frame. -/
def placePage (d : Dev) (k : PageKey) (t : Tier) (f : Nat) : Dev :=
  match Tab.get? d.pages k with
  | some x => { copyFrame d x.tier x.frame t f with pages := Tab.put d.pages k { x with tier := t, frame := f } }
  | none => d

/-- An eviction ends: the mapping switches and the HBM frame is free (R235). -/
def endEvict (d : Dev) (k : PageKey) (f : Nat) : Dev := addF (placePage d k .cellar f) (F.hbmMcnt_evicted k.1) 1

/-- Evicts the victim within the running command (log entry 16). -/
def evictNow (d : Dev) (p : Nat) : Option Dev :=
  if clrUsed d p < clrQuota d p then
    match victim d p, freeCellar d with
    | some e, some f => some (endEvict d e.1 f)
    | _, _ => none
  else none

/-- Makes room for one more page in HBM within the quota, after evictions (R234, R235). -/
def roomHbm (d : Dev) (p : Nat) : Nat → Option Dev
  | 0 => none
  | n + 1 =>
    if hbmUsed d p < hbmQuota d p then some d
    else match evictNow d p with
      | some e => roomHbm e p n
      | none => none

/-- Makes room for one more page in HBM; a partition over its quota gets none (R234, R236). -/
def makeRoom (d : Dev) (p : Nat) : Option Dev := if hbmUsed d p > hbmQuota d p then none else roomHbm d p (d.pages.length + 1)

/-! Mapping (R230, R234) -/

/-- A page record just mapped. -/
def Page.fresh (t : Tier) (f obj : Nat) (pin : Bool) : Page :=
  { tier := t, frame := f, obj := obj, pin := pin, src := none, age := 0, ckptClean := false, poison := .sound, stamp := 0
    fetched := none }

/-- A page is mapped: a new page is no copy of anything (R244). -/
def enterPage (d : Dev) (k : PageKey) (x : Page) : Dev :=
  { d with pages := Tab.put d.pages k { x with stamp := d.stamps }, stamps := d.stamps + 1 }

/-- Maps one zeroed page, when the tier has room (R230, R231, R234). -/
def mapPage (d : Dev) (p : Nat) (w : Tier) (v obj : Nat) (pin : Bool) : Option Dev :=
  match w with
  | .hbm =>
    match makeRoom d p with
    | some e => (freeHbm e v).map (fun f => enterPage (zeroFrame e .hbm f) (p, .hbm, v) (Page.fresh .hbm f obj pin))
    | none => none
  | .cellar =>
    if clrUsed d p < clrQuota d p then
      (freeCellar d).map (fun f => enterPage (zeroFrame d .cellar f) (p, .cellar, v) (Page.fresh .cellar f obj pin))
    else none

/-- The moves of a page's data stop (R250); a fault-in that was taking its place waits for another (log entry 75). -/
def stopMoves (d : Dev) (k : PageKey) : Dev :=
  let d := cancelEviction d k
  { d with moves := d.moves.filter (fun m => m.key != k) }

/-- Unmaps a page; pending entries naming it resolve UNMAPPED (R240). -/
def unmapPage (d : Dev) (p : Nat) (w : Tier) (v : Nat) : Dev :=
  let d := stopMoves d (p, w, v)
  { d with
    pages := Tab.erase d.pages (p, w, v)
    blocked := d.blocked.filter (fun b => !(w == .hbm && b == (p, v)))
    reads := d.reads.filter (fun r => r.key != (p, w, v))
    mover := Tab.put d.mover p ((moverOf d p).map (fun e =>
      if entryNames e w v && e.status.isNone then { e with status := some 0x03 } else e)) }

/-- Unmaps every page of a partition (R293). -/
def unmapAll (d : Dev) (p : Nat) : Dev := forEach (pagesOf d p) d (fun d e => unmapPage d p e.1.2.1 e.1.2.2)

/-! The mover (R237 to R240, R250, R251) -/

/-- Starts bringing a page into HBM, when there is room. -/
def beginBring (d : Dev) (p v : Nat) (deadline : Option Nat) : Option Dev :=
  match makeRoom d p with
  | some e => (freeHbm e v).map (fun f => { e with moves := e.moves ++ [⟨(p, .hbm, v), .bring deadline, f⟩] })
  | none => none

/-- A page is on its way into HBM. -/
def comingIn (d : Dev) (p v : Nat) : Bool := d.moves.any (fun m => m.key == (p, .hbm, v) && !isEvict m.kind)

/-- A fault-in of the partition waits: the HBM quota is met and no resident page can make room (R237). -/
def waitsForVictim (d : Dev) (p : Nat) : Bool :=
  d.blocked.any (fun x => x.1 == p) && decide (hbmQuota d p ≤ hbmUsed d p) && (victim d p).isNone

/-- A demand fault-in (R237): a frame of its own, or the victim's; without a victim it waits. -/
def faultIn (d : Dev) (p v : Nat) : Dev :=
  match pageAt d p .hbm v with
  | none => d
  | some x =>
    if x.tier = .hbm ∨ comingIn d p v = true ∨ x.poison ≠ .sound then d
    else
      let again := d.blocked.contains (p, v)
      let d := if again then { d with blocked := d.blocked.erase (p, v) } else steadyBroken (addF d (F.hbmMstat_faultins p) 1)
      if hbmUsed d p < hbmQuota d p then
        (match freeHbm d v with
         | some f => { d with moves := d.moves ++ [⟨(p, .hbm, v), .bring none, f⟩] }
         | none => d)
      else match victim d p with
        | some e => { d with moves := d.moves ++ [⟨(p, .hbm, v), .swap e.1.2.2, e.2.frame⟩] }
        | none => { d with blocked := d.blocked ++ [(p, v)] }

/-- A page has arrived in HBM; a PREFETCH's is shielded until something reads it or its deadline passes (R235). -/
def arrivePage (d : Dev) (k : PageKey) (f : Nat) (deadline : Option Nat) : Dev :=
  let d := addF (placePage d k .hbm f) (F.hbmMcnt_brought k.1) 1
  match Tab.get? d.pages k with
  | some x => { d with pages := Tab.put d.pages k { x with age := 0, fetched := deadline }, blocked := d.blocked.erase (k.1, k.2.2) }
  | none => d

/-- A page and its victim change places (R237). -/
def swapPages (d : Dev) (k u : PageKey) : Dev :=
  match Tab.get? d.pages k, Tab.get? d.pages u with
  | some x, some y =>
    let mine := memCells d.mem (framePlace x.tier x.frame) pageSize
    let its := memCells d.mem (framePlace y.tier y.frame) pageSize
    let m := memLoad (memLoad d.mem (framePlace y.tier y.frame) pageSize mine) (framePlace x.tier x.frame) pageSize its
    let d := { d with mem := m, pages := Tab.put (Tab.put d.pages k { x with tier := y.tier, frame := y.frame, age := 0 }) u
                        { y with tier := x.tier, frame := x.frame } }
    addF (addF d (F.hbmMcnt_brought k.1) 1) (F.hbmMcnt_evicted k.1) 1
  | _, _ => d

/-- A page copy completes (R235, R237). -/
def endMove (d : Dev) (k : PageKey) : Dev :=
  match d.moves.find? (fun m => m.key == k) with
  | none => d
  | some m =>
    let d := { d with moves := d.moves.erase m }
    match m.kind with
    | .evict => endEvict d k m.frame
    | .bring t => arrivePage d k m.frame t
    | .swap v => swapPages d k (k.1, .hbm, v)

/-- The pages an entry names: window and numbers; none where its address is out of place. -/
def entryPages (e : MoverEntry) : Option (Tier × List Nat) :=
  let base := bits e.w1 47 0
  let n := bits e.w0 63 48
  let v := base / pageSize
  let u := (base - 0x020000000000) / pageSize
  if base % pageSize ≠ 0 then none
  else if v + n ≤ 655360 then some (.hbm, (List.range n).map (fun i => v + i))
  else if 0x020000000000 ≤ base ∧ u + n ≤ 507904 then some (.cellar, (List.range n).map (fun i => u + i))
  else none

/-- The status of an entry that fails a check (Table 10.5). -/
def entryStatus (d : Dev) (p : Nat) (e : MoverEntry) : Option Nat :=
  let op := bits e.w0 7 4
  if op > 4 ∨ (op = 4 ∧ bits e.w0 2 1 > 1) then some 0x10
  else if bitOf e.w0 3 || bits e.w1 63 48 != 0 || bits e.w0 63 48 == 0 || !cmaskOk d p (bits e.w0 47 20) then some 0x11
  else match entryPages e with
    | none => some 0x12
    | some (w, vs) =>
      if op ≤ 2 ∧ w = .cellar then some 0x12
      else if vs.any (fun v => (pageAt d p w v).isNone) then some 0x03
      else if vs.any (fun v => match pageAt d p w v with | some x => x.poison == .lost | none => false) then some 0x06
      else none

/-- Size of a partition's mover ring. -/
def moverRing (d : Dev) (p : Nat) : Nat := 2 ^ getF d (F.hbmMring_size_log2 p)

/-- The mover picks up the entry at head (R238). -/
def pickEntry (d : Dev) (p : Nat) : Dev :=
  let a := 32 * getF d (F.hbmMring_base p) + 32 * getF d (F.hbmMhead_head p)
  if !flag d (F.hbmMring_en p) then d
  else if heldRange d p a 32 then steadyBroken d
  else if viewNat d p a 8 % 2 = 0 then d
  else
    let w (i : Nat) : Nat := viewNat d p (a + 8 * i) 8
    let e : MoverEntry := ⟨a, w 0, w 1, w 2, w 3, false, none⟩
    let d := setF (noteRead d p a 32) (F.hbmMhead_head p) ((getF d (F.hbmMhead_head p) + 1) % moverRing d p)
    { d with mover := Tab.put d.mover p (moverOf d p ++ [{ e with status := entryStatus d p e }]) }

/-- Replaces the i-th entry of a partition. -/
def setEntry (d : Dev) (p i : Nat) (e : MoverEntry) : Dev := { d with mover := Tab.put d.mover p ((moverOf d p).set i e) }

/-- The operation of an entry (Table 10.4). -/
def MoverEntry.op (e : MoverEntry) : Nat := bits e.w0 7 4

/-- The deadline of an entry, 0 for none (Table 10.3). -/
def MoverEntry.deadline (e : MoverEntry) : Nat := e.w3

/-- Entry i could begin but for the mover's order: picked up, sound, with no earlier entry naming one of its pages (R238); a move waits for
the refill of a page it names (R248). -/
def entryFree (d : Dev) (p i : Nat) : Bool :=
  match (moverOf d p)[i]? with
  | some e =>
    let clash := ((moverOf d p).take i).any (fun x => x.status.isNone &&
      (match entryPages e with | some (w, vs) => vs.any (entryNames x w) | none => false))
    let refilling := decide (e.op ≤ 2) && (match entryPages e with
      | some (w, vs) => vs.any (fun v => match pageAt d p w v with | some x => x.poison == .refilling | none => false)
      | none => false)
    !e.begun && e.status.isNone && !clash && !refilling
  | none => false

/-- An access of these bytes waits for a fault-in that has not begun and that nothing but the mover holds up (R237). -/
def wantsFaultIn (d : Dev) (p a n : Nat) : Bool :=
  (pagesTouched d p a n).any (fun wv =>
    match pageAt d p wv.1 wv.2 with
    | some x => wv.1 == .hbm && x.tier == .cellar && x.poison == .sound && !d.moves.any (fun m => m.key == (p, wv.1, wv.2)) &&
        !d.blocked.contains (p, wv.2)
    | none => false)

/-- A demand fault-in or a copy before a write of the partition waits for the mover (R239 item 1): of a host's access or a cluster's
MOV or AADD. -/
def demandWaits (d : Dev) (p : Nat) : Bool :=
  d.held.any (fun h => h.p == p && (wantsFaultIn d p h.addr h.width ||
    (h.store.isSome && !h.early && (pagesTouched d p h.addr h.width).any (fun wv => uncopied d (p, wv.1, wv.2))))) ||
  (clustersOf d p).any (fun c => (clusterOf d c).jobs.any (fun j =>
    (match j.move with
     | some m => wantsFaultIn d p m.src.base m.src.extent || wantsFaultIn d p m.dst.base m.dst.extent
     | none => false) || j.adds.any (fun a => wantsFaultIn d p a.addr a.size)))

/-- Every part of a poisoned page's refill has come and waits to be written (R239 item 2). -/
def refillWaits (d : Dev) (p : Nat) : Bool :=
  d.pages.any (fun e => e.1.1 == p && e.2.poison == .refilling &&
    (let rs := d.reads.filter (fun r => r.key == e.1); !rs.isEmpty && rs.all (fun r => r.result.isSome)))

/-- The place of a PREFETCH or PIN in the order of deadlines, those without one last (R239 item 3). -/
def MoverEntry.rank (e : MoverEntry) : Nat := if e.deadline = 0 then 2 ^ 64 else e.deadline

/-- Some other PREFETCH or PIN of the partition comes before entry i: an earlier deadline, or the same and earlier in the ring. -/
def sooner (d : Dev) (p i : Nat) (e : MoverEntry) : Bool :=
  (moverOf d p).zipIdx.any (fun x => (x.1.op == 0 || x.1.op == 2) && x.2 != i && entryFree d p x.2 &&
    (decide (x.1.rank < e.rank) || (x.1.rank == e.rank && decide (x.2 < i))))

/-- It is the turn of an entry in the mover's order (R239): work of the earlier items goes first. -/
def entryTurn (d : Dev) (p i : Nat) (e : MoverEntry) : Bool :=
  if e.op = 0 ∨ e.op = 2 then !demandWaits d p && !refillWaits d p && !sooner d p i e
  else if e.op = 1 then
    !demandWaits d p && !refillWaits d p && !(moverOf d p).zipIdx.any (fun x => (x.1.op == 0 || x.1.op == 2) && entryFree d p x.2)
  else true

/-- Entry i, of operation op, may begin now (R238, R239). -/
def entryReady (d : Dev) (p i op : Nat) : Option MoverEntry :=
  match (moverOf d p)[i]? with
  | some e => if e.op = op ∧ entryFree d p i = true ∧ entryTurn d p i e = true then some e else none
  | none => none

/-- The pool evicts the oldest unpinned page of a partition over its quota, evictions under way deducted, as the last work of the mover's
order (R236, R239). -/
def poolEvict (d : Dev) (p : Nat) : Dev :=
  let others := demandWaits d p || refillWaits d p ||
    (moverOf d p).zipIdx.any (fun x => (x.1.op == 0 || x.1.op == 2) && entryFree d p x.2)
  if hbmUsed d p - movesOf d p goesOut > hbmQuota d p ∧ clrUsed d p < clrQuota d p ∧ others = false then
    match victim d p with
    | some e => beginEvict d e.1
    | none => d
  else d

/-- Applies an action to each page of an entry until one fails with a status; the pages before it keep their state (R240). -/
def overPages (d : Dev) (act : Dev → Nat → Except Nat Dev) : List Nat → Dev × Option Nat
  | [] => (d, none)
  | v :: r => match act d v with
    | .ok e => overPages e act r
    | .error s => (d, some s)

/-- Runs an entry's action over its pages. -/
def runMover (d : Dev) (p i op : Nat) (act : Tier → Dev → Nat → Except Nat Dev) : Dev :=
  match entryReady d p i op with
  | none => d
  | some e =>
    match entryPages e with
    | some (w, vs) =>
      let r := overPages d (act w) vs
      setEntry r.1 p i { e with begun := true, status := r.2 }
    | none => d

/-- PREFETCH of one page (Table 10.4). -/
def prefetchPage (p : Nat) (deadline : Nat) (_ : Tier) (d : Dev) (v : Nat) : Except Nat Dev :=
  match pageAt d p .hbm v with
  | some x =>
    let d := cancelEviction d (p, .hbm, v)
    if x.tier = .hbm ∨ comingIn d p v = true then .ok d
    else match beginBring d p v (some deadline) with
      | some e => .ok e
      | none => .error 0x04
  | none => .error 0x03

/-- EVICT of one page (Table 10.4, R240). -/
def evictPage (p : Nat) (_ : Tier) (d : Dev) (v : Nat) : Except Nat Dev :=
  match pageAt d p .hbm v with
  | some x =>
    if x.pin then .error 0x05
    else if x.tier = .cellar ∨ d.moves.any (fun m => m.key == (p, .hbm, v) || m.displaces (p, .hbm, v)) = true then .ok d
    else if clrUsed d p < clrQuota d p then .ok (beginEvict d (p, .hbm, v))
    else .error 0x04
  | none => .error 0x03

/-- PIN of one page: it cancels an eviction and brings the page in (Table 10.4, R240). -/
def pinPage (p : Nat) (_ : Tier) (d : Dev) (v : Nat) : Except Nat Dev :=
  match pageAt d p .hbm v with
  | some x =>
    let pinned (d : Dev) : Dev := setPage (cancelEviction d (p, .hbm, v)) p .hbm v { x with pin := true }
    if x.tier = .hbm ∨ comingIn d p v = true then .ok (pinned d)
    else match beginBring d p v none with
      | some e => .ok (pinned e)
      | none => .error 0x04
  | none => .error 0x03

/-- UNPIN of one page (Table 10.4). -/
def unpinPage (p : Nat) (w : Tier) (d : Dev) (v : Nat) : Except Nat Dev :=
  match pageAt d p w v with
  | some x => .ok (setPage d p w v { x with pin := false })
  | none => .error 0x03

/-- SETSRC of one page (Tables 10.2 to 10.4). -/
def setsrcPage (p : Nat) (src : Nat → Option (Nat × Nat × Nat)) (w : Tier) (d : Dev) (v : Nat) : Except Nat Dev :=
  match pageAt d p w v with
  | some x => .ok (setPage d p w v { x with src := src v })
  | none => .error 0x03

/-- The source an entry sets on its page v: the owner's pages follow in order. -/
def entrySource (e : MoverEntry) (v : Nat) : Option (Nat × Nat × Nat) :=
  if bits e.w0 2 1 = 0 then none
  else
    let first := match entryPages e with | some (_, u :: _) => u | _ => v
    some (bits e.w2 63 48, bits e.w3 1 0, bits e.w2 47 0 + pageSize * (v - first))

/-- The entry at place i of a partition's unresolved entries. -/
def entryAt (d : Dev) (p i : Nat) : MoverEntry := ((moverOf d p)[i]?).getD ⟨0, 0, 0, 0, 0, false, none⟩

/-- Every page of an entry is done: none is on its way. -/
def entryDone (d : Dev) (p : Nat) (e : MoverEntry) : Bool :=
  e.begun && (match entryPages e with
    | some (w, vs) => !d.moves.any (fun m => m.key.1 == p && m.key.2.1 == w && vs.contains m.key.2.2)
    | none => true)

/-- Writes an entry's status and own = 0, and posts its event (R238). -/
def resolveEntry (d : Dev) (p i s : Nat) : Dev :=
  match (moverOf d p)[i]? with
  | none => d
  | some e =>
    let w := e.w0 - bits e.w0 15 8 * 2 ^ 8 - e.w0 % 2 + s * 2 ^ 8
    let d := viewWriteNat { d with mover := Tab.put d.mover p ((moverOf d p).eraseIdx i) } p e.slot 8 w
    let d := if s = 0x02 then satF d (F.hbmMstat_late p) 1 else d
    if cmaskOk d p (bits e.w0 47 20) then postMask d (bits e.w0 47 20) (bits e.w0 19 16) else d

/-- An entry whose fate is decided resolves (R238, R239). -/
def settleEntry (d : Dev) (p i : Nat) : Dev :=
  match (moverOf d p)[i]? with
  | none => d
  | some e =>
    if heldWrite d p e.slot 32 then steadyBroken d
    else match e.status with
      | some s => resolveEntry d p i s
      | none =>
        if entryDone d p e then
          let late := bits e.w0 7 4 % 2 == 0 && decide (bits e.w0 7 4 ≤ 2) && e.deadline != 0 && decide (e.deadline < ftcOf d)
          resolveEntry d p i (if late then 0x02 else 0x01)
        else d

/-- Clearing en resolves every picked-up entry ABORTED; page moves complete (R250). -/
def stopMoverRing (d : Dev) (p : Nat) : Dev :=
  let d := forEach (List.range (moverOf d p).length) d (fun d _ => resolveEntry d p 0 0x16)
  setF (setF d (F.hbmMring_en p) 0) (F.hbmMhead_head p) 0

/-- A store to HBM_MRINGp (R251, R250, R10). -/
def moverRingWrite (d : Dev) (p v : Nat) : Dev :=
  let en := bitOf v 63
  let n := bits v 51 48
  let put (d : Dev) : Dev :=
    let d := setF d (F.hbmMring_base p) (bits v 47 5)
    if 2 ≤ n ∧ n ≤ 12 then setF d (F.hbmMring_size_log2 p) n else setF d (F.hbmMstat_wr_err p) 1
  if flag d (F.hbmMring_en p) then
    (if en then setF d (F.hbmMstat_wr_err p) 1 else put (stopMoverRing d p))
  else
    let d := put d
    if !en then d
    else
      let a := 32 * getF d (F.hbmMring_base p)
      let size := getF d (F.hbmMring_size_log2 p)
      if 2 ≤ size ∧ size ≤ 12 ∧ a + 32 * 2 ^ size ≤ 0x014000000000 then
        setF d (F.hbmMring_en p) 1
      else setF d (F.hbmMstat_ring_err p) 1

/-! Errors and poison (R246 to R249) -/

/-- The device that counts an error at a granule of a frame (Table 10.12). -/
def frameDevice (t : Tier) (f g : Nat) : Nat := (granulePlace t f g).1

/-- Fields of the device's counters (Table 10.12). -/
def devCe (t : Tier) (n : Nat) : FKey := match t with | .hbm => F.hbmDev_ce_count n | .cellar => F.clrDev_ce_count n
/-- Uncorrectable errors of a device. -/
def devUe (t : Tier) (n : Nat) : FKey := match t with | .hbm => F.hbmDev_ue_count n | .cellar => F.clrDev_ue_count n
/-- Retired frames of a device. -/
def devRetired (t : Tier) (n : Nat) : FKey := match t with | .hbm => F.hbmDev_retired n | .cellar => F.clrDev_retired n
/-- Repairs of a device. -/
def devRepairs (t : Tier) (n : Nat) : FKey := match t with | .hbm => F.hbmDev_repairs n | .cellar => F.clrDev_repairs n

/-- The page a frame holds. -/
def pageOfFrame (d : Dev) (t : Tier) (f : Nat) : Option (PageKey × Page) :=
  d.pages.find? (fun e => e.2.tier == t && e.2.frame == f)

/-- Records the outcome of a poisoning (Table 10.11). -/
def logPoison (d : Dev) (k : PageKey) (x : Page) (outcome : Nat) : Dev :=
  let d := setF (setF (setF d F.hbmUeLog_valid 1) F.hbmUeLog_outcome outcome) F.hbmUeLog_tier (b2n (x.tier == .cellar))
  setF (setF (setF d F.hbmUeLog_part k.1) F.hbmUeLog_page k.2.2) F.hbmUeLog_frame x.frame

/-- A READ may go to coordinates: routed through an UP port and not refused (R249, R268). -/
def reachable (d : Dev) (p dst : Nat) : Bool :=
  dst != ownCoord d && fabShare d p != 0 &&
  (match routePort d (if inSlice d p dst then some p else none) (ownCoord d) dst with
   | some n => portUp d n
   | none => false) &&
  (inSlice d p dst || !Config.transitRefused dst)

/-- The clean copy of a page (R248): the owner's page, else the last complete buddy generation's; with the outcome recorded when
it has come. -/
def cleanCopy (d : Dev) (k : PageKey) (x : Page) : Option (Nat × Nat × Nat × Nat) :=
  match x.src with
  | some (m, q, a) => some (0, m, q, a)
  | none =>
    if x.ckptClean then
      match Tab.get? d.buddies k.1 with
      | some s => (s.keys.findIdx? (fun e => e == k)).map (fun i => (1, s.module, s.part, s.addr + pageSize * (i + 1)))
      | none => none
    else none

/-- Sends the READs that fetch a page from a module (R248, R256). -/
def fetchPage (d : Dev) (k : PageKey) (m q a : Nat) : Dev :=
  forEach (List.range 128) d (fun d i =>
    let r := d.readNext % 65536
    let d := { d with readNext := d.readNext + 1, reads := d.reads ++ [⟨r, k, 16384 * i, 16384, none⟩] }
    sendTo d { kind := 1, part := k.1, src := getF d F.fabCoord_module, dst := (Config.moduleCoord m).toNat, dpart := q, tag := r
               addr := a + 16384 * i, length := 16384, epoch := 0, inst := 0, step := 0, sig := 0, data := [] } false)

/-- Changes the partition's entries without a status that name page k. -/
def modNaming (d : Dev) (k : PageKey) (g : MoverEntry → MoverEntry) : Dev :=
  { d with mover := Tab.put d.mover k.1 ((moverOf d k.1).map (fun e =>
      if e.status.isNone && entryNames e k.2.1 k.2.2 then g e else e)) }

/-- The page's data are lost: held accesses are released to fault, both flags are set, and entries naming the page resolve POISONED
(R249, Table 10.5). -/
def losePage (d : Dev) (k : PageKey) (x : Page) : Dev :=
  let d := modNaming d k (fun e => { e with status := some 0x06 })
  let d := { d with pages := Tab.put d.pages k { x with poison := .lost }, reads := d.reads.filter (fun r => r.key != k) }
  setDataFault (logPoison d k x 2) k.1

/-- Errors counted against a row of a frame (R247). -/
def rowErrs (d : Dev) (t : Tier) (f row : Nat) : Nat := (Tab.get? d.frameErrs (t, f, row)).getD 0

/-- A correctable error of a row, at a granule of its frame, is counted (R246, R247). -/
def noteCorrectable (d : Dev) (t : Tier) (f g row : Nat) : Dev :=
  { satF d (devCe t (frameDevice t f g)) 1 with frameErrs := Tab.put d.frameErrs (t, f, row) (rowErrs d t f row + 1) }

/-- A page's data are bad: it is poisoned (R248); its moves stop, and an entry that moves it begins again after the refill (R250, log
entry 75). -/
def poisonData (d : Dev) (k : PageKey) : Dev :=
  match Tab.get? d.pages k with
  | none => d
  | some x =>
    if x.poison ≠ .sound then d
    else
      let d := steadyBroken (stopMoves d k)
      let d := modNaming d k (fun e => if bits e.w0 7 4 ≤ 2 then { e with begun := false } else e)
      match cleanCopy d k x with
      | some (_, m, q, a) =>
        if reachable d k.1 (Config.moduleCoord m).toNat then
          fetchPage { d with pages := Tab.put d.pages k { x with poison := .refilling } } k m q a
        else losePage d k x
      | none => losePage d k x

/-- An uncorrectable error, in a row at a granule of the page's frame, is counted there (R246, R247) and poisons the page (R248). -/
def poisonPage (d : Dev) (k : PageKey) (g row : Nat) : Dev :=
  match Tab.get? d.pages k with
  | none => d
  | some x =>
    if x.poison ≠ .sound then d
    else
      let d := satF d (devUe x.tier (frameDevice x.tier x.frame g)) 1
      poisonData { d with badRows := (x.tier, x.frame, row) :: d.badRows } k

/-- What the READs of a page's refill brought, by offset in the page; none while one is outstanding (R248). -/
def refillData (d : Dev) (k : PageKey) : Option (List Host.Cell) :=
  let rs := d.reads.filter (fun r => r.key == k)
  if rs.isEmpty || rs.any (fun r => r.result.isNone) then none
  else some (rs.foldl (fun m r => match r.result with | some x => memPutList m r.off (x.2.take r.len) | none => m) [])

/-- The clean copy has come: it stands in a reserve frame and poison clears (R248). -/
def refillPage (d : Dev) (k : PageKey) : Dev :=
  match Tab.get? d.pages k, refillData d k with
  | some x, some data =>
    if x.poison ≠ .refilling then d
    else match reserveFrame d x.tier with
      | none => moduleFault d (.reserve x.tier)
      | some f =>
        let d := takeReserve d x.tier f
        let outcome := match cleanCopy d k x with | some c => c.1 | none => 0
        let d := { d with mem := memLoad d.mem (framePlace x.tier f) pageSize data
                          reads := d.reads.filter (fun r => r.key != k) }
        logPoison { d with pages := Tab.put d.pages k { x with frame := f, poison := .sound, age := 0 } } k x outcome
  | _, _ => d

/-- A refill has not come within 10 ms (R249). -/
def timeoutRefill (d : Dev) (k : PageKey) : Dev :=
  match Tab.get? d.pages k with
  | some x => if x.poison = .refilling then losePage d k x else d
  | none => d

/-- One thing a patrol read of a frame found in a row (R246, R247, R249). -/
def patrolRow (d : Dev) (t : Tier) (f : Nat) (x : RowFound) : Dev :=
  match x.found with
  | .clean => d
  | .correctable _ => noteCorrectable d t f x.granule x.row
  | .uncorrectable =>
    match pageOfFrame d t f with
    | some e => poisonPage d e.1 x.granule x.row
    | none => { satF d (devUe t (frameDevice t f x.granule)) 1 with badRows := (t, f, x.row) :: d.badRows }

/-- The patrol has read a frame: a pass is complete once every frame of both tiers has been read in it (R246). -/
def notePatrol (d : Dev) (t : Tier) (f : Nat) : Dev :=
  let l := if d.patrolled.contains (t, f) then d.patrolled else (t, f) :: d.patrolled
  if l.length ≥ tierFrames .hbm + tierFrames .cellar then addF { d with patrolled := [] } F.hbmScrub_passes 1
  else { d with patrolled := l }

/-- A patrol read of a frame (R246). -/
def patrolFrame (d : Dev) (t : Tier) (f : Nat) (errors : List RowFound) : Dev :=
  if f ≥ tierFrames t then d else notePatrol (forEach errors d (fun d x => patrolRow d t f x)) t f

/-- A frame leaves use (R247, Table 15.13). -/
def retireFrame (d : Dev) (t : Tier) (f g : Nat) : Dev :=
  let d := { d with retired := (t, f) :: d.retired, joined := d.joined.erase (t, f)
                    badRows := d.badRows.filter (fun x => !(x.1 == t && x.2.1 == f)) }
  satF (satF d (devRetired t (frameDevice t f g)) 1) (match t with | .hbm => F.telWear3_hbm_retired | .cellar => F.telWear3_clr_retired) 1

/-- The row is soft-repaired and recorded for hard repair, and its frame joins the reserve once no other row of it awaits repair; without a
spare row the frame is retired (R247). -/
def mendFrame (d : Dev) (t : Tier) (f g row : Nat) (spareRow : Bool) : Dev :=
  let d := { d with badRows := d.badRows.filter (fun x => x != (t, f, row)), frameErrs := Tab.erase d.frameErrs (t, f, row) }
  if spareRow then
    let d := satF { d with hardRows := (t, f, row) :: d.hardRows } (devRepairs t (frameDevice t f g)) 1
    if inReserve d t f || d.badRows.any (fun x => x.1 == t && x.2.1 == f) then d else { d with joined := (t, f) :: d.joined }
  else retireFrame d t f g

/-- A row needs repair: a second correctable error, or an uncorrectable one (R247). -/
def rowBad (d : Dev) (t : Tier) (f row : Nat) : Bool := decide (rowErrs d t f row ≥ 2) || d.badRows.contains (t, f, row)

/-- A row that needs repair (R247): its frame's page goes to a reserve frame, then the row is repaired or the frame retired. An
uncorrectable one waits until the page is recovered. -/
def repairRow (d : Dev) (t : Tier) (f g row : Nat) (spareRow : Bool) : Dev :=
  if f ≥ tierFrames t || !rowBad d t f row then d
  else match pageOfFrame d t f with
    | none => mendFrame d t f g row spareRow
    | some e =>
      if e.2.poison ≠ .sound then d
      else match reserveFrame d t with
        | none => moduleFault d (.reserve t)
        | some r => mendFrame (steadyBroken (placePage (takeReserve d t r) e.1 t r)) t f g row spareRow

/-- Every page is a millisecond older (R231). -/
def agePages (d : Dev) : Dev := { d with pages := d.pages.map (fun e => (e.1, { e.2 with age := min 65535 (e.2.age + 1) })) }

/-! Snapshots (R243 to R245) -/

/-- The pages of a range list; none where a range is reserved, misaligned or unmapped: 0x10 or 0x12. -/
def rangePagesOf (d : Dev) (p : Nat) : List (Nat × Nat) → Except Nat (List PageKey)
  | [] => .ok []
  | (a, n) :: r =>
    if a ≥ 2 ^ 48 ∨ n ≥ 2 ^ 32 then .error 0x10
    else if a % pageSize ≠ 0 then .error 0x12
    else
      let w : Tier := if a < 0x014000000000 then .hbm else .cellar
      let v := if a < 0x014000000000 then a / pageSize else (a - 0x020000000000) / pageSize
      if a ≥ 0x014000000000 ∧ a < 0x020000000000 then .error 0x12
      else if (pagesOf d p).length < n then .error 0x12
      else if (List.range n).any (fun i => (pageAt d p w (v + i)).isNone) then .error 0x12
      else match rangePagesOf d p r with
        | .ok ks => .ok ((List.range n).map (fun i => (p, w, v + i)) ++ ks)
        | .error s => .error s

/-- The entries of a snapshot's range list. -/
def snapRanges (d : Dev) (p : Nat) (r : SnapReq) : List (Nat × Nat) :=
  (List.range r.count).map (fun i => (viewNat d p (r.list + 16 * i) 8, viewNat d p (r.list + 16 * i + 8) 8))

/-- The bytes of a page from its listed cells. -/
def pageBytes (cs : List Host.Cell) : List Byte := (List.range pageSize).map (fun i => memGet cs i)

/-- The header page's bytes (R243), without its trailing zeros. -/
def snapHeader (d : Dev) (p : Nat) (s : Snap) : List Byte :=
  let data := s.pages.flatMap (fun e => pageBytes (e.cells.getD []))
  leBytes 8 s.gyle ++ leBytes 8 (getF d F.fabCoord_module + p * 2 ^ 16) ++ leBytes 8 s.pages.length ++ leBytes 8 0 ++ sm3 data ++ s.ranges

/-- A page as it stands. -/
def pageCells (d : Dev) (k : PageKey) : Option (List Host.Cell) :=
  match Tab.get? d.pages k with
  | some x => if x.poison = .sound then some (memCells d.mem (framePlace x.tier x.frame) pageSize) else none
  | none => none

/-- Sends bytes to a module in WRITE messages (R255). -/
def sendWrites (d : Dev) (p m q a : Nat) (l : List Byte) : Dev :=
  forEach (chunks 16384 (l.length / 16384 + 1) 0 l) d (fun d x =>
    sendTo d { kind := 0, part := p, src := getF d F.fabCoord_module, dst := (Config.moduleCoord m).toNat, dpart := q, tag := 0
               addr := a + x.1, length := x.2.length, epoch := 0, inst := 0, step := 0, sig := 0, data := x.2 } false)

/-- A snapshot ends with a status: state 2 done, 3 failed. -/
def endSnap (d : Dev) (p st status : Nat) : Dev :=
  setF (setF (setF d (F.clrSnap_state p) st) (F.clrSnap_status p) status) (F.clrSnap_abort p) 0

/-- The status of a snapshot that cannot start (Table 10.6), or its pages. -/
def snapCheck (d : Dev) (p : Nat) (r : SnapReq) : Except Nat (List PageKey) :=
  if r.count = 0 then .error 0x10
  else if !rangePages d p r.list (16 * r.count) then .error 0x12
  else match rangePagesOf d p (snapRanges d p r) with
    | .error s => .error s
    | .ok ks =>
      let badTarget := r.addr % pageSize != 0 || decide (r.addr < 0x020000000000 ∨ r.addr ≥ 0x02F800000000)
      let room := (List.range (ks.length + 1)).all (fun i =>
        (pageAt d p .cellar ((r.addr - 0x020000000000) / pageSize + i)).isSome)
      if badTarget || (r.kind == 1 && !room) then .error 0x12
      else if r.kind = 0 ∧ (reachable d p (Config.moduleCoord r.module).toNat = false ∨
          Config.buddyAccepts r.module r.addr (getF d F.fabCoord_module) ks.length = false) then .error 0x03
      else if ks.any (fun k => match Tab.get? d.pages k with | some x => x.poison == .lost | none => true) then .error 0x04
      else .ok ks

/-- A snapshot starts (R243): the snapshot instant, from which writes to listed pages wait for their copy (R242), but for those held
already, or the status that refuses it. -/
def beginSnap (d : Dev) (p : Nat) (r : SnapReq) : Dev :=
  match snapCheck d p r with
  | .error s => endSnap d p 3 s
  | .ok ks =>
    let s : Snap := ⟨r.kind, r.gyle, r.module, r.addr, ks.map (fun k => ⟨k, none, 0⟩), viewRead d p r.list (16 * r.count)⟩
    let d := noteRead d p r.list (16 * r.count)
    let d := { d with snaps := Tab.put d.snaps p s
                      held := d.held.map (fun h => if h.p = p then { h with early := true } else h) }
    setF (setF d (F.clrSnap_state p) 1) (F.clrSnap_status p) 0

/-- The snapshot the registers ask for. -/
def snapRegs (d : Dev) (p : Nat) : SnapReq :=
  { kind := getF d (F.clrSnap_kind p), gyle := getF d (F.clrSnap_gyle p), module := getF d (F.clrSnapt_module p)
    addr := getF d (F.clrSnapt_addr p), list := 16 * getF d (F.clrSnapl_base p), count := getF d (F.clrSnapl_count p) }

/-- A page of the range list is held: it is brought in first (R237, R248). -/
def listHeld (d : Dev) (p : Nat) (r : SnapReq) : Bool := heldRange d p r.list (16 * r.count)

/-- The start that the registers ask for is accepted or refused (Table 10.13), once its range list can be read. -/
def startSnap (d : Dev) (p : Nat) : Dev :=
  if listHeld d p (snapRegs d p) then
    steadyBroken (if flag d (F.clrSnap_start p) then d
      else { setF d (F.clrSnap_start p) 1 with snapAt := Tab.put d.snapAt p d.mbxNext })
  else beginSnap (setF d (F.clrSnap_start p) 0) p (snapRegs d p)

/-- A store to CLR_SNAPp (R243, R251, R306, Table 10.13): while a snapshot copies, a start waits for its end. -/
def snapWrite (d : Dev) (p v : Nat) : Dev :=
  let d := if bitOf v 61 then setF d (F.clrSnap_wr_err p) 0 else d
  if getF d (F.clrSnap_state p) = 1 then
    let d := setF d (F.clrSnap_wr_err p) 1
    let d := if bitOf v 63 && !flag d (F.clrSnap_start p) then
        { setF d (F.clrSnap_start p) 1 with snapAt := Tab.put d.snapAt p d.mbxNext } else d
    if bitOf v 62 then endSnap d p 3 0x02 else d
  else
    let d := setF (setF d (F.clrSnap_kind p) (bits v 60 60)) (F.clrSnap_gyle p) (bits v 47 0)
    if bitOf v 63 then startSnap d p else d

/-- A listed page copied now, where it is not yet and can be: a page being refilled waits (R243, R250). -/
def SnapPage.copy (d : Dev) (e : SnapPage) : SnapPage :=
  match e.cells, pageCells d e.key, Tab.get? d.pages e.key with
  | none, some cs, some x => { e with cells := some cs, stamp := x.stamp }
  | _, _, _ => e

/-- The mover copies a listed page of the running snapshot, as a write to it asks (R239, R242). -/
def copyPage (d : Dev) (k : PageKey) : Dev :=
  match Tab.get? d.snaps k.1 with
  | some s =>
    if uncopied d k then
      { d with snaps := Tab.put d.snaps k.1 { s with pages := s.pages.map (fun e => if e.key = k then e.copy d else e) } }
    else d
  | none => d

/-- PAGE_MOVE_COMPLETE: the page's move between the tiers ends, or with none its copy for the running snapshot (R235, R242). -/
def completeMove (d : Dev) (k : PageKey) : Dev := if d.moves.any (fun m => m.key == k) then endMove d k else copyPage d k

/-- The snapshot with every page that can be copied copied. -/
def fillSnap (d : Dev) (s : Snap) : Snap := { s with pages := s.pages.map (fun e => e.copy d) }

/-- Writes bytes to a page of a partition's cellar window. -/
def writeCellar (d : Dev) (p a : Nat) (cs : List Host.Cell) : Dev :=
  match pageAt d p .cellar ((a - 0x020000000000) / pageSize) with
  | some x => noteWrite { d with mem := memLoad d.mem (framePlace x.tier x.frame) pageSize cs } p a 1
  | none => d

/-- Listed cells of bytes from offset 0. -/
def cellsOf (l : List Byte) : List Host.Cell := (l.zipIdx.filter (fun x => x.1 != 0)).map (fun x => (x.2, x.1))

/-- The partition of a peer whose region a buddy snapshot writes (R244). -/
def peerPart (d : Dev) (s : Snap) : Nat := (Config.buddyPart s.module s.addr (getF d F.fabCoord_module)).toNat

/-- Every page and the header are visible at the target (R243): a draw's in the own cellar, a buddy snapshot's in the peer's region, whose
acknowledgement is then awaited (R244, R245). -/
def completeSnap (d : Dev) (p : Nat) : Dev :=
  match Tab.get? d.snaps p with
  | none => d
  | some s0 =>
    if getF d (F.clrSnap_state p) ≠ 1 then d
    else
      let s := fillSnap d s0
      if s.pages.any (fun e => e.cells.isNone && (match Tab.get? d.pages e.key with | some x => x.poison == .lost | none => true)) then
        endSnap d p 3 0x04
      else if s.pages.any (fun e => e.cells.isNone) then d
      else
        let d := { d with snaps := Tab.put d.snaps p s }
        let head := snapHeader d p s
        let d := if s.kind = 1 then
            forEach s.pages.zipIdx (writeCellar d p s.addr (cellsOf head)) (fun d e =>
              writeCellar d p (s.addr + pageSize * (e.2 + 1)) (e.1.cells.getD []))
          else
            let d := { d with acks := Tab.put d.acks p ((Tab.get? d.acks p).getD [] ++ [s]) }
            sendWrites (forEach s.pages.zipIdx d (fun d e =>
              sendWrites d p s.module (peerPart d s) (s.addr + pageSize * (e.2 + 1)) (pageBytes (e.1.cells.getD []))))
              p s.module (peerPart d s) s.addr head
        endSnap d p 2 0x01

/-- A peer's snapshot is complete in this partition's buddy region, and the source is told (R244). -/
def completeGeneration (d : Dev) (p src gyle : Nat) : Dev :=
  if flag d (F.clrBuddy_en p) && getF d (F.clrBuddySrc_src p) == src then
    let d := { d with acked := (src, p, gyle % 2 ^ 48) :: d.acked }
    setF (setF (setF d (F.clrBuddy_gen p) (1 - getF d (F.clrBuddy_gen p))) (F.clrBuddy_valid p) 1)
      (F.clrBuddySrc_last_gyle p) gyle
  else d

/-- The source receives the acknowledgement of its oldest unacknowledged buddy snapshot (R244): listed pages not written since their
copy are clean, every other page is not. -/
def ackSnap (d : Dev) (p : Nat) : Dev :=
  match (Tab.get? d.acks p).getD [] with
  | s :: r =>
    { d with
      acks := Tab.put d.acks p r
      buddies := Tab.put d.buddies p ⟨s.module, peerPart d s, s.addr, s.pages.map (fun e => e.key)⟩
      pages := d.pages.map (fun e => if e.1.1 = p then
        (e.1, { e.2 with ckptClean := s.pages.any (fun k => k.key == e.1 && k.stamp == e.2.stamp) }) else e) }
  | [] => d

/-- A store to CLR_BUDDYp (R251). -/
def buddyWrite (d : Dev) (p v : Nat) : Dev :=
  let put (d : Dev) : Dev :=
    let d := setF (setF d (F.clrBuddy_gpages p) (bits v 58 40)) (F.clrBuddy_base p) (bits v 18 0)
    let d := setF d (F.clrBuddy_en p) (bits v 63 63)
    if bitOf v 63 then setF d (F.clrBuddy_valid p) 0 else d
  if flag d (F.clrBuddy_en p) && bitOf v 63 then setF d (F.clrSnap_wr_err p) 1 else put d

end Sys2Proof.Machine
end

