-- ==== Sys2Proof/Machine/Access.lean ====
section
/-! DEFINITION. Accesses from outside a cluster: host loads and stores to memory (R310, R311, R331, R217, R220, R30), the accesses
a page holds (R237, R248), and the fabric's WRITE, READ and RESP messages (R255, R256). -/

namespace Sys2Proof.Machine

/-! Memory accesses of a host -/

/-- A store of n bytes to scratchpad offset off of cluster c, each byte by f of the old and the new one (R217, R220, R30). -/
def hostSpad (d : Dev) (p c off n : Nat) (f : Byte → Byte → Byte) (v : Word) : Dev :=
  let who := Agent.host (Fin.ofNat 4 p)
  if off + n > 0x4000000 then accessError d who
  else if !banksOpen d c off n then foreignAccess d who c
  else if protectedHit d c off n then protectedWrite d who c
  else { reachCluster d c with mem := applyBytes f d.mem (spadBase c + off) v (BitVec.ofNat 8 (2 ^ n - 1)) 8, bus := .none }

/-- A load of n bytes of the view, which its reader may read. -/
def hostLoad (d : Dev) (p a n : Nat) : Dev :=
  let v := viewNat d p a n
  { noteRead d p a n with bus := .value (BitVec.ofNat 64 v) }

/-- A load of n bytes of a scratchpad, plain or through an alias (R217, R220); its word may hold an error: an uncorrectable one gives no
data (R221). -/
def hostSpadLoad (d : Dev) (p c a off n : Nat) (found : Found) : Dev :=
  if off + n > 0x4000000 then accessError d (.host (Fin.ofNat 4 p))
  else if !banksOpen d c off n then foreignAccess d (.host (Fin.ofNat 4 p)) c
  else
    let e := bankError (hostLoad d p a n) c (off / 0x200000) (off % 0x200000 / 64) found
    if found = .uncorrectable then { e with bus := .none } else e

/-- A host access of n bytes to memory of partition p's view that no page holds (R331, R310). -/
def memoryAccess (d : Dev) (p a n : Nat) (store : Option Word) (found : Found) : Dev :=
  let who := Agent.host (Fin.ofNat 4 p)
  match placeOf d p a, store with
  | .page _ _ _, none => if rangePages d p a n then hostLoad d p a n else accessError d who
  | .page _ _ _, some v => if rangePages d p a n then { viewWriteNat d p a n v.toNat with bus := .none } else accessError d who
  | .spad c off, none => hostSpadLoad d p c a off n found
  | .spad c off, some v => hostSpad d p c off n (fun _ b => b) v
  | .staging _ off, none => if off + n > 0x10000 then accessError d who else hostLoad d p a n
  | .staging _ off, some v =>
    if off + n > 0x10000 then accessError d who else { viewWriteNat d p a n v.toNat with bus := .none }
  | .aliasSet c off, none => hostSpadLoad d p c a off n found
  | .aliasSet c off, some v => hostSpad d p c off n (fun old b => old ||| b) v
  | .aliasClear c off, none => hostSpadLoad d p c a off n found
  | .aliasClear c off, some v => hostSpad d p c off n (fun old b => old &&& ~~~b) v
  | _, _ => accessError d who

/-- A host access waits for a page (R237, R248), or as a write for a snapshot's copy (R242, R243). -/
def mustHold (d : Dev) (h : HeldAccess) : Bool :=
  if h.store.isSome && !h.early then heldWrite d h.p h.addr h.width else heldRange d h.p h.addr h.width

/-- A host access is held; in STEADY that breaks steadiness (R241). -/
def holdAccess (d : Dev) (h : HeldAccess) : Dev := steadyBroken { d with held := d.held ++ [h], bus := .held }

/-- What the read of an access's first byte found in DRAM: an error that is counted (R246), or one that poisons the page (R248). -/
def pageFound (d : Dev) (p a : Nat) (found : Found) (row : Nat) : Dev :=
  match placeOf d p a with
  | .page w v off =>
    match pageAt d p w v, found with
    | some x, .correctable _ => if x.poison = .lost then d else noteCorrectable d x.tier x.frame (granuleOf x.tier off) row
    | some x, .uncorrectable => poisonPage d (p, w, v) (granuleOf x.tier off) row
    | _, _ => d
  | _ => d

/-- A host access to memory: held while a page of it is, before or after what its read found, else made. -/
def hostMemory (d : Dev) (p a n : Nat) (store : Option Word) (found : Found) (row : Nat) : Dev :=
  let h : HeldAccess := ⟨p, a, n, store, false⟩
  if mustHold d h then holdAccess d h
  else
    let e := pageFound d p a found row
    if mustHold e h then holdAccess e h else memoryAccess e p a n store found

/-- A held access is tried again. -/
def retryAccess (d : Dev) (h : HeldAccess) : Dev := if mustHold d h then holdAccess d h else memoryAccess d h.p h.addr h.width h.store .clean

/-- Held accesses are retried in arrival order; those whose page is still away stay (R237, R248, R249). -/
def retryHeld (d : Dev) : Dev := forEach d.held { d with held := [] } retryAccess

/-- A state change that may let held accesses go on. -/
def thenRetry (f : Dev → Dev) (d : Dev) : Dev := retryHeld (f d)

/-! Messages (R255, R256) -/

/-- Address in partition p's view of an access of module src: its buddy region shows the generation being written to writes and
the last complete one to reads (R244; log entry 23). -/
def buddyAddr (d : Dev) (p src a : Nat) (write : Bool) : Nat :=
  let base := 0x020000000000 + pageSize * getF d (F.clrBuddy_base p)
  let size := pageSize * getF d (F.clrBuddy_gpages p)
  if flag d (F.clrBuddy_en p) && getF d (F.clrBuddySrc_src p) == src && decide (base ≤ a ∧ a < base + size) then
    a + size * (if write then 1 - getF d (F.clrBuddy_gen p) else getF d (F.clrBuddy_gen p))
  else a

/-- Every byte of the range lies in memory of the view, and in open banks where it is a scratchpad's (R217, R310). -/
def fabricMay (d : Dev) (p a n : Nat) : Bool := rangeMapped d p a n && (shutBanks d a n).isEmpty

/-- A non-owner access of the fabric engine counts at the banks (R217). -/
def fabricDenied (d : Dev) (p a n : Nat) : Dev := if rangeMapped d p a n then engineDeny d p a n else d

/-- A message's bytes are written to the view: those of a program region that is protected are discarded, all of them (R30). -/
def guardedPut (d : Dev) (p a : Nat) (l : List Byte) : Dev :=
  if (guardedAt d a l.length).isEmpty then viewWrite d p a l
  else forEach (guardedAt d a l.length) d (fun d c => deniedWrite d p c)

/-- A WRITE message arrives (R255): its payload goes to its partition's view; an access it may not make, or one into a protected
program region (R30), is discarded. While a page of it is held, it waits. -/
def writeMessage (d : Dev) (n vc : Nat) : Dev :=
  let at' (m : Msg) : Nat := buddyAddr d m.dpart m.src m.addr true
  match takeMsg d n vc 0 (fun m => !heldWrite d m.dpart (at' m) m.data.length) with
  | none => if (takeMsg d n vc 0 (fun _ => true)).isSome then steadyBroken d else d
  | some (m, e) =>
    let a := at' m
    let k := m.data.length
    if fabricMay d m.dpart a k then guardedPut e m.dpart a m.data else fabricDenied e m.dpart a k

/-- A READ message is served (R256): RESP with the bytes, or an access error, or the bytes of a lost page (R249). -/
def readMessage (d : Dev) (n vc : Nat) : Dev :=
  let at' (m : Msg) : Nat := buddyAddr d m.dpart m.src m.addr false
  match takeMsg d n vc 1 (fun m => !heldRange d m.dpart (at' m) m.length) with
  | none => if (takeMsg d n vc 1 (fun _ => true)).isSome then steadyBroken d else d
  | some (m, e) =>
    let a := at' m
    let ok := fabricMay d m.dpart a m.length && decide (1 ≤ m.length ∧ m.length ≤ 16384)
    let lost := (pagesTouched d m.dpart a m.length).any (fun wv =>
      match pageAt d m.dpart wv.1 wv.2 with | some x => x.poison == .lost | none => false)
    let e := if ok then noteRead e m.dpart a m.length else fabricDenied e m.dpart a m.length
    let data := if ok then viewRead d m.dpart a m.length else List.replicate (min m.length 16384) 0
    sendTo e { m with kind := 2, part := m.dpart, src := getF d F.fabCoord_module, dst := (Config.moduleCoord m.src).toNat, dpart := m.part
                      addr := 0, length := data.length, step := if !ok then 1 else if lost then 2 else 0, data := data } true

/-- A RESP message completes a remote read into its reserved buffer (R256); a failed one fails the refill it belongs to (R249). -/
def respMessage (d : Dev) (n vc : Nat) : Dev :=
  match takeMsg d n vc 2 (fun _ => true) with
  | none => d
  | some (m, e) =>
    match e.reads.find? (fun r => r.req == m.tag && r.result.isNone) with
    | none => e
    | some r =>
      if m.step = 0 then
        { e with reads := e.reads.map (fun x => if x == r then { x with result := some (m.step, m.data) } else x) }
      else match Tab.get? e.pages r.key with
        | some x => retryHeld (losePage e r.key x)
        | none => e

end Sys2Proof.Machine
end

