-- ==== Sys2Proof/Machine/Guest.lean ====
section
/-! DEFINITION. Kiln guest products on lent clusters (R58, R76, R147, R216, R217, R351), and memory that a streamed job fills with values
the manual does not lay out. -/

namespace Sys2Proof.Machine

/-- A free accumulator entry (log entry 92). -/
def freeEntry (d : Dev) : AccEntry × Dev :=
  let (a, d) := nextFree d
  let (b, d) := nextFree d
  (⟨Config.freeWord b ++ BitVec.ofNat 8 (Config.freeWord a).toNat, Config.freeBit a⟩, d)

/-- A streamed job's work area after some of its work: the manual does not lay it out (R146; log entry 92). -/
def scribble (d : Dev) (p a n : Nat) : Dev :=
  let t := freeBytes d n
  viewWrite t.2 p a t.1

/-- The banks a cluster lends (R58). -/
def lentBanks (d : Dev) (c : Nat) : Nat := if flag d (F.mcLend_enable c) then getF d (F.mcLend_bank_mask c) else 0

/-- The lent banks of a cluster, ascending. -/
def lentList (d : Dev) (c : Nat) : List Nat := (List.range 32).filter (fun b => bitOf (lentBanks d c) b)

/-- A cluster that takes tiles of its partition's streamed products: lent with at least 16 tiles and 8 banks (R147). -/
def guestCluster (d : Dev) (p c : Nat) : Bool :=
  ownsCluster d p c && flag d (F.mcLend_enable c) && decide (getF d (F.mcLend_acc_cnt c) ≥ 16 ∧ (lentList d c).length ≥ 8)

/-- The array of a cluster is in a bubble: nothing of the cluster's own runs or waits in the deferred queue, or the cluster is LENT
(R58). -/
def inBubble (d : Dev) (c : Nat) : Bool := seqState d c == 6 || (!arrayTaken d c && (clusterOf d c).dwq.isEmpty)

/-- Some lent bank of a cluster is not the kiln's: a guest product's access there is a non-owner access (R216, R217). -/
def guestShut (d : Dev) (c : Nat) : Bool :=
  (lentList d c).any (fun b => getF d (F.bankOwner_owner c b) != 2 || flag d (F.bankOwner_pending c b))

/-- Row requests of one output tile of a product of depth n (R147, Table 3.1). -/
def guestRows (n : Nat) : Nat := 64 * cdiv n 32

/-- Fills a lent bank with operand panels, whose layout the manual does not give (R147; log entry 92). -/
def fillPanel (d : Dev) (c b : Nat) : Dev :=
  let t := freeBytes d 0x200000
  { t.2 with mem := memLoad t.2.mem (spadBase c + 0x200000 * b) 0x200000 (cellsOf t.1) }

/-- Leaves the sums of output tiles in the lent accumulator tiles, in a FIXED W64 window; which tile takes which the manual does not say
(R147; log entry 92). -/
def fillTile (d : Dev) (c t : Nat) : Dev :=
  let (n, d) := nextFree d
  let d := { d with wins := Tab.put d.wins (c, t) ⟨0, signed 12 (Config.freeCount n), true⟩ }
  forEach (List.range 4096) d (fun d k => let (e, d) := freeEntry d; { d with acc := Tab.put d.acc (c, t, k) e })

/-- A lent cluster computes m > 0 output tiles of a job's products of order n: panels move to its lent banks, the sums form in its lent
accumulator tiles, and ADRN drains them (R147); its counters count them (R80). -/
def guestTiles (d : Dev) (c n m : Nat) : Dev :=
  let d := countArray d c (m * guestRows n) (m * streamStalls 64 64 n 0 true)
  let d := addF d (F.mcArrAcc_count c) (m * 66)
  let d := forEach (lentList d c) d (fun d b => fillPanel d c b)
  forEach ((List.range (getF d (F.mcLend_acc_cnt c))).map (fun i => getF d (F.mcLend_acc_base c) + i)) d (fun d t => fillTile d c t)

/-- A guest product of a job is under way on a lent cluster: in a bubble the array runs it (R76). -/
def beginGuest (d : Dev) (p job c : Nat) : Dev :=
  let d := modCluster d c (fun x => { x with guest := some ⟨p, job, lentBanks d c⟩ })
  if arrayTaken d c || getF d (F.mcArrStatus_phase c) == 6 then d else arrayBusy d c 6 0

/-- The guest product of a cluster ends (R77). -/
def endGuest (d : Dev) (c : Nat) : Dev :=
  let d := modCluster d c (fun x => { x with guest := none })
  if getF d (F.mcArrStatus_phase c) = 6 then arrayIdle d c else d

/-- The clusters on which a job's guest products are under way. -/
def guestsOf (d : Dev) (p job : Nat) : List Nat :=
  (List.range 28).filter (fun c => match (clusterOf d c).guest with | some g => g.p == p && g.job == job | none => false)

/-- Every guest product of a job ends. -/
def endGuests (d : Dev) (p job : Nat) : Dev := forEach (guestsOf d p job) d endGuest

/-- The share of an agent under the fixed rotation of t tiles over a agents (R351). -/
def rotationShare (t a k : Nat) : Nat := (t + a - 1 - k) / a

/-- The clusters that take tiles of a job's products now, with the number each takes of t tiles: under load balancing as the hand-out to
the first free agent came out, else by the fixed rotation over the job's cores and then its lent clusters (R147, R351). -/
def guestTakes (d : Dev) (p cores t : Nat) (fixed : Bool) (given : List (Nat × Nat)) : List (Nat × Nat) :=
  let lent := (List.range 28).filter (guestCluster d p)
  if fixed then lent.zipIdx.map (fun x => (x.1, rotationShare t (cores + lent.length) (cores + x.2)))
  else given.filterMap (fun x => if lent.contains x.1 && inBubble d x.1 then some (x.1, min t x.2) else none)

end Sys2Proof.Machine
end

