-- ==== Sys2Proof/Machine/KilnMath.lean ====
section
/-! DEFINITION. The arithmetic of the kiln: window sums (R136, R138), the damped factor (R149), the coupled Newton iteration
(R150), the two factorisations (R151, R152) and the triangular solves with their refinement (R155), on matrices of binary32
codes. -/

namespace Sys2Proof.Machine

/-- A matrix of binary32 codes, row by row. -/
abbrev Mat := List (List Nat)

/-- Entry (i, j). -/
def ent (m : Mat) (i j : Nat) : Nat := nth (m.getD i []) j

/-- Value of entry (i, j). -/
def entV (m : Mat) (i j : Nat) : Val := f32 (ent m i j)

/-- The r x c matrix with entries g i j. -/
def buildMat (r c : Nat) (g : Nat → Nat → Nat) : Mat := (List.range r).map (fun i => (List.range c).map (g i))

/-- The values of a matrix, row-major. -/
def matVals (m : Mat) : List Val := m.flatten.map f32

/-- The maximum exponent of a matrix (R87, R136). -/
def matExpo (m : Mat) : Int := maxExpo (matVals m)

/-- Every entry is finite. -/
def matFinite (m : Mat) : Bool := (matVals m).all Val.isFin

/-- The identity of order n. -/
def matOne (n : Nat) : Mat := buildMat n n (fun i j => if i = j then fp32.enc Val.one else 0)

/-- +infinity in binary32. -/
def infinite : Nat := 0x7F800000

/-- x <= y for values that are not NaN. -/
def Val.le (x y : Val) : Bool := !x.isNan && !y.isNan && decide (x.cmp y ≤ 0)

/-- x < y; false when either is NaN. -/
def Val.below (x y : Val) : Bool := !x.isNan && !y.isNan && x.lt y

/-- |x|. -/
def Val.abs : Val → Val
  | .nan => .nan
  | .inf _ => .inf false
  | .fin _ m e => .fin false m e

/-- The anchor of R136 for k products and, when there is one, an added value of exponent ev. -/
def kilnAnchor (ev ex ey : Int) (k : Nat) : Int :=
  max (-2048) (min 2047 (max (ev + 1) (ex + ey + 2) + (clog2 (k + 1) : Int)))

/-- A window sum left unrounded (R136): the added value, then the products; in REFERENCE mode the sequential binary32 sum
(R138). A marked or out-of-window sum is NaN. -/
def kilnSum (ref : Bool) (v : Option Val) (ts : List (Val × Val)) (ex ey : Int) : Val :=
  if ref then ts.foldl (fun c t => fl32 (c.add (fl32 (t.1.mul t.2)))) (v.getD Val.zero)
  else
    let ev := match v with | some x => x.expo.getD (-2048) | none => -2048
    let a := kilnAnchor ev ex ey ts.length
    let x0 := match v with | some x => accEnter ⟨0, false⟩ (contrib x Val.one a 0) | none => ⟨0, false⟩
    let x := ts.foldl (fun x t => accEnter x (contrib t.1 t.2 a 0)) x0
    if inWindow 0 x then Val.ofInt x.v.toInt (a - 62) else .nan

/-- A window sum rounded once to binary32 (R136). -/
def kilnWsum (ref : Bool) (v : Option Val) (ts : List (Val × Val)) (ex ey : Int) : Nat := fp32.enc (kilnSum ref v ts ex ey)

/-- The product of two matrices whose entries are window sums with the maximum exponents of the whole operands (R150). -/
def matMul (ref : Bool) (a b : Mat) (r k c : Nat) : Mat :=
  let ex := matExpo a
  let ey := matExpo b
  buildMat r c (fun i j => kilnWsum ref none ((List.range k).map (fun t => (entV a i t, entV b t j))) ex ey)

/-- The upper triangle copied onto the lower (R150). -/
def mirror (m : Mat) (n : Nat) : Mat := buildMat n n (fun i j => if i ≤ j then ent m i j else ent m j i)

/-- The sum of squares of a matrix, row-major, left unrounded (R150). -/
def sumSquares (ref : Bool) (m : Mat) : Val :=
  let e := matExpo m
  kilnSum ref none ((matVals m).map (fun x => (x, x))) e e

/-! The damped factor (R149) -/

/-- An attempt that has done nothing. -/
def KilnWork.fresh : KilnWork :=
  { ready := false, ad := [], norm := 0, delta := 0, pivots := 0, x := [], m := [], cols := [], diag := [], rhs := [], iter := 0
    best := infinite, flat := 0 }

/-- Prepares Ad and delta from the factor (R149); not ready where an entry is not finite before or after the floor. -/
def prepare (ref : Bool) (n : Nat) (f : Mat) (sc lambda : Nat) (regExp : Int) : KilnWork :=
  let g := fl32 (Val.one.div (f32 sc))
  let a := buildMat n n (fun i j =>
    fp32.enc (((if i ≤ j then entV f i j else entV f j i).mul g).add (if i = j then f32 lambda else Val.zero)))
  if !matFinite a then KilnWork.fresh
  else
    let ex := matExpo a
    let norm := ((List.range n).map (fun i => fp32.enc (kilnSum ref none
      ((List.range n).map (fun k => ((entV a i k).abs, Val.one))) ex 0))).foldl (fun u v => if (f32 u).below (f32 v) then v else u) 0
    let small := fp32.enc (.fin false 1 (-100))
    let d := fp32.enc ((f32 norm).scale regExp)
    let delta := if (f32 small).below (f32 d) then d else small
    let low (i : Nat) : Bool := (entV a i i).below (f32 delta)
    let ad := buildMat n n (fun i j => if i = j && low i then delta else ent a i j)
    { KilnWork.fresh with ready := matFinite ad, ad := ad, norm := norm, delta := delta, pivots := ((List.range n).filter low).length }

/-! Inverse p-th roots (R150) -/

/-- ceil(a / b) of an integer by a positive number. -/
def ceilDiv (a : Int) (b : Nat) : Int := -((-a) / (b : Int))

/-- The start of the iteration: X and M. -/
def rootStart (ref : Bool) (n pLog : Nat) (k : KilnWork) : KilnWork :=
  let p : Nat := 2 ^ pLog
  let e := ((sumSquares ref k.ad).expo).getD (-2048)
  let q := ceilDiv (e + 1) (2 * p)
  { k with
    x := buildMat n n (fun i j => if i = j then fp32.enc (.fin false 1 (-q)) else 0)
    m := buildMat n n (fun i j => fp32.enc ((entV k.ad i j).scale (-(p * q)))) }

/-- P after repeated squaring. -/
def squareMat (ref : Bool) (n : Nat) : Nat → Mat → Mat
  | 0, m => m
  | t + 1, m => squareMat ref n t (matMul ref m m n n n)

/-- How an iteration or step ends (R150, R155). -/
inductive KilnEnd where
  | go | converged | stagnant | overflow
  deriving DecidableEq, Repr

/-- Records the residual of an iteration: whether it is the best so far, and how it ends; last says the cap is reached. -/
def noteResidual (k : KilnWork) (r tol : Nat) (last : Bool) : KilnWork × Bool × KilnEnd :=
  let better := (f32 r).below (f32 k.best)
  let k := if better then { k with best := r, flat := 0, iter := k.iter + 1 } else { k with flat := k.flat + 1, iter := k.iter + 1 }
  (k, better, if (f32 r).le (f32 tol) then .converged else if k.flat = 2 ∨ last then .stagnant else .go)

/-- What an iteration of R150 leaves: the work, the iterate where it is the best so far, and how the iteration ends. -/
structure RootOut where
  work : KilnWork
  best : Option (List (List Nat))
  fate : KilnEnd
  deriving DecidableEq, Repr

/-- One iteration of R150: the residual and the best iterate are of X and M as the products give them; after it the kiln copies their upper
triangles onto the lower (DEDUCED, log entry 20). -/
def rootStep (ref : Bool) (n pLog cap tol : Nat) (k : KilnWork) : RootOut :=
  let p : Nat := 2 ^ pLog
  let t := buildMat n n (fun i j =>
    fp32.enc (((if i = j then Val.ofInt (p + 1) 0 else Val.zero).sub (entV k.m i j)).scale (-(pLog : Int))))
  let x := matMul ref k.x t n n n
  let m := matMul ref (squareMat ref n pLog t) k.m n n n
  let dd := buildMat n n (fun i j => fp32.enc ((entV m i j).sub (if i = j then Val.one else Val.zero)))
  let r := fp32.enc ((fl32 (fl32 (sumSquares ref dd)).sqrt).div (Val.ofInt n 0))
  let k := { k with x := mirror x n, m := mirror m n }
  if !matFinite x || !matFinite m then ⟨{ k with iter := k.iter + 1 }, none, .overflow⟩
  else
    let s := noteResidual k r tol (k.iter + 1 == cap)
    ⟨s.1, if s.2.1 then some x else none, s.2.2⟩

/-! Factorisations (R151, R152) -/

/-- Column j of Cholesky from the columns before it. -/
def cholColumn (ref : Bool) (n : Nat) (ad : Mat) (delta : Nat) (cols : Mat) : List Nat × Bool :=
  let j := cols.length
  let e := matExpo cols
  let terms (i : Nat) : List (Val × Val) := cols.map (fun c => ((f32 (nth c i)).negate, f32 (nth c j)))
  let d := kilnWsum ref (some (entV ad j j)) (terms j) e e
  let low := (f32 d).below (f32 delta)
  let l := fl32 (f32 (if low then delta else d)).sqrt
  ((List.range n).map (fun i =>
    if i < j then 0 else if i = j then fp32.enc l else fp32.enc ((f32 (kilnWsum ref (some (entV ad i j)) (terms i) e e)).div l)), low)

/-- The Cholesky columns, the pivots regularised, and whether every column was finite; it ends at the first that is not. -/
def cholesky (ref : Bool) (n : Nat) (ad : Mat) (delta : Nat) : Nat → Mat → Nat → Mat × Nat × Bool
  | 0, cols, piv => (cols, piv, true)
  | t + 1, cols, piv =>
    let c := cholColumn ref n ad delta cols
    if c.1.all (fun v => (f32 v).isFin) then cholesky ref n ad delta t (cols ++ [c.1]) (piv + b2n c.2)
    else (cols, piv + b2n c.2, false)

/-- Column j of LDL from the columns of L and W before it: the column of L, that of W, D, and whether it was regularised. -/
def ldlColumn (ref : Bool) (n : Nat) (ad : Mat) (delta : Nat) (cols ws : Mat) : List Nat × List Nat × Nat × Bool :=
  let j := cols.length
  let ex := matExpo cols
  let ey := matExpo ws
  let terms (i : Nat) : List (Val × Val) := (cols.zip ws).map (fun c => ((f32 (nth c.1 i)).negate, f32 (nth c.2 j)))
  let d0 := kilnWsum ref (some (entV ad j j)) (terms j) ex ey
  let low := (f32 d0).abs.below (f32 delta)
  let d := if low then (if (f32 d0).below Val.zero then fp32.enc (f32 delta).negate else delta) else d0
  let l := (List.range n).map (fun i =>
    if i < j then 0 else if i = j then fp32.enc Val.one
    else fp32.enc ((f32 (kilnWsum ref (some (entV ad i j)) (terms i) ex ey)).div (f32 d)))
  (l, l.map (fun v => fp32.enc ((f32 v).mul (f32 d))), d, low)

/-- The columns of L, the diagonal D, the pivots regularised, and whether every column was finite. -/
def ldlFactor (ref : Bool) (n : Nat) (ad : Mat) (delta : Nat) :
    Nat → Mat → Mat → List Nat → Nat → Mat × List Nat × Nat × Bool
  | 0, cols, _, ds, piv => (cols, ds, piv, true)
  | t + 1, cols, ws, ds, piv =>
    match ldlColumn ref n ad delta cols ws with
    | (l, w, d, low) =>
      if (f32 d).isFin && (l ++ w).all (fun v => (f32 v).isFin) then
        ldlFactor ref n ad delta t (cols ++ [l]) (ws ++ [w]) (ds ++ [d]) (piv + b2n low)
      else (cols, ds, piv + b2n low, false)

/-- Factors Ad under ldl: the work with its columns and diagonal; not ready when a value is not finite. -/
def factorise (ref : Bool) (n : Nat) (ldl : Bool) (k : KilnWork) : KilnWork :=
  if !k.ready then k
  else if ldl then
    let r := ldlFactor ref n k.ad k.delta n [] [] [] 0
    { k with cols := r.1, diag := r.2.1, pivots := k.pivots + r.2.2.1, ready := r.2.2.2 }
  else
    let r := cholesky ref n k.ad k.delta n [] 0
    { k with cols := r.1, pivots := k.pivots + r.2.1, ready := r.2.2 }

/-- The result a factorisation leaves in a root slot (R139): U, with D on the diagonal for LDL. -/
def factorResult (n : Nat) (ldl : Bool) (k : KilnWork) : Mat :=
  buildMat n n (fun i j => if j < i then 0 else if ldl && i == j then nth k.diag i else ent k.cols i j)

/-! Solves (R155) -/

/-- Forward substitution with L (columns cols) on a right-hand column: the solved entries in order. -/
def forward (ref ldl : Bool) (cols : Mat) (e : Int) (b : List Nat) : Nat → List Nat → List Nat
  | 0, ys => ys
  | t + 1, ys =>
    let i := ys.length
    let ts := ys.zipIdx.map (fun y => ((f32 (ent cols y.2 i)).negate, f32 y.1))
    let s := kilnWsum ref (some (f32 (nth b i))) ts e (maxExpo (ys.map f32))
    forward ref ldl cols e b t (ys ++ [if ldl then s else fp32.enc ((f32 s).div (entV cols i i))])

/-- Backward substitution with L transposed: the solved entries from row i up to the last. -/
def backward (ref ldl : Bool) (cols : Mat) (e : Int) (y : List Nat) : Nat → List Nat → List Nat
  | 0, xs => xs
  | i + 1, xs =>
    let ts := xs.zipIdx.map (fun x => ((f32 (ent cols i (i + 1 + x.2))).negate, f32 x.1))
    let s := kilnWsum ref (some (f32 (nth y i))) ts e (maxExpo (xs.map f32))
    backward ref ldl cols e y i ((if ldl then s else fp32.enc ((f32 s).div (entV cols i i))) :: xs)

/-- The triangular solves of one right-hand column (R155). -/
def solveColumn (ref ldl : Bool) (n : Nat) (k : KilnWork) (b : List Nat) : List Nat :=
  let e := matExpo k.cols
  let y := forward ref ldl k.cols e b n []
  let z := if ldl then (y.zip k.diag).map (fun v => fp32.enc ((f32 v.1).div (f32 v.2))) else y
  backward ref ldl k.cols e z n []

/-- The transpose of an r x c matrix. -/
def transposeMat (m : Mat) (r c : Nat) : Mat := buildMat c r (fun i j => ent m j i)

/-- The triangular solves of every column of an n x m matrix. -/
def solveAll (ref ldl : Bool) (n m : Nat) (k : KilnWork) (b : Mat) : Mat :=
  transposeMat ((transposeMat b n m).map (solveColumn ref ldl n k)) m n

/-- The largest magnitude of a column. -/
def columnMax (a : Mat) (n c : Nat) : Val := ((List.range n).map (fun i => (entV a i c).abs)).foldl Val.max Val.zero

/-- The residual B - Ad X of R155, with the maximum exponents of the whole matrices Ad and X (log entry 20). -/
def solveResidual (ref : Bool) (n m : Nat) (k : KilnWork) : Mat :=
  let ex := matExpo k.ad
  let ey := matExpo k.x
  buildMat n m (fun i c => kilnWsum ref (some (entV k.rhs i c))
    ((List.range n).map (fun t => ((entV k.ad i t).negate, entV k.x t c))) ex ey)

/-- r of R155: NaN in any column makes it NaN. -/
def solveNorm (n m : Nat) (k : KilnWork) (res : Mat) : Nat :=
  fp32.enc (((List.range m).map (fun c =>
    fl32 ((columnMax res n c).div (fl32 (((f32 k.norm).mul (columnMax k.x n c)).add (columnMax k.rhs n c)))))).foldl Val.max Val.zero)

/-- One refinement step of R155; the iterate whose residual it takes is best or not, and the next one stands in x. -/
def solveStep (ref ldl : Bool) (n m cap tol : Nat) (k : KilnWork) : KilnWork × Option Mat × KilnEnd :=
  let res := solveResidual ref n m k
  let r := solveNorm n m k res
  let t := noteResidual k r tol (k.iter + 1 == cap)
  let best := if t.2.1 then some k.x else none
  match t.2.2 with
  | .go =>
    let y := solveAll ref ldl n m t.1 res
    let x := buildMat n m (fun i c => fp32.enc ((entV k.x i c).add (entV y i c)))
    ({ t.1 with x := x }, best, if matFinite y && matFinite x then .go else .overflow)
  | e => (t.1, best, e)

end Sys2Proof.Machine
end

