-- ==== Sys2Proof/Machine/Kiln.lean ====
section
/-! DEFINITION. The kiln: job rings and pickup (R142, R143, R165, R168), start (R144, R146), factor blocks (R139 to R141), folds
(R148), the operations, deadlines (R156 to R161), restarts (R166) and resolution (R140, R163, R167). -/

namespace Sys2Proof.Machine

/-! Descriptors (Table 6.3) -/

/-- Word i of a job's descriptor. -/
def KilnJob.w (j : KilnJob) (i : Nat) : Nat := nth j.words i
/-- op. -/
def KilnJob.op (j : KilnJob) : Nat := bits (j.w 0) 7 4
/-- policy. -/
def KilnJob.policy (j : KilnJob) : Nat := bits (j.w 0) 9 8
/-- fold, or op FOLD (R148). -/
def KilnJob.folds (j : KilnJob) : Bool := bitOf (j.w 0) 14 || j.op == 1
/-- ldl. -/
def KilnJob.ldl (j : KilnJob) : Bool := bitOf (j.w 0) 15
/-- p_log. -/
def KilnJob.pLog (j : KilnJob) : Nat := bits (j.w 0) 13 12
/-- n. -/
def KilnJob.n (j : KilnJob) : Nat := bits (j.w 5) 15 0
/-- m. -/
def KilnJob.m (j : KilnJob) : Nat := bits (j.w 5) 31 16
/-- fblk. -/
def KilnJob.fblk (j : KilnJob) : Nat := bits (j.w 3) 47 0
/-- gyle. -/
def KilnJob.gyle (j : KilnJob) : Nat := bits (j.w 1) 47 0
/-- stat_gyle. -/
def KilnJob.statGyle (j : KilnJob) : Nat := bits (j.w 2) 47 0
/-- The iteration cap; 0 means 40. -/
def KilnJob.cap (j : KilnJob) : Nat := if bits (j.w 0) 39 32 = 0 then 40 else bits (j.w 0) 39 32
/-- The refinement cap; 0 means 4. -/
def KilnJob.refineCap (j : KilnJob) : Nat := if bits (j.w 0) 43 40 = 0 then 4 else bits (j.w 0) 43 40
/-- reg_exp; 0 means -23. -/
def KilnJob.regExp (j : KilnJob) : Int := if bits (j.w 5) 47 40 = 0 then -23 else signed 8 (bits (j.w 5) 47 40)
/-- conv_tol; +0 means 2^-20. -/
def KilnJob.convTol (j : KilnJob) : Nat := if bits (j.w 7) 63 32 = 0 then fp32.enc (.fin false 1 (-20)) else bits (j.w 7) 63 32
/-- accept_tol; +0 means 2^-10. -/
def KilnJob.acceptTol (j : KilnJob) : Nat := if bits (j.w 8) 31 0 = 0 then fp32.enc (.fin false 1 (-10)) else bits (j.w 8) 31 0
/-- rep_iter. -/
def KilnJob.repIter (j : KilnJob) : Nat := bits (j.w 12) 7 0
/-- rep_status. -/
def KilnJob.repStatus (j : KilnJob) : Nat := bits (j.w 12) 15 8
/-- gfmt is W64. -/
def KilnJob.gWide (j : KilnJob) : Bool := bits (j.w 5) 55 48 == 8
/-- gaddr. -/
def KilnJob.gaddr (j : KilnJob) : Nat := bits (j.w 4) 47 0
/-- rhs. -/
def KilnJob.rhs (j : KilnJob) : Nat := bits (j.w 10) 47 0
/-- work. -/
def KilnJob.area (j : KilnJob) : Nat := bits (j.w 9) 47 0
/-- cmask. -/
def KilnJob.cmask (j : KilnJob) : Nat := bits (j.w 11) 27 0

/-- Some reserved bit of the descriptor is set (Table 6.3). -/
def KilnJob.reserved (j : KilnJob) : Bool :=
  [(0, 63, 44), (0, 23, 21), (0, 11, 10), (0, 3, 1), (1, 63, 48), (2, 63, 48), (3, 63, 48), (4, 63, 60), (5, 63, 56), (9, 63, 48),
   (10, 63, 48), (11, 63, 32), (12, 63, 19), (13, 11, 8), (15, 63, 0)].any (fun (r : Nat × Nat × Nat) => bits (j.w r.1) r.2.1 r.2.2 != 0)

/-- The gyle number that stands for none (R193). -/
def noGyle : Nat := 0xFFFFFFFFFFFF

/-! Factor blocks (R139) -/

/-- Bytes of a factor slot. -/
def slotSize (n : Nat) : Nat := 2048 * (n / 32) * (n / 32 + 1)

/-- Bytes of a factor block. -/
def blockSize (n : Nat) : Nat := 0x1000 + 2 * slotSize n + 8 * n * n

/-- Address of factor slot k. -/
def factorSlot (fblk n k : Nat) : Nat := fblk + 0x1000 + k * slotSize n

/-- Address of root slot k. -/
def rootSlot (fblk n k : Nat) : Nat := fblk + 0x1000 + 2 * slotSize n + k * (4 * n * n)

/-- Offset in a factor slot of entry (i, j), i <= j. -/
def factorOffset (i j : Nat) : Nat :=
  let J := j / 32
  4096 * (J * (J + 1) / 2 + i / 32) + 4 * (32 * (i % 32) + j % 32)

/-- Header word i of a factor block (Table 6.2). -/
def headWord (d : Dev) (p fblk i : Nat) : Nat := viewNat d p (fblk + 8 * i) 8

/-- Active factor slot of a block. -/
def headFsel (d : Dev) (p fblk : Nat) : Nat := bits (headWord d p fblk 0) 19 19
/-- Active root slot of a block. -/
def headRsel (d : Dev) (p fblk : Nat) : Nat := bits (headWord d p fblk 0) 18 18

/-- Reads a factor slot's upper triangle (R139, R148). -/
def readFactor (d : Dev) (p fblk n k : Nat) : Mat :=
  buildMat n n (fun i j => if i ≤ j then viewNat d p (factorSlot fblk n k + factorOffset i j) 4 else 0)

/-- Writes a factor slot; a diagonal block is stored symmetric (R148). -/
def writeFactor (d : Dev) (p fblk n k : Nat) (f : Mat) : Dev :=
  forEach (List.range n) d (fun d i => forEach (List.range n) d (fun d j =>
    if i / 32 ≤ j / 32 then
      viewWriteNat d p (factorSlot fblk n k + factorOffset i j) 4 (if i ≤ j then ent f i j else ent f j i)
    else d))

/-- Writes an n x n root slot from a matrix of c columns; the others are zero (R139). -/
def writeRoot (d : Dev) (p fblk n k c : Nat) (x : Mat) : Dev :=
  forEach (List.range n) d (fun d i => forEach (List.range n) d (fun d j =>
    viewWriteNat d p (rootSlot fblk n k + 4 * (n * i + j)) 4 (if j < c then ent x i j else 0)))

/-! Jobs -/

/-- The unresolved jobs of a partition, in ring order. -/
def kjobsOf (d : Dev) (p : Nat) : List KilnJob := (Tab.get? d.kjobs p).getD []

/-- Replaces job i of a partition. -/
def setJob (d : Dev) (p i : Nat) (j : KilnJob) : Dev := { d with kjobs := Tab.put d.kjobs p ((kjobsOf d p).set i j) }

/-- Kiln cores granted to a partition (KLN_PCFGp.cores). -/
def grantedCores (d : Dev) (p : Nat) : List Nat := (List.range 8).filter (fun k => bitOf (getF d (F.klnPcfg_cores p)) k)

/-- A core that holds no job and is not retired (Table 6.14). -/
def coreFree (d : Dev) (k : Nat) : Bool := getF d (F.klnCore_state k) ≤ 1

/-- Free granted cores, ascending. -/
def freeCores (d : Dev) (p : Nat) : List Nat := (grantedCores d p).filter (coreFree d)

/-- Granted banks of a partition. -/
def grantedBanks (d : Dev) (p : Nat) : List Nat :=
  ((List.range (getF d (F.klnPcfg_bank_cnt p))).map (fun i => getF d (F.klnPcfg_bank_first p) + i)).filter (fun b => b < 52)

/-- Some job holds the kiln bank. -/
def bankHeld (d : Dev) (b : Nat) : Bool := d.kjobs.any (fun e => e.2.any (fun j => j.banks.contains b))

/-- The working set of Table 6.4 in bytes. -/
def workingSet (j : KilnJob) : Nat :=
  let q := 4 * j.n * j.n
  if j.op = 2 then 6 * q
  else if j.op = 3 then 2 * q
  else if j.op = 4 then 3 * q
  else if j.op = 5 then (if j.ldl then 3 * q else 2 * q) + 3 * (4 * j.n * j.m)
  else 0

/-- Banks of the working set, rounded up to whole banks (R146). -/
def bankNeed (j : KilnJob) : Nat := cdiv (workingSet j) 0x200000

/-- The job runs resident (R146). -/
def resident (d : Dev) (p : Nat) (j : KilnJob) : Bool :=
  decide (j.n ≤ 2048) && decide (bankNeed j ≤ getF d (F.klnPcfg_bank_cnt p))

/-- The job streams from and to its work area: not FOLD or INIT, which take none (R146). -/
def streams (d : Dev) (p : Nat) (j : KilnJob) : Bool := decide (2 ≤ j.op) && !resident d p j

/-- n bytes from a lie in mapped pages of the partition's HBM window. -/
def inHbmWindow (d : Dev) (p a n : Nat) : Bool := decide (a + n ≤ 0x014000000000) && rangePages d p a n

/-- The extents of a job other than its ring entry. -/
def jobExtents (d : Dev) (p : Nat) (j : KilnJob) : List (Nat × Nat) :=
  [(j.fblk, blockSize j.n)] ++
  (if j.folds then [(j.gaddr, j.n * j.n * (if j.gWide then 8 else 4))] else []) ++
  (if streams d p j then [(j.area, workingSet j)] else []) ++
  (if j.op = 5 then [(j.rhs, 4 * j.n * j.m)] else [])

/-- Some byte the job names is held (R237, R242, R248). -/
def jobHeld (d : Dev) (p : Nat) (j : KilnJob) : Bool :=
  heldWrite d p j.slot 128 || heldWrite d p j.fblk (blockSize j.n) || (jobExtents d p j).any (fun e => heldRange d p e.1 e.2) ||
  (streams d p j && heldWrite d p j.area (workingSet j))

/-- The field checks of code 0x11 (Table 6.8, R193, R394). -/
def badField (d : Dev) (p : Nat) (j : KilnJob) : Bool :=
  let beta := f32 (bits (j.w 6) 31 0)
  let lambda := f32 (bits (j.w 7) 31 0)
  let cores := bits (j.w 0) 19 16
  let fmt := bits (j.w 5) 55 48
  j.reserved || !([0, 1, 2, 4, 8].contains cores) ||
  !(Val.zero.le beta && beta.below Val.one) || !(lambda.isFin && Val.zero.le lambda) ||
  decide (j.regExp < -60 ∨ j.regExp > -8) || !(fmt == 0 || fmt == 8) ||
  j.gyle == noGyle || j.statGyle == noGyle || !cmaskOk d p j.cmask

/-- The order checks of code 0x12. -/
def badOrder (j : KilnJob) : Bool :=
  j.n % 32 != 0 || decide (j.n < 32 ∨ j.n > 16384) || (j.op == 5 && decide (j.m < 1 ∨ j.m > j.n))

/-- The address checks of code 0x13. -/
def badAddress (d : Dev) (p : Nat) (j : KilnJob) : Bool :=
  j.fblk % 4096 != 0 || !inHbmWindow d p j.fblk (blockSize j.n) ||
  (j.folds && (j.gaddr % 64 != 0 || !rangePages d p j.gaddr (j.n * j.n * (if j.gWide then 8 else 4)))) ||
  (streams d p j && flag d (F.klnPcfg_stream_en p) &&
    (j.area % 0x200000 != 0 || !inHbmWindow d p j.area (workingSet j))) ||
  (j.op == 5 && (j.rhs % 64 != 0 || !rangePages d p j.rhs (4 * j.n * j.m)))

/-- The checks at pickup in the order of the codes of Table 6.8 (R143): the code of the first that fails. -/
def pickupCode (d : Dev) (p : Nat) (j : KilnJob) : Option Nat :=
  let granted := (grantedCores d p).length
  let h := headWord d p j.fblk 0
  if j.op > 5 ∨ j.policy = 3 then some 0x10
  else if badField d p j then some 0x11
  else if badOrder j then some 0x12
  else if badAddress d p j then some 0x13
  else if granted = 0 ∨ bits (j.w 0) 19 16 > granted ∨ (streams d p j = true ∧ flag d (F.klnPcfg_stream_en p) = false) then some 0x14
  else if j.op ≠ 0 ∧ (bits h 15 0 ≠ j.n ∨ bits h 23 20 > 4) then some 0x15
  else none

/-! Resolution (R140, R163, R167) -/

/-- The codes that write the header's last_status and the fields beside it (R167). -/
def headStatus (code : Nat) : Bool := (decide (1 ≤ code ∧ code ≤ 0x0C) && code != 6) || code == 0x18

/-- The codes that commit a result (Table 6.8). -/
def commitsResult (code : Nat) : Bool := code == 1 || code == 2 || code == 3 || code == 7

/-- The best residual that a resolution reports (R167). -/
def reportedResidual (j : KilnJob) (code : Nat) : Nat :=
  if code = 6 then 0
  else if code = 5 ∨ code = 4 ∨ code = 0x0C ∨ code = 9 ∨ code = 7 ∨ code = 0x19 ∨ (0x10 ≤ code ∧ code ≤ 0x17) then infinite
  else j.work.best

/-- The kind a job's result takes (Table 6.2). -/
def resultKind (op : Nat) : Nat := op - 1

/-- The header words a resolution writes, from the old ones (R140, R141, R148, R150). -/
def headAfter (d : Dev) (p : Nat) (j : KilnJob) (code : Nat) : List Nat :=
  let old := (List.range 8).map (headWord d p j.fblk)
  if code = 6 then
    [j.n + j.pLog * 2 ^ 16 + 6 * 2 ^ 24, 0, 0, 0, 0, bits (j.w 8) 63 32 + bits (j.w 12) 16 16 * 2 ^ 32, 0, 0]
  else
    let w0 := putBits (nth old 0) 31 24 code
    let w1 := putBits (nth old 1) 47 0 j.gyle
    let w4 := putBits (putBits (nth old 4) 39 32 j.work.iter) 31 0 (reportedResidual j code)
    let fold := if code = 0x0C then none else j.folded
    let w0 := if fold.isSome then putBits w0 19 19 (1 - bits w0 19 19) else w0
    let w2 := if fold.isSome then putBits (nth old 2) 47 0 j.statGyle else nth old 2
    let w3 := match fold with | some (s, c) => s * 2 ^ 32 + c % 2 ^ 32 | none => nth old 3
    let w0 := if commitsResult code then
        let w := putBits (putBits (putBits w0 18 18 (1 - bits w0 18 18)) 23 20 (resultKind j.op)) 63 32 (bits w0 63 32 + 1)
        if j.op = 2 then putBits w 17 16 j.pLog else w
      else w0
    [w0, w1, w2, w3, w4, nth old 5, nth old 6, nth old 7]

/-- INIT's slots: zeros to factor slot 0 and the identity to root slot 0 (R141), written when it resolves, so that an INIT which resolves
otherwise leaves the block alone (R140, R165). -/
def initSlots (d : Dev) (p : Nat) (j : KilnJob) : Dev :=
  writeRoot (writeFactor d p j.fblk j.n 0 (buildMat j.n j.n (fun _ _ => 0))) p j.fblk j.n 0 j.n (matOne j.n)

/-- The header is written whole, after the slots (R140). -/
def writeHead (d : Dev) (p : Nat) (j : KilnJob) (code : Nat) : Dev :=
  let d := if code = 6 then initSlots d p j else d
  if headStatus code || code == 6 then viewWrite d p j.fblk ((headAfter d p j code).flatMap (leBytes 8)) else d

/-- A batch record with nothing in it. -/
def BatchRec.fresh : BatchRec :=
  { state := 0, mode := 0, epoch := 0, cuts := 0, outcome := 0, sweepExp := 0, kiln := [], early := [], level := 1, progDigest := 0
    inputDigest := 0, digest := [], size := 0, origin := 0, rank := 0, placement := [] }

/-- The batch record of a gyle. -/
def batchOf (d : Dev) (p g : Nat) : BatchRec := (Tab.get? d.batch (p, g)).getD BatchRec.fresh

/-- A kiln entry joins the batch record of its gyle: the one its flag check has opened, or the one it will open (R14, R163). -/
def enterKiln (d : Dev) (p g : Nat) (e : KilnEntry) : Dev :=
  let b := batchOf d p g
  let b := if flag d (F.fabNflag_chk_valid p) && decide (g ≤ getF d (F.fabNflag_chk_gyle p)) then { b with kiln := b.kiln ++ [e] }
    else { b with early := b.early ++ [e] }
  { d with batch := Tab.put d.batch (p, g) b }

/-- The generation a resolution reports: the header's after it, or a free value where the block cannot be read (log entry 20). -/
def reportedGen (d : Dev) (p : Nat) (j : KilnJob) : Nat × Dev :=
  if j.fblk % 4096 = 0 ∧ inHbmWindow d p j.fblk 64 = true then (bits (headWord d p j.fblk 0) 63 32, d)
  else let t := nextFree d; ((Config.freeWord t.1).toNat % 2 ^ 32, t.2)

/-- Cores go idle when their job leaves them (Table 6.14); a retired core stays retired. -/
def releaseCores (d : Dev) (cs : List Nat) : Dev :=
  forEach cs d (fun d k => if getF d (F.klnCore_state k) = 4 then d else setF d (F.klnCore_state k) 1)

/-- Counts a resolution (Table 6.13). -/
def countResolution (d : Dev) (p : Nat) (j : KilnJob) (code : Nat) : Dev :=
  let d := satF d (F.klnCnt_pivots p) j.work.pivots
  let d := if code = 0x0B then satF d (F.klnCnt_overflow_kept p) 1 else d
  let d := if code = 8 ∨ code = 9 then satF d (F.klnCnt_stale_kept p) 1 else d
  let d := if code = 3 then satF d (F.klnCnt_stale_accepted p) 1 else d
  addF d (F.klnRstat_resolved p) 1

/-- Sets the interrupt bits of a resolution (Table 6.12, R167). -/
def kilnInterrupts (d : Dev) (p : Nat) (j : KilnJob) (code : Nat) : Dev :=
  let d := if bitOf (j.w 0) 20 then raise d (some p) (F.klnIrq_done p) (F.klnIrqEn_done p) else d
  let d := if 2 ≤ j.op ∧ j.op ≤ 5 ∧ commitsResult code = false then raise d (some p) (F.klnIrq_kept p) (F.klnIrqEn_kept p) else d
  if (0x10 ≤ code ∧ code ≤ 0x17) ∨ code = 0x19 then raise d (some p) (F.klnIrq_err p) (F.klnIrqEn_err p) else d

/-- A job resolves with a code: header, descriptor words 13 and 14, then word 0, counts, batch record, events and interrupts
(R140, R142, R161, R163, R167). -/
def resolveJob (d : Dev) (p : Nat) (j : KilnJob) (code : Nat) : Dev :=
  let d := endGuests (releaseCores (writeHead d p j code) j.cores) p j.idx
  let g := reportedGen d p j
  let d := g.2
  let w13 := g.1 * 2 ^ 32 + j.work.pivots % 2 ^ 16 * 2 ^ 16 + j.retries % 16 * 2 ^ 12 + j.work.iter % 2 ^ 8
  let elapsed := min ((ftcOf d - j.ftc) / 2000) (2 ^ 32 - 1)
  let h := headWord d p j.fblk 5
  let entry : KilnEntry := ⟨bits h 31 0, bits h 32 32, code, j.work.iter, j.work.pivots, g.1⟩
  let d := enterKiln d p j.gyle entry
  let d := viewWriteNat d p (j.slot + 104) 8 w13
  let d := viewWriteNat d p (j.slot + 112) 8 (elapsed * 2 ^ 32 + reportedResidual j code)
  let d := viewWriteNat d p j.slot 8 (putBits (putBits (j.w 0) 31 24 code) 0 0 0)
  let d := countResolution d p j code
  let d := if cmaskOk d p j.cmask then postMask d j.cmask (bits (j.w 11) 31 28) else d
  kilnInterrupts d p j code

/-- Job i leaves the unresolved jobs, resolved with a code. -/
def endKilnJob (d : Dev) (p i code : Nat) : Dev :=
  match (kjobsOf d p)[i]? with
  | some j => resolveJob { d with kjobs := Tab.put d.kjobs p ((kjobsOf d p).eraseIdx i) } p j code
  | none => d

/-! Deadlines (R156 to R160) -/

/-- The fold a job asks for is done. -/
def foldDone (j : KilnJob) : Bool := !j.folds || j.folded.isSome

/-- best <= accept_tol. -/
def accepted (j : KilnJob) : Bool := (f32 j.work.best).le (f32 j.acceptTol)

/-- The code of a ROOT or SOLVE resolved from its completed iterations (R158). -/
def staleCode (j : KilnJob) : Nat := if j.work.iter ≠ 0 ∧ accepted j = true then 3 else 8

/-- The code of a job at its deadline under STALE (R158, R159): a started SOLVE that has not factored is in its factor phase; a ROOT with
c = 0 that has not found that it resolves IDENTITY is STALE_KEPT, R158 before R149 (DEDUCED, log entry 20). -/
def deadlineCode (j : KilnJob) : Nat :=
  if j.op = 3 ∨ j.op = 4 then 9
  else if j.op = 5 ∧ j.started = true ∧ j.work.ready = false then 9
  else staleCode j

/-- The mode a job computes in: fixed at its start or its deadline, until then that of its gyle (R18). -/
def jobMode (d : Dev) (p : Nat) (j : KilnJob) : Nat := j.mode.getD (gyleMode d p j.gyle)

/-- The job computes in REFERENCE. -/
def jobRef (d : Dev) (p : Nat) (j : KilnJob) : Bool := jobMode d p j == 3

/-- The policy in force: STALE acts as WAIT in REFERENCE mode (R138). -/
def policyOf (d : Dev) (p : Nat) (j : KilnJob) : Nat := if j.policy = 1 ∧ jobRef d p j = true then 0 else j.policy

/-- A job of policy STALE whose deadline has passed and whose fold is done is resolved from what it has (R158, R159). -/
def meetDeadline (d : Dev) (p : Nat) (j : KilnJob) : KilnJob :=
  if policyOf d p j = 1 ∧ j.late = true ∧ j.outcome = none ∧ 2 ≤ j.op ∧ foldDone j = true then
    { j with outcome := some (deadlineCode j), atDeadline := true }
  else j

/-- A released gyle: the deadlines it brings (R156). -/
def kilnRelease (d : Dev) (p gyle : Nat) : Dev :=
  { d with kjobs := Tab.put d.kjobs p ((kjobsOf d p).map (fun j => meetDeadline d p (if j.gyle = gyle then { j with late := true, mode := some (jobMode d p j) } else j))) }

/-- The outcome of an operation: a REPLAY must agree with the record (R160). -/
def opOutcome (j : KilnJob) (code : Nat) : KilnJob :=
  { j with outcome := some (if j.policy = 2 ∧ code ≠ j.repStatus then 0x18 else code) }

/-! Pickup and start (R142 to R146) -/

/-- A job just read from a ring entry. -/
def newJob (d : Dev) (p a idx : Nat) : KilnJob :=
  let ws := (List.range 16).map (fun i => viewNat d p (a + 8 * i) 8)
  let g := bits (nth ws 1) 47 0
  { idx := idx, slot := a, words := ws, ftc := ftcOf d, started := false, upTo := false
    want := if bits (nth ws 0) 19 16 = 0 then (grantedCores d p).length else bits (nth ws 0) 19 16
    cores := [], banks := []
    late := flag d (F.fabNflag_chk_valid p) && decide (g ≤ getF d (F.fabNflag_chk_gyle p))
    mode := none, decided := false, folded := none, retries := 0, work := KilnWork.fresh, outcome := none, atDeadline := false }

/-- The kiln picks up the entry at head (R142, R143). -/
def pickJob (d : Dev) (p : Nat) : Dev :=
  let head := getF d (F.klnRhead_head p)
  let a := 128 * getF d (F.klnRing_base p) + 128 * head
  if !flag d (F.klnRing_en p) then d
  else if heldWrite d p a 128 then steadyBroken d
  else if viewNat d p a 8 % 2 == 0 || ((freeCores d p).isEmpty && !(grantedCores d p).isEmpty) then d
  else
    let j := newJob d p a head
    if heldRange d p j.fblk 64 then steadyBroken d
    else
      let d := setF (noteRead (noteRead d p a 128) p j.fblk 64) (F.klnRhead_head p) ((head + 1) % 2 ^ getF d (F.klnRing_size_log2 p))
      match pickupCode d p j with
      | some code => resolveJob d p j code
      | none => { d with kjobs := Tab.put d.kjobs p (kjobsOf d p ++ [meetDeadline d p j]) }

/-- A core takes a job: a gated core wakes (R135, Table 6.14). -/
def takeCore (d : Dev) (p idx k : Nat) : Dev :=
  let d := setF (setF (setF d (F.klnCore_part k) p) (F.klnCore_job k) idx) (F.klnCore_iter k) 0
  if getF d (F.klnCore_state k) = 0 ∨ getF d (F.klnCore_state k) = 3 then
    requestWake (setF d (F.klnCore_state k) 3) (.kilnCore (Fin.ofNat 8 k))
  else setF d (F.klnCore_state k) 2

/-- The first job that has not started and is not decided, with its place (R144). -/
def nextToStart (js : List KilnJob) : Option (Nat × KilnJob) :=
  (js.zipIdx.find? (fun e => !e.1.started && e.1.outcome.isNone)).map (fun e => (e.2, e.1))

/-- The cores a job would start on: all it wants, or after a restart as many of them as are free (R144, R166). -/
def startCores (d : Dev) (p : Nat) (j : KilnJob) : Option (List Nat) :=
  let free := freeCores d p
  let want := min j.want (grantedCores d p).length
  if j.upTo then (if free.isEmpty then none else some (free.take j.want))
  else if want = 0 ∨ free.length < want then none else some (free.take want)

/-- The banks a job would start on: those it holds after a restart, else free ones (R146). -/
def startBanks (d : Dev) (p : Nat) (j : KilnJob) : Option (List Nat) :=
  if !j.banks.isEmpty then some j.banks
  else if j.op < 2 ∨ streams d p j = true then some []
  else
    let free := (grantedBanks d p).filter (fun b => !bankHeld d b)
    if free.length < bankNeed j then none else some (free.take (bankNeed j))

/-- Whether the next job in ring order can start: its place, the job, cores and banks (R144). -/
def startable? (d : Dev) (p : Nat) : Option (Nat × KilnJob × List Nat × List Nat) :=
  match nextToStart (kjobsOf d p) with
  | none => none
  | some (i, j) =>
    if ((kjobsOf d p).take i).any (fun x => x.fblk == j.fblk) then none
    else match startCores d p j, startBanks d p j with
      | some cs, some bs => some (i, j, cs, bs)
      | _, _ => none

/-- A job starts (R144). -/
def startJob (d : Dev) (p : Nat) : Dev :=
  match startable? d p with
  | some (i, j, cs, bs) =>
    let d := forEach cs d (fun d k => takeCore d p j.idx k)
    setJob d p i (meetDeadline d p { j with started := true, upTo := false, cores := cs, banks := bs, mode := some (jobMode d p j) })
  | none => d

/-- KLN_RSTATp.waiting: the next job waits under R144. -/
def kilnWaiting (d : Dev) (p : Nat) : Bool := (nextToStart (kjobsOf d p)).isSome && (startable? d p).isNone

/-! Work -/

/-- Job i is at work: started, undecided, its cores awake. -/
def workingJob (d : Dev) (p i : Nat) : Option KilnJob :=
  match (kjobsOf d p)[i]? with
  | some j => if j.started && j.outcome.isNone && j.cores.all (fun k => getF d (F.klnCore_state k) == 2) then some j else none
  | none => none

/-- Job i does some work; while a page it names is held it waits, which breaks steadiness (R237, R241, R248). -/
def withJob (d : Dev) (p i : Nat) (work : KilnJob → Dev) : Dev :=
  match workingJob d p i with
  | some j => if jobHeld d p j then steadyBroken d else work j
  | none => d

/-- Whether stat_gyle was skipped (R148, R127): some skip, or none where the history holds no outcome; answered only when known. -/
def skipDecision (d : Dev) (p : Nat) (j : KilnJob) : Option (Option Bool) :=
  if bitOf (j.w 12) 17 then some (some (bitOf (j.w 12) 18))
  else if flag d (F.fabNflag_chk_valid p) && decide (j.statGyle ≤ getF d (F.fabNflag_chk_gyle p)) then
    some ((((Tab.get? d.history p).getD []).find? (fun e => e.1 == j.statGyle)).map (fun e => e.2))
  else none

/-- The job takes the skip decision (R148). -/
def decideFold (d : Dev) (p : Nat) (j : KilnJob) : KilnJob :=
  if !j.folds || j.decided then j
  else match skipDecision d p j with
    | none => j
    | some none => opOutcome { j with decided := true } 0x19
    | some (some true) => opOutcome { j with decided := true } 0x0C
    | some (some false) => { j with decided := true }

/-- Statistic (i, j) of a job (R148): an FP32 value, or a W64 word at its anchor, the marker as NaN. -/
def statistic (d : Dev) (p : Nat) (j : KilnJob) (r c : Nat) : Val :=
  if j.gWide then
    let w := viewNat d p (j.gaddr + 8 * (j.n * r + c)) 8
    if w = winMarker 0 then .nan else Val.ofInt (signed 64 w) (signed 12 (bits (j.w 4) 59 48) - 62)
  else f32 (viewNat d p (j.gaddr + 4 * (j.n * r + c)) 4)

/-- The folded statistics (R148). -/
def foldedFactor (d : Dev) (p : Nat) (j : KilnJob) : Mat :=
  let f := readFactor d p j.fblk j.n (headFsel d p j.fblk)
  let beta := f32 (bits (j.w 6) 31 0)
  let w := f32 (bits (j.w 6) 63 32)
  buildMat j.n j.n (fun r c => if r ≤ c then fp32.enc ((beta.mul (entV f r c)).add (w.mul (statistic d p j r c))) else 0)

/-- s_c and c after the fold (R148). -/
def foldedCount (d : Dev) (p : Nat) (j : KilnJob) : Nat × Nat :=
  let beta := f32 (bits (j.w 6) 31 0)
  let h := headWord d p j.fblk 3
  (fp32.enc (((beta.mul (f32 (bits h 63 32))).add Val.one).sub beta), (bits h 31 0 + 1) % 2 ^ 32)

/-- The fold of a decided job (R148). -/
def foldNow (d : Dev) (p : Nat) (j : KilnJob) : Dev × KilnJob :=
  if !j.decided || j.outcome.isSome || j.folded.isSome then (d, j)
  else
    let f := foldedFactor d p j
    let d := noteRead (noteRead d p j.fblk (blockSize j.n)) p j.gaddr (j.n * j.n * (if j.gWide then 8 else 4))
    if !matFinite f then (d, opOutcome j 0x0B)
    else
      let j := { j with folded := some (foldedCount d p j) }
      (writeFactor d p j.fblk j.n (1 - headFsel d p j.fblk) f, if j.op = 1 then opOutcome j 5 else j)

/-- FOLD: the skip decision, when it is known, and the fold (R148). -/
def runFold (d : Dev) (p i : Nat) : Dev :=
  withJob d p i (fun j =>
    let r := foldNow d p (decideFold d p j)
    setJob r.1 p i (meetDeadline r.1 p r.2))

/-- A job that waits for stat_gyle's outcome finds it (R148). -/
def foldOutcome (d : Dev) (p i : Nat) : Dev :=
  withJob d p i (fun j => if bitOf (j.w 12) 17 then d else setJob d p i (decideFold d p j))

/-- Job i runs its operation op, once the fold it asks for is done (R148). -/
def operate (d : Dev) (p i op : Nat) (work : KilnJob → Dev) : Dev :=
  withJob d p i (fun j => if j.op = op ∧ foldDone j = true then work j else d)

/-- INIT (R141): its slots and header are written when it resolves. -/
def runInit (d : Dev) (p i : Nat) : Dev := operate d p i 0 (fun j => setJob d p i (opOutcome j 6))

/-- The factor slot, s_c and c that the operation works from (R149). -/
def workFactor (d : Dev) (p : Nat) (j : KilnJob) : Nat × Nat × Nat :=
  match j.folded with
  | some (s, c) => (1 - headFsel d p j.fblk, s, c)
  | none => (headFsel d p j.fblk, bits (headWord d p j.fblk 3) 63 32, bits (headWord d p j.fblk 3) 31 0)

/-- Prepares a job (R149). -/
def prepareJob (d : Dev) (p : Nat) (j : KilnJob) : KilnWork :=
  let f := workFactor d p j
  prepare (jobRef d p j) j.n (readFactor d p j.fblk j.n f.1) f.2.1 (bits (j.w 7) 31 0) j.regExp

/-- The status of an iteration's end (R150, R155); none while it goes on. -/
def endCode (j : KilnJob) : KilnEnd → Option Nat
  | .go => none
  | .converged => some 1
  | .stagnant => some (if accepted j then 2 else 0x0A)
  | .overflow => some 0x0B

/-- Shows a job's iterations in its cores' registers (Table 6.14). -/
def showIter (d : Dev) (j : KilnJob) : Dev := forEach j.cores d (fun d k => setF d (F.klnCore_iter k) j.work.iter)

/-- After an iteration or step: its outcome, or that of a REPLAY that has run its recorded number (R160). -/
def afterStep (j : KilnJob) (e : KilnEnd) : KilnJob :=
  match endCode j e with
  | some c => opOutcome j c
  | none => if j.policy = 2 ∧ j.work.iter ≥ j.repIter then opOutcome j (staleCode j) else j

/-- At most t iterations of ROOT (R150); the one that ends in overflow counts in iter (DEDUCED, log entry 20). -/
def rootLoop (p : Nat) : Nat → Dev → KilnJob → Dev × KilnJob
  | 0, d, j => (d, j)
  | t + 1, d, j =>
    if j.outcome.isSome then (d, j)
    else
      let r := rootStep (jobRef d p j) j.n j.pLog j.cap j.convTol j.work
      let j := { j with work := r.work }
      let d := match r.best with | some x => writeRoot d p j.fblk j.n (1 - headRsel d p j.fblk) j.n x | none => d
      rootLoop p t d (afterStep j r.fate)

/-- A REPLAY of a resolution at a deadline before the first iteration or step (R160). -/
def replaysNone (j : KilnJob) : Bool := j.policy == 2 && j.repIter == 0 && j.repStatus == 8

/-- ROOT is prepared: IDENTITY with c = 0, OVERFLOW_KEPT when a value is not finite (R149, R150, R153). -/
def rootReady (d : Dev) (p : Nat) (j : KilnJob) : KilnJob :=
  if j.work.ready then j
  else if replaysNone j then opOutcome j 8
  else if (workFactor d p j).2.2 = 0 then opOutcome j 4
  else
    let k := prepareJob d p j
    if !k.ready then opOutcome { j with work := { KilnWork.fresh with pivots := k.pivots } } 0x0B
    else
      let j := { j with work := rootStart (jobRef d p j) j.n j.pLog k }
      if j.policy = 2 ∧ j.repIter = 0 then opOutcome j (staleCode j) else j

/-- The work area of a streamed job after some of its work (R146). -/
def useArea (d : Dev) (p : Nat) (j : KilnJob) : Dev := if streams d p j then scribble d p j.area (workingSet j) else d

/-- Output tiles of one product of order n: 64 x 64, in row-major order (R147). -/
def tilesOf (n : Nat) : Nat := cdiv n 64 * cdiv n 64

/-- A core check fails, a lent cluster faults or a bank does: the attempt is discarded, and the guest products with it. -/
def discardAttempt (d : Dev) (p : Nat) (j : KilnJob) : Dev :=
  forEach j.cores (endGuests d p j.idx) (fun d k => setF d (F.klnCore_iter k) 0)

/-- The discarded attempt begins again from the job's inputs, or the job resolves FAULT: where it would need a third restart, or no granted
core is left (R166). -/
def restartJob (d : Dev) (p i : Nat) (j : KilnJob) : Dev :=
  let d := discardAttempt d p j
  let j := { j with decided := false, folded := none, work := KilnWork.fresh }
  if j.retries ≥ 2 ∨ (j.cores = [] ∧ grantedCores d p = []) then moduleFault (endKilnJob (setJob d p i j) p i 0x17) (.kilnJob p)
  else
    let j := { j with retries := j.retries + 1 }
    setJob d p i (if j.cores = [] then { j with started := false, upTo := true } else j)

/-- The lent clusters take the tiles of some iterations of a streamed ROOT (R147, R351). -/
def runGuests (d : Dev) (p : Nat) (j : KilnJob) (takes : List (Nat × Nat)) (go : Bool) : Dev :=
  let d := endGuests d p j.idx
  forEach (takes.filter (fun x => x.2 != 0)) d (fun d x =>
    let d := guestTiles d x.1 j.n x.2
    if go then beginGuest d p j.idx x.1 else d)

/-- ROOT runs some iterations (R150). The tiles of a streamed job's products go to its cores and to lent clusters, which changes no bit
(R137, R147): given are the lent clusters that were free first, and how many tiles each took. A lent cluster whose bank the kiln does not
own faults, which stops the attempt (R166, R217). -/
def runRoot (d : Dev) (p i steps : Nat) (given : List (Nat × Nat)) : Dev :=
  operate d p i 2 (fun j =>
    let e := noteRead d p j.fblk (blockSize j.n)
    let r := rootLoop p steps e (rootReady d p j)
    let products := (r.2.work.iter - j.work.iter) * (2 + j.pLog)
    let fixed := jobMode d p j == 1 || jobMode d p j == 3
    let takes := if streams d p j then guestTakes d p j.cores.length (products * tilesOf j.n) fixed given else []
    let shut := takes.filter (fun x => x.2 != 0 && guestShut d x.1)
    if fixed && takes.any (fun x => x.2 != 0 && !inBubble d x.1) then d
    else if !shut.isEmpty then restartJob (forEach shut d (fun d x => noteNonOwner d x.1)) p i j
    else
      let f := runGuests (useArea r.1 p r.2) p r.2 takes r.2.outcome.isNone
      setJob (showIter f r.2) p i r.2)

/-- CHOL or LDLT to completion (R151 to R153, R160). -/
def runFactor (d : Dev) (p i op : Nat) : Dev :=
  operate d p i op (fun j =>
    if j.policy = 2 ∧ j.repStatus = 9 then setJob d p i { j with outcome := some 9 }
    else
      let ldl := op == 4
      let d := useArea (noteRead d p j.fblk (blockSize j.n)) p j
      let k := factorise (jobRef d p j) j.n ldl (prepareJob d p j)
      let j' := { j with work := { KilnWork.fresh with pivots := k.pivots } }
      if k.ready then
        setJob (writeRoot d p j.fblk j.n (1 - headRsel d p j.fblk) j.n (factorResult j.n ldl k)) p i (opOutcome j' 7)
      else setJob d p i (opOutcome j' 0x0B))

/-- The right-hand sides of a SOLVE. -/
def readRhs (d : Dev) (p : Nat) (j : KilnJob) : Mat := buildMat j.n j.m (fun r c => viewNat d p (j.rhs + 4 * (j.m * r + c)) 4)

/-- SOLVE has factored and solved once (R155). -/
def solveReady (d : Dev) (p : Nat) (j : KilnJob) : KilnJob :=
  if j.work.ready then j
  else if replaysNone j then opOutcome j 8
  else
    let k := factorise (jobRef d p j) j.n j.ldl (prepareJob d p j)
    let failed := opOutcome { j with work := { KilnWork.fresh with pivots := k.pivots } } 0x0B
    if !k.ready then failed
    else
      let b := readRhs d p j
      let x := solveAll (jobRef d p j) j.ldl j.n j.m k b
      if !matFinite x then failed
      else
        let j := { j with work := { k with rhs := b, x := x } }
        if j.policy = 2 ∧ j.repIter = 0 then opOutcome j (staleCode j) else j

/-- At most t refinement steps (R155). -/
def solveLoop (p : Nat) : Nat → Dev → KilnJob → Dev × KilnJob
  | 0, d, j => (d, j)
  | t + 1, d, j =>
    if j.outcome.isSome then (d, j)
    else
      let r := solveStep (jobRef d p j) j.ldl j.n j.m j.refineCap j.convTol j.work
      let j := { j with work := r.1 }
      let d := match r.2.1 with
        | some x => writeRoot d p j.fblk j.n (1 - headRsel d p j.fblk) j.m x
        | none => d
      solveLoop p t d (afterStep j r.2.2)

/-- SOLVE: factors, solves and takes some refinement steps (R155). -/
def runSolve (d : Dev) (p i steps : Nat) : Dev :=
  operate d p i 5 (fun j =>
    let d := useArea (noteRead (noteRead d p j.fblk (blockSize j.n)) p j.rhs (4 * j.n * j.m)) p j
    let r := if j.policy = 2 ∧ j.repStatus = 9 then (d, { j with outcome := some 9 }) else solveLoop p steps d (solveReady d p j)
    setJob (showIter r.1 r.2) p i r.2)

/-! Resolution, restarts, scrub, rings -/

/-- A decided job resolves (R167), or commits at its deadline (R161). -/
def settleJob (d : Dev) (p i : Nat) (deadline : Bool) : Dev :=
  match (kjobsOf d p)[i]? with
  | some j =>
    match j.outcome with
    | some code => if j.atDeadline ≠ deadline then d
      else if jobHeld d p j then steadyBroken d
      else endKilnJob d p i code
    | none => d
  | none => d

/-- A core fails a second time since MOD_RESET_N and is retired (R166, R294). -/
def retireCore (d : Dev) (p k : Nat) : Dev :=
  let d := setF (dropBit d (F.klnPcfg_cores p) k) (F.klnCore_state k) 4
  moduleFault (satF d F.telWear4_units 1) (.kilnCore k)

/-- A core check failure (R166): the cores the job keeps. -/
def failCore (d : Dev) (p : Nat) (j : KilnJob) (k : Nat) : Dev × KilnJob :=
  if d.coreFails.contains k then (retireCore d p k, { j with cores := j.cores.filter (fun x => x != k) })
  else ({ d with coreFails := k :: d.coreFails }, j)

/-- An attempt of job i is stopped (R166); when a core that fails was its last, it later takes up to as many as this attempt held (DEDUCED,
log entry 20). -/
def stopAttempt (d : Dev) (p i : Nat) (why : AttemptFault) : Dev :=
  match (kjobsOf d p)[i]? with
  | some j =>
    if !j.started || j.outcome.isSome then d
    else match why with
      | .bank => if j.banks.isEmpty then d else restartJob d p i j
      | .lentCluster => if streams d p j then restartJob d p i j else d
      | .core k =>
        if !j.cores.contains k.val then d
        else
          let j := { j with want := j.cores.length }
          let r := failCore d p j k.val
          restartJob r.1 p i r.2
  | none => d

/-- A scrub read of a kiln bank (R133): an uncorrectable error stops the attempt of the running job that uses the bank; a bank that only a
waiting or decided job holds counts as one that no job uses (DEDUCED, log entry 20). A correctable one is corrected and
counted, in a count that no register shows (log entry 20). -/
def scrubKiln (d : Dev) (b : Nat) (found : Found) : Dev :=
  match found with
  | .uncorrectable =>
    let place := (List.range 4).findSome? (fun p =>
      ((kjobsOf d p).findIdx? (fun j => j.started && j.outcome.isNone && j.banks.contains b)).map (fun i => (p, i)))
    (match place with
     | some (p, i) => stopAttempt d p i .bank
     | none => moduleFault d (.kilnBank b))
  | .correctable _ => { d with kilnCe := Tab.put d.kilnCe b ((Tab.get? d.kilnCe b).getD 0 + 1) }
  | .clean => d

/-- A commit took a core or bank from a job: its attempt is discarded, and it waits to start again (R134, R289; log entry 94). -/
def regrantJob (d : Dev) (p i : Nat) : Dev :=
  match (kjobsOf d p)[i]? with
  | some j =>
    if j.started && j.outcome.isNone &&
        (j.cores.any (fun k => !(grantedCores d p).contains k) || j.banks.any (fun b => !(grantedBanks d p).contains b)) then
      setJob (releaseCores (discardAttempt d p j) j.cores) p i
        { j with started := false, cores := [], banks := [], decided := false, folded := none, work := KilnWork.fresh }
    else d
  | none => d

/-- A commit changed a partition's kiln grant: every job that lost a core or bank begins again later. -/
def regrantKiln (d : Dev) (p : Nat) : Dev := forEach (List.range (kjobsOf d p).length) d (fun d i => regrantJob d p i)

/-- Clearing en abandons every job picked up (R165). -/
def abandonJobs (d : Dev) (p : Nat) : Dev :=
  let d := forEach (List.range (kjobsOf d p).length) d (fun d _ => endKilnJob d p 0 0x16)
  setF (setF d (F.klnRing_en p) 0) (F.klnRhead_head p) 0

/-- A store to KLN_RINGp (R168, R165, R10). -/
def kilnRingWrite (d : Dev) (p v : Nat) : Dev :=
  let en := bitOf v 63
  let n := bits v 51 48
  let put (d : Dev) : Dev :=
    let d := setF d (F.klnRing_base p) (bits v 47 7)
    if 2 ≤ n ∧ n ≤ 12 then setF d (F.klnRing_size_log2 p) n else setF d (F.klnRstat_wr_err p) 1
  if flag d (F.klnRing_en p) then
    (if en then setF d (F.klnRstat_wr_err p) 1 else put (abandonJobs d p))
  else
    let d := put d
    if !en then d
    else
      let size := getF d (F.klnRing_size_log2 p)
      if 2 ≤ size ∧ size ≤ 12 ∧ 128 * getF d (F.klnRing_base p) < 0x014000000000 then
        setF d (F.klnRing_en p) 1
      else setF d (F.klnRstat_ring_err p) 1

/-- An interval of R162 is open: the deadline of an unresolved job that acts under WAIT has passed. -/
def kilnIdle (d : Dev) (p : Nat) : Bool := (kjobsOf d p).any (fun j => j.late && policyOf d p j == 0)

end Sys2Proof.Machine
end

