-- ==== Sys2Proof/Machine/RackMath.lean ====
section
/-! DEFINITION. The arithmetic of the rack units: layer descriptors and records (Tables 8.3 to 8.5), the layer start (R197), the
moment and weight phases of one block (R198, R199) and the sums (R200). -/

namespace Sys2Proof.Machine

/-! Descriptors and records -/

/-- Bits h..l of word i of a layer descriptor (Table 8.3). -/
def lBits (ws : List Nat) (i h l : Nat) : Nat := bits (nth ws i) h l

/-- A binary32 value in bits h..l of word i. -/
def lVal (ws : List Nat) (i h l : Nat) : Val := f32 (lBits ws i h l)

/-- waddr. -/
def lWeight (ws : List Nat) : Nat := lBits ws 0 47 0
/-- laddr. -/
def lLees (ws : List Nat) : Nat := lBits ws 1 47 0
/-- maddr. -/
def lMoment (ws : List Nat) : Nat := lBits ws 2 47 0
/-- vaddr. -/
def lSecond (ws : List Nat) : Nat := lBits ws 3 47 0
/-- gstage. -/
def lStaged (ws : List Nat) : Bool := bitOf (nth ws 4) 63
/-- gaddr. -/
def lGrad (ws : List Nat) : Nat := lBits ws 4 47 0
/-- haddr. -/
def lHead (ws : List Nat) : Nat := lBits ws 5 47 0
/-- raddr. -/
def lRecord (ws : List Nat) : Nat := lBits ws 6 47 0
/-- count. -/
def lCount (ws : List Nat) : Nat := lBits ws 7 63 32
/-- first_block. -/
def lFirst (ws : List Nat) : Nat := lBits ws 7 31 0
/-- rows. -/
def lRows (ws : List Nat) : Nat := lBits ws 8 15 0
/-- cols. -/
def lCols (ws : List Nat) : Nat := lBits ws 8 31 16
/-- vmode: rank-1. -/
def lRank1 (ws : List Nat) : Bool := bitOf (nth ws 8) 35
/-- vexp. -/
def lVexp (ws : List Nat) : Int := signed 8 (lBits ws 8 47 40)
/-- An anchor of word 12. -/
def lAnchor (ws : List Nat) (lo : Nat) : Int := signed 12 (lBits ws 12 (lo + 11) lo)
/-- cmask. -/
def lMask (ws : List Nat) : Nat := lBits ws 13 27 0

/-- Elements of block i of the shard (R191). -/
def blockLen (ws : List Nat) (i : Nat) : Nat := min 32768 (lRows ws * lCols ws - 32768 * (lFirst ws + i))

/-- Elements of the shard. -/
def shardLen (ws : List Nat) : Nat := min (32768 * lCount ws) (lRows ws * lCols ws - 32768 * lFirst ws)

/-- Bytes padded to 64. -/
def pad64 (n : Nat) : Nat := cdiv n 64 * 64

/-- Offsets of the record's vectors (R194): r, c, rs_out, cs_out, rs_in, cs_in. -/
def vecOffset (ws : List Nat) (k : Nat) : Nat :=
  let r := lRows ws
  let c := lCols ws
  128 + (([pad64 (4 * r), pad64 (4 * c), pad64 (8 * r), pad64 (8 * c), pad64 (8 * r), pad64 (8 * c)]).take k).sum

/-- Bytes of a layer record. -/
def recordSize (ws : List Nat) : Nat := if lRank1 ws then vecOffset ws 6 else 128

/-- The word at entry i of a record vector k of n-byte entries. -/
def vecAt (d : Dev) (p : Nat) (ws : List Nat) (k n i : Nat) : Nat := viewNat d p (lRecord ws + vecOffset ws k + n * i) n

/-- Head word i of a layer record (Table 8.5). -/
def recWord (d : Dev) (p : Nat) (ws : List Nat) (i : Nat) : Nat := viewNat d p (lRecord ws + 8 * i) 8

/-- The value of a sum word at an anchor: none for the marker; in REFERENCE mode the binary32 value of its low half (R200). -/
def sumValue (ref : Bool) (w : Nat) (a : Int) : Option Val :=
  if ref then some (f32 (w % 2 ^ 32)) else if w = winMarker 0 then none else some (Val.ofInt (signed 64 w) (a - 62))

/-- b x plus (1 - b) y, divided by n, rounded once. -/
def mixDiv (b x y : Val) (n : Nat) : Nat :=
  fp32.enc ((((b.mul x).mul (Val.ofInt n 0)).add ((Val.one.sub b).mul y)).div (Val.ofInt n 0))

/-- b x plus (1 - b) y rounded once. -/
def mixVal (b x y : Val) : Nat := fp32.enc ((b.mul x).add ((Val.one.sub b).mul y))

/-! The layer start (R197) -/

/-- A rank-1 entry after the fold of last sweep's sum (R197). -/
def foldEntry (ref : Bool) (b2 : Val) (old sum : Nat) (a : Int) (n : Nat) : Nat :=
  match sumValue ref sum a with
  | none => old
  | some v =>
    let x := mixDiv b2 (f32 old) v n
    if v.isFin && (f32 x).isFin then x else old

/-- sqrt of a ratio of two sums, one rounding. -/
def rootRatio (x y : Val) : Nat := fp32.enc (x.div y).sqrt

/-- The head's new words at a layer start of gyle n (R197, Table 8.5): r is the folded row vector; words 4 and 9 to 12 stand. -/
def startHead (ref : Bool) (ws old : List Nat) (n : Nat) (r : List Nat) : List Nat :=
  let t := bits (nth old 0) 31 0
  let b1 := lVal ws 10 31 0
  let b2 := lVal ws 10 63 32
  let again := !lRank1 ws || decide (t > 0)
  let p2 := if again then fp32.enc (b2.mul (f32 (bits (nth old 2) 63 32))) else bits (nth old 2) 63 32
  let p1 := fp32.enc (b1.mul (f32 (bits (nth old 2) 31 0)))
  let sr := if lRank1 ws && decide (t > 0) then
      kilnWsum ref none (r.map (fun x => (f32 x, Val.one))) (maxExpo (r.map f32)) 0
    else bits (nth old 13) 31 0
  let sa := sumValue ref (nth old 9) (lAnchor ws 0)
  let sm := sumValue ref (nth old 10) (lAnchor ws 12)
  let su := sumValue ref (nth old 11) (lAnchor ws 24)
  let sw := sumValue ref (nth old 12) (lAnchor ws 36)
  let rho := match sa, sm with
    | some a, some m => if bitOf (nth ws 8) 36 && decide (t > 0) && Val.zero.below m then some (rootRatio a m) else none
    | _, _ => none
  let ratio := match su, sw with
    | some u, some w => if Val.zero.below w then rootRatio u w else fp32.nan
    | _, _ => fp32.nan
  [(rho.getD (bits (nth old 0) 63 32)) * 2 ^ 32 + (t + 1) % 2 ^ 32, b2n rho.isSome * 2 ^ 48 + n, p2 * 2 ^ 32 + p1, ratio, nth old 4,
   0, 0, 0, 0, nth old 9, nth old 10, nth old 11, nth old 12, sr, nth old 14, nth old 15]

/-- The layer start of gyle n (R197): nothing when the layer was begun by this gyle's sweep before. -/
def startLayer (d : Dev) (ref : Bool) (p n : Nat) (ws : List Nat) : Dev :=
  let old := (List.range 16).map (recWord d p ws)
  let d := noteRead d p (lRecord ws) (recordSize ws)
  if bits (nth old 1) 47 0 = n then d
  else
    let b2 := lVal ws 10 63 32
    let a := lAnchor ws 48
    let again := decide (bits (nth old 0) 31 0 > 0)
    let r := (List.range (lRows ws)).map (fun i =>
      if again then foldEntry ref b2 (vecAt d p ws 0 4 i) (vecAt d p ws 4 8 i) a (lCols ws) else vecAt d p ws 0 4 i)
    let c := (List.range (lCols ws)).map (fun j =>
      if again then foldEntry ref b2 (vecAt d p ws 1 4 j) (vecAt d p ws 5 8 j) a (lRows ws) else vecAt d p ws 1 4 j)
    let head := startHead ref ws old n (if lRank1 ws then r else [])
    let d := viewWrite d p (lRecord ws) (head.flatMap (leBytes 8))
    let d := if lRank1 ws then
        let d := viewWrite d p (lRecord ws + vecOffset ws 0) (r.flatMap (leBytes 4))
        let d := viewWrite d p (lRecord ws + vecOffset ws 1) (c.flatMap (leBytes 4))
        let d := viewWrite d p (lRecord ws + vecOffset ws 2) (List.replicate (8 * lRows ws) 0)
        viewWrite d p (lRecord ws + vecOffset ws 3) (List.replicate (8 * lCols ws) 0)
      else d
    let hi := lBits ws 11 63 32
    if hi % 2 ^ 31 ≠ 0 ∧ (f32 hi).below (f32 (nth head 3 % 2 ^ 32)) = true then
      raise (satF d (F.rkCnt_ratio_exceed p) 1) (some p) (F.rkIrq_ratio p) (F.rkIrqEn_ratio p)
    else d

/-! Sums (R200, R101) -/

/-- Adds squares to the sum word at an address: in the window of anchor a, drained and added at the memory (R101), or in
REFERENCE mode term by term in binary32. -/
def addSquares (d : Dev) (ref : Bool) (p addr : Nat) (a : Int) (vs : List Val) : Dev :=
  if vs.isEmpty then d
  else
    let w := viewNat d p addr 8
    if ref then
      let x := addTerms true ⟨0, a, true⟩ ⟨BitVec.ofNat 72 (w % 2 ^ 32), false⟩ (vs.map (fun v => (v, v)))
      let d := if (f32 (w % 2 ^ 32)).isFin && !(accFloat x).isFin then setNonfin d p else d
      viewWriteNat d p addr 8 (x.v.toNat % 2 ^ 32)
    else
      let t := drainWord false 0 (addTerms false ⟨0, a, true⟩ ⟨0, false⟩ (vs.map (fun v => (v, v))))
      let s := windowAdd 0 w t.1
      viewWriteNat (if t.2 || s.2 then setNonfin d p else d) p addr 8 s.1

/-! The phases of a block (R198, R199) -/

/-- n 16-bit elements of an array. -/
def elems16 (d : Dev) (p a n : Nat) : List Nat := (List.range n).map (fun i => viewNat d p (a + 2 * i) 2)

/-- Address of block i of an array of two-byte elements. -/
def blockAt (base i : Nat) : Nat := base + 65536 * i

/-- Address of block i of the second-moment array: 128 Q8L blocks of 258 bytes (R191, R116). -/
def secondAt (ws : List Nat) (i : Nat) : Nat := lSecond ws + 33024 * i

/-- The decoded second moment of element j of block i (R118). -/
def secondVal (d : Dev) (p : Nat) (ws : List Nat) (i j : Nat) : Val :=
  let a := secondAt ws i + 258 * (j / 256)
  q8lDecode (viewNat d p (a + j % 256) 1) (viewNat d p (a + 256) 2) (lVexp ws)

/-- What the moment phase finds for one element (R198, R199): its p, its new momentum code and whether that overflowed, its new
second moment; none when the element is held. -/
def momentElem (ws : List Nat) (exp : Int) (seed n e : Nat) (g m0 : Val) (v0 : Val) : Option (Val × (Nat × Bool) × Val) :=
  let b1 := lVal ws 10 31 0
  let b2 := lVal ws 10 63 32
  let q := g.scale (-exp)
  let m1 := f32 (mixVal b1 m0 q)
  let v1 := if lRank1 ws then Val.zero else f32 (mixVal b2 v0 (q.mul q))
  if g.isFin && q.isFin && m1.isFin && v1.isFin then
    some (q, bf16.stoch m1 (roundingDraw seed n (lBits ws 13 55 32) e), v1)
  else none

/-- The moment phase's results for a block of len elements from gradient codes gs (R198). -/
def momentResults (d : Dev) (p : Nat) (ws : List Nat) (exp : Int) (n i : Nat) (gs : List Nat) : List (Option (Val × (Nat × Bool) × Val)) :=
  let e0 := 32768 * (lFirst ws + i)
  let f := if lBits ws 8 34 32 = 0 then bf16 else fp16
  gs.zipIdx.map (fun g =>
    momentElem ws exp (getF d (F.rkSeed_seed p)) n (e0 + g.2) (f.decode g.1)
      (bf16.decode (viewNat d p (blockAt (lMoment ws) i + 2 * g.2) 2))
      (if lRank1 ws then Val.zero else secondVal d p ws i g.2))

/-- Writes the Q8L blocks of a block's second moments (R117, R199): a held element enters with its old value, and a Q8L block whose
every element is held stays. -/
def writeSecond (d : Dev) (p : Nat) (ws : List Nat) (i : Nat) (rs : List (Option (Val × (Nat × Bool) × Val))) : Dev :=
  forEach (List.range (cdiv rs.length 256)) d (fun d k =>
    let part := (rs.drop (256 * k)).take 256
    if part.all (fun r => r.isNone) then d
    else
      let ys := part.zipIdx.map (fun r => match r.1 with
        | some x => x.2.2.scale (-(lVexp ws))
        | none => (secondVal d p ws i (256 * k + r.2)).scale (-(lVexp ws)))
      let enc := q8lEncode ys
      let codes := enc.2.1 ++ List.replicate (256 - part.length) 0
      let d := viewWrite d p (secondAt ws i + 258 * k) (codes.map (BitVec.ofNat 8) ++ leBytes 2 enc.1)
      if enc.2.2 then setNonfin d p else d)

/-- The row and column sums of a rank-1 block (R198, R200). -/
def rankSums (d : Dev) (ref : Bool) (p : Nat) (ws : List Nat) (i : Nat) (rs : List (Option (Val × (Nat × Bool) × Val))) : Dev :=
  let e0 := 32768 * (lFirst ws + i)
  let cols := lCols ws
  let terms := (rs.zipIdx.filterMap (fun r => r.1.map (fun x => (e0 + r.2, x.1))))
  let d := forEach ((List.range (lRows ws)).filter (fun r => decide (e0 < (r + 1) * cols ∧ r * cols < e0 + rs.length))) d (fun d r =>
    addSquares d ref p (lRecord ws + vecOffset ws 2 + 8 * r) (lAnchor ws 48) ((terms.filter (fun t => t.1 / cols == r)).map (fun t => t.2)))
  forEach (List.range cols) d (fun d c =>
    addSquares d ref p (lRecord ws + vecOffset ws 3 + 8 * c) (lAnchor ws 48) ((terms.filter (fun t => t.1 % cols == c)).map (fun t => t.2)))

/-- Counts held elements in the layer record and RK_CNTp (R199). -/
def countHeld (d : Dev) (p : Nat) (ws : List Nat) (n : Nat) : Dev :=
  if n = 0 then d
  else
    let a := lRecord ws + 28
    satF (viewWriteNat d p a 4 (min (viewNat d p a 4 + n) (2 ^ 32 - 1))) (F.rkCnt_held p) n

/-- Writes a block header whole from its words (R193). -/
def writeHeader (d : Dev) (p : Nat) (ws : List Nat) (i : Nat) (h : List Nat) : Dev := viewWrite d p (lHead ws + 64 * i) (h.flatMap (leBytes 8))

/-- Header word k of block i (Table 8.4). -/
def headerWord (d : Dev) (p : Nat) (ws : List Nat) (i k : Nat) : Nat := viewNat d p (lHead ws + 64 * i + 8 * k) 8

/-- The moment phase and its write-out, from gradient codes gs (R198, R199, R201). -/
def momentBlock (d : Dev) (ref : Bool) (p : Nat) (ws : List Nat) (exp : Int) (n i : Nat) (gs : List Nat) : Dev :=
  let rs := momentResults d p ws exp n i gs
  let held := (rs.filter (fun r => r.isNone)).length
  let ms := rs.zipIdx.map (fun r => match r.1 with | some x => x.2.1.1 | none => viewNat d p (blockAt (lMoment ws) i + 2 * r.2) 2)
  let h := (List.range 8).map (headerWord d p ws i)
  let burst := rs.any (fun r => match r with | some x => x.2.1.2 | none => false)
  let d := if burst then setNonfin d p else d
  let d := viewWrite d p (blockAt (lMoment ws) i) (ms.flatMap (leBytes 2))
  let d := if lRank1 ws then rankSums d ref p ws i rs else writeSecond d p ws i rs
  let d := countHeld d p ws held
  writeHeader d p ws i [putBits (nth h 0) 47 0 n, nth h 1, nth h 2, putBits (nth h 3) 31 0 held, nth h 4, nth h 5, nth h 6, nth h 7]

/-- What the weight phase finds for one element (R198, R199): the new weight code and lees, and the terms of the four sums; none
when the element is held. -/
structure WeightOut where
  w : Nat
  l : Int
  a : Val
  mh : Val
  d : Val
  deriving DecidableEq, Repr

/-- vh of R198. -/
def secondHat (ws head : List Nat) (mh v r c : Val) : Val :=
  let p2 := f32 (bits (nth head 2) 63 32)
  let q := fl32 (Val.one.sub p2)
  if !lRank1 ws then fl32 (v.div q)
  else if bits (nth head 0) 31 0 = 1 then fl32 (mh.mul mh)
  else fl32 ((r.mul c).div (fl32 ((f32 (bits (nth head 13) 31 0)).mul q)))

/-- One element of the weight phase: momentum m, second moment v, rank-1 values r and c, weight code w0 and lees l0. -/
def weightElem (ws head : List Nat) (m v r c : Val) (w0 l0 : Nat) : Option WeightOut :=
  let p1 := f32 (bits (nth head 2) 31 0)
  let mh := fl32 (m.div (fl32 (Val.one.sub p1)))
  let vh := secondHat ws head mh v r c
  let a := fl32 (mh.div (fl32 ((fl32 vh.sqrt).add (lVal ws 11 31 0))))
  let s := if bitOf (nth head 1) 48 then fl32 ((f32 (bits (nth head 0) 63 32)).mul mh) else a
  let x := leesValue w0 (signed 16 l0)
  let dd := fl32 ((lVal ws 9 31 0).mul (s.add ((lVal ws 9 63 32).mul (fl32 x))))
  let t := leesSplit (x.sub dd)
  if mh.isFin && vh.isFin && a.isFin && s.isFin && dd.isFin && (bf16.decode t.1).isFin then some ⟨t.1, t.2, a, mh, dd⟩ else none

/-- The weight phase's results for block i. -/
def weightResults (d : Dev) (p : Nat) (ws : List Nat) (i : Nat) : List (Option WeightOut) :=
  let head := (List.range 16).map (recWord d p ws)
  let e0 := 32768 * (lFirst ws + i)
  (List.range (blockLen ws i)).map (fun j =>
    let e := e0 + j
    weightElem ws head (bf16.decode (viewNat d p (blockAt (lMoment ws) i + 2 * j) 2))
      (if lRank1 ws then Val.zero else secondVal d p ws i j)
      (if lRank1 ws then f32 (vecAt d p ws 0 4 (e / lCols ws)) else Val.zero)
      (if lRank1 ws then f32 (vecAt d p ws 1 4 (e % lCols ws)) else Val.zero)
      (viewNat d p (blockAt (lWeight ws) i + 2 * j) 2) (viewNat d p (blockAt (lLees ws) i + 2 * j) 2))

/-- The weight phase and its write-out (R198 to R201). -/
def weightBlock (d : Dev) (ref : Bool) (p : Nat) (ws : List Nat) (n i : Nat) : Dev :=
  let rs := weightResults d p ws i
  let held := (rs.filter (fun r => r.isNone)).length
  let wb := rs.zipIdx.flatMap (fun r => leBytes 2 (match r.1 with | some x => x.w | none => viewNat d p (blockAt (lWeight ws) i + 2 * r.2) 2))
  let lb := rs.zipIdx.flatMap (fun r => leBytes 2 (match r.1 with
    | some x => unsigned 16 x.l | none => viewNat d p (blockAt (lLees ws) i + 2 * r.2) 2))
  let h := (List.range 8).map (headerWord d p ws i)
  let sum (g : WeightOut → Val) : List Val := rs.filterMap (fun r => r.map g)
  let d := viewWrite d p (blockAt (lWeight ws) i) wb
  let d := viewWrite d p (blockAt (lLees ws) i) lb
  let d := addSquares d ref p (lRecord ws + 40) (lAnchor ws 0) (sum (fun x => x.a))
  let d := addSquares d ref p (lRecord ws + 48) (lAnchor ws 12) (sum (fun x => x.mh))
  let d := addSquares d ref p (lRecord ws + 56) (lAnchor ws 24) (sum (fun x => x.d))
  let d := addSquares d ref p (lRecord ws + 64) (lAnchor ws 36) (sum (fun x => bf16.decode x.w))
  let d := countHeld d p ws held
  writeHeader d p ws i ([nth h 0, putBits (nth h 1) 47 0 n, crc64 wb, putBits (nth h 3) 31 0 (bits (nth h 3) 31 0 + held)] ++
    wordsOf 4 (sm3 (wb ++ lb)))

end Sys2Proof.Machine
end

