-- ==== Sys2Proof/Machine/Rack.lean ====
section
/-! DEFINITION. The rack units: sweep requests (R193, R196, R209), the hand-out of blocks (R190, R202, R351), their phases (R198 to
R201), stops and faults (R203, R204), gradient staging (R206), replica checks (R207) and owner digests (R208). -/

namespace Sys2Proof.Machine

/-- State of a partition's sweep (Table 8.9). -/
def sweepState (d : Dev) (p : Nat) : Nat := getF d (F.rkSstat_state p)

/-- A request is armed, running or stopping. -/
def sweepBusy (d : Dev) (p : Nat) : Bool := decide (1 ≤ sweepState d p ∧ sweepState d p ≤ 3)

/-- A sweep or check of the partition is armed, running or stopping (R209). -/
def rackLocked (d : Dev) (p : Nat) : Bool := sweepBusy d p || flag d (F.rkChk_busy p)

/-- A sweep with nothing in it. -/
def Sweep.none : Sweep :=
  { gyle := 0, mode := 0, resume := false, exp := 0, layers := [], layer := 0, block := 0, begun := false, handed := 0, staged := 0
    stamp := false, units := [], again := [] }

/-- The sweep of a partition, or its last. -/
def sweepOf (d : Dev) (p : Nat) : Sweep := (Tab.get? d.sweeps p).getD Sweep.none

/-- Replaces a partition's sweep. -/
def setSweep (d : Dev) (p : Nat) (s : Sweep) : Dev := { d with sweeps := Tab.put d.sweeps p s }

/-- Descriptor words of the sweep's layer l. -/
def layerWords (s : Sweep) (l : Nat) : List Nat := ((s.layers[l]?).map (fun x => x.words)).getD []

/-- The gyle of a sweep computes in REFERENCE (R18). -/
def Sweep.ref (s : Sweep) : Bool := s.mode == 3

/-- A request is refused with a code; a sweep under way goes on (Table 8.9). -/
def rackRefused (d : Dev) (p code : Nat) : Dev :=
  raise (setF d (F.rkSstat_err p) code) (some p) (F.rkIrq_refused p) (F.rkIrqEn_refused p)

/-- A request is refused (Table 8.9). -/
def refuseSweep (d : Dev) (p code : Nat) : Dev := rackRefused (if code = 1 then d else setF d (F.rkSstat_state p) 6) p code

/-! Gradient staging (R206) -/

/-- Applies the held writes of a slot while it is free. -/
def drainSlot (d : Dev) (u i : Nat) : Dev :=
  let mine := d.stgHeld.filter (fun x => x.1 == u && x.2.1 == i)
  let d := { d with stgHeld := d.stgHeld.filter (fun x => !(x.1 == u && x.2.1 == i)) }
  forEach mine d (fun d x => stagePut d u i x.2.2.1 x.2.2.2)

/-- Unit and place of a partition's slot s. -/
def slotPlace (d : Dev) (p s : Nat) : Nat × Nat := ((slotUnits d p).getD (s / 8) 0, s % 8)

/-- The blocks of a sweep that read from staging, in list order: their lengths. -/
def stagedBlocks (s : Sweep) : List Nat :=
  if s.resume then []
  else s.layers.flatMap (fun l => if lStaged l.words then (List.range (lCount l.words)).map (blockLen l.words) else [])

/-- Sets how many bytes fill a slot, and lets held writes in. -/
def needSlot (d : Dev) (t : Nat × Nat) (n : Nat) : Dev := drainSlot { d with stg := Tab.put d.stg t { stgSlot d t.1 t.2 with need := n } } t.1 t.2

/-- What fills the slot that block b of the staged blocks reads. -/
def stagedNeed (s : Sweep) (b : Nat) : Nat := 2 * (((stagedBlocks s)[b]?).getD 0x8000)

/-- Slots of a partition's sweep (R206). -/
def slotCount (d : Dev) (p : Nat) : Nat := 8 * (slotUnits d p).length

/-- At a sweep's start each slot waits for its first block. -/
def openSlots (d : Dev) (p : Nat) : Dev :=
  let s := sweepOf d p
  forEach (List.range (min (slotCount d p) (stagedBlocks s).length)) d (fun d b => needSlot d (slotPlace d p b) (stagedNeed s b))

/-- Staged block b with the unit and place of the slot it reads: slot b mod 8k. -/
def slotOfBlock (d : Dev) (p b : Nat) : Nat × Nat × Nat :=
  let t := slotPlace d p (b % slotCount d p)
  (b, t.1, t.2)

/-- The slot of a staged block is freed when its phase has read it. -/
def freeSlot (d : Dev) (p : Nat) (b : Nat × Nat × Nat) : Dev :=
  needSlot { d with stg := Tab.put d.stg b.2 ⟨0, 0⟩ } b.2 (stagedNeed (sweepOf d p) (b.1 + slotCount d p))

/-- The slot of a staged block is full. -/
def slotFull (d : Dev) (p : Nat) (b : Nat × Nat × Nat) : Bool :=
  decide (stagedNeed (sweepOf d p) b.1 ≤ (stgSlot d b.2.1 b.2.2).count)

/-- A write into a partition's staging slots. -/
def stagingWrite (d : Dev) (p slot off : Nat) (data : List Byte) : Dev :=
  if slot < slotCount d p ∧ off + data.length ≤ 0x10000 then viewPutList d p (0x040080000000 + 0x10000 * slot + off) data else d

/-! Evaluation (R196, R197, Table 8.9) -/

/-- The field checks of a layer descriptor (Tables 8.3, 8.9). -/
def badLayer (d : Dev) (p : Nat) (ws : List Nat) : Bool :=
  let unit (i h l : Nat) : Bool := Val.zero.le (lVal ws i h l) && (lVal ws i h l).below Val.one
  [(0, 63, 48), (1, 63, 48), (2, 63, 48), (3, 63, 48), (4, 62, 48), (5, 63, 48), (6, 63, 48), (8, 39, 38), (12, 63, 60), (13, 63, 56),
   (14, 63, 32), (15, 63, 0)].any (fun (r : Nat × Nat × Nat) => lBits ws r.1 r.2.1 r.2.2 != 0) ||
  decide (lBits ws 8 34 32 > 1) || lRows ws == 0 || lCols ws == 0 || lCount ws == 0 ||
  !unit 10 31 0 || !unit 10 63 32 || !Val.zero.le (lVal ws 9 31 0) || !Val.zero.le (lVal ws 9 63 32) ||
  !Val.zero.below (lVal ws 11 31 0) || !cmaskOk d p (lMask ws)

/-- The arrays of a layer: address and bytes. -/
def layerArrays (ws : List Nat) (resume : Bool) : List (Nat × Nat) :=
  let n := 2 * shardLen ws
  [(lWeight ws, n), (lLees ws, n), (lMoment ws, n), (lHead ws, 64 * lCount ws), (lRecord ws, recordSize ws)] ++
  (if lRank1 ws then [] else [(lSecond ws, 258 * cdiv (shardLen ws) 256)]) ++
  (if lStaged ws && !resume then [] else [(lGrad ws, n)])

/-- The address checks of a layer. -/
def badArrays (d : Dev) (p : Nat) (ws : List Nat) (resume : Bool) : Bool :=
  (layerArrays ws resume).any (fun a => a.1 % 64 != 0 || !rangePages d p a.1 (max a.2 1))

/-- SUMS of R197. -/
def badSums (d : Dev) (p n : Nat) (ws : List Nat) : Bool :=
  bits (recWord d p ws 1) 47 0 != n && decide (bits (recWord d p ws 0) 31 0 > 0) &&
  bits (recWord d p ws 4) 47 0 != bits (recWord d p ws 1) 47 0

/-- The descriptors of a list: sixteen words each. -/
def listWords (d : Dev) (p base count : Nat) : List (List Nat) :=
  (List.range count).map (fun i => (List.range 16).map (fun k => viewNat d p (128 * base + 128 * i + 8 * k) 8))

/-- The owned layers of the sweep list (R195). -/
def ownedLayers (d : Dev) (p : Nat) : List (List Nat) :=
  (listWords d p (getF d (F.rkSlist_base p)) (getF d (F.rkSlist_count p))).filter (fun ws => !bitOf (nth ws 8) 37)

/-- Bytes of the sweep list. -/
def listBytes (d : Dev) (p : Nat) : Nat × Nat := (128 * getF d (F.rkSlist_base p), 128 * getF d (F.rkSlist_count p))

/-- The checks of Table 8.9 at an evaluation that read no memory: the first that fails. -/
def earlyCode (d : Dev) (p : Nat) : Option Nat :=
  let l := listBytes d p
  if flag d (F.fabNflag_red_nonfin p) then some 3
  else if unitsOf d p = [] then some 4
  else if l.2 = 0 then some 5
  else if !rangePages d p l.1 l.2 then some 6
  else none

/-- The checks of Table 8.9 on the list of a sweep of gyle n, once it can be read: the first that fails. -/
def listCode (d : Dev) (p n : Nat) : Option Nat :=
  let ls := ownedLayers d p
  let resume := flag d (F.rkSweep_resume p)
  if ls.any (badLayer d p) then some 5
  else if ls.any (fun ws => badArrays d p ws resume) then some 6
  else if ls.any (fun ws => decide (lFirst ws + lCount ws > cdiv (lRows ws * lCols ws) 32768)) then some 7
  else if ls.any (badSums d p n) then some 8
  else none

/-- A page of the list, or of a record that SUMS reads, is held (R237, R248). -/
def evalHeld (d : Dev) (p : Nat) : Bool :=
  let l := listBytes d p
  heldRange d p l.1 l.2 || (ownedLayers d p).any (fun ws => heldRange d p (lRecord ws) 128)

/-- The blocks of the partition's last sweep list with their header digests, by layer identity and block (Table 12.5). -/
def ownDigests (d : Dev) (p : Nat) : List ((Nat × Nat) × List Byte) :=
  (sweepOf d p).layers.flatMap (fun l => (List.range (lCount l.words)).map (fun i =>
    ((lBits l.words 14 31 0, lFirst l.words + i), (List.range 4).flatMap (fun k => leBytes 8 (headerWord d p l.words i (k + 4))))))

/-- Every block of the job: this module's, and in a slice of more modules those of the others (log entry 93). -/
def blockDigests (d : Dev) (p g : Nat) : List ((Nat × Nat) × List Byte) :=
  ownDigests d p ++ (if flag d (F.fabSlice_valid p) && getF d (F.fabSlice_size p) != 0 then
    (Config.otherBlocks p g).map (fun x => (x.1, leBytes 32 x.2.toNat)) else [])

/-- Layer identity and block order. -/
def blockOrder (a b : (Nat × Nat) × List Byte) : Bool := decide (a.1.1 < b.1.1) || (a.1.1 == b.1.1 && decide (a.1.2 ≤ b.1.2))

/-- The digest of a batch record: SM3 over prog_digest, the header digests in order, and input_digest (Table 12.5). -/
def recordDigest (d : Dev) (p g : Nat) : List Byte :=
  sm3 (leBytes 32 (Config.progDigest p g).toNat ++ ((blockDigests d p g).mergeSort blockOrder).flatMap (fun x => x.2) ++
    leBytes 32 (Config.inputDigest p g).toNat)

/-- The batch record of a gyle is closed, with its digest (R305). -/
def closeBatch (d : Dev) (p g : Nat) : Dev :=
  { d with batch := Tab.put d.batch (p, g) { batchOf d p g with
      state := 2, progDigest := Config.progDigest p g, inputDigest := Config.inputDigest p g, digest := recordDigest d p g } }

/-- A sweep whose every layer is complete is done (Table 8.9). -/
def finishSweep (d : Dev) (p : Nat) : Dev :=
  let s := sweepOf d p
  if sweepState d p = 2 ∧ s.stamp = false ∧ s.layers.all (fun l => l.posted) = true then
    let d := closeBatch (setF (setF d (F.rkSstat_state p) 5) (F.rkSstat_last_gyle p) s.gyle) p s.gyle
    raise d (some p) (F.rkIrq_done p) (F.rkIrqEn_done p)
  else d

/-- The start of the layer that a sweep has come to (R197); it waits while its record is held (R237, R242, R248). -/
def beginLayer (d : Dev) (p : Nat) : Dev :=
  let s := sweepOf d p
  let ws := layerWords s s.layer
  if sweepState d p ≠ 2 ∨ s.begun = true ∨ s.layers.length ≤ s.layer then d
  else if heldWrite d p (lRecord ws) (recordSize ws) then steadyBroken d
  else startLayer (setSweep d p { s with begun := true }) s.ref p s.gyle ws

/-- A sweep's evaluation, early checks passed, with its list readable: it starts with its first layer's start, or is refused (R196). -/
def startSweep (d : Dev) (p : Nat) (e : SweepEval) : Dev :=
  match listCode d p e.gyle with
  | some code => refuseSweep d p code
  | none =>
    let l := listBytes d p
    let s : Sweep := { Sweep.none with
      gyle := e.gyle, mode := e.mode, resume := flag d (F.rkSweep_resume p), exp := e.exp
      layers := (ownedLayers d p).map (fun ws => ⟨ws, lCount ws, false⟩), units := unitsOf d p }
    let d := setF (setSweep (noteRead d p l.1 l.2) p s) (F.rkSstat_state p) 2
    finishSweep (beginLayer (openSlots d p) p) p

/-- An evaluation goes on, or waits, armed, for a page (R196, R237). -/
def tryEval (d : Dev) (p : Nat) (e : SweepEval) : Dev :=
  if evalHeld d p then steadyBroken (setF { d with evals := Tab.put d.evals p e } (F.rkSstat_state p) 1)
  else startSweep (setF { d with evals := Tab.erase d.evals p } (F.rkSstat_state p) 0) p e

/-- Evaluates a request for gyle n (R196): the sweep starts, waits for a page, or is refused. -/
def evaluateSweep (d : Dev) (p n : Nat) : Dev :=
  match earlyCode d p with
  | some code => refuseSweep d p code
  | none => tryEval d p ⟨n, signed 8 (getF d (F.rkLscale_sweep_exp p)), gyleMode d p n⟩

/-- What waits for a page in the rack units of a partition goes on: an evaluation, a layer's start (R237, R248). -/
def resumeSweep (d : Dev) (p : Nat) : Dev :=
  match Tab.get? d.evals p with
  | some e => tryEval d p e
  | none => beginLayer d p

/-- A request for a sweep by a store that names a gyle, which may be other than the register's where R209 keeps that: no gyle's number is
refused before anything else (R193, R196). -/
def requestSweep (d : Dev) (p named : Nat) : Dev :=
  let n := getF d (F.rkSweep_gyle p)
  let c := getF d (F.fabNflag_chk_gyle p)
  let v := flag d (F.fabNflag_chk_valid p)
  if named = noGyle ∨ n = noGyle then (if sweepBusy d p then rackRefused d p 5 else refuseSweep d p 5)
  else if sweepBusy d p then refuseSweep d p 1
  else if v = true ∧ c = n then evaluateSweep d p n
  else if v = false ∨ c + 1 = n then setF d (F.rkSstat_state p) 1
  else refuseSweep d p 2

/-- An armed request at a release that carries gyle g (R196). -/
def sweepRelease (d : Dev) (p g : Nat) : Dev :=
  if sweepState d p ≠ 1 ∨ (Tab.get? d.evals p).isSome = true then d
  else if getF d (F.rkSweep_gyle p) = g then evaluateSweep (setF d (F.rkSstat_state p) 0) p g
  else refuseSweep d p 2

/-! Blocks (R190, R202) -/

/-- The work of unit u. -/
def workOf (d : Dev) (u : Nat) : Option RackWork := Tab.get? d.rack u

/-- Some unit works for the partition. -/
def anyWork (d : Dev) (p : Nat) : Bool := d.rack.any (fun e => e.2.p == p) || !(sweepOf d p).again.isEmpty

/-- A unit's work ends: it goes idle (Table 8.12). -/
def freeUnit (d : Dev) (u : Nat) : Dev :=
  let d := { d with rack := Tab.erase d.rack u }
  if getF d (F.rkUnit_state u) = 4 then d else setF d (F.rkUnit_state u) 1

/-- The sweep enters faulted once no block is in progress (R202). -/
def faultSweep (d : Dev) (p code : Nat) : Dev :=
  raise (setF (setF d (F.rkSstat_state p) 7) (F.rkSstat_err p) code) (some p) (F.rkIrq_fault p) (F.rkIrqEn_fault p)

/-- A waiting stamp fault takes effect when the earlier blocks are done (R202). -/
def settleStamp (d : Dev) (p : Nat) : Dev :=
  if (sweepOf d p).stamp && !anyWork d p && sweepState d p == 2 then faultSweep d p 9 else d

/-- Listed block i of layer l has wstamp n. -/
def blockDone (d : Dev) (p l : Nat) : Dev :=
  let s := sweepOf d p
  setSweep d p { s with layers := s.layers.modify l (fun x => { x with left := x.left - 1 }) }

/-- The next block in sweep order; the next layer starts when the sweep comes to it (R197). -/
def nextBlock (d : Dev) (p : Nat) (staged : Bool) : Dev :=
  let s := sweepOf d p
  let s := { s with handed := s.handed + 1, staged := s.staged + b2n staged, block := s.block + 1 }
  if s.block < lCount (layerWords s s.layer) then setSweep d p s
  else
    beginLayer (setSweep d p { s with layer := s.layer + 1, block := 0, begun := false }) p

/-- Work is handed out in a fixed rotation in STEADY and REFERENCE: load balancing is off (R351). -/
def rotates (mode : Nat) : Bool := mode == 1 || mode == 3

/-- Unit u may take the next block: granted, not retired, with no work, and of the right rank under rotation. -/
def unitReady (d : Dev) (p u : Nat) : Bool :=
  let us := unitsOf d p
  us.contains u && (workOf d u).isNone && getF d (F.rkUnit_state u) != 4 &&
  (!rotates (sweepOf d p).mode || us.getD ((sweepOf d p).handed % us.length) 16 == u)

/-- Unit u takes a block: a gated unit wakes. -/
def takeBlock (d : Dev) (u : Nat) (w : RackWork) : Dev :=
  let d := setF { d with rack := Tab.put d.rack u w } (F.rkUnit_part u) w.p
  let st := getF d (F.rkUnit_state u)
  if st = 0 ∨ st = 3 then
    let d := setF d (F.rkUnit_state u) 3
    if d.gated.contains (.rackPower (Fin.ofNat 16 u)) then requestWake d (.rackPower (Fin.ofNat 16 u)) else d
  else setF d (F.rkUnit_state u) 2

/-- The first block that waits to run a phase again and may run on unit u: another than the one that failed it, where a granted unit but
that is left (R204). -/
def againFor (d : Dev) (p u : Nat) : Option (RackWork × Nat) :=
  (sweepOf d p).again.find? (fun x => x.2 != u || (unitsOf d p).all (fun y => y == u))

/-- The next block is handed to unit u and its stamps decide its work (R202, Table 8.6); a block that waits to run a phase again goes
first (R204). -/
def handOut (d : Dev) (p u : Nat) : Dev :=
  let s := sweepOf d p
  let ws := layerWords s s.layer
  if sweepState d p ≠ 2 then d
  else match againFor d p u with
  | some x =>
    if (unitsOf d p).contains u && (workOf d u).isNone && getF d (F.rkUnit_state u) != 4 then
      takeBlock (setSweep d p { s with again := s.again.erase x }) u x.1
    else d
  | none =>
    if s.stamp || decide (s.layers.length ≤ s.layer) || !unitReady d p u then d
    else if !s.begun then beginLayer d p
    else if heldRange d p (lHead ws + 64 * s.block) 64 then steadyBroken d
    else
      let d := noteRead d p (lHead ws + 64 * s.block) 64
      let ms := bits (headerWord d p ws s.block 0) 47 0
      let wt := bits (headerWord d p ws s.block 1) 47 0
      let staged := lStaged ws && !s.resume
      let slot := if staged then some (slotOfBlock d p s.staged) else none
      if ms = wt ∧ ms ≠ s.gyle then nextBlock (takeBlock d u ⟨p, s.layer, s.block, slot, false⟩) p staged
      else if s.resume = true ∧ ms = s.gyle ∧ wt ≠ s.gyle then nextBlock (takeBlock d u ⟨p, s.layer, s.block, none, true⟩) p staged
      else if s.resume = true ∧ ms = s.gyle ∧ wt = s.gyle then nextBlock (blockDone d p s.layer) p staged
      else settleStamp (setSweep d p { s with stamp := true }) p

/-- An earlier block of the same layer is in work or waits to run a phase again. -/
def earlierWork (d : Dev) (w : RackWork) : Bool :=
  (d.rack.map (fun e => e.2) ++ (sweepOf d w.p).again.map (fun x => x.1)).any (fun x =>
    x.p == w.p && x.layer == w.layer && decide (x.block < w.block))

/-- In REFERENCE mode the sums take a layer's blocks in order (R200). -/
def inOrder (d : Dev) (w : RackWork) : Bool := !(sweepOf d w.p).ref || !earlierWork d w

/-- The second moments of a block: address and bytes (none in rank-1 mode). -/
def secondRange (ws : List Nat) (i : Nat) : Nat × Nat := (secondAt ws i, if lRank1 ws then 0 else 33024)

/-- The arrays a phase of a block reads only: address and bytes. -/
def phaseReads (w : RackWork) (ws : List Nat) : List (Nat × Nat) :=
  let n := 2 * blockLen ws w.block
  if w.weight then [(blockAt (lMoment ws) w.block, n), secondRange ws w.block]
  else if w.slot.isSome then [] else [(blockAt (lGrad ws) w.block, n)]

/-- The arrays a phase of a block reads and writes. -/
def phaseWrites (w : RackWork) (ws : List Nat) : List (Nat × Nat) :=
  let n := 2 * blockLen ws w.block
  (if w.weight then [(blockAt (lWeight ws) w.block, n), (blockAt (lLees ws) w.block, n)]
   else [(blockAt (lMoment ws) w.block, n), secondRange ws w.block]) ++
  [(lRecord ws, recordSize ws), (lHead ws + 64 * w.block, 64)]

/-- Some array byte of the block's phase is held (R237, R242, R248). -/
def blockHeld (d : Dev) (w : RackWork) (ws : List Nat) : Bool :=
  (phaseReads w ws).any (fun a => heldRange d w.p a.1 a.2) || (phaseWrites w ws).any (fun a => heldWrite d w.p a.1 a.2)

/-- What reading a phase's arrays does to their pages (R231, R240, R249). -/
def readArrays (d : Dev) (w : RackWork) (ws : List Nat) : Dev := forEach (phaseReads w ws ++ phaseWrites w ws) d (fun d a => noteRead d w.p a.1 a.2)

/-- Counts a phase written out (Tables 8.10, 8.12). -/
def countPhase (d : Dev) (p u : Nat) : Dev := addF (addF d (F.rkCnt_blocks p) 1) (F.rkUnit_blocks u) 1

/-- The work of granted unit u in a phase whose turn it is, with its layer's words (R189). -/
def readyWork (d : Dev) (u : Nat) (weight : Bool) : Option (RackWork × List Nat) :=
  match workOf d u with
  | some w =>
    if w.weight == weight && getF d (F.rkUnit_state u) == 2 && sweepState d w.p == 2 && (unitsOf d w.p).contains u && inOrder d w &&
        (match w.slot with | some b => slotFull d w.p b | none => true) then
      some (w, layerWords (sweepOf d w.p) w.layer)
    else none
  | none => none

/-- The gradient codes of a block, from its staging slot or from gaddr (R202, R206). -/
def gradients (d : Dev) (w : RackWork) (ws : List Nat) : List Nat :=
  match w.slot with
  | some b =>
    let a := stagingBase b.2.1 b.2.2
    (List.range (blockLen ws w.block)).map (fun j => leNat [memGet d.mem (a + 2 * j), memGet d.mem (a + 2 * j + 1)])
  | none => elems16 d w.p (blockAt (lGrad ws) w.block) (blockLen ws w.block)

/-- Discards every block in progress of a partition (R203). -/
def discardBlocks (d : Dev) (p : Nat) : Dev :=
  let d := forEach ((d.rack.filter (fun e => e.2.p == p)).map (fun e => e.1)) d freeUnit
  setSweep d p { sweepOf d p with again := [] }

/-- A module fault of the rack units ends the sweep (R204, Table 8.9). -/
def rackFault (d : Dev) (p : Nat) (x : FaultUnit) : Dev := faultSweep (moduleFault (discardBlocks d p) x) p 0x0A

/-- The moment phase of unit u's block (R198, R201, R206), with what the reading of its slot finds: an uncorrectable error there is a module
fault. -/
def runMoment (d : Dev) (u : Nat) (found : Found) : Dev :=
  match readyWork d u false with
  | none => d
  | some (w, ws) =>
    let s := sweepOf d w.p
    if blockHeld d w ws then steadyBroken d
    else match w.slot, found with
    | some b, .uncorrectable => rackFault d w.p (.staging b.2.1)
    | _, _ =>
      let gs := gradients d w ws
      let d := readArrays d w ws
      let d := match w.slot with | some b => freeSlot d w.p b | none => d
      let d := countPhase (momentBlock d s.ref w.p ws s.exp s.gyle w.block gs) w.p u
      { d with rack := Tab.put d.rack u { w with slot := none, weight := true } }

/-- The weight phase of unit u's block (R198, R201). -/
def runWeight (d : Dev) (u : Nat) : Dev :=
  match readyWork d u true with
  | none => d
  | some (w, ws) =>
    let s := sweepOf d w.p
    if blockHeld d w ws then steadyBroken d
    else
      let d := countPhase (weightBlock (readArrays d w ws) s.ref w.p ws s.gyle w.block) w.p u
      settleStamp (blockDone (freeUnit d u) w.p w.layer) w.p

/-- Every listed block of a layer has wstamp n: its event is posted (R195). -/
def completeLayer (d : Dev) (p l : Nat) : Dev :=
  let s := sweepOf d p
  match s.layers[l]? with
  | some x =>
    if x.left ≠ 0 ∨ x.posted = true then d
    else
      let d := setSweep d p { s with layers := s.layers.set l { x with posted := true } }
      finishSweep (postMask d (lMask x.words) (lBits x.words 13 31 28)) p
  | none => d

/-- A stop (R203): a phase's write-out is part of the command that runs it, so none is in progress. -/
def stopSweep (d : Dev) (p : Nat) : Dev :=
  let d := setF d (F.rkSweep_stop p) 0
  if sweepState d p = 2 then
    raise (setF (discardBlocks d p) (F.rkSstat_state p) 4) (some p) (F.rkIrq_done p) (F.rkIrqEn_done p)
  else d

/-- Takes the RW fields of a store under R209: kept, with wr_err when it would change one, while a sweep or check is under way. -/
def rackGuard (d : Dev) (p : Nat) (fs : List (FKey × Nat)) : Dev :=
  if rackLocked d p then
    (if fs.any (fun f => getF d f.1 != f.2 % 2 ^ f.1.width) then setF d (F.rkSstat_wr_err p) 1 else d)
  else forEach fs d (fun d f => setF d f.1 f.2)

/-- A store to RK_SWEEPp (R196, R203, R209); of one that sets both stop and start the stop acts first (DESIGN CHOICE, log entry 91). -/
def sweepWrite (d : Dev) (p v : Nat) : Dev :=
  let d := rackGuard d p [(F.rkSweep_resume p, bits v 61 61), (F.rkSweep_gyle p, bits v 47 0)]
  let d := if bitOf v 62 then stopSweep d p else d
  if bitOf v 63 then requestSweep d p (bits v 47 0) else d

/-! Unit faults (R204, R294) -/

/-- A unit fails for the second time since MOD_RESET_N and is retired. -/
def retireUnit (d : Dev) (p u : Nat) : Dev :=
  moduleFault (satF (setF (dropBit d (F.rkPcfg_units p) u) (F.rkUnit_state u) 4) F.telWear4_units 1) (.rackUnit u)

/-- A unit's work is to run again from its unchanged inputs, on another unit where one is granted (R189, R204). -/
def requeue (d : Dev) (u : Nat) : Dev :=
  match workOf d u with
  | none => d
  | some w =>
    let s := sweepOf d w.p
    setSweep (freeUnit d u) w.p { s with again := s.again ++ [(w, u)] }

/-- A failure of a unit is on record; the second retires it. -/
def noteUnitFail (d : Dev) (p u : Nat) : Dev :=
  if d.rackFails.contains u then retireUnit d p u else { d with rackFails := u :: d.rackFails }

/-- A unit fails its checks (R204): before a write-out the phase is discarded and runs again, on unit next where that may take it now, else
when one is handed it; during a write-out, or with no granted unit left, the module has failed. -/
def retryPhase (d : Dev) (u next : Nat) (writing : Bool) : Dev :=
  match workOf d u with
  | none => d
  | some w =>
    if writing then rackFault (noteUnitFail d w.p u) w.p (.rackUnit u)
    else
      let d := requeue (noteUnitFail (satF d (F.rkUnit_retries u) 1) w.p u) u
      if (unitsOf d w.p).isEmpty then rackFault d w.p (.rackUnit u)
      else if (againFor d w.p next).isSome then handOut d w.p next
      else d

/-- A rack unit leaves partition p's grant (R189): what it held runs again on a unit still granted, and the sweep's slots are those of
the units it keeps (log entry 91). -/
def ungrantUnit (d : Dev) (p u : Nat) : Dev :=
  let d := match workOf d u with | some w => if w.p = p then requeue d u else d | none => d
  match Tab.get? d.sweeps p with
  | some s => setSweep d p { s with units := s.units.filter (fun x => x != u) }
  | none => d

/-! Replica checks and owner digests (R207, R208) -/

/-- The bytes of n view bytes; used for checks. -/
def blockBytes (d : Dev) (p a n : Nat) : List Byte := viewRead d p a n

/-- Block i of a replica matches the CRC of its header copy. -/
def replicaOk (d : Dev) (p : Nat) (ws : List Nat) (i : Nat) : Bool :=
  crc64 (blockBytes d p (blockAt (lWeight ws) i) (2 * blockLen ws i)) == headerWord d p ws i 2

/-- The page of a replica is poisoned with its clean copy on the owner (R207; the owner's page lies at its source attribute, or at
the same address of the same partition: log entry 21). -/
def poisonReplica (d : Dev) (p owner : Nat) (wv : Tier × Nat) : Dev :=
  match pageAt d p wv.1 wv.2 with
  | some x =>
    let a := (match wv.1 with | .hbm => 0 | .cellar => 0x020000000000) + pageSize * wv.2
    let src := x.src.getD (owner, p, a)
    poisonData (setPage d p wv.1 wv.2 { x with src := some src }) (p, wv.1, wv.2)
  | none => d

/-- Some page of a block is lost. -/
def blockLost (d : Dev) (p : Nat) (ws : List Nat) (i : Nat) : Bool :=
  (pagesTouched d p (blockAt (lWeight ws) i) (2 * blockLen ws i)).any (fun wv =>
    match pageAt d p wv.1 wv.2 with | some x => x.poison == .lost | none => false)

/-- The weight bytes of a replica's block and its header: address and bytes. -/
def replicaRanges (ws : List Nat) (i : Nat) : List (Nat × Nat) := [(blockAt (lWeight ws) i, 2 * blockLen ws i), (lHead ws + 64 * i, 64)]

/-- A page of a replica's block or header is held: it comes in, or is being refilled, before the block is checked (R237, R248). -/
def replicaHeld (d : Dev) (p : Nat) (ws : List Nat) (i : Nat) : Bool := (replicaRanges ws i).any (fun a => heldRange d p a.1 a.2)

/-- Checks every replica block of a list that can be read, and refills the mismatched ones (R207). -/
def checkReplicas (d : Dev) (p : Nat) (ls : List (List Nat)) : Dev :=
  forEach ls d (fun d ws => forEach (List.range (lCount ws)) d (fun d i =>
    if replicaHeld d p ws i then steadyBroken d
    else
      let e := forEach (replicaRanges ws i) d (fun d a => noteRead d p a.1 a.2)
      if blockLost d p ws i || replicaOk d p ws i then e
      else
        forEach (pagesTouched d p (blockAt (lWeight ws) i) (2 * blockLen ws i)) (satF e (F.rkChk_bad p) 1)
          (fun d wv => poisonReplica d p (lBits ws 8 63 48) wv)))

/-- The descriptors of the check list's replicas. -/
def checkLayers (d : Dev) (p : Nat) : List (List Nat) :=
  (listWords d p (getF d (F.rkChkl_base p)) (getF d (F.rkChkl_count p))).filter (fun ws => bitOf (nth ws 8) 37)

/-- The check list can be read: the check takes its descriptors (R207); else it waits for their page (R237). -/
def openCheck (d : Dev) (p : Nat) : Dev :=
  let a := 128 * getF d (F.rkChkl_base p)
  let n := 128 * getF d (F.rkChkl_count p)
  if heldRange d p a n then steadyBroken d
  else checkReplicas (noteRead { d with checks := Tab.put d.checks p (checkLayers d p) } p a n) p (checkLayers d p)

/-- A store to RK_CHKp (R207, R209, R394). -/
def checkWrite (d : Dev) (p v : Nat) : Dev :=
  let d := rackGuard d p [(F.rkChk_evt p, bits v 35 32), (F.rkChk_cmask p, bits v 27 0)]
  if !bitOf v 63 || flag d (F.rkChk_busy p) then d
  else if !cmaskOk d p (getF d (F.rkChk_cmask p)) then
    raise (setF d (F.rkSstat_err p) 5) (some p) (F.rkIrq_refused p) (F.rkIrqEn_refused p)
  else
    openCheck (setF { d with checks := Tab.erase d.checks p } (F.rkChk_busy p) 1) p

/-- A replica check finishes when every block matches; a block still mismatched is refilled again (R207). -/
def completeCheck (d : Dev) (p : Nat) : Dev :=
  if !flag d (F.rkChk_busy p) then d
  else match Tab.get? d.checks p with
  | none => openCheck d p
  | some ls =>
    let waiting (d : Dev) : Bool := ls.any (fun ws => (List.range (lCount ws)).any (replicaHeld d p ws))
    if waiting d then d
    else
      let d := checkReplicas d p ls
      if waiting d then d
      else
        let d := setF { d with checks := Tab.erase d.checks p } (F.rkChk_busy p) 0
        raise (postMask d (getF d (F.rkChk_cmask p)) (getF d (F.rkChk_evt p))) (some p) (F.rkIrq_chk p) (F.rkIrqEn_chk p)

/-- A block in a unit is being written. -/
def blockInWork (d : Dev) (p l b : Nat) : Bool :=
  (d.rack.map (fun e => e.2) ++ (sweepOf d p).again.map (fun x => x.1)).any (fun w => w.p == p && w.layer == l && w.block == b)

/-- Block b of layer l of the last sweep list is checked against its digest (R208): a mismatch is an error without a clean copy. -/
def checkOwner (d : Dev) (p l b : Nat) : Dev :=
  let ws := layerWords (sweepOf d p) l
  let n := 2 * blockLen ws b
  let wa := blockAt (lWeight ws) b
  let la := blockAt (lLees ws) b
  let ranges := [(wa, n), (la, n), (lHead ws + 64 * b, 64)]
  if decide (lCount ws ≤ b) || blockInWork d p l b then d
  else if ranges.any (fun a => heldRange d p a.1 a.2) then steadyBroken d
  else
    let e := forEach ranges d (fun d a => noteRead d p a.1 a.2)
    if wordsOf 4 (sm3 (blockBytes d p wa n ++ blockBytes d p la n)) = (List.range 4).map (fun k => headerWord d p ws b (k + 4)) then e
    else forEach (pagesTouched d p wa n ++ pagesTouched d p la n) e (fun d wv =>
      match pageAt d p wv.1 wv.2 with
      | some x => poisonData (setPage d p wv.1 wv.2 { x with src := none, ckptClean := false }) (p, wv.1, wv.2)
      | none => d)

/-- The rack units stop for a partition (R293). -/
def abortRack (d : Dev) (p : Nat) : Dev :=
  let d := setF (discardBlocks d p) (F.rkSstat_state p) 0
  setF { d with sweeps := Tab.erase d.sweeps p, evals := Tab.erase d.evals p, checks := Tab.erase d.checks p } (F.rkChk_busy p) 0

end Sys2Proof.Machine
end

