-- ==== Sys2Proof/Machine/Stage.lean ====
section
/-! DEFINITION. Stage sets and their commits (R18, R288 to R294, R314, R321 to R327, Tables 13.8 and 13.9): items, checks, the instant
and its effects; and the answers of commands (R315, R317, R344). -/

namespace Sys2Proof.Machine

/-! Answers and audit entries -/

/-- An audit entry is asked for (R344). -/
def audit (d : Dev) (r : AuditReq) : Dev := { d with audits := d.audits ++ [r] }

/-- An event of the module enters the audit log. -/
def auditEvent (d : Dev) (event : Nat) : Dev :=
  audit d ⟨3, 5, (Config.eventCode event).toNat, 0, 0, 0, [], 0⟩

/-- The opcode of a command in effect. -/
def MbxCmd.opcode (m : MbxCmd) : Nat := bits (nth m.words 0) 15 8
/-- Argument n of a command. -/
def MbxCmd.arg (m : MbxCmd) (n : Nat) : Nat := nth m.words n
/-- The partition whose mailbox a command came by. -/
def MbxCmd.part (m : MbxCmd) : Nat := m.chan

/-- Commands that leave no audit entry (R344). -/
def unaudited (op : Nat) : Bool := op == 0x01 || op == 0x23 || op == 0x50

/-- The words of a response slot (Table 13.4). -/
def responseWords (m : MbxCmd) (status : Nat) (res : List Nat) : List Nat :=
  (bits m.outer 63 32 * 2 ^ 32 + status * 2 ^ 24 + bits m.outer 15 8 * 2 ^ 8 + 1) :: (List.range 15).map (nth res)

/-- The maltster answers a command (R315, R317): the response slot and its interrupt, or a datagram, and the audit entry. -/
def answer (d : Dev) (m : MbxCmd) (status : Nat) (res : List Nat) : Dev :=
  let d := { d with picked := d.picked.filter (fun x => x.id != m.id) }
  let ws := responseWords m status res
  let d := if m.chan = 4 then
      { d with datagrams := ⟨m.src.1, m.src.2, ws.flatMap (leBytes 8)⟩ :: d.datagrams }
    else
      let d := forEach ws.zipIdx d (fun d x => setF d (F.mbxRsp_word m.chan m.slot x.2) x.1)
      raise d (some m.chan) (F.mbxIrq_resp m.chan) (F.mbxIrqEn_resp m.chan)
  if unaudited m.opcode then d
  else audit d ⟨m.role, m.chan, m.opcode, status, bits m.outer 63 32, m.seq, m.bytes, m.key⟩

/-- Changes a command picked up. -/
def setCmd (d : Dev) (m : MbxCmd) : Dev := { d with picked := d.picked.map (fun x => if x.id = m.id then m else x) }

/-- The command of a number. -/
def cmdOf (d : Dev) (id : Nat) : Option MbxCmd := d.picked.find? (fun m => m.id == id)

/-- Answers the command of a number. -/
def answerId (d : Dev) (id status : Nat) (res : List Nat) : Dev :=
  match cmdOf d id with
  | some m => answer d m status res
  | none => d

/-! Sets -/

/-- The installer's scope number beside the partitions 0 to 3. -/
def scopeInstaller : Nat := 4

/-- STG_ISTAT.state or STG_PSTATp.state (Table 13.8). -/
def stgState (scope : Nat) : FKey := if scope = 4 then F.stgIstat_state else F.stgPstat_state scope
/-- The items field of a scope. -/
def stgItems (scope : Nat) : FKey := if scope = 4 then F.stgIstat_items else F.stgPstat_items scope
/-- The when field of a scope. -/
def stgWhen (scope : Nat) : FKey := if scope = 4 then F.stgIstat_when else F.stgPstat_when scope
/-- The last field of a scope. -/
def stgLast (scope : Nat) : FKey := if scope = 4 then F.stgIstat_last else F.stgPstat_last scope
/-- The reason field of a scope. -/
def stgReason (scope : Nat) : FKey := if scope = 4 then F.stgIstat_reason else F.stgPstat_reason scope
/-- The instant field of a scope. -/
def stgInstant (scope : Nat) : FKey := if scope = 4 then F.stgIwhen_instant else F.stgPwhen_instant scope

/-- The set of a scope. -/
def setOf (d : Dev) (scope : Nat) : StageSet := (Tab.get? d.sets scope).getD ⟨[], none⟩

/-- The fields of a register that a scope may stage (R321): a partition set only its own registers and MC_LEND of its clusters. -/
def stageable (d : Dev) (scope : Nat) (r : Reg) : List FieldDef :=
  if scope = 4 then r.fields.filter (fun f => f.stage == .installer)
  else match r with
    | .mcLend c => if ownsCluster d scope c then r.fields else []
    | .rkLscaleCfg p => if p = scope then r.fields else []
    | .fabEpoch p => if p = scope then r.fields.filter (fun f => f.stage == .partition) else []
    | _ => []

/-- The bits of fields. -/
def fieldMask (fs : List FieldDef) : Nat := fs.foldl (fun a f => a + (2 ^ f.width - 1) * 2 ^ f.lo) 0

/-- The item of an address and mask, if the scope may name it (R321). -/
def itemOf (d : Dev) (scope a mask value : Nat) : Option StageItem :=
  match Reg.ofAddr a with
  | some r =>
    let ok := fieldMask (stageable d scope r)
    if ok ≠ 0 ∧ Nat.lor mask ok = ok then some ⟨r, mask, Nat.land value mask⟩ else none
  | none => none

/-- Merges an item: its masked bits replace those of an earlier item of the register (R321). -/
def mergeItem (l : List StageItem) (x : StageItem) : List StageItem :=
  if l.any (fun y => y.reg == x.reg) then
    l.map (fun y => if y.reg = x.reg then
      ⟨y.reg, Nat.lor y.mask x.mask, Nat.land y.value (2 ^ 64 - 1 - x.mask) + x.value⟩ else y)
  else l ++ [x]

/-- The value of a field once an item is applied. -/
def itemField (d : Dev) (x : StageItem) (f : FieldDef) : Nat :=
  let m := fieldOf x.mask f
  Nat.land (getF d ⟨x.reg, f.lo⟩) (2 ^ f.width - 1 - m) + Nat.land (fieldOf x.value f) m

/-- The fields an item covers. -/
def itemFields (x : StageItem) : List FieldDef := x.reg.fields.filter (fun f => fieldOf x.mask f != 0)

/-- Applies an item to the committed fields. -/
def applyItem (d : Dev) (x : StageItem) : Dev := forEach (itemFields x) d (fun d f => setF d ⟨x.reg, f.lo⟩ (itemField d x f))

/-- Every grant of Table 12.2 that is not fixed falls to zero (R293). -/
def zeroGrants (d : Dev) (p : Nat) : Dev :=
  let d := forEach [F.hostPcfg_clusters p, F.hostPcfg_svc_share p, F.klnPcfg_cores p, F.klnPcfg_bank_cnt p, F.klnPcfg_stream_en p,
    F.rkPcfg_units p, F.hbmPquota_hbm_quota p, F.hbmPquota_clr_quota p, F.hbmPquota_share p] d (fun d k => setF d k 0)
  setF d F.fabCfg_share (getF d F.fabCfg_share - fabShare d p * 2 ^ (5 * p))

/-- The partitions whose en goes from 1 to 0. -/
def disabled (old new : Dev) : List Nat :=
  (List.range 4).filter (fun p => flag old (F.hostPcfg_en p) && !flag new (F.hostPcfg_en p))

/-- The committed fields with a set merged onto them, the zeros of R293 included (R323). -/
def merged (d : Dev) (items : List StageItem) : Dev :=
  let n := items.foldl applyItem d
  forEach (disabled d n) n zeroGrants

/-! The rules (Table 13.9) -/

/-- A rule as run: its reason, the registers it reads, whether it holds. -/
structure StageRule where
  reason : Nat
  reads : List Reg
  ok : Bool
  deriving DecidableEq, Repr

/-- The pairs of partitions. -/
def partPairs : List (Nat × Nat) := [(0, 1), (0, 2), (0, 3), (1, 2), (1, 3), (2, 3)]

/-- The mask of a partition's kiln banks. -/
def bankMask (d : Dev) (p : Nat) : Nat := (2 ^ getF d (F.klnPcfg_bank_cnt p) - 1) * 2 ^ getF d (F.klnPcfg_bank_first p)

/-- Reason 1: grants of two partitions are disjoint (R134, R189, R288). -/
def grantRules (n : Dev) : List StageRule :=
  partPairs.flatMap (fun (p, q) =>
    let apart (a b : Nat) : Bool := Nat.land a b == 0
    [ ⟨1, [.hostPcfg p, .hostPcfg q], apart (getF n (F.hostPcfg_clusters p)) (getF n (F.hostPcfg_clusters q))⟩,
      ⟨1, [.klnPcfg p, .klnPcfg q], apart (getF n (F.klnPcfg_cores p)) (getF n (F.klnPcfg_cores q)) &&
        apart (bankMask n p) (bankMask n q)⟩,
      ⟨1, [.rkPcfg p, .rkPcfg q], apart (getF n (F.rkPcfg_units p)) (getF n (F.rkPcfg_units q))⟩ ])

/-- The sum of a field over the partitions. -/
def sumParts (d : Dev) (k : Nat → FKey) : Nat := ((List.range 4).map (fun p => getF d (k p))).sum

/-- Reasons 2 to 4: quotas and fabric shares (R232, R257). -/
def shareRules (n : Dev) : List StageRule :=
  [ ⟨2, (List.range 4).map .hbmPquota,
      decide (sumParts n F.hbmPquota_hbm_quota ≤ 654592 ∧ sumParts n F.hbmPquota_clr_quota ≤ 507648)⟩,
    ⟨3, [.fabCfg], fabShares n == if flag n F.fabCfg_transit_ok then 21 else 24⟩,
    ⟨4, [.fabCfg], (List.range 4).all (fun p => fabShare n p != 1)⟩ ]

/-- Reasons 5 to 8: epochs, moving clusters, disabled and empty partitions (R286, R288, R292, R293). -/
def partRules (d n : Dev) : List StageRule :=
  (List.range 4).flatMap (fun p =>
    let moving := (clustersOf d p).filter (fun c => !ownsCluster n p c)
    [ ⟨5, [.fabEpoch p], getF n (F.fabEpoch_pending p) != getF n (F.fabEpoch_cur p)⟩,
      ⟨6, [.hostPcfg p], moving.all (fun c => seqAtRest d c)⟩,
      ⟨7, [.hostPcfg p], !((disabled d n).contains p && flag d (F.fabSlice_valid p))⟩,
      ⟨8, [.hostPcfg p], !(flag n (F.hostPcfg_en p) && getF n (F.hostPcfg_clusters p) == 0)⟩,
      ⟨10, [.hostPcfg p], !(flag n (F.hostPcfg_en p) && !flag d (F.hostPcfg_en p) && getF d F.secStatus_diag == 2)⟩ ])

/-- Reason 9: MC_LEND lends no bank that holds the program region of a running sequencer. -/
def lendRules (d n : Dev) : List StageRule :=
  (List.range 28).map (fun c => ⟨9, [.mcLend c], !(flag n (F.mcLend_enable c) &&
    (List.range 32).any (fun b => bitOf (getF n (F.mcLend_bank_mask c)) b && protectedHit d c (0x200000 * b) 0x200000))⟩)

/-- The stated range of a stage-set item field (Tables 2.22 to 15.9): smallest and largest value. -/
def fieldRange (k : FKey) : Nat × Nat :=
  match k.reg, k.lo with
  | .klnPcfg _, 24 => (0, 52)
  | .klnPcfg _, 16 => (0, 51)
  | .rkPcfg _, 16 => (1, 65535)
  | .rkLscaleCfg _, 3 => (1, 8191)
  | .hbmPquota _, 56 => (0, 16)
  | .hbmPquota _, 32 => (0, 654592)
  | .hbmPquota _, 0 => (0, 507648)
  | .hbmScrub, 0 => (1, 168)
  | .hostPcfg _, 56 => (0, 16)
  | .pwrMode, 8 => (48, 128)
  | .pwrCfg, 32 => (256, 4096)
  | .pwrCfg, 0 => (7, 112)
  | .mcLend _, 16 => (0, 448)
  | _, _ => (0, 2 ^ 64)

/-- Reason 10: every staged field of a register the set names lies in its stated range. -/
def rangeRules (n : Dev) (items : List StageItem) : List StageRule :=
  items.map (fun x => ⟨10, [x.reg],
    (x.reg.fields.filter (fun f => f.stage != .none)).all (fun f =>
      let r := fieldRange ⟨x.reg, f.lo⟩
      decide (r.1 ≤ getF n ⟨x.reg, f.lo⟩ ∧ getF n ⟨x.reg, f.lo⟩ ≤ r.2)) &&
    (match x.reg with
      | .fabCfg => (List.range 4).all (fun p => decide (fabShare n p ≤ 24))
      | .klnPcfg p => decide (getF n (F.klnPcfg_bank_first p) + getF n (F.klnPcfg_bank_cnt p) ≤ 52)
      | _ => true)⟩)

/-- Reason 11: coordinates inside FAB_TORUS, and links as R252 lays them. -/
def geometryRules (n : Dev) : List StageRule :=
  ⟨11, [.fabCoord, .fabTorus], axes.all (fun x => decide (axis (ownCoord n) x < torusSize n x))⟩ ::
  (List.range 10).map (fun m => ⟨11, [.fabLmap m, .fabTorus],
    !plannedUsed n m || ((neighbour n (ownCoord n) m).isSome && getF n (F.fabLmap_nb_port m) == Nat.xor m 1)⟩)

/-- The rules of Table 13.9 on the committed state d and the merged state n. -/
def stageRules (d n : Dev) (items : List StageItem) : List StageRule :=
  grantRules n ++ shareRules n ++ partRules d n ++ lendRules d n ++ rangeRules n items ++ geometryRules n

/-- The registers that count as held because the set disables a partition (R323). -/
def impliedRegs (p : Nat) : List Reg := [.hostPcfg p, .klnPcfg p, .rkPcfg p, .hbmPquota p, .fabCfg]

/-- The first item of a set with a property, in item order. -/
def firstItem (items : List StageItem) (ok : StageItem → Bool) : Option Nat :=
  (List.range items.length).find? (fun i => match items[i]? with | some x => ok x | none => false)

/-- The item a rule is charged to (R323): the first whose register it reads, else the one that disables a partition whose zeros it reads;
none where the set holds no item in a register of the rule. -/
def chargedItem (d n : Dev) (items : List StageItem) (r : StageRule) : Option Nat :=
  match firstItem items (fun x => r.reads.contains x.reg) with
  | some i => some i
  | none => firstItem items (fun x => (disabled d n).any (fun p => x.reg == .hostPcfg p && r.reads.any (impliedRegs p).contains))

/-- The first failing item with the lowest reason it fails (R323). -/
def failing (d : Dev) (items : List StageItem) : Option (Nat × Nat) :=
  let n := merged d items
  let charged := ((stageRules d n items).filter (fun r => !r.ok)).filterMap (fun r => (chargedItem d n items r).map (fun i => (i, r.reason)))
  charged.foldl (fun (a : Option (Nat × Nat)) x =>
    match a with
    | none => some x
    | some y => some (if x.1 < y.1 ∨ (x.1 = y.1 ∧ x.2 < y.2) then x else y)) none

/-! Effects of a commit (R325) -/

/-- A digest as its four register words (Table 14.11). -/
def setMeas (d : Dev) (n : Nat) (digest : List Byte) : Dev :=
  forEach (wordsOf 4 digest).zipIdx d (fun d x => setF d (F.secMeas_digest n x.2) x.1)

/-- The registers that hold stage-set items, in ascending address. -/
def stagedRegs : List Reg :=
  (List.range 28).map .mcLend ++ (List.range 4).map .klnPcfg ++ (List.range 4).map .rkPcfg ++ (List.range 4).map .rkLscaleCfg ++
  [.fabCoord, .fabTorus, .fabCfg, .fabFtcCfg] ++ (List.range 10).map .fabLmap ++ (List.range 4).map .fabEpoch ++
  (List.range 4).map .hbmPquota ++ [.hbmScrub] ++ (List.range 4).map .hostPcfg ++ [.secDiag, .pwrMode, .pwrCfg]

/-- The configuration measurement (R342). -/
def configDigest (d : Dev) : List Byte :=
  sm3 (stagedRegs.flatMap (fun r =>
    leBytes 8 ((r.fields.filter (fun f => f.stage != .none)).foldl (fun a f => a + getF d ⟨r, f.lo⟩ * 2 ^ f.lo) 0)))

/-- A measurement's 32 bytes. -/
def measBytes (d : Dev) (n : Nat) : List Byte := (List.range 4).flatMap (fun w => leBytes 8 (getF d (F.secMeas_digest n w)))

/-- Writes the host boot loader of a partition into its first HBM page, measures it, and releases HGq (R340, R293). -/
def hostBoot (d : Dev) (q : Nat) : Dev :=
  let loader := (Config.bootLoader (BitVec.ofNat 256 (beNat (measBytes d 1)))).take pageSize
  let d := reachUnit d (.hostGroup (Fin.ofNat 4 q))
  let room := if (pageAt d q .hbm 0).isSome then some d else mapPage d q .hbm 0 0 false
  match room with
  | some e =>
    match pageAt e q .hbm 0 with
    | some x =>
      let e := noteWrite { e with mem := memLoad e.mem (framePlace x.tier x.frame) pageSize (cellsOf loader) } q 0 1
      let e := satF (setMeas e (2 + q) (sm3 loader)) (F.hostHgstat_boots q) 1
      setF (setF e (F.hostHgstat_cores_up q) 0xF) (F.hostHgstat_state q) 3
    | none => setF d (F.hostHgstat_state q) 4
  | none => setF d (F.hostHgstat_state q) 4

/-- A partition is disabled (R293): its grants were set to zero with the items. -/
def disablePart (d : Dev) (p : Nat) : Dev :=
  let d := abortRack (svcDisable (stopMoverRing (abandonJobs d p) p) p) p
  let d := { unmapAll d p with held := d.held.filter (fun h => h.p != p) }
  let d := setF (setF d (F.hostHgstat_state p) 0) (F.hostHgstat_cores_up p) 0
  setMeas d (2 + p) (List.replicate 32 0)

/-- A cluster leaves its partition, or joins one (R292, R219): one that was retired holds its old partition's data until then (R289). -/
def resetCluster (d : Dev) (c : Nat) : Dev :=
  let d := closeWindows (freeBanks d c) c
  let d := forEach (List.range 64) d (fun d s => setF d (F.mcTdesc0_valid c s) 0)
  let d := forEach (List.range 16) d (fun d n => setF (setF d (F.mcEvt_count c n) 0) (F.mcG_value c n) 0)
  let x := clusterOf d c
  let d := setCluster d c { Cluster.idle with dpuFails := x.dpuFails, ceRows := x.ceRows, ceCols := x.ceCols }
  setF (setF (setF d (F.mcSeqStatus_state c) 0) (F.mcSeqStatus_wait_cause c) 0) (F.mcSeqStatus_loop_depth c) 0

/-- The staging of a rack unit is zeroed when its grant moves (R289). -/
def clearStaging (d : Dev) (u : Nat) : Dev :=
  { d with mem := memZero d.mem (stagingBase u 0) 0x80000, stg := d.stg.filter (fun e => e.1.1 != u)
           stgHeld := d.stgHeld.filter (fun e => e.1 != u) }

/-- Power gating is allowed for a partition's unit (R356). -/
def mayGate (d : Dev) (p : Option Nat) : Bool :=
  !flag d F.pwrCfg_pg_dis &&
  (match p with
   | some p => !(flag d (F.fabSlice_valid p) && modeOf d p == 1)
   | none => true)

/-- The partition a unit of a mask field is granted to. -/
def grantee (d : Dev) (k : Nat → FKey) (i : Nat) : Option Nat := (List.range 4).find? (fun p => bitOf (getF d (k p)) i)

/-- The mode in effect of the module: while a partition still runs the old mode, that one (R18; PWR_STATUS.mode). -/
def moduleMode (d : Dev) : Nat :=
  match d.modes with
  | e :: _ => e.2
  | [] => getF d F.pwrMode_mode

/-- Outside CAPPED the cap loop does not act: its limit, its admission and what it took of HCLK are released (Table 15.1, R348, R353); HCLK
stays down only where the thermal loop still asks for less (log entry 98). -/
def leaveCap (d : Dev) : Dev :=
  if moduleMode d = 2 then d
  else
    let d := setF { d with capLimit := 1800 } F.pwrStatus_admit 8
    if d.thermLimit > 900 then setF d F.pwrStatus_hclk 2600 else d

/-- Units that R356 forbids to power-gate leave that state: they wake in turn, and an idle one is only clock-gated afterwards. -/
def stayAwake (d : Dev) : Dev :=
  forEach (d.gated.filter (fun x => powerGated x && !(match x with
      | .cluster c => mayGate d (partOf d c)
      | .kilnCore k => mayGate d (grantee d F.klnPcfg_cores k)
      | .rackPower u => mayGate d (grantee d F.rkPcfg_units u)
      | _ => mayGate d none))) d (fun d x =>
    match x with
    | .kilnCore k => requestWake (setF d (F.klnCore_state k) 1) x
    | _ => requestWake d x)

/-- A partition computes in another mode from now on; at a change to or from REFERENCE its windows close (R18, R105). -/
def enterMode (d : Dev) (p m : Nat) : Dev :=
  let was := modeOf d p
  let d := { d with modes := if m = getF d F.pwrMode_mode then Tab.erase d.modes p else Tab.put d.modes p m }
  stayAwake (leaveCap (if (was == 3) == (m == 3) then d else forEach (clustersOf d p) d closeWindows))

/-- A commit set PWR_MODE (R18): in a slice the old mode stays in effect until a release. -/
def commitMode (old d : Dev) : Dev :=
  let m := getF d F.pwrMode_mode
  let d := forEach (List.range 4) { d with modeAt := ftcOf d } (fun d p =>
    let was := modeOf old p
    let d := { d with modes := Tab.put d.modes p was }
    if flag d (F.fabSlice_valid p) && was != m then d else enterMode d p m)
  if m = 1 then setF d F.pwrStatus_steady_broken 0 else d

/-- The release of a partition's flag check at FTC t puts a committed mode into effect (R18). -/
def releaseMode (d : Dev) (p t : Nat) : Dev :=
  if modeOf d p ≠ getF d F.pwrMode_mode ∧ d.modeAt ≤ t then enterMode d p (getF d F.pwrMode_mode) else d

/-- A bank goes to or comes back from the kiln (Table 9.4). -/
def lendBank (d : Dev) (c b : Nat) (lent : Bool) : Dev :=
  let owner := getF d (F.bankOwner_owner c b)
  let pending := flag d (F.bankOwner_pending c b)
  if lent then
    (if owner = 2 ∧ pending = false then d
     else if owner = 1 ∧ pending = false ∧ holdsProgram d c b = false then beginHandover d c b 2
     else setF d (F.bankOwner_ho_err c b) 1)
  else if pending ∧ handoverTo d c b = some 2 then
    modCluster d c (fun x => { x with handovers := x.handovers.map (fun h => if h.bank = b then { h with owner := 1 } else h) })
  else if owner = 2 ∧ pending = false then beginHandover d c b 1
  else d

/-- A commit changed MC_LEND (R58, R218). -/
def commitLend (old d : Dev) (c : Nat) : Dev :=
  let was := lentBanks old c
  let now := lentBanks d c
  let d := forEach (List.range 32) d (fun d b => if bitOf now b = bitOf was b then d else lendBank d c b (bitOf now b))
  let all := flag d (F.mcLend_enable c) && flag d (F.mcLend_lend_all c)
  if all && seqAtRest d c then
    setF (modCluster d c (fun x => { x with restState := seqState d c })) (F.mcSeqStatus_state c) 6
  else if !all && seqState d c == 6 then setF d (F.mcSeqStatus_state c) (clusterOf d c).restState
  else d

/-- A slice stays sealed on this member (R269). -/
def sealedHere (d : Dev) (p : Nat) : Bool :=
  !flag d F.fabCfg_transit_ok && (flag d F.fabCfg_fixed_slots || (List.range 4).all (fun q => q == p || fabShare d q == 0))

/-- The set holds an item in a register. -/
def names (items : List StageItem) (r : Reg) : Bool := items.any (fun x => x.reg == r)

/-- The set holds an item that covers a field. -/
def covers (items : List StageItem) (k : FKey) : Bool :=
  items.any (fun x => x.reg == k.reg && (itemFields x).any (fun f => f.lo == k.lo))

/-- The partition that holds a rack unit. -/
def rackOwner (d : Dev) (u : Nat) : Option Nat := (List.range 4).find? (fun p => bitOf (getF d (F.rkPcfg_units p)) u)

/-- The grant of a rack unit moves: a block it holds goes back to its partition's sweep, and its staging is zeroed (R189, R289). -/
def moveUnit (d : Dev) (old : Option Nat) (u : Nat) : Dev :=
  clearStaging (match old with | some p => ungrantUnit d p u | none => d) u

/-- Everything an installer commit brings about beside the fields (R325). -/
def installerEffects (old d : Dev) (items : List StageItem) : Dev :=
  let d := forEach (disabled old d) d disablePart
  let d := forEach (List.range 28) d (fun d c => if partOf old c != partOf d c then resetCluster d c else d)
  let d := forEach (List.range 16) d (fun d u => if rackOwner old u != rackOwner d u then moveUnit d (rackOwner old u) u else d)
  let d := forEach (List.range 4) d (fun d p => if names items (.klnPcfg p) then regrantKiln d p else d)
  let d := if covers items F.pwrMode_mode then commitMode old d else d
  let d := if names items .pwrCfg then
      let d := setRouse d
      if packFields old .pwrCfg Reg.pwrCfg.fields = packFields d .pwrCfg Reg.pwrCfg.fields then d else steadyBroken d
    else d
  let geometry := names items .fabCoord || names items .fabTorus || (List.range 10).any (fun n => names items (.fabLmap n))
  let d := if geometry then recheckPorts d (covers items F.fabCoord_coord) else d
  let d := if names items .fabFtcCfg then
      let pps (x : Dev) : Bool := flag x F.fabFtcCfg_root && flag x F.fabFtcCfg_pps_en
      chooseParent (if pps d && !pps old then beginPps d else d)
    else d
  let d := forEach (List.range 4) d (fun d p =>
    if flag d (F.fabSlcfg_sealed p) && !sealedHere d p then setF d (F.fabSlcfg_sealed p) 0 else d)
  let d := if flag d F.secDiag_close then auditEvent (setF (setF d F.secDiag_close 0) F.secStatus_diag 0) 7 else d
  let d := forEach ((List.range 2).filter (fun _ => (List.range 4).any (fun p => getF d (F.hostPcfg_svc_share p) != 0))) d
    (fun d n => reachUnit d (.servicePort (Fin.ofNat 2 n)))
  stayAwake (forEach ((List.range 4).filter (fun p => !flag old (F.hostPcfg_en p) && flag d (F.hostPcfg_en p))) d hostBoot)

/-- Everything a partition commit brings about beside the fields (R284, R58). -/
def partitionEffects (old d : Dev) (p : Nat) (items : List StageItem) : Dev :=
  let d := if covers items (F.fabEpoch_pending p) then setF d (F.fabEpoch_pvalid p) 1 else d
  forEach (List.range 28) d (fun d c => if names items (.mcLend c) then commitLend old d c else d)

/-- Starts of clusters are no longer refused for a set (R292). -/
def unblockStarts (d : Dev) : Dev := { d with cl := d.cl.map (fun e => (e.1, { e.2 with startBlocked := false })) }

/-- The set is gone and its commit, if one was picked up, answered (R327, Table 13.10). -/
def endSet (d : Dev) (scope status : Nat) (res : List Nat) : Dev :=
  let s := setOf d scope
  let d := setF (setF { d with sets := Tab.erase d.sets scope } (stgState scope) 0) (stgItems scope) 0
  let d := if scope = 4 then unblockStarts d else d
  match s.cmd with
  | some id => answerId (setF d (stgLast scope) status) id status res
  | none => d

/-- A set's instant, at the present FTC (R325): the check again, then every item at once; CONFLICT where it fails only for a set
applied in the same cycle. -/
def commitSet (d : Dev) (scope : Nat) : Dev :=
  let t := ftcOf d
  let first : Tab FKey Nat := match d.cycle with | some (t', f) => if t' = t then f else d.f | none => d.f
  let d := { auditEvent d 1 with cycle := some (t, first) }
  let items := (setOf d scope).items
  match failing d items with
  | some (i, r) =>
    let status := if (failing { d with f := first } items).isNone then 8 else 6
    endSet (setF d (stgReason scope) r) scope status [t, i + r * 2 ^ 16]
  | none =>
    let n := merged d items
    let e := if scope = 4 then installerEffects d n items else partitionEffects d n scope items
    endSet (setMeas e 6 (configDigest e)) scope 0 [t, 0]

/-- The order of scopes at one instant (R326). -/
def scopeOrder (s : Nat) : Nat := if s = 4 then 0 else s + 1

/-- Set s has an FTC instant at or before t, and comes before one of scope `scope` at t (R326). -/
def dueBefore (d : Dev) (scope t s : Nat) : Bool :=
  s != scope && getF d (stgState s) == 3 && getF d (stgWhen s) == 1 &&
  (decide (getF d (stgInstant s) < t) || (getF d (stgInstant s) == t && decide (scopeOrder s < scopeOrder scope)))

/-- A set commits at the present FTC, after those of this instant that go first: the installer's, then the partitions' in ascending order
(R326). -/
def commitInOrder (d : Dev) (scope : Nat) : Dev :=
  let d := forEach [4, 0, 1, 2, 3] d (fun d s => if dueBefore d scope (ftcOf d) s then commitSet d s else d)
  commitSet d scope

/-- Arrival at the flag check of a gyle is the instant of a commit for the next (R324). -/
def gyleInstant (d : Dev) (p gyle : Nat) : Dev :=
  if d.malt = 1 ∧ getF d (stgState p) = 3 ∧ getF d (stgWhen p) = 2 ∧ getF d (stgInstant p) = gyle + 1 then commitInOrder d p else d

/-- A set with an FTC instant that comes before this one (R326). -/
def earlierSet (d : Dev) (scope : Nat) : Bool := (List.range 5).any (dueBefore d scope (getF d (stgInstant scope)))

/-- The FTC instant of an armed set (R324, R326). -/
def ftcInstant (d : Dev) (scope : Nat) : Dev :=
  if d.malt = 1 ∧ getF d (stgState scope) = 3 ∧ getF d (stgWhen scope) = 1 ∧ earlierSet d scope = false then
    commitSet (setF d F.fabFtc_ftc (max (ftcOf d) (getF d (stgInstant scope)))) scope
  else d

/-- A set that received no command for 600 s is discarded (R322). -/
def lapseSet (d : Dev) (scope : Nat) : Dev :=
  if getF d (stgState scope) = 1 ∨ getF d (stgState scope) = 2 then endSet d scope 0 [] else d

/-- An armed commit for a gyle is cancelled (R320). -/
def cancelGyleSet (d : Dev) (p : Nat) : Dev :=
  if getF d (stgState p) = 3 ∧ getF d (stgWhen p) = 2 then endSet d p 0x13 [] else d

end Sys2Proof.Machine
end

