-- ==== Sys2Proof/Machine/Channels.lean ====
section
/-! DEFINITION. The barrier unit (R51, R52, R90, R274 to R278): arrivals, the tree, releases, the flag check (R122 to R127, R305),
and the drain channel (R285). -/

namespace Sys2Proof.Machine

/-! The tree (R274) -/

/-- Coordinates of the root of a slice's tree. -/
def sliceRoot (d : Dev) (p : Nat) : Nat :=
  axes.foldl (fun k x => setAxis k x ((axis (getF d (F.fabSlice_origin p)) x + sliceSize d p x / 2) % torusSize d x)) (ownCoord d)

/-- Depth D of a slice's tree. -/
def sliceDepth (d : Dev) (p : Nat) : Nat := (axes.map (fun x => sliceSize d p x / 2)).sum

/-- The ports of this module's children: neighbours in the slice whose up port is the other end of the link. -/
def childPorts (d : Dev) (p : Nat) : List Nat :=
  (List.range 10).filter (fun q => sliceUses d p q &&
    (match neighbour d (ownCoord d) q with | some k => upPort d (some p) k (sliceRoot d p) == some (Nat.xor q 1) | none => false))

/-! Combination (R274, R90, R319, Table 11.5) -/

/-- The larger of two two's-complement 12-bit fields. -/
def max12 (a b : Nat) : Nat := unsigned 12 (max (signed 12 a) (signed 12 b))

/-- Two arrivals on the anchor channel: the larger ea and eb, the OR of the flags, and whether logk differs (R90). -/
def joinAnchor (a b : Arrival) : Arrival :=
  { flags := Nat.lor (Nat.lor a.flags b.flags) (if bits a.value 37 32 = bits b.value 37 32 then 0 else 8)
    value := max12 (bits a.value 11 0) (bits b.value 11 0) + max12 (bits a.value 27 16) (bits b.value 27 16) * 2 ^ 16 +
      bits a.value 37 32 * 2 ^ 32 }

/-- Two formation arrivals: whether mode, Numerics Level or token differ (R319). -/
def joinFormation (a b : Arrival) : Arrival :=
  let differ (h l bit : Nat) : Nat := if bits a.value h l = bits b.value h l then 0 else bit
  { a with flags := Nat.lor (Nat.lor a.flags b.flags) (differ 1 0 8 + differ 15 8 16 + differ 63 32 32) }

/-- Two arrivals on a barrier or the drain channel: the OR of nonfin, fault and drain, and whether the modes differ (R19). -/
def joinFlags (a b : Arrival) : Arrival :=
  let or := Nat.lor (a.flags % 8) (b.flags % 8)
  let mixed : Bool := bitOf a.flags 8 || bitOf b.flags 8 || bits a.flags 7 6 != bits b.flags 7 6
  { a with flags := or + bits a.flags 7 6 * 2 ^ 6 + b2n mixed * 2 ^ 8 }

/-- The combination of two arrivals of a channel. -/
def joinArrivals (ch : Nat) (formation : Bool) (a b : Arrival) : Arrival :=
  if formation then joinFormation a b else if ch = 16 then joinAnchor a b else joinFlags a b

/-! Uses of a channel -/

/-- A use nobody has joined. -/
def Chan.fresh : Chan :=
  { mask := 0, joined := [], engine := false, formation := false, own := none, kids := [], sent := false, release := none
    cancelled := false, check := none }

/-- The use of a channel that an arrival now joins: the open one; a cancelled one is over, but while the slice has its fault every use
is cancelled (R278). -/
def openUse (d : Dev) (p ch : Nat) : Chan :=
  let fault := flag d (F.fabSlstat_fault p)
  match Tab.get? d.chans (p, ch) with
  | some x => if x.cancelled && !fault then Chan.fresh else x
  | none => { Chan.fresh with cancelled := fault }

/-- Replaces a use. -/
def setChan (d : Dev) (p ch : Nat) (x : Chan) : Dev := { d with chans := Tab.put d.chans (p, ch) x }

/-- The gen that messages of a use carry. -/
def useGen (d : Dev) (p ch : Nat) (x : Chan) : Nat := if x.formation then 0xFFFF else count? d.gens (p, ch) % 65536

/-- This module has joined: a cluster or the engine, on the anchor channel every cluster its mask names (R90, R276). -/
def ownComplete (ch : Nat) (x : Chan) : Bool :=
  x.own.isSome && (ch != 16 || (maskClusters x.mask).all (fun c => x.joined.contains c))

/-- The release of a use, down the tree (R274). -/
def releaseUse (d : Dev) (p ch : Nat) (x : Chan) (t : Nat) (a : Arrival) : Dev :=
  let ext := if ch = 16 then a.value % 2 ^ 28 else 0
  let d := setChan d p ch { x with release := some (t, a) }
  forEach (childPorts d p) d (fun d q => sendSb d q ⟨2, p, ch, useGen d p ch x, a.flags, t, ext⟩)

/-- What this module's subtree comes to, once it and all its children have arrived. -/
def subtree (d : Dev) (p ch : Nat) (x : Chan) : Option Arrival :=
  if ownComplete ch x && (childPorts d p).all (fun q => (Tab.get? x.kids q).isSome) then
    x.own.map (fun a => x.kids.foldl (fun a k => joinArrivals ch x.formation a k.2) a)
  else none

/-- FTC ticks from the root's t to release: rel_delay in units of 4 ns (R275). -/
def releaseDelay (d : Dev) (p : Nat) : Nat := 8 * getF d (F.fabSlcfg_rel_delay p)

/-- A use goes up the tree when its subtree is complete; at the root it is released, or finds two modes (R274, R278). Without a slice it
releases 200 ns after its last arrival (R276). -/
def climb (d : Dev) (p ch : Nat) : Dev :=
  let x := openUse d p ch
  if x.cancelled then d
  else if !flag d (F.fabSlice_valid p) then
    match x.own with
    | some a => if ownComplete ch x then setChan d p ch { x with release := some (ftcOf d + 400, a) } else d
    | none => d
  else if x.sent || x.release.isSome then d
  else match subtree d p ch x with
    | none => d
    | some a =>
      if flag d (F.fabSlcfg_root p) then
        (if x.check.isSome && bitOf a.flags 8 then sliceFault d p 5
         else releaseUse d p ch x (ftcOf d + releaseDelay d p) a)
      else
        sendSb (setChan d p ch { x with sent := true }) (getF d (F.fabSlcfg_up p))
          ⟨1, p, ch, useGen d p ch x, a.flags, if ch = 16 ∨ x.formation = true then a.value else 0, 0⟩

/-- This module's arrival joins a use. -/
def arriveChan (d : Dev) (p ch : Nat) (a : Arrival) (g : Chan → Chan) : Dev :=
  let x := openUse d p ch
  let own := match x.own with | some b => joinArrivals ch x.formation b a | none => a
  climb (setChan d p ch (g { x with own := some own })) p ch

/-! Joining instructions -/

/-- The arrival at the flag check: an armed commit for the next gyle (R324), the sample and clear of R124, the drain bit of R285, and the
mode of the gyle (R19). -/
def arriveCheck (d : Dev) (p c ch : Nat) : Dev :=
  let gyle := getF d (F.mcGyle_gyle c)
  let d := gyleInstant d p gyle
  let drain : Bool := flag d (F.fabEpoch_pvalid p) && getF d (F.fabEpoch_open_old p) != 0
  let a : Arrival := ⟨b2n (flag d (F.fabNflag_nonfin p)) + b2n (flag d (F.fabNflag_fault p)) * 2 + b2n drain * 4 + modeOf d p * 2 ^ 6, 0⟩
  let d := setF (setF d (F.fabNflag_nonfin p) 0) (F.fabNflag_fault p) 0
  arriveChan { d with arrived := Tab.put d.arrived p gyle } p ch a
    (fun x => { x with joined := x.joined ++ [c], check := some gyle })

/-- BAR with sub 2 (R52, R276). -/
def goBarSlice (p c w : Nat) (d : Dev) : Plan :=
  let ch := bits w 43 40
  freely (fun _ =>
    if bitOf w 44 then .hold (arriveCheck d p c ch) (.channel ch (some (wGd w)))
    else .hold (arriveChan d p ch ⟨0, 0⟩ (fun x => { x with joined := x.joined ++ [c] })) (.channel ch none))

/-- What a cluster brings to the anchor channel from a slot. -/
def anchorArrival (d : Dev) (c s : Nat) : Arrival :=
  { flags := getF d (F.mcAnchor_ea_set c s) * 16 + getF d (F.mcAnchor_eb_set c s) * 32
    value := getF d (F.mcAnchor_ea c s) + getF d (F.mcAnchor_eb c s) * 2 ^ 16 + getF d (F.mcAnchor_logk c s) * 2 ^ 32 }

/-- AMAX with cvt 2 (R90). -/
def goAmaxSlice (p c w : Nat) (d : Dev) : Plan :=
  let mask := wAddr w % 2 ^ 28
  let x := openUse d p 16
  ⟨[ (wAddr w / 2 ^ 28 != 0, cReserved), (!bitOf mask c || (!x.joined.isEmpty && x.mask != mask), cBarrierMask) ],
    [],
    if interlocked d c [] false [wAslot w] then some 6 else none,
    fun _ => .hold (arriveChan d p 16 (anchorArrival d c (wAslot w)) (fun x => { x with joined := x.joined ++ [c], mask := mask }))
       (.anchor (wAslot w))⟩

/-! The flag check's release -/

/-- The loss scale after a flag check (R122). -/
def lossScale (d : Dev) (p : Nat) (nonfin fault : Bool) : Dev :=
  let e := signed 8 (getF d (F.rkLscale_exp p))
  let d := setF d (F.rkLscale_sweep_exp p) (getF d (F.rkLscale_exp p))
  let auto := flag d (F.rkLscaleCfg_auto p)
  let change (d : Dev) (x : Int) : Dev := setF (setF d (F.rkLscale_exp p) (unsigned 8 x)) (F.rkLscale_clean p) 0
  if fault then d
  else if nonfin then
    let d := addF d (F.rkLscale_skips p) 1
    if auto then change d (max (e - (getF d (F.rkLscaleCfg_backoff p) + 1 : Nat)) (signed 8 (getF d (F.rkLscaleCfg_min p)))) else d
  else if auto then
    let n := getF d (F.rkLscale_clean p) + 1
    if n ≥ getF d (F.rkLscaleCfg_interval p) then change d (min (e + 1) (signed 8 (getF d (F.rkLscaleCfg_max p))))
    else setF d (F.rkLscale_clean p) n
  else d

/-- The history after a flag check: at most 4,096 gyles, each once (R127). -/
def enterHistory (d : Dev) (p gyle : Nat) (nonfin : Bool) : Dev :=
  let old := ((Tab.get? d.history p).getD []).filter (fun e => e.1 != gyle)
  { d with history := Tab.put d.history p (((gyle, nonfin) :: old).take 4096) }

/-- The maltster, while it runs (R309), opens the batch record of a gyle, and closes it where the gyle is skipped (R305, Table 12.5). -/
def openBatch (d : Dev) (p gyle : Nat) (nonfin fault : Bool) : Dev :=
  let b := batchOf d p gyle
  let ref := isRef d p
  let outcome := if fault then 2 else if nonfin then 1 else 0
  let b : BatchRec :=
    { BatchRec.fresh with
      state := 1, mode := modeOf d p, epoch := getF d (F.fabEpoch_cur p), cuts := count? d.cuts p
      outcome := outcome, sweepExp := getF d (F.rkLscale_sweep_exp p), kiln := b.early
      size := if ref then getF d (F.fabSlice_size p) else 0, origin := if ref then getF d (F.fabSlice_origin p) else 0
      rank := if ref then groupRank d p 31 (ownCoord d) else 0, placement := (Tab.get? d.placed p).getD [] }
  let d := { d with placed := Tab.erase d.placed p }
  if d.malt ≠ 1 then d
  else
    let d := { d with batch := Tab.put d.batch (p, gyle) b }
    if outcome = 0 then d else closeBatch d p gyle

/-- A committed epoch change at a flag check's release: at once, or it waits on the drain channel (R285). -/
def epochRelease (d : Dev) (p : Nat) (drain : Bool) : Dev :=
  if flag d (F.fabEpoch_pvalid p) then (if drain then setF d (F.fabEpoch_draining p) 1 else applyEpoch d p) else d

/-- The flag check of a gyle releases at FTC t with reduced flags (R125, R277): FAB_NFLAGp, the history, the loss scale, the batch record,
a committed mode (R18), the epoch, the kiln's deadlines (R156), and an armed sweep (R196). -/
def checkRelease (d : Dev) (p gyle t flags : Nat) : Dev :=
  let fault := bitOf flags 1
  let nonfin := bitOf flags 0 || fault
  let d := setF (setF d (F.fabNflag_chk_gyle p) gyle) (F.fabNflag_chk_valid p) 1
  let d := setF (setF d (F.fabNflag_red_fault p) (b2n fault)) (F.fabNflag_red_nonfin p) (b2n nonfin)
  let d := { d with checkModes := Tab.put d.checkModes p (modeOf d p) }
  let d := openBatch (lossScale (enterHistory d p gyle nonfin) p nonfin fault) p gyle nonfin fault
  let d := epochRelease (releaseMode d p t) p (bitOf flags 2)
  sweepRelease (kilnRelease d p gyle) p gyle

/-! Completion of a use -/

/-- A cluster's BAR with sub 2 completes; with the flag check Gd is the reduced flag (R52). -/
def completeBar (d : Dev) (c : Nat) (nonfin : Bool) : Dev :=
  match (clusterOf d c).waiting with
  | some ⟨.channel _ gd, _, _⟩ =>
    let d := match gd with | some g => setF d (F.mcG_value c g) (b2n nonfin) | none => d
    settle (endWait d c) c
  | _ => d

/-- A cluster's AMAX with cvt 2 completes, or faults where logk differs (R90, R277). -/
def completeAmax (d : Dev) (c : Nat) (a : Arrival) : Dev :=
  match (clusterOf d c).waiting with
  | some ⟨.anchor s, _, _⟩ =>
    if bitOf a.flags 3 then settle (setPend (withdraw d c) c cUnreduced (pcOf d c) false) c
    else
      let d := setAnchor d c s (signed 12 (bits a.value 11 0)) (signed 12 (bits a.value 27 16)) (getF d (F.mcAnchor_logk c s))
        (bitOf a.flags 4) (bitOf a.flags 5) true
      settle (endWait d c) c
  | _ => d

/-- A use completes on this module (R274): its use count and FAB_SLSTATp.releases, the flag check's effects, and the joining instructions
or the drain channel's. -/
def completeUse (d : Dev) (p ch : Nat) (x : Chan) (t : Nat) (a : Arrival) : Dev :=
  let d := { d with chans := Tab.erase d.chans (p, ch), gens := Tab.put d.gens (p, ch) ((count? d.gens (p, ch) + 1) % 65536) }
  let d := addF d (F.fabSlstat_releases p) 1
  let d := match x.check with | some g => checkRelease d p g t a.flags | none => d
  if ch = 17 then applyEpoch d p
  else forEach x.joined d (fun d c =>
    if ch = 16 then completeAmax d c a else completeBar d c (bitOf a.flags 0 || bitOf a.flags 1))

/-- The FTC reaches a use's release. -/
def reachRelease (d : Dev) (p ch : Nat) (x : Chan) : Dev :=
  match x.release with
  | some (t, a) => completeUse (setF d F.fabFtc_ftc (max (ftcOf d) t)) p ch x t a
  | none => d

/-- CHANNEL_RELEASE_REACHED: any use but a flag check's or a formation's. -/
def reachChannel (d : Dev) (p ch : Nat) : Dev :=
  match Tab.get? d.chans (p, ch) with
  | some x => if x.cancelled || x.formation || x.check.isSome then d else reachRelease d p ch x
  | none => d

/-- The channel of a released flag check. -/
def checkChannel (d : Dev) (p : Nat) : Option Nat :=
  (List.range 16).find? (fun ch =>
    match Tab.get? d.chans (p, ch) with
    | some x => x.check.isSome && x.release.isSome && !x.cancelled
    | none => false)

/-- FLAG_CHECK_RELEASE. -/
def reachCheck (d : Dev) (p : Nat) : Dev :=
  match checkChannel d p with
  | some ch => match Tab.get? d.chans (p, ch) with | some x => reachRelease d p ch x | none => d
  | none => d

/-! Sideband messages -/

/-- A formation's message (R319). -/
def formationMessage (d : Dev) (m : SbMsg) : Bool := m.chan == 17 && m.gen == 0xFFFF && (Tab.get? d.forms m.part).isSome

/-- An ARRIVE that stays until its use is the current one: the use after one whose release this module has, or a formation whose instant
has not come. -/
def arriveWaits (d : Dev) (m : SbMsg) : Bool :=
  if formationMessage d m then (match Tab.get? d.forms m.part with | some f => f.phase != 2 | none => false)
  else m.gen == (count? d.gens (m.part, m.chan) + 1) % 65536 && (openUse d m.part m.chan).release.isSome

/-- ARRIVE (R274): a child's subtree, for the use whose gen it carries. -/
def arriveMessage (d : Dev) (n : Nat) : Dev :=
  match takeSb d n 1 (fun m => !arriveWaits d m) with
  | none => d
  | some (m, d) =>
    let x := openUse d m.part m.chan
    if m.chan > 17 || !flag d (F.fabSlice_valid m.part) || x.cancelled || m.gen != useGen d m.part m.chan x ||
        !(childPorts d m.part).contains n || x.release.isSome then d
    else climb (setChan d m.part m.chan { x with kids := Tab.put x.kids n ⟨m.flags, m.value⟩ }) m.part m.chan

/-- A release that comes after its value (R274). -/
def noteLate (d : Dev) (p : Nat) : Dev :=
  raise (steadyBroken (satF d (F.fabSlstat_late p) 1)) (some p) (F.fabIrq_late p) (F.fabIrqEn_late p)

/-- RELEASE (R274): it goes on down the tree; a late one completes the use at once. -/
def releaseMessage (d : Dev) (n : Nat) : Dev :=
  match takeSb d n 2 with
  | none => d
  | some (m, d) =>
    match Tab.get? d.chans (m.part, m.chan) with
    | none => d
    | some x =>
      if x.cancelled || !x.sent || x.release.isSome || m.gen != useGen d m.part m.chan x || getF d (F.fabSlcfg_up m.part) != n then d
      else
        let a : Arrival := ⟨m.flags, if m.chan = 16 then m.ext else m.value⟩
        let d := releaseUse d m.part m.chan x m.value a
        if ftcOf d ≤ m.value then d
        else if x.formation then noteLate d m.part
        else completeUse (noteLate d m.part) m.part m.chan x m.value a

/-- A channel this module has joined does not release within timeout_ms (R278). -/
def timeoutChannel (d : Dev) (p ch : Nat) : Dev :=
  match Tab.get? d.chans (p, ch) with
  | some x => if x.own.isSome && x.release.isNone && !x.cancelled && !x.formation then sliceFault d p 3 else d
  | none => d

/-- The engine joins the drain channel when open_old reaches 0 (R285). -/
def arriveDrain (d : Dev) (p : Nat) : Dev :=
  if flag d (F.fabEpoch_draining p) && getF d (F.fabEpoch_open_old p) == 0 && !(openUse d p 17).engine then
    arriveChan d p 17 ⟨0, 0⟩ (fun x => { x with engine := true })
  else d

/-- A host write to FAB_NFLAGp (Table 5.5). -/
def nflagWrite (d : Dev) (p v : Nat) : Dev :=
  let d := if bitOf v 0 || bitOf v 1 then setNonfin d p else d
  if bitOf v 1 then setF d (F.fabNflag_fault p) 1 else d

end Sys2Proof.Machine
end

