-- ==== Sys2Proof/Machine/Maltster.lean ====
section
/-! DEFINITION. The maltster's commands that need no security store (R308, R309, R315 to R327, Tables 13.5 to 13.8): pickup and order,
stage sets, pages, slices, draws and port training. -/

namespace Sys2Proof.Machine

/-! Pickup (R291, R315, R316) -/

/-- Word 0 of a command slot. -/
def slotWord (d : Dev) (p i w : Nat) : Nat := getF d (F.mbxCmd_word p i w)

/-- A command slot may be picked up (R315). -/
def slotReady (d : Dev) (p i : Nat) : Bool :=
  bitOf (slotWord d p i 0) 0 && !bitOf (getF d (F.mbxRsp_word p i 0)) 0 && !d.picked.any (fun m => m.chan == p && m.slot == i)

/-- The slot a partition's next pickup takes: ascending, from the one after the last. -/
def nextSlot (d : Dev) (p : Nat) : Option Nat :=
  ((List.range 16).map (fun k => (getF d (F.mbxStat_last_slot p) + 1 + k) % 16)).find? (slotReady d p)

/-- The partition whose turn it is (R291). -/
def nextTurn (d : Dev) : Option Nat :=
  ((List.range 4).map (fun k => (d.mbxTurn + 1 + k) % 4)).find? (fun p => (nextSlot d p).isSome)

/-- The opcodes of Table 13.5. -/
def knownOpcodes : List Nat :=
  [0x01, 0x10, 0x11, 0x12, 0x13, 0x14, 0x20, 0x21, 0x22, 0x23, 0x30, 0x31, 0x32, 0x33, 0x40, 0x41, 0x42, 0x43, 0x44, 0x45, 0x50]

/-- A command just read. -/
def newCmd (d : Dev) (chan slot : Nat) (bytes blob : List Byte) (src : Nat × Nat) : MbxCmd :=
  let ws := wordsOf 16 bytes
  { id := d.mbxNext, chan := chan, slot := slot, outer := nth ws 0, words := ws, role := 0, kind := 0, seq := 0, key := 0, bytes := bytes
    blob := blob, src := src, ftc := ftcOf d, arrived := Tab.get? d.arrived chan, waits := false }

/-- A command joins those picked up; a reserved opcode is answered at once (R318). -/
def enterCmd (d : Dev) (m : MbxCmd) : Dev :=
  let d := { d with picked := d.picked ++ [m], mbxNext := d.mbxNext + 1 }
  if knownOpcodes.contains m.opcode then d else answer d m 0x01 []

/-- MAILBOX_PICKUP. -/
def pickMailbox (d : Dev) (p : Nat) : Dev :=
  if d.malt = 1 ∧ nextTurn d = some p then
    match nextSlot d p with
    | some i =>
      let bytes := (List.range 16).flatMap (fun w => leBytes 8 (slotWord d p i w))
      let m := newCmd d p i bytes [] (0, 0)
      let d := setF d (F.mbxCmd_word p i 0) (slotWord d p i 0 - 1)
      let d := setF (addF d (F.mbxStat_picked p) 1) (F.mbxStat_last_slot p) i
      enterCmd { d with mbxTurn := p } m
    | none => d
  else d

/-- A host store to a word of a command slot (R316). -/
def slotWrite (d : Dev) (p i w v : Nat) : Dev :=
  if bitOf (slotWord d p i 0) 0 then setF d (F.mbxStat_busy_wr p) 1 else setF d (F.mbxCmd_word p i w) v

/-! Order and checks (R316, R318) -/

/-- The command is of class S or C, or a SIGNED not yet checked. -/
def serialCmd (m : MbxCmd) : Bool :=
  [0x01, 0x10, 0x11, 0x12, 0x13, 0x14, 0x23, 0x31, 0x32, 0x41, 0x50].contains m.opcode || (m.opcode == 0x30 && m.arg 1 % 4 != 0)

/-- Commands picked up before the k-th. -/
def cmdsBefore (d : Dev) (k : Nat) : List MbxCmd := d.picked.take k

/-- A command that waits and is past its serial run: an armed STAGE_COMMIT (R316), or a DRAW that has not started (R306). -/
def pastRun (x : MbxCmd) : Bool := x.waits && (x.opcode == 0x13 || x.opcode == 0x32)

/-- Command x, picked up before, holds back command m (R316): of class S or C both, and x not past its serial run, where an x that waits for
its FTC holds back its own channel only (R291; log entry 95); or both of one formation. -/
def holdsBack (x m : MbxCmd) : Bool :=
  !pastRun x &&
  ((serialCmd m && serialCmd x && (!x.waits || x.chan == m.chan)) || (m.opcode == 0x30 && x.opcode == 0x30 && m.chan == x.chan))

/-- The k-th command may run now: class S and C one at a time in pickup order, formation commands of a partition in order (R316). -/
def onTurn (d : Dev) (k : Nat) (m : MbxCmd) : Bool := (cmdsBefore d k).all (fun x => !holdsBack x m)

/-- The k-th picked-up command, if it is of an opcode and may run. -/
def cmdAt (d : Dev) (k op : Nat) : Option MbxCmd :=
  match d.picked[k]? with
  | some m => if d.malt = 1 ∧ m.opcode = op ∧ m.kind ≠ 1 ∧ m.waits = false ∧ onTurn d k m = true then some m else none
  | none => none

/-- All 64 bits of an argument word. -/
def allBits : Nat := 2 ^ 64 - 1

/-- The bits a command does not name are zero: word 0's reserved bits, and each argument outside its mask, masks from arg1 on. -/
def fieldsOk (m : MbxCmd) (masks : List Nat) : Bool :=
  bits (m.arg 0) 31 16 == 0 && bits (m.arg 0) 7 1 == 0 &&
  (List.range 15).all (fun i => Nat.lor (m.arg (i + 1)) (nth masks i) == nth masks i)

/-- An unsigned command of a partition's operator (R330). -/
def operatorCmd (m : MbxCmd) : Bool := m.role == 0 && m.chan != 4

/-- Runs a command: its fields (BAD_FIELD), its role (ROLE), the full audit log (STATE, R346), then its own work. -/
def runCmd (d : Dev) (k op : Nat) (fields : MbxCmd → Bool) (role : MbxCmd → Bool) (work : Dev → MbxCmd → Dev) : Dev :=
  match cmdAt d k op with
  | none => d
  | some m =>
    if !fields m then answer d m 0x02 []
    else if !role m then answer d m 0x03 []
    else if m.role != 0 && op != 0x43 && flag d F.secAudit_full then answer d m 0x04 []
    else work d m

/-! IDENTITY (Table 13.7) -/

/-- The ordering code, padded to 16 bytes. -/
def orderingCode : List Byte :=
  [0x54, 0x47, 0x4B, 0x31, 0x2D, 0x31, 0x32, 0x38, 0x30, 0x2D, 0x4C, 0x41, 0, 0, 0, 0]

/-- The module serial's 16 bytes. -/
def serialBytes : List Byte := leBytes 16 Config.serial.toNat

/-- IDENTITY word 3: stepping A1 and the firmware version. -/
def versionWord (d : Dev) : Nat := 0x4131 * 2 ^ 48 + d.version.1 * 2 ^ 32 + d.version.2.1 * 2 ^ 16 + d.version.2.2

/-- FAB_STATUS.ready: 0 while the maltster has not started, is held (R309) or waits for an image (R337); a first restart leaves it. -/
def readyNow (d : Dev) : Bool := (d.malt == 1 || d.malt == 4) && fabReady d

/-- The results of IDENTITY. -/
def identityWords (d : Dev) : List Nat :=
  wordsOf 2 orderingCode ++ [versionWord d, 2 ^ 56 + ownCoord d * 2 ^ 31 + getF d F.fabCoord_module] ++ wordsOf 2 serialBytes ++
  [b2n (readyNow d) * 4 + getF d F.pwrMode_mode]

/-- IDENTITY; noMgt: refused unsigned over the management port (Table 14.4). -/
def runIdentity (d : Dev) (k : Nat) (noMgt : Bool) : Dev :=
  runCmd d k 0x01 (fun m => fieldsOk m []) (fun m => !(noMgt && m.chan == 4 && m.role == 0)) (fun d m => answer d m 0 (identityWords d))

/-! Stage sets (R321 to R327) -/

/-- The scope a command names. -/
def cmdScope (m : MbxCmd) : Nat := if bitOf (m.arg 1) 0 then 4 else m.chan

/-- Scope 0 is the operator's, scope 1 the installer's. -/
def scopeRole (m : MbxCmd) : Bool := if bitOf (m.arg 1) 0 then m.role == 1 else operatorCmd m

/-- The installer set belongs to another channel (R322). -/
def otherChannel (d : Dev) (m : MbxCmd) : Bool :=
  cmdScope m == 4 && getF d F.stgIstat_state != 0 && getF d F.stgIstat_chan != m.chan

/-- A stage command: BUSY for another channel's, else its own work on a scope. -/
def runStage (d : Dev) (k op : Nat) (fields : MbxCmd → Bool) (work : Dev → MbxCmd → Nat → Dev) : Dev :=
  runCmd d k op fields scopeRole (fun d m => if otherChannel d m then answer d m 0x16 [] else work d m (cmdScope m))

/-- STAGE_OPEN. -/
def runOpen (d : Dev) (k : Nat) : Dev :=
  runStage d k 0x10 (fun m => fieldsOk m [1]) (fun d m s =>
    if getF d (stgState s) ≠ 0 then answer d m 0x04 []
    else
      let d := setF (setF { d with sets := Tab.put d.sets s ⟨[], none⟩ } (stgState s) 1) (stgItems s) 0
      answer (if s = 4 then setF d F.stgIstat_chan m.chan else d) m 0 [])

/-- The items a STAGE_WRITE brings. -/
def writeItems (d : Dev) (m : MbxCmd) (s : Nat) : List (Option StageItem) :=
  (List.range (bits (m.arg 1) 10 8)).map (fun i => itemOf d s (m.arg (2 + 3 * i)) (m.arg (3 + 3 * i)) (m.arg (4 + 3 * i)))

/-- STAGE_WRITE. -/
def runWrite (d : Dev) (k : Nat) : Dev :=
  runStage d k 0x11
    (fun m =>
      let n := bits (m.arg 1) 10 8
      fieldsOk m (0x701 :: List.replicate (3 * n) allBits) && decide (1 ≤ n ∧ n ≤ 4))
    (fun d m s =>
      let st := getF d (stgState s)
      let new := writeItems d m s
      if st ≠ 1 ∧ st ≠ 2 then answer d m 0x04 []
      else if new.any (fun x => x.isNone) then answer d m 0x05 []
      else
        let items := (new.filterMap id).foldl mergeItem (setOf d s).items
        if items.length > 256 then answer d m 0x17 []
        else
          let d := setF (setF { d with sets := Tab.put d.sets s { setOf d s with items := items } } (stgState s) 1) (stgItems s) items.length
          answer d m 0 [items.length])

/-- The clusters a merged set moves out of their partitions. -/
def movingClusters (d n : Dev) : List Nat :=
  (List.range 28).filter (fun c => (List.range 4).any (fun p => ownsCluster d p c && !ownsCluster n p c))

/-- STAGE_CHECK (R323); after OK no moving cluster starts (R292). -/
def runCheck (d : Dev) (k : Nat) : Dev :=
  runStage d k 0x12 (fun m => fieldsOk m [1]) (fun d m s =>
    if getF d (stgState s) ≠ 1 then answer d m 0x04 []
    else
      let items := (setOf d s).items
      match failing d items with
      | some (i, r) => answer (setF d (stgReason s) r) m 0x06 [i + r * 2 ^ 16]
      | none =>
        let moving := if s = 4 then movingClusters d (merged d items) else []
        let d := forEach moving d (fun d c => modCluster d c (fun x => { x with startBlocked := true }))
        answer (setF d (stgState s) 2) m 0 [])

/-- A STAGE_COMMIT that does not arm: its status is the last (Table 13.10). -/
def refuseCommit (d : Dev) (m : MbxCmd) (s status : Nat) : Dev := answer (setF d (stgLast s) status) m status []

/-- A set is armed, or NOW committed: its when and instant, and the command to answer. -/
def armSet (d : Dev) (m : MbxCmd) (s when at' : Nat) : Dev :=
  let d := setF (setF d (stgWhen s) when) (stgInstant s) at'
  { d with sets := Tab.put d.sets s { setOf d s with cmd := some m.id } }

/-- STAGE_COMMIT (R324). -/
def runCommit (d : Dev) (k : Nat) : Dev :=
  runStage d k 0x13
    (fun m =>
      let when := bits (m.arg 1) 9 8
      fieldsOk m [0x301, if when = 0 then 0 else allBits] && when != 3 && !(when == 2 && (bitOf (m.arg 1) 0 || decide (m.arg 2 ≥ 2 ^ 48))))
    (fun d m s =>
      let v := m.arg 2
      if getF d (stgState s) ≠ 2 then refuseCommit d m s 0x04
      else match bits (m.arg 1) 9 8 with
        | 0 => commitInOrder (armSet d m s 0 (ftcOf d)) s
        | 1 =>
          if v < m.ftc + 400000 then refuseCommit d m s 0x07
          else if v > m.ftc + 120000000000 then refuseCommit d m s 0x02
          else setF (setCmd (armSet d m s 1 v) { m with waits := true }) (stgState s) 3
        | _ =>
          let late : Bool := match m.arrived with | some g => decide (v ≤ g + 1) | none => false
          if late then refuseCommit d m s 0x07 else setF (setCmd (armSet d m s 2 v) { m with waits := true }) (stgState s) 3)

/-- The last moment to abort an armed set has passed (R327); a release of a gyle above the latest arrival's came before a replay (log
entry 89). -/
def abortLate (d : Dev) (s : Nat) : Bool :=
  if getF d (stgWhen s) = 1 then decide (ftcOf d + 200000 > getF d (stgInstant s))
  else
    let g := getF d (F.fabNflag_chk_gyle s)
    flag d (F.fabNflag_chk_valid s) && decide (g + 2 ≥ getF d (stgInstant s)) &&
      (match Tab.get? d.arrived s with | some a => decide (g ≤ a) | none => true)

/-- STAGE_ABORT (R327). -/
def runAbort (d : Dev) (k : Nat) : Dev :=
  runStage d k 0x14 (fun m => fieldsOk m [1]) (fun d m s =>
    match getF d (stgState s) with
    | 0 => answer d m 0x04 []
    | 3 => if abortLate d s then answer d m 0x07 [] else endSet (answer d m 0 []) s 0x13 []
    | _ => endSet (answer d m 0 []) s 0x13 [])

/-! Pages (R230, R234) -/

/-- A window and page numbers of a range of pages by address; none where it is misaligned or outside the windows. -/
def windowPages (a n : Nat) : Option (Tier × List Nat) :=
  let v := a / pageSize
  let u := (a - 0x020000000000) / pageSize
  if a % pageSize ≠ 0 then none
  else if v + n ≤ 655360 then some (.hbm, (List.range n).map (fun i => v + i))
  else if 0x020000000000 ≤ a ∧ u + n ≤ 507904 then some (.cellar, (List.range n).map (fun i => u + i))
  else none

/-- A page count in range. -/
def countOk (n : Nat) : Bool := decide (1 ≤ n ∧ n ≤ 8192)

/-- Maps pages one after another. -/
def mapPages (d : Dev) (p : Nat) (w : Tier) (obj : Nat) (pin : Bool) : List Nat → Option Dev
  | [] => some d
  | v :: r => match mapPage d p w v obj pin with | some e => mapPages e p w obj pin r | none => none

/-- PAGE_MAP. -/
def runPageMap (d : Dev) (k : Nat) : Dev :=
  runCmd d k 0x20 (fun m => fieldsOk m [allBits, (2 ^ 24 - 1) * 2 ^ 40 + 0x13FFF] && countOk (bits (m.arg 2) 13 0)) operatorCmd (fun d m =>
    match windowPages (m.arg 1) (bits (m.arg 2) 13 0) with
    | none => answer d m 0x0A []
    | some (w, vs) =>
      if vs.any (fun v => (pageAt d m.part w v).isSome) then answer d m 0x0B []
      else match mapPages d m.part w (bits (m.arg 2) 63 40) (bitOf (m.arg 2) 16) vs with
        | some e => answer e m 0 []
        | none => answer d m 0x09 [])

/-- The pages of an object. -/
def objectPages (d : Dev) (p obj : Nat) : List (PageKey × Page) := (pagesOf d p).filter (fun e => e.2.obj == obj)

/-- PAGE_UNMAP. -/
def runPageUnmap (d : Dev) (k : Nat) : Dev :=
  runCmd d k 0x21
    (fun m =>
      let n := bits (m.arg 2) 13 0
      if bitOf (m.arg 2) 17 then fieldsOk m [0, (2 ^ 24 - 1) * 2 ^ 40 + 0x20000] else fieldsOk m [allBits, 0x3FFF] && countOk n)
    operatorCmd (fun d m =>
      let drop (ks : List (Tier × Nat)) : Dev := answer (forEach ks d (fun d x => unmapPage d m.part x.1 x.2)) m 0 [ks.length]
      if bitOf (m.arg 2) 17 then
        match objectPages d m.part (bits (m.arg 2) 63 40) with
        | [] => answer d m 0x0C []
        | es => drop (es.map (fun e => e.1.2))
      else match windowPages (m.arg 1) (bits (m.arg 2) 13 0) with
        | none => answer d m 0x0A []
        | some (w, vs) =>
          if vs.any (fun v => (pageAt d m.part w v).isNone) then answer d m 0x0C [] else drop (vs.map (fun v => (w, v))))

/-- Pins a page; one whose data lie in the cellar comes into HBM within the command (R234, Table 10.2; log entry 16). -/
def pinNow (d : Dev) (p : Nat) (w : Tier) (v : Nat) : Option Dev :=
  match pageAt d p w v with
  | none => some d
  | some x =>
    if w = .hbm ∧ x.tier = .cellar then
      match makeRoom d p with
      | some e =>
        match freeHbm e v, pageAt e p w v with
        | some f, some y => some (setPage (placePage e (p, w, v) .hbm f) p w v { y with tier := .hbm, frame := f, pin := true })
        | _, _ => none
      | none => none
    else some (setPage (cancelEviction d (p, w, v)) p w v { x with pin := true })

/-- Pins pages one after another. -/
def pinPages (d : Dev) (p : Nat) : List (Tier × Nat) → Option Dev
  | [] => some d
  | (w, v) :: r => match pinNow d p w v with | some e => pinPages e p r | none => none

/-- The attributes PAGE_ATTR gives the pages of an object beside a set pin: pin 2 clears it, src 1 is NONE, 2 REPLICA, whose pages follow
in page order. -/
def attrPages (d : Dev) (m : MbxCmd) (ks : List (Tier × Nat)) : Dev :=
  let pin := bits (m.arg 2) 1 0
  let src := bits (m.arg 2) 5 4
  forEach ks.zipIdx d (fun d x =>
    match pageAt d m.part x.1.1 x.1.2 with
    | some g =>
      setPage d m.part x.1.1 x.1.2 { g with
        pin := if pin = 2 then false else g.pin
        src := if src = 1 then none else if src = 2 then some (m.arg 3, m.arg 5 % 4, m.arg 4 + pageSize * x.2) else g.src }
    | none => d)

/-- Pages in window and page order. -/
def inPageOrder (es : List (PageKey × Page)) : List (Tier × Nat) :=
  (es.map (fun e => e.1.2)).mergeSort (fun a b => decide (a.1 = .hbm ∧ b.1 = .cellar) || (a.1 == b.1 && decide (a.2 ≤ b.2)))

/-- PAGE_ATTR. -/
def runPageAttr (d : Dev) (k : Nat) : Dev :=
  runCmd d k 0x22
    (fun m => fieldsOk m [0xFFFFFF, 0x33, 0xFFFF, 2 ^ 48 - 1, 3] && bits (m.arg 2) 1 0 != 3 && bits (m.arg 2) 5 4 != 3 &&
      !(bits (m.arg 2) 5 4 == 2 && m.arg 4 % pageSize != 0))
    operatorCmd (fun d m =>
      match inPageOrder (objectPages d m.part (m.arg 1)) with
      | [] => answer d m 0x0C []
      | ks =>
        match if bits (m.arg 2) 1 0 = 1 then pinPages d m.part ks else some d with
        | some e => answer (attrPages e m ks) m 0 [ks.length]
        | none => answer d m 0x09 [])

/-- POOL_QUERY. -/
def runPoolQuery (d : Dev) (k : Nat) : Dev :=
  runCmd d k 0x23 (fun m => fieldsOk m [0x1FFFFFF]) operatorCmd (fun d m =>
    let es := if bitOf (m.arg 1) 24 then pagesOf d m.part else objectPages d m.part (bits (m.arg 1) 23 0)
    let n (ok : Page → Bool) : Nat := (es.filter (fun e => ok e.2)).length
    answer d m 0 [n (fun x => x.tier == .hbm), n (fun x => x.tier == .cellar), n (fun x => x.pin), n (fun x => x.poison != .sound)])

/-! Slices (R295 to R297, R319, R320) -/

/-- The module with partition p in a box. -/
def inBox (d : Dev) (p origin size : Nat) : Dev :=
  setF (setF (setF d (F.fabSlice_origin p) origin) (F.fabSlice_size p) size) (F.fabSlice_valid p) 1

/-- The box fits the installation and holds this module (R295). -/
def boxFits (d : Dev) (p origin size : Nat) : Bool :=
  let e := inBox d p origin size
  axes.all (fun x => decide (sliceSize e p x ≤ torusSize d x ∧ axis origin x < torusSize d x)) && inSlice e p (ownCoord d)

/-- The local conditions of R295 on the partition, the ports and the FTC. -/
def sliceReady (d : Dev) (p origin size : Nat) : Bool :=
  let e := inBox d p origin size
  flag d (F.hostPcfg_en p) && getF d (F.hostPcfg_clusters p) != 0 && fabShare d p != 0 && flag d F.fabFtcStat_locked &&
  (List.range 10).all (fun n => !sliceUses e p n || (portUp d n && getF d (F.fabPort_disc n) == 1))

/-- The formation of a command's partition under its token. -/
def formOf (d : Dev) (m : MbxCmd) : Option Formation :=
  match Tab.get? d.forms m.part with
  | some f => if f.token = m.arg 2 then some f else none
  | none => none

/-- The arguments of SLICE_FORM are in range (Table 13.5, Table 12.1). -/
def formFields (m : MbxCmd) : Bool :=
  let cuts := bits (m.arg 4) 46 32
  fieldsOk m [3, allBits, 2 ^ 50 - 1, 2 ^ 47 - 1, if bits (m.arg 1) 1 0 = 1 then allBits else 0] && bits (m.arg 1) 1 0 != 3 &&
  axes.all (fun x => decide (bits cuts (3 * x + 2) (3 * x) ≤ 3))

/-- SLICE_FORM, phase PREPARE. -/
def formPrepare (d : Dev) (m : MbxCmd) : Dev :=
  let p := m.part
  let (origin, size) := (bits (m.arg 3) 24 0, bits (m.arg 3) 49 25)
  let under : Bool := match Tab.get? d.forms p with | some f => f.phase != 0 | none => false
  if !boxFits d p origin size then answer d m 0x02 []
  else if flag d (F.fabSlice_valid p) then answer d m 0x10 []
  else if under then answer d m 0x04 []
  else if !sliceReady d p origin size then answer d m 0x0F []
  else
    let ms := bits (m.arg 4) 31 16
    let f : Formation :=
      { token := m.arg 2, origin := origin, size := size, epoch := bits (m.arg 4) 15 0, timeout := if ms = 0 then 1000 else ms
        cuts := bits (m.arg 4) 46 32, cmd := 0, phase := 0, instant := 0, saved := [] }
    answer { d with forms := Tab.put d.forms p f } m 0 [groupRank (inBox d p origin size) p 31 (ownCoord d)]

/-- SLICE_FORM, phase COMMIT. -/
def formCommit (d : Dev) (m : MbxCmd) : Dev :=
  match formOf d m with
  | some f =>
    if f.phase ≠ 0 then answer d m 0x04 []
    else if m.arg 5 < m.ftc + 400000 then answer d m 0x07 []
    else
      let d := { d with forms := Tab.put d.forms m.part { f with cmd := m.id, phase := 1, instant := m.arg 5 } }
      setCmd d { m with waits := true }
  | none => answer d m 0x04 []

/-- SLICE_FORM, phase CANCEL. -/
def formCancel (d : Dev) (m : MbxCmd) : Dev :=
  match formOf d m with
  | some f => if f.phase ≠ 0 then answer d m 0x04 [] else answer { d with forms := Tab.erase d.forms m.part } m 0 []
  | none => answer d m 0x04 []

/-- SLICE_FORM in one of its phases. -/
def runForm (d : Dev) (k phase : Nat) (work : Dev → MbxCmd → Dev) : Dev :=
  match d.picked[k]? with
  | some m =>
    if bits (m.arg 1) 1 0 = phase ∨ (phase = 0 ∧ bits (m.arg 1) 1 0 = 3) then runCmd d k 0x30 formFields operatorCmd work else d
  | none => d

/-- The register fields a formation writes (R296). -/
def formKeys (p : Nat) : List FKey :=
  [ F.fabSlice_valid p, F.fabSlice_size p, F.fabSlice_origin p, F.fabSlcfg_timeout_ms p, F.fabSlcfg_up p, F.fabSlcfg_depth p,
    F.fabSlcfg_root p, F.fabSlcfg_sealed p, F.fabSlcfg_rel_delay p, F.fabEpoch_cur p, F.fabEpoch_pvalid p ]

/-- The slice is sealed on this member's part (R269), and until an FTC that is free on the others': no later than now where one of them breaks
a condition already (log entry 25). -/
def sealSlice (d : Dev) (p : Nat) : Dev :=
  let (n, d) := nextFree d
  setF { d with sealEnd := if getF d (F.fabSlice_size p) = 0 then Tab.erase d.sealEnd p else Tab.put d.sealEnd p (Config.freeCount n) }
    (F.fabSlcfg_sealed p) (b2n (sealedHere d p))

/-- Writes the registers of R296. -/
def writeSlice (d : Dev) (p : Nat) (f : Formation) : Dev :=
  let d := inBox d p f.origin f.size
  let root := sliceRoot d p
  let deep := sliceDepth d p
  let d := setF (setF d (F.fabSlcfg_timeout_ms p) f.timeout) (F.fabSlcfg_depth p) deep
  let d := setF (setF d (F.fabSlcfg_root p) (b2n (root == ownCoord d))) (F.fabSlcfg_rel_delay p) (25 * deep + 50)
  let d := setF d (F.fabSlcfg_up p) ((upPort d (some p) (ownCoord d) root).getD 0xF)
  let d := sealSlice d p
  syncOpen (setF (setF d (F.fabEpoch_cur p) f.epoch) (F.fabEpoch_pvalid p) 0) p

/-- FORMATION_INSTANT (R319). -/
def instantForm (d : Dev) (p : Nat) : Dev :=
  match Tab.get? d.forms p with
  | some f =>
    if f.phase ≠ 1 ∨ d.malt ≠ 1 then d
    else
      let d := setF d F.fabFtc_ftc (max (ftcOf d) f.instant)
      let failed : Bool := flag d (F.fabSlice_valid p) || !boxFits d p f.origin f.size || !sliceReady d p f.origin f.size
      let saved := (formKeys p).map (fun k => (k, getF d k))
      let d := writeSlice { d with forms := Tab.put d.forms p { f with phase := 2, saved := saved } } p f
      let d := { d with chans := Tab.erase d.chans (p, 17) }
      arriveChan d p 17 ⟨b2n failed * 2, modeOf d p + 1 * 2 ^ 8 + f.token % 2 ^ 32 * 2 ^ 32⟩
        (fun x => { x with engine := true, formation := true })
  | none => d

/-- A formation that fails: the registers as they were, and the answer (R319). -/
def failForm (d : Dev) (p : Nat) (f : Formation) (status : Nat) : Dev :=
  let d := { d with forms := Tab.erase d.forms p, chans := Tab.erase d.chans (p, 17) }
  answerId (syncOpen (forEach f.saved d (fun d x => setF d x.1 x.2)) p) f.cmd status []

/-- A formation that succeeds (R296, R319). -/
def endForm (d : Dev) (p : Nat) (f : Formation) : Dev :=
  let d := { d with forms := Tab.erase d.forms p, chans := Tab.erase d.chans (p, 17), cuts := Tab.put d.cuts p f.cuts
                    gens := d.gens.filter (fun e => e.1.1 != p), insts := d.insts.filter (fun e => e.1.1 != p) }
  let d := addF (setF d (F.fabNflag_chk_valid p) 0) (F.fabSlstat_releases p) 1
  answerId (stayAwake d) f.cmd 0 [groupRank d p 31 (ownCoord d)]

/-- FORMATION_RELEASE (R319). -/
def releaseForm (d : Dev) (p : Nat) : Dev :=
  match Tab.get? d.forms p, Tab.get? d.chans (p, 17) with
  | some f, some x =>
    match x.release with
    | some (t, a) =>
      if f.phase ≠ 2 ∨ x.formation = false then d
      else
        let d := setF d F.fabFtc_ftc (max (ftcOf d) t)
        if bitOf a.flags 1 then failForm d p f 0x0F
        else if bitOf a.flags 3 then failForm d p f 0x0D
        else if bitOf a.flags 4 then failForm d p f 0x0E
        else if bitOf a.flags 5 then failForm d p f 0x02
        else endForm d p f
    | none => d
  | _, _ => d

/-- FORMATION_TIMEOUT (R319). -/
def timeoutForm (d : Dev) (p : Nat) : Dev :=
  match Tab.get? d.forms p with
  | some f =>
    let released : Bool := match Tab.get? d.chans (p, 17) with | some x => x.formation && x.release.isSome | none => false
    if f.phase = 2 ∧ released = false then failForm d p f 0x12 else d
  | none => d

/-- PREPARATION_LAPSE (R319): not once a COMMIT of it has been picked up. -/
def lapseForm (d : Dev) (p : Nat) : Dev :=
  match Tab.get? d.forms p with
  | some f =>
    let taken := d.picked.any (fun m => m.chan == p && m.opcode == 0x30 && bits (m.arg 1) 1 0 == 1 && m.arg 2 == f.token)
    if f.phase = 0 ∧ taken = false then { d with forms := Tab.erase d.forms p } else d
  | none => d

/-- Dissolution (R297, R320). -/
def dissolve (d : Dev) (p : Nat) : Dev :=
  let d := abortColls (cancelChannels d p) p
  let d := setF (setF (setF d (F.fabSlice_valid p) 0) (F.fabSlstat_fault p) 0) (F.fabNflag_chk_valid p) 0
  cancelGyleSet { d with cuts := Tab.erase d.cuts p } p

/-- A dissolution that waited for its FTC is answered. -/
def endDissolve (d : Dev) (p status : Nat) : Dev :=
  match Tab.get? d.ends p with
  | some e => answerId { d with ends := Tab.erase d.ends p } e.2 status []
  | none => d

/-- SLICE_DISSOLVE (R320). -/
def runDissolve (d : Dev) (k : Nat) : Dev :=
  runCmd d k 0x31 (fun m => fieldsOk m [1, if bitOf (m.arg 1) 0 then 0 else allBits]) operatorCmd (fun d m =>
    let p := m.part
    if !flag d (F.fabSlice_valid p) then answer d m 0x11 []
    else if bitOf (m.arg 1) 0 then
      (if flag d (F.fabSlstat_fault p) then endDissolve (answer (dissolve d p) m 0 []) p 0x13 else answer d m 0x04 [])
    else if m.arg 2 < m.ftc + 400000 then answer d m 0x07 []
    else if (Tab.get? d.ends p).isSome then answer d m 0x04 []
    else setCmd { d with ends := Tab.put d.ends p (m.arg 2, m.id) } { m with waits := true })

/-- DISSOLUTION_INSTANT. -/
def instantDissolve (d : Dev) (p : Nat) : Dev :=
  match Tab.get? d.ends p with
  | some e =>
    if d.malt = 1 then endDissolve (dissolve (setF d F.fabFtc_ftc (max (ftcOf d) e.1)) p) p 0 else d
  | none => d

/-! Draws (R306) -/

/-- The snapshot a DRAW asks for. -/
def drawReq (m : MbxCmd) : SnapReq :=
  { kind := 1, gyle := m.arg 4, module := 0, addr := m.arg 1, list := m.arg 2, count := m.arg 3 }

/-- A draw begins and is answered. -/
def beginDraw (d : Dev) (m : MbxCmd) : Dev :=
  let p := m.part
  match snapCheck d p (drawReq m) with
  | .error 0x12 => answer d m 0x0A []
  | r =>
    if clrUsed d p > clrQuota d p then answer d m 0x09 []
    else
      let d := beginSnap d p (drawReq m)
      answer d m 0 [match r with | .error s => s | .ok _ => 0]

/-- A draw whose range list lies in a held page waits for it (R237). -/
def draw (d : Dev) (m : MbxCmd) : Dev := if listHeld d m.part (drawReq m) then steadyBroken (setCmd d { m with waits := true }) else beginDraw d m

/-- The draw of a partition that has waited longest. -/
def waitingDraw (d : Dev) (p : Nat) : Option MbxCmd := d.picked.find? (fun m => m.chan == p && m.opcode == 0x32 && m.waits)

/-- With no snapshot copying, the waiting requests of a partition start in the order they arrived, until one copies (R306). -/
def startWaiting (d : Dev) (p : Nat) : Nat → Dev
  | 0 => d
  | n + 1 =>
    if getF d (F.clrSnap_state p) = 1 then d
    else
      let asked := flag d (F.clrSnap_start p)
      match waitingDraw d p with
      | some m => if asked && decide (count? d.snapAt p ≤ m.id) then startWaiting (startSnap d p) p n else startWaiting (draw d m) p n
      | none => if asked then startSnap d p else d

/-- What a snapshot's end lets start. -/
def afterSnap (d : Dev) (p : Nat) : Dev := startWaiting d p (d.picked.length + 2)

/-- DRAW; noDraw: refused by the fuses (Table 14.4). -/
def runDraw (d : Dev) (k : Nat) (noDraw : Bool) : Dev :=
  runCmd d k 0x32 (fun m => fieldsOk m [allBits, allBits, 0xFFFF, 2 ^ 48 - 1] && m.arg 3 != 0) (fun m => operatorCmd m && !noDraw) (fun d m =>
    if getF d (F.clrSnap_state m.part) = 1 ∨ flag d (F.clrSnap_start m.part) = true then setCmd d { m with waits := true } else draw d m)

/-! Ports (R263) -/

/-- FAB_PORTn as read. -/
def portWord (d : Dev) (n : Nat) : Nat := packFields d (.fabPort n) (Reg.fabPort n).fields

/-- PORT_TRAIN: full training of a port no slice uses; it answers when the training ends. -/
def runTrain (d : Dev) (k : Nat) : Dev :=
  runCmd d k 0x33 (fun m => fieldsOk m [0xF] && decide (m.arg 1 ≤ 9)) (fun m => m.role == 1) (fun d m =>
    if (List.range 4).any (fun p => sliceUses d p (m.arg 1)) then answer d m 0x04 []
    else setPortState (modPort (setF (setCmd d { m with waits := true }) (F.fabPort_disc (m.arg 1)) 0) (m.arg 1)
      (fun x => { x with signal := false })) (m.arg 1) 2)

/-- Full training of a port completes; a PORT_TRAIN that asked for it is answered (R262, Table 13.5). -/
def endTraining (d : Dev) (n mask : Nat) : Dev :=
  if portState d n = 2 then
    let d := completeTraining d n mask
    forEach (d.picked.filter (fun m => m.opcode == 0x33 && m.waits && m.arg 1 == n)) d (fun d m => answer d m 0 [portWord d n])
  else d

/-! The management port (R308, R317) -/

/-- The interface identifier of the management port: bytes 0 to 7 of the SM3 digest of the serial, with bit 1 of byte 0 cleared (R384). -/
def mgtInterface : Nat := Nat.land (beNat ((sm3 serialBytes).take 8)) (2 ^ 64 - 1 - 2 ^ 57)

/-- The link-local address of the management port, fe80::/64 (R384). -/
def linkLocal : BitVec 128 := BitVec.ofNat 128 (0xFE80 * 2 ^ 112 + mgtInterface)

/-- Bytes of a UDP datagram within the MTU of 1,500 bytes, after the headers of IPv6 and UDP (R384). -/
def mgtRoom : Nat := 1452

/-- The module takes a datagram to an address: its link-local one, or its global one (R384). -/
def mgtAddress (d : Dev) (dst : BitVec 128) : Bool := dst == linkLocal || d.mgtGlobal == some dst.toNat

/-- MGT_DATAGRAM: a UDP datagram to port 17,440 holds a command slot, and the blob after it. Any other, one that holds no slot, and one that
finds the maltster stopped is discarded and counted (R317, R384). -/
def takeDatagram (d : Dev) (data : List Byte) (src port : Nat) (dst : BitVec 128) (dport : Nat) (udp : Bool) : Dev :=
  if d.malt ≠ 1 ∨ udp = false ∨ dport ≠ 17440 ∨ mgtAddress d dst = false ∨ data.length < 128 ∨ data.length > mgtRoom then
    satF d F.mgtStatus_dropped 1
  else
    let m := newCmd d 4 0 (data.take 128) (data.drop 128) (src, port)
    let d := enterCmd d m
    if knownOpcodes.contains m.opcode && !([0x01, 0x40, 0x41].contains m.opcode) then answer d m 0x03 [] else d

/-- HEARTBEAT: answered to the management controller whenever the maltster runs; the errors corrected in its memories since the last are
counted (R308). -/
def heartbeat (d : Dev) (corrected : Nat) : Dev :=
  let d := { d with maltCe := d.maltCe + corrected }
  if d.malt = 1 then report (addF d F.mgtStatus_heartbeats 1) .heartbeat else d

/-! Restart (R308, R309) -/

/-- The watchdog expires: the maltster stops and begins to restart. -/
def expireWatchdog (d : Dev) : Dev := if d.malt = 1 then { d with malt := 4 } else d

/-- The instant of an armed set has passed. -/
def instantPassed (d : Dev) (s : Nat) : Bool :=
  if getF d (stgWhen s) = 1 then decide (getF d (stgInstant s) ≤ ftcOf d)
  else match Tab.get? d.arrived s with | some g => decide (getF d (stgInstant s) ≤ g + 1) | none => false

/-- What a restart does to a set. -/
def restartSet (d : Dev) (s : Nat) : Dev :=
  match getF d (stgState s) with
  | 3 => if instantPassed d s then endSet d s 0x13 [] else d
  | 0 => d
  | _ => endSet d s 0x13 []

/-- A picked-up command that a restart keeps: the STAGE_COMMIT of an armed set. -/
def keptCmd (d : Dev) (m : MbxCmd) : Bool := (List.range 5).any (fun s => (setOf d s).cmd == some m.id)

/-- Formations and dissolutions whose command a restart answers end with it. -/
def restartSlices (d : Dev) : Dev :=
  let d := forEach d.forms d (fun d e => if e.2.phase = 2 then failForm d e.1 e.2 0x18 else d)
  { d with forms := [], ends := [] }

/-- The maltster has restarted (R309): sets, commands, the alert, and the reports; a second restart within an hour of the first holds
it in reset. -/
def restartMaltster (d : Dev) : Dev :=
  let d := forEach (List.range 5) d restartSet
  let d := restartSlices d
  let d := forEach (d.picked.filter (fun m => !keptCmd d m)) d (fun d m => answer d m 0x18 [])
  let d := report (setF d F.telAlert_mrestart 1) .restart
  let d := if inAnySlice d then moduleFault d .maltster else d
  let d := forEach (List.range 4) d (fun d p => raise d (some p) (F.mbxIrq_restart p) (F.mbxIrqEn_restart p))
  let again : Bool := match d.lastRestart with | some t => decide (ftcOf d < t + 7200000000000) | none => false
  auditEvent { d with malt := if again then 2 else 1, lastRestart := some (ftcOf d) } 2

end Sys2Proof.Machine
end

