-- ==== Sys2Proof/Machine/Sm2.lean ====
section
/-! DEFINITION. SM2 signatures (R332, Table 14.2): the recommended curve of GB/T 32918.5, verification and signing of GB/T 32918.2
with the default user identity. PRESUMED: the constants and the scheme stand in those standards (log entry 8). -/

namespace Sys2Proof.Machine

/-- The prime of the field. -/
def sm2P : Nat := 0xFFFFFFFEFFFFFFFFFFFFFFFFFFFFFFFFFFFFFFFF00000000FFFFFFFFFFFFFFFF
/-- Coefficient a of the curve. -/
def sm2A : Nat := 0xFFFFFFFEFFFFFFFFFFFFFFFFFFFFFFFFFFFFFFFF00000000FFFFFFFFFFFFFFFC
/-- Coefficient b of the curve. -/
def sm2B : Nat := 0x28E9FA9E9D9F5E344D5A9E4BCF6509A7F39789F515AB8F92DDBCBD414D940E93
/-- Order of the base point. -/
def sm2N : Nat := 0xFFFFFFFEFFFFFFFFFFFFFFFFFFFFFFFF7203DF6B21C6052B53BBF40939D54123
/-- x of the base point. -/
def sm2Gx : Nat := 0x32C4AE2C1F1981195F9904466A39C9948FE30BBFF2660BE1715A4589334C74C7
/-- y of the base point. -/
def sm2Gy : Nat := 0xBC3736A2F4F6779C59BDCEE36B692153D0A9877CC62A474002DF32E52139F0A0

/-- A point in Jacobian coordinates; z = 0 is the point at infinity. -/
structure EcPoint where
  x : Nat
  y : Nat
  z : Nat
  deriving DecidableEq, Repr

/-- Modular subtraction in the field. -/
def subP (a b : Nat) : Nat := (a + sm2P - b % sm2P) % sm2P

/-- Twice a point. -/
def EcPoint.double (p : EcPoint) : EcPoint :=
  let yy := p.y * p.y % sm2P
  let s := 4 * p.x * yy % sm2P
  let z2 := p.z * p.z % sm2P
  let m := (3 * p.x * p.x + sm2A * (z2 * z2 % sm2P)) % sm2P
  let x := subP (m * m) (2 * s)
  ⟨x, subP (m * subP s x) (8 * yy * yy), 2 * p.y * p.z % sm2P⟩

/-- Sum of two points. -/
def EcPoint.add (p q : EcPoint) : EcPoint :=
  if p.z = 0 then q
  else if q.z = 0 then p
  else
    let z1 := p.z * p.z % sm2P
    let z2 := q.z * q.z % sm2P
    let u1 := p.x * z2 % sm2P
    let u2 := q.x * z1 % sm2P
    let s1 := p.y * (q.z * z2 % sm2P) % sm2P
    let s2 := q.y * (p.z * z1 % sm2P) % sm2P
    if u1 = u2 then (if s1 = s2 then p.double else ⟨1, 1, 0⟩)
    else
      let h := subP u2 u1
      let r := subP s2 s1
      let hh := h * h % sm2P
      let hhh := h * hh % sm2P
      let v := u1 * hh % sm2P
      let x := subP (r * r) (hhh + 2 * v)
      ⟨x, subP (r * subP v x) (s1 * hhh), h * (p.z * q.z % sm2P) % sm2P⟩

/-- k times a point, over the n low bits of k. -/
def EcPoint.mul (p : EcPoint) (k : Nat) : Nat → EcPoint
  | 0 => ⟨1, 1, 0⟩
  | n + 1 =>
    let q := (EcPoint.mul p (k / 2) n).double
    if k % 2 = 1 then q.add p else q

/-- b to the e modulo m, over the n low bits of e. -/
def powMod (b e m : Nat) : Nat → Nat
  | 0 => 1 % m
  | n + 1 =>
    let r := powMod b (e / 2) m n
    let q := r * r % m
    if e % 2 = 1 then q * b % m else q

/-- Affine coordinates. -/
def EcPoint.affine (p : EcPoint) : Nat × Nat :=
  let i := powMod p.z (sm2P - 2) sm2P 256
  let ii := i * i % sm2P
  (p.x * ii % sm2P, p.y * (ii * i % sm2P) % sm2P)

/-- The base point. -/
def sm2G : EcPoint := ⟨sm2Gx, sm2Gy, 1⟩

/-- The 64 bytes of a public key from its coordinates (Table 14.2). -/
def keyBytes (k : Nat × Nat) : List Byte := beBytes 32 k.1 ++ beBytes 32 k.2

/-- The default 16-byte user identity of GB/T 32918.2, "1234567812345678". -/
def sm2Id : List Byte :=
  [0x31, 0x32, 0x33, 0x34, 0x35, 0x36, 0x37, 0x38, 0x31, 0x32, 0x33, 0x34, 0x35, 0x36, 0x37, 0x38]

/-- The number e of a message under a public key: the digest of ZA and the message. -/
def sm2E (key msg : List Byte) : Nat :=
  let za := sm3 ([0x00, 0x80] ++ sm2Id ++ [sm2A, sm2B, sm2Gx, sm2Gy].flatMap (beBytes 32) ++ key)
  beNat (sm3 (za ++ msg))

/-- The signature of 64 bytes over a message verifies under a public key of 64 bytes. -/
def sm2Verify (key msg sig : List Byte) : Bool :=
  let r := beNat (sig.take 32)
  let s := beNat ((sig.drop 32).take 32)
  let pt : EcPoint := ⟨beNat (key.take 32), beNat ((key.drop 32).take 32), 1⟩
  let t := (r + s) % sm2N
  decide (1 ≤ r ∧ r < sm2N ∧ 1 ≤ s ∧ s < sm2N ∧ t ≠ 0) &&
  (sm2E key msg + ((sm2G.mul s 256).add (pt.mul t 256)).affine.1) % sm2N == r

/-- The public key of a private key. -/
def sm2Public (d : Nat) : List Byte := keyBytes (sm2G.mul d 256).affine

/-- The 64 bytes of a signature over a message with a private key and the random number k, 1 to n - 1. -/
def sm2Sign (d : Nat) (msg : List Byte) (k : Nat) : List Byte :=
  let r := (sm2E (sm2Public d) msg + (sm2G.mul k 256).affine.1) % sm2N
  let s := powMod (1 + d) (sm2N - 2) sm2N 256 * ((k + sm2N * sm2N - r * d) % sm2N) % sm2N
  beBytes 32 r ++ beBytes 32 s

end Sys2Proof.Machine
end

