-- ==== Sys2Proof/Machine/Security.lean ====
section
/-! DEFINITION. Security (R329 to R347): the audit log, signed blobs, the installer's and maker's commands, attestation, the boot ROM
and recovery. These are the commands that touch the security store. -/

namespace Sys2Proof.Machine

/-- Changes the module, not its security store. -/
def withDev (f : Dev → Dev) (s : State) : State := { s with dev := f s.dev }

/-! The audit log (R344 to R346) -/

/-- Entries the flash audit region holds. -/
def auditRoom : Nat := 1572864

/-- The chain value of the newest entry, h_0 before the first. -/
def lastChain (s : Sec) : List Byte :=
  match s.log with
  | (_, b) :: _ => b.drop 96
  | [] => List.replicate 32 0

/-- Bytes 0 to 95 of an audit entry. -/
def auditHead (k ftc : Nat) (r : AuditReq) (digest key : List Byte) : List Byte :=
  leBytes 8 k ++ leBytes 8 ftc ++ leBytes 1 r.role ++ leBytes 1 r.chan ++ leBytes 1 r.code ++ leBytes 1 r.status ++
  leBytes 4 r.tag ++ leBytes 8 r.seq ++ padTo 32 digest ++ padTo 32 key

/-- SEC_AUDIT.full and near_full follow the log; near_full asserts ALERT_N when it is set (R346). -/
def syncAudit (s : State) : State :=
  let n := s.sec.log.length
  let near := decide (8 * n ≥ 7 * auditRoom)
  let d := if near && !flag s.dev F.secAudit_near_full then setF s.dev F.telAlert_audit 1 else s.dev
  { s with dev := setF (setF d F.secAudit_near_full (b2n near)) F.secAudit_full (b2n (decide (n ≥ auditRoom))) }

/-- Appends an entry to the log (R344). -/
def pushEntry (s : State) (r : AuditReq) (digest key : List Byte) : State :=
  let head := auditHead s.sec.next (ftcOf s.dev) r digest key
  let e := head ++ sm3 (lastChain s.sec ++ head)
  syncAudit { s with sec := { s.sec with
    log := (s.sec.next, e) :: s.sec.log, next := s.sec.next + 1, unsealed := s.sec.unsealed + 1
    unsealedAt := if s.sec.unsealed = 0 then ftcOf s.dev else s.sec.unsealedAt } }

/-- The first entry after space returns records the operator entries not written (R346; log entry 9). -/
def noteLost (s : State) : State :=
  let lost := getF s.dev F.secAudit_lost
  if lost > s.sec.lostNoted then
    pushEntry { s with sec := { s.sec with lostNoted := lost } } ⟨3, 5, (Config.eventCode 9).toNat, 0, lost, 0, [], 0⟩ [] []
  else s

/-- Writes an entry, or counts an operator's that finds the region full (R346). -/
def putEntry (s : State) (r : AuditReq) (digest key : List Byte) : State :=
  if s.sec.log.length ≥ auditRoom then { s with dev := if r.role = 0 then satF s.dev F.secAudit_lost 1 else s.dev }
  else pushEntry (noteLost s) r digest key

/-- An entry asked for: the digest of the slot or blob, and the signer's key hash. -/
def putReq (s : State) (r : AuditReq) : State :=
  putEntry s r (if r.role = 3 then [] else sm3 r.bytes) (leBytes 32 r.key)

/-- Writes the entries a command asked for; a session that a commit closed ends (R344, R347). -/
def flushAudit (s : State) : State :=
  let s' := s.dev.audits.foldl putReq { s with dev := { s.dev with audits := [] } }
  if getF s'.dev F.secStatus_diag = 0 then { s' with sec := { s'.sec with diag := none } } else s'

/-- Changes the module and writes the audit entries that asks for. -/
def withAudit (f : Dev → Dev) (s : State) : State := flushAudit (withDev f s)

/-- Segments below the read mark and covered by a seal are erased (R346). -/
def eraseSegments (s : State) : State :=
  let edge := min s.sec.readMark (s.sec.next - 1 - s.sec.unsealed)
  syncAudit { s with sec := { s.sec with log := s.sec.log.filter (fun e => decide ((e.1 / 65536 + 1) * 65536 > edge)) } }

/-! Identity and attestation (R341 to R343) -/

/-- The module's identity private key (R341). -/
def idKey (s : Sec) : Nat := beNat (sm3 (leBytes 32 s.fuses.idSecret.toNat ++ [0x4B, 0x4E, 0x49, 0x44])) % (sm2N - 1) + 1

/-- The random number of the next signature. -/
def nextNonce (s : Sec) : Nat := Config.sm2Nonce s.signs % (sm2N - 1) + 1

/-- The identity key's signature over a message. -/
def identitySign (s : Sec) (msg : List Byte) : List Byte := sm2Sign (idKey s) msg (nextNonce s)

/-- The fuse measurement (R342; log entry 9). -/
def fuseDigest (f : Fuses) : List Byte :=
  leBytes 32 (Config.fuseDigest f.makerHash f.instHash f.rollback
    [f.instValid.toNat, f.debugLock.toNat, f.rights.toNat, b2n f.mfgClosed]).toNat

/-- The fuse measurement follows the fuses (R342; log entry 59). -/
def measureFuses (s : State) : State := withDev (fun d => setMeas d 7 (fuseDigest s.sec.fuses)) s

/-- Bytes 0 to 447 of a quote (R343). -/
def quoteHead (s : State) (nonce : List Byte) : List Byte :=
  [0x4B, 0x4E, 0x51, 0x54] ++ leBytes 2 1 ++ leBytes 2 512 ++ serialBytes ++ leBytes 8 (versionWord s.dev) ++
  [1, BitVec.ofNat 8 (getF s.dev F.pwrMode_mode), BitVec.ofNat 8 (getF s.dev F.secStatus_diag), s.sec.fuses.debugLock.setWidth 8] ++
  List.replicate 4 0 ++ leBytes 8 (ftcOf s.dev) ++ nonce ++ (List.range 8).flatMap (measBytes s.dev) ++ sm2Public (idKey s.sec) ++
  List.replicate 48 0

/-- The 512 bytes of a quote. -/
def quote (s : State) (nonce : List Byte) : List Byte := quoteHead s nonce ++ identitySign s.sec (quoteHead s nonce)

/-- FTC ticks of 60 s (R345). -/
def sealTicks : Nat := 120000000000

/-- When a seal falls due: at once after 1,024 entries, else 60 s after the first that is not sealed (R345). -/
def sealDue (s : State) : Nat :=
  if s.sec.unsealed ≥ 1024 then ftcOf s.dev else max (ftcOf s.dev) (s.sec.unsealedAt + sealTicks)

/-- AUDIT_SEAL, when a seal falls due: a signature over the newest chain value (R345). -/
def sealLog (s : State) : State :=
  if s.dev.malt = 1 ∧ s.sec.unsealed ≠ 0 ∧ s.sec.log.length < auditRoom then
    let sig := identitySign s.sec (lastChain s.sec)
    let s := withDev (fun d => setF d F.fabFtc_ftc (sealDue s)) s
    let s' := pushEntry { s with sec := { s.sec with signs := s.sec.signs + 1 } }
      ⟨3, 5, (Config.eventCode 8).toNat, 0, 0, 0, [], 0⟩ (sig.take 32) (sig.drop 32)
    { s' with sec := { s'.sec with unsealed := 0 } }
  else s

/-! Fuses (R333) -/

/-- The highest valid installer slot. -/
def activeSlot (f : Fuses) : Nat := ([3, 2, 1].find? (fun k => f.instValid.getLsbD k)).getD 0

/-- Bits blown of the anti-rollback counter. -/
def rollbackValue (f : Fuses) : Nat := ((List.range 64).filter (fun i => f.rollback.getLsbD i)).length

/-- Blows the lowest bits that are not blown until the counter is n. -/
def advanceRollback (f : Fuses) (n : Nat) : Fuses :=
  (List.range 64).foldl (fun f i => if rollbackValue f < n then { f with rollback := f.rollback ||| BitVec.twoPow 64 i } else f) f

/-- SEC_FUSE as read. -/
def fuseWord (f : Fuses) : Nat :=
  f.rights.toNat * 2 ^ 16 + b2n f.mfgClosed * 2 ^ 15 + f.debugLock.toNat * 2 ^ 13 + rollbackValue f * 2 ^ 4 + f.instValid.toNat

/-- The key hash of a public key (Table 14.2), as a number of its bytes. -/
def keyHash (key : List Byte) : Nat := leNat (sm3 key)

/-! Signed blobs (R334) -/

/-- The opcodes a blob of kind 0 may carry (check 7, Table 14.1). -/
def permitted (role op : Nat) (diag : Bool) : Bool :=
  if role = 1 then [0x01, 0x10, 0x11, 0x12, 0x13, 0x14, 0x33, 0x40, 0x42, 0x43, 0x50].contains op
  else op == 0x01 || op == 0x40 || (op == 0x50 && diag)

/-- Fields of a blob (Table 14.5). -/
structure Blob where
  kind : Nat
  role : Nat
  seq : Nat
  words : List Nat
  key : List Byte
  deriving DecidableEq, Repr

/-- A blob's fields. -/
def Blob.ofBytes (l : List Byte) : Blob :=
  { kind := leNat (cut l 4 1), role := leNat (cut l 5 1), seq := leNat (cut l 8 8), words := wordsOf 16 (cut l 32 128), key := cut l 160 64 }

/-- The inner opcode of a blob. -/
def Blob.opcode (b : Blob) : Nat := bits (nth b.words 0) 15 8

/-- Last accepted sequence of a role. -/
def lastSeq (s : Sec) (role : Nat) : Nat := if role = 2 then s.makerSeq else s.instSeq

/-- The key of the highest valid installer slot. -/
def installerKey (f : Fuses) (key : List Byte) : Bool :=
  f.instValid.getLsbD (activeSlot f) && keyHash key == (f.instHash.getD (activeSlot f) 0).toNat

/-- The checks of R334 in order: the status of the first that fails. -/
def blobStatus (s : State) (l : List Byte) : Nat :=
  let b := Blob.ofBytes l
  let size := if b.kind = 2 then 416 else 288
  let signed := l.take 160
  if cut l 0 4 ≠ [0x4B, 0x4E, 0x53, 0x42] ∨ b.kind > 3 ∨ leNat (cut l 6 2) ≠ size ∨ l.length ≠ size then 0x02
  else if cut l 16 16 ≠ serialBytes then 0x14
  else if !(if b.role = 2 then keyHash b.key == s.sec.fuses.makerHash.toNat else b.role == 1 && installerKey s.sec.fuses b.key) then 0x14
  else if !sm2Verify b.key signed (cut l 224 64) then 0x14
  else if b.kind = 2 ∧ ¬ (installerKey s.sec.fuses (cut l 288 64) = true ∧ sm2Verify (cut l 288 64) signed (cut l 352 64) = true) then 0x14
  else if b.seq ≤ lastSeq s.sec b.role then 0x15
  else
    let ok := match b.kind with
      | 0 => permitted b.role b.opcode s.sec.diag.isSome
      | 1 => b.role == 1
      | 2 => b.role == 2 && b.opcode == 0x44
      | _ => b.role == 2 && b.opcode == 0x45
    if ok then 0 else 0x03

/-- The command as an accepted blob makes it; a key rotation keeps the outer opcode, having none of its own. -/
def blobCmd (m : MbxCmd) (l : List Byte) : MbxCmd :=
  let b := Blob.ofBytes l
  { m with words := if b.kind = 1 then m.outer :: b.words.tail else b.words
           role := b.role, kind := b.kind, seq := b.seq, key := keyHash b.key, bytes := l }

/-- An accepted blob: its sequence is the role's last before the inner command runs (R334). -/
def acceptBlob (s : State) (m : MbxCmd) (l : List Byte) : State :=
  let b := Blob.ofBytes l
  { s with dev := setCmd s.dev (blobCmd m l)
           sec := if b.role = 2 then { s.sec with makerSeq := b.seq } else { s.sec with instSeq := b.seq } }

/-- A rejected blob changes nothing and is recorded (R334, R344). -/
def rejectBlob (s : State) (m : MbxCmd) (l : List Byte) (status : Nat) : State :=
  let b := Blob.ofBytes l
  withDev (fun d => answer (satF d F.secStatus_rejected 1) { m with seq := b.seq, key := keyHash b.key, bytes := l } status []) s

/-- The extent a command names lies in its partition's view, in open banks (R318). -/
def extentOk (d : Dev) (m : MbxCmd) (a n : Nat) : Bool := m.chan != 4 && fabricMay d m.part a n

/-- A command whose extent fails is answered so; one in a closed bank is a non-owner access (R217, R318). -/
def refuseExtent (m : MbxCmd) (a n : Nat) (d : Dev) : Dev :=
  answer (if m.chan = 4 then d else fabricDenied d m.part a n) m 0x0A []

/-- The extent may be a command's buffer: it is also a multiple of 64 bytes, and no protected program region (R318, R30). -/
def bufferOk (d : Dev) (m : MbxCmd) (a n : Nat) : Bool :=
  extentOk d m a n && a % 64 == 0 && n % 64 == 0 &&
  (guardedAt d a n).isEmpty

/-- Runs a command over the whole state, in the order of runCmd, when its buffer's pages are not held. -/
def runSec (s : State) (k op : Nat) (fields role : MbxCmd → Bool) (buffer : MbxCmd → Nat × Nat)
    (work : State → MbxCmd → State) : State :=
  match cmdAt s.dev k op with
  | none => s
  | some m =>
    if m.chan ≠ 4 ∧ heldWrite s.dev m.part (buffer m).1 (buffer m).2 = true then withDev steadyBroken s
    else if !fields m then withDev (fun d => answer d m 0x02 []) s
    else if !role m then withDev (fun d => answer d m 0x03 []) s
    else if m.role ≠ 0 ∧ op ≠ 0x43 ∧ flag s.dev F.secAudit_full = true then withDev (fun d => answer d m 0x04 []) s
    else work s m

/-- The bytes of the blob a slot names: at arg1 with the bytes of arg2, or in the same datagram (R334). -/
def blobOf (d : Dev) (m : MbxCmd) : List Byte :=
  if m.chan = 4 then m.blob.take (m.arg 2) else viewRead d m.part (m.arg 1) (m.arg 2)

/-- The extent of the blob a slot names. -/
def blobBuffer (m : MbxCmd) : Nat × Nat := (m.arg 1, m.arg 2)

/-- The arguments of a slot that names a blob. -/
def blobFields (m : MbxCmd) : Bool := fieldsOk m [allBits, 0xFFFF]

/-- A slot that names a blob: its extent, its checks, then what its acceptance does. -/
def takeBlob (s : State) (m : MbxCmd) (kindOk : Nat → Bool) (next : State → MbxCmd → State) : State :=
  if m.chan ≠ 4 ∧ extentOk s.dev m (m.arg 1) (m.arg 2) = false then withDev (refuseExtent m (m.arg 1) (m.arg 2)) s
  else
    let l := blobOf s.dev m
    let st := blobStatus s l
    if st ≠ 0 then rejectBlob s m l st
    else if !kindOk (Blob.ofBytes l).kind then rejectBlob s m l 0x03
    else next (acceptBlob s m l) (blobCmd m l)

/-- SIGNED: an accepted blob's inner command stands in its place. -/
def runSigned (s : State) (k : Nat) : State :=
  flushAudit (runSec s k 0x41 blobFields (fun _ => true) blobBuffer (fun s m => takeBlob s m (fun _ => true) (fun s _ => s)))

/-! Commands of installer and maker -/

/-- The bytes of a hash in argument words. -/
def hashArgs (m : MbxCmd) (first : Nat) : List Byte := (List.range 4).flatMap (fun i => leBytes 8 (m.arg (first + i)))

/-- Programs installer slot k with a key hash. -/
def programSlot (f : Fuses) (k hash : Nat) : Fuses :=
  { f with instHash := f.instHash.set k (BitVec.ofNat 256 hash ||| f.instHash.getD k 0), instValid := f.instValid ||| BitVec.twoPow 4 k }

/-- KEY_ROTATION (R335). -/
def rotateKey (s : State) (k : Nat) : State :=
  match s.dev.picked[k]? with
  | some m =>
    if ¬ (s.dev.malt = 1 ∧ m.kind = 1 ∧ onTurn s.dev k m = true) then s
    else flushAudit (
      if !(List.range 11).all (fun i => m.arg (i + 5) == 0) then withDev (fun d => answer d m 0x02 []) s
      else if s.sec.fuses.rights.getLsbD 3 then withDev (fun d => answer d m 0x03 []) s
      else if flag s.dev F.secAudit_full then withDev (fun d => answer d m 0x04 []) s
      else match (List.range 4).find? (fun i => !s.sec.fuses.instValid.getLsbD i) with
        | none => withDev (fun d => answer d m 0x04 []) s
        | some i => measureFuses { s with dev := auditEvent (answer s.dev m 0 []) 5
                                          sec := { s.sec with fuses := programSlot s.sec.fuses i (leNat (hashArgs m 1)) } })
  | none => s

/-- A firmware image of Table 14.6, its header valid. -/
def imageOf (l : List Byte) : Option FwImage :=
  let n := leNat (cut l 16 4)
  if cut l 0 4 = [0x4B, 0x4E, 0x46, 0x57] ∧ l.length = n ∧ 128 ≤ n ∧ n ≤ 0x4000000 ∧ leNat (cut l 10 1) ≤ 64 ∧
      leNat (cut l 11 5) = 0 ∧ leNat (cut l 20 44) = 0 then
    some { major := leNat (cut l 4 2), minor := leNat (cut l 6 2), patch := leNat (cut l 8 2), rb := leNat (cut l 10 1)
           digest := BitVec.ofNat 256 (beNat (sm3 (l.take 64 ++ l.drop 128))), sig := BitVec.ofNat 512 (beNat (cut l 64 64)) }
  else none

/-- The maker signature of an image verifies over D, under a public key whose hash is maker_hash; the manual does not say where the ROM
finds that key (R336, Table 14.2; log entry 9). -/
def imageSigned (f : Fuses) (x : FwImage) : Bool :=
  let key := beBytes 64 (Config.imageKey x.digest x.sig).toNat
  keyHash key == f.makerHash.toNat && sm2Verify key (beBytes 32 x.digest.toNat) (beBytes 64 x.sig.toNat)

/-- An image whose checks hold is being written to flash: what stands there fails R336 until the write is done (R339). -/
def beginInstall (s : State) (m : MbxCmd) (x : FwImage) : State :=
  { s with dev := setCmd s.dev { m with waits := true }, sec := { s.sec with torn := true, install := some (m.id, x) } }

/-- The flash write is done and its digest compared: the new image runs from the next reset or restart (R339). -/
def endInstall (s : State) (m : MbxCmd) (x : FwImage) : State :=
  { s with dev := setF (answer s.dev m 0 []) F.secStatus_fw_pending 1, sec := { s.sec with image := x, torn := false, install := none } }

/-- A flash write that loses its power or its maltster leaves an image that fails R336 (R339). -/
def stopInstall (s : State) : State := { s with sec := { s.sec with install := none } }

/-- The first part of FW_INSTALL: the image at arg1 is checked, and its write to flash begins (R339). -/
def checkInstall (s : State) (k : Nat) : State :=
  runSec s k 0x42 (fun m => fieldsOk m [allBits, 0xFFFFFFFF]) (fun m => m.role == 1) blobBuffer (fun s m =>
    if s.sec.install.isSome then withDev (fun d => answer d m 0x04 []) s
    else if !extentOk s.dev m (m.arg 1) (m.arg 2) then withDev (refuseExtent m (m.arg 1) (m.arg 2)) s
    else match imageOf (viewRead s.dev m.part (m.arg 1) (m.arg 2)) with
      | none => withDev (fun d => answer d m 0x14 []) s
      | some x =>
        if !imageSigned s.sec.fuses x then withDev (fun d => answer d m 0x14 []) s
        else if x.rb < rollbackValue s.sec.fuses then withDev (fun d => answer d m 0x19 []) s
        else beginInstall s m x)

/-- FW_INSTALL (R339): a command that has begun its flash write ends it; any other is checked. -/
def installImage (s : State) (k : Nat) : State :=
  match s.dev.picked[k]?, s.sec.install with
  | some m, some (id, x) =>
    if s.dev.malt = 1 ∧ m.id = id then flushAudit (endInstall s m x) else flushAudit (checkInstall s k)
  | _, _ => flushAudit (checkInstall s k)

/-- The retained entries from a sequence number, in sequence, at most n. -/
def entriesFrom (log : List (Nat × List Byte)) (first : Nat) : Nat → List Byte
  | 0 => []
  | n + 1 =>
    match log.find? (fun e => e.1 == first) with
    | some e => e.2 ++ entriesFrom log (first + 1) n
    | none => []

/-- AUDIT_READ (R346). -/
def readAudit (s : State) (k : Nat) : State :=
  flushAudit (runSec s k 0x43 (fun m => fieldsOk m [allBits, allBits, 0xFFFF] && decide (1 ≤ m.arg 3 ∧ m.arg 3 ≤ 4096))
    (fun m => m.role == 1) (fun m => (m.arg 1, 128 * m.arg 3)) (fun s m =>
      if !bufferOk s.dev m (m.arg 1) (128 * m.arg 3) then withDev (refuseExtent m (m.arg 1) (128 * m.arg 3)) s
      else
        let l := entriesFrom s.sec.log (m.arg 2) (m.arg 3)
        let next := m.arg 2 + l.length / 128
        let d := viewWrite s.dev m.part (m.arg 1) l
        eraseSegments { s with dev := answer d m 0 [l.length / 128, next]
                               sec := { s.sec with readMark := if l.isEmpty then s.sec.readMark else max s.sec.readMark next } }))

/-- A kind 2 blob's inner command opens a session (R347). -/
def openDiag (s : State) (m : MbxCmd) : State :=
  let scope := m.arg 1
  let minutes := m.arg 2
  if !(fieldsOk m [3, 0xFFFF] && decide (1 ≤ scope ∧ scope ≤ 2 ∧ 1 ≤ minutes ∧ minutes ≤ 480)) then withDev (fun d => answer d m 0x02 []) s
  else if s.sec.fuses.debugLock.getLsbD 1 || s.sec.fuses.rights.getLsbD 2 then withDev (fun d => answer d m 0x03 []) s
  else if flag s.dev F.secAudit_full || s.sec.diag.isSome ||
      (scope == 2 && (List.range 4).any (fun p => flag s.dev (F.hostPcfg_en p))) then
    withDev (fun d => answer d m 0x04 []) s
  else { s with dev := setF (auditEvent (answer s.dev m 0 []) 6) F.secStatus_diag scope
                sec := { s.sec with diag := some ⟨scope, minutes, ftcOf s.dev⟩ } }

/-- DIAG_OPEN: by a slot that names the blob, or as a SIGNED blob's inner command (R347). -/
def runDiag (s : State) (k : Nat) : State :=
  match cmdAt s.dev k 0x44 with
  | none => s
  | some m =>
    if m.kind = 2 then flushAudit (openDiag s m)
    else flushAudit (runSec s k 0x44 blobFields (fun _ => true) blobBuffer (fun s m => takeBlob s m (fun x => x == 2) openDiag))

/-- DIAG_EXPIRY: the session ends (R347). -/
def expireDiag (s : State) : State :=
  match s.sec.diag with
  | none => s
  | some x =>
    let t := max (ftcOf s.dev) (x.opened + 120000000000 * x.minutes)
    flushAudit { s with dev := setF (setF (auditEvent s.dev 7) F.fabFtc_ftc t) F.secStatus_diag 0, sec := { s.sec with diag := none } }

/-- The fuses with the bits of an inner command blown (R333). -/
def blowFuses (f : Fuses) (inner : List Nat) : Fuses :=
  let b (i : Nat) : BitVec 256 := Config.fuseBits inner i
  { makerHash := f.makerHash ||| b 0
    instHash := (List.range 4).map (fun i => f.instHash.getD i 0 ||| b (1 + i))
    instValid := f.instValid ||| (b 5).setWidth 4
    idSecret := f.idSecret ||| b 6
    rollback := f.rollback ||| (b 7).setWidth 64
    debugLock := f.debugLock ||| (b 8).setWidth 2
    rights := f.rights ||| (b 9).setWidth 8
    mfgClosed := f.mfgClosed || (b 10).getLsbD 0 }

/-- A kind 3 blob's inner command writes fuses while manufacturing is open (R333). -/
def programFuses (s : State) (m : MbxCmd) : State :=
  if s.sec.fuses.mfgClosed || flag s.dev F.secAudit_full then withDev (fun d => answer d m 0x04 []) s
  else measureFuses { s with dev := answer s.dev m 0 [], sec := { s.sec with fuses := blowFuses s.sec.fuses m.words } }

/-- FUSE_PROGRAM: by a slot that names the blob, or as a SIGNED blob's inner command. -/
def runFuse (s : State) (k : Nat) : State :=
  match cmdAt s.dev k 0x45 with
  | none => s
  | some m =>
    if m.kind = 3 then flushAudit (programFuses s m)
    else flushAudit (runSec s k 0x45 blobFields (fun _ => true) blobBuffer (fun s m => takeBlob s m (fun x => x == 3) programFuses))

/-- Appends bytes to the datagram last sent. -/
def extendAnswer (d : Dev) (l : List Byte) : Dev :=
  match d.datagrams with
  | x :: r => { d with datagrams := { x with data := x.data ++ l } :: r }
  | [] => d

/-- ATTEST (R343): the quote goes to the buffer, or after the response slot in the datagram (log entry 8). -/
def runAttest (s : State) (k : Nat) : State :=
  flushAudit (runSec s k 0x40 (fun m => fieldsOk m (List.replicate 5 allBits)) (fun _ => true) (fun m => (m.arg 1, 512)) (fun s m =>
    let q := quote s (hashArgs m 2)
    let sec := { s.sec with signs := s.sec.signs + 1 }
    if m.chan = 4 then { s with dev := extendAnswer (answer s.dev m 0 [512]) q, sec := sec }
    else if bufferOk s.dev m (m.arg 1) 512 then { s with dev := answer (viewWrite s.dev m.part (m.arg 1) q) m 0 [512], sec := sec }
    else withDev (fun d => answer d m 0x0A []) s))

/-! Boot, restart and recovery (R336 to R338, R309) -/

/-- The image in flash passes the checks of R336. -/
def imageGood (s : Sec) : Bool := !s.torn && imageSigned s.fuses s.image && decide (s.image.rb ≥ rollbackValue s.fuses)

/-- The image is loaded: its digest, its version, VEC_SEQ_MAP (R184), the FRU data (R385), and the rollback counter (R338). -/
def loadImage (s : State) : State :=
  let x := s.sec.image
  let d := setF (setMeas { s.dev with version := (x.major, x.minor, x.patch) } 1 (beBytes 32 x.digest.toNat)) F.secStatus_fw_pending 0
  let seqs := if x.major = 1 then 0x7FFF else (Config.freeWord d.free).toNat
  let d := forEach (List.range 28) { d with free := d.free + 1 } (fun d c => setF d (F.vecSeqMap_loaded c) seqs)
  let d := if x.rb > rollbackValue s.sec.fuses then auditEvent d 4 else d
  { s with dev := d, sec := { s.sec with fuses := advanceRollback s.sec.fuses x.rb, fru := (x.major, x.minor, x.patch) } }

/-- The ROM waits for a recovery image (R337). -/
def enterRecovery (s : State) : State :=
  withDev (fun d => setF (setF { d with malt := 3 } F.secStatus_recovery 1) F.telAlert_recovery 1) { s with sec := { s.sec with recovery := [] } }

/-- The maltster starts: it boots the host groups of enabled partitions, and planned ports without a partner are DOWN (R340, Table 16.6,
Table 11.7). -/
def startMaltster (d : Dev) : Dev :=
  recheckPorts (forEach ((List.range 4).filter (fun p => flag d (F.hostPcfg_en p)))
    (setF { auditEvent d 3 with malt := 1 } F.secStatus_recovery 0) hostBoot) false

/-- BOOT: the boot ROM measures, checks and loads the image and starts the maltster (R336). The configuration and the fuses are measured
then too (R342; log entry 59). -/
def bootModule (s : State) : State :=
  if s.dev.malt = 0 ∧ s.dev.standby = true ∧ s.dev.powerGood = true ∧ s.dev.inReset = false then
    let s := syncAudit (withDev (fun d => setMeas d 0 (beBytes 32 Config.romDigest.toNat)) s)
    if imageGood s.sec then
      flushAudit (withDev startMaltster (measureFuses (withDev (fun d => setMeas d 6 (configDigest d)) (loadImage s))))
    else enterRecovery s
  else s

/-- MALTSTER_RESTART: the image is reloaded and verified, and pending commands and commits are settled (R309). -/
def restartModule (s : State) : State :=
  if s.dev.malt = 1 ∨ s.dev.malt = 4 then
    let s := stopInstall (withAudit restartMaltster s)
    if s.dev.malt = 2 then s else if imageGood s.sec then flushAudit (measureFuses (loadImage s)) else enterRecovery s
  else s

/-- Pieces of an image from a place cover the bytes before the end. -/
def covered (pieces : List (Nat × List Byte)) (stop pos : Nat) : Nat → Bool
  | 0 => decide (pos ≥ stop)
  | n + 1 =>
    if pos ≥ stop then true
    else match pieces.find? (fun x => decide (x.1 ≤ pos ∧ pos < x.1 + x.2.length)) with
      | some x => covered pieces stop (x.1 + x.2.length) n
      | none => false

/-- The image the pieces received make up, once they cover it. -/
def recovered (pieces : List (Nat × List Byte)) : Option (List Byte) :=
  let m := pieces.foldl (fun m x => memPutList m x.1 x.2) []
  if covered pieces 20 0 (pieces.length + 1) then
    let n := leNat ((List.range 4).map (fun i => memGet m (16 + i)))
    if n ≤ 0x4000000 && covered pieces n 0 (pieces.length + 1) then some ((List.range n).map (memGet m)) else none
  else none

/-- RECOVERY_DATAGRAM: a piece is stored and acknowledged; a complete image is checked, written to flash and booted, or discarded
(R337). -/
def recoveryPiece (s : State) (data : List Byte) (src port : Nat) (dst : BitVec 128) : State :=
  if s.dev.malt ≠ 3 ∨ dst ≠ linkLocal ∨ data.length < 8 ∨ data.length > 1032 then withDev (fun d => satF d F.mgtStatus_dropped 1) s
  else
    let (i, d) := nextFree s.dev
    let pieces := s.sec.recovery ++ [(leNat (data.take 8), data.drop 8)]
    let d := { d with datagrams := ⟨src, port, [Config.freeByte i]⟩ :: d.datagrams }
    match recovered pieces with
    | none => { s with dev := d, sec := { s.sec with recovery := pieces } }
    | some l =>
      match imageOf l with
      | some x =>
        if imageSigned s.sec.fuses x && decide (x.rb ≥ rollbackValue s.sec.fuses) then
          { s with dev := setF { d with malt := 0 } F.secStatus_recovery 0, sec := { s.sec with image := x, torn := false, recovery := [] } }
        else { s with dev := d, sec := { s.sec with recovery := [] } }
      | none => { s with dev := d, sec := { s.sec with recovery := [] } }

end Sys2Proof.Machine
end

