-- ==== Sys2Proof/Machine/Power.lean ====
section
/-! DEFINITION. Power, clocks and pins (R348 to R365, R373 to R377): clock ceilings and loops, sensors and trips, gated units, wear, and
what resets and rails do to the module. -/

namespace Sys2Proof.Machine

/-! Clocks (R348 to R354) -/

/-- The ACLK point of a mode in MHz (Table 15.1). -/
def modePoint (m : Nat) : Nat := if m = 1 then 1700 else if m = 3 then 1200 else 1800

/-- The mode's part of the ceiling: while some enabled partitions have switched and others not, the lower of the two points (R18). -/
def modeTop (d : Dev) : Nat :=
  let m := getF d F.pwrMode_mode
  let old := modePoint (moduleMode d)
  if (List.range 4).any (fun p => flag d (F.hostPcfg_en p) && modeOf d p == m) then min old (modePoint m) else old

/-- The limit without thermal history (R348). -/
def historyLimit (d : Dev) : Nat := if flag d F.pwrStatus_hist then 1800 else 1500

/-- The cap loop's limit: it acts in CAPPED mode only (Table 15.1). -/
def capBound (d : Dev) : Nat := if moduleMode d = 2 then d.capLimit else 1800

/-- ACLK's ceiling (R348). -/
def ceiling (d : Dev) : Nat :=
  min (modeTop d) (min (historyLimit d) (min d.thermLimit (min (capBound d) d.ilimLimit)))

/-- A loop limits the ceiling now (Table 15.10 limit, Table 15.11). -/
def limits (d : Dev) (l : Nat) : Bool := l == ceiling d && decide (ceiling d < modeTop d)

/-- PWR_STATUS.limit: cap, thermal, current, no history. -/
def limitBits (d : Dev) : Nat :=
  b2n (limits d (capBound d)) + 2 * b2n (limits d d.thermLimit) + 4 * b2n (limits d d.ilimLimit) + 8 * b2n (limits d (historyLimit d))

/-- PWR_STATUS.steady_ok (R350). -/
def steadyOk (d : Dev) : Bool := flag d F.pwrStatus_hist && moduleMode d == 1 && getF d F.pwrStatus_aclk == 1700

/-- CLOCK_STEP: ACLK moves one step toward its ceiling (R349); a STEADY module's clock lowered below its point breaks R20. -/
def stepClock (d : Dev) : Dev :=
  let f := getF d F.pwrStatus_aclk
  let c := ceiling d
  if f > c then
    let d := setF d F.pwrStatus_aclk (f - 25)
    if f ≤ modeTop d then steadyBroken d else d
  else if f < c then setF d F.pwrStatus_aclk (f + 25)
  else d

/-- The 10 us average of the input (Table 15.11); the energy it stands for is free (log entry 1). -/
def meter (d : Dev) (watts centivolts centiamps : Nat) : Dev :=
  addFree (setF (setF (setF d F.pwrMeter_power watts) F.pwrMeter_volts centivolts) F.pwrMeter_amps centiamps) F.pwrEnergy_mj

/-- A loop asks for one step less: below ACLK's present point, then of HCLK once ACLK is at its minimum (R348). -/
def lowerLimit (d : Dev) (l : Nat) (put : Dev → Nat → Dev) : Dev :=
  let f := getF d F.pwrStatus_aclk
  if min l f ≤ 900 then
    let h := getF d F.pwrStatus_hclk
    if f ≤ 900 ∧ h > 1300 then setF (put d 900) F.pwrStatus_hclk (h - 100) else put d 900
  else put d (min l f - 25)

/-- A loop with limit l allows one step more: HCLK first, unless the other loop, with limit m, still asks for less (R348), then its
limit (R352). -/
def raiseLimit (d : Dev) (l m : Nat) (put : Dev → Nat → Dev) : Dev :=
  let h := getF d F.pwrStatus_hclk
  if h < 2600 ∧ m > 900 then setF d F.pwrStatus_hclk (h + 100) else put d (min 1800 (l + 25))

/-- The cap of PWR_MODE in W. -/
def capWatts (d : Dev) : Nat := 25 * getF d F.pwrMode_cap

/-- CAP_LOOP_STEP (R352): in CAPPED mode one step down above the cap, one up at 50 W or more below it, admitted rows before any clock
(R353). -/
def capStep (d : Dev) (watts cv ca : Nat) : Dev :=
  let d := meter d watts cv ca
  let put (d : Dev) (l : Nat) : Dev := { d with capLimit := l }
  if moduleMode d ≠ 2 then d
  else if watts > capWatts d then lowerLimit d d.capLimit put
  else if watts + 50 ≤ capWatts d then
    let k := getF d F.pwrStatus_admit
    if k < 8 then setF d F.pwrStatus_admit (k + 1) else raiseLimit d d.capLimit d.thermLimit put
  else d

/-- ROW_ADMISSION_STEP (R353): with both clocks at their minima and power over the cap, fewer row cycles are admitted. -/
def admissionStep (d : Dev) (watts cv ca : Nat) : Dev :=
  let d := meter d watts cv ca
  let k := getF d F.pwrStatus_admit
  if moduleMode d = 2 ∧ watts > capWatts d ∧ getF d F.pwrStatus_aclk ≤ 900 ∧ getF d F.pwrStatus_hclk ≤ 1300 ∧ k > 2 then
    setF d F.pwrStatus_admit (k - 1)
  else d

/-- CURRENT_LIMIT (R354): above 80 A the ACLK limit is 1.20 GHz at once; below it, under the rule of R352, the limit is released step
by step. The 50 W of that rule are taken at the measured voltage. -/
def currentStep (d : Dev) (watts cv ca : Nat) : Dev :=
  let d := meter d watts cv ca
  if ca > 8000 then
    let d := setF (setF { d with ilimLimit := 1200 } F.pwrStatus_ilim 1) F.telAlert_ilim 1
    if getF d F.pwrStatus_aclk > 1200 then steadyBroken (setF d F.pwrStatus_aclk 1200) else d
  else if ca * cv + 500000 ≤ 8000 * cv then { d with ilimLimit := min 1800 (d.ilimLimit + 25) }
  else d

/-! Sensors (R360 to R362) -/

/-- Alarm, throttle and trip limits of a sensor in degrees C (Table 15.3). -/
def sensorLimits (n : Nat) : Nat × Nat × Nat :=
  if n < 40 then (90, 95, 110) else if n < 56 then (85, 95, 105) else if n < 72 then (85, 95, 105)
  else if n < 76 then (100, 110, 125) else if n = 76 then (40, 45, 55) else (60, 65, 75)

/-- A reading is above a limit in degrees C. -/
def above (t : Int) (limit : Nat) : Bool := decide (t > 16 * (limit : Int))

/-- A sensor's last current reading, in 1/16 degrees C. -/
def reading (d : Dev) (n : Nat) : Option Int :=
  if flag d (F.telTemp_valid n) then some (signed 16 (getF d (F.telTemp_temp n))) else none

/-- The sensors whose reading meets a condition. -/
def sensorsWith (d : Dev) (ok : Nat → Int → Bool) : List Nat :=
  (List.range 78).filter (fun n => match reading d n with | some t => ok n t | none => false)

/-- One reading of a sensor: its value and its flags. -/
def takeReading (d : Dev) (n : Nat) (t : Option (BitVec 16)) : Dev :=
  match t with
  | none => setF (setF (setF { d with readings := Tab.erase d.readings n } (F.telTemp_valid n) 0) (F.telTemp_alarm n) 0) (F.telTemp_over n) 0
  | some v =>
    let (alarm, throttle, _) := sensorLimits n
    let d := setF (setF { d with readings := Tab.put d.readings n v.toInt } (F.telTemp_temp n) v.toNat) (F.telTemp_valid n) 1
    setF (setF d (F.telTemp_alarm n) (b2n (above v.toInt alarm))) (F.telTemp_over n) (b2n (above v.toInt throttle))

/-- Coolant alarms: its sensors, or a rise above 25 K (R360). -/
def coolantAlarm (d : Dev) : Bool :=
  flag d (F.telTemp_alarm 76) || flag d (F.telTemp_alarm 77) ||
  (match reading d 76, reading d 77 with | some i, some o => decide (o > i + 400) | _, _ => false)

/-- The highest compute-die reading. -/
def dieMaximum (d : Dev) : Option Int :=
  ((List.range 32).filterMap (reading d)).foldl (fun a t => match a with | some x => some (max x t) | none => some t) none

/-- Thermal cycles: swings of 40 K or more of the compute-die maximum (Table 15.13). -/
def noteSwing (d : Dev) : Dev :=
  match dieMaximum d with
  | none => d
  | some t =>
    let (lo, hi) := match d.swing with | some x => (min x.1 t, max x.2 t) | none => (t, t)
    if hi - lo ≥ 640 then satF { d with swing := some (t, t) } F.telWear1_cycles 1 else { d with swing := some (lo, hi) }

/-- SENSOR_SAMPLE: every sensor is read and compared (R360); power above 1,500 W counts toward the thermal history (R350); an HBM stack
or cellar package above its throttle limit is served more slowly, which breaks R20 (R361). -/
def sampleSensors (d : Dev) (temps : List (Option (BitVec 16))) : Dev :=
  let d := forEach (List.range 78) d (fun d n => takeReading d n ((temps[n]?).getD none))
  let d := if (sensorsWith d (fun n t => above t (sensorLimits n).1)).isEmpty then d else setF d F.telAlert_alarm 1
  let d := if coolantAlarm d then setF d F.telAlert_coolant 1 else d
  let d := if (sensorsWith d (fun n t => decide (40 ≤ n ∧ n < 72) && above t (sensorLimits n).2.1)).isEmpty then d else steadyBroken d
  let hot := if getF d F.pwrMeter_power > 1500 then d.hotSteps + 1 else d.hotSteps
  let d := { d with hotSteps := hot }
  noteSwing (if hot ≥ 300000 then setF d F.pwrStatus_hist 1 else d)

/-- THERMAL_LOOP_STEP (R361): one step down while a die, regulator or coolant sensor is above its throttle limit, one up once every
sensor is at least 3 K below its own. -/
def thermalStep (d : Dev) : Dev :=
  let put (d : Dev) (l : Nat) : Dev := { d with thermLimit := l }
  let hot := sensorsWith d (fun n t => (decide (n < 40) || decide (72 ≤ n)) && above t (sensorLimits n).2.1)
  let warm := sensorsWith d (fun n t => decide (t + 48 > 16 * ((sensorLimits n).2.1 : Int)))
  if !hot.isEmpty then steadyBroken (setF (lowerLimit d d.thermLimit put) F.telAlert_throttle 1)
  else if warm.isEmpty then raiseLimit d d.thermLimit (capBound d) put
  else d

/-! Rails and resets (R11, R373, R376, R377) -/

/-- Field entries that outlive a reset of the given domains. -/
def keepFields (f : Tab FKey Nat) (ok : Domain → Bool) : Tab FKey Nat := f.filter (fun e => ok e.1.dom)

/-- The core rails are off: everything outside the always-on domain and the repair record is at its reset value (R11, R226, R247). -/
def coreOff (d : Dev) : Dev :=
  { Dev.reset with
    f := keepFields d.f (fun x => x != .core)
    msis := d.msis, free := d.free, reports := d.reports, svcOut := d.svcOut, datagrams := d.datagrams, acked := d.acked
    coordSet := d.coordSet, taken := d.taken, joined := d.joined, retired := d.retired, hardRows := d.hardRows
    i2c := d.i2c, jtag := d.jtag, standby := d.standby, inReset := d.inReset, powerGood := false, inputOk := d.inputOk
    inputTrip := d.inputTrip, hotSteps := d.hotSteps, wearSaved := d.wearSaved, swing := d.swing, readings := d.readings }

/-- What a reset does to the security store: an open session ends and is entered in the log, pieces of a recovery image are lost, and a
flash write stops (R347, R337, R339). -/
def secOff (s : State) : State :=
  let s := if s.sec.diag.isSome then withAudit (fun d => auditEvent d 7) s else s
  { s with sec := { s.sec with diag := none, recovery := [], lostNoted := 0, unsealedAt := 0, install := none } }

/-- What the pins do (R386): EXTEST and CLAMP drive them from the chain and HIGHZ floats them, while MOD_RESET_N is asserted; else they
are functional. -/
def tapPins (d : Dev) : Nat :=
  if d.standby && d.inReset then
    (match d.jtag.ir with | .extest | .clamp => 1 | .highz => 2 | _ => 0)
  else 0

/-- The pins follow the test port's instruction and MOD_RESET_N. -/
def setPins (d : Dev) : Dev := { d with jtag := { d.jtag with pins := tapPins d } }

/-- MOD_RESET_ASSERT (R377). -/
def assertReset (s : State) : State := withDev (fun d => setPins (coreOff { d with inReset := true })) (secOff s)

/-- A latched trip allows the core rails: every sensor that still reads lies at least 15 K below its trip limit (R362). -/
def tripCleared (d : Dev) : Bool := d.readings.all (fun e => decide (e.2 + 240 ≤ 16 * ((sensorLimits e.1).2.2 : Int)))

/-- Step 2 of the power-up begins once the last of its conditions holds, whatever their order: standby, the input in range and not lost
since the last release, MOD_RESET_N released, no trip latched (R376, R373). The core rails come up, margins are set (R364), and the rows of
the repair record are repaired (R247). -/
def powerUp (d : Dev) : Dev :=
  if d.standby && d.inputOk && !d.inputTrip && !d.inReset && !d.powerGood && !flag d F.telAlert_trip then
    { d with powerGood := true, hardRows := [] }
  else d

/-- A latched trip clears at a release, once the sensors allow (R362). -/
def clearTrip (d : Dev) : Dev :=
  if flag d F.telAlert_trip && !tripCleared d then d else setF (setF d F.telAlert_trip 0) F.telAlert_trip_sensor 0

/-- MOD_RESET_RELEASE (R376, R362, R373): the core rails come up when the other conditions hold. -/
def releaseReset (d : Dev) : Dev :=
  if d.inReset then
    let d := setPins { d with inReset := false, inputTrip := d.inputTrip && !d.inputOk }
    powerUp (if d.standby then clearTrip d else d)
  else d

/-- The wear counters of Table 15.13. -/
def wearFields : List FKey :=
  [F.telWear0_powered_h, F.telWear0_hot_h, F.telWear1_cycles, F.telWear1_restores, F.telWear2_dpus, F.telWear2_banks, F.telWear2_rows,
   F.telWear2_cols, F.telWear3_hbm_retired, F.telWear3_clr_retired, F.telWear4_lanes, F.telWear4_units, F.telWear4_erases]

/-- STANDBY_LOSS (R377, R350): every rail is off, and the always-on domain and the test port with them. -/
def loseStandby (s : State) : State :=
  if s.dev.standby then
    withDev (fun d =>
      let d := coreOff { d with standby := false, inputTrip := false, jtag := Dev.reset.jtag }
      { d with f := keepFields d.f (fun x => x == .repair), coordSet := false, hotSteps := 0, swing := none, readings := [] }) (secOff s)
  else s

/-- STANDBY_RESTORE (R376 step 1, R365, R11): kept fields at their values of no commit, wear counters from flash; step 2 follows if its
conditions hold. -/
def restoreStandby (d : Dev) : Dev :=
  if d.standby then d
  else
    let d := forEach wearFields { d with standby := true } (fun d k => setF d k ((Tab.get? d.wearSaved k).getD 0))
    powerUp (satF d F.telWear1_restores 1)

/-- The core rails fall with the 48 V input, which the always-on domain records (R373, Table 16.4). -/
def loseInput (s : State) (k : FKey) : State :=
  if s.dev.standby then
    withDev (fun d =>
      let d := coreOff { d with inputOk := false, inputTrip := true }
      satF (setF d k 1) F.pwrFault_count 1) (secOff s)
  else withDev (fun d => { d with inputOk := false }) s

/-- INPUT_FAULT (R373): the 48 V input leaves its range, or is in it again, which alone brings up only rails that no fault has switched off
(log entry 97). -/
def inputFaulty (s : State) (x : InputLevel) : State :=
  match x with
  | .under => loseInput s F.pwrFault_under
  | .over => loseInput s F.pwrFault_over
  | .inRange => withDev (fun d => powerUp { d with inputOk := true }) s

/-- THERMAL_TRIP (R362): a reading above the sensor's trip limit. -/
def thermalTrip (s : State) (n : Nat) (temp : Int) : State :=
  if s.dev.standby ∧ above temp (sensorLimits n).2.2 = true then
    withDev (fun d =>
      let d := coreOff { d with readings := Tab.put d.readings n temp }
      setF (setF (setF { d with hotSteps := 0 } F.telAlert_trip 1) F.telAlert_trip_sensor n) F.pwrStatus_hist 0) (secOff s)
  else s

/-! Gated units (R355 to R357) -/

/-- The unit has been idle for its period and may enter its gated state (Table 15.2). -/
def gateable (d : Dev) : GatedUnit → Bool
  | .vector c u => getF d (F.vecUnit_state c u) == 1 && unitCount d c u == 0
  | .array c => getF d (F.mcArrStatus_phase c) == 0 && getF d (F.mcArrStatus_level c) == 0
  | .cluster c => seqAtRest d c && getF d (F.mcArrStatus_phase c) == 0 && (clusterOf d c).dwq.isEmpty && mayGate d (partOf d c)
  | .kilnCore k => getF d (F.klnCore_state k) == 1 && mayGate d (grantee d F.klnPcfg_cores k)
  | .rackClock u => getF d (F.rkUnit_state u) == 1
  | .rackPower u => d.gated.contains (.rackClock u) && getF d (F.rkUnit_state u) == 0 && mayGate d (grantee d F.rkPcfg_units u)
  | .hostGroup q => getF d (F.hostHgstat_state q) == 0 && mayGate d none
  | .fabricPort n => (portState d n == 0 || portState d n == 8) && mayGate d none
  | .servicePort _ => (List.range 4).all (fun p => getF d (F.hostPcfg_svc_share p) == 0) && mayGate d none
  | _ => true

/-- POWER_GATE_ENTRY (R355). -/
def enterGate (d : Dev) (x : GatedUnit) : Dev :=
  if !gateable d x || d.gated.contains x || d.waking.contains x || d.wakeQueue.contains x then d
  else
    let d := { d with gated := d.gated ++ [x] }
    match x with
    | .vector c u => setF d (F.vecUnit_state c u) 0
    | .kilnCore k => setF d (F.klnCore_state k) 0
    | .rackClock u => setF d (F.rkUnit_state u) 0
    | _ => d

/-- Work that waited for a unit proceeds: its state is that of a unit at work. -/
def beginWork (d : Dev) (k : FKey) : Dev := if getF d k = 3 then setF d k 2 else d

/-- A rack unit proceeds once it waits for no wake. -/
def beginRack (d : Dev) (u : RackId) : Dev :=
  if d.waking.contains (.rackPower u) || d.wakeQueue.contains (.rackPower u) then d
  else ungate (beginWork d (F.rkUnit_state u)) (.rackClock u)

/-- UNIT_WAKE (R355, R357): a unit that was asked to wake has finished waking. -/
def wakeUnit (d : Dev) (x : GatedUnit) : Dev :=
  if powerGated x && !d.waking.contains x then d
  else
    let d := endWake d x
    match x with
    | .vector c u => if getF d (F.vecUnit_state c u) = 3 then ungate (setF d (F.vecUnit_state c u) 2) x else d
    | .kilnCore k => beginWork d (F.klnCore_state k)
    | .rackClock u => if getF d (F.rkUnit_state u) = 3 then beginRack d u else d
    | .rackPower u => if getF d (F.rkUnit_state u) = 3 then beginRack d u else d
    | .hart _ => ungate d x
    | _ => d

/-! Background work and wear (R363, R365) -/

/-- BACKGROUND_FORCED (R363, Table 15.4): at 7/8 of its period a kind with work left becomes forced, until the work of the period is done;
link adaptation and wear save are never forced (log entry 51). -/
def forceWork (d : Dev) (b : Background) (left : Bool) : Dev :=
  if !left then { d with forced := d.forced.filter (fun x => x != b) }
  else if b = .linkAdaptation ∨ b = .wearSave ∨ d.forced.contains b = true then d
  else steadyBroken { d with forced := d.forced ++ [b] }

/-- Frames of the first repair reserve (R232). -/
def reserveSize : Tier → Nat
  | .hbm => 512
  | .cellar => 256

/-- Frames left in the repair reserve. -/
def reserveLeft (d : Dev) (t : Tier) : Nat :=
  ((List.range (reserveSize t)).filter (fun i => inReserve d t (reserveFirst t + i))).length +
  (d.joined.filter (fun e => e.1 == t && !decide (reserveFirst t ≤ e.2 ∧ e.2 < tierFrames t))).length

/-- The conditions of Table 15.5 that hold, as TEL_WEAR_STAT.cause. -/
def wearCause (d : Dev) : Nat :=
  let c1 := (List.range 28).any (fun c => getF d (F.mcDpuMap_spares_left c) == 0 || flag d (F.mcDpuMap_retired c)) ||
    (List.range 8).any (fun k => getF d (F.klnCore_state k) == 4) || (List.range 16).any (fun u => getF d (F.rkUnit_state u) == 4)
  let c2 := (List.range 28).any (fun c => (List.range 32).any (fun b =>
    decide (getF d (F.bankRepair_rows_left c b) < 2) || flag d (F.bankRepair_replaced c b)))
  let c3 := [Tier.hbm, .cellar].any (fun t => decide (2 * reserveLeft d t < reserveSize t))
  let c4 := (List.range 10).any (fun n => (portState d n == 3 || portState d n == 4) && decide (getF d (F.fabPort_lanes n) < 6))
  let c5 := decide (getF d F.telWear0_powered_h ≥ 87600)
  b2n c1 + 2 * b2n c2 + 4 * b2n c3 + 8 * b2n c4 + 16 * b2n c5

/-- The replacement advisory after a change of spares (R365). -/
def noteWear (d : Dev) : Dev :=
  let k := wearCause d
  let d := setF d F.telWearStat_cause k
  if k ≠ 0 ∧ flag d F.telWearStat_advise = false then setF (setF d F.telWearStat_advise 1) F.telAlert_wear 1 else d

/-- WEAR_SAVE (R365): the hour's counts, then the counters as they stand go to flash. -/
def saveWear (d : Dev) : Dev :=
  let d := if d.powerGood then satF d F.telWear0_powered_h 1 else d
  let d := if (sensorsWith d (fun n t => decide (n < 40) && decide (t ≥ 1440))).isEmpty then d else satF d F.telWear0_hot_h 1
  let d := noteWear (addFree d F.telWear4_erases)
  { d with wearSaved := wearFields.map (fun k => (k, getF d k)) }

/-! Sideband bus, test port and management link (R384 to R386) -/

/-- The FRU data (Table 16.10); bytes it does not name are free (log entry 9). -/
def fruByte (s : Sec) (a : Nat) : Byte :=
  let v := 0x4131 * 2 ^ 48 + s.fru.1 * 2 ^ 32 + s.fru.2.1 * 2 ^ 16 + s.fru.2.2
  let parts : List (Nat × List Byte) :=
    [(0x0000, leBytes 2 1), (0x0010, orderingCode), (0x0020, leBytes 8 v), (0x0030, serialBytes), (0x0040, leBytes 4 Config.manufactureDate.toNat),
     (0x0100, sm2Public (idKey s)), (0x0140, beBytes 64 Config.makerCertificate.toNat)]
  match parts.find? (fun x => decide (x.1 ≤ a ∧ a < x.1 + x.2.length)) with
  | some x => x.2.getD (a - x.1) 0
  | none => Config.fruByte a

/-- FRU_READ (R385): bytes from a 16-bit offset, which wraps. -/
def readFru (s : State) (off count : Nat) : State :=
  if s.dev.standby then withDev (fun d => { d with i2c := (List.range count).map (fun i => fruByte s.sec ((off + i) % 65536)) }) s else s

/-- The bits of a number, the lowest first, as a test port shifts them out. -/
def shiftBits (n v : Nat) : List Bool := (List.range n).map (fun i => bitOf v i)

/-- An instruction enters the test port's register, if that has its supply, with what then shifts out. -/
def tapLoad (d : Dev) (ir : JtagInstr) (tdo : List Bool) : Dev :=
  if d.standby then setPins { d with jtag := { d.jtag with ir := ir, tdo := tdo } } else d

/-- BYPASS. -/
def tapBypass (d : Dev) : Dev := tapLoad d .bypass [false]

/-- IDCODE. -/
def tapIdcode (d : Dev) : Dev := tapLoad d .idcode (shiftBits 32 0x1A41C0B5)

/-- ALERT_N is asserted while any bit of TEL_ALERT is 1 (R375, Table 16.5). -/
def alertAsserted (d : Dev) : Bool := packFields d .telAlert Reg.telAlert.fields != 0

/-- THERM_TRIP_N is asserted while a trip is latched (R362, R375). -/
def tripAsserted (d : Dev) : Bool := flag d F.telAlert_trip

/-- The levels at the contacts: what comes from outside on the first nine, then those of the presence, reset and status signals
MOD_PRESENT_N, MOD_RESET_N, PWR_GOOD, ALERT_N and THERM_TRIP_N (Tables 16.5 and 16.9; their order in the chain is log entry 53). -/
def pinLevels (d : Dev) (outside : List Bool) : List Bool :=
  outside.take 9 ++ [false, !d.inReset, d.powerGood, !alertAsserted d, !tripAsserted d]

/-- SAMPLE/PRELOAD: the pins are shifted out, the cells take what is shifted in. -/
def tapSample (d : Dev) (pins load : List Bool) : Dev :=
  if d.standby then tapLoad { d with jtag := { d.jtag with cells := load } } .sample (pinLevels d pins) else d

/-- CLAMP or HIGHZ: the bypass register is between TDI and TDO; the pins follow only under reset (R386). -/
def tapHold (d : Dev) (ir : JtagInstr) : Dev := tapLoad d ir [false]

/-- EXTEST: under reset the cells take what is shifted in and drive the pins, whose levels come from outside and are free (log entry 1);
else it selects the bypass register (R386). -/
def tapExtest (d : Dev) (drive : List Bool) : Dev :=
  if d.inReset && d.standby then
    let r := nextFree d
    tapLoad { r.2 with jtag := { r.2.jtag with cells := drive } } .extest ((List.range 14).map (Config.freeWord r.1).getLsbD)
  else tapLoad d .extest [false]

/-- MGT_LINK_CHANGE (R384, Table 16.11): a global address has the advertised prefix and the port's interface identifier, and is configured
only over a link (log entry 88). -/
def changeLink (d : Dev) (link fec : Bool) (routerPrefix : Option (BitVec 64)) : Dev :=
  let addr := if link then routerPrefix.map (fun x => x.toNat * 2 ^ 64 + mgtInterface) else none
  setF (setF (setF { d with mgtGlobal := addr } F.mgtStatus_link (b2n link)) F.mgtStatus_fec_lock (b2n fec)) F.mgtStatus_global
    (b2n addr.isSome)

end Sys2Proof.Machine
end

