-- ==== Sys2Proof/Machine/Telemetry.lean ====
section
/-! DEFINITION. Telemetry (R366, R368, R369): active and idle ticks, which the empty queue's tick counts, and the event trace. -/

namespace Sys2Proof.Machine

/-! Idle time (R366, Table 15.6) -/

/-- A mover operation of a cluster is held by a page (R237, R248). -/
def jobHeldBy (d : Dev) (p : Nat) (j : Job) : Bool :=
  j.onMover && ((match j.move with | some m => tileHeld d p m.src || tileHeld d p m.dst | none => false) ||
    j.adds.any (fun a => heldRange d p a.addr a.size))

/-- A cluster executes an instruction or deferred entry that is not held; one that still wakes issues nothing (R355). -/
def executes (d : Dev) (p c : Nat) : Bool :=
  (seqState d c == 1 && !asleep d c) || !(clusterOf d c).dwq.isEmpty ||
  (clusterOf d c).jobs.any (fun j => !j.onFabric && !jobHeldBy d p j)

/-- A block in a rack unit is held by a page (R237, R242, R248). -/
def workHeld (d : Dev) (w : RackWork) : Bool := blockHeld d w (layerWords (sweepOf d w.p) w.layer)

/-- A sweep of the partition runs a phase. -/
def runsPhase (d : Dev) (p : Nat) : Bool := d.rack.any (fun e => e.2.p == p && !workHeld d e.2)

/-- The tick is active (R366). -/
def activeTick (d : Dev) (p : Nat) : Bool := !kilnIdle d p && ((clustersOf d p).any (executes d p) || runsPhase d p)

/-- An FPOST waits for a page of its descriptor (R241). -/
def postHeld (d : Dev) (p c : Nat) : Bool :=
  seqState d c == 2 && getF d (F.mcSeqStatus_wait_cause c) == 10 && heldRange d p (wAddr (fetchWord d c)) 64

/-- A mover ring entry waits for the refill of a page that it names (R248). -/
def entryHeld (d : Dev) (p : Nat) (e : MoverEntry) : Bool :=
  !e.begun && e.status.isNone && decide (e.op ≤ 2) &&
  (match entryPages e with
   | some (w, vs) => vs.any (fun v => match pageAt d p w v with | some x => x.poison == .refilling | none => false)
   | none => false)

/-- A picked-up work entry of a service port waits for a page (R237, R248). -/
def svcEntryHeld (d : Dev) (p : Nat) (e : SvcEntry) : Bool := heldWrite d p e.slot 64 || heldRange d p e.laddr e.bytes

/-- An instruction, ring entry, sweep or host access of the partition is held under R237, R242 or R248 (Table 15.6; log entry 80). -/
def memoryHeld (d : Dev) (p : Nat) : Bool :=
  (clustersOf d p).any (fun c => (clusterOf d c).jobs.any (jobHeldBy d p) || postHeld d p c) ||
  (moverOf d p).any (entryHeld d p) || d.held.any (fun h => h.p == p) || (kjobsOf d p).any (fun j => j.started && jobHeld d p j) ||
  (Tab.get? d.evals p).isSome || d.rack.any (fun e => e.2.p == p && workHeld d e.2) ||
  (List.range 2).any (fun s => (svcOf d p s).any (svcEntryHeld d p))

/-- A cluster waits in BAR with sub 2 and misc[4] = 1. -/
def waitsForFlag (d : Dev) (c : Nat) : Bool :=
  match (clusterOf d c).waiting with
  | some w => (match w.on with | .channel _ (some _) => true | _ => false)
  | none => false

/-- The wait cause a cluster shows, 0 for none. -/
def waitOf (d : Dev) (c : Nat) : Nat := if seqState d c = 2 then getF d (F.mcSeqStatus_wait_cause c) else 0

/-- A unit of the partition is waking. -/
def wakes (d : Dev) (p : Nat) : Bool :=
  (clustersOf d p).any (asleep d) || (List.range 8).any (fun k => getF d (F.klnCore_state k) == 3 && getF d (F.klnCore_part k) == p) ||
  (unitsOf d p).any (fun u => getF d (F.rkUnit_state u) == 3)

/-- The first cause of Table 15.6 that applies to an idle tick. -/
def idleCause (d : Dev) (p : Nat) : Nat :=
  let cs := clustersOf d p
  if kilnIdle d p then 0
  else if memoryHeld d p then 1
  else if cs.any (waitsForFlag d) then 2
  else if cs.any (fun c => waitOf d c == 3) then 3
  else if d.colls.any (fun k => k.p == p) then 4
  else if cs.any (fun c => [1, 2, 4, 8].contains (waitOf d c)) then 5
  else if cs.any (fun c => [5, 6, 7, 9, 10].contains (waitOf d c)) || wakes d p then 6
  else 7

/-- n FTC ticks that pass in state d count in e: for each partition as active or idle (R366), and with the ceiling below the mode point
for each limit that owes it (Table 15.11). -/
def countTicks (n : Nat) (d e : Dev) : Dev :=
  let e := forEach (List.range 4) e (fun e p => addF e (if activeTick d p then F.telActive_ticks p else F.telIdle_ticks p (idleCause d p)) n)
  forEach (List.range 4) e (fun e c => if bitOf (limitBits d) c then addF e (F.pwrThrot_ticks c) n else e)

/-- One tick of the module's reference moves the FTC on by one tick and what the rate correction adds or takes, at most 100 ppm; the FTC
never decreases (R270, R271, R273). -/
def moveFtc (d : Dev) : Dev :=
  let δ := max (-4096) (min 4096 d.slew)
  let f := d.frac + δ
  let (n, f) := if f ≥ slewTick then (2, f - slewTick) else if f < 0 then (0, f + slewTick) else (1, f)
  addF { d with slew := d.slew - δ, frac := f } F.fabFtc_ftc n

/-- One FTC tick: the counter and what each tick counts (R270, R366; log entry 2). -/
def tick (d : Dev) : Dev := if d.powerGood then moveFtc (countTicks 1 d d) else d

/-- An event to whose instant the FTC moves on: the ticks until then pass in the state before it (R366). -/
def passing (f : Dev → Dev) (d : Dev) : Dev := countTicks (ftcOf (f d) - ftcOf d) d (f d)

/-- The same for an event of the security store. -/
def passingAll (f : State → State) (s : State) : State :=
  { f s with dev := countTicks (ftcOf (f s).dev - ftcOf s.dev) s.dev (f s).dev }

/-- What the block does when no command waits: one FTC tick. -/
def idleStep (s : State) : State := withDev tick s

/-! The trace (R368, R369, Table 15.8) -/

/-- Entries of a partition's ring. -/
def traceSize (d : Dev) (p : Nat) : Nat := 2 ^ (getF d (F.telTrace_size_log2 p) + 8)

/-- The words of an entry. -/
def traceBytes (d : Dev) (e : TraceEvent) : List Byte :=
  leBytes 8 (ftcOf d) ++
  leBytes 8 (e.kind.toNat * 2 ^ 16 + e.unit.toNat * 2 ^ 24 + e.code.toNat * 2 ^ 32 + e.cls.val * 2 ^ 40) ++
  leBytes 8 e.arg0.toNat ++ leBytes 8 e.arg1.toNat

/-- An entry is dropped. -/
def dropTrace (d : Dev) (p : Nat) : Dev := satF d (F.telTstat_lost p) 1

/-- Writes the entry at head, which counts on modulo 2^32; its place is head modulo the ring. A ring in a closed bank takes none
(R217). -/
def putTrace (d : Dev) (p : Nat) (e : TraceEvent) : Dev :=
  let head := getF d (F.telThead_head p)
  let a := 32 * getF d (F.telTrace_base p) + 32 * (head % traceSize d p)
  if !(shutBanks d a 32).isEmpty then dropTrace (engineDeny d p a 32) p
  else if !rangeMapped d p a 32 || heldWrite d p a 32 then dropTrace d p
  else addF (guardedPut { d with traced := Tab.put d.traced p (ftcOf d) } p a (traceBytes d e)) (F.telThead_head p) 1

/-- An entry for a partition: at most one in 16 ns, and within the ring's room or over its oldest entry. -/
def traceFor (d : Dev) (e : TraceEvent) (p : Nat) : Dev :=
  let soon : Bool := match Tab.get? d.traced p with | some t => decide (ftcOf d < t + 32) | none => false
  let used := (getF d (F.telThead_head p) + 2 ^ 32 - getF d (F.telThead_tail p)) % 2 ^ 32
  if !flag d (F.telTrace_en p) || !bitOf (getF d (F.telTrace_mask p)) e.cls.val then d
  else if soon then dropTrace d p
  else if used < traceSize d p then putTrace d p e
  else if flag d (F.telTrace_wrap p) then putTrace (addF d (F.telThead_tail p) 1) p e
  else dropTrace d p

/-- TRACE_ENTRY: classes 6 and 7 go to every partition, the others to the one they concern (R368). -/
def traceEvent (d : Dev) (e : TraceEvent) : Dev :=
  if e.cls.val ≥ 6 then forEach (List.range 4) d (fun d p => traceFor d e p)
  else match e.part with
    | some p => traceFor d e p
    | none => d

/-- A store to TEL_TRACEp: only while en = 0, or one that clears en (R10). -/
def traceWrite (d : Dev) (p v : Nat) : Dev :=
  if flag d (F.telTrace_en p) && bitOf v 63 then setF d (F.telTstat_wr_err p) 1
  else
    let d := setF (setF (setF d (F.telTrace_base p) (bits v 47 5)) (F.telTrace_mask p) (bits v 55 48)) (F.telTrace_wrap p) (bits v 62 62)
    let d := if bits v 59 56 > 12 then setF d (F.telTstat_wr_err p) 1 else setF d (F.telTrace_size_log2 p) (bits v 59 56)
    setF d (F.telTrace_en p) (bits v 63 63)

end Sys2Proof.Machine
end

