-- ==== Sys2Proof/Machine/Registers.lean ====
section
/-! DEFINITION. Register accesses (R5 to R10, R31, R311 to R314, R331): what an agent may reach, what a read returns and clears, what a
store does; host accesses by address; and TEL_READ (R367). -/

namespace Sys2Proof.Machine

/-! Views (R311, Table 14.8) -/

/-- The partition whose registers a register belongs to. -/
def Reg.part : Reg → Option Nat
  | .klnPcfg p | .klnRing p | .klnRhead p | .klnRstat p | .klnIrq p | .klnIrqEn p | .klnCnt p => some p
  | .rkPcfg p | .rkLscale p | .rkLscaleCfg p | .rkSweep p | .rkSlist p | .rkSstat p | .rkCnt p | .rkIrq p | .rkIrqEn p | .rkChk p
  | .rkSeed p | .rkChkl p => some p
  | .fabSlice p | .fabSlcfg p | .fabEpoch p | .fabSlstat p | .fabIrq p | .fabIrqEn p | .fabNflag p => some p
  | .hbmPquota p | .hbmPuse p | .hbmMring p | .hbmMhead p | .hbmMstat p | .hbmMcnt p => some p
  | .clrSnap p | .clrSnapl p | .clrSnapt p | .clrBuddy p | .clrBuddySrc p => some p
  | .hostPcfg p | .hostHgstat p => some p
  | .mbxCmd p _ _ | .mbxRsp p _ _ | .mbxStat p | .mbxIrq p | .mbxIrqEn p => some p
  | .stgPstat p | .stgPwhen p | .secDeny p => some p
  | .telActive p | .telIdle p _ | .telTrace p | .telThead p | .telTstat p => some p
  | .svcWring p _ | .svcWhead p _ | .svcRring p _ | .svcRhead p _ | .svcQpt p _ | .svcKeyt p _ | .svcStat p _ | .svcIrq p _
  | .svcIrqEn p _ => some p
  | _ => none

/-- The cluster whose block a register belongs to. -/
def clusterBlock (r : Reg) : Option Nat := let o := r.addr - 0x080000000000; if o < 0x1C0000 then some (o / 0x10000) else none

/-- Module-level registers that operators read (Table 14.8). -/
def operatorReads : Reg → Bool
  | .fabCoord | .fabTorus | .fabStatus | .fabFtc | .fabFtcStat | .stgIstat | .stgIwhen | .hbmScrub | .pwrMode | .secFuse | .secStatus
  | .secAudit | .secMeas _ _ => true
  | _ => false

/-- The agent's view shows the register. -/
def regVisible (d : Dev) (who : Agent) (r : Reg) : Bool :=
  match who with
  | .maltster => true
  | .host p =>
    match clusterBlock r with
    | some c => ownsCluster d p c
    | none => match r.part with
      | some q => q == p.val
      | none => operatorReads r

/-! Reads -/

/-- Fields that show something else of the state; the ceiling and its limits show their reset values until the boot (R11; log entry 98). -/
def derived (s : State) (k : FKey) : Option Nat :=
  let d := s.dev
  match k.reg, k.lo with
  | .mcDwqStatus c, 6 => some (b2n (decide ((clusterOf d c).dwq.length ≥ 32)))
  | .mcDwqStatus c, 0 => some (clusterOf d c).dwq.length
  | .mcAccQuery c, 63 => some (b2n (winOf d c (getF d (F.mcAccQuery_tile c))).isSome)
  | .mcAccQuery c, 62 => (winOf d c (getF d (F.mcAccQuery_tile c))).map (fun w => b2n w.fixed)
  | .mcAccQuery c, 60 => (winOf d c (getF d (F.mcAccQuery_tile c))).map (fun w => w.wfmt)
  | .mcAccQuery c, 32 => (winOf d c (getF d (F.mcAccQuery_tile c))).map (fun w => unsigned 12 w.anchor)
  | .vecUnit c u, 4 => some (unitCount d c u)
  | .bankOwner c _, 18 => some ((partOf d c).getD 0)
  | .klnRstat p, 40 => some (kjobsOf d p).length
  | .klnRstat p, 1 => some (b2n (kilnWaiting d p))
  | .klnRstat p, 0 => some (getF d (F.klnRing_en p))
  | .hbmPuse p, 63 => some (b2n (decide (hbmUsed d p > hbmQuota d p ∨ clrUsed d p > clrQuota d p)))
  | .hbmPuse p, 62 => some (b2n (waitsForVictim d p))
  | .hbmPuse p, 42 => some ((pagesOf d p).filter (fun e => e.2.pin)).length
  | .hbmPuse p, 22 => some (hbmUsed d p)
  | .hbmPuse p, 0 => some (clrUsed d p)
  | .hbmMstat p, 1 => some (b2n (d.moves.any (fun m => m.key.1 == p && (match m.kind with | .bring _ => false | _ => true))))
  | .hbmMstat p, 0 => some (getF d (F.hbmMring_en p))
  | .fabSlcfg p, 35 =>
    (Tab.get? d.sealEnd p).map (fun t => b2n (flag d (F.fabSlcfg_sealed p) && decide (ftcOf d < t)))
  | .fabStatus, 7 => some (getF d F.fabFtcStat_locked)
  | .fabStatus, 3 => some (b2n ((List.range 10).any (fun n => portState d n == 7)))
  | .fabStatus, 2 => some (b2n ((List.range 10).any (fun n => portState d n == 6)))
  | .fabStatus, 1 => some (b2n ((List.range 10).any (fun n => portState d n == 1)))
  | .fabStatus, 0 => some (b2n (readyNow d))
  | .secFuse, n => some (fuseWord s.sec.fuses / 2 ^ n)
  | .secStatus, 2 => some (activeSlot s.sec.fuses)
  | .secAudit, 43 => some s.sec.next
  | .secAudit, 22 => some s.sec.readMark
  | .pwrStatus, 32 => if d.malt = 0 then none else some (ceiling d)
  | .pwrStatus, 14 => some (b2n (steadyOk d))
  | .pwrStatus, 8 => if d.malt = 0 then none else some (limitBits d)
  | .pwrStatus, 0 => some (moduleMode d)
  | _, _ => none

/-- A field as read. -/
def readField (s : State) (k : FKey) : Nat := ((derived s k).getD (getF s.dev k)) % 2 ^ k.width

/-- A register as read: write-only fields and reserved bits read zero (R5, R9). -/
def readReg (s : State) (r : Reg) : Nat :=
  r.fields.foldl (fun a x => if x.acc = .wo then a else a + readField s ⟨r, x.lo⟩ * 2 ^ x.lo) 0

/-- The RC fields of a register are cleared (R5). -/
def clearRc (d : Dev) (r : Reg) : Dev := forEach (r.fields.filter (fun x => x.acc == .rc)) d (fun d x => setF d ⟨r, x.lo⟩ 0)

/-- An access to a gated cluster's registers wakes it (R355). -/
def reachReg (d : Dev) (r : Reg) : Dev := match clusterBlock r with | some c => reachCluster d c | none => d

/-- A read of a register by an agent (R5, R312, R331). -/
def loadReg (s : State) (who : Agent) (a : Nat) : State :=
  match Reg.ofAddr a with
  | some r =>
    if regVisible s.dev who r then
      { s with dev := clearRc { reachReg s.dev r with bus := .value (BitVec.ofNat 64 (readReg s r)) } r }
    else withDev (fun d => accessError d who) s
  | none => withDev (fun d => accessError d who) s

/-! Stores -/

/-- One field of a store (R5); a stage-set item changes only at a commit (R314). -/
def storeField (d : Dev) (r : Reg) (v : Nat) (x : FieldDef) : Dev :=
  let k : FKey := ⟨r, x.lo⟩
  let b := fieldOf v x
  if x.stage ≠ .none then d
  else match x.acc with
    | .rw => setF d k b
    | .w1c => setF d k (Nat.land (getF d k) (2 ^ x.width - 1 - b))
    | .w1s => setF d k (Nat.lor (getF d k) b)
    | _ => d

/-- A store by the field rules alone. -/
def plainStore (d : Dev) (r : Reg) (v : Nat) : Dev := forEach r.fields d (fun d x => storeField d r v x)

/-- A store would change a stage-set item (R314). -/
def changesItem (d : Dev) (r : Reg) (v : Nat) : Bool := r.fields.any (fun x => x.stage != .none && fieldOf v x != getF d ⟨r, x.lo⟩)

/-- A host's store that would change a stage-set item sets direct_err of its partition (R314). -/
def noteDirect (d : Dev) (who : Agent) (r : Reg) (v : Nat) : Dev :=
  match who with
  | .host p => if changesItem d r v then setF d (F.stgPstat_direct_err p) 1 else d
  | .maltster => d

/-- A store to MC_SEQ_CTRL (R27, R28). -/
def seqCtrlWrite (d : Dev) (c v : Nat) : Dev :=
  if bitOf v 0 then startCluster d c (bitOf v 1) else if bitOf v 1 then stopCluster d c else d

/-- A store while something is enabled is discarded and sets an error bit. -/
def closedWhile (busy : Bool) (err : FKey) (d : Dev) (g : Dev → Dev) : Dev := if busy then setF d err 1 else g d

/-- What a store to a register does. -/
def storeReg (d : Dev) (who : Agent) (r : Reg) (v : Nat) : Dev :=
  let d := noteDirect (reachReg d r) who r v
  match r with
  | .mcSeqCtrl c => seqCtrlWrite d c v
  | .mcSeqBase c | .mcSeqLen c | .mcSeqPc c | .mcRngSeed c | .mcGyle c | .mcG c _ | .mcAnchor c _ | .mcTdesc0 c _ | .mcTdesc1 c _ | .mcTdesc2 c _ | .mcTdesc3 c _ =>
    guardedWrite d c (fun d => plainStore d r v)
  | .bankOwner c b => bankOwnerWrite d c b v
  | .bankMarchCtrl c => marchWrite d who c v
  | .klnRing p => kilnRingWrite d p v
  | .rkSweep p => sweepWrite d p v
  | .rkSlist p => rackGuard d p [(F.rkSlist_count p, bits v 63 48), (F.rkSlist_base p, bits v 47 7)]
  | .rkSeed p => rackGuard d p [(F.rkSeed_seed p, v)]
  | .rkChkl p => rackGuard d p [(F.rkChkl_count p, bits v 63 48), (F.rkChkl_base p, bits v 47 7)]
  | .rkChk p => checkWrite d p v
  | .fabNflag p => nflagWrite d p v
  | .hbmMring p => moverRingWrite d p v
  | .clrSnap p => afterSnap (snapWrite d p v) p
  | .clrSnapl p | .clrSnapt p => closedWhile (getF d (F.clrSnap_state p) == 1) (F.clrSnap_wr_err p) d (fun d => plainStore d r v)
  | .clrBuddy p => buddyWrite d p v
  | .clrBuddySrc p => closedWhile (flag d (F.clrBuddy_en p)) (F.clrSnap_wr_err p) d (fun d => plainStore d r v)
  | .mbxCmd p i w => slotWrite d p i w v
  | .mbxRsp _ _ w => plainStore d r (if w = 0 then Nat.land v (2 ^ 64 - 1 - 0xFF00FE) else v)
  | .telTrace p => traceWrite d p v
  | .svcWring p s => svcRingWrite d p s false v
  | .svcRring p s => svcRingWrite d p s true v
  | .svcQpt p s => closedWhile (flag d (F.svcWring_en p s)) (F.svcStat_wr_err p s) d (fun d => plainStore d r v)
  | .svcKeyt p s => closedWhile (flag d (F.svcRring_en p s)) (F.svcStat_wr_err p s) d (fun d => plainStore d r v)
  | _ => plainStore d r v

/-- A register store by address: outside the view an access error, but for a stage-set item, which R314 governs (R331). -/
def storeAt (d : Dev) (who : Agent) (a v : Nat) : Dev :=
  match Reg.ofAddr a with
  | some r =>
    if regVisible d who r then storeReg { d with bus := .none } who r v
    else if r.fields.any (fun x => x.stage != .none) then noteDirect { d with bus := .none } who r v
    else accessError d who
  | none => accessError d who

/-! Accesses by address (R312, R331) -/

/-- The address lies in the control window. -/
def inControl (a : Nat) : Bool := decide (0x080000000000 ≤ a ∧ a < 0x0800002D0000)

/-- HOST_ACCESS: a load or store of the control window must be aligned and of 64 bits; any other is an access error (R312). One of memory
has 1 to 8 bytes: a wider one is several accesses (log entry 99). -/
def hostAccess (s : State) (p a width : Nat) (store : Option Word) (found : Found) (row : Nat) : State :=
  let who := Agent.host (Fin.ofNat 4 p)
  if width = 0 then s
  else if inControl a || inControl (a + width - 1) then
    (if a % 8 ≠ 0 ∨ width ≠ 8 then withDev (fun d => accessError d who) s
     else match store with
       | some v => withAudit (fun d => storeAt d who a v.toNat) s
       | none => loadReg s who a)
  else if width > 8 then s
  else withDev (fun d => hostMemory d p a width store found row) s

/-! TEL_READ (R367, Table 15.7) -/

/-- The registers of a counter set, for a mailbox's partition. -/
def counterSet (d : Dev) (p set : Nat) : List Reg :=
  match set with
  | 0 => .telActive p :: (List.range 8).map (.telIdle p)
  | 1 => (clustersOf d p).flatMap (fun c =>
      [.mcArrBusy c, .mcArrStallLoad c, .mcArrStallBank c, .mcArrRouse c, .mcArrAcc c, .mcDpuMap c])
  | 2 => (List.range 10).flatMap (fun n =>
      [.fabPcntTxFlits n, .fabPcntRxFlits n, .fabPcntReplays n, .fabPcntNaks n, .fabPcntFecCorr n, .fabPcntFecUncorr n,
       .fabPcntCreditStall n, .fabPcntTransit n])
  | 3 => [.pwrStatus, .pwrMeter, .pwrEnergy] ++ (List.range 4).map .pwrThrot ++ (List.range 78).map .telTemp
  | _ => [.telWearStat, .telWear0, .telWear1, .telWear2, .telWear3, .telWear4]

/-- The header and words of a counter set. -/
def counterBytes (s : State) (p set : Nat) : List Byte :=
  let ws := (counterSet s.dev p set).map (readReg s)
  ((set + ws.length * 2 ^ 16) :: ftcOf s.dev :: ws).flatMap (leBytes 8)

/-- TEL_READ: sets 2 to 4 are the installer's, and a maker's within a diagnostic session (R367, Table 14.1). -/
def readTelemetry (s : State) (k : Nat) : State :=
  flushAudit (runSec s k 0x50 (fun m => fieldsOk m [allBits, 0xFFFF, 7] && decide (m.arg 3 ≤ 4))
    (fun m => m.role != 0 || (m.chan != 4 && decide (m.arg 3 ≤ 1))) (fun m => (m.arg 1, m.arg 2)) (fun s m =>
      if !bufferOk s.dev m (m.arg 1) (m.arg 2) then withDev (refuseExtent m (m.arg 1) (m.arg 2)) s
      else
        let l := (counterBytes s m.part (m.arg 3)).take (m.arg 2)
        withDev (fun d => answer (viewWrite d m.part (m.arg 1) l) m 0 [l.length]) s))

end Sys2Proof.Machine
end

