-- ==== Sys2Proof/Machine/TileRows.lean ====
section
/-! DEFINITION. The commands of a cluster: its instructions (chapters 2, 3, 4, 7) and the events of its sequencer, array, mover and vector units. -/

namespace Sys2Proof.Machine

/-- What the commands do while the core rails are on: the module changes, its security store does not. With the rails off nothing
happens (R377). -/
def onDev (f : Dev → Dev) (s : State) : State := if s.dev.powerGood then withDev f s else s

/-- The same for commands that may ask for audit entries (R344). -/
def onMal (f : Dev → Dev) (s : State) : State := if s.dev.powerGood then withAudit f s else s

/-- The same for commands that act on the security store. -/
def onSec (f : State → State) (s : State) : State := if s.dev.powerGood then f s else s

/-- An access to a cluster's register of an agent that reaches it (R311, R331). -/
def atCluster (who : Agent) (c : Nat) (f : Dev → Dev) (d : Dev) : Dev :=
  if reachesCluster d who c then f { reachCluster d c with bus := .none } else accessError d who

/-- A VOP of a function; a word with a reserved fn is of every row and faults (R59, Table 2.23). -/
def goVop (go : Nat → Nat → Nat → Dev → Plan) (p c w : Nat) (d : Dev) : Plan :=
  if wFn w > 0x10 then ⟨[(true, cEncoding)], [], none, fun _ => .done d⟩ else go p c w d

/-- One VOP. -/
def vopStep (fn : Nat) (go : Nat → Nat → Nat → Dev → Plan) (c : Nat) (d : Dev) : Dev :=
  tileStep 0x30 (fun w => wFn w == fn || decide (wFn w > 0x10)) (goVop go) c d

/-- The function of a VOP by fn (Table 7.1). -/
def vopOf (w : Nat) : Nat → Nat → Nat → Dev → Plan :=
  match wFn w with
  | 0x00 => goVadd
  | 0x01 => goVmul
  | 0x02 => goVfma
  | 0x03 => goVfmas
  | 0x04 => goVcmp
  | 0x05 => goVsel
  | 0x06 => goVmin
  | 0x07 => goVmax
  | 0x08 => goVcvt
  | 0x09 => goVmask
  | 0x0A => goVcompress
  | 0x0B => goVexpand
  | 0x0C => goVrng
  | 0x0D => goVseq
  | 0x0E => goVredmax
  | 0x0F => goVredmin
  | _ => goVnonfin

/-- The function of an instruction by its word (Tables 2.9, 2.13). -/
def instrOf (w : Nat) : Nat → Nat → Nat → Dev → Plan :=
  match wOp w with
  | 0x00 => goNop
  | 0x01 => goHalt
  | 0x02 => goBr
  | 0x03 => goLoop
  | 0x04 => goGset
  | 0x05 => goGadd
  | 0x06 => goGld
  | 0x07 => goAnset
  | 0x08 => goEvwait
  | 0x09 => goEvadd
  | 0x0A => goEvpost
  | 0x0B => if wSub w = 1 then goBarPart else if wSub w = 2 then goBarSlice else goBarSet
  | 0x0C => goFtcwait
  | 0x0D => goRouse
  | 0x0E => goDwqflush
  | 0x0F => goFence
  | 0x10 => goMma
  | 0x11 => goMmwg
  | 0x12 => goGram
  | 0x20 => goTdld
  | 0x21 => goTdbase
  | 0x22 => goTdadd
  | 0x23 => goTdshape
  | 0x28 => goMov
  | 0x29 => goAdrn
  | 0x2A => goAfill
  | 0x2B => goAzero
  | 0x2C => goAadd
  | 0x2D => if wCvt w = 2 then goAmaxSlice else goAmaxFold
  | 0x2E => goFpost
  | _ => goVop (vopOf w)

/-- An FPOST that waits for a held page of its descriptor is a held access (R241); it waits with wait_cause 10 as for a full fabric queue,
which the manual does not name for it (log entry 28). -/
def fpostHold (d : Dev) (c : Nat) (e : Dev) : Dev :=
  match partOf d c with
  | some p => if wOp (fetchWord d c) = 0x2E ∧ seqState e c = 2 ∧ getF e (F.mcSeqStatus_wait_cause c) = 10 ∧ heldRange d p (wAddr (fetchWord d c)) 64 = true then steadyBroken e else e
  | none => e

/-- A wait passes (R49): a waiting EVWAIT, or the wen wait of the instruction at the PC, which then issues (R33). -/
def passWait (d : Dev) (c : Nat) : Dev :=
  let w := fetchWord d c
  if (clusterOf d c).waiting.isSome then passEvwait d c
  else if canIssue d c && !asleep d c && wWen w && seqState d c == 2 && getF d (F.mcSeqStatus_wait_cause c) == 1 &&
      decide (1 ≤ getF d (F.mcEvt_count c (wWevt w))) then
    fpostHold d c (issueWord (instrOf w) d c w)
  else d

/-! Control and descriptor instructions -/

/-- NOP (R37). -/
def execNop (c : ClusterId) (s : State) : Host.Outcome State Fault Refusal :=
  .next (onDev (tileStep 0x00 (fun _ => true) goNop c) s)

/-- HALT (R29). -/
def execHalt (c : ClusterId) (s : State) : Host.Outcome State Fault Refusal :=
  .next (onDev (tileStep 0x01 (fun _ => true) goHalt c) s)

/-- BR (R37). -/
def execBr (c : ClusterId) (s : State) : Host.Outcome State Fault Refusal :=
  .next (onDev (tileStep 0x02 (fun _ => true) goBr c) s)

/-- LOOP (R37). -/
def execLoop (c : ClusterId) (s : State) : Host.Outcome State Fault Refusal :=
  .next (onDev (tileStep 0x03 (fun _ => true) goLoop c) s)

/-- GSET (R37). -/
def execGset (c : ClusterId) (s : State) : Host.Outcome State Fault Refusal :=
  .next (onDev (tileStep 0x04 (fun _ => true) goGset c) s)

/-- GADD (R37). -/
def execGadd (c : ClusterId) (s : State) : Host.Outcome State Fault Refusal :=
  .next (onDev (tileStep 0x05 (fun _ => true) goGadd c) s)

/-- GLD (R37). -/
def execGld (c : ClusterId) (s : State) : Host.Outcome State Fault Refusal :=
  .next (onDev (tileStep 0x06 (fun _ => true) goGld c) s)

/-- ANSET (R37, R89). -/
def execAnset (c : ClusterId) (s : State) : Host.Outcome State Fault Refusal :=
  .next (onDev (tileStep 0x07 (fun _ => true) goAnset c) s)

/-- EVWAIT (R49). -/
def execEvwait (c : ClusterId) (s : State) : Host.Outcome State Fault Refusal :=
  .next (onDev (tileStep 0x08 (fun _ => true) goEvwait c) s)

/-- EVWAIT_PASS (R49, R33). -/
def execEvwaitPass (c : ClusterId) (s : State) : Host.Outcome State Fault Refusal :=
  .next (onMal (fun d => passWait d c) s)

/-- EVADD (R49). -/
def execEvadd (c : ClusterId) (s : State) : Host.Outcome State Fault Refusal :=
  .next (onDev (tileStep 0x09 (fun _ => true) goEvadd c) s)

/-- EVPOST (R50). -/
def execEvpost (c : ClusterId) (s : State) : Host.Outcome State Fault Refusal :=
  .next (onDev (tileStep 0x0A (fun _ => true) goEvpost c) s)

/-- EVENT_COUNTER_CHANGE (R49). -/
def execEventCounterChange (c : ClusterId) (s : State) : Host.Outcome State Fault Refusal :=
  .next (onDev (fun d => applyPosts d c) s)

/-- BAR_CLUSTER_SET (R51); a reserved sub is of this row. -/
def execBarClusterSet (c : ClusterId) (s : State) : Host.Outcome State Fault Refusal :=
  .next (onDev (tileStep 0x0B (fun w => wSub w == 0 || decide (wSub w > 2)) goBarSet c) s)

/-- BAR_PARTITION (R51). -/
def execBarPartition (c : ClusterId) (s : State) : Host.Outcome State Fault Refusal :=
  .next (onDev (tileStep 0x0B (fun w => wSub w == 1) goBarPart c) s)

/-- LOCAL_BARRIER_COMPLETE (R51). -/
def execLocalBarrierComplete (p : PartId) (b : Fin 16) (s : State) : Host.Outcome State Fault Refusal :=
  .next (onDev (fun d => completeLocal d p b) s)

/-- BAR_SLICE (R52, R124, R274). -/
def execBarSlice (c : ClusterId) (s : State) : Host.Outcome State Fault Refusal :=
  .next (onMal (tileStep 0x0B (fun w => wSub w == 2) goBarSlice c) s)

/-- FTCWAIT (R53). -/
def execFtcwait (c : ClusterId) (s : State) : Host.Outcome State Fault Refusal :=
  .next (onDev (tileStep 0x0C (fun _ => true) goFtcwait c) s)

/-- FTC_TARGET_REACHED (R53). -/
def execFtcTargetReached (c : ClusterId) (s : State) : Host.Outcome State Fault Refusal :=
  .next (onDev (passing (fun d => reachFtc d c)) s)

/-- ROUSE (R78). -/
def execRouse (c : ClusterId) (s : State) : Host.Outcome State Fault Refusal :=
  .next (onDev (tileStep 0x0D (fun _ => true) goRouse c) s)

/-- DWQFLUSH (Table 2.13). -/
def execDwqflush (c : ClusterId) (s : State) : Host.Outcome State Fault Refusal :=
  .next (onDev (tileStep 0x0E (fun _ => true) goDwqflush c) s)

/-- FENCE (Table 2.13). -/
def execFence (c : ClusterId) (s : State) : Host.Outcome State Fault Refusal :=
  .next (onDev (tileStep 0x0F (fun _ => true) goFence c) s)

/-- TDLD (R38). -/
def execTdld (c : ClusterId) (s : State) : Host.Outcome State Fault Refusal :=
  .next (onDev (tileStep 0x20 (fun _ => true) goTdld c) s)

/-- TDBASE (R38). -/
def execTdbase (c : ClusterId) (s : State) : Host.Outcome State Fault Refusal :=
  .next (onDev (tileStep 0x21 (fun _ => true) goTdbase c) s)

/-- TDADD (R38). -/
def execTdadd (c : ClusterId) (s : State) : Host.Outcome State Fault Refusal :=
  .next (onDev (tileStep 0x22 (fun _ => true) goTdadd c) s)

/-- TDSHAPE (R38). -/
def execTdshape (c : ClusterId) (s : State) : Host.Outcome State Fault Refusal :=
  .next (onDev (tileStep 0x23 (fun _ => true) goTdshape c) s)

/-! The matrix array, the mover and the fabric engine -/

/-- MMA (R36, R62 to R67), with the words of its operands whose read found an error (R221). -/
def execMma (c : ClusterId) (s : State) (errors : List WordFound := []) : Host.Outcome State Fault Refusal :=
  .next (onDev (tileStep 0x10 (fun _ => true) (goMmaOn errors) c) s)

/-- MMWG (R55, R70, R71). -/
def execMmwg (c : ClusterId) (s : State) : Host.Outcome State Fault Refusal :=
  .next (onDev (tileStep 0x11 (fun _ => true) goMmwg c) s)

/-- DEFERRED_ENTRY_RUN (R56, R60). -/
def execDeferredEntryRun (c : ClusterId) (s : State) : Host.Outcome State Fault Refusal :=
  .next (onDev (fun d => runDeferred d c) s)

/-- GRAM (R69). -/
def execGram (c : ClusterId) (s : State) : Host.Outcome State Fault Refusal :=
  .next (onDev (tileStep 0x12 (fun _ => true) goGram c) s)

/-- MATRIX_INSTRUCTION_COMPLETE (R66, R77). -/
def execMatrixInstructionComplete (c : ClusterId) (s : State) : Host.Outcome State Fault Refusal :=
  .next (onDev (fun d => completeArray d c) s)

/-- MOV (R39, R109 to R117). -/
def execMov (c : ClusterId) (s : State) : Host.Outcome State Fault Refusal :=
  .next (onDev (tileStep 0x28 (fun _ => true) goMov c) s)

/-- MOVER_OP_COMPLETE (R34). -/
def execMoverOpComplete (c : ClusterId) (i : Nat) (s : State) : Host.Outcome State Fault Refusal :=
  .next (onDev (fun d => completeMover d c i) s)

/-- ADRN (R97). -/
def execAdrn (c : ClusterId) (s : State) : Host.Outcome State Fault Refusal :=
  .next (onDev (tileStep 0x29 (fun _ => true) goAdrn c) s)

/-- AFILL (R98). -/
def execAfill (c : ClusterId) (s : State) : Host.Outcome State Fault Refusal :=
  .next (onDev (tileStep 0x2A (fun _ => true) goAfill c) s)

/-- AZERO (R83). -/
def execAzero (c : ClusterId) (s : State) : Host.Outcome State Fault Refusal :=
  .next (onDev (tileStep 0x2B (fun _ => true) goAzero c) s)

/-- AADD (R101). -/
def execAadd (c : ClusterId) (s : State) : Host.Outcome State Fault Refusal :=
  .next (onDev (tileStep 0x2C (fun _ => true) goAadd c) s)

/-- ATOMIC_WINDOW_ADD (R102). -/
def execAtomicWindowAdd (c : ClusterId) (i k : Nat) (s : State) : Host.Outcome State Fault Refusal :=
  .next (onDev (fun d => arriveAdd d c i k) s)

/-- AMAX (R88); a reserved cvt is of this row. -/
def execAmax (c : ClusterId) (s : State) : Host.Outcome State Fault Refusal :=
  .next (onDev (tileStep 0x2D (fun w => wCvt w != 2) goAmaxFold c) s)

/-- AMAX_SLICE (R90). -/
def execAmaxSlice (c : ClusterId) (s : State) : Host.Outcome State Fault Refusal :=
  .next (onDev (tileStep 0x2D (fun w => wCvt w == 2) goAmaxSlice c) s)

/-- FPOST (R282). -/
def execFpost (c : ClusterId) (s : State) : Host.Outcome State Fault Refusal :=
  .next (onDev (fun d => fpostHold d c (tileStep 0x2E (fun _ => true) goFpost c d)) s)

/-! Vector instructions -/

/-- VADD (R173). -/
def execVadd (c : ClusterId) (s : State) : Host.Outcome State Fault Refusal :=
  .next (onDev (vopStep 0x00 goVadd c) s)

/-- VMUL (R173). -/
def execVmul (c : ClusterId) (s : State) : Host.Outcome State Fault Refusal :=
  .next (onDev (vopStep 0x01 goVmul c) s)

/-- VFMA (R173). -/
def execVfma (c : ClusterId) (s : State) : Host.Outcome State Fault Refusal :=
  .next (onDev (vopStep 0x02 goVfma c) s)

/-- VFMAS (R173). -/
def execVfmas (c : ClusterId) (s : State) : Host.Outcome State Fault Refusal :=
  .next (onDev (vopStep 0x03 goVfmas c) s)

/-- VCMP (R175). -/
def execVcmp (c : ClusterId) (s : State) : Host.Outcome State Fault Refusal :=
  .next (onDev (vopStep 0x04 goVcmp c) s)

/-- VSEL (R176). -/
def execVsel (c : ClusterId) (s : State) : Host.Outcome State Fault Refusal :=
  .next (onDev (vopStep 0x05 goVsel c) s)

/-- VMIN (R173). -/
def execVmin (c : ClusterId) (s : State) : Host.Outcome State Fault Refusal :=
  .next (onDev (vopStep 0x06 goVmin c) s)

/-- VMAX (R173). -/
def execVmax (c : ClusterId) (s : State) : Host.Outcome State Fault Refusal :=
  .next (onDev (vopStep 0x07 goVmax c) s)

/-- VCVT (R174). -/
def execVcvt (c : ClusterId) (s : State) : Host.Outcome State Fault Refusal :=
  .next (onDev (vopStep 0x08 goVcvt c) s)

/-- VMASK (R176). -/
def execVmask (c : ClusterId) (s : State) : Host.Outcome State Fault Refusal :=
  .next (onDev (vopStep 0x09 goVmask c) s)

/-- VCOMPRESS (R177). -/
def execVcompress (c : ClusterId) (s : State) : Host.Outcome State Fault Refusal :=
  .next (onDev (vopStep 0x0A goVcompress c) s)

/-- VEXPAND (R178). -/
def execVexpand (c : ClusterId) (s : State) : Host.Outcome State Fault Refusal :=
  .next (onDev (vopStep 0x0B goVexpand c) s)

/-- VRNG (R182). -/
def execVrng (c : ClusterId) (s : State) : Host.Outcome State Fault Refusal :=
  .next (onDev (vopStep 0x0C goVrng c) s)

/-- VSEQ (R183). -/
def execVseq (c : ClusterId) (s : State) : Host.Outcome State Fault Refusal :=
  .next (onDev (vopStep 0x0D goVseq c) s)

/-- VREDMAX (R185). -/
def execVredmax (c : ClusterId) (s : State) : Host.Outcome State Fault Refusal :=
  .next (onDev (vopStep 0x0E goVredmax c) s)

/-- VREDMIN (R185). -/
def execVredmin (c : ClusterId) (s : State) : Host.Outcome State Fault Refusal :=
  .next (onDev (vopStep 0x0F goVredmin c) s)

/-- VNONFIN (R186). -/
def execVnonfin (c : ClusterId) (s : State) : Host.Outcome State Fault Refusal :=
  .next (onDev (vopStep 0x10 goVnonfin c) s)

/-- VECTOR_OP_COMPLETE (R169). -/
def execVectorOpComplete (c : ClusterId) (i : Nat) (s : State) : Host.Outcome State Fault Refusal :=
  .next (onDev (fun d => completeVop d c i) s)

/-! Cluster events -/

/-- START (R27, R292). -/
def execStart (who : Agent) (c : ClusterId) (alsoStop : Bool) (s : State) : Host.Outcome State Fault Refusal :=
  .next (onDev (atCluster who c (fun d => startCluster d c alsoStop)) s)

/-- STOP (R28). -/
def execStop (who : Agent) (c : ClusterId) (s : State) : Host.Outcome State Fault Refusal :=
  .next (onDev (atCluster who c (fun d => stopCluster d c)) s)

/-- STOP_COMPLETE (R28). -/
def execStopComplete (c : ClusterId) (s : State) : Host.Outcome State Fault Refusal :=
  .next (onDev (fun d => completeStop d c) s)

/-- ACC_QUERY_WRITE (R83). -/
def execAccQueryWrite (who : Agent) (c : ClusterId) (v : Word) (s : State) : Host.Outcome State Fault Refusal :=
  .next (onDev (atCluster who c (fun d => storeReg d who (.mcAccQuery c) v.toNat)) s)

/-- ROW_RETRY (R73 to R75, R365). -/
def execRowRetry (c : ClusterId) (dpu : Fin 66) (s : State) : Host.Outcome State Fault Refusal :=
  .next (onDev (fun d => noteWear (retryRow d c dpu)) s)

/-- ROUSE_HOLD_EXPIRY (R77). -/
def execRouseHoldExpiry (c : ClusterId) (s : State) : Host.Outcome State Fault Refusal :=
  .next (onDev (fun d => expireHold d c) s)

/-- RAMP_STEP (R77). -/
def execRampStep (c : ClusterId) (s : State) : Host.Outcome State Fault Refusal :=
  .next (onDev (fun d => rampOnce d c) s)

end Sys2Proof.Machine
end

