-- ==== Sys2Proof/Machine/EngineRows.lean ====
section
/-! DEFINITION. The commands of the kiln, the optimizer rack, the scratchpad banks and the memory pool (chapters 6, 8, 9, 10). -/

namespace Sys2Proof.Machine

/-- A store to BANK_MARCH_CTRL that starts a march of a mode (Table 9.8). -/
def marchCommand (who : Agent) (c v : Nat) (preserving : Bool) (d : Dev) : Dev :=
  if bitOf v 0 && bitOf v 1 == preserving then atCluster who c (fun d => marchWrite d who c v) d else d

/-- A change of pages lets held accesses go on (R237, R242, R248), and sweeps whose lists or records lie in them. -/
def pagesChanged (f : Dev → Dev) (d : Dev) : Dev :=
  let e := thenRetry f d
  forEach (e.evals.map Prod.fst) e resumeSweep

/-! The kiln -/

/-- KILN_RING_ENABLE (R168). -/
def execKilnRingEnable (p : PartId) (v : Word) (s : State) : Host.Outcome State Fault Refusal :=
  .next (onDev (fun d => if bitOf v.toNat 63 then kilnRingWrite d p v.toNat else d) s)

/-- KILN_RING_DISABLE (R165). -/
def execKilnRingDisable (p : PartId) (v : Word) (s : State) : Host.Outcome State Fault Refusal :=
  .next (onDev (fun d => if bitOf v.toNat 63 then d else kilnRingWrite d p v.toNat) s)

/-- KILN_JOB_PICKUP (R142). -/
def execKilnJobPickup (p : PartId) (s : State) : Host.Outcome State Fault Refusal :=
  .next (onDev (fun d => pickJob d p) s)

/-- KILN_JOB_START (R144). -/
def execKilnJobStart (p : PartId) (s : State) : Host.Outcome State Fault Refusal :=
  .next (onDev (fun d => startJob d p) s)

/-- INIT (R141). -/
def execInit (p : PartId) (j : Nat) (s : State) : Host.Outcome State Fault Refusal :=
  .next (onDev (fun d => runInit d p j) s)

/-- FOLD (R148). -/
def execFold (p : PartId) (j : Nat) (s : State) : Host.Outcome State Fault Refusal :=
  .next (onDev (fun d => runFold d p j) s)

/-- ROOT (R150): steps iterations of it, with the tiles of a streamed job's products that lent clusters took (R147). -/
def execRoot (p : PartId) (j : Nat) (steps : Nat) (s : State) (guests : List (ClusterId × Nat) := []) :
    Host.Outcome State Fault Refusal :=
  .next (onDev (fun d => runRoot d p j steps (guests.map (fun x => (x.1.val, x.2)))) s)

/-- CHOL (R151). -/
def execChol (p : PartId) (j : Nat) (s : State) : Host.Outcome State Fault Refusal :=
  .next (onDev (fun d => runFactor d p j 3) s)

/-- LDLT (R152). -/
def execLdlt (p : PartId) (j : Nat) (s : State) : Host.Outcome State Fault Refusal :=
  .next (onDev (fun d => runFactor d p j 4) s)

/-- SOLVE (R155): steps refinements of it. -/
def execSolve (p : PartId) (j : Nat) (steps : Nat) (s : State) : Host.Outcome State Fault Refusal :=
  .next (onDev (fun d => runSolve d p j steps) s)

/-- FOLD_OUTCOME_AVAILABLE (R148). -/
def execFoldOutcomeAvailable (p : PartId) (j : Nat) (s : State) : Host.Outcome State Fault Refusal :=
  .next (onDev (fun d => foldOutcome d p j) s)

/-- KILN_JOB_RESOLVE (R167). -/
def execKilnJobResolve (p : PartId) (j : Nat) (s : State) : Host.Outcome State Fault Refusal :=
  .next (onDev (fun d => settleJob d p j false) s)

/-- KILN_DEADLINE_COMMIT (R161). -/
def execKilnDeadlineCommit (p : PartId) (j : Nat) (s : State) : Host.Outcome State Fault Refusal :=
  .next (onDev (fun d => settleJob d p j true) s)

/-- KILN_ATTEMPT_RESTART (R166, R365). -/
def execKilnAttemptRestart (p : PartId) (j : Nat) (why : AttemptFault) (s : State) : Host.Outcome State Fault Refusal :=
  .next (onDev (fun d => noteWear (stopAttempt d p j why)) s)

/-- KILN_BANK_SCRUB (R133). -/
def execKilnBankScrub (b : Fin 52) (found : Found) (s : State) : Host.Outcome State Fault Refusal :=
  .next (onDev (fun d => scrubKiln d b found) s)

/-! The optimizer rack -/

/-- SWEEP_START (R196). -/
def execSweepStart (p : PartId) (v : Word) (s : State) : Host.Outcome State Fault Refusal :=
  .next (onDev (fun d => if bitOf v.toNat 63 then sweepWrite d p v.toNat else d) s)

/-- SWEEP_STOP (R203). -/
def execSweepStop (p : PartId) (v : Word) (s : State) : Host.Outcome State Fault Refusal :=
  .next (onDev (fun d => if bitOf v.toNat 62 then sweepWrite d p v.toNat else d) s)

/-- BLOCK_HANDOUT (R202). -/
def execBlockHandout (p : PartId) (u : RackId) (s : State) : Host.Outcome State Fault Refusal :=
  .next (onDev (fun d => handOut d p u) s)

/-- MOMENT_PHASE (R198). -/
def execMomentPhase (u : RackId) (s : State) (found : Found := .clean) : Host.Outcome State Fault Refusal :=
  .next (onDev (fun d => runMoment d u found) s)

/-- WEIGHT_PHASE (R198). -/
def execWeightPhase (u : RackId) (s : State) : Host.Outcome State Fault Refusal :=
  .next (onDev (fun d => runWeight d u) s)

/-- LAYER_COMPLETE (R195). -/
def execLayerComplete (p : PartId) (l : Nat) (s : State) : Host.Outcome State Fault Refusal :=
  .next (onDev (fun d => completeLayer d p l) s)

/-- RACK_PHASE_RETRY (R204, R365). -/
def execRackPhaseRetry (u next : RackId) (s : State) (writing : Bool := false) : Host.Outcome State Fault Refusal :=
  .next (onDev (fun d => noteWear (retryPhase d u next writing)) s)

/-- STAGING_SLOT_WRITE (R206). -/
def execStagingSlotWrite (p : PartId) (slot off : Nat) (data : List Byte) (s : State) : Host.Outcome State Fault Refusal :=
  .next (onDev (fun d => stagingWrite d p slot off data) s)

/-- REPLICA_CHECK (R207). -/
def execReplicaCheck (p : PartId) (v : Word) (s : State) : Host.Outcome State Fault Refusal :=
  .next (onDev (fun d => if bitOf v.toNat 63 then checkWrite d p v.toNat else d) s)

/-- REPLICA_CHECK_COMPLETE (R207). -/
def execReplicaCheckComplete (p : PartId) (s : State) : Host.Outcome State Fault Refusal :=
  .next (onDev (fun d => completeCheck d p) s)

/-- OWNER_DIGEST_CHECK (R208). -/
def execOwnerDigestCheck (p : PartId) (l b : Nat) (s : State) : Host.Outcome State Fault Refusal :=
  .next (onDev (fun d => checkOwner d p l b) s)

/-! Scratchpad banks -/

/-- BANK_REQUEST_BOOST (R214). -/
def execBankRequestBoost (c : ClusterId) (_b : BankId) (rank : Nat) (displaced : Bool) (s : State) : Host.Outcome State Fault Refusal :=
  .next (onDev (fun d => boostRequest d c rank displaced) s)

/-- HANDOVER_REQUEST (R218). -/
def execHandoverRequest (who : Agent) (c : ClusterId) (b : BankId) (v : Word) (s : State) : Host.Outcome State Fault Refusal :=
  .next (onDev (atCluster who c (fun d => bankOwnerWrite d c b v.toNat)) s)

/-- HANDOVER_COMPLETE (R218). -/
def execHandoverComplete (c : ClusterId) (b : BankId) (s : State) : Host.Outcome State Fault Refusal :=
  .next (onDev (fun d => completeHandover d c b) s)

/-- ALIAS_WRITE_SET (R220). -/
def execAliasWriteSet (who : Agent) (a : BitVec 48) (data : Word) (be : BitVec 8) (s : State) : Host.Outcome State Fault Refusal :=
  .next (onDev (fun d => aliasWrite d who 0x040100000000 a.toNat (fun old b => old ||| b) data be) s)

/-- ALIAS_WRITE_CLEAR (R220). -/
def execAliasWriteClear (who : Agent) (a : BitVec 48) (data : Word) (be : BitVec 8) (s : State) : Host.Outcome State Fault Refusal :=
  .next (onDev (fun d => aliasWrite d who 0x040200000000 a.toNat (fun old b => old &&& ~~~b) data be) s)

/-- BANK_SCRUB (R221). -/
def execBankScrub (c : ClusterId) (b : BankId) (w : Fin 32768) (found : Found) (s : State) : Host.Outcome State Fault Refusal :=
  .next (onDev (fun d => bankError d c b w found) s)

/-- MARCH_DESTRUCTIVE (R222). -/
def execMarchDestructive (who : Agent) (c : ClusterId) (v : Word) (s : State) : Host.Outcome State Fault Refusal :=
  .next (onDev (marchCommand who c v.toNat false) s)

/-- MARCH_PRESERVING (R223). -/
def execMarchPreserving (who : Agent) (c : ClusterId) (v : Word) (s : State) : Host.Outcome State Fault Refusal :=
  .next (onDev (marchCommand who c v.toNat true) s)

/-- MARCH_COMPLETE (R222, R223): the failing reads, the words whose final read of a preserving run failed its ECC check, and the cycles
that requests waited for the run. -/
def execMarchComplete (c : ClusterId) (fails : List MarchFail) (s : State) (final : List WordFound := []) (waited : Nat := 0) :
    Host.Outcome State Fault Refusal :=
  .next (onDev (fun d => completeMarch d c fails final waited) s)

/-- BANK_REPAIR (R224, R365). -/
def execBankRepair (c : ClusterId) (b : BankId) (what : BankRepairKind) (s : State) : Host.Outcome State Fault Refusal :=
  .next (onDev (fun d => noteWear (repairBank d c b what)) s)

/-! The memory pool, its mover and its snapshots -/

/-- MOVER_RING_ENABLE (R251). -/
def execMoverRingEnable (p : PartId) (v : Word) (s : State) : Host.Outcome State Fault Refusal :=
  .next (onDev (fun d => if bitOf v.toNat 63 then moverRingWrite d p v.toNat else d) s)

/-- MOVER_RING_DISABLE (R250). -/
def execMoverRingDisable (p : PartId) (v : Word) (s : State) : Host.Outcome State Fault Refusal :=
  .next (onDev (fun d => if bitOf v.toNat 63 then d else moverRingWrite d p v.toNat) s)

/-- MOVER_ENTRY_PICKUP (R238). -/
def execMoverEntryPickup (p : PartId) (s : State) : Host.Outcome State Fault Refusal :=
  .next (onDev (fun d => pickEntry d p) s)

/-- PREFETCH (R239). -/
def execPrefetch (p : PartId) (i : Nat) (s : State) : Host.Outcome State Fault Refusal :=
  .next (onDev (fun d => runMover d p i 0 (prefetchPage p (entryAt d p i).deadline)) s)

/-- EVICT (R240). -/
def execEvict (p : PartId) (i : Nat) (s : State) : Host.Outcome State Fault Refusal :=
  .next (onDev (fun d => runMover d p i 1 (evictPage p)) s)

/-- PIN (R238). -/
def execPin (p : PartId) (i : Nat) (s : State) : Host.Outcome State Fault Refusal :=
  .next (onDev (fun d => pagesChanged (fun d => runMover d p i 2 (pinPage p)) d) s)

/-- UNPIN (R238). -/
def execUnpin (p : PartId) (i : Nat) (s : State) : Host.Outcome State Fault Refusal :=
  .next (onDev (fun d => runMover d p i 3 (unpinPage p)) s)

/-- SETSRC (R238). -/
def execSetsrc (p : PartId) (i : Nat) (s : State) : Host.Outcome State Fault Refusal :=
  .next (onDev (fun d => runMover d p i 4 (setsrcPage p (entrySource (entryAt d p i)))) s)

/-- MOVER_ENTRY_RESOLVE (R238). -/
def execMoverEntryResolve (p : PartId) (i : Nat) (s : State) : Host.Outcome State Fault Refusal :=
  .next (onDev (fun d => settleEntry d p i) s)

/-- DEMAND_FAULT_IN (R237). -/
def execDemandFaultIn (p : PartId) (page : Nat) (s : State) : Host.Outcome State Fault Refusal :=
  .next (onDev (fun d => faultIn d p page) s)

/-- POOL_EVICTION (R235). -/
def execPoolEviction (p : PartId) (s : State) : Host.Outcome State Fault Refusal :=
  .next (onDev (fun d => poolEvict d p) s)

/-- PAGE_MOVE_COMPLETE (R235, R242): a snapshot start that waited for its range list may go on. -/
def execPageMoveComplete (p : PartId) (win : Tier) (page : Nat) (s : State) : Host.Outcome State Fault Refusal :=
  .next (onMal (fun d => afterSnap (pagesChanged (fun d => completeMove d (p, win, page)) d) p) s)

/-- BUDDY_SNAPSHOT (R244). -/
def execBuddySnapshot (p : PartId) (v : Word) (s : State) : Host.Outcome State Fault Refusal :=
  .next (onMal (fun d => if bitOf v.toNat 63 && !bitOf v.toNat 60 then afterSnap (snapWrite d p v.toNat) p else d) s)

/-- DRAW_SNAPSHOT (R245). -/
def execDrawSnapshot (p : PartId) (v : Word) (s : State) : Host.Outcome State Fault Refusal :=
  .next (onMal (fun d => if bitOf v.toNat 63 && bitOf v.toNat 60 then afterSnap (snapWrite d p v.toNat) p else d) s)

/-- SNAPSHOT_ABORT (R243). -/
def execSnapshotAbort (p : PartId) (v : Word) (s : State) : Host.Outcome State Fault Refusal :=
  .next (onMal (fun d => if bitOf v.toNat 62 then pagesChanged (fun d => afterSnap (snapWrite d p v.toNat) p) d else d) s)

/-- SNAPSHOT_COMPLETE (R243). -/
def execSnapshotComplete (p : PartId) (s : State) : Host.Outcome State Fault Refusal :=
  .next (onMal (fun d => pagesChanged (fun d => afterSnap (completeSnap d p) p) d) s)

/-- BUDDY_GENERATION_COMPLETE (R244). -/
def execBuddyGenerationComplete (p : PartId) (src : BitVec 16) (gyle : BitVec 48) (s : State) : Host.Outcome State Fault Refusal :=
  .next (onDev (fun d => completeGeneration d p src.toNat gyle.toNat) s)

/-- BUDDY_ACK (R244). -/
def execBuddyAck (p : PartId) (s : State) : Host.Outcome State Fault Refusal :=
  .next (onMal (fun d => afterSnap (ackSnap d p) p) s)

/-- BUDDY_REGION_ENABLE (R251). -/
def execBuddyRegionEnable (p : PartId) (v : Word) (s : State) : Host.Outcome State Fault Refusal :=
  .next (onDev (fun d => if bitOf v.toNat 63 then buddyWrite d p v.toNat else d) s)

/-- PAGE_POISON (R248). -/
def execPagePoison (p : PartId) (win : Tier) (page : Nat) (s : State) (granule : Nat := 0) (row : Nat := 0) :
    Host.Outcome State Fault Refusal :=
  .next (onDev (fun d => pagesChanged (fun d => poisonPage d (p, win, page) granule row) d) s)

/-- PAGE_REFILL_COMPLETE (R248, R365). -/
def execPageRefillComplete (p : PartId) (win : Tier) (page : Nat) (s : State) : Host.Outcome State Fault Refusal :=
  .next (onMal (fun d => noteWear (afterSnap (pagesChanged (fun d => refillPage d (p, win, page)) d) p)) s)

/-- REFILL_TIMEOUT (R249). -/
def execRefillTimeout (p : PartId) (win : Tier) (page : Nat) (s : State) : Host.Outcome State Fault Refusal :=
  .next (onDev (fun d => pagesChanged (fun d => timeoutRefill d (p, win, page)) d) s)

/-- PATROL_SCRUB (R246). -/
def execPatrolScrub (t : Tier) (frame : Nat) (errors : List RowFound) (s : State) : Host.Outcome State Fault Refusal :=
  .next (onDev (fun d => pagesChanged (fun d => patrolFrame d t frame errors) d) s)

/-- DRAM_ROW_REPAIR (R247, R365). -/
def execDramRowRepair (t : Tier) (frame : Nat) (spareRow : Bool) (s : State) (granule : Nat := 0) (row : Nat := 0) :
    Host.Outcome State Fault Refusal :=
  .next (onDev (fun d => noteWear (repairRow d t frame granule row spareRow)) s)

/-- PAGE_AGE_SAMPLE (R231). -/
def execPageAgeSample (s : State) : Host.Outcome State Fault Refusal :=
  .next (onDev (fun d => agePages d) s)

end Sys2Proof.Machine
end

