-- ==== Sys2Proof/Machine/FabricRows.lean ====
section
/-! DEFINITION. The commands of the fabric and the service ports (chapters 11, 16). -/

namespace Sys2Proof.Machine

/-! The fabric -/

/-- DATA_FLIT_RECEIVE (R260). -/
def execDataFlitReceive (n : PortId) (flit : List Byte) (s : State) : Host.Outcome State Fault Refusal :=
  .next (onDev (fun d => receiveFlit d n flit) s)

/-- CONTROL_FLIT_RECEIVE (R261). -/
def execControlFlitReceive (n : PortId) (flit : List Byte) (tRx : Word) (s : State) : Host.Outcome State Fault Refusal :=
  .next (onDev (fun d => receiveControl d n flit tRx.toNat) s)

/-- DATA_SLOT (R258). -/
def execDataSlot (n : PortId) (slot : Nat) (s : State) : Host.Outcome State Fault Refusal :=
  .next (onDev (fun d => runSlot d n slot) s)

/-- LANE_FAILURE (R263). -/
def execLaneFailure (n : PortId) (lane : Fin 8) (s : State) : Host.Outcome State Fault Refusal :=
  .next (onDev (fun d => failLane d n lane) s)

/-- FAST_RETRAIN_COMPLETE (R263, R264, R365). -/
def execFastRetrainComplete (n : PortId) (working : BitVec 8) (s : State) : Host.Outcome State Fault Refusal :=
  .next (onDev (fun d => noteWear (completeRetrain d n working.toNat)) s)

/-- FULL_TRAINING_COMPLETE (R262, R365). -/
def execFullTrainingComplete (n : PortId) (working : BitVec 8) (s : State) : Host.Outcome State Fault Refusal :=
  .next (onMal (fun d => noteWear (endTraining d n working.toNat)) s)

/-- IDENT (R265). -/
def execIdent (n : PortId) (s : State) : Host.Outcome State Fault Refusal :=
  .next (onDev (fun d => identMessage d n) s)

/-- ARRIVE (R274). -/
def execArrive (n : PortId) (s : State) : Host.Outcome State Fault Refusal :=
  .next (onDev (fun d => arriveMessage d n) s)

/-- RELEASE (R274). -/
def execRelease (n : PortId) (s : State) : Host.Outcome State Fault Refusal :=
  .next (onDev (fun d => releaseMessage d n) s)

/-- CHANNEL_RELEASE_REACHED (R274). -/
def execChannelReleaseReached (p : PartId) (ch : Fin 18) (s : State) : Host.Outcome State Fault Refusal :=
  .next (onMal (passing (fun d => reachChannel d p ch)) s)

/-- FLAG_CHECK_RELEASE (R125). -/
def execFlagCheckRelease (p : PartId) (s : State) : Host.Outcome State Fault Refusal :=
  .next (onMal (passing (fun d => reachCheck d p)) s)

/-- NFLAG_WRITE (R123). -/
def execNflagWrite (p : PartId) (v : Word) (s : State) : Host.Outcome State Fault Refusal :=
  .next (onDev (fun d => nflagWrite { d with bus := .none } p v.toNat) s)

/-- FAULT (R278). -/
def execFault (n : PortId) (s : State) : Host.Outcome State Fault Refusal :=
  .next (onDev (fun d => faultMessage d n) s)

/-- CHANNEL_TIMEOUT (R278). -/
def execChannelTimeout (p : PartId) (ch : Fin 18) (s : State) : Host.Outcome State Fault Refusal :=
  .next (onDev (fun d => timeoutChannel d p ch) s)

/-- DRAIN_ARRIVE (R285). -/
def execDrainArrive (p : PartId) (s : State) : Host.Outcome State Fault Refusal :=
  .next (onMal (fun d => arriveDrain d p) s)

/-- COLL (R280). -/
def execColl (n : PortId) (vc : Fin 8) (s : State) : Host.Outcome State Fault Refusal :=
  .next (onDev (fun d => collMessage d n vc) s)

/-- ABORT (R280). -/
def execAbort (n : PortId) (vc : Fin 8) (s : State) : Host.Outcome State Fault Refusal :=
  .next (onDev (fun d => abortMessage d n vc) s)

/-- WRITE (R255). -/
def execWrite (n : PortId) (vc : Fin 8) (s : State) : Host.Outcome State Fault Refusal :=
  .next (onDev (fun d => writeMessage d n vc) s)

/-- READ (R256). -/
def execRead (n : PortId) (vc : Fin 8) (s : State) : Host.Outcome State Fault Refusal :=
  .next (onDev (fun d => readMessage d n vc) s)

/-- RESP (R256). -/
def execResp (n : PortId) (vc : Fin 8) (s : State) : Host.Outcome State Fault Refusal :=
  .next (onDev (fun d => respMessage d n vc) s)

/-- RINGPASS_STEP (R283). -/
def execRingpassStep (p : PartId) (i : Nat) (s : State) : Host.Outcome State Fault Refusal :=
  .next (onDev (fun d => ringStep d p i) s)

/-- COLLECTIVE_RESOLVE (R282). -/
def execCollectiveResolve (p : PartId) (i : Nat) (s : State) : Host.Outcome State Fault Refusal :=
  .next (onDev (fun d => completeColl d p i) s)

/-- FTC_RATE_ADJUST (R271). -/
def execFtcRateAdjust (s : State) : Host.Outcome State Fault Refusal :=
  .next (onDev (fun d => adjustRate d) s)

/-- FTC_LOCK_LOSS (R272). -/
def execFtcLockLoss (s : State) : Host.Outcome State Fault Refusal :=
  .next (onDev (fun d => loseLock d) s)

/-- FTC_PPS_EDGE (R273). -/
def execFtcPpsEdge (at1 : Word) (s : State) : Host.Outcome State Fault Refusal :=
  .next (onDev (fun d => ppsEdge (passing (fun d => ftcReaches d at1.toNat) d) at1.toNat) s)

/-- PARTNER_FIRST_SIGNAL (R262). -/
def execPartnerFirstSignal (n : PortId) (s : State) : Host.Outcome State Fault Refusal :=
  .next (onDev (fun d => firstSignal d n) s)

/-! The service ports -/

/-- SVC_RING_ENABLE (R388). -/
def execSvcRingEnable (p : PartId) (q : SvcId) (recv : Bool) (v : Word) (s : State) : Host.Outcome State Fault Refusal :=
  .next (onDev (fun d => if bitOf v.toNat 63 then svcRingWrite d p q recv v.toNat else d) s)

/-- SVC_RING_DISABLE (R388). -/
def execSvcRingDisable (p : PartId) (q : SvcId) (recv : Bool) (v : Word) (s : State) : Host.Outcome State Fault Refusal :=
  .next (onDev (fun d => if bitOf v.toNat 63 then d else svcRingWrite d p q recv v.toNat) s)

/-- SEND (R388). -/
def execSend (p : PartId) (q : SvcId) (s : State) : Host.Outcome State Fault Refusal :=
  .next (onDev (fun d => svcRun 0 p q d) s)

/-- SEND_WITH_IMMEDIATE (R388). -/
def execSendWithImmediate (p : PartId) (q : SvcId) (s : State) : Host.Outcome State Fault Refusal :=
  .next (onDev (fun d => svcRun 1 p q d) s)

/-- RDMA_WRITE (R388). -/
def execRdmaWrite (p : PartId) (q : SvcId) (s : State) : Host.Outcome State Fault Refusal :=
  .next (onDev (fun d => svcRun 2 p q d) s)

/-- RDMA_WRITE_WITH_IMMEDIATE (R388). -/
def execRdmaWriteWithImmediate (p : PartId) (q : SvcId) (s : State) : Host.Outcome State Fault Refusal :=
  .next (onDev (fun d => svcRun 3 p q d) s)

/-- RDMA_READ (R388). -/
def execRdmaRead (p : PartId) (q : SvcId) (s : State) : Host.Outcome State Fault Refusal :=
  .next (onDev (fun d => svcRun 4 p q d) s)

/-- UDP (R388). -/
def execUdp (p : PartId) (q : SvcId) (s : State) : Host.Outcome State Fault Refusal :=
  .next (onDev (fun d => svcRun 5 p q d) s)

/-- WORK_ENTRY_COMPLETE (R388). -/
def execWorkEntryComplete (p : PartId) (q : SvcId) (i : Nat) (res : WorkResult) (s : State) : Host.Outcome State Fault Refusal :=
  .next (onDev (fun d => svcComplete d p q i res) s)

/-- SERVICE_PACKET_RECEIVE (R387, R388). -/
def execServicePacketReceive (q : SvcId) (m : ServicePacket) (s : State) : Host.Outcome State Fault Refusal :=
  .next (onDev (fun d => svcReceive d q m) s)

end Sys2Proof.Machine
end

