-- ==== Sys2Proof/Machine/MaltsterRows.lean ====
section
/-! DEFINITION. The commands of hosts, the maltster and the security store (chapters 12, 13, 14). -/

namespace Sys2Proof.Machine

/-- A stage set's number by its scope: a partition's, or the installer's 4 (R321). -/
def scopeOf (scope : Option PartId) : Nat :=
  match scope with
  | some p => p.val
  | none => 4

/-! Accesses of hosts and the maltster -/

/-- REGISTER_WRITE (R5). -/
def execRegisterWrite (who : Agent) (a : BitVec 48) (v : Word) (s : State) : Host.Outcome State Fault Refusal :=
  .next (onMal (fun d => storeAt d who a.toNat v.toNat) s)

/-- REGISTER_READ_CLEAR (R5). -/
def execRegisterReadClear (who : Agent) (a : BitVec 48) (s : State) : Host.Outcome State Fault Refusal :=
  .next (onSec (fun s => loadReg s who a.toNat) s)

/-- HOST_ACCESS (R331). -/
def execHostAccess (p : PartId) (a : BitVec 48) (width : Nat) (store : Option Word) (s : State) (found : Found := .clean) (row : Nat := 0) :
    Host.Outcome State Fault Refusal :=
  .next (onSec (fun s => Sys2Proof.Machine.hostAccess s p a.toNat width store found row) s)

/-! Mailboxes and the management port -/

/-- MAILBOX_PICKUP (R315). -/
def execMailboxPickup (p : PartId) (s : State) : Host.Outcome State Fault Refusal :=
  .next (onMal (fun d => pickMailbox d p) s)

/-- MAILBOX_BUSY_WRITE (R316). -/
def execMailboxBusyWrite (p : PartId) (i w : Fin 16) (v : Word) (s : State) : Host.Outcome State Fault Refusal :=
  .next (onDev (fun d => if bitOf (slotWord d p i 0) 0 then slotWrite { d with bus := .none } p i w v.toNat else d) s)

/-- IDENTITY (R318). -/
def execIdentity (k : Nat) (s : State) : Host.Outcome State Fault Refusal :=
  .next (onSec (fun s => withAudit (fun d => runIdentity d k (s.sec.fuses.rights.getLsbD 1)) s) s)

/-! Stage sets -/

/-- STAGE_OPEN (R322). -/
def execStageOpen (k : Nat) (s : State) : Host.Outcome State Fault Refusal :=
  .next (onMal (fun d => runOpen d k) s)

/-- STAGE_WRITE (R321). -/
def execStageWrite (k : Nat) (s : State) : Host.Outcome State Fault Refusal :=
  .next (onMal (fun d => runWrite d k) s)

/-- STAGE_CHECK (R323). -/
def execStageCheck (k : Nat) (s : State) : Host.Outcome State Fault Refusal :=
  .next (onMal (fun d => runCheck d k) s)

/-- STAGE_COMMIT (R324). -/
def execStageCommit (k : Nat) (s : State) : Host.Outcome State Fault Refusal :=
  .next (onMal (fun d => runCommit d k) s)

/-- STAGE_ABORT (R327). -/
def execStageAbort (k : Nat) (s : State) : Host.Outcome State Fault Refusal :=
  .next (onMal (fun d => runAbort d k) s)

/-- COMMIT_INSTANT (R325). -/
def execCommitInstant (scope : Option PartId) (s : State) : Host.Outcome State Fault Refusal :=
  .next (onMal (passing (fun d => ftcInstant d (scopeOf scope))) s)

/-- STAGE_SET_LAPSE (R322). -/
def execStageSetLapse (scope : Option PartId) (s : State) : Host.Outcome State Fault Refusal :=
  .next (onMal (fun d => lapseSet d (scopeOf scope)) s)

/-! Pages, slices, draws and ports -/

/-- PAGE_MAP (R230). -/
def execPageMap (k : Nat) (s : State) : Host.Outcome State Fault Refusal :=
  .next (onMal (fun d => runPageMap d k) s)

/-- PAGE_UNMAP (R230). -/
def execPageUnmap (k : Nat) (s : State) : Host.Outcome State Fault Refusal :=
  .next (onMal (fun d => pagesChanged (fun d => runPageUnmap d k) d) s)

/-- PAGE_ATTR (R318). -/
def execPageAttr (k : Nat) (s : State) : Host.Outcome State Fault Refusal :=
  .next (onMal (fun d => pagesChanged (fun d => runPageAttr d k) d) s)

/-- POOL_QUERY (R318). -/
def execPoolQuery (k : Nat) (s : State) : Host.Outcome State Fault Refusal :=
  .next (onMal (fun d => runPoolQuery d k) s)

/-- SLICE_FORM_PREPARE (R319). -/
def execSliceFormPrepare (k : Nat) (s : State) : Host.Outcome State Fault Refusal :=
  .next (onMal (fun d => runForm d k 0 formPrepare) s)

/-- SLICE_FORM_COMMIT (R319). -/
def execSliceFormCommit (k : Nat) (s : State) : Host.Outcome State Fault Refusal :=
  .next (onMal (fun d => runForm d k 1 formCommit) s)

/-- SLICE_FORM_CANCEL (R319). -/
def execSliceFormCancel (k : Nat) (s : State) : Host.Outcome State Fault Refusal :=
  .next (onMal (fun d => runForm d k 2 formCancel) s)

/-- FORMATION_INSTANT (R319). -/
def execFormationInstant (p : PartId) (s : State) : Host.Outcome State Fault Refusal :=
  .next (onMal (passing (fun d => instantForm d p)) s)

/-- FORMATION_RELEASE (R319). -/
def execFormationRelease (p : PartId) (s : State) : Host.Outcome State Fault Refusal :=
  .next (onMal (passing (fun d => releaseForm d p)) s)

/-- FORMATION_TIMEOUT (R319). -/
def execFormationTimeout (p : PartId) (s : State) : Host.Outcome State Fault Refusal :=
  .next (onMal (fun d => timeoutForm d p) s)

/-- PREPARATION_LAPSE (R319). -/
def execPreparationLapse (p : PartId) (s : State) : Host.Outcome State Fault Refusal :=
  .next (onMal (fun d => lapseForm d p) s)

/-- SLICE_DISSOLVE (R320). -/
def execSliceDissolve (k : Nat) (s : State) : Host.Outcome State Fault Refusal :=
  .next (onMal (fun d => runDissolve d k) s)

/-- DISSOLUTION_INSTANT (R297). -/
def execDissolutionInstant (p : PartId) (s : State) : Host.Outcome State Fault Refusal :=
  .next (onMal (passing (fun d => instantDissolve d p)) s)

/-- DRAW (R306). -/
def execDraw (k : Nat) (s : State) : Host.Outcome State Fault Refusal :=
  .next (onSec (fun s => withAudit (fun d => runDraw d k (s.sec.fuses.rights.getLsbD 0)) s) s)

/-- PORT_TRAIN (R263). -/
def execPortTrain (k : Nat) (s : State) : Host.Outcome State Fault Refusal :=
  .next (onMal (fun d => runTrain d k) s)

/-! Security -/

/-- ATTEST (R343). -/
def execAttest (k : Nat) (s : State) : Host.Outcome State Fault Refusal :=
  .next (onSec (fun s => runAttest s k) s)

/-- SIGNED (R334). -/
def execSigned (k : Nat) (s : State) : Host.Outcome State Fault Refusal :=
  .next (onSec (fun s => runSigned s k) s)

/-- KEY_ROTATION (R335). -/
def execKeyRotation (k : Nat) (s : State) : Host.Outcome State Fault Refusal :=
  .next (onSec (fun s => rotateKey s k) s)

/-- FW_INSTALL (R339). -/
def execFwInstall (k : Nat) (s : State) : Host.Outcome State Fault Refusal :=
  .next (onSec (fun s => installImage s k) s)

/-- AUDIT_READ (R346). -/
def execAuditRead (k : Nat) (s : State) : Host.Outcome State Fault Refusal :=
  .next (onSec (fun s => readAudit s k) s)

/-- DIAG_OPEN (R347). -/
def execDiagOpen (k : Nat) (s : State) : Host.Outcome State Fault Refusal :=
  .next (onSec (fun s => runDiag s k) s)

/-- DIAG_EXPIRY (R347). -/
def execDiagExpiry (s : State) : Host.Outcome State Fault Refusal :=
  .next (onSec (passingAll expireDiag) s)

/-- FUSE_PROGRAM (R333). -/
def execFuseProgram (k : Nat) (s : State) : Host.Outcome State Fault Refusal :=
  .next (onSec (fun s => runFuse s k) s)

/-- TEL_READ (R367). -/
def execTelRead (k : Nat) (s : State) : Host.Outcome State Fault Refusal :=
  .next (onSec (fun s => readTelemetry s k) s)

/-- MGT_DATAGRAM (R317). -/
def execMgtDatagram (data : List Byte) (src : BitVec 128) (port : BitVec 16) (s : State) (dst : BitVec 128 := 0) (dport : BitVec 16 := 17440) (udp : Bool := true) :
    Host.Outcome State Fault Refusal :=
  .next (onMal (fun d => takeDatagram d data src.toNat port.toNat dst dport.toNat udp) s)

/-- HEARTBEAT (R308). -/
def execHeartbeat (s : State) (corrected : Nat := 0) : Host.Outcome State Fault Refusal :=
  .next (onDev (fun d => Sys2Proof.Machine.heartbeat d corrected) s)

/-- AUDIT_SEAL (R345). -/
def execAuditSeal (s : State) : Host.Outcome State Fault Refusal :=
  .next (onSec (passingAll sealLog) s)

/-- WATCHDOG_EXPIRY (R308). -/
def execWatchdogExpiry (s : State) : Host.Outcome State Fault Refusal :=
  .next (onDev (fun d => expireWatchdog d) s)

/-- MALTSTER_RESTART (R309). -/
def execMaltsterRestart (s : State) : Host.Outcome State Fault Refusal :=
  .next (onSec (fun s => restartModule s) s)

/-- BOOT (R336). -/
def execBoot (s : State) : Host.Outcome State Fault Refusal :=
  .next (bootModule s)

/-- RECOVERY_DATAGRAM (R337). -/
def execRecoveryDatagram (data : List Byte) (src : BitVec 128) (s : State) (port : BitVec 16 := 17441) (dst : BitVec 128 := 0) :
    Host.Outcome State Fault Refusal :=
  .next (onSec (fun s => recoveryPiece s data src.toNat port.toNat dst) s)

end Sys2Proof.Machine
end

