-- ==== Sys2Proof/Machine/PhysicalRows.lean ====
section
/-! DEFINITION. The commands of power, clocks, rails, telemetry and pins (chapters 15, 16). -/

namespace Sys2Proof.Machine

/-! Resets, rails and clocks -/

/-- MOD_RESET_ASSERT (R377). -/
def execModResetAssert (s : State) : Host.Outcome State Fault Refusal :=
  .next (assertReset s)

/-- MOD_RESET_RELEASE (R376). -/
def execModResetRelease (s : State) : Host.Outcome State Fault Refusal :=
  .next (withDev releaseReset s)

/-- STANDBY_RESTORE (R376). -/
def execStandbyRestore (s : State) : Host.Outcome State Fault Refusal :=
  .next (withDev restoreStandby s)

/-- STANDBY_LOSS (R377). -/
def execStandbyLoss (s : State) : Host.Outcome State Fault Refusal :=
  .next (loseStandby s)

/-- INPUT_FAULT (R373). -/
def execInputFault (level : InputLevel) (s : State) : Host.Outcome State Fault Refusal :=
  .next (inputFaulty s level)

/-- SENSOR_SAMPLE (R360). -/
def execSensorSample (temps : List (Option (BitVec 16))) (s : State) : Host.Outcome State Fault Refusal :=
  .next (withDev (fun d => if d.standby then sampleSensors d temps else d) s)

/-- THERMAL_TRIP (R362). -/
def execThermalTrip (n : Fin 78) (temp : BitVec 16) (s : State) : Host.Outcome State Fault Refusal :=
  .next (Sys2Proof.Machine.thermalTrip s n temp.toInt)

/-- THERMAL_LOOP_STEP (R361). -/
def execThermalLoopStep (s : State) : Host.Outcome State Fault Refusal :=
  .next (onDev (fun d => thermalStep d) s)

/-- CAP_LOOP_STEP (R352). -/
def execCapLoopStep (watts centivolts centiamps : Nat) (s : State) : Host.Outcome State Fault Refusal :=
  .next (onDev (fun d => capStep d watts centivolts centiamps) s)

/-- ROW_ADMISSION_STEP (R353). -/
def execRowAdmissionStep (watts centivolts centiamps : Nat) (s : State) : Host.Outcome State Fault Refusal :=
  .next (onDev (fun d => admissionStep d watts centivolts centiamps) s)

/-- CURRENT_LIMIT (R354). -/
def execCurrentLimit (watts centivolts centiamps : Nat) (s : State) : Host.Outcome State Fault Refusal :=
  .next (onDev (fun d => currentStep d watts centivolts centiamps) s)

/-- CLOCK_STEP (R349). -/
def execClockStep (s : State) : Host.Outcome State Fault Refusal :=
  .next (onDev (fun d => stepClock d) s)

/-- POWER_GATE_ENTRY (R355). -/
def execPowerGateEntry (x : GatedUnit) (s : State) : Host.Outcome State Fault Refusal :=
  .next (onDev (fun d => enterGate d x) s)

/-- UNIT_WAKE (R357). -/
def execUnitWake (x : GatedUnit) (s : State) : Host.Outcome State Fault Refusal :=
  .next (onDev (fun d => wakeUnit d x) s)

/-- BACKGROUND_FORCED (R363). -/
def execBackgroundForced (b : Background) (s : State) (left : Bool := true) : Host.Outcome State Fault Refusal :=
  .next (onDev (fun d => forceWork d b left) s)

/-- WEAR_SAVE (R365). -/
def execWearSave (s : State) : Host.Outcome State Fault Refusal :=
  .next (withDev (fun d => if d.standby then saveWear d else d) s)

/-! Telemetry, sideband bus, test port and management link -/

/-- TRACE_ENTRY (R368). -/
def execTraceEntry (e : TraceEvent) (s : State) : Host.Outcome State Fault Refusal :=
  .next (onDev (fun d => traceEvent d e) s)

/-- TRACE_ENABLE (R369). -/
def execTraceEnable (p : PartId) (v : Word) (s : State) : Host.Outcome State Fault Refusal :=
  .next (onDev (fun d => traceWrite { d with bus := .none } p v.toNat) s)

/-- FRU_READ (R385). -/
def execFruRead (off : BitVec 16) (count : Nat) (s : State) : Host.Outcome State Fault Refusal :=
  .next (readFru s off.toNat count)

/-- BYPASS (R386). -/
def execBypass (s : State) : Host.Outcome State Fault Refusal :=
  .next (withDev tapBypass s)

/-- IDCODE (R386). -/
def execIdcode (s : State) : Host.Outcome State Fault Refusal :=
  .next (withDev tapIdcode s)

/-- SAMPLE_PRELOAD (R386). -/
def execSamplePreload (pins load : List Bool) (s : State) : Host.Outcome State Fault Refusal :=
  .next (withDev (fun d => tapSample d pins load) s)

/-- EXTEST (R386). -/
def execExtest (drive : List Bool) (s : State) : Host.Outcome State Fault Refusal :=
  .next (withDev (fun d => tapExtest d drive) s)

/-- CLAMP (R386). -/
def execClamp (s : State) : Host.Outcome State Fault Refusal :=
  .next (withDev (fun d => tapHold d .clamp) s)

/-- HIGHZ (R386). -/
def execHighz (s : State) : Host.Outcome State Fault Refusal :=
  .next (withDev (fun d => tapHold d .highz) s)

/-- MGT_LINK_CHANGE (R384). -/
def execMgtLinkChange (link fec : Bool) (routerPrefix : Option (BitVec 64)) (s : State) : Host.Outcome State Fault Refusal :=
  .next (onDev (fun d => changeLink d link fec routerPrefix) s)

end Sys2Proof.Machine
end

