-- ==== Sys2Proof/Machine/Dispatch.lean ====
section
/-! DEFINITION. One arm for each command. -/

namespace Sys2Proof.Machine

def exec (i : Instr) (s : State) : Host.Outcome State Fault Refusal :=
  match i with
  | .nop c => Sys2Proof.Machine.execNop c s
  | .halt c => Sys2Proof.Machine.execHalt c s
  | .br c => Sys2Proof.Machine.execBr c s
  | .loop c => Sys2Proof.Machine.execLoop c s
  | .gset c => Sys2Proof.Machine.execGset c s
  | .gadd c => Sys2Proof.Machine.execGadd c s
  | .gld c => Sys2Proof.Machine.execGld c s
  | .anset c => Sys2Proof.Machine.execAnset c s
  | .evwait c => Sys2Proof.Machine.execEvwait c s
  | .evwaitPass c => Sys2Proof.Machine.execEvwaitPass c s
  | .evadd c => Sys2Proof.Machine.execEvadd c s
  | .evpost c => Sys2Proof.Machine.execEvpost c s
  | .eventCounterChange c => Sys2Proof.Machine.execEventCounterChange c s
  | .barClusterSet c => Sys2Proof.Machine.execBarClusterSet c s
  | .barPartition c => Sys2Proof.Machine.execBarPartition c s
  | .localBarrierComplete p b => Sys2Proof.Machine.execLocalBarrierComplete p b s
  | .barSlice c => Sys2Proof.Machine.execBarSlice c s
  | .ftcwait c => Sys2Proof.Machine.execFtcwait c s
  | .ftcTargetReached c => Sys2Proof.Machine.execFtcTargetReached c s
  | .rouse c => Sys2Proof.Machine.execRouse c s
  | .dwqflush c => Sys2Proof.Machine.execDwqflush c s
  | .fence c => Sys2Proof.Machine.execFence c s
  | .mma c errors => Sys2Proof.Machine.execMma c s errors
  | .mmwg c => Sys2Proof.Machine.execMmwg c s
  | .deferredEntryRun c => Sys2Proof.Machine.execDeferredEntryRun c s
  | .gram c => Sys2Proof.Machine.execGram c s
  | .matrixInstructionComplete c => Sys2Proof.Machine.execMatrixInstructionComplete c s
  | .tdld c => Sys2Proof.Machine.execTdld c s
  | .tdbase c => Sys2Proof.Machine.execTdbase c s
  | .tdadd c => Sys2Proof.Machine.execTdadd c s
  | .tdshape c => Sys2Proof.Machine.execTdshape c s
  | .mov c => Sys2Proof.Machine.execMov c s
  | .moverOpComplete c k => Sys2Proof.Machine.execMoverOpComplete c k s
  | .adrn c => Sys2Proof.Machine.execAdrn c s
  | .afill c => Sys2Proof.Machine.execAfill c s
  | .azero c => Sys2Proof.Machine.execAzero c s
  | .aadd c => Sys2Proof.Machine.execAadd c s
  | .atomicWindowAdd c j k => Sys2Proof.Machine.execAtomicWindowAdd c j k s
  | .amax c => Sys2Proof.Machine.execAmax c s
  | .amaxSlice c => Sys2Proof.Machine.execAmaxSlice c s
  | .fpost c => Sys2Proof.Machine.execFpost c s
  | .vadd c => Sys2Proof.Machine.execVadd c s
  | .vmul c => Sys2Proof.Machine.execVmul c s
  | .vfma c => Sys2Proof.Machine.execVfma c s
  | .vfmas c => Sys2Proof.Machine.execVfmas c s
  | .vcmp c => Sys2Proof.Machine.execVcmp c s
  | .vsel c => Sys2Proof.Machine.execVsel c s
  | .vmin c => Sys2Proof.Machine.execVmin c s
  | .vmax c => Sys2Proof.Machine.execVmax c s
  | .vcvt c => Sys2Proof.Machine.execVcvt c s
  | .vmask c => Sys2Proof.Machine.execVmask c s
  | .vcompress c => Sys2Proof.Machine.execVcompress c s
  | .vexpand c => Sys2Proof.Machine.execVexpand c s
  | .vrng c => Sys2Proof.Machine.execVrng c s
  | .vseq c => Sys2Proof.Machine.execVseq c s
  | .vredmax c => Sys2Proof.Machine.execVredmax c s
  | .vredmin c => Sys2Proof.Machine.execVredmin c s
  | .vnonfin c => Sys2Proof.Machine.execVnonfin c s
  | .vectorOpComplete c j => Sys2Proof.Machine.execVectorOpComplete c j s
  | .start who c alsoStop => Sys2Proof.Machine.execStart who c alsoStop s
  | .stop who c => Sys2Proof.Machine.execStop who c s
  | .stopComplete c => Sys2Proof.Machine.execStopComplete c s
  | .accQueryWrite who c v => Sys2Proof.Machine.execAccQueryWrite who c v s
  | .registerWrite who a v => Sys2Proof.Machine.execRegisterWrite who a v s
  | .rowRetry c dpu => Sys2Proof.Machine.execRowRetry c dpu s
  | .rouseHoldExpiry c => Sys2Proof.Machine.execRouseHoldExpiry c s
  | .rampStep c => Sys2Proof.Machine.execRampStep c s
  | .flagCheckRelease p => Sys2Proof.Machine.execFlagCheckRelease p s
  | .nflagWrite p v => Sys2Proof.Machine.execNflagWrite p v s
  | .kilnRingEnable p v => Sys2Proof.Machine.execKilnRingEnable p v s
  | .kilnRingDisable p v => Sys2Proof.Machine.execKilnRingDisable p v s
  | .kilnJobPickup p => Sys2Proof.Machine.execKilnJobPickup p s
  | .kilnJobStart p => Sys2Proof.Machine.execKilnJobStart p s
  | .init p j => Sys2Proof.Machine.execInit p j s
  | .fold p j => Sys2Proof.Machine.execFold p j s
  | .root p j steps guests => Sys2Proof.Machine.execRoot p j steps s guests
  | .chol p j => Sys2Proof.Machine.execChol p j s
  | .ldlt p j => Sys2Proof.Machine.execLdlt p j s
  | .solve p j steps => Sys2Proof.Machine.execSolve p j steps s
  | .foldOutcomeAvailable p j => Sys2Proof.Machine.execFoldOutcomeAvailable p j s
  | .kilnJobResolve p j => Sys2Proof.Machine.execKilnJobResolve p j s
  | .kilnDeadlineCommit p j => Sys2Proof.Machine.execKilnDeadlineCommit p j s
  | .kilnAttemptRestart p j why => Sys2Proof.Machine.execKilnAttemptRestart p j why s
  | .kilnBankScrub b found => Sys2Proof.Machine.execKilnBankScrub b found s
  | .sweepStart p v => Sys2Proof.Machine.execSweepStart p v s
  | .sweepStop p v => Sys2Proof.Machine.execSweepStop p v s
  | .blockHandout p u => Sys2Proof.Machine.execBlockHandout p u s
  | .momentPhase u found => Sys2Proof.Machine.execMomentPhase u s found
  | .weightPhase u => Sys2Proof.Machine.execWeightPhase u s
  | .layerComplete p l => Sys2Proof.Machine.execLayerComplete p l s
  | .rackPhaseRetry u next writing => Sys2Proof.Machine.execRackPhaseRetry u next s writing
  | .stagingSlotWrite p slot off data => Sys2Proof.Machine.execStagingSlotWrite p slot off data s
  | .replicaCheck p v => Sys2Proof.Machine.execReplicaCheck p v s
  | .ownerDigestCheck p l b => Sys2Proof.Machine.execOwnerDigestCheck p l b s
  | .bankRequestBoost c b rank displaced => Sys2Proof.Machine.execBankRequestBoost c b rank displaced s
  | .handoverRequest who c b v => Sys2Proof.Machine.execHandoverRequest who c b v s
  | .handoverComplete c b => Sys2Proof.Machine.execHandoverComplete c b s
  | .aliasWriteSet who a data be => Sys2Proof.Machine.execAliasWriteSet who a data be s
  | .aliasWriteClear who a data be => Sys2Proof.Machine.execAliasWriteClear who a data be s
  | .bankScrub c b w found => Sys2Proof.Machine.execBankScrub c b w found s
  | .marchDestructive who c v => Sys2Proof.Machine.execMarchDestructive who c v s
  | .marchPreserving who c v => Sys2Proof.Machine.execMarchPreserving who c v s
  | .marchComplete c fails final waited => Sys2Proof.Machine.execMarchComplete c fails s final waited
  | .bankRepair c b what => Sys2Proof.Machine.execBankRepair c b what s
  | .moverRingEnable p v => Sys2Proof.Machine.execMoverRingEnable p v s
  | .moverRingDisable p v => Sys2Proof.Machine.execMoverRingDisable p v s
  | .moverEntryPickup p => Sys2Proof.Machine.execMoverEntryPickup p s
  | .prefetch p j => Sys2Proof.Machine.execPrefetch p j s
  | .evict p j => Sys2Proof.Machine.execEvict p j s
  | .pin p j => Sys2Proof.Machine.execPin p j s
  | .unpin p j => Sys2Proof.Machine.execUnpin p j s
  | .setsrc p j => Sys2Proof.Machine.execSetsrc p j s
  | .moverEntryResolve p j => Sys2Proof.Machine.execMoverEntryResolve p j s
  | .demandFaultIn p page => Sys2Proof.Machine.execDemandFaultIn p page s
  | .poolEviction p => Sys2Proof.Machine.execPoolEviction p s
  | .pageMoveComplete p win page => Sys2Proof.Machine.execPageMoveComplete p win page s
  | .buddySnapshot p v => Sys2Proof.Machine.execBuddySnapshot p v s
  | .drawSnapshot p v => Sys2Proof.Machine.execDrawSnapshot p v s
  | .snapshotAbort p v => Sys2Proof.Machine.execSnapshotAbort p v s
  | .snapshotComplete p => Sys2Proof.Machine.execSnapshotComplete p s
  | .buddyGenerationComplete p src gyle => Sys2Proof.Machine.execBuddyGenerationComplete p src gyle s
  | .buddyAck p => Sys2Proof.Machine.execBuddyAck p s
  | .buddyRegionEnable p v => Sys2Proof.Machine.execBuddyRegionEnable p v s
  | .pagePoison p win page granule row => Sys2Proof.Machine.execPagePoison p win page s granule row
  | .pageRefillComplete p win page => Sys2Proof.Machine.execPageRefillComplete p win page s
  | .refillTimeout p win page => Sys2Proof.Machine.execRefillTimeout p win page s
  | .patrolScrub t frame errors => Sys2Proof.Machine.execPatrolScrub t frame errors s
  | .dramRowRepair t frame spareRow granule row => Sys2Proof.Machine.execDramRowRepair t frame spareRow s granule row
  | .dataFlitReceive n flit => Sys2Proof.Machine.execDataFlitReceive n flit s
  | .controlFlitReceive n flit tRx => Sys2Proof.Machine.execControlFlitReceive n flit tRx s
  | .dataSlot n slot => Sys2Proof.Machine.execDataSlot n slot s
  | .laneFailure n lane => Sys2Proof.Machine.execLaneFailure n lane s
  | .fastRetrainComplete n working => Sys2Proof.Machine.execFastRetrainComplete n working s
  | .fullTrainingComplete n working => Sys2Proof.Machine.execFullTrainingComplete n working s
  | .ident n => Sys2Proof.Machine.execIdent n s
  | .arrive n => Sys2Proof.Machine.execArrive n s
  | .release n => Sys2Proof.Machine.execRelease n s
  | .channelReleaseReached p ch => Sys2Proof.Machine.execChannelReleaseReached p ch s
  | .fault n => Sys2Proof.Machine.execFault n s
  | .channelTimeout p ch => Sys2Proof.Machine.execChannelTimeout p ch s
  | .drainArrive p => Sys2Proof.Machine.execDrainArrive p s
  | .coll n vc => Sys2Proof.Machine.execColl n vc s
  | .abort n vc => Sys2Proof.Machine.execAbort n vc s
  | .write n vc => Sys2Proof.Machine.execWrite n vc s
  | .read n vc => Sys2Proof.Machine.execRead n vc s
  | .resp n vc => Sys2Proof.Machine.execResp n vc s
  | .ringpassStep p j => Sys2Proof.Machine.execRingpassStep p j s
  | .collectiveResolve p j => Sys2Proof.Machine.execCollectiveResolve p j s
  | .ftcRateAdjust => Sys2Proof.Machine.execFtcRateAdjust s
  | .ftcLockLoss => Sys2Proof.Machine.execFtcLockLoss s
  | .ftcPpsEdge at1 => Sys2Proof.Machine.execFtcPpsEdge at1 s
  | .mailboxPickup p => Sys2Proof.Machine.execMailboxPickup p s
  | .mailboxBusyWrite p j w v => Sys2Proof.Machine.execMailboxBusyWrite p j w v s
  | .identity k => Sys2Proof.Machine.execIdentity k s
  | .stageOpen k => Sys2Proof.Machine.execStageOpen k s
  | .stageWrite k => Sys2Proof.Machine.execStageWrite k s
  | .stageCheck k => Sys2Proof.Machine.execStageCheck k s
  | .stageCommit k => Sys2Proof.Machine.execStageCommit k s
  | .stageAbort k => Sys2Proof.Machine.execStageAbort k s
  | .commitInstant scope => Sys2Proof.Machine.execCommitInstant scope s
  | .stageSetLapse scope => Sys2Proof.Machine.execStageSetLapse scope s
  | .pageMap k => Sys2Proof.Machine.execPageMap k s
  | .pageUnmap k => Sys2Proof.Machine.execPageUnmap k s
  | .pageAttr k => Sys2Proof.Machine.execPageAttr k s
  | .poolQuery k => Sys2Proof.Machine.execPoolQuery k s
  | .sliceFormPrepare k => Sys2Proof.Machine.execSliceFormPrepare k s
  | .sliceFormCommit k => Sys2Proof.Machine.execSliceFormCommit k s
  | .sliceFormCancel k => Sys2Proof.Machine.execSliceFormCancel k s
  | .formationInstant p => Sys2Proof.Machine.execFormationInstant p s
  | .formationRelease p => Sys2Proof.Machine.execFormationRelease p s
  | .formationTimeout p => Sys2Proof.Machine.execFormationTimeout p s
  | .preparationLapse p => Sys2Proof.Machine.execPreparationLapse p s
  | .sliceDissolve k => Sys2Proof.Machine.execSliceDissolve k s
  | .dissolutionInstant p => Sys2Proof.Machine.execDissolutionInstant p s
  | .draw k => Sys2Proof.Machine.execDraw k s
  | .portTrain k => Sys2Proof.Machine.execPortTrain k s
  | .attest k => Sys2Proof.Machine.execAttest k s
  | .signed k => Sys2Proof.Machine.execSigned k s
  | .keyRotation k => Sys2Proof.Machine.execKeyRotation k s
  | .fwInstall k => Sys2Proof.Machine.execFwInstall k s
  | .auditRead k => Sys2Proof.Machine.execAuditRead k s
  | .diagOpen k => Sys2Proof.Machine.execDiagOpen k s
  | .diagExpiry => Sys2Proof.Machine.execDiagExpiry s
  | .fuseProgram k => Sys2Proof.Machine.execFuseProgram k s
  | .telRead k => Sys2Proof.Machine.execTelRead k s
  | .mgtDatagram data src port dst dport udp => Sys2Proof.Machine.execMgtDatagram data src port s dst dport udp
  | .heartbeat corrected => Sys2Proof.Machine.execHeartbeat s corrected
  | .auditSeal => Sys2Proof.Machine.execAuditSeal s
  | .watchdogExpiry => Sys2Proof.Machine.execWatchdogExpiry s
  | .maltsterRestart => Sys2Proof.Machine.execMaltsterRestart s
  | .boot => Sys2Proof.Machine.execBoot s
  | .recoveryDatagram data src port dst => Sys2Proof.Machine.execRecoveryDatagram data src s port dst
  | .modResetAssert => Sys2Proof.Machine.execModResetAssert s
  | .modResetRelease => Sys2Proof.Machine.execModResetRelease s
  | .standbyRestore => Sys2Proof.Machine.execStandbyRestore s
  | .standbyLoss => Sys2Proof.Machine.execStandbyLoss s
  | .inputFault level => Sys2Proof.Machine.execInputFault level s
  | .sensorSample temps => Sys2Proof.Machine.execSensorSample temps s
  | .thermalTrip n temp => Sys2Proof.Machine.execThermalTrip n temp s
  | .thermalLoopStep => Sys2Proof.Machine.execThermalLoopStep s
  | .capLoopStep watts centivolts centiamps => Sys2Proof.Machine.execCapLoopStep watts centivolts centiamps s
  | .rowAdmissionStep watts centivolts centiamps => Sys2Proof.Machine.execRowAdmissionStep watts centivolts centiamps s
  | .currentLimit watts centivolts centiamps => Sys2Proof.Machine.execCurrentLimit watts centivolts centiamps s
  | .clockStep => Sys2Proof.Machine.execClockStep s
  | .powerGateEntry x => Sys2Proof.Machine.execPowerGateEntry x s
  | .unitWake x => Sys2Proof.Machine.execUnitWake x s
  | .backgroundForced b left => Sys2Proof.Machine.execBackgroundForced b s left
  | .wearSave => Sys2Proof.Machine.execWearSave s
  | .traceEntry e => Sys2Proof.Machine.execTraceEntry e s
  | .traceEnable p v => Sys2Proof.Machine.execTraceEnable p v s
  | .svcRingEnable p q recv v => Sys2Proof.Machine.execSvcRingEnable p q recv v s
  | .svcRingDisable p q recv v => Sys2Proof.Machine.execSvcRingDisable p q recv v s
  | .send p q => Sys2Proof.Machine.execSend p q s
  | .sendWithImmediate p q => Sys2Proof.Machine.execSendWithImmediate p q s
  | .rdmaWrite p q => Sys2Proof.Machine.execRdmaWrite p q s
  | .rdmaWriteWithImmediate p q => Sys2Proof.Machine.execRdmaWriteWithImmediate p q s
  | .rdmaRead p q => Sys2Proof.Machine.execRdmaRead p q s
  | .udp p q => Sys2Proof.Machine.execUdp p q s
  | .workEntryComplete p q j res => Sys2Proof.Machine.execWorkEntryComplete p q j res s
  | .servicePacketReceive q m => Sys2Proof.Machine.execServicePacketReceive q m s
  | .fruRead off count => Sys2Proof.Machine.execFruRead off count s
  | .bypass => Sys2Proof.Machine.execBypass s
  | .idcode => Sys2Proof.Machine.execIdcode s
  | .samplePreload pins load => Sys2Proof.Machine.execSamplePreload pins load s
  | .extest drive => Sys2Proof.Machine.execExtest drive s
  | .clamp => Sys2Proof.Machine.execClamp s
  | .highz => Sys2Proof.Machine.execHighz s
  | .partnerFirstSignal n => Sys2Proof.Machine.execPartnerFirstSignal n s
  | .replicaCheckComplete p => Sys2Proof.Machine.execReplicaCheckComplete p s
  | .hostAccess p a width store found row => Sys2Proof.Machine.execHostAccess p a width store s found row
  | .registerReadClear who a => Sys2Proof.Machine.execRegisterReadClear who a s
  | .pageAgeSample => Sys2Proof.Machine.execPageAgeSample s
  | .mgtLinkChange link fec routerPrefix => Sys2Proof.Machine.execMgtLinkChange link fec routerPrefix s

end Sys2Proof.Machine
end

