-- ==== Sys2Proof/Safety.lean ====
section
/-! DEFINITION. The terms statements use: when a cluster can issue the word at its PC, what the sequencer owns, what counts as a
sound audit log and fuse array. -/

namespace Sys2Proof.Machine

/-! Issuing -/

/-- The core rails are on, and the sequencer of cluster c, of partition p and awake, takes the word w at its PC: its wen wait is
covered, its opcode is one of Table 2.9, and its unused fields are zero (R26, R33, R59). -/
def issuing (s : State) (p c w : Nat) : Bool :=
  s.dev.powerGood && canIssue s.dev c && !asleep s.dev c && partOf s.dev c == some p && fetchWord s.dev c == w &&
  (!wWen w || decide (1 ≤ getF s.dev (F.mcEvt_count c (wWevt w)))) && opcodeKnown (wOp w) && !unusedNonzero w

/-- The module as an instruction leaves it, before the sequencer goes on. -/
def End.dev : End → Dev
  | .done d => d
  | .jump d _ _ => d
  | .queued d => d
  | .hold d _ => d
  | .halted d => d

/-- The fields that the sequencer of cluster c itself changes as an instruction leaves it: PC, status, the stop request, the
fault record, the interrupt bits and the event counters. -/
def sequencerOwn (c : Nat) (k : FKey) : Bool :=
  match k.reg with
  | .mcSeqPc i | .mcSeqStatus i | .mcSeqCtrl i | .mcSeqFault i | .mcSeqIrq i | .mcEvt i _ => i == c
  | _ => false

/-! The security store -/

/-- No bit of a is lost in b: a fuse once blown stays blown (R333). -/
def keepsBits {n : Nat} (a b : BitVec n) : Bool := a &&& b == a

/-- Every fuse blown in f is blown in g (R333). -/
def Fuses.le (f g : Fuses) : Bool :=
  keepsBits f.makerHash g.makerHash && (List.range 4).all (fun i => keepsBits (f.instHash.getD i 0) (g.instHash.getD i 0)) &&
  keepsBits f.instValid g.instValid && keepsBits f.idSecret g.idSecret && keepsBits f.rollback g.rollback &&
  keepsBits f.debugLock g.debugLock && keepsBits f.rights g.rights && (!f.mfgClosed || g.mfgClosed)

/-- The retained audit entries, newest first, run in sequence up to the one before next, each of 128 bytes whose last 32 are the chain
value of R344: SM3 over the chain value before it and its first 96 bytes, the value before entry 1 being zeros. -/
def chained (next : Nat) : List (Nat × List Byte) → Prop
  | [] => True
  | (k, e) :: r =>
    k + 1 = next ∧ 1 ≤ k ∧ e.length = 128 ∧ chained k r ∧
    match r with
    | (_, b) :: _ => e.drop 96 = sm3 (b.drop 96 ++ e.take 96)
    | [] => k = 1 → e.drop 96 = sm3 (List.replicate 32 0 ++ e.take 96)

/-- The audit log is sound: its entries are chained and its next sequence number is 1 or more (R344). -/
def auditSound (s : Sec) : Prop := 1 ≤ s.next ∧ chained s.next s.log

end Sys2Proof.Machine
end

