-- ==== Sys2Proof/Certificates/Slice0/Obligations.lean ====
section
/-! DEFINITION. The statements about the model, for the provers. A command's completion is an equation for the state exec answers, or
names what the state it answers holds; the queue of waiting commands and the security store are unchanged wherever an
equation changes only dev. -/

open Sys2Proof Sys2Proof.Machine

/-! ## The block and its registers -/

/-- A step takes the command at the front of the queue and runs it with the rest of the queue waiting (log entry 2). -/
def Obligations.StepRunsFrontCommand : Prop :=
  ∀ (s : State) (c : Instr) (r : List Instr), s.pending = c :: r → step s = exec c { s with pending := r }

/-- The time counter. Log entry 2 (DESIGN CHOICE): with no command waiting a step lets one FTC tick of 0.5 ns pass while the rails are on;
only the FTC, its rate correction and the counters of ticks change: TEL_ACTIVE, TEL_IDLE and PWR_THROT. R271: after 64 offsets a module
that is not the root clears the sum, lets its rate remove the mean, steps forward by the mean's whole ticks when unlocked and in no slice,
and is locked just when the mean lies within 8/64 tick. R272: lock is lost. R273, R379: an edge of FTC_PPS that finds the root aligned
locks it; an unlocked root in no slice steps forward to the edge's value before that, any other slews; after the first aligned edge one
more than 1 µs off is ignored, and the eighth in a row ends the lock; other modules ignore edges. -/
def Obligations.TimeCounter : Prop :=
  (∀ s : State, s.pending = [] → ∃ t, step s = .next t ∧
    t = { s with dev := { s.dev with f := t.dev.f, slew := t.dev.slew, frac := t.dev.frac } } ∧
    (s.dev.powerGood = true → (∃ n ≤ 2, getF t.dev F.fabFtc_ftc = (getF s.dev F.fabFtc_ftc + n) % 2 ^ 64) ∧
      (s.dev.slew = 0 → 0 ≤ s.dev.frac → s.dev.frac < slewTick →
        getF t.dev F.fabFtc_ftc = (getF s.dev F.fabFtc_ftc + 1) % 2 ^ 64 ∧ t.dev.slew = 0 ∧ t.dev.frac = s.dev.frac) ∧
      t.dev.slew = s.dev.slew - max (-4096) (min 4096 s.dev.slew)) ∧
    (s.dev.powerGood = false → t = s) ∧
    ∀ k : FKey, (match k.reg with | .fabFtc | .telActive _ | .telIdle _ _ | .pwrThrot _ => False | _ => True) →
      getF t.dev k = getF s.dev k) ∧
  (∀ s : State, s.dev.powerGood = true →
    let d := s.dev
    let sum := d.offSum
    let n : Int := d.offCount
    let noted (left : Int) : Dev := { setF d F.fabFtcStat_offset (unsigned 16 (max (-32768) (min 32767 (sum.tdiv n)))) with
      offSum := 0, offCount := 0, slew := left * 640000 / n }
    let whole := sum / (64 * n)
    let due : Prop := flag d F.fabFtcCfg_root = false ∧ 64 ≤ d.offCount ∧ getF d F.fabFtcStat_parent ≠ 0xF
    (due → -8 * n ≤ sum → sum ≤ 8 * n → exec .ftcRateAdjust s = .next { s with dev := setF (noted sum) F.fabFtcStat_locked 1 }) ∧
    (due → sum < -8 * n ∨ 8 * n < sum → ∃ t, exec .ftcRateAdjust s = .next t ∧ getF t.dev F.fabFtcStat_locked = 0 ∧ t.dev.offCount = 0 ∧
      t.dev.offSum = 0 ∧ t.dev.mem = d.mem ∧
      (flag d F.fabFtcStat_locked = true ∨ inAnySlice d = true ∨ sum < 64 * n →
        getF t.dev F.fabFtc_ftc = getF d F.fabFtc_ftc ∧ t.dev.slew = sum * 640000 / n) ∧
      (flag d F.fabFtcStat_locked = false → inAnySlice d = false → 64 * n ≤ sum →
        getF t.dev F.fabFtc_ftc = min (2 ^ 64 - 1) (getF d F.fabFtc_ftc + whole.toNat) ∧
        t.dev.slew = (sum - 64 * n * whole) * 640000 / n)) ∧
    (¬due → exec .ftcRateAdjust s = .next s) ∧
    (flag d F.fabFtcStat_locked = true → ∃ t, exec .ftcLockLoss s = .next t ∧ getF t.dev F.fabFtcStat_locked = 0 ∧
      t.dev.offCount = 0 ∧ getF t.dev F.fabFtc_ftc = getF d F.fabFtc_ftc ∧ t.dev.mem = d.mem) ∧
    (flag d F.fabFtcStat_locked = false → exec .ftcLockLoss s = .next s)) ∧
  (∀ (s : State) (at1 : Word), s.dev.powerGood = true → getF s.dev F.fabFtc_ftc ≤ at1.toNat →
    let d := s.dev
    let second := 2000000000
    let behind := (getF d F.fabFtcCfg_pps_offset % second + second - at1.toNat % second) % second
    let err : Int := if 2 * behind ≤ second then behind else (behind : Int) - second
    let far : Prop := d.ppsRef.isSome = true ∧ (err < -2000 ∨ 2000 < err)
    let follows : Prop := flag d F.fabFtcCfg_root = true ∧ flag d F.fabFtcCfg_pps_en = true
    ∃ t, exec (.ftcPpsEdge at1) s = .next t ∧ t.dev.mem = d.mem ∧
      (¬follows → getF t.dev F.fabFtc_ftc = at1.toNat ∧ getF t.dev F.fabFtcStat_locked = getF d F.fabFtcStat_locked ∧ t.dev.ppsRef = d.ppsRef) ∧
      (follows → behind = 0 → getF t.dev F.fabFtc_ftc = at1.toNat ∧ getF t.dev F.fabFtcStat_locked = 1 ∧
        t.dev.ppsRef = some at1.toNat ∧ t.dev.ppsIgnored = 0 ∧ t.dev.slew = 0) ∧
      (follows → behind ≠ 0 → ¬far → flag d F.fabFtcStat_locked = false → inAnySlice d = false →
        getF t.dev F.fabFtc_ftc = min (2 ^ 64 - 1) (at1.toNat + behind) ∧ getF t.dev F.fabFtcStat_locked = 0) ∧
      (follows → behind ≠ 0 → ¬far → flag d F.fabFtcStat_locked = true ∨ inAnySlice d = true →
        getF t.dev F.fabFtc_ftc = at1.toNat ∧ t.dev.slew = err * slewTick ∧
        getF t.dev F.fabFtcStat_locked = getF d F.fabFtcStat_locked) ∧
      (follows → far → d.ppsIgnored < 7 → getF t.dev F.fabFtc_ftc = at1.toNat ∧ t.dev.ppsIgnored = d.ppsIgnored + 1 ∧
        getF t.dev F.fabFtcStat_locked = getF d F.fabFtcStat_locked) ∧
      (follows → far → 7 ≤ d.ppsIgnored → getF t.dev F.fabFtc_ftc = at1.toNat ∧ t.dev.ppsIgnored = 0 ∧ t.dev.ppsRef = none ∧
        getF t.dev F.fabFtcStat_locked = 0))

/-- A field reads as last set, cut to its width (R3), and setting one changes no other; a byte of memory reads as last written, no
other byte changes, and the canonical form is kept. -/
def Obligations.RegistersAndMemoryHold : Prop :=
  (∀ (d : Dev) (k j : FKey) (v : Nat), getF (setF d k v) k = v % 2 ^ k.width ∧ (k ≠ j → getF (setF d k v) j = getF d j)) ∧
  (∀ (m : List Host.Cell) (a j : Nat) (b : Byte), Memory.wf m = true →
     Memory.wf (memPut m a b) = true ∧ memGet (memPut m a b) a = b ∧ (j ≠ a → memGet (memPut m a b) j = memGet m j))

/-- R11: right after reset every field holds its reset value; no memory byte but reads zero (the contents of memory are log entry 4's
choice), no page is mapped, no cluster, collective, channel, kiln job, sweep, mover entry, snapshot, work entry or mailbox command is under
way, and the audit log is empty and sound. -/
def Obligations.ResetValues : Prop :=
  (∀ k : FKey, getF State.reset.dev k = k.reset) ∧ (∀ a, memGet State.reset.dev.mem a = 0) ∧
  State.reset.pending = [] ∧ State.reset.dev.pages = [] ∧ State.reset.dev.cl = [] ∧ State.reset.dev.colls = [] ∧ State.reset.dev.chans = [] ∧
  State.reset.dev.kjobs = [] ∧ State.reset.dev.sweeps = [] ∧ State.reset.dev.rack = [] ∧ State.reset.dev.mover = [] ∧
  State.reset.dev.moves = [] ∧ State.reset.dev.snaps = [] ∧ State.reset.dev.svc = [] ∧ State.reset.dev.picked = [] ∧
  State.reset.dev.sets = [] ∧ State.reset.dev.held = [] ∧ State.reset.sec.log = [] ∧
  Memory.wf State.reset.dev.mem = true ∧ auditSound State.reset.sec

/-! ## The sequencer -/

/-- What an instruction that leaves the sequencer does beside its own effect: it changes only the sequencer's own fields (PC,
status, fault record, interrupt bits, event counters), the cluster's records, local barriers and interrupt messages, and in REFERENCE mode
notes the placement of a reduction (R131); a wen wait takes 1 of its counter and nothing else (R33). An instruction that completes at
issue outside loops, not the last of the program: PC goes up by 1, the sequencer is RUNNING, and sen adds 1 to sevt (R29, R33, Table 2.1).
At the end of a loop's body issue goes back to its first instruction while iterations are left, and on past it when none is (Table 2.13
LOOP). Past the last instruction PC stays and the sequencer faults with PC_RANGE once earlier work is done (R59). -/
def Obligations.IssueAdvances : Prop :=
  ((∀ (c w : Nat) (x : End),
      (∃ (f : Tab FKey Nat) (cl : Tab Nat Cluster) (bars : Tab (Nat × Nat) LocalBarrier) (ms : List Msi) (pl : Tab Nat (List Placement)),
        finishRun c w x = { x.dev with f := f, cl := cl, bars := bars, msis := ms, placed := pl }) ∧
      ((∀ e, x ≠ .queued e) ∨ reduces w = false → (finishRun c w x).placed = x.dev.placed) ∧
      ∀ k : FKey, sequencerOwn c k = false → getF (finishRun c w x) k = getF x.dev k) ∧
   (∀ (d : Dev) (c w p : Nat), partOf d c = some p → isRef d p = true → reduces w = true →
      Tab.get? (finishRun c w (.queued d)).placed p = some ((Tab.get? d.placed p).getD [] ++ [⟨c, pcOf d c, w⟩])) ∧
   (∀ (d : Dev) (c w : Nat) (k : FKey), getF d (F.mcEvt_count c (wWevt w)) ≤ 65535 →
      takeWen d c w = { d with f := (takeWen d c w).f } ∧
      getF (takeWen d c w) k =
        if wWen w = true ∧ k = F.mcEvt_count c (wWevt w) then getF d (F.mcEvt_count c (wWevt w)) - 1 else getF d k)) ∧
  ((∀ (d : Dev) (c w : Nat), (clusterOf d c).loops = [] → (clusterOf d c).waiting = none → (clusterOf d c).pend = none →
      pcOf d c + 1 < getF d (F.mcSeqLen_len c) → getF d (F.mcSeqLen_len c) ≤ 2 ^ 22 →
      pcOf (finishRun c w (.done d)) c = pcOf d c + 1 ∧ seqState (finishRun c w (.done d)) c = 1 ∧
      (wSen w = true → getF d (F.mcEvt_count c (wSevt w)) < 65535 →
        getF (finishRun c w (.done d)) (F.mcEvt_count c (wSevt w)) = getF d (F.mcEvt_count c (wSevt w)) + 1)) ∧
   (∀ (npc : Nat) (l : LoopRec) (r : List LoopRec), l.stop = npc →
      (1 < l.left → loopNext npc (l :: r) = (l.first, { l with left := l.left - 1 } :: r)) ∧
      (l.left ≤ 1 → loopNext npc (l :: r) = loopNext npc r)) ∧
   (∀ (d : Dev) (c w : Nat), (clusterOf d c).waiting = none → (clusterOf d c).pend = none → getF d (F.mcSeqLen_len c) ≤ 2 ^ 22 →
      let next := loopNext (pcOf d c + 1) (clusterOf d c).loops
      let t := finishRun c w (.done d)
      (next.1 < getF d (F.mcSeqLen_len c) → pcOf t c = next.1 ∧ (clusterOf t c).loops = next.2) ∧
      (1 ≤ getF d (F.mcSeqLen_len c) → getF d (F.mcSeqLen_len c) ≤ next.1 → pcOf t c = getF d (F.mcSeqLen_len c) - 1 ∧
        (drained d c = false → (clusterOf t c).pend = some ⟨cPcRange, getF d (F.mcSeqLen_len c) - 1, false⟩) ∧
        (drained d c = true → flag d (F.mcLend_enable c) = false → seqState t c = 5 ∧ getF t (F.mcSeqFault_cause c) = cPcRange ∧
          getF t (F.mcSeqFault_pc c) = getF d (F.mcSeqLen_len c) - 1))))

/-- R59: the first check of Table 2.23 that an instruction fails stops it before any effect, its wen wait unconsumed: a reserved
opcode is OPCODE, a nonzero unused field RESERVED_BIT, then the instruction's own checks, BANK_OWNER naming the banks that are not open
(R217). With no earlier work left the sequencer enters FAULTED (LENT where the cluster lends itself whole) with the cause and the PC; while
earlier work is left the fault waits for it; no register outside the sequencer's own changes, and memory does not. -/
def Obligations.CheckedInstructionFaults : Prop :=
  ∀ (go : Nat → Nat → Nat → Dev → Plan) (d : Dev) (p c w k : Nat), partOf d c = some p →
    (wWen w = true → 1 ≤ getF d (F.mcEvt_count c (wWevt w))) →
    let x := go p c w (takeWen d c w)
    (opcodeKnown (wOp w) = false → issueWord go d c w = finishIssue d c w (.fault cOpcode [])) ∧
    (opcodeKnown (wOp w) = true → unusedNonzero w = true → issueWord go d c w = finishIssue d c w (.fault cReserved [])) ∧
    (opcodeKnown (wOp w) = true → unusedNonzero w = false → x.checks.find? (fun y => y.1) = some (true, k) →
      issueWord go d c w = finishIssue d c w
        (.fault k (if k = cBankOwner then x.banks.filter (fun b => !bankOpen (takeWen d c w) b.1 b.2) else []))) ∧
    ((clusterOf d c).pend = none → (clusterOf d c).waiting = none → drained d c = false →
      finishIssue d c w (.fault k []) = setPend d c k (pcOf d c) false) ∧
    ((clusterOf d c).pend = none → drained d c = true → k < 256 → pcOf d c < 2 ^ 22 →
      let t := finishIssue d c w (.fault k [])
      getF t (F.mcSeqFault_cause c) = k ∧ getF t (F.mcSeqFault_pc c) = pcOf d c ∧ getF t (F.mcSeqFault_deferred c) = 0 ∧
      getF t (F.mcSeqIrq_fault c) = 1 ∧ (flag d (F.mcLend_enable c) = false → seqState t c = 5) ∧
      (flag d (F.mcLend_enable c) = true → flag d (F.mcLend_lend_all c) = true → seqState t c = 6 ∧ (clusterOf t c).restState = 5) ∧
      t.mem = d.mem ∧ ∀ j : FKey, sequencerOwn c j = false → getF t j = getF d j)

/-- NOP, GSET, GADD and GLD (Table 2.13): each writes only its general register; for GSET the whole frame: G[gd] is imm64, and every
register outside the sequencer's own, every byte of memory, accumulator, window and page is as before. TDLD, TDBASE, TDADD and
TDSHAPE (Table 2.18): each writes only its descriptor register. -/
def Obligations.RegisterInstructions : Prop :=
  ((∀ (s : State) (p : Nat) (c : ClusterId) (w : Nat), issuing s p c w = true →
      let e := takeWen s.dev c w
      (wOp w = 0x00 → exec (.nop c) s = .next { s with dev := finishRun c w (.done e) }) ∧
      (wOp w = 0x04 → exec (.gset c) s =
        .next { s with dev := finishRun c w (.done (setF e (F.mcG_value c (wGd w)) (wImm w))) }) ∧
      (wOp w = 0x05 → exec (.gadd c) s =
        .next { s with dev := finishRun c w (.done (setF e (F.mcG_value c (wGd w)) (getF e (F.mcG_value c (wGa w)) + wImm w))) }) ∧
      (wOp w = 0x06 → wImm w % 8 = 0 → wImm w + 8 ≤ 0x4000000 → bankOpen e c (wImm w / 0x200000) = true →
        exec (.gld c) s = .next { s with dev := finishRun c w (.done (setF e (F.mcG_value c (wGd w)) (spadNat e c (wImm w) 8))) })) ∧
   (∀ (s : State) (p : Nat) (c : ClusterId) (w : Nat), issuing s p c w = true → wOp w = 0x04 →
      ∃ t, exec (.gset c) s = .next t ∧ getF t.dev (F.mcG_value c (wGd w)) = wImm w ∧
        (∀ k, sequencerOwn c k = false → k ≠ F.mcG_value c (wGd w) → getF t.dev k = getF s.dev k) ∧
        t.dev.mem = s.dev.mem ∧ t.dev.acc = s.dev.acc ∧ t.dev.wins = s.dev.wins ∧ t.dev.pages = s.dev.pages ∧
        t.sec = s.sec ∧ t.pending = s.pending)) ∧
  (∀ (s : State) (p : Nat) (c : ClusterId) (w : Nat), issuing s p c w = true →
     let e := takeWen s.dev c w
     let v := (wImm w + (if bitOf w 30 then getF e (F.mcG_value c (bits w 29 26)) else 0)) % 2 ^ 64
     let n := wTa w
     (wOp w = 0x20 → v % 32 = 0 → v + 32 ≤ 0x4000000 → bankOpen e c (v / 0x200000) = true →
       exec (.tdld c) s = .next { s with dev := finishRun c w (.done (loadDesc e c n (spadNat e c v 8) (spadNat e c (v + 8) 8)
         (spadNat e c (v + 16) 8) (spadNat e c (v + 24) 8))) }) ∧
     (wOp w = 0x21 → v < 2 ^ 48 → exec (.tdbase c) s = .next { s with dev := finishRun c w (.done (setF e (F.mcTdesc0_base c n) v)) }) ∧
     (wOp w = 0x22 → exec (.tdadd c) s =
       .next { s with dev := finishRun c w (.done (setF e (F.mcTdesc0_base c n) (getF e (F.mcTdesc0_base c n) + v))) }) ∧
     (wOp w = 0x23 → v < 2 ^ 32 → exec (.tdshape c) s = .next { s with dev := finishRun c w (.done
       (setF (setF e (F.mcTdesc1_rows c n) (v % 2 ^ 16)) (F.mcTdesc1_cols c n) (v / 2 ^ 16))) }))

/-- BR (Table 2.13): on its condition PC goes to PC + imm64 within the program and no active loop's body is left; else issue goes on
in sequence. LOOP: the body runs Ga times, or is passed over for Ga = 0. -/
def Obligations.BranchAndLoop : Prop :=
  ∀ (s : State) (p : Nat) (c : ClusterId) (w : Nat), issuing s p c w = true →
    let e := takeWen s.dev c w
    let a := getF e (F.mcG_value c (wGa w))
    let b := getF e (F.mcG_value c (wGb w))
    let t : Int := (pcOf e c : Int) + signed 64 (wImm w)
    let holds : Prop := wSub w = 0 ∨ (wSub w = 1 ∧ a = 0) ∨ (wSub w = 2 ∧ a ≠ 0) ∨ (wSub w = 3 ∧ bitOf a 63 = true) ∨
      (wSub w = 4 ∧ bitOf a 63 = false) ∨ (wSub w = 5 ∧ a = b) ∨ (wSub w = 6 ∧ a ≠ b)
    (wOp w = 0x02 → holds → 0 ≤ t → t < getF e (F.mcSeqLen_len c) →
      (∀ l ∈ (clusterOf e c).loops, l.first ≤ pcOf e c → pcOf e c < l.stop → (l.first : Int) ≤ t ∧ t < l.stop) →
      exec (.br c) s = .next { s with dev := finishRun c w (.jump e t.toNat true) }) ∧
    (wOp w = 0x02 → wSub w ≤ 6 → ¬holds → exec (.br c) s = .next { s with dev := finishRun c w (.done e) }) ∧
    (wOp w = 0x03 → 1 ≤ wImm w % 2 ^ 16 → wImm w % 2 ^ 16 ≤ 4096 → (clusterOf e c).loops.length < 4 →
      exec (.loop c) s = .next { s with dev := finishRun c w (
        if a = 0 then .jump e (pcOf e c + 1 + wImm w % 2 ^ 16) false
        else .done (setLoops e c (⟨pcOf e c + 1, pcOf e c + 1 + wImm w % 2 ^ 16, a⟩ :: (clusterOf e c).loops))) })

/-- ANSET, EVADD, EVPOST (Tables 2.13, 2.19): ANSET sets a slot to ea = eb = -2048 and logk = ceil(log2 imm64), every flag of it
clear; EVADD adds to or sets a counter; EVPOST posts to a cluster of its partition and faults on any other number (R50). -/
def Obligations.AnchorAndEventInstructions : Prop :=
  ∀ (s : State) (p : Nat) (c : ClusterId) (w : Nat), issuing s p c w = true →
    let e := takeWen s.dev c w
    let k := wImm w % 2 ^ 16
    (wOp w = 0x07 → 1 ≤ wImm w → wImm w ≤ 2 ^ 48 → interlocked e c [] false [wE w] = false →
      ∃ t, exec (.anset c) s = .next { s with dev := finishRun c w (.done t) } ∧ t = { e with f := t.f } ∧
        getF t (F.mcAnchor_ea c (wE w)) = unsigned 12 (-2048) ∧ getF t (F.mcAnchor_eb c (wE w)) = unsigned 12 (-2048) ∧
        2 ^ getF t (F.mcAnchor_logk c (wE w)) < 2 * wImm w ∧ wImm w ≤ 2 ^ getF t (F.mcAnchor_logk c (wE w)) ∧
        getF t (F.mcAnchor_ea_set c (wE w)) = 0 ∧ getF t (F.mcAnchor_eb_set c (wE w)) = 0 ∧
        getF t (F.mcAnchor_reduced c (wE w)) = 0 ∧ ∀ j : FKey, j.reg ≠ .mcAnchor c (wE w) → getF t j = getF e j) ∧
    (wOp w = 0x09 → wSub w = 0 → getF e (F.mcEvt_count c (wE w)) + k ≤ 65535 →
      exec (.evadd c) s =
        .next { s with dev := finishRun c w (.done (setF e (F.mcEvt_count c (wE w)) (getF e (F.mcEvt_count c (wE w)) + k))) }) ∧
    (wOp w = 0x09 → wSub w = 1 →
      exec (.evadd c) s = .next { s with dev := finishRun c w (.done (setF e (F.mcEvt_count c (wE w)) k)) }) ∧
    (wOp w = 0x0A → wMisc w ≤ 27 → ownsCluster e p (wMisc w) = true →
      exec (.evpost c) s = .next { s with dev := finishRun c w (.done
        (modCluster e (wMisc w) (fun x => { x with posts := x.posts ++ [(wE w, k)] }))) }) ∧
    (wOp w = 0x0A → 27 < wMisc w ∨ ownsCluster e p (wMisc w) = false →
      exec (.evpost c) s = .next { s with dev := finishIssue s.dev c w (.fault cForeign []) })

/-- R49: an addition that would pass 65,535 leaves the counter at 65,535 and sets evt_ovf and its interrupt bit. R49, R50: the additions
posted to a cluster arrive together, each counter saturating at 65,535, and none is left to arrive. R51: local barriers. -/
def Obligations.PostsAndBarriers : Prop :=
  ((∀ (d : Dev) (c e k : Nat), c < 28 → e < 16 → 65535 < getF d (F.mcEvt_count c e) + k →
      getF (evAdd d c e k) (F.mcEvt_count c e) = 65535 ∧ getF (evAdd d c e k) (F.mcSeqStatus_evt_ovf c) = 1 ∧
      getF (evAdd d c e k) (F.mcSeqIrq_evt_ovf c) = 1 ∧ (evAdd d c e k).mem = d.mem) ∧
   (∀ (s : State) (c : ClusterId), s.dev.powerGood = true → (∀ e < 16, getF s.dev (F.mcEvt_count c e) ≤ 65535) →
      ∃ t, exec (.eventCounterChange c) s = .next t ∧ (clusterOf t.dev c).posts = [] ∧
        (∀ e < 16, getF t.dev (F.mcEvt_count c e) =
          min 65535 (getF s.dev (F.mcEvt_count c e) + (((clusterOf s.dev c).posts.filter (fun x => x.1 == e)).map Prod.snd).sum)) ∧
        (∀ k : FKey, sequencerOwn c k = false → getF t.dev k = getF s.dev k) ∧ t.dev.mem = s.dev.mem ∧ t.sec = s.sec)) ∧
  (∀ (s : State) (p : Nat) (c : ClusterId) (w : Nat),
     let e := takeWen s.dev c w
     let b := bits w 43 40
     let joined (m : Nat) : LocalBarrier := (Tab.get? e.bars (p, b)).getD ⟨m, []⟩
     let joins (m : Nat) : Dev := { e with bars := Tab.put e.bars (p, b) ⟨m, (joined m).arrived ++ [c.val]⟩ }
     (issuing s p c w = true → wOp w = 0x0B → wSub w = 0 → bitOf (wImm w % 2 ^ 28) c = true →
       (joined (wImm w % 2 ^ 28)).mask = wImm w % 2 ^ 28 →
       exec (.barClusterSet c) s = .next { s with dev := finishRun c w (.hold (joins (wImm w % 2 ^ 28)) (.barrier b)) }) ∧
     (issuing s p c w = true → wOp w = 0x0B → wSub w = 1 → (joined (getF e (F.hostPcfg_clusters p))).mask = getF e (F.hostPcfg_clusters p) →
       exec (.barPartition c) s =
         .next { s with dev := finishRun c w (.hold (joins (getF e (F.hostPcfg_clusters p))) (.barrier b)) }) ∧
     (∀ (q : PartId) (n : Fin 16) (x : LocalBarrier), s.dev.powerGood = true → Tab.get? s.dev.bars (q.val, n.val) = some x →
       (∀ k < 28, bitOf x.mask k = true → k ∈ x.arrived) →
       let freed : Dev := { s.dev with bars := Tab.erase s.dev.bars (q.val, n.val) }
       exec (.localBarrierComplete q n) s = .next { s with dev := x.arrived.foldl (fun d k => settle (endWait d k) k) freed }))

/-- Waits (R33, R49, R53, Table 2.13): EVWAIT, FTCWAIT, DWQFLUSH and FENCE pass at once when their condition holds, else hold the
sequencer until it does. A waiting EVWAIT passes once its counter covers it; an instruction of any opcode that its wen wait blocks then
issues as its word says; a waiting FTCWAIT passes at its target, at which the FTC then stands at least, the ticks until then counted. The
last deferred entry to run ends the wait of a DWQFLUSH, and the last operation to complete that of a FENCE; until then both go on waiting. -/
def Obligations.Waits : Prop :=
  (∀ (s : State) (p : Nat) (c : ClusterId) (w : Nat), issuing s p c w = true →
     let e := takeWen s.dev c w
     let k := wImm w % 2 ^ 16
     let n := getF e (F.mcEvt_count c (wE w))
     let target := (getF e (F.mcG_value c (wGa w)) + wImm w) % 2 ^ 64
     let idle : Prop := (clusterOf e c).jobs = [] ∧ (bitOf w 32 = true → (clusterOf e c).dwq = [])
     (wOp w = 0x08 → k ≤ n → exec (.evwait c) s = .next { s with dev := finishRun c w (.done
       (if bitOf w 32 then setF e (F.mcEvt_count c (wE w)) (n - k) else e)) }) ∧
     (wOp w = 0x08 → n < k → exec (.evwait c) s =
       .next { s with dev := finishRun c w (.hold e (.event (wE w) k (bitOf w 32))) }) ∧
     (wOp w = 0x0C → target ≤ getF e F.fabFtc_ftc → exec (.ftcwait c) s = .next { s with dev := finishRun c w (.done e) }) ∧
     (wOp w = 0x0C → getF e F.fabFtc_ftc < target → exec (.ftcwait c) s =
       .next { s with dev := finishRun c w (.hold e (.ftc target)) }) ∧
     (wOp w = 0x0E → (clusterOf e c).dwq = [] → exec (.dwqflush c) s = .next { s with dev := finishRun c w (.done e) }) ∧
     (wOp w = 0x0E → (clusterOf e c).dwq ≠ [] → exec (.dwqflush c) s =
       .next { s with dev := finishRun c w (.hold e .deferred) }) ∧
     (wOp w = 0x0F → idle → exec (.fence c) s = .next { s with dev := finishRun c w (.done e) }) ∧
     (wOp w = 0x0F → ¬idle → exec (.fence c) s = .next { s with dev := finishRun c w (.hold e (.fence (bitOf w 32))) }) ∧
     (seqState s.dev c = 2 → getF s.dev (F.mcSeqStatus_wait_cause c) = 1 → wWen w = true →
       let t := finishIssue s.dev c w ((instrOf w p c w e).issue e)
       exec (.evwaitPass c) s = .next (flushAudit { s with dev := if wOp w = 0x2E then fpostHold s.dev c t else t }))) ∧
  (∀ (s : State) (c : ClusterId) (q : WaitOp), s.dev.powerGood = true → (clusterOf s.dev c).waiting = some q →
     (∀ (e k : Nat) (consume : Bool), q.on = .event e k consume →
       (k ≤ getF s.dev (F.mcEvt_count c e) → exec (.evwaitPass c) s = .next (flushAudit { s with dev := settle (endWait
         (if consume then setF s.dev (F.mcEvt_count c e) (getF s.dev (F.mcEvt_count c e) - k) else s.dev) c) c })) ∧
       (getF s.dev (F.mcEvt_count c e) < k → exec (.evwaitPass c) s = .next (flushAudit s))) ∧
     (∀ t : Nat, q.on = .ftc t → t < 2 ^ 64 → getF s.dev F.fabFtc_ftc < 2 ^ 64 →
       let now := getF s.dev F.fabFtc_ftc
       let passed := settle (endWait (setF s.dev F.fabFtc_ftc (max now t)) c) c
       exec (.ftcTargetReached c) s = .next { s with dev := countTicks (max now t - now) s.dev passed }) ∧
     ((clusterOf s.dev c).pend = none → (clusterOf s.dev c).loops = [] → pcOf s.dev c + 1 < getF s.dev (F.mcSeqLen_len c) →
       getF s.dev (F.mcSeqLen_len c) ≤ 2 ^ 22 →
       let goesOn (r : Host.Outcome State Fault Refusal) : Prop := ∃ t, r = .next t ∧ (clusterOf t.dev c).waiting = none ∧
         (clusterOf t.dev c).jobs = [] ∧ pcOf t.dev c = pcOf s.dev c + 1 ∧ seqState t.dev c = 1 ∧ t.sec = s.sec
       (∀ (p : Nat) (x : Deferred), q.on = .deferred → partOf s.dev c = some p → (clusterOf s.dev c).dwq = [x] →
         (clusterOf s.dev c).jobs = [] → extentOutside s.dev p x.a false = false → extentOutside s.dev p x.g false = false →
         (∀ y, x.sk = some y → sketchOutside s.dev p y x.a = false) → (∀ b ∈ mmwgBanks x.a x.g x.sk, bankOpen s.dev b.1 b.2 = true) →
         goesOn (exec (.deferredEntryRun c) s)) ∧
       (∀ (all : Bool) (j : Job), q.on = .fence all → (all = true → (clusterOf s.dev c).dwq = []) → (clusterOf s.dev c).jobs = [j] →
         (j.unit = .array → getF s.dev (F.mcArrStatus_phase c) ≠ 5 → goesOn (exec (.matrixInstructionComplete c) s)) ∧
         (∀ m, j.unit = .vec m → goesOn (exec (.vectorOpComplete c 0) s)) ∧
         (∀ p m, j.unit = .mover → partOf s.dev c = some p → j.move = some m → tileHeld s.dev p m.src = false →
           tileHeldWrite s.dev p m.dst = false → goesOn (exec (.moverOpComplete c 0) s)))) ∧
     ((clusterOf s.dev c).pend = none →
       (q.on = .deferred → (clusterOf s.dev c).dwq ≠ [] → settle s.dev c = s.dev) ∧
       (∀ all, q.on = .fence all → (clusterOf s.dev c).jobs ≠ [] ∨ all = true ∧ (clusterOf s.dev c).dwq ≠ [] → settle s.dev c = s.dev)))

/-- R27 to R29: an accepted start clears the fault record and runs from PC; a start that fails only sets start_err. HALT issues once all
earlier work has completed: the sequencer is HALTED (LENT where the cluster lends itself whole), PC is past it, and done is set in
MC_SEQ_IRQ; while earlier work is left it waits with cause 8. A stop sets the request, and withdraws a waiting EVWAIT, FTCWAIT or local
BAR with the count of its wen wait given back and PC kept; outside RUNNING and WAITING it has no effect. Once all issued work has completed
the sequencer is STOPPED (LENT likewise). An access to the cluster wakes it (R355). -/
def Obligations.StartHaltStop : Prop :=
  (∀ (s : State) (p : Nat) (c : ClusterId) (w : Nat), issuing s p c w = true → wOp w = 0x01 →
     let e := takeWen s.dev c w
     (drained e c = true →
       ∃ t, exec (.halt c) s = .next t ∧ t = { s with dev := finishRun c w (.halted e) } ∧
         (pcOf e c + 1 < 2 ^ 22 → pcOf t.dev c = pcOf s.dev c + 1) ∧
         (flag s.dev (F.mcLend_enable c) = false → seqState t.dev c = 3) ∧
         (flag s.dev (F.mcLend_enable c) = true → flag s.dev (F.mcLend_lend_all c) = true →
           seqState t.dev c = 6 ∧ (clusterOf t.dev c).restState = 3) ∧
         getF t.dev (F.mcSeqIrq_done c) = 1 ∧ t.dev.mem = s.dev.mem) ∧
     (drained e c = false → exec (.halt c) s = .next { s with dev := setWait s.dev c 8 })) ∧
  (∀ (s : State) (who : Agent) (c : ClusterId), s.dev.powerGood = true →
     let d : Dev := { reachCluster s.dev c with bus := .none }
     let refused : Prop := seqAtRest s.dev c = false ∨ startable s.dev c = false ∨ partOf s.dev c = none ∨
       (clusterOf s.dev c).startBlocked = true ∨ flag s.dev (F.mcDpuMap_retired c) = true
     (reachesCluster s.dev who c = true → ¬refused →
       ∃ t, exec (.start who c false) s = .next t ∧ seqState t.dev c = 1 ∧ (clusterOf t.dev c).loops = [] ∧
         getF t.dev (F.mcSeqFault_cause c) = 0 ∧ getF t.dev (F.mcSeqFault_pc c) = 0 ∧
         getF t.dev (F.mcSeqFault_deferred c) = 0 ∧ pcOf t.dev c = pcOf s.dev c ∧
         (∀ k : FKey, sequencerOwn c k = false → getF t.dev k = getF s.dev k) ∧ t.dev.mem = s.dev.mem ∧ t.sec = s.sec) ∧
     (∀ both, reachesCluster s.dev who c = true → both = true ∨ refused →
       exec (.start who c both) s = .next { s with dev := setF d (F.mcSeqStatus_start_err c) 1 }) ∧
     (reachesCluster s.dev who c = true → seqActive s.dev c = true → (clusterOf s.dev c).waiting = none →
       exec (.stop who c) s = .next { s with dev := setF d (F.mcSeqCtrl_stop c) 1 }) ∧
     (reachesCluster s.dev who c = true → seqActive s.dev c = false → exec (.stop who c) s = .next { s with dev := d }) ∧
     (∀ (p : Nat) (q : WaitOp), reachesCluster s.dev who c = true → seqActive s.dev c = true → partOf s.dev c = some p →
       (clusterOf s.dev c).waiting = some q → withdrawable q.on = true →
       ∃ t, exec (.stop who c) s = .next t ∧ (clusterOf t.dev c).waiting = none ∧ pcOf t.dev c = pcOf s.dev c ∧
         getF t.dev (F.mcSeqCtrl_stop c) = 1 ∧
         (∀ e, q.wen = some e → getF s.dev (F.mcEvt_count c e) < 65535 →
           getF t.dev (F.mcEvt_count c e) = getF s.dev (F.mcEvt_count c e) + 1) ∧
         (∀ b x, q.on = .barrier b → Tab.get? t.dev.bars (p, b) = some x → c.val ∉ x.arrived) ∧ t.dev.mem = s.dev.mem ∧ t.sec = s.sec) ∧
     (flag s.dev (F.mcSeqCtrl_stop c) = true → drained s.dev c = true → (clusterOf s.dev c).pend = none →
       ∃ t, exec (.stopComplete c) s = .next t ∧ getF t.dev (F.mcSeqCtrl_stop c) = 0 ∧
         (flag s.dev (F.mcLend_enable c) = false → seqState t.dev c = 4) ∧
         (flag s.dev (F.mcLend_enable c) = true → flag s.dev (F.mcLend_lend_all c) = true →
           seqState t.dev c = 6 ∧ (clusterOf t.dev c).restState = 4) ∧
         getF t.dev (F.mcSeqIrq_stopped c) = 1 ∧ pcOf t.dev c = pcOf s.dev c ∧
         (∀ k : FKey, sequencerOwn c k = false → getF t.dev k = getF s.dev k) ∧ t.dev.mem = s.dev.mem ∧ t.sec = s.sec))

/-! ## The matrix array and the accumulators -/

/-- MMA and GRAM (R36, R44, R69, R85, R129): to each entry (i, j) of their group they add, in the order of the reduction index, the
products of operand elements i and j of each index; they change no memory, but that the words of MMA's operands whose read found an
uncorrectable error give no data from then on; what the reads found is noted (R221). AZERO and AFILL open tiles: their entries are zero, or where AFILL has an
element its entry. -/
def Obligations.ProductsAndOpenTiles : Prop :=
  (∀ (s : State) (p : Nat) (c : ClusterId) (w : Nat) (errors : List WordFound), issuing s p c w = true →
     let e := takeWen s.dev c w
     let a := resolveScale e c (descOf e c (wTa w))
     let b := resolveScale e c (descOf e c (wTb w))
     let m := if bitOf w 41 then a.cols else a.rows
     let k := if bitOf w 41 then a.rows else a.cols
     let n := if bitOf w 42 then b.rows else b.cols
     let seen := errors.filter (fun x => (operandBanks (descOf e c (wTa w)) ++ operandBanks (descOf e c (wTb w))).contains (x.c.val, x.bank.val))
     let r := wordErrors e seen
     let left (i x : Nat) : Val := if bitOf w 41 then tVal r (isRef e p) p a x i else tVal r (isRef e p) p a i x
     let right (x j : Nat) : Val := if bitOf w 42 then tVal r (isRef e p) p b j x else tVal r (isRef e p) p b x j
     (wOp w = 0x10 → (goMma p c w e).free = true → ∃ t, exec (.mma c errors) s = .next { s with dev := finishRun c w (.queued t) } ∧
       t.acc = (accumGroup e (isRef e p) c (wAcc w) m n (fun i j => (List.range k).map (fun x => (left i x, right x j)))).acc ∧
       t.mem = r.mem ∧ t.wins = e.wins ∧ (clusterOf t c).jobs.getLast?.map Job.unit = some .array ∧
       (∀ q b', getF t (F.bankRepair_ce_count q b') = getF r (F.bankRepair_ce_count q b')) ∧ (seen = [] → r = e)) ∧
     (wOp w = 0x12 → (goGram p c w e).free = true → ∃ t, exec (.gram c) s = .next { s with dev := finishRun c w (.queued t) } ∧
       t.acc = (accumGroup e (isRef e p) c (wAcc w) a.cols a.cols (fun i j =>
         (List.range a.rows).map (fun x => (tVal e (isRef e p) p a x i, tVal e (isRef e p) p a x j)))).acc ∧
       t.mem = e.mem ∧ t.wins = e.wins ∧ (clusterOf t c).jobs.getLast?.map Job.unit = some .array)) ∧
  (∀ (s : State) (p : Nat) (c : ClusterId) (w : Nat), issuing s p c w = true →
     let e := takeWen s.dev c w
     let ts := descOf e c (wTb w)
     (wOp w = 0x2B → (goAzero p c w e).free = true →
       ∃ t, exec (.azero c) s = .next { s with dev := finishRun c w (.queued t) } ∧
         (∀ i < wCnt w, winOf t c (wAcc w + i) = some (newWin e c w) ∧ ∀ n, accAt t c (wAcc w + i) n = ⟨0, false⟩) ∧
         (∀ k, (k < wAcc w ∨ wAcc w + wCnt w ≤ k) → winOf t c k = winOf e c k ∧ ∀ n, accAt t c k n = accAt e c k n) ∧
         t.mem = e.mem) ∧
     (wOp w = 0x2A → (goAfill p c w e).free = true →
       ∃ t, exec (.afill c) s = .next { s with dev := finishRun c w (.queued t) } ∧
         (∀ i < ts.rows, ∀ j < ts.cols, accAt t c (groupEntry (wAcc w) ts.cols i j).1 (groupEntry (wAcc w) ts.cols i j).2 =
           fillEntry (isRef e p) (newWin e c w) (wCvt w) (tileCode e p ts i j) (tileVal e p ts i j)) ∧
         (∀ k ∈ groupTiles (wAcc w) ts.rows ts.cols, winOf t c k = some (newWin e c w) ∧
           ∀ n, (∀ i j, i < ts.rows → j < ts.cols → (k, n) ≠ groupEntry (wAcc w) ts.cols i j) → accAt t c k n = ⟨0, false⟩) ∧
         (∀ k, k ∉ groupTiles (wAcc w) ts.rows ts.cols → winOf t c k = winOf e c k ∧ ∀ n, accAt t c k n = accAt e c k n) ∧
         t.mem = e.mem))

/-- MMWG (R55, R57, R70, R71): with defer = 0 or in REFERENCE mode its accumulations are made at issue; with defer = 1 else it is pushed
to the deferred queue with its descriptors as they stand and changes nothing more. The oldest entry runs when no instruction is on the
array and none at PC is ready to issue to it, and counts in MC_DWQ_STATUS.done; else it waits (R56). -/
def Obligations.GradientProduct : Prop :=
  ∀ (s : State) (p : Nat) (c : ClusterId) (w : Nat),
    let e := takeWen s.dev c w
    let a := descOf e c (wTa w)
    let g := descOf e c (wTb w)
    let sk := if bitOf w 44 && bitOf w 45 then some (descOf e c (wTsk w)) else none
    let tiles := (mmwgGroups w a g sk).flatMap (fun x => groupTiles x.1 x.2.1 x.2.2)
    (issuing s p c w = true → wOp w = 0x11 → (goMmwg p c w e).free = true → bitOf w 43 = false ∨ isRef e p = true →
      ∃ t, exec (.mmwg c) s = .next { s with dev := finishRun c w (.queued t) } ∧
        t.acc = (mmwgEffect e (isRef e p) p c w (resolveScale e c a) (resolveScale e c g) sk).acc ∧ t.mem = e.mem ∧ t.wins = e.wins ∧
        (clusterOf t c).jobs.getLast?.map Job.unit = some .array) ∧
    (issuing s p c w = true → wOp w = 0x11 → (goMmwg p c w e).free = true → bitOf w 43 = true → isRef e p = false →
      exec (.mmwg c) s = .next { s with dev := finishRun c w (.queued (modCluster e c (fun x =>
        { x with dwq := x.dwq ++ [⟨w, pcOf e c, resolveScale e c a, resolveScale e c g, sk, tiles, sigOf w⟩] }))) }) ∧
    (∀ (x : Deferred) (r : List Deferred), s.dev.powerGood = true → partOf s.dev c = some p → (clusterOf s.dev c).dwq = x :: r →
      (arrayTaken s.dev c = true ∨ arrayReady s.dev p c = true → exec (.deferredEntryRun c) s = .next s) ∧
      (arrayTaken s.dev c = false → arrayReady s.dev p c = false → (clusterOf s.dev c).waiting = none → (clusterOf s.dev c).pend = none →
        extentOutside s.dev p x.a false = false → extentOutside s.dev p x.g false = false →
        (∀ y, x.sk = some y → sketchOutside s.dev p y x.a = false) →
        (∀ b ∈ mmwgBanks x.a x.g x.sk, bankOpen s.dev b.1 b.2 = true) →
        ∃ t, exec (.deferredEntryRun c) s = .next t ∧ t.dev.acc = (mmwgEffect s.dev false p c x.word x.a x.g x.sk).acc ∧
          (clusterOf t.dev c).dwq = r ∧ t.dev.mem = s.dev.mem ∧
          getF t.dev (F.mcDwqStatus_done c) = (getF s.dev (F.mcDwqStatus_done c) + 1) % 2 ^ 32))

/-- Terms, groups and windows: the terms of MMWG, with a sketch too (R70, R71), what a group adds to each entry (R44, R85, R129), and the
contribution of a term to a window: the product in units of the window's grain, rounded to nearest with ties to even, or the mark where
that leaves the window's range or a factor is not finite (R82, R84); contributions add modulo 2^72 (R85). What an entry drains to: its
value while in window and unmarked, else the marker (R83, R97). -/
def Obligations.ProductTerms : Prop :=
  (∀ (d : Dev) (ref : Bool) (p c w : Nat) (a g : Desc),
     let terms (x y : Desc) (i j : Nat) : List (Val × Val) :=
       (List.range a.rows).map (fun t => (tVal d ref p x t i, tVal d ref p y t j))
     let first := accumGroup d ref c (wAcc w) g.cols a.cols (terms g a)
     (∀ sk, bitOf w 44 = false → mmwgEffect d ref p c w a g sk = first) ∧
     (bitOf w 44 = true → mmwgEffect d ref p c w a g none =
       accumGroup (accumGroup first ref c (wTacc w) a.cols a.cols (terms a a)) ref c (wGacc w) g.cols g.cols (terms g g)) ∧
     (∀ sk : Desc, bitOf w 44 = true →
       let entry (k : Nat) : Nat := viewNat d p (sk.base + 4 * k) 4
       let bin (k : Nat) : Nat := 64 * (bits (entry k) 15 6 % (sk.cols / 64)) + k % 64
       let minus (k : Nat) : Bool := bitOf (entry k) 31
       mmwgEffect d ref p c w a g (some sk) =
         accumGroup (accumGroup first ref c (wTacc w) sk.cols sk.cols (fun b b' =>
           (List.range a.rows).flatMap (fun t => (List.range a.cols).flatMap (fun k => (List.range a.cols).filterMap (fun k' =>
             if bin k = b ∧ bin k' = b' then
               some (if minus k = minus k' then tVal d ref p a t k else (tVal d ref p a t k).negate, tVal d ref p a t k')
             else none))))) ref c (wGacc w) g.cols g.cols (terms g g))) ∧
  (∀ (d : Dev) (ref : Bool) (c first rows cols : Nat) (terms : Nat → Nat → List (Val × Val)),
     (∀ i j, i < rows → j < cols →
       accAt (accumGroup d ref c first rows cols terms) c (groupEntry first cols i j).1 (groupEntry first cols i j).2 =
         addTerms ref (groupWin d c first) (accAt d c (groupEntry first cols i j).1 (groupEntry first cols i j).2) (terms i j)) ∧
     (∀ k t n, (k ≠ c ∨ ∀ i j, i < rows → j < cols → (t, n) ≠ groupEntry first cols i j) →
       accAt (accumGroup d ref c first rows cols terms) k t n = accAt d k t n) ∧
     accumGroup d ref c first rows cols terms = { d with acc := (accumGroup d ref c first rows cols terms).acc }) ∧
  (∀ (win : Win) (x : AccEntry) (u v : Val) (r : List (Val × Val)),
     addTerms false win x [] = x ∧ addTerms true win x [] = x ∧
     addTerms false win x ((u, v) :: r) = addTerms false win (accEnter x (contrib u v win.anchor win.wfmt)) r ∧
     addTerms true win x ((u, v) :: r) = addTerms true win (floatAcc ((f32 (x.v.toNat % 2 ^ 32)).add (fl32 (u.mul v)))) r) ∧
  (∀ (x : AccEntry) (wfmt : Nat) (a : Int) (u v : Val), wfmt ≤ 1 →
     (inWindow wfmt x = false → drainWord false wfmt x = (2 ^ ((if wfmt = 0 then 64 else 32) - 1), true)) ∧
     (inWindow wfmt x = true → drainWord false wfmt x = (unsigned (if wfmt = 0 then 64 else 32) x.v.toInt, false) ∧ x.m = false ∧
       x.v.toInt.natAbs < 2 ^ ((if wfmt = 0 then 64 else 32) - 1)) ∧
     (u.isFin = false ∨ v.isFin = false → contrib u v a wfmt = (0, true)) ∧
     (∀ (s t : Bool) (m n : Nat) (e k q : Int), u = .fin s m e → v = .fin t n k →
       let product : Int := if s = t then (m * n : Nat) else -((m * n : Nat) : Int)
       let shift : Int := e + k - (a - (if wfmt = 0 then 62 else 30))
       let lim : Int := 2 ^ (if wfmt = 0 then 63 else 31) - 1
       let nearest : Prop := if 0 ≤ shift then q = product * 2 ^ shift.toNat
         else 2 * |q * 2 ^ (-shift).toNat - product| ≤ 2 ^ (-shift).toNat ∧
           (2 * |q * 2 ^ (-shift).toNat - product| = 2 ^ (-shift).toNat → q % 2 = 0)
       nearest → (|q| ≤ lim → contrib u v a wfmt = (q, false)) ∧ (lim < |q| → contrib u v a wfmt = (0, true))) ∧
     (∀ (q : Int) (mark : Bool), ((accEnter x (q, mark)).v.toInt - (x.v.toInt + q)) % 2 ^ 72 = 0 ∧
       (accEnter x (q, mark)).m = (x.m || mark)))

/-- ADRN and AADD (R97, R101): ADRN writes the code of every entry of its group to the destination tile, AADD queues one update for each
entry, and both leave the entries as they are. One AADD update that arrives at its memory word adds to it by R101 and leaves every other
byte; one whose page is held waits (R102, R237). -/
def Obligations.DrainingTiles : Prop :=
  (∀ (s : State) (p : Nat) (c : ClusterId) (w : Nat), issuing s p c w = true →
     let e := takeWen s.dev c w
     let td := descOf e c (wTa w)
     let win := groupWin e c (wAcc w)
     let entry (i j : Nat) : AccEntry := accAt e c (groupEntry (wAcc w) td.cols i j).1 (groupEntry (wAcc w) td.cols i j).2
     let code (i j : Nat) : Nat := match fpOf td.fmt with
       | some f => (drainFloat (isRef e p) win f (wCvt w)
           (roundingDraw (getF e (F.mcRngSeed_seed c)) (getF e (F.mcGyle_gyle c)) td.tensor (td.index i j)) (entry i j)).code
       | none => (drainWord (isRef e p) win.wfmt (entry i j)).1
     (wOp w = 0x29 → (goAdrn p c w e).free = true →
       ∃ t, exec (.adrn c) s = .next { s with dev := finishRun c w (.queued t) } ∧ t.acc = e.acc ∧ t.wins = e.wins ∧
         t.mem = ((places td.rows td.cols).foldl (fun d x => tilePut d p td x.1 x.2 (code x.1 x.2)) e).mem) ∧
     (wOp w = 0x2C → (goAadd p c w e).free = true →
       ∃ t j, exec (.aadd c) s = .next { s with dev := finishRun c w (.queued t) } ∧ t.acc = e.acc ∧ t.wins = e.wins ∧ t.mem = e.mem ∧
         (clusterOf t c).jobs = (clusterOf e c).jobs ++ [j] ∧ j.unit = .mover ∧
         j.adds = (places td.rows td.cols).map (fun x =>
           ⟨td.addr (td.at x.1 x.2).1 (td.offset (td.at x.1 x.2).2), td.size,
             (drainWord (isRef e p) win.wfmt (entry x.1 x.2)).1⟩))) ∧
  (∀ (s : State) (p : Nat) (c : ClusterId) (i k n : Nat) (j : Job) (a : AddOp), s.dev.powerGood = true → partOf s.dev c = some p →
     nthJob s.dev c Job.onMover i = some (n, j) → j.adds[k]? = some a → heldWrite s.dev p a.addr a.size = false →
     ∃ t, exec (.atomicWindowAdd c i k) s = .next t ∧ (clusterOf t.dev c).jobs[n]?.map Job.adds = some (j.adds.eraseIdx k) ∧
       (Memory.wf s.dev.mem = true → ∀ m off, (a.size = 8 ∨ a.size = 4) → off + a.size ≤ 0x4000000 → ownsCluster s.dev p m = true → m < 28 →
         a.addr = spadBase m + off → protectedHit s.dev m off a.size = false →
         viewNat t.dev p a.addr a.size = (if isRef s.dev p then (refAdd (viewNat s.dev p a.addr a.size) a.value).1 % 2 ^ (8 * a.size)
           else (windowAdd (if a.size = 8 then 0 else 1) (viewNat s.dev p a.addr a.size) a.value).1 % 2 ^ (8 * a.size)) ∧
         ∀ x, (x < a.addr ∨ a.addr + a.size ≤ x) → memGet t.dev.mem x = memGet s.dev.mem x)) ∧
  (∀ (s : State) (p : Nat) (c : ClusterId) (i k n : Nat) (j : Job) (a : AddOp), s.dev.powerGood = true → partOf s.dev c = some p →
     nthJob s.dev c Job.onMover i = some (n, j) → j.adds[k]? = some a → heldWrite s.dev p a.addr a.size = true →
     exec (.atomicWindowAdd c i k) s = .next { s with dev := steadyBroken s.dev })

/-- AMAX (R88) folds a maximum exponent into its slot; BAR with sub 2 (R52) and AMAX with cvt 2 (R90) join a channel and wait. -/
def Obligations.AnchorsAndChannels : Prop :=
  (∀ (s : State) (p : Nat) (c : ClusterId) (w : Nat), issuing s p c w = true → wOp w = 0x2D → wCvt w ≠ 2 →
     let e := takeWen s.dev c w
     let ts := resolveScale e c (descOf e c (wTb w))
     let n := wAslot w
     let m := maxExpo ((places ts.rows ts.cols).map (fun x => tileVal e p ts x.1 x.2))
     let ea := signed 12 (getF e (F.mcAnchor_ea c n))
     let eb := signed 12 (getF e (F.mcAnchor_eb c n))
     (goAmaxFold p c w e).free = true →
       ∃ t, exec (.amax c) s = .next { s with dev := finishRun c w (.queued t) } ∧
         getF t (F.mcAnchor_ea c n) = unsigned 12 (if wCvt w = 1 then ea else max ea m) ∧
         getF t (F.mcAnchor_eb c n) = unsigned 12 (if wCvt w = 0 then eb else max eb m) ∧
         (wCvt w ≠ 1 → getF t (F.mcAnchor_ea_set c n) = 1) ∧ (wCvt w ≠ 0 → getF t (F.mcAnchor_eb_set c n) = 1) ∧
         getF t (F.mcAnchor_reduced c n) = 0 ∧ t.mem = e.mem ∧ t.acc = e.acc ∧
         ∀ k : FKey, k.reg ≠ .mcAnchor c n → (∀ u, k.reg ≠ .vecUnit c u ∧ k.reg ≠ .vecBusy c u ∧ k.reg ≠ .vecStall c u) →
           getF t k = getF e k) ∧
  (∀ (s : State) (p : Nat) (c : ClusterId) (w : Nat), issuing s p c w = true →
     let e := takeWen s.dev c w
     let ch := bits w 43 40
     let n := wAslot w
     let flags := getF e (F.mcAnchor_ea_set c n) * 16 + getF e (F.mcAnchor_eb_set c n) * 32
     let value := getF e (F.mcAnchor_ea c n) + getF e (F.mcAnchor_eb c n) * 2 ^ 16 + getF e (F.mcAnchor_logk c n) * 2 ^ 32
     let bar := arriveChan e p ch ⟨0, 0⟩ (fun x => { x with joined := x.joined ++ [c.val] })
     let max := arriveChan e p 16 ⟨flags, value⟩ (fun x => { x with joined := x.joined ++ [c.val], mask := wAddr w % 2 ^ 28 })
     (wOp w = 0x0B → wSub w = 2 → bitOf w 44 = false → exec (.barSlice c) s =
       .next (flushAudit { s with dev := finishRun c w (.hold bar (.channel ch none)) })) ∧
     (wOp w = 0x0B → wSub w = 2 → bitOf w 44 = true → exec (.barSlice c) s =
       .next (flushAudit { s with dev := finishRun c w (.hold (arriveCheck e p c ch) (.channel ch (some (wGd w)))) })) ∧
     (wOp w = 0x2D → wCvt w = 2 → (goAmaxSlice p c w e).free = true → exec (.amaxSlice c) s =
       .next { s with dev := finishRun c w (.hold max (.anchor n)) }))

/-- MOV and FPOST enter their queues (R34, R114, R282): MOV with its scales resolved, the destination slot keeping a resolved scale;
FPOST as a collective of the current layout epoch, which starts, or of the pending one, which is held; one that fails a check or names
another epoch is refused, with its interrupt, and none is added. -/
def Obligations.MoverAndFabricInstructions : Prop :=
  ∀ (s : State) (p : Nat) (c : ClusterId) (w : Nat), issuing s p c w = true →
    let e := takeWen s.dev c w
    let src := descOf e c (wTb w)
    let dst := descOf e c (wTa w)
    let f := noteRead e p (wAddr w) 64
    let ws := descWords f p (wAddr w) 8
    let k := collOf f p c (wAddr w) ws
    (wOp w = 0x28 → (goMov p c w e).free = true →
      ∃ j, exec (.mov c) s =
          .next { s with dev := finishRun c w (.queued (addJob (keepScale e c (wTa w) dst (resolveScale e c dst)) c j)) } ∧
        j.unit = .mover ∧ j.sig = sigOf w ∧ j.adds = [] ∧ j.move = some ⟨resolveScale e c src, resolveScale e c dst, wCvt w,
          getF e (F.mcRngSeed_seed c), getF e (F.mcGyle_gyle c)⟩) ∧
    (∀ status, wOp w = 0x2E → (goFpost p c w e).free = true → collStatus f k ws = some status →
      ∃ t, exec (.fpost c) s = .next { s with dev := finishRun c w (.done t) } ∧ t.colls = f.colls ∧
        getF t (F.fabIrq_coll_err p) = 1) ∧
    (wOp w = 0x2E → (goFpost p c w e).free = true → collStatus f k ws = none → k.epoch ≠ getF f (F.fabEpoch_cur p) →
      flag f (F.fabEpoch_pvalid p) = false ∨ k.epoch ≠ getF f (F.fabEpoch_pending p) →
      ∃ t, exec (.fpost c) s = .next { s with dev := finishRun c w (.done t) } ∧ t.colls = f.colls ∧
        getF t (F.fabIrq_coll_err p) = 1) ∧
    (wOp w = 0x2E → (goFpost p c w e).free = true → collStatus f k ws = none → k.epoch ≠ getF f (F.fabEpoch_cur p) →
      flag f (F.fabEpoch_pvalid p) = true → k.epoch = getF f (F.fabEpoch_pending p) →
      ∃ t, exec (.fpost c) s = .next { s with dev := finishRun c w (.queued t) } ∧ t.mem = f.mem ∧ t.collNext = f.collNext + 1 ∧
        t.colls = f.colls ++ [{ k with inst := ((Tab.get? f.insts (p, k.tag)).getD 0) % 256, held := true }] ∧
        (clusterOf t c).jobs.getLast?.map Job.post = some (some f.collNext)) ∧
    (wOp w = 0x2E → (goFpost p c w e).free = true → collStatus f k ws = none → k.epoch = getF f (F.fabEpoch_cur p) →
      let run : Coll := { k with inst := ((Tab.get? f.insts (p, k.tag)).getD 0) % 256, held := false }
      ∃ t, exec (.fpost c) s = .next { s with dev := finishRun c w (.queued (startColl t run)) } ∧
        t.mem = f.mem ∧ t.collNext = f.collNext + 1 ∧ t.colls = f.colls ++ [run] ∧
        (clusterOf t c).jobs.getLast?.map Job.post = some (some f.collNext))

/-- Queued work ends (R34, R49, R169): a MOV makes its copy and an AADD's last updates arrive; a vector instruction counts as done on every
unit it names, and a unit left with none is idle. The job is gone, its counter is signalled, and a non-finite value it met sets its
partition's flag (R123). -/
def Obligations.QueuedCompletions : Prop :=
  ∀ (s : State) (c : ClusterId) (i n : Nat) (j : Job), s.dev.powerGood = true → (clusterOf s.dev c).waiting = none →
    (clusterOf s.dev c).pend = none →
    let ended (t : State) : Prop := (clusterOf t.dev c).jobs = (clusterOf s.dev c).jobs.eraseIdx n ∧ t.dev.acc = s.dev.acc ∧ t.sec = s.sec ∧
      (∀ e, j.sig = some e → getF s.dev (F.mcEvt_count c e) < 65535 →
        getF t.dev (F.mcEvt_count c e) = getF s.dev (F.mcEvt_count c e) + 1) ∧
      (∀ p, partOf s.dev c = some p → j.nonfin = true → getF t.dev (F.fabNflag_nonfin p) = 1)
    (∀ p m, partOf s.dev c = some p → nthJob s.dev c Job.onMover i = some (n, j) → j.move = some m → tileHeld s.dev p m.src = false →
      tileHeldWrite s.dev p m.dst = false →
      ∃ t, exec (.moverOpComplete c i) s = .next t ∧ ended t ∧ t.dev.mem = (moveEffect s.dev p m).1.mem) ∧
    (∀ p, partOf s.dev c = some p → nthJob s.dev c Job.onMover i = some (n, j) → j.move = none →
      (∀ a ∈ j.adds, heldWrite s.dev p a.addr a.size = false) →
      ∃ t, exec (.moverOpComplete c i) s = .next t ∧ ended t ∧
        t.dev.mem = (j.adds.foldl (fun d a => (applyAdd d p a).1) s.dev).mem) ∧
    (∀ m, nthJob s.dev c Job.onVec i = some (n, j) → j.unit = .vec m →
      (∀ k ∈ (clusterOf s.dev c).jobs.take n, ∀ u < 4, bitOf m u = true → k.onUnit u = false) →
      ∃ t, exec (.vectorOpComplete c i) s = .next t ∧ ended t ∧ t.dev.mem = s.dev.mem ∧
        (∀ u < 4, getF t.dev (F.vecUnit_done c u) =
          if bitOf m u then (getF s.dev (F.vecUnit_done c u) + 1) % 2 ^ (F.vecUnit_done c u).width else getF s.dev (F.vecUnit_done c u)) ∧
        (∀ u < 4, bitOf m u = true → getF t.dev (F.vecUnit_state c u) = if unitCount t.dev c u = 0 then 0 else 2))

/-- The array's own events (R66, R76 to R79, R353): ROUSE enters the array with its cycles counted, and starts on an idle one at once or
after a ramp up; the oldest instruction completes and signals, the next runs, and an array left idle goes on with a kiln guest product,
holds its level, or with the hold off falls to rest; the hold ends in a ramp down; a ramp moves one eighth, up to the admitted level, and
one that works moves toward it. -/
def Obligations.ArrayEvents : Prop :=
  ∀ (s : State) (c : ClusterId), s.dev.powerGood = true → fullLevel s.dev ≤ 8 →
    let level := getF s.dev (F.mcArrStatus_level c)
    let phase := getF s.dev (F.mcArrStatus_phase c)
    let auto := flag s.dev (F.mcRouseCfg_auto_en c)
    let full := fullLevel s.dev
    let step := rampStep s.dev c
    let rouse := getF s.dev (F.mcArrRouse_count c)
    (∀ p w, issuing s p c w = true → wOp w = 0x0D → (clusterOf (takeWen s.dev c w) c).dwq = [] →
      ∃ t k cut, exec (.rouse c) s = .next { s with dev := finishRun c w (.queued t) } ∧
        getF t (F.mcArrRouse_count c) = (rouse + cut + k) % 2 ^ 64 ∧ k ≤ wImm w % 2 ^ 32 ∧
        (bitOf w 32 = false → k = wImm w % 2 ^ 32) ∧
        (arrayTaken s.dev c = true ∨ (phase ≠ 3 ∧ phase ≠ 4) → cut = 0) ∧
        (phase = 3 → cut < max 1 (holdCycles s.dev c)) ∧ (phase = 4 → cut < max 1 step) ∧
        getF t (F.mcArrStatus_phase c) = (if arrayTaken s.dev c then phase else if auto ∧ level < full then 5 else 2) ∧
        (clusterOf t c).jobs.getLast?.map (fun j => (j.unit, j.rouse)) = some (JobUnit.array, some (bitOf w 32)) ∧ t.mem = s.dev.mem) ∧
    (∀ n j, nthJob s.dev c Job.onArray 0 = some (n, j) → phase = 5 → exec (.matrixInstructionComplete c) s = .next s) ∧
    (∀ n j, nthJob s.dev c Job.onArray 0 = some (n, j) → phase ≠ 5 → (clusterOf s.dev c).waiting = none → (clusterOf s.dev c).pend = none →
      let rest := (clusterOf s.dev c).jobs.eraseIdx n
      ∃ t, exec (.matrixInstructionComplete c) s = .next t ∧ t.dev.mem = s.dev.mem ∧ t.dev.acc = s.dev.acc ∧
        (∀ e, j.sig = some e → getF s.dev (F.mcEvt_count c e) < 65535 → (rest.filter Job.onArray).length ≤ 1 →
          getF t.dev (F.mcEvt_count c e) = getF s.dev (F.mcEvt_count c e) + 1) ∧
        (rest.any Job.onArray = false → (clusterOf t.dev c).jobs = rest ∧
          ((clusterOf s.dev c).guest.isSome = true → (clusterOf s.dev c).dwq = [] → getF t.dev (F.mcArrStatus_phase c) = 6) ∧
          ((clusterOf s.dev c).guest = none → auto = true →
            getF t.dev (F.mcArrStatus_level c) = level ∧ getF t.dev (F.mcArrStatus_phase c) = 3) ∧
          ((clusterOf s.dev c).guest = none → auto = false →
            getF t.dev (F.mcArrStatus_level c) = 0 ∧ getF t.dev (F.mcArrStatus_phase c) = 0)) ∧
        (∀ k, rest.filter Job.onArray = [k] → (clusterOf t.dev c).jobs = rest ∧
          getF t.dev (F.mcArrStatus_phase c) = if k.rouse.isSome then 2 else 1)) ∧
    let held := setF s.dev (F.mcArrRouse_count c) (rouse + holdCycles s.dev c)
    let down := setF (setF s.dev (F.mcArrRouse_count c) (rouse + step)) (F.mcArrStatus_level c) (level - 1)
    (phase = 3 → exec (.rouseHoldExpiry c) s = .next { s with dev := setF held (F.mcArrStatus_phase c) 4 }) ∧
    (phase ≠ 3 → exec (.rouseHoldExpiry c) s = .next s) ∧
    (phase = 4 → 1 < level → exec (.rampStep c) s = .next { s with dev := down }) ∧
    (phase = 4 → level ≤ 1 → exec (.rampStep c) s = .next { s with dev := newRouse (setF down (F.mcArrStatus_phase c) 0) c }) ∧
    (phase = 5 → ∃ t, exec (.rampStep c) s = .next t ∧
      getF t.dev (F.mcArrStatus_level c) = min full (level + 1) ∧ getF t.dev (F.mcArrRouse_count c) = (rouse + step) % 2 ^ 64 ∧
      (full ≤ level + 1 → getF t.dev (F.mcArrStatus_phase c) = runPhase s.dev c) ∧
      (level + 1 < full → getF t.dev (F.mcArrStatus_phase c) = 5) ∧
      (runPhase s.dev c ≠ 2 → getF t.dev (F.mcArrStallLoad_count c) = (getF s.dev (F.mcArrStallLoad_count c) + step) % 2 ^ 64) ∧
      t.dev.mem = s.dev.mem) ∧
    (phase ≠ 4 → phase ≠ 5 →
      (phase = 0 ∨ level = full → exec (.rampStep c) s = .next s) ∧
      (phase ≠ 0 → level ≠ full →
        let nearer := setF s.dev (F.mcArrStatus_level c) (if level < full then level + 1 else level - 1)
        exec (.rampStep c) s = .next { s with dev := nearer }))

/-- R72 to R75: a serving DPU of an active array fails its residue check. The first time, and again when the DPU is excluded, the rows in
flight of a streaming product are requested again and counted, 1 to 17 of them; the second failure excludes the DPU on its first free lane,
with the load time of the block as a load stall, and retires the cluster, with nothing counted, when no spare is left. A DPU that serves
none, an array at rest, and a retired cluster count nothing. MC_ACC_QUERY takes its tile. -/
def Obligations.RowRetries : Prop :=
  ∀ (s : State) (c : ClusterId) (dpu : Fin 66), s.dev.powerGood = true →
    let acts : Prop := getF s.dev (F.mcArrStatus_phase c) ≠ 0 ∧ dpu.val ∈ servingDpus s.dev c ∧ flag s.dev (F.mcDpuMap_retired c) = false
    let again := dpu.val ∈ (clusterOf s.dev c).dpuFails
    let retries := getF s.dev (F.mcDpuMap_retries c)
    let free0 := getF s.dev (F.mcDpuMap_out0 c) = 0x7F
    let free1 := getF s.dev (F.mcDpuMap_out1 c) = 0x7F
    (¬acts → exec (.rowRetry c dpu) s = .next { s with dev := noteWear s.dev }) ∧
    (acts → ¬again ∨ free0 ∨ free1 → ∃ t k, exec (.rowRetry c dpu) s = .next t ∧ t.dev.mem = s.dev.mem ∧ t.dev.acc = s.dev.acc ∧
      getF t.dev (F.mcDpuMap_retired c) = 0 ∧
      (streaming s.dev c = true → 1 ≤ k ∧ k ≤ 17) ∧ (streaming s.dev c = false → k = 0) ∧
      (retries ≤ 65535 → getF t.dev (F.mcDpuMap_retries c) = min (retries + k) 65535) ∧
      (¬again → (clusterOf t.dev c).dpuFails = dpu.val :: (clusterOf s.dev c).dpuFails ∧
        getF t.dev (F.mcDpuMap_out0 c) = getF s.dev (F.mcDpuMap_out0 c) ∧ getF t.dev (F.mcDpuMap_out1 c) = getF s.dev (F.mcDpuMap_out1 c)) ∧
      (again → getF t.dev (F.mcArrStallLoad_count c) =
        (getF s.dev (F.mcArrStallLoad_count c) + loadTime (clusterOf s.dev c).lastFmt) % 2 ^ 64) ∧
      (again → free0 → getF t.dev (F.mcDpuMap_out0 c) = dpu ∧ getF t.dev (F.mcDpuMap_spares_left c) = 1) ∧
      (again → ¬free0 → getF t.dev (F.mcDpuMap_out1 c) = dpu ∧ getF t.dev (F.mcDpuMap_spares_left c) = 0)) ∧
    (acts → again → ¬free0 → ¬free1 → ∃ t, exec (.rowRetry c dpu) s = .next t ∧ getF t.dev (F.mcDpuMap_retired c) = 1 ∧
      getF t.dev (F.mcDpuMap_retries c) = retries ∧ t.dev.mem = s.dev.mem ∧
      ∀ p, partOf s.dev c = some p → ownsCluster t.dev p c = false) ∧
    ∀ (who : Agent) (v : Word), reachesCluster s.dev who c = true → ∃ t, exec (.accQueryWrite who c v) s = .next t ∧
      getF t.dev (F.mcAccQuery_tile c) = v.toNat % 2 ^ 9 ∧
      (∀ k : FKey, k.reg ≠ .mcAccQuery c → getF t.dev k = getF s.dev k) ∧ t.dev.mem = s.dev.mem

/-! ## The vector units -/

/-- Element-wise arithmetic (R172, R173): each selected element of vd is the exact sum, product, minimum, maximum or fused product and
sum of its sources, scaled and rounded once to vd's format; the instruction enters the queues of the units it names. Where vd overlaps a
source inexactly, a read gives the source as it was before the instruction or as its results so far have left it, and the results arrive in
a free order (R179; log entry 1); else every read gives the source as it was. -/
def Obligations.VectorArithmetic : Prop :=
  (∀ (s : State) (p : Nat) (c : ClusterId) (w : Nat), issuing s p c w = true → wOp w = 0x30 →
    let e := takeWen s.dev c w
    let o : Vop := ⟨p, c, w⟩
    let vd := o.vd e
    let raw (n : Nat) : Desc := descOf e c n
    let x (v : Nat → Dev) (r k : Nat) : Val := srcVal (v 0) p (o.va e) r k
    let y (v : Nat → Dev) (r k : Nat) : Val := srcVal (v 1) p (o.vb e) r k
    let z (v : Nat → Dev) (r k : Nat) : Val := srcVal (v 2) p (o.vc e) r k
    let writes (i : Instr) (srcs : List Desc) (g : (Nat → Dev) → Nat → Nat → Val) : Prop :=
      ∀ f, fpOf vd.fmt = some f →
        let bad := clash (raw (wVd w)) srcs (o.maskOps e)
        let code (v : Nat → Dev) (r k : Nat) : Nat := f.enc ((g v r k).scale (-vd.exp))
        ∃ t, exec i s = .next { s with dev := finishRun c w (.queued t) } ∧
          t.mem = (writeCodes e p vd vd.rows vd.cols bad o.sel (fun v r k => (code v r k, false))).1.mem ∧
          (clashes bad = false → t.mem = (((places vd.rows vd.cols).filter (fun x => o.sel e x.1 x.2)).foldl
            (fun d x => tilePut d p vd x.1 x.2 (code (fun _ => e) x.1 x.2)) e).mem) ∧
          t.acc = e.acc ∧ t.wins = e.wins ∧ (clusterOf t c).jobs.getLast?.map Job.unit = some (.vec (wVus w))
    let two := [raw (wVa w), raw (wVb w)]
    (wFn w = 0x00 → (goVadd p c w e).free = true → writes (.vadd c) two (fun v r k => (x v r k).add (y v r k))) ∧
    (wFn w = 0x01 → (goVmul p c w e).free = true → writes (.vmul c) two (fun v r k => (x v r k).mul (y v r k))) ∧
    (wFn w = 0x02 → (goVfma p c w e).free = true →
      writes (.vfma c) (two ++ [raw (wVc w)]) (fun v r k => ((x v r k).mul (y v r k)).add (z v r k))) ∧
    (wFn w = 0x03 → (goVfmas p c w e).free = true →
      writes (.vfmas c) two (fun v r k => ((x v r k).mul (f32 (wImm32 w))).add (y v r k))) ∧
    (wFn w = 0x06 → (goVmin p c w e).free = true → writes (.vmin c) two (fun v r k => (x v r k).min (y v r k))) ∧
    (wFn w = 0x07 → (goVmax p c w e).free = true → writes (.vmax c) two (fun v r k => (x v r k).max (y v r k)))) ∧
  (∀ (d e : Dev) (bad : Nat → Bool) (n i : Nat), (look d e bad n i = d ∨ look d e bad n i = e) ∧ (bad i = false → look d e bad n i = d)) ∧
  (∀ (free m : Nat) (bad : Nat → Bool) (xs : List (Nat × Nat)), (arrivals free m bad xs).Perm xs.zipIdx ∧
    (clashes bad = false → arrivals free m bad xs = xs.zipIdx))

/-- Conversion, selection, masks, generator and function sequences (R174 to R176, R182, R183): what each writes to vd, element by
element, and whether it leaves the local non-finite flag to its completion (R110, R117). Where vd overlaps no source inexactly, the elements
selected are written with codes of the sources as they were; a Q8L destination is encoded in whole blocks, an element that is not selected
with its old value (R174). -/
def Obligations.VectorElements : Prop :=
  (∀ (s : State) (p : Nat) (c : ClusterId) (w : Nat), issuing s p c w = true → wOp w = 0x30 →
    let e := takeWen s.dev c w
    let o : Vop := ⟨p, c, w⟩
    let ra := descOf e c (wVa w)
    let rb := descOf e c (wVb w)
    let rd := descOf e c (wVd w)
    let ms := o.maskOps e
    let seed := getF e (F.mcRngSeed_seed c)
    let gyle := getF e (F.mcGyle_gyle c)
    let kept := keepScale e c (wVd w) rd (o.vd e)
    let writes (i : Instr) (m : Dev) (nonfin : Bool) : Prop :=
      ∃ t, exec i s = .next { s with dev := finishRun c w (.queued t) } ∧ t.mem = m.mem ∧ t.acc = e.acc ∧ t.wins = e.wins ∧
        (clusterOf t c).jobs.getLast?.map (fun j => (j.unit, j.nonfin)) = some (.vec (wVus w), nonfin)
    let both (i : Instr) (x : Dev × Bool) : Prop := writes i x.1 x.2
    (wFn w = 0x04 → (goVcmp p c w e).free = true → writes (.vcmp c)
      (writeMask e o rd ra.rows ra.cols (clash rd [ra, rb] ms) (fun v r k =>
        relation (wImm32 w % 8) (srcVal (v 0) p (o.va e) r k) (srcVal (v 1) p (o.vb e) r k))) false) ∧
    (wFn w = 0x05 → (goVsel p c w e).free = true → rd.fmt ≠ 0x0A → both (.vsel c)
      (writeCodes e p (o.vd e) rd.rows rd.cols (clash rd [ra, rb] [o.vm e]) everySel (fun v r k =>
        (if maskBit (v 3) p (o.vm e) r k then srcCode (v 0) p (o.va e) r k else srcCode (v 1) p (o.vb e) r k, false)))) ∧
    (wFn w = 0x05 → (goVsel p c w e).free = true → rd.fmt = 0x0A → both (.vsel c)
      (writeBlocks e p (o.vd e) (clash rd [ra, rb] [o.vm e]) everySel (fun v r k =>
        if maskBit (v 3) p (o.vm e) r k then srcVal (v 0) p (o.va e) r k else srcVal (v 1) p (o.vb e) r k))) ∧
    (∀ f, wFn w = 0x08 → (goVcvt p c w e).free = true → fpOf rd.fmt = some f → both (.vcvt c)
      (writeCodes kept p (o.vd e) rd.rows rd.cols (clash rd [ra] ms) o.sel (fun v r k =>
        let x := convCode (o.vd e) f (wRnd w == 1) seed gyle r k (tileVal (v 0) p (o.va e) r k)
        (x.1, x.2 || (fmtWide.contains rd.fmt && tileOverflow (v 0) p (o.va e) r k))))) ∧
    (wFn w = 0x08 → (goVcvt p c w e).free = true → fpOf rd.fmt = none → both (.vcvt c)
      (writeBlocks kept p (o.vd e) (clash rd [ra] ms) o.sel (fun v r k => tileVal (v 0) p (o.va e) r k))) ∧
    (wFn w = 0x09 → (goVmask p c w e).free = true → both (.vmask c)
      (writeCodes e p rd rd.rows rd.cols (clash rd [ra, rb] []) everySel (fun v r k =>
        (maskLogic (wImm32 w % 4) (tileCode (v 0) p ra r k) (tileCode (v 1) p rb r k), false)))) ∧
    (wFn w = 0x0C → (goVrng p c w e).free = true → wImm32 w % 4 ≠ 2 → both (.vrng c)
      (writeCodes e p rd rd.rows rd.cols (clash rd [] ms) o.sel (fun _ r k =>
        (rngCode rd (wImm32 w % 4) (laneDraw seed gyle rd.tensor (rd.index r k) 1), false)))) ∧
    (wFn w = 0x0C → (goVrng p c w e).free = true → wImm32 w % 4 = 2 → writes (.vrng c)
      (writeMask e o rd ra.rows ra.cols (clash rd [] ms) (fun _ r k =>
        decide ((laneDraw seed gyle ra.tensor (ra.index r k) 1).toNat / 2 ^ 34 < wImm32 w / 4))) false) ∧
    (∀ f, wFn w = 0x0D → (goVseq p c w e).free = true → fpOf rd.fmt = some f → both (.vseq c)
      (writeCodes e p (o.vd e) rd.rows rd.cols (clash rd [ra] ms) o.sel (fun v r k =>
        (seqEval (wImm32 w % 256) f (o.vd e).exp (tileVal (v 0) p (o.va e) r k), false))))) ∧
  (∀ (d : Dev) (p : Nat) (t : Desc) (bad : Nat → Bool) (sel : Dev → Nat → Nat → Bool), (∀ i, bad i = false) →
    (∀ (rows cols : Nat) (code : (Nat → Dev) → Nat → Nat → Nat × Bool),
      let chosen := (places rows cols).filter (fun x => sel d x.1 x.2)
      writeCodes d p t rows cols bad sel code =
        (chosen.foldl (fun e x => tilePut e p t x.1 x.2 (code (fun _ => d) x.1 x.2).1) d, chosen.any (fun x => (code (fun _ => d) x.1 x.2).2))) ∧
    (∀ val : (Nat → Dev) → Nat → Nat → Val,
      let pos (n i : Nat) : Nat × Nat := if t.trans then (i, n) else (n, i)
      let chosen (n i : Nat) : Bool := sel d (pos n i).1 (pos n i).2
      let code (n b : Nat) : Nat × List Nat × Bool := q8lEncode ((List.range 256).map (fun i =>
        let k := 256 * b + i
        (if chosen n k then val (fun _ => d) (pos n k).1 (pos n k).2 else tileVal d p t (pos n k).1 (pos n k).2).scale (-t.exp)))
      let some256 := (places t.lines (cdiv t.lineLen 256)).filter (fun x => (List.range 256).any (fun i => chosen x.1 (256 * x.2 + i)))
      writeBlocks d p t bad sel val =
        (some256.foldl (fun e x => putLine e p t x.1 (258 * x.2)
          ((code x.1 x.2).2.1.map (BitVec.ofNat 8) ++ leBytes 2 (code x.1 x.2).1)) d, some256.any (fun x => (code x.1 x.2).2.2))))

/-- VCOMPRESS and VEXPAND (R177, R178): Gg takes the number of selected places, and compress_trunc or expand_short is set when vd or
va is too small; the selected elements are written, or read, in row-major order. VREDMAX and VREDMIN (R185) write one pair for the tile, or
for each row, of plain elements or of pairs. VNONFIN writes nothing and leaves its finding to its completion (R186). Where vd overlaps a
source inexactly the reads and the bits of the mask are free as R179 says (log entry 1). -/
def Obligations.VectorSelections : Prop :=
  ∀ (s : State) (p : Nat) (c : ClusterId) (w : Nat), issuing s p c w = true → wOp w = 0x30 →
    let e := takeWen s.dev c w
    let o : Vop := ⟨p, c, w⟩
    let ra := descOf e c (wVa w)
    let rd := descOf e c (wVd w)
    let ms := o.maskOps e
    let g := F.mcG_value c (wImm32 w % 16)
    let picked (t : Desc) : List (Nat × Nat) × Dev := chosenBy e p rd (o.vm e) t.rows t.cols
    let count (t : Desc) : Nat := (picked t).1.length
    let bits1 := bitOf (wImm32 w) 1
    let fmt := if bits1 then bits w 79 72 else ra.fmt
    let rowsOf (i : Nat) : List Nat := if bitOf (wImm32 w) 0 then [i] else List.range ra.rows
    let n := if bitOf (wImm32 w) 0 then ra.rows else 1
    let result (isMax : Bool) (v : Nat → Nat → Dev) (i : Nat) : Nat × Nat :=
      ((rowsOf i).flatMap (rowPairs v o ra bits1)).foldl (maxPair isMax fmt) (identPair isMax fmt)
    let pair (isMax : Bool) (d : Dev) (v : Nat → Nat → Dev) (i : Nat) : Dev :=
      tilePut (tilePut d p rd i 0 (result isMax v i).1) p rd i 1 (result isMax v i).2
    let reduces (i : Instr) (isMax : Bool) : Prop := ∃ t, exec i s = .next { s with dev := finishRun c w (.queued t) } ∧ t.acc = e.acc ∧
      t.mem = (writeResults e (clash rd [ra] ms) (ra.rows * ra.cols) (List.range n) (fun d v i => (pair isMax d v i, false))).1.mem ∧
      (clashes (clash rd [ra] ms) = false → t.mem = ((List.range n).foldl (fun d i => pair isMax d (fun _ _ => e) i) e).mem)
    (∀ t : Desc, badOverlap rd (o.vm e) = false →
      picked t = ((places t.rows t.cols).filter (fun x => maskBit e p (o.vm e) x.1 x.2), e)) ∧
    (wFn w = 0x0A → (goVcompress p c w e).free = true → count ra < 2 ^ 64 →
      ∃ t, exec (.vcompress c) s = .next { s with dev := finishRun c w (.queued t) } ∧ getF t g = count ra ∧
        (rd.rows * rd.cols < count ra → getF t (F.vecStatus_compress_trunc c) = 1) ∧ t.acc = e.acc ∧
        t.mem = (writeResults (picked ra).2 (clash rd [ra] []) 1 ((places rd.rows rd.cols).zip (picked ra).1) (fun d v x =>
          (tilePut d p rd x.1.1 x.1.2 (tileCode (v 0 0) p ra x.2.1 x.2.2), false))).1.mem ∧
        (badOverlap rd ra = false → t.mem = (((places rd.rows rd.cols).zip (picked ra).1).foldl (fun d x =>
          tilePut d p rd x.1.1 x.1.2 (tileCode (picked ra).2 p ra x.2.1 x.2.2)) (picked ra).2).mem)) ∧
    (wFn w = 0x0B → (goVexpand p c w e).free = true → count rd < 2 ^ 64 →
      let code (d : Dev) (i : Nat) : Nat := if i < ra.rows * ra.cols then tileCode d p ra (i / ra.cols) (i % ra.cols) else 0
      ∃ t, exec (.vexpand c) s = .next { s with dev := finishRun c w (.queued t) } ∧ getF t g = count rd ∧
        (ra.rows * ra.cols < count rd → getF t (F.vecStatus_expand_short c) = 1) ∧ t.acc = e.acc ∧
        t.mem = (writeResults (picked rd).2 (clash rd [ra] []) 1 (picked rd).1.zipIdx (fun d v x =>
          (tilePut d p rd x.1.1 x.1.2 (code (v 0 0) x.2), false))).1.mem ∧
        (badOverlap rd ra = false → t.mem = ((picked rd).1.zipIdx.foldl
          (fun d x => tilePut d p rd x.1.1 x.1.2 (code (picked rd).2 x.2)) (picked rd).2).mem)) ∧
    (wFn w = 0x0E → (goVredmax p c w e).free = true → reduces (.vredmax c) true) ∧
    (wFn w = 0x0F → (goVredmin p c w e).free = true → reduces (.vredmin c) false) ∧
    (wFn w = 0x10 → (goVnonfin p c w e).free = true →
      ∃ t, exec (.vnonfin c) s = .next { s with dev := finishRun c w (.queued t) } ∧ t.mem = e.mem ∧ t.acc = e.acc ∧
        (clusterOf t c).jobs.getLast?.map Job.nonfin =
          some ((places ra.rows ra.cols).any (fun x => o.sel e x.1 x.2 && nonFinite e p ra x.1 x.2)))

/-! ## The kiln -/

/-- Kiln rings (R142 to R144, R165, R168): a store that enables takes base and size and enables a ring of 4 to 4,096 entries whose base lies
in the HBM window; one with its base outside leaves the ring disabled and sets ring_err; one to an enabled ring that does not clear en only
sets wr_err; clearing en resolves every job picked up and leaves head at 0. The entry at head that is owned is read and head moves on: one
that passes the checks becomes a job, one that fails resolves at once; nothing is picked up while the entry or its factor block's header is
held. The next job in ring order that has its cores and banks starts on them, in the mode of its gyle. -/
def Obligations.KilnRings : Prop :=
  (∀ (s : State) (p : PartId) (v : Word), s.dev.powerGood = true →
     let n := bits v.toNat 51 48
     let base := bits v.toNat 47 7
     let based := setF (setF s.dev (F.klnRing_base p) base) (F.klnRing_size_log2 p) n
     (flag s.dev (F.klnRing_en p) = false → bitOf v.toNat 63 = true → 2 ≤ n → n ≤ 12 → 128 * base < 0x014000000000 →
       exec (.kilnRingEnable p v) s = .next { s with dev := setF based (F.klnRing_en p) 1 }) ∧
     (flag s.dev (F.klnRing_en p) = false → bitOf v.toNat 63 = true → 2 ≤ n → n ≤ 12 → 0x014000000000 ≤ 128 * base →
       exec (.kilnRingEnable p v) s = .next { s with dev := setF based (F.klnRstat_ring_err p) 1 }) ∧
     (flag s.dev (F.klnRing_en p) = true → bitOf v.toNat 63 = true →
       exec (.kilnRingEnable p v) s = .next { s with dev := setF s.dev (F.klnRstat_wr_err p) 1 }) ∧
     (flag s.dev (F.klnRing_en p) = true → bitOf v.toNat 63 = false →
       ∃ t, exec (.kilnRingDisable p v) s = .next t ∧ getF t.dev (F.klnRing_en p) = 0 ∧ getF t.dev (F.klnRhead_head p) = 0 ∧
         kjobsOf t.dev p = [] ∧ t.sec = s.sec ∧ (kjobsOf s.dev p ≠ [] → getF t.dev (F.klnRstat_resolved p) =
           (getF s.dev (F.klnRstat_resolved p) + (kjobsOf s.dev p).length) % 2 ^ (F.klnRstat_resolved p).width))) ∧
  (∀ (s : State) (p : PartId), s.dev.powerGood = true →
     let head := getF s.dev (F.klnRhead_head p)
     let a := 128 * getF s.dev (F.klnRing_base p) + 128 * head
     let j := newJob s.dev p a head
     let size := 2 ^ getF s.dev (F.klnRing_size_log2 p)
     let d := setF (noteRead (noteRead s.dev p a 128) p j.fblk 64) (F.klnRhead_head p) ((head + 1) % size)
     let owned : Prop := flag s.dev (F.klnRing_en p) = true ∧ viewNat s.dev p a 8 % 2 = 1 ∧
       ((freeCores s.dev p ≠ []) ∨ grantedCores s.dev p = [])
     let ready : Prop := owned ∧ heldWrite s.dev p a 128 = false ∧ heldRange s.dev p j.fblk 64 = false
     (ready → pickupCode d p j = none →
       exec (.kilnJobPickup p) s = .next { s with dev := { d with kjobs := Tab.put d.kjobs p (kjobsOf d p ++ [meetDeadline d p j]) } }) ∧
     (∀ code, ready → pickupCode d p j = some code →
       exec (.kilnJobPickup p) s = .next { s with dev := resolveJob d p j code }) ∧
     (owned → heldWrite s.dev p a 128 = true ∨ heldRange s.dev p j.fblk 64 = true →
       exec (.kilnJobPickup p) s = .next { s with dev := steadyBroken s.dev }) ∧
     (∀ i k cs bs, startable? s.dev p = some (i, k, cs, bs) → ∃ t, exec (.kilnJobStart p) s = .next t ∧
       ((kjobsOf t.dev p)[i]?).map (fun x => (x.started, x.cores, x.banks, x.mode)) = some (true, cs, bs, some (jobMode s.dev p k)) ∧
       (∀ core ∈ cs, getF t.dev (F.klnCore_part core) = p ∧ getF t.dev (F.klnCore_state core) ≠ 1) ∧ t.dev.mem = s.dev.mem))

/-- INIT and FOLD (R141, R148, R160): INIT decides INITIALISED, and leaves its slots and header to its resolution (O28). A fold takes the skip
decision when it is known: a skipped gyle or a lost history decides the job, else the statistics fold into the inactive factor slot,
and a value that is not finite ends the job with nothing folded. -/
def Obligations.KilnInitAndFold : Prop :=
  ∀ (s : State) (p : PartId) (i : Nat) (j : KilnJob), s.dev.powerGood = true → workingJob s.dev p i = some j → jobHeld s.dev p j = false →
    let d := noteRead (noteRead s.dev p j.fblk (blockSize j.n)) p j.gaddr (j.n * j.n * (if j.gWide then 8 else 4))
    let f := foldedFactor s.dev p j
    let decided : KilnJob := { j with decided := true }
    let done : KilnJob := { decided with folded := some (foldedCount d p j) }
    let pending : Prop := j.folds = true ∧ j.decided = false ∧ j.folded = none
    let code (c : Nat) : Nat := if j.policy = 2 ∧ c ≠ j.repStatus then 0x18 else c
    (j.op = 0 → foldDone j = true →
      exec (.init p i) s = .next { s with dev := setJob s.dev p i { j with outcome := some (code 6) } }) ∧
    (pending → skipDecision s.dev p j = some (some false) → matFinite f = true →
      ∃ t, exec (.fold p i) s = .next t ∧ t.dev.mem = (writeFactor d p j.fblk j.n (1 - headFsel d p j.fblk) f).mem ∧
        (kjobsOf t.dev p)[i]? = some (if j.op = 1 then { done with outcome := some (code 5) } else meetDeadline s.dev p done)) ∧
    (pending → skipDecision s.dev p j = some (some false) → matFinite f = false →
      exec (.fold p i) s = .next { s with dev := setJob d p i { decided with outcome := some (code 0x0B) } }) ∧
    (pending → skipDecision s.dev p j = some (some true) →
      exec (.fold p i) s = .next { s with dev := setJob s.dev p i { decided with outcome := some (code 0x0C) } }) ∧
    (pending → skipDecision s.dev p j = some none →
      exec (.fold p i) s = .next { s with dev := setJob s.dev p i { decided with outcome := some (code 0x19) } }) ∧
    (pending → skipDecision s.dev p j = none → ∃ t, exec (.fold p i) s = .next t ∧ kjobsOf t.dev p = kjobsOf s.dev p ∧
      t.dev.mem = s.dev.mem) ∧
    (pending → bitOf (j.w 12) 17 = false → skipDecision s.dev p j = some (some false) →
      exec (.foldOutcomeAvailable p i) s = .next { s with dev := setJob s.dev p i decided }) ∧
    (pending → bitOf (j.w 12) 17 = false → skipDecision s.dev p j = some (some true) →
      exec (.foldOutcomeAvailable p i) s = .next { s with dev := setJob s.dev p i { decided with outcome := some (code 0x0C) } }) ∧
    (pending → bitOf (j.w 12) 17 = false → skipDecision s.dev p j = some none →
      exec (.foldOutcomeAvailable p i) s = .next { s with dev := setJob s.dev p i { decided with outcome := some (code 0x19) } })

/-- The operations (R147, R149 to R155, R160): ROOT and SOLVE prepare on their first command and then take iterations one by one until one
decides; CHOL and LDLT run whole and write the factor to the inactive root slot, or keep the old result when a value overflows. The lent
clusters that take tiles of a streamed ROOT change none of its results; one whose banks the kiln does not own stops the attempt. A job with
a page held waits. -/
def Obligations.KilnOperations : Prop :=
  ∀ (s : State) (p : PartId) (i steps : Nat) (given : List (ClusterId × Nat)) (j : KilnJob), s.dev.powerGood = true →
    workingJob s.dev p i = some j →
    let free : Prop := jobHeld s.dev p j = false ∧ foldDone j = true
    let d := noteRead s.dev p j.fblk (blockSize j.n)
    let u := useArea d p j
    let ref := jobRef s.dev p j
    let k (ldl : Bool) : KilnWork := factorise ref j.n ldl (prepareJob u p j)
    let pivots (ldl : Bool) : KilnJob := { j with work := { KilnWork.fresh with pivots := (k ldl).pivots } }
    let result (ldl : Bool) : Dev := writeRoot u p j.fblk j.n (1 - headRsel u p j.fblk) j.n (factorResult j.n ldl (k ldl))
    let replay9 : Prop := j.policy = 2 ∧ j.repStatus = 9
    let root := rootLoop p steps d (rootReady s.dev p j)
    let products := (root.2.work.iter - j.work.iter) * (2 + j.pLog)
    let fixed : Bool := jobMode s.dev p j == 1 || jobMode s.dev p j == 3
    let takes := guestTakes s.dev p j.cores.length (products * tilesOf j.n) fixed (given.map (fun x => (x.1.val, x.2)))
    let e := useArea (noteRead d p j.rhs (4 * j.n * j.m)) p j
    let solve := solveLoop p steps e (solveReady e p j)
    (free → j.op = 2 → streams s.dev p j = false →
      exec (.root p i steps given) s = .next { s with dev := setJob (showIter (endGuests root.1 p j.idx) root.2) p i root.2 }) ∧
    (free → j.op = 2 → streams s.dev p j = true → (∀ x ∈ takes, x.2 ≠ 0 → guestShut s.dev x.1 = false ∧ inBubble s.dev x.1 = true) →
      ∃ t, exec (.root p i steps given) s = .next t ∧ (kjobsOf t.dev p)[i]? = some root.2 ∧
        ∀ x ∈ takes, x.2 ≠ 0 → root.2.outcome = none → (clusterOf t.dev x.1).guest = some ⟨p, j.idx, lentBanks s.dev x.1⟩) ∧
    (∀ x, free → j.op = 2 → streams s.dev p j = true → x ∈ takes → x.2 ≠ 0 → guestShut s.dev x.1 = true →
      (∀ y ∈ takes, y.2 ≠ 0 → inBubble s.dev y.1 = true) → j.retries < 2 → j.cores ≠ [] →
      ∃ t, exec (.root p i steps given) s = .next t ∧ getF t.dev (F.bankStatus_nonown x.1) = 1 ∧ t.dev.mem = s.dev.mem ∧
        (kjobsOf t.dev p)[i]? = some { j with retries := j.retries + 1, decided := false, folded := none, work := KilnWork.fresh }) ∧
    (free → j.op = 3 → ¬replay9 → (k false).ready = true →
      exec (.chol p i) s = .next { s with dev := setJob (result false) p i (opOutcome (pivots false) 7) }) ∧
    (free → j.op = 3 → ¬replay9 → (k false).ready = false →
      exec (.chol p i) s = .next { s with dev := setJob u p i (opOutcome (pivots false) 0x0B) }) ∧
    (free → j.op = 4 → ¬replay9 → (k true).ready = true →
      exec (.ldlt p i) s = .next { s with dev := setJob (result true) p i (opOutcome (pivots true) 7) }) ∧
    (free → j.op = 4 → ¬replay9 → (k true).ready = false →
      exec (.ldlt p i) s = .next { s with dev := setJob u p i (opOutcome (pivots true) 0x0B) }) ∧
    (free → j.op = 3 → replay9 → exec (.chol p i) s = .next { s with dev := setJob s.dev p i { j with outcome := some 9 } }) ∧
    (free → j.op = 4 → replay9 → exec (.ldlt p i) s = .next { s with dev := setJob s.dev p i { j with outcome := some 9 } }) ∧
    (free → j.op = 5 → ¬replay9 →
      exec (.solve p i steps) s = .next { s with dev := setJob (showIter solve.1 solve.2) p i solve.2 }) ∧
    (free → j.op = 5 → replay9 →
      exec (.solve p i steps) s = .next { s with dev := setJob (showIter e { j with outcome := some 9 }) p i { j with outcome := some 9 } }) ∧
    (jobHeld s.dev p j = true → ∀ c ∈ [Instr.init p i, .fold p i, .root p i steps given, .chol p i, .ldlt p i, .solve p i steps],
      exec c s = .next { s with dev := steadyBroken s.dev }) ∧
    (∀ (n : Nat) (x : Dev) (y : KilnJob), y.outcome = none →
      let r := rootStep (jobRef x p y) y.n y.pLog y.cap y.convTol y.work
      let kept := match r.best with
        | some best => writeRoot x p y.fblk y.n (1 - headRsel x p y.fblk) y.n best
        | none => x
      rootLoop p (n + 1) x y = rootLoop p n kept (afterStep { y with work := r.work } r.fate) ∧ r.work.iter = y.work.iter + 1)

/-- Resolution (R140, R141, R161, R163, R167): a decided job leaves the ring's unresolved jobs. Its header is written, whose slots an INIT
fills with zeros and the identity first; then words 13 and 14 of its descriptor, and last its word 0, with own = 0 and its status.
KLN_RSTATp.resolved counts it and the batch record of its gyle takes an entry of it; a job decided at its deadline does so as the deadline
commit, and one whose block is held waits. R133, R166: an uncorrectable error in a bank a running job uses discards its attempt, which begins
again from the job's inputs; a third time the job resolves FAULT; a core's first failure does the same and its second retires it; an error
in a bank no running job uses is a module fault; a corrected read is counted and a clean one changes nothing. -/
def Obligations.KilnResolution : Prop :=
  (∀ (s : State) (p : PartId) (i code : Nat) (j : KilnJob), s.dev.powerGood = true → (kjobsOf s.dev p)[i]? = some j →
     j.outcome = some code →
     let h := writeHead s.dev p j code
     let head (k : Nat) : Nat := headWord h p j.fblk k
     let w0 := putBits (putBits (j.w 0) 31 24 code) 0 0 0
     let w13 (gen : Nat) : Nat := gen * 2 ^ 32 + j.work.pivots % 2 ^ 16 * 2 ^ 16 + j.retries % 16 * 2 ^ 12 + j.work.iter % 2 ^ 8
     let w14 := min ((ftcOf s.dev - j.ftc) / 2000) (2 ^ 32 - 1) * 2 ^ 32 + reportedResidual j code
     let zeros := buildMat j.n j.n (fun _ _ => 0)
     let init := writeRoot (writeFactor s.dev p j.fblk j.n 0 zeros) p j.fblk j.n 0 j.n (matOne j.n)
     let resolved (t : State) : Prop := kjobsOf t.dev p = (kjobsOf s.dev p).eraseIdx i ∧
       (∃ gen, (j.fblk % 4096 = 0 → inHbmWindow h p j.fblk 64 = true → gen = bits (head 0) 63 32) ∧
         t.dev.mem = (viewWriteNat (viewWriteNat (viewWriteNat h p (j.slot + 104) 8 (w13 gen)) p (j.slot + 112) 8 w14) p j.slot 8 w0).mem ∧
         let entry : KilnEntry := ⟨bits (head 5) 31 0, bits (head 5) 32 32, code, j.work.iter, j.work.pivots, gen⟩
         let b := batchOf s.dev p j.gyle
         if flag s.dev (F.fabNflag_chk_valid p) = true ∧ j.gyle ≤ getF s.dev (F.fabNflag_chk_gyle p) then
           (batchOf t.dev p j.gyle).kiln = b.kiln ++ [entry]
         else (batchOf t.dev p j.gyle).early = b.early ++ [entry]) ∧
       getF t.dev (F.klnRstat_resolved p) = (getF s.dev (F.klnRstat_resolved p) + 1) % 2 ^ (F.klnRstat_resolved p).width ∧ t.sec = s.sec
     (jobHeld s.dev p j = false → j.atDeadline = false → ∃ t, exec (.kilnJobResolve p i) s = .next t ∧ resolved t) ∧
     (jobHeld s.dev p j = false → j.atDeadline = true → ∃ t, exec (.kilnDeadlineCommit p i) s = .next t ∧ resolved t) ∧
     (jobHeld s.dev p j = true → j.atDeadline = false → exec (.kilnJobResolve p i) s = .next { s with dev := steadyBroken s.dev }) ∧
     (jobHeld s.dev p j = true → j.atDeadline = true → exec (.kilnDeadlineCommit p i) s = .next { s with dev := steadyBroken s.dev }) ∧
     (code = 6 → h.mem = (viewWrite init p j.fblk ((headAfter init p j 6).flatMap (leBytes 8))).mem) ∧
     (headStatus code = false → code ≠ 6 → h = s.dev)) ∧
  (∀ (s : State) (p : PartId) (i : Nat) (j : KilnJob) (b : Fin 52), s.dev.powerGood = true →
     let fresh (cs : List Nat) : KilnJob :=
       { j with retries := j.retries + 1, decided := false, folded := none, work := KilnWork.fresh, cores := cs }
     let running : Prop := (kjobsOf s.dev p)[i]? = some j ∧ j.started = true ∧ j.outcome = none ∧ j.cores ≠ []
     let again (c : Instr) (k : KilnJob) : Prop := ∃ t, exec c s = .next t ∧ (kjobsOf t.dev p)[i]? = some k ∧ t.dev.mem = s.dev.mem ∧
       ∀ core ∈ k.cores, getF t.dev (F.klnCore_iter core) = 0
     (running → j.banks ≠ [] → j.retries < 2 → again (.kilnAttemptRestart p i .bank) (fresh j.cores)) ∧
     (running → streams s.dev p j = true → j.retries < 2 → again (.kilnAttemptRestart p i .lentCluster) (fresh j.cores)) ∧
     (∀ core : Fin 8, running → core.val ∈ j.cores → j.retries < 2 → core.val ∉ s.dev.coreFails →
       again (.kilnAttemptRestart p i (.core core)) { fresh j.cores with want := j.cores.length }) ∧
     (∀ core : Fin 8, running → core.val ∈ j.cores → core.val ∈ s.dev.coreFails →
       ∃ t, exec (.kilnAttemptRestart p i (.core core)) s = .next t ∧ bitOf (getF t.dev (F.klnPcfg_cores p)) core = false ∧
         (j.retries < 2 → (∃ x ∈ j.cores, x ≠ core.val) →
           (kjobsOf t.dev p)[i]? = some { fresh (j.cores.filter (fun x => x != core.val)) with want := j.cores.length })) ∧
     (running → j.banks ≠ [] → 2 ≤ j.retries →
       ∃ t, exec (.kilnAttemptRestart p i .bank) s = .next t ∧ kjobsOf t.dev p = (kjobsOf s.dev p).eraseIdx i ∧
         getF t.dev (F.klnRstat_resolved p) = (getF s.dev (F.klnRstat_resolved p) + 1) % 2 ^ (F.klnRstat_resolved p).width ∧
         getF t.dev (F.klnIrq_err p) = 1) ∧
     (running → b.val ∈ j.banks → j.retries < 2 →
       (∀ (q k : Nat) (x : KilnJob), q < 4 → (kjobsOf s.dev q)[k]? = some x → x.started = true → x.outcome = none → b.val ∈ x.banks →
         q = p.val ∧ k = i) → again (.kilnBankScrub b .uncorrectable) (fresh j.cores)) ∧
     ((∀ q < 4, ∀ x ∈ kjobsOf s.dev q, x.started = true → x.outcome = none → b.val ∉ x.banks) →
       exec (.kilnBankScrub b .uncorrectable) s = .next { s with dev := moduleFault s.dev (.kilnBank b) }) ∧
     exec (.kilnBankScrub b .clean) s = .next s ∧
     ∀ n, exec (.kilnBankScrub b (.correctable n)) s =
       .next { s with dev := { s.dev with kilnCe := Tab.put s.dev.kilnCe b.val ((Tab.get? s.dev.kilnCe b.val).getD 0 + 1) } })

/-! ## The optimizer rack -/

/-- Sweep requests (R193, R196, R203, R209): a request for the next gyle's flag check is armed; one whose check is done is evaluated, and
waits for a held page of its list, runs, or is refused with the code of Table 8.9; a request whose gyle's check is past or too far
ahead is refused with code 2, one while another is under way with code 1, and one that names no gyle with code 5 before any other check; a
stop discards the blocks in progress and leaves the sweep stopped. -/
def Obligations.SweepRequests : Prop :=
  ∀ (s : State) (p : PartId) (v : Word), s.dev.powerGood = true →
    let n := bits v.toNat 47 0
    let c := getF s.dev (F.fabNflag_chk_gyle p)
    let fields := setF (setF s.dev (F.rkSweep_resume p) (bits v.toNat 61 61)) (F.rkSweep_gyle p) n
    let request : Prop := bitOf v.toNat 63 = true ∧ bitOf v.toNat 62 = false
    let start : Prop := request ∧ rackLocked s.dev p = false ∧ n ≠ noGyle
    let done : Prop := start ∧ flag s.dev (F.fabNflag_chk_valid p) = true ∧ c = n
    let refused (code : Nat) (state : Nat) : Prop := ∃ t, exec (.sweepStart p v) s = .next t ∧
      sweepState t.dev p = state ∧ getF t.dev (F.rkSstat_err p) = code ∧ getF t.dev (F.rkIrq_refused p) = 1 ∧ t.dev.mem = s.dev.mem ∧
      sweepOf t.dev p = sweepOf s.dev p
    (start → flag s.dev (F.fabNflag_chk_valid p) = false ∨ c + 1 = n →
      exec (.sweepStart p v) s = .next { s with dev := setF fields (F.rkSstat_state p) 1 }) ∧
    (start → flag s.dev (F.fabNflag_chk_valid p) = true → c ≠ n → c + 1 ≠ n → refused 2 6) ∧
    (done → earlyCode fields p = none → evalHeld fields p = false → listCode fields p n = none → ownedLayers fields p ≠ [] →
      ∃ t, exec (.sweepStart p v) s = .next t ∧ sweepState t.dev p = 2 ∧ t.sec = s.sec ∧
        let w := sweepOf t.dev p
        w.gyle = n ∧ w.mode = gyleMode s.dev p n ∧ w.layers.map SweepLayer.words = ownedLayers fields p ∧ w.handed = 0 ∧
        w.units = unitsOf s.dev p ∧ w.resume = bitOf v.toNat 61) ∧
    (done → earlyCode fields p = none → evalHeld fields p = true → ∃ t, exec (.sweepStart p v) s = .next t ∧
      sweepState t.dev p = 1 ∧ (Tab.get? t.dev.evals p.val).map SweepEval.gyle = some n ∧ t.dev.mem = s.dev.mem) ∧
    (∀ code, done → earlyCode fields p = some code → refused code 6) ∧
    (∀ code, done → earlyCode fields p = none → evalHeld fields p = false → listCode fields p n = some code → refused code 6) ∧
    (request → sweepBusy s.dev p = true → n ≠ noGyle → getF s.dev (F.rkSweep_gyle p) ≠ noGyle → refused 1 (sweepState s.dev p)) ∧
    (request → n = noGyle → refused 5 (if sweepBusy s.dev p then sweepState s.dev p else 6)) ∧
    (bitOf v.toNat 62 = true → bitOf v.toNat 63 = false → sweepState s.dev p = 2 → ∃ t, exec (.sweepStop p v) s = .next t ∧
      sweepState t.dev p = 4 ∧ anyWork t.dev p = false ∧ getF t.dev (F.rkIrq_done p) = 1 ∧ t.dev.mem = s.dev.mem)

/-- Handing out (R190, R202, R204): the next block in sweep order goes to a unit that is ready for it, to its moment phase when its stamps
agree below the gyle; in a resumed sweep to its weight phase, or is passed over, when its stamps say so; any other pair of stamps
leaves a stamp fault, which faults the sweep once no block is in progress. A block that waits to run a phase again goes first; a layer
that has not been started is started first (R197); a held header makes the sweep wait. -/
def Obligations.BlockHandout : Prop :=
  ∀ (s : State) (p : PartId) (u : RackId), s.dev.powerGood = true → sweepState s.dev p = 2 →
    let w := sweepOf s.dev p
    let ws := layerWords w w.layer
    let m := bits (headerWord s.dev p ws w.block 0) 47 0
    let x := bits (headerWord s.dev p ws w.block 1) 47 0
    let slot := if lStaged ws && !w.resume then some (slotOfBlock s.dev p w.staged) else none
    let next : Prop := againFor s.dev p u = none ∧ w.stamp = false ∧ w.layer < w.layers.length ∧ unitReady s.dev p u = true
    let turn : Prop := next ∧ w.begun = true ∧ heldRange s.dev p (lHead ws + 64 * w.block) 64 = false
    (turn → m = x → m ≠ w.gyle → ∃ t, exec (.blockHandout p u) s = .next t ∧
      workOf t.dev u = some ⟨p, w.layer, w.block, slot, false⟩ ∧ (sweepOf t.dev p).handed = w.handed + 1 ∧
      getF t.dev (F.rkUnit_part u) = p) ∧
    (turn → w.resume = true → m = w.gyle → x ≠ w.gyle → ∃ t, exec (.blockHandout p u) s = .next t ∧
      workOf t.dev u = some ⟨p, w.layer, w.block, none, true⟩ ∧ (sweepOf t.dev p).handed = w.handed + 1) ∧
    (turn → w.resume = true → m = w.gyle → x = w.gyle → ∃ t, exec (.blockHandout p u) s = .next t ∧
      workOf t.dev u = none ∧ (sweepOf t.dev p).handed = w.handed + 1) ∧
    (turn → (w.resume = false ∧ (m ≠ x ∨ m = w.gyle)) ∨ (m ≠ x ∧ m ≠ w.gyle) → ∃ t, exec (.blockHandout p u) s = .next t ∧
      (sweepOf t.dev p).stamp = true ∧ workOf t.dev u = none ∧ t.dev.mem = s.dev.mem ∧
      (anyWork s.dev p = false → sweepState t.dev p = 7 ∧ getF t.dev (F.rkSstat_err p) = 9)) ∧
    (next → w.begun = false → heldWrite s.dev p (lRecord ws) (recordSize ws) = false → ∃ t, exec (.blockHandout p u) s = .next t ∧
      sweepOf t.dev p = { w with begun := true } ∧ workOf t.dev u = none) ∧
    (next → w.begun = true → heldRange s.dev p (lHead ws + 64 * w.block) 64 = true →
      exec (.blockHandout p u) s = .next { s with dev := steadyBroken s.dev }) ∧
    (∀ y, againFor s.dev p u = some y → u.val ∈ unitsOf s.dev p → workOf s.dev u = none → getF s.dev (F.rkUnit_state u) ≠ 4 →
      ∃ t, exec (.blockHandout p u) s = .next t ∧ workOf t.dev u = some y.1 ∧
        sweepOf t.dev p = { w with again := w.again.erase y } ∧ t.dev.mem = s.dev.mem)

/-- The phases of a block (R198, R201, R204, R206): the moment phase reads its gradients, frees the staging slot they came from and leaves the
unit with the weight phase to do; the weight phase frees the unit and the block is done; either waits while a page it uses is held. An
uncorrectable error in the slot faults the sweep. A phase that fails before its write-out runs again on another unit from its unchanged
inputs, and the unit's second failure retires it; one that fails during its write-out faults the sweep. -/
def Obligations.BlockPhases : Prop :=
  ∀ (s : State) (u next : RackId) (found : Found) (w : RackWork) (ws : List Nat), s.dev.powerGood = true →
    let d := s.dev
    let sw := sweepOf d w.p
    let read := readArrays d w ws
    let taken : Dev := match w.slot with
      | some b => freeSlot read w.p b
      | none => read
    let moments := countPhase (momentBlock taken sw.ref w.p ws sw.exp sw.gyle w.block (gradients d w ws)) w.p u
    let weights := countPhase (weightBlock read sw.ref w.p ws sw.gyle w.block) w.p u
    let faulted (c : Instr) : Prop := ∃ t, exec c s = .next t ∧ sweepState t.dev w.p = 7 ∧ getF t.dev (F.rkSstat_err w.p) = 0x0A ∧
      getF t.dev (F.rkIrq_fault w.p) = 1 ∧ workOf t.dev u = none ∧ t.dev.mem = d.mem
    (readyWork d u false = some (w, ws) → blockHeld d w ws = false → w.slot = none ∨ found ≠ .uncorrectable →
      exec (.momentPhase u found) s =
        .next { s with dev := { moments with rack := Tab.put moments.rack u { w with slot := none, weight := true } } }) ∧
    (readyWork d u false = some (w, ws) → blockHeld d w ws = false → w.slot ≠ none → faulted (.momentPhase u .uncorrectable)) ∧
    (readyWork d u true = some (w, ws) → blockHeld d w ws = false →
      exec (.weightPhase u) s = .next { s with dev := settleStamp (blockDone (freeUnit weights u) w.p w.layer) w.p }) ∧
    (readyWork d u false = some (w, ws) → blockHeld d w ws = true →
      exec (.momentPhase u found) s = .next { s with dev := steadyBroken d }) ∧
    (readyWork d u true = some (w, ws) → blockHeld d w ws = true → exec (.weightPhase u) s = .next { s with dev := steadyBroken d }) ∧
    (workOf d u = some w → u.val ∉ d.rackFails → next ≠ u → next.val ∈ unitsOf d w.p → workOf d next = none →
      getF d (F.rkUnit_state next) ≠ 4 → sweepState d w.p = 2 → sw.again = [] →
      ∃ t, exec (.rackPhaseRetry u next false) s = .next t ∧ workOf t.dev next = some w ∧ workOf t.dev u = none ∧
        u.val ∈ t.dev.rackFails ∧
        getF t.dev (F.rkUnit_retries u) = min (getF d (F.rkUnit_retries u) + 1) (2 ^ (F.rkUnit_retries u).width - 1) ∧
        t.dev.mem = d.mem) ∧
    (workOf d u = some w → u.val ∈ d.rackFails → ∃ t, exec (.rackPhaseRetry u next false) s = .next t ∧
      bitOf (getF t.dev (F.rkPcfg_units w.p)) u = false ∧ getF t.dev (F.rkUnit_state u) = 4 ∧ t.dev.mem = d.mem) ∧
    (workOf d u = some w → faulted (.rackPhaseRetry u next true))

/-- Layers and checks (R195, R206 to R208): a layer whose blocks are all done posts its event, and the sweep is done with the last of
them; a write into staging puts its bytes there; a replica check whose blocks match changes no page's poison and ends; a mismatched block's
pages are poisoned and counted; an owner block that matches its digest changes nothing but its pages' ages, one that does not loses them. -/
def Obligations.LayersAndChecks : Prop :=
  ∀ (s : State) (p : PartId), s.dev.powerGood = true →
    let w := sweepOf s.dev p
    let posted (l : Nat) (x : SweepLayer) : List SweepLayer := w.layers.set l { x with posted := true }
    let poisonOf (d : Dev) (t : Tier) (k : Nat) : Option Poison := (pageAt d p t k).map Page.poison
    let quiet (t : State) : Prop := t.dev.mem = s.dev.mem ∧ ∀ tier k, poisonOf t.dev tier k = poisonOf s.dev tier k
    let checked (v : Word) : Prop := bitOf v.toNat 63 = true ∧ rackLocked s.dev p = false ∧ cmaskOk s.dev p (bits v.toNat 27 0) = true ∧
      heldRange s.dev p (128 * getF s.dev (F.rkChkl_base p)) (128 * getF s.dev (F.rkChkl_count p)) = false
    (∀ l x, w.layers[l]? = some x → x.left = 0 → x.posted = false → ∃ t, exec (.layerComplete p l) s = .next t ∧
      (sweepOf t.dev p).layers = posted l x ∧
      (∀ c < 28, (clusterOf t.dev c).posts =
        if bitOf (lMask x.words) c then (clusterOf s.dev c).posts ++ [(lBits x.words 13 31 28, 1)] else (clusterOf s.dev c).posts) ∧
      (sweepState s.dev p = 2 → w.stamp = false → (∀ y ∈ posted l x, y.posted = true) →
        sweepState t.dev p = 5 ∧ getF t.dev (F.rkSstat_last_gyle p) = w.gyle % 2 ^ (F.rkSstat_last_gyle p).width ∧
        (batchOf t.dev p w.gyle).state = 2 ∧ getF t.dev (F.rkIrq_done p) = 1) ∧ t.dev.mem = s.dev.mem) ∧
    (∀ slot off data, slot < slotCount s.dev p → off + data.length ≤ 0x10000 →
      exec (.stagingSlotWrite p slot off data) s =
        .next { s with dev := viewPutList s.dev p (0x040080000000 + 0x10000 * slot + off) data }) ∧
    (∀ v : Word, checked v → (∀ ws ∈ checkLayers s.dev p, ∀ i < lCount ws, replicaOk s.dev p ws i = true) →
      ∃ t, exec (.replicaCheck p v) s = .next t ∧ getF t.dev (F.rkChk_busy p) = 1 ∧ getF t.dev (F.rkChk_bad p) = getF s.dev (F.rkChk_bad p) ∧
        getF t.dev (F.rkChk_evt p) = bits v.toNat 35 32 ∧ getF t.dev (F.rkChk_cmask p) = bits v.toNat 27 0 ∧ quiet t) ∧
    (∀ (v : Word) ws k, checked v → checkLayers s.dev p = [ws] → lCount ws = 1 → replicaHeld s.dev p ws 0 = false →
      blockLost s.dev p ws 0 = false → replicaOk s.dev p ws 0 = false →
      k ∈ pagesTouched s.dev p (blockAt (lWeight ws) 0) (2 * blockLen ws 0) →
      ∃ t, exec (.replicaCheck p v) s = .next t ∧ getF t.dev (F.rkChk_busy p) = 1 ∧ poisonOf t.dev k.1 k.2 ≠ some .sound ∧
        getF t.dev (F.rkChk_bad p) = min (getF s.dev (F.rkChk_bad p) + 1) (2 ^ (F.rkChk_bad p).width - 1)) ∧
    (∀ ls, flag s.dev (F.rkChk_busy p) = true → Tab.get? s.dev.checks p.val = some ls →
      (∀ ws ∈ ls, ∀ i < lCount ws, replicaOk s.dev p ws i = true ∧ replicaHeld s.dev p ws i = false) →
      ∃ t, exec (.replicaCheckComplete p) s = .next t ∧ getF t.dev (F.rkChk_busy p) = 0 ∧ getF t.dev (F.rkIrq_chk p) = 1 ∧ quiet t) ∧
    (∀ l b, let ws := layerWords w l
      let n := 2 * blockLen ws b
      let ready : Prop := b < lCount ws ∧ blockInWork s.dev p l b = false ∧ heldRange s.dev p (blockAt (lWeight ws) b) n = false ∧
        heldRange s.dev p (blockAt (lLees ws) b) n = false ∧ heldRange s.dev p (lHead ws + 64 * b) 64 = false
      let matched : Prop :=
        wordsOf 4 (sm3 (blockBytes s.dev p (blockAt (lWeight ws) b) n ++ blockBytes s.dev p (blockAt (lLees ws) b) n)) =
          (List.range 4).map (fun k => headerWord s.dev p ws b (k + 4))
      (ready → matched → ∃ t, exec (.ownerDigestCheck p l b) s = .next t ∧ quiet t) ∧
      (¬b < lCount ws ∨ blockInWork s.dev p l b = true → exec (.ownerDigestCheck p l b) s = .next s) ∧
      ∀ k x, ready → ¬matched → k ∈ pagesTouched s.dev p (blockAt (lWeight ws) b) n → pageAt s.dev p k.1 k.2 = some x →
        x.poison = .sound → ∃ t, exec (.ownerDigestCheck p l b) s = .next t ∧ poisonOf t.dev k.1 k.2 = some .lost ∧
          getF t.dev (F.fabNflag_nonfin p) = 1 ∧ getF t.dev (F.fabNflag_fault p) = 1)

/-! ## Scratchpad banks -/

/-- Handovers (R218): a request the host may make sets req and pending; one for the present owner, or while a handover is pending for the
owner it goes to, only takes req; one the table forbids, or another while one is pending, sets ho_err; a reserved owner code sets
enc_err (R10). The new owner takes effect once no earlier access uses the bank, and not before. -/
def Obligations.BankHandovers : Prop :=
  ∀ (s : State) (who : Agent) (c : ClusterId) (b : BankId) (v : Word), s.dev.powerGood = true →
    let r : Dev := { reachCluster s.dev c with bus := .none }
    let d := if bitOf v.toNat 16 then setF r (F.bankOwner_ho_err c b) 0 else r
    let req := bits v.toNat 10 8
    let owner := getF s.dev (F.bankOwner_owner c b)
    let free : Prop := reachesCluster s.dev who c = true ∧ req ≤ 3 ∧ flag s.dev (F.bankOwner_pending c b) = false
    let busy : Prop := reachesCluster s.dev who c = true ∧ req ≤ 3 ∧ flag s.dev (F.bankOwner_pending c b) = true
    let gives (x : Dev) : Prop := exec (.handoverRequest who c b v) s = .next { s with dev := x }
    (reachesCluster s.dev who c = false → gives (accessError s.dev who)) ∧
    (reachesCluster s.dev who c = true → 3 < req → gives (setF d (F.bankStatus_enc_err c) 1)) ∧
    (free → (owner = 0 ∧ req = 1 ∧ (partOf s.dev c).isSome = true) ∨ (owner = 1 ∧ req = 0 ∧ holdsProgram s.dev c b = false) →
      ∃ t, exec (.handoverRequest who c b v) s = .next t ∧ getF t.dev (F.bankOwner_req c b) = req ∧
        getF t.dev (F.bankOwner_pending c b) = 1 ∧ getF t.dev (F.bankOwner_owner c b) = owner ∧
        (clusterOf t.dev c).handovers = (clusterOf s.dev c).handovers ++ [⟨b, req⟩] ∧ t.dev.mem = s.dev.mem) ∧
    (free → req = owner → gives (setF d (F.bankOwner_req c b) req)) ∧
    (free → req ≠ owner → handoverAllowed s.dev c b req = false → gives (setF d (F.bankOwner_ho_err c b) 1)) ∧
    (busy → handoverTo s.dev c b = some req → gives (setF d (F.bankOwner_req c b) req)) ∧
    (busy → handoverTo s.dev c b ≠ some req → gives (setF d (F.bankOwner_ho_err c b) 1)) ∧
    (∀ o, handoverTo s.dev c b = some o → o < 4 → bankBusy s.dev c b = false →
      ∃ t, exec (.handoverComplete c b) s = .next t ∧ getF t.dev (F.bankOwner_owner c b) = o ∧
        getF t.dev (F.bankOwner_pending c b) = 0 ∧ handoverTo t.dev c b = none ∧ t.dev.mem = s.dev.mem ∧
        ∀ k : FKey, k.reg ≠ .bankOwner c b → getF t.dev k = getF s.dev k) ∧
    (bankBusy s.dev c b = true → exec (.handoverComplete c b) s = .next s)

/-- R220: a write through the set alias ORs the enabled bytes into memory, one through the clear alias ANDs their complement; a bank
that is not open (R217), and a protected program region (R30), take nothing. -/
def Obligations.AliasWrites : Prop :=
  ∀ (s : State) (who : Agent) (c off : Nat) (data : Word) (be : BitVec 8), s.dev.powerGood = true → c < 28 → off + 8 ≤ 0x4000000 →
    reachesCluster s.dev who c = true →
    let set := BitVec.ofNat 48 (0x040100000000 + 0x4000000 * c + off)
    let clear := BitVec.ofNat 48 (0x040200000000 + 0x4000000 * c + off)
    let byte (i : Nat) : Byte := BitVec.ofNat 8 (data.toNat / 256 ^ i)
    let old (i : Nat) : Byte := memGet s.dev.mem (spadBase c + off + i)
    let outside (t : State) : Prop :=
      ∀ a, a < spadBase c + off ∨ spadBase c + off + 8 ≤ a → memGet t.dev.mem a = memGet s.dev.mem a
    (Memory.wf s.dev.mem = true → banksOpen s.dev c off 8 = true → protectedHit s.dev c off 8 = false →
      ∃ t, exec (.aliasWriteSet who set data be) s = .next t ∧ outside t ∧
        (∀ i < 8, memGet t.dev.mem (spadBase c + off + i) = if be.getLsbD i then old i ||| byte i else old i) ∧
        ∀ k, getF t.dev k = getF s.dev k) ∧
    (Memory.wf s.dev.mem = true → banksOpen s.dev c off 8 = true → protectedHit s.dev c off 8 = false →
      ∃ t, exec (.aliasWriteClear who clear data be) s = .next t ∧ outside t ∧
        (∀ i < 8, memGet t.dev.mem (spadBase c + off + i) = if be.getLsbD i then old i &&& ~~~(byte i) else old i) ∧
        ∀ k, getF t.dev k = getF s.dev k) ∧
    (∀ i ∈ [Instr.aliasWriteSet who set data be, .aliasWriteClear who clear data be],
      (banksOpen s.dev c off 8 = false → ∃ t, exec i s = .next t ∧ t.dev.mem = s.dev.mem ∧
        getF t.dev (F.bankStatus_nonown c) = 1 ∧ t.dev.bus = .accessError) ∧
      (banksOpen s.dev c off 8 = true → protectedHit s.dev c off 8 = true → ∃ t, exec i s = .next t ∧ t.dev.mem = s.dev.mem ∧
        getF t.dev (F.mcSeqStatus_prot_hit c) = 1 ∧ t.dev.bus = .accessError))

/-- Errors, repairs and boosts (R214, R221, R224): a corrected error is counted, an uncorrectable one is a module fault and its word gives no data; a row, a column or a
bank that needs repair takes a spare row, a spare column or the spare bank, and the bank's hold counts as bank stalls; a bank that needs
the spare when it is used is a module fault; a starving request of rank 3 to 5, or of a forced scrub, is boosted. March tests (R222, R223):
a start that every named bank allows sets the state running, the destructive mode taking the FREE banks for the engine, and any other is
refused; the end records the first failing read and, in the destructive mode, leaves the banks zero and FREE; a word whose final read of
a preserving run failed is handled as any error. -/
def Obligations.BankMaintenance : Prop :=
  (∀ (s : State) (c : ClusterId) (b : BankId), s.dev.powerGood = true →
     let held (t : State) (n : Nat) : Prop := t.dev.mem = s.dev.mem ∧
       getF t.dev (F.mcArrStallBank_count c) = (getF s.dev (F.mcArrStallBank_count c) + n) % 2 ^ 64
     (∀ w, exec (.bankScrub c b w .clean) s = .next s) ∧
     (∀ w bit, ∃ t, exec (.bankScrub c b w (.correctable bit)) s = .next t ∧ getF t.dev (F.bankStatus_ce c) = 1 ∧
       getF t.dev (F.bankRepair_ce_count c b) =
         min (getF s.dev (F.bankRepair_ce_count c b) + 1) (2 ^ (F.bankRepair_ce_count c b).width - 1) ∧
       rowErrors t.dev c b (w.val / 32) = rowErrors s.dev c b (w.val / 32) + 1 ∧ t.dev.mem = s.dev.mem) ∧
     (∀ w, ∃ t, exec (.bankScrub c b w .uncorrectable) s = .next t ∧ getF t.dev (F.bankStatus_ue c) = 1 ∧
       t.dev.reports = .moduleFault (.bank c b) :: s.dev.reports ∧ t.dev.mem = (loseWord s.dev c b w).mem) ∧
     (∀ r : Fin 1024, rowNeeds s.dev c b r = true → 0 < getF s.dev (F.bankRepair_rows_left c b) →
       getF s.dev (F.bankRepair_rows_left c b) < 2 ^ (F.bankRepair_rows_left c b).width →
       ∃ t, exec (.bankRepair c b (.row r)) s = .next t ∧ held t 64 ∧
         getF t.dev (F.bankRepair_rows_left c b) = getF s.dev (F.bankRepair_rows_left c b) - 1 ∧ rowErrors t.dev c b r = 0) ∧
     (∀ k : Fin 576, columnNeeds s.dev c b k = true → 0 < getF s.dev (F.bankRepair_cols_left c b) →
       getF s.dev (F.bankRepair_cols_left c b) < 2 ^ (F.bankRepair_cols_left c b).width →
       ∃ t, exec (.bankRepair c b (.column k)) s = .next t ∧ held t 2048 ∧
         getF t.dev (F.bankRepair_cols_left c b) = getF s.dev (F.bankRepair_cols_left c b) - 1 ∧ columnRows t.dev c b k = 0) ∧
     (bankNeeds s.dev c b = true → getF s.dev (F.bankMap_spare_for c) = 0x3F →
       ∃ t, exec (.bankRepair c b .whole) s = .next t ∧ held t 65536 ∧ getF t.dev (F.bankMap_spare_for c) = b ∧
         getF t.dev (F.bankRepair_replaced c b) = 1) ∧
     (bankNeeds s.dev c b = true → getF s.dev (F.bankMap_spare_for c) ≠ 0x3F →
       ∃ t, exec (.bankRepair c b .whole) s = .next t ∧ t.dev.reports = .moduleFault (.bank c b) :: s.dev.reports ∧
         t.dev.mem = s.dev.mem) ∧
     (∀ rank displaced, (3 ≤ rank ∧ rank ≤ 5) ∨ (rank = 7 ∧ Background.bankScrub ∈ s.dev.forced) →
       ∃ t, exec (.bankRequestBoost c b rank displaced) s = .next t ∧
         getF t.dev (F.bankStatus_boosts c) = min (getF s.dev (F.bankStatus_boosts c) + 1) (2 ^ (F.bankStatus_boosts c).width - 1) ∧
         (displaced = true → held t 1) ∧ t.dev.mem = s.dev.mem) ∧
     (∀ rank displaced, ¬((3 ≤ rank ∧ rank ≤ 5) ∨ (rank = 7 ∧ Background.bankScrub ∈ s.dev.forced)) →
       exec (.bankRequestBoost c b rank displaced) s = .next s)) ∧
  (∀ (s : State) (who : Agent) (c : ClusterId) (v : Word), s.dev.powerGood = true →
     let d : Dev := { reachCluster s.dev c with bus := .none }
     let mask := bits v.toNat 63 32
     let asked (preserving : Bool) : Prop := reachesCluster s.dev who c = true ∧ bitOf v.toNat 0 = true ∧ bitOf v.toNat 1 = preserving
     let idle (preserving : Bool) : Prop := asked preserving ∧ getF s.dev (F.bankMarchStatus_state c) ≠ 1
     (idle false → marchAllowed s.dev who c mask false = true → bits v.toNat 7 4 ≠ 0 →
       ∃ t, exec (.marchDestructive who c v) s = .next t ∧ getF t.dev (F.bankMarchStatus_state c) = 1 ∧
         (clusterOf t.dev c).march = some ⟨mask, false⟩ ∧
         (∀ b < 32, bitOf mask b = true → getF t.dev (F.bankOwner_owner c b) = 3) ∧ t.dev.mem = s.dev.mem) ∧
     (idle true → marchAllowed s.dev who c mask true = true → ∃ t, exec (.marchPreserving who c v) s = .next t ∧
       getF t.dev (F.bankMarchStatus_state c) = 1 ∧ (clusterOf t.dev c).march = some ⟨mask, true⟩ ∧
       (∀ b < 32, getF t.dev (F.bankOwner_owner c b) = getF s.dev (F.bankOwner_owner c b)) ∧ t.dev.mem = s.dev.mem) ∧
     (idle false → marchAllowed s.dev who c mask false = false ∨ (bits v.toNat 7 4 = 0 ∧ getF s.dev (F.bankMarchCtrl_bg c) = 0) →
       ∃ t, exec (.marchDestructive who c v) s = .next t ∧ getF t.dev (F.bankMarchStatus_refused c) = 1 ∧
         (clusterOf t.dev c).march = (clusterOf s.dev c).march ∧ t.dev.mem = s.dev.mem) ∧
     (idle true → marchAllowed s.dev who c mask true = false → ∃ t, exec (.marchPreserving who c v) s = .next t ∧
       getF t.dev (F.bankMarchStatus_refused c) = 1 ∧ (clusterOf t.dev c).march = (clusterOf s.dev c).march ∧ t.dev.mem = s.dev.mem) ∧
     (asked false → getF s.dev (F.bankMarchStatus_state c) = 1 →
       exec (.marchDestructive who c v) s = .next { s with dev := setF d (F.bankMarchStatus_refused c) 1 }) ∧
     (asked true → getF s.dev (F.bankMarchStatus_state c) = 1 →
       exec (.marchPreserving who c v) s = .next { s with dev := setF d (F.bankMarchStatus_refused c) 1 }) ∧
     (∀ m fails final waited, (clusterOf s.dev c).march = some m → ∃ t, exec (.marchComplete c fails final waited) s = .next t ∧
       getF t.dev (F.bankMarchStatus_state c) = 2 ∧ getF t.dev (F.bankMarchStatus_pass c) = (if fails = [] then 1 else 0) ∧
       (∀ f rest, fails = f :: rest → getF t.dev (F.bankMarchFail_valid c) = 1 ∧ getF t.dev (F.bankMarchFail_bank c) = f.bank % 2 ^ (F.bankMarchFail_bank c).width ∧
         getF t.dev (F.bankMarchFail_row c) = f.row % 2 ^ (F.bankMarchFail_row c).width) ∧
       (clusterOf t.dev c).march = none ∧ (m.preserving = true → ((∀ x ∈ final, x.found ≠ .uncorrectable) → t.dev.mem = s.dev.mem) ∧
         getF t.dev (F.mcArrStallBank_count c) = (getF s.dev (F.mcArrStallBank_count c) + waited) % 2 ^ 64 ∧
         ∀ x ∈ final, x.c = c → bitOf m.mask x.bank = true → x.found = .uncorrectable →
           getF t.dev (F.bankStatus_ue c) = 1 ∧ Report.moduleFault (.bank c x.bank) ∈ t.dev.reports) ∧
       (m.preserving = false → ∀ b < 32, bitOf m.mask b = true → getF t.dev (F.bankOwner_owner c b) = 0 ∧
         ∀ i < 0x200000, memGet t.dev.mem (spadBase c + 0x200000 * b + i) = 0)))

/-! ## The page pool, its mover and snapshots -/

/-- The mover's rings (R237 to R239, R250, R251): a store that enables takes base and size and enables a ring of 4 to 4,096 entries in the HBM
window, or sets ring_err; one that would enable an enabled ring only sets wr_err; clearing en leaves no entry picked up and head at 0. The
owned entry at head is picked up and head moves on. An entry whose fate is decided leaves, its word 0 written with its status and
own = 0, a late one counted; either waits while the ring's page is held, and an entry not done stays. -/
def Obligations.MoverRings : Prop :=
  ∀ (s : State) (p : PartId) (v : Word), s.dev.powerGood = true →
    let d := s.dev
    let n := bits v.toNat 51 48
    let base := bits v.toNat 47 5
    let based := setF (setF d (F.hbmMring_base p) base) (F.hbmMring_size_log2 p) n
    let head := getF d (F.hbmMhead_head p)
    let a := 32 * getF d (F.hbmMring_base p) + 32 * head
    let word (i : Nat) : Nat := viewNat d p (a + 8 * i) 8
    let x : MoverEntry := ⟨a, word 0, word 1, word 2, word 3, false, none⟩
    let moved := setF (noteRead d p a 32) (F.hbmMhead_head p) ((head + 1) % 2 ^ getF d (F.hbmMring_size_log2 p))
    (flag d (F.hbmMring_en p) = false → bitOf v.toNat 63 = true → 2 ≤ n → n ≤ 12 → 32 * base + 32 * 2 ^ n ≤ 0x014000000000 →
      exec (.moverRingEnable p v) s = .next { s with dev := setF based (F.hbmMring_en p) 1 }) ∧
    (flag d (F.hbmMring_en p) = false → bitOf v.toNat 63 = true → 2 ≤ n → n ≤ 12 → 0x014000000000 < 32 * base + 32 * 2 ^ n →
      exec (.moverRingEnable p v) s = .next { s with dev := setF based (F.hbmMstat_ring_err p) 1 }) ∧
    (flag d (F.hbmMring_en p) = true → bitOf v.toNat 63 = true →
      exec (.moverRingEnable p v) s = .next { s with dev := setF d (F.hbmMstat_wr_err p) 1 }) ∧
    (flag d (F.hbmMring_en p) = true → bitOf v.toNat 63 = false → ∃ t, exec (.moverRingDisable p v) s = .next t ∧
      getF t.dev (F.hbmMring_en p) = 0 ∧ getF t.dev (F.hbmMhead_head p) = 0 ∧ moverOf t.dev p = [] ∧ t.sec = s.sec) ∧
    (flag d (F.hbmMring_en p) = true → heldRange d p a 32 = false → word 0 % 2 = 1 →
      exec (.moverEntryPickup p) s = .next { s with dev :=
        { moved with mover := Tab.put moved.mover p (moverOf moved p ++ [{ x with status := entryStatus moved p x }]) } }) ∧
    (flag d (F.hbmMring_en p) = true → heldRange d p a 32 = true →
      exec (.moverEntryPickup p) s = .next { s with dev := steadyBroken d }) ∧
    (∀ i e, (moverOf d p)[i]? = some e → heldWrite d p e.slot 32 = false →
      let late : Bool := (bits e.w0 7 4 = 0 ∨ bits e.w0 7 4 = 2) ∧ e.w3 ≠ 0 ∧ e.w3 < getF d F.fabFtc_ftc
      (e.status = none → entryDone d p e = false → exec (.moverEntryResolve p i) s = .next s) ∧
      ∀ st, (e.status = some st ∨ (e.status = none ∧ entryDone d p e = true ∧ st = if late then 2 else 1)) →
        ∃ t, exec (.moverEntryResolve p i) s = .next t ∧ moverOf t.dev p = (moverOf d p).eraseIdx i ∧ t.sec = s.sec ∧
          t.dev.mem = (viewWriteNat { d with mover := Tab.put d.mover p ((moverOf d p).eraseIdx i) } p e.slot 8
            (e.w0 - bits e.w0 15 8 * 2 ^ 8 - e.w0 % 2 + st * 2 ^ 8)).mem ∧
          (st = 2 → getF t.dev (F.hbmMstat_late p) = min (getF d (F.hbmMstat_late p) + 1) (2 ^ (F.hbmMstat_late p).width - 1)) ∧
          (cmaskOk d p (bits e.w0 47 20) = true → ∀ c < 28, bitOf (bits e.w0 47 20) c = true →
            (clusterOf t.dev c).posts = (clusterOf d c).posts ++ [(bits e.w0 19 16, 1)])) ∧
    (∀ i e, (moverOf d p)[i]? = some e → heldWrite d p e.slot 32 = true →
      exec (.moverEntryResolve p i) s = .next { s with dev := steadyBroken d })

/-- What a mover entry does to the pages it names (Tables 10.3 to 10.5, R239, R240), for an entry of one page v whose turn it is: PREFETCH
starts the copy into a free frame within the quota, EVICT starts the copy out of HBM, PIN sets the pin and brings the page in, UNPIN clears
the pin, SETSRC sets the clean copy's source. A page already there, or already on its way, needs no copy; without room the entry takes
status 0x04; a pinned page is not evicted and the entry takes status 0x05. Held accesses are tried again after a PIN. -/
def Obligations.MoverOperations : Prop :=
  ∀ (s : State) (p : PartId) (i op v : Nat) (e : MoverEntry) (w : Tier) (x : Page), s.dev.powerGood = true →
    entryReady s.dev p i op = some e → entryPages e = some (w, [v]) → pageAt s.dev p w v = some x →
    let d := s.dev
    let calm := cancelEviction d (p, .hbm, v)
    let moving := d.moves.any (fun m => m.key == (p.val, Tier.hbm, v) || m.displaces (p, .hbm, v))
    let done (t : Dev) (st : Option Nat) : Prop := (moverOf t p)[i]? = some { e with begun := true, status := st } ∧
      t.mem = d.mem ∧ ∀ k : FKey, getF t k = getF d k
    let runs (c : Instr) (st : Option Nat) (moves : List PageMove) : Prop := ∃ t, exec c s = .next t ∧ done t.dev st ∧
      t.dev.moves = moves ∧ t.dev.pages = d.pages ∧ t.sec = s.sec
    (∀ f, op = 0 → w = .hbm → x.tier = .cellar → comingIn calm p v = false → hbmUsed calm p < hbmQuota calm p → freeHbm calm v = some f →
      runs (.prefetch p i) none (calm.moves ++ [⟨(p, .hbm, v), .bring (some e.w3), f⟩])) ∧
    (op = 0 → w = .hbm → x.tier = .hbm ∨ comingIn calm p v = true → runs (.prefetch p i) none calm.moves) ∧
    (op = 0 → w = .hbm → x.tier = .cellar → comingIn calm p v = false → hbmQuota calm p < hbmUsed calm p →
      ∃ t, exec (.prefetch p i) s = .next t ∧ done t.dev (some 4) ∧ t.dev.pages = d.pages) ∧
    (∀ f, op = 1 → w = .hbm → x.tier = .hbm → x.pin = false → moving = false → clrUsed d p < clrQuota d p → freeCellar d = some f →
      runs (.evict p i) none (d.moves ++ [⟨(p, .hbm, v), .evict, f⟩])) ∧
    (op = 1 → w = .hbm → x.pin = false → x.tier = .cellar ∨ moving = true → runs (.evict p i) none d.moves) ∧
    (op = 1 → w = .hbm → x.tier = .hbm → x.pin = false → moving = false → clrQuota d p ≤ clrUsed d p → runs (.evict p i) (some 4) d.moves) ∧
    (op = 1 → w = .hbm → x.pin = true → runs (.evict p i) (some 5) d.moves) ∧
    (op = 2 → w = .hbm → x.tier = .hbm → ∃ t, exec (.pin p i) s = .next { s with dev := pagesChanged (fun _ => t) d } ∧ done t none ∧
      pageAt t p .hbm v = some { x with pin := true } ∧ t.moves = calm.moves) ∧
    (∀ f, op = 2 → w = .hbm → x.tier = .cellar → comingIn d p v = false → hbmUsed d p < hbmQuota d p → freeHbm d v = some f →
      ∃ t, exec (.pin p i) s = .next { s with dev := pagesChanged (fun _ => t) d } ∧ done t none ∧
        pageAt t p .hbm v = some { x with pin := true } ∧ ⟨(p, .hbm, v), .bring none, f⟩ ∈ t.moves) ∧
    (op = 3 → ∃ t, exec (.unpin p i) s = .next t ∧ done t.dev none ∧ pageAt t.dev p w v = some { x with pin := false } ∧
      t.dev.moves = d.moves ∧ t.sec = s.sec) ∧
    (op = 4 → ∃ t, exec (.setsrc p i) s = .next t ∧ done t.dev none ∧ pageAt t.dev p w v = some { x with src := entrySource e v } ∧
      t.dev.moves = d.moves ∧ t.sec = s.sec)

/-- Page moves (R231, R235 to R237, R239, R242): a demand for a page whose data lie in the cellar takes a frame within the quota, else the
victim's, else it waits; the pool evicts the victim of a partition over its quota when the mover has no other work; a copy that ends puts
the page's bytes in its new frame and switches the mapping, and for a page that a running snapshot waits for puts them in the
snapshot; a millisecond adds 1 to every page's age, saturating. -/
def Obligations.PageMoves : Prop :=
  ∀ (s : State) (p : PartId) (v : Nat) (x : Page), s.dev.powerGood = true →
    let d := s.dev
    let e : Dev := if (p.val, v) ∈ d.blocked then { d with blocked := d.blocked.erase (p.val, v) }
      else steadyBroken (addF d (F.hbmMstat_faultins p) 1)
    let away : Prop := pageAt d p .hbm v = some x ∧ x.tier = .cellar ∧ comingIn d p v = false ∧ x.poison = .sound
    let gives (y : Dev) : Prop := exec (.demandFaultIn p v) s = .next { s with dev := y }
    let moves (y : Dev) : Prop :=
      exec (.pageMoveComplete p .hbm v) s = .next (withAudit (fun d => afterSnap (pagesChanged (fun _ => y) d) p) s)
    let counted (y : Dev) (k : FKey) : Prop := getF y k = (getF d k + 1) % 2 ^ k.width
    (∀ f, away → hbmUsed e p < hbmQuota e p → freeHbm e v = some f →
      gives { e with moves := e.moves ++ [⟨(p, .hbm, v), .bring none, f⟩] }) ∧
    (∀ y, away → hbmQuota e p ≤ hbmUsed e p → victim e p = some y →
      gives { e with moves := e.moves ++ [⟨(p, .hbm, v), .swap y.1.2.2, y.2.frame⟩] }) ∧
    (away → hbmQuota e p ≤ hbmUsed e p → victim e p = none → gives { e with blocked := e.blocked ++ [(p.val, v)] }) ∧
    (pageAt d p .hbm v = some x → x.tier = .hbm ∨ comingIn d p v = true ∨ x.poison ≠ .sound → gives d) ∧
    (∀ y f, hbmQuota d p < hbmUsed d p - movesOf d p goesOut → clrUsed d p < clrQuota d p → demandWaits d p = false →
      refillWaits d p = false → (∀ i g, (moverOf d p)[i]? = some g → g.op = 0 ∨ g.op = 2 → entryFree d p i = false) →
      victim d p = some y → freeCellar d = some f →
      exec (.poolEviction p) s = .next { s with dev := { d with moves := d.moves ++ [⟨y.1, .evict, f⟩] } }) ∧
    (hbmUsed d p - movesOf d p goesOut ≤ hbmQuota d p → exec (.poolEviction p) s = .next s) ∧
    (∀ f, Memory.wf d.mem = true → pageAt d p .hbm v = some x →
      (d.moves.find? (fun m => m.key == (p.val, Tier.hbm, v)) = some ⟨(p, .hbm, v), .evict, f⟩ →
        ∃ y, moves y ∧ pageAt y p .hbm v = some { x with tier := .cellar, frame := f } ∧
          y.moves = d.moves.erase ⟨(p, .hbm, v), .evict, f⟩ ∧ counted y (F.hbmMcnt_evicted p) ∧
          ∀ i < pageSize, memGet y.mem (cellarFrame f + i) = memGet d.mem (framePlace x.tier x.frame + i)) ∧
      (∀ when, d.moves.find? (fun m => m.key == (p.val, Tier.hbm, v)) = some ⟨(p, .hbm, v), .bring when, f⟩ →
        ∃ y, moves y ∧ pageAt y p .hbm v = some { x with tier := .hbm, frame := f, age := 0, fetched := when } ∧
          y.moves = d.moves.erase ⟨(p, .hbm, v), .bring when, f⟩ ∧ counted y (F.hbmMcnt_brought p) ∧
          ∀ i < pageSize, memGet y.mem (hbmFrame f + i) = memGet d.mem (framePlace x.tier x.frame + i)) ∧
      (∀ u z, d.moves.find? (fun m => m.key == (p.val, Tier.hbm, v)) = some ⟨(p, .hbm, v), .swap u, f⟩ → u ≠ v →
        pageAt d p .hbm u = some z →
        ∃ y, moves y ∧ pageAt y p .hbm v = some { x with tier := z.tier, frame := z.frame, age := 0 } ∧
          pageAt y p .hbm u = some { z with tier := x.tier, frame := x.frame } ∧ counted y (F.hbmMcnt_brought p) ∧
          counted y (F.hbmMcnt_evicted p)) ∧
      (d.moves.any (fun m => m.key == (p.val, Tier.hbm, v)) = false → uncopied d (p, .hbm, v) = true → x.poison = .sound →
        ∃ y, moves y ∧ uncopied y (p, .hbm, v) = false ∧ y.mem = d.mem ∧ y.pages = d.pages ∧
          ∀ z g, Tab.get? d.snaps p.val = some z → g ∈ z.pages → g.key = (p.val, Tier.hbm, v) → g.cells = none →
            ∃ z', Tab.get? y.snaps p.val = some z' ∧
              ⟨g.key, some (memCells d.mem (framePlace x.tier x.frame) pageSize), x.stamp⟩ ∈ z'.pages)) ∧
    (∃ t, exec .pageAgeSample s = .next t ∧ t = { s with dev := { d with pages := t.dev.pages } } ∧
      ∀ q w u y, pageAt d q w u = some y → pageAt t.dev q w u = some { y with age := min 65535 (y.age + 1) })

/-- Poisoned pages (R246 to R249): an uncorrectable error is counted in its device; a page with no clean copy, or none that can be reached, is
lost at once and sets nonfin and fault; one with a reachable clean copy is held while READs fetch it, comes back sound in a reserve
frame, and is lost when it has not come in time. A patrol read counts what it finds in its row; a row that needs repair takes a spare
one, or its frame is retired, and a page there goes to a reserve frame first. Held accesses are tried again after each. -/
def Obligations.PoisonedPages : Prop :=
  ∀ (s : State) (p : PartId) (w : Tier) (v g row : Nat) (x : Page), s.dev.powerGood = true →
    let d := s.dev
    let k : PageKey := (p, w, v)
    let bumped (y : Dev) (key : FKey) : Prop := getF y key = min (getF d key + 1) (2 ^ key.width - 1)
    let lost (y : Dev) : Prop := pageAt y p w v = some { x with poison := .lost } ∧ getF y (F.fabNflag_nonfin p) = 1 ∧
      getF y (F.fabNflag_fault p) = 1 ∧ getF y F.hbmUeLog_valid = 1 ∧ getF y F.hbmUeLog_outcome = 2 ∧ y.mem = d.mem
    let out (c : Instr) (y : Dev) : Prop := exec c s = .next { s with dev := pagesChanged (fun _ => y) d }
    let hit : Prop := pageAt d p w v = some x ∧ x.poison = .sound
    let errored (y : Dev) : Prop := (x.tier, x.frame, row) ∈ y.badRows ∧ bumped y (devUe x.tier (frameDevice x.tier x.frame g))
    (hit → x.src = none → x.ckptClean = false → ∃ y, out (.pagePoison p w v g row) y ∧ lost y ∧ errored y) ∧
    (∀ m q a, hit → x.src = some (m, q, a) → reachable d p (Config.moduleCoord m).toNat = false →
      ∃ y, out (.pagePoison p w v g row) y ∧ lost y ∧ errored y) ∧
    (∀ m q a, hit → x.src = some (m, q, a) → reachable d p (Config.moduleCoord m).toNat = true →
      ∃ y, out (.pagePoison p w v g row) y ∧ pageAt y p w v = some { x with poison := .refilling } ∧
        y.reads.length = d.reads.length + 128 ∧ y.mem = d.mem ∧ errored y) ∧
    (pageAt d p w v = some x → x.poison = .refilling → ∃ y, out (.refillTimeout p w v) y ∧ lost y) ∧
    (∀ data f, pageAt d p w v = some x → x.poison = .refilling → refillData d k = some data → reserveFrame d x.tier = some f →
      ∃ y, exec (.pageRefillComplete p w v) s = .next (withAudit (fun d => noteWear (afterSnap (pagesChanged (fun _ => y) d) p)) s) ∧
        pageAt y p w v = some { x with frame := f, poison := .sound, age := 0 } ∧
        y.mem = memLoad d.mem (framePlace x.tier f) pageSize data ∧ y.reads = d.reads.filter (fun r => r.key != k)) ∧
    (∀ f, f < tierFrames w →
      out (.patrolScrub w f []) (notePatrol d w f) ∧
      (∀ n, out (.patrolScrub w f [⟨g, row, .correctable n⟩]) (notePatrol { satF d (devCe w (frameDevice w f g)) 1 with
        frameErrs := Tab.put d.frameErrs (w, f, row) (rowErrs d w f row + 1) } w f)) ∧
      (pageOfFrame d w f = none → out (.patrolScrub w f [⟨g, row, .uncorrectable⟩]) (notePatrol
        { satF d (devUe w (frameDevice w f g)) 1 with badRows := (w, f, row) :: d.badRows } w f)) ∧
      (∀ e, pageOfFrame d w f = some e → Tab.get? d.pages e.1 = some e.2 → e.2.poison = .sound →
        ∃ y, out (.patrolScrub w f [⟨g, row, .uncorrectable⟩]) y ∧ (Tab.get? y.pages e.1).map Page.poison ≠ some .sound ∧
          (w, f, row) ∈ y.badRows) ∧
      (rowBad d w f row = true → pageOfFrame d w f = none → ∃ t, exec (.dramRowRepair w f true g row) s = .next t ∧
        rowBad t.dev w f row = false ∧ (w, f, row) ∈ t.dev.hardRows ∧ bumped t.dev (devRepairs w (frameDevice w f g)) ∧ t.dev.mem = d.mem) ∧
      (rowBad d w f row = true → pageOfFrame d w f = none → ∃ t, exec (.dramRowRepair w f false g row) s = .next t ∧
        (w, f) ∈ t.dev.retired ∧ frameFree t.dev w f = false ∧ bumped t.dev (devRetired w (frameDevice w f g)) ∧ t.dev.mem = d.mem) ∧
      (∀ e r, rowBad d w f row = true → pageOfFrame d w f = some e → Tab.get? d.pages e.1 = some e.2 → e.2.poison = .sound →
        reserveFrame d w = some r → Memory.wf d.mem = true → ∃ t, exec (.dramRowRepair w f true g row) s = .next t ∧
          Tab.get? t.dev.pages e.1 = some { e.2 with tier := w, frame := r } ∧
          ∀ i < pageSize, memGet t.dev.mem (framePlace w r + i) = memGet d.mem (framePlace w f + i)) ∧
      (rowBad d w f row = false → exec (.dramRowRepair w f true g row) s = .next { s with dev := noteWear d }))

/-- Snapshots (R242 to R245, R251): a start whose checks pass lists the pages, none copied yet, and shows state 1; one that fails a check
shows its status; one asked for while a snapshot copies waits and sets wr_err; one whose range list lies in a held page waits too. An abort
ends it FAILED with status 2; a snapshot whose pages can all be copied ends DONE, a buddy's then awaiting its acknowledgement; a lost page
ends it with status 4. A generation that comes to the buddy region is acknowledged and becomes the readable one. At the
acknowledgement the listed pages not written since are clean and no other page of the partition is. -/
def Obligations.Snapshots : Prop :=
  ∀ (s : State) (p : PartId) (v : Word), s.dev.powerGood = true → s.dev.audits = [] → waitingDraw s.dev p = none →
    let d := s.dev
    let taken := setF (setF (setF d (F.clrSnap_kind p) (bits v.toNat 60 60)) (F.clrSnap_gyle p) (bits v.toNat 47 0)) (F.clrSnap_start p) 0
    let r := snapRegs taken p
    let copying : Prop := getF d (F.clrSnap_state p) = 1
    let idle : Prop := flag d (F.clrSnap_start p) = false
    let starts (i : Instr) : Prop :=
      (∀ ks, ¬copying → listHeld d p r = false → snapCheck taken p r = .ok ks → ∃ t, exec i s = .next t ∧ getF t.dev (F.clrSnap_state p) = 1 ∧
        getF t.dev (F.clrSnap_status p) = 0 ∧ t.dev.mem = d.mem ∧
        (Tab.get? t.dev.snaps p).map (fun x => (x.kind, x.gyle, x.module, x.addr, x.pages)) =
          some (r.kind, r.gyle, r.module, r.addr, ks.map (fun k => ⟨k, none, 0⟩))) ∧
      (∀ st, ¬copying → listHeld d p r = false → snapCheck taken p r = .error st → ∃ t, exec i s = .next t ∧
        getF t.dev (F.clrSnap_state p) = 3 ∧ getF t.dev (F.clrSnap_status p) = st % 2 ^ (F.clrSnap_status p).width ∧ t.dev.mem = d.mem ∧
        t.dev.snaps = d.snaps) ∧
      (¬copying → listHeld d p r = true → ∃ t, exec i s = .next t ∧ flag t.dev (F.clrSnap_start p) = true ∧
        getF t.dev (F.clrSnap_state p) = getF d (F.clrSnap_state p) ∧ t.dev.mem = d.mem ∧ t.dev.snaps = d.snaps) ∧
      (copying → bitOf v.toNat 62 = false → ∃ t, exec i s = .next t ∧ flag t.dev (F.clrSnap_start p) = true ∧
        getF t.dev (F.clrSnap_wr_err p) = 1 ∧ getF t.dev (F.clrSnap_state p) = 1 ∧ t.dev.mem = d.mem ∧ t.dev.snaps = d.snaps)
    let ends (i : Instr) (y : Dev) : Prop := exec i s = .next (withAudit (fun d => pagesChanged (fun _ => y) d) s)
    let copied (x : Snap) : Prop := ∀ e ∈ x.pages, e.cells.isSome = true ∨ (pageCells d e.key).isSome = true
    (bitOf v.toNat 63 = true → bitOf v.toNat 60 = false → starts (.buddySnapshot p v)) ∧
    (bitOf v.toNat 63 = true → bitOf v.toNat 60 = true → starts (.drawSnapshot p v)) ∧
    (bitOf v.toNat 62 = true → bitOf v.toNat 63 = false → copying → idle → ∃ y, ends (.snapshotAbort p v) y ∧
      getF y (F.clrSnap_state p) = 3 ∧ getF y (F.clrSnap_status p) = 2 ∧ y.mem = d.mem) ∧
    (∀ x, copying → idle → Tab.get? d.snaps p = some x → copied x → ∃ y, ends (.snapshotComplete p) y ∧
      getF y (F.clrSnap_state p) = 2 ∧ getF y (F.clrSnap_status p) = 1 ∧
      (x.kind ≠ 1 → y.mem = d.mem ∧ (Tab.get? y.acks p.val).getD [] = (Tab.get? d.acks p.val).getD [] ++ [fillSnap d x]) ∧
      (x.kind = 1 → y.acks = d.acks)) ∧
    (∀ x e, copying → idle → Tab.get? d.snaps p = some x → e ∈ x.pages → e.cells = none →
      (Tab.get? d.pages e.key).map Page.poison = some .lost → ∃ y, ends (.snapshotComplete p) y ∧
        getF y (F.clrSnap_state p) = 3 ∧ getF y (F.clrSnap_status p) = 4 ∧ y.mem = d.mem) ∧
    (∀ src gyle, flag d (F.clrBuddy_en p) = true → getF d (F.clrBuddySrc_src p) = src.toNat → ∃ t,
      exec (.buddyGenerationComplete p src gyle) s = .next t ∧ getF t.dev (F.clrBuddy_gen p) = 1 - getF d (F.clrBuddy_gen p) ∧
        getF t.dev (F.clrBuddy_valid p) = 1 ∧ getF t.dev (F.clrBuddySrc_last_gyle p) = gyle.toNat ∧
        t.dev.acked = (src.toNat, p.val, gyle.toNat) :: d.acked ∧ t.dev.mem = d.mem) ∧
    (∀ x rest, (Tab.get? d.acks p.val).getD [] = x :: rest → idle →
      ∃ t, exec (.buddyAck p) s = .next t ∧ t.dev.mem = d.mem ∧ Tab.get? t.dev.acks p.val = some rest ∧
        (∀ w u y, pageAt d p w u = some y → pageAt t.dev p w u =
          some { y with ckptClean := x.pages.any (fun e => e.key == (p.val, w, u) && e.stamp == y.stamp) }) ∧
        ∀ q w u, q ≠ p.val → pageAt t.dev q w u = pageAt d q w u) ∧
    (flag d (F.clrBuddy_en p) = false → bitOf v.toNat 63 = true → ∃ t, exec (.buddyRegionEnable p v) s = .next t ∧
      getF t.dev (F.clrBuddy_en p) = 1 ∧ getF t.dev (F.clrBuddy_valid p) = 0 ∧ getF t.dev (F.clrBuddy_base p) = bits v.toNat 18 0 ∧
      getF t.dev (F.clrBuddy_gpages p) = bits v.toNat 58 40 ∧ ∀ k : FKey, k.reg ≠ .clrBuddy p → getF t.dev k = getF d k) ∧
    (flag d (F.clrBuddy_en p) = true → bitOf v.toNat 63 = true →
      exec (.buddyRegionEnable p v) s = .next { s with dev := setF d (F.clrSnap_wr_err p) 1 })

/-! ## The fabric -/

/-- Ports (R253, R254, R258, R260 to R265, Tables 11.4, 11.7, 11.8): a data flit received in order advances the receive sequence and joins its
message, or goes on toward its module; any other asks for a resend; a control flit acknowledges, and a nak asks for a replay, after 16 of
them for a retrain; a data slot sends the flit the schedule chooses, one again, or an idle one; the events of training move the port's
state. -/
def Obligations.Ports : Prop :=
  ∀ (s : State) (n : PortId), s.dev.powerGood = true →
    let d := s.dev
    let x := portOf d n
    let trained : Prop := [3, 4, 6, 7].contains (portState d n) = true
    let verdict (i : Nat × Nat × Nat) : Nat := if flag d (F.fabLmap_used n) = false then 7
      else if i.1 = getF d (F.fabLmap_nb_module n) ∧ i.2.2 = getF d (F.fabLmap_nb_port n) ∧
        neighbour d (ownCoord d) n = some i.2.1 ∧ i.2.2 = Nat.xor n 1 then 4 else 6
    (∀ l f, portUp d n = true → flitGood l = true → leNat (l.take 1) % 16 = 1 → Flit.ofBytes l = f → f.seq = x.rxSeq →
      ∃ t, exec (.dataFlitReceive n l) s = .next t ∧ getF t.dev (F.fabPcntRxFlits_rx_flits n) =
          (getF d (F.fabPcntRxFlits_rx_flits n) + 1) % 2 ^ (F.fabPcntRxFlits_rx_flits n).width ∧
        (portOf t.dev n).rxSeq = (x.rxSeq + 1) % 4096 ∧ (portOf t.dev n).nak = false ∧ t.dev.mem = d.mem ∧ t.sec = s.sec ∧
        (∀ m, f.dst = getF d F.fabCoord_coord → f.eom = true → Msg.ofFlits (x.parts.filter (fun g => g.vc == f.vc) ++ [f]) = some m →
          (portOf t.dev n).inbox = x.inbox ++ [(f.vc, m)]) ∧
        (∀ o, f.dst ≠ getF d F.fabCoord_coord → routePort d (sliceOf d f.part f.vc f.dst) (ownCoord d) f.dst = some o →
          portCarries d o = true → (portOf t.dev o).ready = (portOf d o).ready ++
            [(8 * n.val + f.vc, { f with vc := if wrapLink d (ownCoord d) o then wrapVc f.vc else f.vc })])) ∧
    (∀ l, portUp d n = true → flitGood l = false ∨ (leNat (l.take 1) % 16 = 1 ∧ (Flit.ofBytes l).seq ≠ x.rxSeq) →
      ∃ t, exec (.dataFlitReceive n l) s = .next t ∧ portOf t.dev n = { x with nak := true } ∧ t.dev.mem = d.mem) ∧
    (∀ l tRx, trained → flitGood l = true → leNat (l.take 1) % 16 = 2 →
      let h := leNat (l.take 12)
      let y := takeSlots { ackSb (ackFlits x (bits h 15 4)) (bits h 24 17) with
          credit := readCredits l, lastTx := leNat (cut l 64 8), lastRx := tRx.toNat }
          ((List.range 8).map (fun i => cut l (88 + 20 * i) 20))
      let nak : Prop := bitOf h 16 = true ∧ y.replay ≠ []
      ∃ t, exec (.controlFlitReceive n l tRx) s = .next t ∧ t.dev.mem = d.mem ∧
        (¬nak → portOf t.dev n = y ∧ portState t.dev n = portState d n) ∧
        (nak → portOf t.dev n = { y with resend := y.replay.length } ∧
          portState t.dev n = if y.replays ≥ 16 ∧ portUp d n = true then 5 else portState d n)) ∧
    (∀ k, portState d n = 3 → 2 ≤ k → k ≤ 24 → exec (.dataSlot n k) s = .next { s with dev := sendIdle d n }) ∧
    (∀ k, portState d n = 4 → 1 ≤ k → k ≤ 24 → ∃ t, exec (.dataSlot n k) s = .next t ∧ t.dev.mem = d.mem ∧
      (lacksCredit x = true → getF t.dev (F.fabPcntCreditStall_credit_stall n) =
        (getF d (F.fabPcntCreditStall_credit_stall n) + 1) % 2 ^ (F.fabPcntCreditStall_credit_stall n).width) ∧
      (∀ f, x.replay[x.replay.length - x.resend]? = some f → 0 < x.resend → (portOf t.dev n).resend = x.resend - 1 ∧
        (portOf t.dev n).replay = x.replay ∧ Tab.get? t.dev.sentData n = some f.bytes) ∧
      (∀ r, x.resend = 0 → x.replay.length < 1024 → slotChoice d x k = some r → (portOf t.dev n).txSeq = (x.txSeq + 1) % 4096 ∧
        (portOf t.dev n).replay = x.replay ++ [{ r.2 with seq := x.txSeq }] ∧ (portOf t.dev n).ready = x.ready.erase r ∧
        Tab.get? t.dev.sentData n = some ({ r.2 with seq := x.txSeq } : Flit).bytes) ∧
      (x.resend = 0 → 1024 ≤ x.replay.length ∨ slotChoice d x k = none → Tab.get? t.dev.sentData n = some idleFlit ∧
        (portOf t.dev n).replay = x.replay)) ∧
    (portState d n = 3 ∨ portState d n = 4 → ∃ t, exec (.dataSlot n 1) s = .next t ∧
      Tab.get? t.dev.sentCtl n = some (controlFlit d x) ∧ (portOf t.dev n).nak = false) ∧
    (∀ lane : Fin 8, x.trained = true → bitOf (getF d (F.fabPort_lane_mask n)) lane = true → trained →
      ∃ t, exec (.laneFailure n lane) s = .next t ∧ portState t.dev n = 5 ∧
        getF t.dev (F.fabPort_retrains n) = min (getF d (F.fabPort_retrains n) + 1) (2 ^ (F.fabPort_retrains n).width - 1)) ∧
    (∀ ok, let now := Nat.land (getF d (F.fabPort_lane_mask n)) ok.toNat
      portState d n = 5 → ∃ t, exec (.fastRetrainComplete n ok) s = .next t ∧ getF t.dev (F.fabPort_lanes n) = laneCount now ∧
        portState t.dev n = (if now = 0 then 8 else if getF d (F.fabPort_disc n) = 1 then 4 else if getF d (F.fabPort_disc n) = 3 then 6
          else if getF d (F.fabPort_disc n) = 4 then 7 else match x.ident with | some i => verdict i | none => 3) ∧
        (now ≠ 0 → (portOf t.dev n).resend = x.replay.length)) ∧
    (∀ ok, portState d n = 2 → d.wakeQueue.contains (.fabricPort n) = false → ∃ e,
      exec (.fullTrainingComplete n ok) s = .next (withAudit (fun _ => e) s) ∧ getF e (F.fabPort_lanes n) = laneCount ok.toNat ∧
      portState e n = (if laneCount ok.toNat ≠ 0 then 3 else if x.signal = true then 8
        else if flag d (F.fabLmap_used n) = true then 1 else 0)) ∧
    (∀ m e, takeSb d n 4 = some (m, e) →
      let i := (bits m.value 15 0, bits m.value 40 16, bits m.value 44 41)
      ∃ t, exec (.ident n) s = .next t ∧ (portOf t.dev n).ident = some i ∧
      getF t.dev (F.fabPort_nb_module n) = i.1 ∧ getF t.dev (F.fabPort_nb_port n) = i.2.2 ∧
      portState t.dev n = if portState d n = 3 then verdict i else portState d n) ∧
    (portState d n = 0 ∨ portState d n = 1 → d.malt ≠ 0 → ∃ t, exec (.partnerFirstSignal n) s = .next t ∧ portState t.dev n = 2 ∧
      (portOf t.dev n).signal = true ∧ getF t.dev (F.fabPort_disc n) = 0)

/-- Channels (R122 to R125, R274 to R278, R285): an ARRIVE of a child counts for its use; a use that is complete goes up the tree, or from
the root down with its release time; at that time it completes, and the flag check writes FAB_NFLAGp and the history. A channel that is
not released in time, and a FAULT message, fault the slice and cancel its channels. -/
def Obligations.Channels : Prop :=
  ∀ (s : State) (p : PartId) (n : PortId) (ch : Fin 18), s.dev.powerGood = true →
    let d := s.dev
    let faulted (t : State) (q cause : Nat) : Prop := getF t.dev (F.fabSlstat_fault q) = 1 ∧
      getF t.dev (F.fabSlstat_cause q) = cause ∧ getF t.dev (F.fabIrq_slice_fault q) = 1 ∧
      ∀ k x, Tab.get? t.dev.chans (q, k) = some x → x.cancelled = true
    (∀ m e, takeSb d n 1 (fun m => !arriveWaits d m) = some (m, e) → m.chan ≤ 17 → flag d (F.fabSlice_valid m.part) = true →
      (openUse d m.part m.chan).cancelled = false → m.gen = useGen d m.part m.chan (openUse d m.part m.chan) →
      n.val ∈ childPorts d m.part → (openUse d m.part m.chan).release = none →
      let x := openUse e m.part m.chan
      let joined : Chan := { x with kids := Tab.put x.kids n.val ⟨m.flags, m.value⟩ }
      exec (.arrive n) s = .next { s with dev := climb (setChan e m.part m.chan joined) m.part m.chan }) ∧
    (∀ x a, openUse d p ch = x → x.cancelled = false → flag d (F.fabSlice_valid p) = true → x.sent = false → x.release = none →
      subtree d p ch x = some a → x.check = none ∨ bitOf a.flags 8 = false →
      climb d p ch = if flag d (F.fabSlcfg_root p) then releaseUse d p ch x (getF d F.fabFtc_ftc + 8 * getF d (F.fabSlcfg_rel_delay p)) a
        else sendSb (setChan d p ch { x with sent := true }) (getF d (F.fabSlcfg_up p))
          ⟨1, p, ch, useGen d p ch x, a.flags, if ch.val = 16 ∨ x.formation = true then a.value else 0, 0⟩) ∧
    (∀ x a, openUse d p ch = x → x.cancelled = false → flag d (F.fabSlice_valid p) = false → ownComplete ch x = true → x.own = some a →
      climb d p ch = setChan d p ch { x with release := some (getF d F.fabFtc_ftc + 400, a) }) ∧
    (∀ m e x, takeSb d n 2 = some (m, e) → Tab.get? e.chans (m.part, m.chan) = some x → x.cancelled = false → x.sent = true →
      x.release = none → m.gen = useGen e m.part m.chan x → getF e (F.fabSlcfg_up m.part) = n → getF d F.fabFtc_ftc ≤ m.value →
      let a : Arrival := ⟨m.flags, if m.chan = 16 then m.ext else m.value⟩
      exec (.release n) s = .next { s with dev := releaseUse e m.part m.chan x m.value a }) ∧
    (∀ x t a, Tab.get? d.chans (p.val, ch.val) = some x → x.cancelled = false → x.formation = false → x.check = none →
      x.release = some (t, a) → ∃ u, exec (.channelReleaseReached p ch) s = .next (withAudit (fun _ => u) s) ∧
        Tab.get? u.chans (p.val, ch.val) = none ∧
        getF u (F.fabSlstat_releases p) = (getF d (F.fabSlstat_releases p) + 1) % 2 ^ (F.fabSlstat_releases p).width ∧
        getF u F.fabFtc_ftc = max (getF d F.fabFtc_ftc) t % 2 ^ 64) ∧
    (∀ c x t a g, checkChannel d p = some c → Tab.get? d.chans (p.val, c) = some x → x.release = some (t, a) → x.check = some g →
      g < 2 ^ 48 → ∃ u, exec (.flagCheckRelease p) s = .next (withAudit (fun _ => u) s) ∧ getF u (F.fabNflag_chk_gyle p) = g ∧
        getF u (F.fabNflag_chk_valid p) = 1 ∧ getF u (F.fabNflag_red_fault p) = b2n (bitOf a.flags 1) ∧
        getF u (F.fabNflag_red_nonfin p) = b2n (bitOf a.flags 0 || bitOf a.flags 1) ∧
        ((Tab.get? u.history p.val).getD []).head? = some (g, bitOf a.flags 0 || bitOf a.flags 1)) ∧
    (∀ v : Word, ∃ t, exec (.nflagWrite p v) s = .next t ∧
      getF t.dev (F.fabNflag_nonfin p) = (if bitOf v.toNat 0 || bitOf v.toNat 1 then 1 else getF d (F.fabNflag_nonfin p)) ∧
      getF t.dev (F.fabNflag_fault p) = (if bitOf v.toNat 1 then 1 else getF d (F.fabNflag_fault p)) ∧
      (∀ k : FKey, k ≠ F.fabNflag_nonfin p → k ≠ F.fabNflag_fault p → getF t.dev k = getF d k) ∧ t.dev.mem = d.mem) ∧
    ((∀ m e, takeSb d n 3 = some (m, e) → m.part < 4 → flag d (F.fabSlice_valid m.part) = true →
        flag d (F.fabSlstat_fault m.part) = false →
        ∃ t, exec (.fault n) s = .next t ∧ faulted t m.part (if m.value % 16 = 5 then 5 else 4)) ∧
      (∀ x, Tab.get? d.chans (p.val, ch.val) = some x → x.own.isSome = true → x.release = none → x.cancelled = false →
        x.formation = false → flag d (F.fabSlice_valid p) = true → flag d (F.fabSlstat_fault p) = false →
        ∃ t, exec (.channelTimeout p ch) s = .next t ∧ faulted t p 3)) ∧
    (flag d (F.fabEpoch_draining p) = true → getF d (F.fabEpoch_open_old p) = 0 → (openUse d p 17).engine = false →
      exec (.drainArrive p) s = .next (flushAudit { s with dev := arriveChan d p 17 ⟨0, 0⟩ (fun x => { x with engine := true }) }))

/-- Messages and collectives (R217, R237, R255, R256, R280 to R283, R130): a WRITE's bytes go where its partition may write, a READ is
answered with the bytes, a RESP fills its reserved read, and a message whose pages are held waits; a COLL of another signature and an ABORT
resolve the collective MISMATCH, any other piece is kept in its block; the blocks of the last axis, and a chain's last sum, make the
result; a RINGPASS step and a collective end when their blocks are whole. -/
def Obligations.Messages : Prop :=
  ∀ (s : State) (p : PartId) (n : PortId) (vc : Fin 8), s.dev.powerGood = true →
    let d := s.dev
    let dst (m : Msg) (write : Bool) : Nat := buddyAddr d m.dpart m.src m.addr write
    (∀ m e, takeMsg d n vc 0 (fun m => !heldWrite d m.dpart (dst m true) m.data.length) = some (m, e) →
      (fabricMay d m.dpart (dst m true) m.data.length = true →
        exec (.write n vc) s = .next { s with dev := guardedPut e m.dpart (dst m true) m.data }) ∧
      (fabricMay d m.dpart (dst m true) m.data.length = false →
        exec (.write n vc) s = .next { s with dev := fabricDenied e m.dpart (dst m true) m.data.length })) ∧
    (∀ m e, takeMsg d n vc 1 (fun m => !heldRange d m.dpart (dst m false) m.length) = some (m, e) →
      let home := (Config.moduleCoord m.src).toNat
      let reply (step : Nat) (l : List Byte) : Msg :=
        { m with kind := 2, part := m.dpart, src := getF d F.fabCoord_module, dst := home, dpart := m.part, addr := 0, length := l.length,
                 step := step, data := l }
      let may : Prop := fabricMay d m.dpart (dst m false) m.length = true ∧ 1 ≤ m.length ∧ m.length ≤ 16384
      let lost : Prop := ∃ x ∈ pagesTouched d m.dpart (dst m false) m.length, ∃ y, pageAt d m.dpart x.1 x.2 = some y ∧ y.poison = .lost
      let answered (step : Nat) : Dev := sendTo (noteRead e m.dpart (dst m false) m.length)
        (reply step (viewRead d m.dpart (dst m false) m.length)) true
      (may → ¬lost → exec (.read n vc) s = .next { s with dev := answered 0 }) ∧
      (may → lost → exec (.read n vc) s = .next { s with dev := answered 2 }) ∧
      (¬may → ∃ l, l.length = min m.length 16384 ∧
        exec (.read n vc) s = .next { s with dev := sendTo (fabricDenied e m.dpart (dst m false) m.length) (reply 1 l) true })) ∧
    ((takeMsg d n vc 0 (fun m => !heldWrite d m.dpart (dst m true) m.data.length) = none →
        (takeMsg d n vc 0 (fun _ => true)).isSome = true → exec (.write n vc) s = .next { s with dev := steadyBroken d }) ∧
      (takeMsg d n vc 1 (fun m => !heldRange d m.dpart (dst m false) m.length) = none →
        (takeMsg d n vc 1 (fun _ => true)).isSome = true → exec (.read n vc) s = .next { s with dev := steadyBroken d })) ∧
    (∀ m e r, takeMsg d n vc 2 (fun _ => true) = some (m, e) → d.reads.find? (fun r => r.req == m.tag && r.result.isNone) = some r →
      (m.step = 0 → exec (.resp n vc) s = .next { s with dev :=
        { e with reads := e.reads.map (fun x => if x = r then { x with result := some (0, m.data) } else x) } }) ∧
      (∀ x, m.step ≠ 0 → Tab.get? d.pages r.key = some x → d.held = [] → ∃ t, exec (.resp n vc) s = .next t ∧
        Tab.get? t.dev.pages r.key = some { x with poison := .lost } ∧ getF t.dev (F.fabNflag_fault r.key.1) = 1)) ∧
    (∀ m e k, takeMsg d n vc 3 (fun m => match collFor d m with | some k => !k.held | none => false) = some (m, e) →
      collFor d m = some k →
      (m.sig ≠ k.sig → ∃ y, exec (.coll n vc) s = .next { s with dev := resolveColl y k k.stepped 2 } ∧ y.colls = d.colls ∧
        y.mem = d.mem ∧ ∀ j, getF y j = getF d j) ∧
      (m.sig = k.sig →
        let j := m.step / 32
        let i := m.step % 32
        let g := k.ring d j
        let o := k.place d j
        let before := (o + g - i % g) % g
        let from1 : Nat := if m.addr < k.firstHalf (k.blockBytes d j before) then before else (o + i) % g
        let key : Nat := if k.chain = true then 64 * (m.step - 1) else blockKey j from1
        ∃ y, exec (.coll n vc) s = .next { s with dev := advanceColl y { k with blocks := k.blocks ++ [(key, m.addr, m.data)] } } ∧
          y.colls = d.colls ∧ y.mem = d.mem ∧ ∀ x, getF y x = getF d x)) ∧
    (∀ m e k, takeMsg d n vc 4 (fun m => (collFor d m).isSome) = some (m, e) → collFor d m = some k →
      exec (.abort n vc) s = .next { s with dev := resolveColl e k k.stepped 2 }) ∧
    (∀ k : Coll, k.op ≠ 6 → k.chain = false → k.phase + 1 = (groupAxes k.axes).length →
      (∀ o < k.ring d k.phase, k.whole d k.phase o = true) →
      let r := k.combine d k.phase ((List.range (k.ring d k.phase)).map (fun o => k.block (blockKey k.phase o)))
      ∃ bs, advanceColl d k = setColl (if r.2 then setNonfin d k.p else d) { k with phase := k.phase + 1, cur := r.1, blocks := bs }) ∧
    (∀ k : Coll, k.op ≠ 6 → k.chain = true → k.phase = 0 → 0 < ownRank d k → ownRank d k + 1 = k.size d →
      k.cur.length ≤ (k.block 0).length →
      let r := addWords true k.fmt (k.toWords (k.block 0)) (k.toWords k.cur)
      ∃ y, advanceColl d k = setColl y { k with phase := 2, cur := wordBytes (elemBytes k.fmt) r.1 } ∧ y.colls = d.colls ∧ y.mem = d.mem ∧
        ∀ x, getF y x = getF (if r.2 then setNonfin d k.p else d) x) ∧
    (∀ i k, nthColl d p i = some k → k.held = false →
      let g := k.size d
      let r := (ownRank d k + g - (k.stepped + 1) % g) % g
      (k.op = 6 → k.stepped + 1 < g → k.whole d 0 r = true →
        (heldWrite d p (k.dst + r * k.count) k.count = true → exec (.ringpassStep p i) s = .next { s with dev := steadyBroken d }) ∧
        (heldWrite d p (k.dst + r * k.count) k.count = false →
          ∃ y, exec (.ringpassStep p i) s = .next { s with dev := match k.sevt with | some e => postMask y k.cmask e | none => y } ∧
            y.mem = (engineWrite d p (k.dst + r * k.count) (k.block r)).mem ∧
            y.colls = d.colls.map (fun y => if y.id = k.id then { k with stepped := k.stepped + 1 } else y))) ∧
      ((k.op = 6 ∧ k.stepped + 1 = g) ∨ (k.op ≠ 6 ∧ k.combined = true) →
        heldWrite d p k.dst (k.dstBytes g) = false → heldWrite d p (k.desc + 48) 8 = false →
        let e := if k.op = 6 then d else engineWrite d p k.dst (collResult d k)
        exec (.collectiveResolve p i) s = .next { s with dev := resolveColl e k (k.steps d) 1 }))

/-! ## Hosts, mailboxes and the maltster -/

/-- What a store and a read do to the fields of a register (R5, R9, R314): a read-write field takes the bits stored, W1C and W1S fields lose
or gain them, any other field and any stage-set item is unchanged; RC fields are cleared by a read. Registers outside the view give an
access error, counted against a host's partition (R331). By address (R310 to R312): the control window takes only aligned 64-bit
accesses; a store to an open scratchpad bank puts its bytes there and changes no other byte; a load gives the bytes, but for a word found
uncorrectable (R221); an access to a page that is away is held (R237, R241), and a load of pages that are there gives their bytes. -/
def Obligations.Accesses : Prop :=
  ((∀ (d : Dev) (r : Reg) (v : Nat) (x : FieldDef), x ∈ r.fields →
     let k : FKey := ⟨r, x.lo⟩
     let new := getF (plainStore d r v) k
     (x.stage = .none → x.acc = .rw → new = v / 2 ^ x.lo % 2 ^ x.width) ∧
     (x.stage = .none → x.acc = .w1c → new = Nat.land (getF d k) (2 ^ x.width - 1 - v / 2 ^ x.lo % 2 ^ x.width) % 2 ^ x.width) ∧
     (x.stage = .none → x.acc = .w1s → new = Nat.lor (getF d k) (v / 2 ^ x.lo % 2 ^ x.width) % 2 ^ x.width) ∧
     (x.stage ≠ .none ∨ (x.acc ≠ .rw ∧ x.acc ≠ .w1c ∧ x.acc ≠ .w1s) → new = getF d k) ∧
     (∀ j : FKey, j.reg ≠ r → getF (plainStore d r v) j = getF d j)) ∧
   (∀ (s : State) (who : Agent) (a : BitVec 48) (v : Word), s.dev.powerGood = true →
     let denied (t : State) : Prop := t.dev.bus = .accessError ∧ t.dev.mem = s.dev.mem ∧ t.sec = s.sec ∧
       ∀ p, who = .host p → getF t.dev (F.secDeny_count p) = (getF s.dev (F.secDeny_count p) + 1) % 2 ^ (F.secDeny_count p).width
     (∀ r, Reg.ofAddr a.toNat = some r → regVisible s.dev who r = true →
       exec (.registerWrite who a v) s =
         .next (flushAudit { s with dev := storeReg { s.dev with bus := .none } who r v.toNat }) ∧
       ∃ t, exec (.registerReadClear who a) s = .next t ∧ t.dev.bus = .value (BitVec.ofNat 64 (readReg s r)) ∧ t.dev.mem = s.dev.mem ∧
         (∀ x ∈ r.fields, getF t.dev ⟨r, x.lo⟩ = if x.acc = .rc then 0 else getF s.dev ⟨r, x.lo⟩) ∧
         (∀ j : FKey, j.reg ≠ r → getF t.dev j = getF s.dev j) ∧ t.sec = s.sec) ∧
     (Reg.ofAddr a.toNat = none → ∃ t, exec (.registerReadClear who a) s = .next t ∧ denied t) ∧
     (∀ r, Reg.ofAddr a.toNat = some r → regVisible s.dev who r = false → ∃ t, exec (.registerReadClear who a) s = .next t ∧ denied t))) ∧
  (∀ (s : State) (p : PartId) (a : BitVec 48) (n : Nat) (store : Option Word) (found : Found) (row : Nat), s.dev.powerGood = true → 1 ≤ n →
     let d := s.dev
     (inControl a.toNat = true → a.toNat % 8 ≠ 0 ∨ n ≠ 8 → ∃ t, exec (.hostAccess p a n store found row) s = .next t ∧
       t.dev.bus = .accessError ∧ t.dev.mem = d.mem) ∧
     (a.toNat + n ≤ 0x040000000000 → n ≤ 8 → rangePages d p a.toNat n = true →
       let h : HeldAccess := ⟨p, a.toNat, n, store, false⟩
       (mustHold d h = true → ∃ t, exec (.hostAccess p a n store found row) s = .next t ∧ t.dev.bus = .held ∧ t.dev.held = d.held ++ [h] ∧
         t.dev.mem = d.mem ∧ (inSteady d = true → getF t.dev F.pwrStatus_steady_broken = 1)) ∧
       (mustHold d h = false → store = none → found = .clean → ∃ t, exec (.hostAccess p a n store found row) s = .next t ∧
         t.dev.bus = .value (BitVec.ofNat 64 (viewNat d p a.toNat n)) ∧ t.dev.mem = d.mem) ∧
       (∀ v : Word, mustHold d h = false → store = some v → found = .clean → ∃ t, exec (.hostAccess p a n store found row) s = .next t ∧
         t.dev.bus = .none ∧ t.dev.mem = (viewWriteNat d p a.toNat n v.toNat).mem))) ∧
  (∀ (s : State) (p : PartId) (c off n : Nat) (v : Word) (row : Nat), s.dev.powerGood = true → 1 ≤ n → n ≤ 8 →
     let d := s.dev
     let a := BitVec.ofNat 48 (0x040000000000 + 0x4000000 * c + off)
     let mine : Prop := c < 28 ∧ off + n ≤ 0x4000000 ∧ ownsCluster d p c = true ∧ banksOpen d c off n = true
     (∀ found, mine → Memory.wf d.mem = true → protectedHit d c off n = false →
       ∃ t, exec (.hostAccess p a n (some v) found row) s = .next t ∧
       (∀ i < n, memGet t.dev.mem (spadBase c + off + i) = BitVec.ofNat 8 (v.toNat / 256 ^ i)) ∧
       (∀ x, x < spadBase c + off ∨ spadBase c + off + n ≤ x → memGet t.dev.mem x = memGet d.mem x) ∧
       (∀ k, getF t.dev k = getF d k) ∧ t.sec = s.sec) ∧
     (mine → ∃ t, exec (.hostAccess p a n none .clean row) s = .next t ∧ t.dev.mem = d.mem ∧ (∀ k, getF t.dev k = getF d k) ∧
       t.dev.bus = .value (BitVec.ofNat 64 (leNat ((List.range n).map (fun i => memGet d.mem (spadBase c + off + i)))))) ∧
     (mine → ∃ t, exec (.hostAccess p a n none .uncorrectable row) s = .next t ∧ t.dev.bus = .none ∧ getF t.dev (F.bankStatus_ue c) = 1 ∧
       t.dev.mem = (loseWord d c (off / 0x200000) (off % 0x200000 / 64)).mem) ∧
     (∀ found, c < 28 → off + n ≤ 0x4000000 → ownsCluster d p c = false → ∃ t, exec (.hostAccess p a n (some v) found row) s = .next t ∧
       t.dev.bus = .accessError ∧ t.dev.mem = d.mem))

/-- The mailbox (R291, R315 to R318, Table 13.4): the slot whose turn it is is picked up, its own bit cleared; a store to a slot that is
owned only sets busy_wr; a reserved opcode is answered with status 0x01; an answer fills the response slot, sets resp, and the command is
no longer waiting; IDENTITY is answered with the module's identity. -/
def Obligations.Mailboxes : Prop :=
  (∀ (d : Dev) (m : MbxCmd) (st : Nat) (res : List Nat), m.chan < 4 → m.slot < 16 →
    (∀ i < 16, getF (answer d m st res) (F.mbxRsp_word m.chan m.slot i) = nth (responseWords m st res) i % 2 ^ 64) ∧
    getF (answer d m st res) (F.mbxIrq_resp m.chan) = 1 ∧ (∀ x ∈ (answer d m st res).picked, x.id ≠ m.id) ∧
    (answer d m st res).mem = d.mem ∧ (answer d m st res).pages = d.pages) ∧
  (∀ (s : State) (p : PartId) (i w : Fin 16) (v : Word), s.dev.powerGood = true →
    let d := s.dev
    let read := (List.range 16).flatMap (fun w => leBytes 8 (getF d (F.mbxCmd_word p i w)))
    let m := newCmd d p i read [] (0, 0)
    (d.malt = 1 → nextTurn d = some p.val → nextSlot d p = some i.val →
      ∃ e, exec (.mailboxPickup p) s = .next (withAudit (fun _ => e) s) ∧ e.mbxTurn = p.val ∧
        getF e (F.mbxCmd_word p i 0) = (getF d (F.mbxCmd_word p i 0) - 1) % 2 ^ 64 ∧
        getF e (F.mbxStat_last_slot p) = i ∧ e.mem = d.mem ∧
        (knownOpcodes.contains m.opcode = true → e.picked = d.picked ++ [m]) ∧
        (knownOpcodes.contains m.opcode = false → bits (getF e (F.mbxRsp_word p i 0)) 31 24 = 1 ∧ ∀ x ∈ e.picked, x.id ≠ m.id)) ∧
    (bitOf (getF d (F.mbxCmd_word p i 0)) 0 = true → ∃ t, exec (.mailboxBusyWrite p i w v) s = .next t ∧
      getF t.dev (F.mbxStat_busy_wr p) = 1 ∧ (∀ k : FKey, k ≠ F.mbxStat_busy_wr p → getF t.dev k = getF d k) ∧ t.dev.mem = d.mem) ∧
    (∀ k m, cmdAt d k 0x01 = some m → fieldsOk m [] = true → m.role = 0 →
      (m.chan ≠ 4 ∨ s.sec.fuses.rights.getLsbD 1 = false) →
      exec (.identity k) s = .next (flushAudit { s with dev := answer d m 0 (identityWords d) })))

/-- Stage sets (R321 to R327, Tables 13.8 and 13.9), for a command whose fields and role are right: OPEN begins an empty set, WRITE merges
its items, CHECK that every rule passes marks it CHECKED, COMMIT arms it for an FTC value or a gyle or commits it now, after an installer's
set due at this FTC (R326), ABORT and the lapse discard it; at its instant a set that fails the check again changes no item and is
answered with status 0x06. -/
def Obligations.StageSets : Prop :=
  ∀ (s : State) (k : Nat) (m : MbxCmd), s.dev.powerGood = true →
    let d := s.dev
    let sc := cmdScope m
    let st := getF d (stgState sc)
    let may (op : Nat) : Prop := cmdAt d k op = some m ∧ scopeRole m = true ∧ (m.role = 0 ∨ flag d F.secAudit_full = false) ∧
      otherChannel d m = false
    let answered (e : Dev) (status : Nat) (res : List Nat) : Host.Outcome State Fault Refusal :=
      .next (flushAudit { s with dev := answer e m status res })
    let opened := setF (setF { d with sets := Tab.put d.sets sc ⟨[], none⟩ } (stgState sc) 1) (stgItems sc) 0
    (may 0x10 → fieldsOk m [1] = true → st = 0 →
      exec (.stageOpen k) s = answered (if sc = 4 then setF opened F.stgIstat_chan m.chan else opened) 0 []) ∧
    (may 0x10 → fieldsOk m [1] = true → st ≠ 0 → exec (.stageOpen k) s = answered d 4 []) ∧
    (let n := bits (m.arg 1) 10 8
     let items := ((writeItems d m sc).filterMap id).foldl mergeItem (setOf d sc).items
     let put : Dev := { d with sets := Tab.put d.sets sc { setOf d sc with items := items } }
     may 0x11 → fieldsOk m (0x701 :: List.replicate (3 * n) allBits) = true → 1 ≤ n → n ≤ 4 → st = 1 ∨ st = 2 →
       (writeItems d m sc).any (fun x => x.isNone) = false → items.length ≤ 256 →
       exec (.stageWrite k) s = answered (setF (setF put (stgState sc) 1) (stgItems sc) items.length) 0 [items.length]) ∧
    (may 0x12 → fieldsOk m [1] = true → st = 1 →
      (failing d (setOf d sc).items = none → sc ≠ 4 → exec (.stageCheck k) s = answered (setF d (stgState sc) 2) 0 []) ∧
      (∀ i r, failing d (setOf d sc).items = some (i, r) →
        exec (.stageCheck k) s = answered (setF d (stgReason sc) r) 6 [i + r * 2 ^ 16])) ∧
    (may 0x13 → fieldsOk m [0x301, if bits (m.arg 1) 9 8 = 0 then 0 else allBits] = true → st = 2 →
      (let armed := armSet d m sc 0 (ftcOf d)
       let due (n : Nat) : Bool := dueBefore armed sc (ftcOf armed) n
       bits (m.arg 1) 9 8 = 0 →
        ((∀ n < 5, due n = false) → exec (.stageCommit k) s = .next (flushAudit { s with dev := commitSet armed sc })) ∧
        (due 4 = true → (∀ n < 4, dueBefore (commitSet armed 4) sc (ftcOf (commitSet armed 4)) n = false) →
          exec (.stageCommit k) s = .next (flushAudit { s with dev := commitSet (commitSet armed 4) sc }))) ∧
      (bits (m.arg 1) 9 8 = 2 → sc ≠ 4 → m.arg 2 < 2 ^ 48 →
        ((∀ g, m.arrived = some g → g + 1 < m.arg 2) → exec (.stageCommit k) s =
          .next (flushAudit { s with dev := setF (setCmd (armSet d m sc 2 (m.arg 2)) { m with waits := true }) (stgState sc) 3 })) ∧
        (∀ g, m.arrived = some g → m.arg 2 ≤ g + 1 → exec (.stageCommit k) s = answered (setF d (stgLast sc) 7) 7 [])) ∧
      (bits (m.arg 1) 9 8 = 1 → m.ftc + 400000 ≤ m.arg 2 → m.arg 2 ≤ m.ftc + 120000000000 → exec (.stageCommit k) s =
        .next (flushAudit { s with dev := setF (setCmd (armSet d m sc 1 (m.arg 2)) { m with waits := true }) (stgState sc) 3 })) ∧
      (bits (m.arg 1) 9 8 = 1 → m.arg 2 < m.ftc + 400000 → exec (.stageCommit k) s = answered (setF d (stgLast sc) 7) 7 [])) ∧
    (may 0x14 → fieldsOk m [1] = true → st = 1 ∨ st = 2 →
      exec (.stageAbort k) s = .next (flushAudit { s with dev := endSet (answer d m 0 []) sc 0x13 [] })) ∧
    (∀ scope : Option PartId,
      let n := scopeOf scope
      let now := setF d F.fabFtc_ftc (max (ftcOf d) (getF d (stgInstant n)))
      (d.malt = 1 → getF d (stgState n) = 3 → getF d (stgWhen n) = 1 → earlierSet d n = false →
        exec (.commitInstant scope) s = .next (flushAudit { s with dev := passing (fun _ => commitSet now n) d })) ∧
      (getF d (stgState n) = 1 ∨ getF d (stgState n) = 2 → (setOf d n).cmd = none →
        ∃ e, exec (.stageSetLapse scope) s = .next (withAudit (fun _ => e) s) ∧ getF e (stgState n) = 0 ∧ Tab.get? e.sets n = none ∧
          e.mem = d.mem ∧ e.pages = d.pages)) ∧
    (∀ n i r, n ≤ 4 → (setOf d n).cmd = none → failing { auditEvent d 1 with cycle := (commitSet d n).cycle } (setOf d n).items = some (i, r) →
      getF (commitSet d n) (stgState n) = 0 ∧ Tab.get? (commitSet d n).sets n = none ∧ (commitSet d n).mem = d.mem ∧
      ∀ x : FKey, x.reg ≠ .stgIstat → (∀ p, x.reg ≠ .stgPstat p) → getF (commitSet d n) x = getF d x)

/-- Pages, slices, draws and ports at the mailbox (R230, R234, R263, R295 to R297, R306, R319, R320), for a command whose fields are right: each
is answered with its result, or waits for its instant; the instants, time-outs and lapses of formations and dissolutions. -/
def Obligations.OperatorCommands : Prop :=
  ∀ (s : State) (k : Nat) (m : MbxCmd) (p : PartId), s.dev.powerGood = true →
    let d := s.dev
    let is (op : Nat) (fields : List Nat) : Prop := cmdAt d k op = some m ∧ fieldsOk m fields = true ∧ operatorCmd m = true
    let answered (e : Dev) (status : Nat) (res : List Nat) : Host.Outcome State Fault Refusal :=
      .next (flushAudit { s with dev := answer e m status res })
    let freed (e : Dev) : Host.Outcome State Fault Refusal := .next (flushAudit { s with dev := pagesChanged (fun _ => e) d })
    let n := bits (m.arg 2) 13 0
    (∀ w vs e, is 0x20 [allBits, (2 ^ 24 - 1) * 2 ^ 40 + 0x13FFF] → 1 ≤ n → n ≤ 8192 → windowPages (m.arg 1) n = some (w, vs) →
      (∀ v ∈ vs, pageAt d m.part w v = none) → mapPages d m.part w (bits (m.arg 2) 63 40) (bitOf (m.arg 2) 16) vs = some e →
      exec (.pageMap k) s = answered e 0 []) ∧
    (∀ w vs, is 0x21 [allBits, 0x3FFF] → bitOf (m.arg 2) 17 = false → 1 ≤ n → n ≤ 8192 → windowPages (m.arg 1) n = some (w, vs) →
      (∀ v ∈ vs, (pageAt d m.part w v).isSome = true) →
      exec (.pageUnmap k) s = freed (answer (vs.foldl (fun d v => unmapPage d m.part w v) d) m 0 [vs.length])) ∧
    (let pin := bits (m.arg 2) 1 0
     let src := bits (m.arg 2) 5 4
     let ks := inPageOrder (objectPages d m.part (m.arg 1))
     is 0x22 [0xFFFFFF, 0x33, 0xFFFF, 2 ^ 48 - 1, 3] → pin ≠ 3 → src ≠ 3 → (src = 2 → m.arg 4 % pageSize = 0) → ks ≠ [] →
      (∀ e, (if pin = 1 then pinPages d m.part ks else some d) = some e →
        exec (.pageAttr k) s = freed (answer (attrPages e m ks) m 0 [ks.length])) ∧
      (pin = 1 → pinPages d m.part ks = none → exec (.pageAttr k) s = freed (answer d m 9 []))) ∧
    (is 0x23 [0x1FFFFFF] →
      let es := if bitOf (m.arg 1) 24 then pagesOf d m.part else objectPages d m.part (bits (m.arg 1) 23 0)
      let count (ok : Page → Bool) : Nat := (es.filter (fun e => ok e.2)).length
      exec (.poolQuery k) s = answered d 0
        [count (fun x => x.tier == .hbm), count (fun x => x.tier == .cellar), count (fun x => x.pin), count (fun x => x.poison != .sound)]) ∧
    (let origin := bits (m.arg 3) 24 0
     let size := bits (m.arg 3) 49 25
     let ms := bits (m.arg 4) 31 16
     let f : Formation := ⟨m.arg 2, origin, size, bits (m.arg 4) 15 0, if ms = 0 then 1000 else ms, bits (m.arg 4) 46 32, 0, 0, 0, []⟩
     cmdAt d k 0x30 = some m → formFields m = true → operatorCmd m = true →
      (bits (m.arg 1) 1 0 = 0 → boxFits d m.part origin size = true → flag d (F.fabSlice_valid m.part) = false →
        Tab.get? d.forms m.part = none → sliceReady d m.part origin size = true →
        exec (.sliceFormPrepare k) s = answered { d with forms := Tab.put d.forms m.part f } 0
          [groupRank (inBox d m.part origin size) m.part 31 (ownCoord d)]) ∧
      (∀ x, bits (m.arg 1) 1 0 = 1 → formOf d m = some x → x.phase = 0 → m.ftc + 400000 ≤ m.arg 5 →
        let due : Formation := { x with cmd := m.id, phase := 1, instant := m.arg 5 }
        let waiting : Dev := setCmd { d with forms := Tab.put d.forms m.part due } { m with waits := true }
        exec (.sliceFormCommit k) s = .next (flushAudit { s with dev := waiting })) ∧
      (∀ x, bits (m.arg 1) 1 0 = 2 → formOf d m = some x → x.phase = 0 →
        exec (.sliceFormCancel k) s = answered { d with forms := Tab.erase d.forms m.part } 0 [])) ∧
    (∀ f, Tab.get? d.forms p.val = some f →
      let taken := d.picked.any (fun m => m.chan == p && m.opcode == 0x30 && bits (m.arg 1) 1 0 == 1 && m.arg 2 == f.token)
      (d.malt = 1 → f.phase = 1 → ∃ e, exec (.formationInstant p) s = .next (withAudit (fun _ => e) s) ∧ getF e (F.fabSlice_valid p) = 1 ∧
        getF e F.fabFtc_ftc = max (ftcOf d) f.instant % 2 ^ 64 ∧ getF e (F.fabEpoch_cur p) = f.epoch % 2 ^ (F.fabEpoch_cur p).width ∧
        (Tab.get? e.forms p.val).map Formation.phase = some 2) ∧
      (∀ x t a, f.phase = 2 → Tab.get? d.chans (p.val, 17) = some x → x.formation = true → x.release = some (t, a) →
        let now := setF d F.fabFtc_ftc (max (ftcOf d) t)
        let then' (e : Dev) : Prop := exec (.formationRelease p) s = .next (flushAudit { s with dev := passing (fun _ => e) d })
        (bits a.flags 5 3 = 0 → bitOf a.flags 1 = false → then' (endForm now p f)) ∧
        (bitOf a.flags 1 = true → then' (failForm now p f 0x0F)) ∧
        (bitOf a.flags 1 = false → bitOf a.flags 3 = true → then' (failForm now p f 0x0D))) ∧
      (f.phase = 2 → Tab.get? d.chans (p.val, 17) = none →
        exec (.formationTimeout p) s = .next (flushAudit { s with dev := failForm d p f 0x12 })) ∧
      (f.phase = 0 → exec (.preparationLapse p) s =
        .next (flushAudit { s with dev := if taken then d else { d with forms := Tab.erase d.forms p.val } }))) ∧
    (is 0x31 [1, allBits] → bitOf (m.arg 1) 0 = false → flag d (F.fabSlice_valid m.part) = true → m.ftc + 400000 ≤ m.arg 2 →
      Tab.get? d.ends m.part = none →
      let waiting : Dev := setCmd { d with ends := Tab.put d.ends m.part (m.arg 2, m.id) } { m with waits := true }
      exec (.sliceDissolve k) s = .next (flushAudit { s with dev := waiting })) ∧
    (is 0x31 [1, 0] → bitOf (m.arg 1) 0 = true → flag d (F.fabSlice_valid m.part) = true → flag d (F.fabSlstat_fault m.part) = true →
      exec (.sliceDissolve k) s =
        .next (flushAudit { s with dev := endDissolve (answer (dissolve d m.part) m 0 []) m.part 0x13 })) ∧
    (∀ e, Tab.get? d.ends p.val = some e → d.malt = 1 → ∃ t, exec (.dissolutionInstant p) s = .next (flushAudit t) ∧
      getF t.dev (F.fabSlice_valid p) = 0 ∧ getF t.dev F.fabFtc_ftc = max (ftcOf d) e.1 % 2 ^ 64 ∧ Tab.get? t.dev.ends p.val = none) ∧
    (is 0x32 [allBits, allBits, 0xFFFF, 2 ^ 48 - 1] → m.arg 3 ≠ 0 → s.sec.fuses.rights.getLsbD 0 = false →
      (getF d (F.clrSnap_state m.part) = 1 ∨ flag d (F.clrSnap_start m.part) = true →
        exec (.draw k) s = .next (flushAudit { s with dev := setCmd d { m with waits := true } })) ∧
      (∀ ks, getF d (F.clrSnap_state m.part) ≠ 1 → flag d (F.clrSnap_start m.part) = false → listHeld d m.part (drawReq m) = false →
        snapCheck d m.part (drawReq m) = .ok ks → clrUsed d m.part ≤ clrQuota d m.part → exec (.draw k) s = answered (beginSnap d m.part (drawReq m)) 0 [0])) ∧
    (cmdAt d k 0x33 = some m → fieldsOk m [0xF] = true → m.arg 1 ≤ 9 → m.role = 1 → flag d F.secAudit_full = false →
      (∀ q < 4, sliceUses d q (m.arg 1) = false) →
      let waiting := modPort (setF (setCmd d { m with waits := true }) (F.fabPort_disc (m.arg 1)) 0) (m.arg 1) (fun x => { x with signal := false })
      exec (.portTrain k) s = .next (flushAudit { s with dev := setPortState waiting (m.arg 1) 2 }))

/-! ## Security -/

/-- Writing the audit log changes of the module only SEC_AUDIT and the audit alert, and of the security store only the log and its
counters; a session that was closed ends (R344 to R347). -/
def Obligations.AuditLogFrame : Prop :=
  ∀ s : State,
    let t := flushAudit s
    t.pending = s.pending ∧ t.dev = { s.dev with f := t.dev.f, audits := [] } ∧
    (∀ k : FKey, k.reg ≠ .secAudit → k.reg ≠ .telAlert → getF t.dev k = getF s.dev k) ∧
    t.sec = { s.sec with log := t.sec.log, next := t.sec.next, unsealed := t.sec.unsealed, unsealedAt := t.sec.unsealedAt,
                         lostNoted := t.sec.lostNoted, diag := if getF s.dev F.secStatus_diag = 0 then none else s.sec.diag } ∧
    s.sec.log <:+ t.sec.log ∧ s.sec.next ≤ t.sec.next ∧
    (s.dev.audits = [] → t.sec.log = s.sec.log ∧ t.dev = s.dev)

/-- Signed commands (R333 to R335, R338, R339, R341, R343, R347): a rejected blob changes nothing and is recorded; an accepted one makes its
sequence the role's last. A key rotation programs the lowest free installer slot; the write of a signed image to flash begins, one at a
time, and ends with the image to be booted next; ATTEST puts a quote in the buffer or the datagram; a maker's blob opens a diagnostic
session; fuses are programmed only while manufacturing is open, and measured. -/
def Obligations.SignedCommands : Prop :=
  ∀ (s : State) (k : Nat) (m : MbxCmd), s.dev.powerGood = true →
    let d := s.dev
    let seen (m : MbxCmd) (n : Nat) : Prop := m.chan = 4 ∨ heldWrite d m.part (m.arg 1) n = false
    let l := blobOf d m
    let b := Blob.ofBytes l
    let extent : Prop := m.chan = 4 ∨ extentOk d m (m.arg 1) (m.arg 2) = true
    let open' : Prop := m.role = 0 ∨ flag d F.secAudit_full = false
    (cmdAt d k 0x41 = some m → seen m (m.arg 2) → fieldsOk m [allBits, 0xFFFF] = true → open' → extent →
      (blobStatus s l ≠ 0 → exec (.signed k) s = .next (flushAudit (rejectBlob s m l (blobStatus s l)))) ∧
      (blobStatus s l = 0 → ∃ t, exec (.signed k) s = .next (flushAudit t) ∧ t.dev = setCmd d (blobCmd m l) ∧
        t.sec.fuses = s.sec.fuses ∧ t.sec.log = s.sec.log ∧ (b.role = 2 → t.sec.makerSeq = b.seq ∧ t.sec.instSeq = s.sec.instSeq) ∧
        (b.role ≠ 2 → t.sec.instSeq = b.seq ∧ t.sec.makerSeq = s.sec.makerSeq))) ∧
    (∀ i, d.picked[k]? = some m → d.malt = 1 → m.kind = 1 → onTurn d k m = true → (∀ j < 11, m.arg (j + 5) = 0) →
      s.sec.fuses.rights.getLsbD 3 = false → flag d F.secAudit_full = false →
      (List.range 4).find? (fun i => !s.sec.fuses.instValid.getLsbD i) = some i →
      exec (.keyRotation k) s = .next (flushAudit (measureFuses { s with
        dev := auditEvent (answer d m 0 []) 5, sec := { s.sec with fuses := programSlot s.sec.fuses i (leNat (hashArgs m 1)) } }))) ∧
    (cmdAt d k 0x42 = some m → seen m (m.arg 2) → fieldsOk m [allBits, 0xFFFFFFFF] = true → m.role = 1 → flag d F.secAudit_full = false →
      (∀ id y, s.sec.install = some (id, y) → m.id ≠ id → exec (.fwInstall k) s = .next (flushAudit { s with dev := answer d m 4 [] })) ∧
      (∀ x, s.sec.install = none → extentOk d m (m.arg 1) (m.arg 2) = true → imageOf (viewRead d m.part (m.arg 1) (m.arg 2)) = some x →
        (imageSigned s.sec.fuses x = true → rollbackValue s.sec.fuses ≤ x.rb → exec (.fwInstall k) s = .next (flushAudit { s with
          dev := setCmd d { m with waits := true }, sec := { s.sec with torn := true, install := some (m.id, x) } })) ∧
        (imageSigned s.sec.fuses x = true → x.rb < rollbackValue s.sec.fuses →
          exec (.fwInstall k) s = .next (flushAudit { s with dev := answer d m 0x19 [] })) ∧
        (imageSigned s.sec.fuses x = false → exec (.fwInstall k) s = .next (flushAudit { s with dev := answer d m 0x14 [] })))) ∧
    (∀ x, d.picked[k]? = some m → d.malt = 1 → s.sec.install = some (m.id, x) → exec (.fwInstall k) s = .next (flushAudit { s with
      dev := setF (answer d m 0 []) F.secStatus_fw_pending 1, sec := { s.sec with image := x, torn := false, install := none } })) ∧
    (let q := quote s (hashArgs m 2)
     let sec := { s.sec with signs := s.sec.signs + 1 }
     cmdAt d k 0x40 = some m → seen m 512 → fieldsOk m (List.replicate 5 allBits) = true → open' →
      (m.chan ≠ 4 → bufferOk d m (m.arg 1) 512 = true → exec (.attest k) s =
        .next (flushAudit { s with dev := answer (viewWrite d m.part (m.arg 1) q) m 0 [512], sec := sec })) ∧
      (m.chan = 4 → exec (.attest k) s = .next (flushAudit { s with dev := extendAnswer (answer d m 0 [512]) q, sec := sec }))) ∧
    (cmdAt d k 0x44 = some m → m.kind = 2 → fieldsOk m [3, 0xFFFF] = true → m.arg 1 = 1 → 1 ≤ m.arg 2 → m.arg 2 ≤ 480 →
      s.sec.fuses.debugLock.getLsbD 1 = false → s.sec.fuses.rights.getLsbD 2 = false → flag d F.secAudit_full = false →
      s.sec.diag = none → exec (.diagOpen k) s = .next (flushAudit { s with
        dev := setF (auditEvent (answer d m 0 []) 6) F.secStatus_diag 1, sec := { s.sec with diag := some ⟨1, m.arg 2, ftcOf d⟩ } })) ∧
    (∀ x, s.sec.diag = some x → ∃ t, exec .diagExpiry s = .next t ∧ t.sec.diag = none ∧ getF t.dev F.secStatus_diag = 0 ∧
      getF t.dev F.fabFtc_ftc = max (ftcOf d) (x.opened + 120000000000 * x.minutes) % 2 ^ 64 ∧ t.sec.fuses = s.sec.fuses ∧
      t.dev.mem = d.mem) ∧
    (cmdAt d k 0x45 = some m → m.kind = 3 →
      (s.sec.fuses.mfgClosed = true → exec (.fuseProgram k) s = .next (flushAudit { s with dev := answer d m 4 [] })) ∧
      (s.sec.fuses.mfgClosed = false → flag d F.secAudit_full = false → exec (.fuseProgram k) s = .next (flushAudit (measureFuses { s with
        dev := answer d m 0 [], sec := { s.sec with fuses := blowFuses s.sec.fuses m.words } }))))

/-- The log and telemetry as read, datagrams, and the maltster's own events (R308, R309, R317, R336, R337, R342, R345, R346, R367, R384): reads
go to the buffer and are answered with what they wrote; a datagram that holds no command for the module is dropped; a seal covers every
entry once it is due; a restart reloads the image, a second within an hour holds the module; a boot checks the image and starts the
maltster, or waits for a recovery image. -/
def Obligations.MaltsterEvents : Prop :=
  ∀ (s : State) (k : Nat) (m : MbxCmd), s.dev.powerGood = true →
    let d := s.dev
    (cmdAt d k 0x43 = some m → heldWrite d m.part (m.arg 1) (128 * m.arg 3) = false ∨ m.chan = 4 →
      fieldsOk m [allBits, allBits, 0xFFFF] = true → 1 ≤ m.arg 3 → m.arg 3 ≤ 4096 → m.role = 1 →
      bufferOk d m (m.arg 1) (128 * m.arg 3) = true →
      let l := entriesFrom s.sec.log (m.arg 2) (m.arg 3)
      let next := m.arg 2 + l.length / 128
      exec (.auditRead k) s = .next (flushAudit (eraseSegments { s with
        dev := answer (viewWrite d m.part (m.arg 1) l) m 0 [l.length / 128, next],
        sec := { s.sec with readMark := if l.isEmpty then s.sec.readMark else max s.sec.readMark next } }))) ∧
    (cmdAt d k 0x50 = some m → heldWrite d m.part (m.arg 1) (m.arg 2) = false → fieldsOk m [allBits, 0xFFFF, 7] = true → m.arg 3 ≤ 4 →
      m.role ≠ 0 ∨ (m.chan ≠ 4 ∧ m.arg 3 ≤ 1) → m.role = 0 ∨ flag d F.secAudit_full = false → bufferOk d m (m.arg 1) (m.arg 2) = true →
      let l := (counterBytes s m.part (m.arg 3)).take (m.arg 2)
      exec (.telRead k) s = .next (flushAudit { s with dev := answer (viewWrite d m.part (m.arg 1) l) m 0 [l.length] })) ∧
    (∀ (data : List Byte) (src : BitVec 128) (port : BitVec 16) (dst : BitVec 128) (dport : BitVec 16) (udp : Bool),
      let holds : Prop := d.malt = 1 ∧ udp = true ∧ dport.toNat = 17440 ∧ mgtAddress d dst = true ∧ 128 ≤ data.length ∧ data.length ≤ 1452
      let x := newCmd d 4 0 (data.take 128) (data.drop 128) (src.toNat, port.toNat)
      let taken : Dev := { d with picked := d.picked ++ [x], mbxNext := d.mbxNext + 1 }
      let out (e : Dev) : Prop := exec (.mgtDatagram data src port dst dport udp) s = .next (flushAudit { s with dev := e })
      (¬holds → out (satF d F.mgtStatus_dropped 1)) ∧
      (holds → x.opcode = 0x01 ∨ x.opcode = 0x40 ∨ x.opcode = 0x41 → out taken) ∧
      (holds → knownOpcodes.contains x.opcode = true → x.opcode ≠ 0x01 → x.opcode ≠ 0x40 → x.opcode ≠ 0x41 → out (answer taken x 3 [])) ∧
      (holds → knownOpcodes.contains x.opcode = false → out (answer taken x 1 []))) ∧
    (∀ n, d.malt = 1 → exec (.heartbeat n) s =
        .next { s with dev := report (addF { d with maltCe := d.maltCe + n } F.mgtStatus_heartbeats 1) .heartbeat } ∧
      exec .watchdogExpiry s = .next { s with dev := { d with malt := 4 } }) ∧
    (d.malt = 1 → 0 < s.sec.unsealed → s.sec.log.length < auditRoom → ∃ t e, exec .auditSeal s = .next t ∧
      t.sec.log = (s.sec.next, e) :: s.sec.log ∧ t.sec.unsealed = 0 ∧ t.sec.next = s.sec.next + 1 ∧ t.sec.signs = s.sec.signs + 1 ∧
      (e.drop 32).take 64 = identitySign s.sec (lastChain s.sec) ∧ e.drop 96 = sm3 (lastChain s.sec ++ e.take 96) ∧
      getF t.dev F.fabFtc_ftc =
        (if 1024 ≤ s.sec.unsealed then ftcOf d else max (ftcOf d) (s.sec.unsealedAt + 120000000000)) % 2 ^ 64) ∧
    (d.malt = 1 ∨ d.malt = 4 → (∀ f ∈ d.forms, ∀ x ∈ f.2.saved, x.1 ∈ formKeys f.1) →
      let soon : Prop := ∃ t, d.lastRestart = some t ∧ ftcOf d < t + 7200000000000
      ∃ t, exec .maltsterRestart s = .next t ∧ t.dev.lastRestart = some (ftcOf d) ∧ Report.restart ∈ t.dev.reports ∧
        getF t.dev F.telAlert_mrestart = 1 ∧ t.sec.install = none ∧ (soon → t.dev.malt = 2) ∧
        (¬soon → imageGood s.sec = true → t.dev.malt = 1 ∧ t.dev.version = (s.sec.image.major, s.sec.image.minor, s.sec.image.patch)) ∧
        (¬soon → imageGood s.sec = false → t.dev.malt = 3 ∧ getF t.dev F.secStatus_recovery = 1)) ∧
    (d.malt = 0 → d.standby = true → d.inReset = false →
      (imageGood s.sec = true → ∃ t, exec .boot s = .next t ∧ t.dev.malt = 1 ∧ getF t.dev F.secStatus_recovery = 0 ∧
        t.dev.version = (s.sec.image.major, s.sec.image.minor, s.sec.image.patch) ∧
        measBytes t.dev 1 = beBytes 32 s.sec.image.digest.toNat ∧
        ((∀ p < 4, flag d (F.hostPcfg_en p) = false) → t.dev.mem = d.mem)) ∧
      (imageGood s.sec = false → ∃ t, exec .boot s = .next t ∧ t.dev.malt = 3 ∧ getF t.dev F.secStatus_recovery = 1 ∧
        getF t.dev F.telAlert_recovery = 1 ∧ t.sec.image = s.sec.image ∧ t.dev.mem = d.mem)) ∧
    (∀ (data : List Byte) (src : BitVec 128) (port : BitVec 16) (dst : BitVec 128),
      let pieces := s.sec.recovery ++ [(leNat (data.take 8), data.drop 8)]
      let holds : Prop := d.malt = 3 ∧ dst = linkLocal ∧ 8 ≤ data.length ∧ data.length ≤ 1032
      (¬holds → exec (.recoveryDatagram data src port dst) s = .next { s with dev := satF d F.mgtStatus_dropped 1 }) ∧
      (holds → ∃ t l, exec (.recoveryDatagram data src port dst) s = .next t ∧
        t.dev.datagrams = ⟨src.toNat, port.toNat, l⟩ :: d.datagrams ∧ t.dev.mem = d.mem ∧ t.sec.fuses = s.sec.fuses ∧
        (recovered pieces = none → t.sec.recovery = pieces ∧ t.sec.image = s.sec.image ∧ t.dev.malt = 3) ∧
        (∀ y x, recovered pieces = some y → imageOf y = some x → imageSigned s.sec.fuses x = true → rollbackValue s.sec.fuses ≤ x.rb →
          t.sec.image = x ∧ t.sec.torn = false ∧ t.dev.malt = 0 ∧ getF t.dev F.secStatus_recovery = 0)))

/-! ## Rails, clocks and sensors -/

/-- Rails and resets (R11, R247, R362, R364, R373, R376, R377, R386): MOD_RESET_N, a loss of input and a trip put everything in the core domain
at its reset value and clear memory, the security store's fuses and log staying; the core rails come up with the last of their conditions,
whatever the order, unless a trip stays latched; the loss of standby leaves only the repair record, and its return restores the wear
counters from flash; the test port's instruction drives the pins while MOD_RESET_N is asserted. -/
def Obligations.RailsAndResets : Prop :=
  ∀ s : State, s.sec.diag = none →
    let d := s.dev
    let off (t : State) : Prop := t.dev.powerGood = false ∧ t.dev.mem = [] ∧ t.dev.pages = [] ∧ t.dev.acc = [] ∧
      (∀ k : FKey, k.dom = .core → getF t.dev k = k.reset) ∧ t.sec.fuses = s.sec.fuses ∧ t.sec.log = s.sec.log ∧ t.pending = s.pending
    let trip := flag d F.telAlert_trip
    let pins (t : State) (under : Bool) : Prop := t.dev.jtag.pins =
      if d.standby && under then (match d.jtag.ir with | .extest | .clamp => 1 | .highz => 2 | _ => 0) else 0
    (∃ t, exec .modResetAssert s = .next t ∧ off t ∧ t.dev.inReset = true ∧ pins t true ∧ ∀ k : FKey, k.dom ≠ .core → getF t.dev k = getF d k) ∧
    (d.inReset = true → d.standby = true → trip = false ∨ tripCleared d = true →
      ∃ t, exec .modResetRelease s = .next t ∧ t.dev.powerGood = (d.powerGood || d.inputOk) ∧ t.dev.inReset = false ∧
        getF t.dev F.telAlert_trip = 0 ∧ pins t false ∧ t.dev.mem = d.mem ∧ t.sec = s.sec ∧
        (d.powerGood = false → d.inputOk = true → t.dev.hardRows = [])) ∧
    (d.inReset = true → d.standby = true → trip = true → tripCleared d = false →
      ∃ t, exec .modResetRelease s = .next t ∧ t.dev.powerGood = d.powerGood ∧ t.dev.inReset = false ∧ t.dev.f = d.f) ∧
    (d.standby = true → ∃ t, exec .standbyLoss s = .next t ∧ off t ∧ t.dev.standby = false ∧ t.dev.inReset = d.inReset ∧
      (∀ k : FKey, k.dom ≠ .repair → getF t.dev k = k.reset) ∧ ∀ k : FKey, k.dom = .repair → getF t.dev k = getF d k) ∧
    (d.standby = false → ∃ t, exec .standbyRestore s = .next t ∧ t.dev.standby = true ∧
      t.dev.powerGood = (d.powerGood || (d.inputOk && !d.inputTrip && !d.inReset && !trip)) ∧
      (∀ k ∈ wearFields, k ≠ F.telWear1_restores → getF t.dev k = (Tab.get? d.wearSaved k).getD 0 % 2 ^ k.width) ∧
      ∀ k, k ∉ wearFields → getF t.dev k = getF d k) ∧
    (∀ (x : InputLevel) (k : FKey), d.standby = true → (x = .under ∧ k = F.pwrFault_under) ∨ (x = .over ∧ k = F.pwrFault_over) →
      ∃ t, exec (.inputFault x) s = .next t ∧ off t ∧ t.dev.inputOk = false ∧ t.dev.inputTrip = true ∧ getF t.dev k = 1 ∧
        getF t.dev F.pwrFault_count = min (getF d F.pwrFault_count + 1) 255) ∧
    (∃ t, exec (.inputFault .inRange) s = .next t ∧ t.dev.inputOk = true ∧ t.dev.f = d.f ∧ t.dev.mem = d.mem ∧ t.sec = s.sec ∧
      t.dev.powerGood = (d.powerGood || (d.standby && !d.inputTrip && !d.inReset && !trip))) ∧
    (∀ n temp, d.standby = true → 16 * ((sensorLimits n.val).2.2 : Int) < temp.toInt →
      ∃ t, exec (.thermalTrip n temp) s = .next t ∧ off t ∧ getF t.dev F.telAlert_trip = 1 ∧ getF t.dev F.telAlert_trip_sensor = n ∧
        getF t.dev F.pwrStatus_hist = 0)

/-- Clocks and loops (R348 to R354, R361): ACLK moves 25 MHz toward its ceiling, the lower
of two modes' points while a commit of the mode is under way (R18); the cap loop lowers its limit above the cap and raises it 50 W
below, and counts in CAPPED mode only, whose end releases it and the admission; rows are admitted less with both clocks at their minima;
above 80 A the limit is 1.20 GHz at once; a sensor above its throttle limit lowers the thermal limit. -/
def Obligations.ClocksAndLoops : Prop :=
  ∀ (s : State) (watts cv ca : Nat), s.dev.powerGood = true →
    let d := s.dev
    let f := getF d F.pwrStatus_aclk
    let h := getF d F.pwrStatus_hclk
    let cap := 25 * getF d F.pwrMode_cap
    let point (m : Nat) : Nat := if m = 1 then 1700 else if m = 3 then 1200 else 1800
    let committed := getF d F.pwrMode_mode
    let someSwitched := (List.range 4).any (fun p => flag d (F.hostPcfg_en p) && modeOf d p == committed)
    let top := if someSwitched then min (point (moduleMode d)) (point committed) else point (moduleMode d)
    let lowest := min top (min (if flag d F.pwrStatus_hist then 1800 else 1500) (min d.thermLimit
      (min (if moduleMode d = 2 then d.capLimit else 1800) d.ilimLimit)))
    let measured (t : State) : Prop := getF t.dev F.pwrMeter_power = watts ∧ getF t.dev F.pwrMeter_volts = cv ∧
      getF t.dev F.pwrMeter_amps = ca ∧ t.dev.mem = d.mem ∧ t.sec = s.sec
    (∃ t, exec .clockStep s = .next t ∧ t.dev.mem = d.mem ∧ (lowest < f → getF t.dev F.pwrStatus_aclk = (f - 25) % 2 ^ 16) ∧
      (f < lowest → getF t.dev F.pwrStatus_aclk = (f + 25) % 2 ^ 16) ∧ (f = lowest → t = s)) ∧
    (watts < 2 ^ 16 → cv < 2 ^ 16 → ca < 2 ^ 16 →
      (moduleMode d = 2 → cap < watts → 900 < min d.capLimit f → ∃ t, exec (.capLoopStep watts cv ca) s = .next t ∧ measured t ∧
        t.dev.capLimit = min d.capLimit f - 25) ∧
      (moduleMode d = 2 → watts + 50 ≤ cap → 8 ≤ getF d F.pwrStatus_admit → 2600 ≤ h →
        ∃ t, exec (.capLoopStep watts cv ca) s = .next t ∧ measured t ∧ t.dev.capLimit = min 1800 (d.capLimit + 25)) ∧
      (moduleMode d ≠ 2 → ∃ t, exec (.capLoopStep watts cv ca) s = .next t ∧ measured t ∧ t.dev.capLimit = d.capLimit) ∧
      (moduleMode d = 2 → cap < watts → f ≤ 900 → h ≤ 1300 → 2 < getF d F.pwrStatus_admit → getF d F.pwrStatus_admit ≤ 8 →
        ∃ t, exec (.rowAdmissionStep watts cv ca) s = .next t ∧ measured t ∧
          getF t.dev F.pwrStatus_admit = getF d F.pwrStatus_admit - 1) ∧
      (8000 < ca → ∃ t, exec (.currentLimit watts cv ca) s = .next t ∧ measured t ∧ t.dev.ilimLimit = 1200 ∧
        getF t.dev F.pwrStatus_ilim = 1 ∧ getF t.dev F.telAlert_ilim = 1 ∧ getF t.dev F.pwrStatus_aclk = min f 1200)) ∧
    (∀ n x, n < 78 → n < 40 ∨ 72 ≤ n → reading d n = some x → 16 * ((sensorLimits n).2.1 : Int) < x → 900 < min d.thermLimit f →
      ∃ t, exec .thermalLoopStep s = .next t ∧ t.dev.thermLimit = min d.thermLimit f - 25 ∧ getF t.dev F.telAlert_throttle = 1 ∧
        t.dev.mem = d.mem) ∧
    (∀ p m, moduleMode (enterMode d p m) ≠ 2 → (enterMode d p m).capLimit = 1800 ∧ getF (enterMode d p m) F.pwrStatus_admit = 8)

/-- Sensors, gated units, background work and wear (R355 to R357, R360, R363, R365): a sample shows each reading and whether it is above the
throttle limit; a unit that may enter its gated state does, one that is reached leaves it, at most four waking at once, and one that has
woken makes room for the next in the queue; a forced background kind is noted until its work is done; a save puts the wear counters in
flash. -/
def Obligations.SensorsAndUnits : Prop :=
  ∀ s : State,
    let d := s.dev
    (∀ temps, d.standby = true → ∃ t, exec (.sensorSample temps) s = .next t ∧ t.dev.mem = d.mem ∧ ∀ n < 78,
      (∀ v : BitVec 16, temps[n]? = some (some v) → getF t.dev (F.telTemp_temp n) = v.toNat ∧ getF t.dev (F.telTemp_valid n) = 1 ∧
        getF t.dev (F.telTemp_over n) = b2n (16 * ((sensorLimits n).2.1 : Int) < v.toInt)) ∧
      (temps[n]?.getD none = none → getF t.dev (F.telTemp_valid n) = 0)) ∧
    (∀ x, d.powerGood = true → gateable d x = true → x ∉ d.gated → x ∉ d.waking → x ∉ d.wakeQueue →
      ∃ t, exec (.powerGateEntry x) s = .next t ∧ t.dev.gated = d.gated ++ [x] ∧ t.dev.mem = d.mem ∧ t.sec = s.sec) ∧
    (∀ x, d.powerGood = true →
      (powerGated x = true → x ∉ d.waking → exec (.unitWake x) s = .next s) ∧
      (x ∈ d.waking → x ∉ d.wakeQueue → ∃ t, exec (.unitWake x) s = .next t ∧ x ∉ t.dev.waking ∧ t.dev.mem = d.mem ∧ t.sec = s.sec ∧
        (∀ y r, d.wakeQueue = y :: r → (d.waking.filter (fun z => z != x)).length < 4 → y ∈ t.dev.waking ∧ t.dev.wakeQueue = r) ∧
        (∀ k, x = .kilnCore k → getF d (F.klnCore_state k) = 3 → getF t.dev (F.klnCore_state k) = 2)) ∧
      (∀ c u, x = .vector c u → x ∉ d.waking → getF d (F.vecUnit_state c u) = 3 → ∃ t, exec (.unitWake x) s = .next t ∧
        getF t.dev (F.vecUnit_state c u) = 2 ∧ x ∉ t.dev.gated ∧ t.dev.mem = d.mem)) ∧
    (∀ x, d.waking.length ≤ 4 → (reachUnit d x).waking.length ≤ 4 ∧ (x ∉ d.waking → x ∉ d.wakeQueue → x ∉ (reachUnit d x).gated)) ∧
    (∀ b, d.powerGood = true →
      (b ≠ .linkAdaptation → b ≠ .wearSave → b ∉ d.forced →
        exec (.backgroundForced b true) s = .next { s with dev := steadyBroken { d with forced := d.forced ++ [b] } }) ∧
      exec (.backgroundForced b false) s = .next { s with dev := { d with forced := d.forced.filter (fun x => x != b) } }) ∧
    (d.standby = true → ∃ t, exec .wearSave s = .next t ∧ (∀ k ∈ wearFields, Tab.get? t.dev.wearSaved k = some (getF t.dev k)) ∧
      getF t.dev F.telWear0_powered_h = (if d.powerGood then min (getF d F.telWear0_powered_h + 1) (2 ^ F.telWear0_powered_h.width - 1)
        else getF d F.telWear0_powered_h) ∧ t.dev.mem = d.mem)

/-! ## Telemetry, the sideband bus, the test port and the management link -/

/-- Trace, FRU data, test port and link (R368, R369, R384 to R386, Tables 15.8, 16.10, 16.11): an entry goes to the ring of the partition it
concerns; a read of the FRU data gives its bytes; the test instructions select their register, and those that drive pins act only
under reset, else the bypass register stands (what EXTEST captures is a free value, log entry 1). SAMPLE/PRELOAD shows the module's own outputs
(R375; the order of the chain is log entry 53's). A ring in a closed bank takes no entry (R217), and the global address of the management
port goes with its link and prefix (log entry 88). -/
def Obligations.TraceAndPins : Prop :=
  ∀ s : State,
    let d := s.dev
    let pins (g : Jtag) : Host.Outcome State Fault Refusal := .next { s with dev := { d with jtag := g } }
    (∀ (e : TraceEvent) (p : PartId), d.powerGood = true → e.cls.val < 6 → e.part = some p → flag d (F.telTrace_en p) = true →
      bitOf (getF d (F.telTrace_mask p)) e.cls.val = true → Tab.get? d.traced p.val = none →
      let head := getF d (F.telThead_head p)
      let size := 2 ^ (getF d (F.telTrace_size_log2 p) + 8)
      let a := 32 * getF d (F.telTrace_base p) + 32 * (head % size)
      let noted : Dev := { d with traced := Tab.put d.traced p.val (ftcOf d) }
      (head + 2 ^ 32 - getF d (F.telThead_tail p)) % 2 ^ 32 < size → rangeMapped d p a 32 = true →
      (shutBanks d a 32 = [] → heldWrite d p a 32 = false →
        exec (.traceEntry e) s = .next { s with dev := addF (guardedPut noted p a (traceBytes d e)) (F.telThead_head p) 1 }) ∧
      (shutBanks d a 32 ≠ [] → ∃ t, exec (.traceEntry e) s = .next t ∧ t.dev.mem = d.mem ∧
        getF t.dev (F.telTstat_lost p) = min (getF d (F.telTstat_lost p) + 1) (2 ^ (F.telTstat_lost p).width - 1))) ∧
    (∀ (p : PartId) (v : Word), d.powerGood = true → flag d (F.telTrace_en p) = false → bits v.toNat 59 56 ≤ 12 →
      ∃ t, exec (.traceEnable p v) s = .next t ∧ getF t.dev (F.telTrace_en p) = bits v.toNat 63 63 ∧
        getF t.dev (F.telTrace_base p) = bits v.toNat 47 5 ∧ getF t.dev (F.telTrace_mask p) = bits v.toNat 55 48 ∧
        getF t.dev (F.telTrace_size_log2 p) = bits v.toNat 59 56 ∧ getF t.dev (F.telTrace_wrap p) = bits v.toNat 62 62 ∧
        (∀ k : FKey, k.reg ≠ .telTrace p → getF t.dev k = getF d k) ∧ t.dev.mem = d.mem) ∧
    (∀ (off : BitVec 16) n, d.standby = true → exec (.fruRead off n) s =
      .next { s with dev := { d with i2c := (List.range n).map (fun i => fruByte s.sec ((off.toNat + i) % 65536)) } }) ∧
    (d.standby = true → exec .bypass s = pins { d.jtag with ir := .bypass, tdo := [false], pins := 0 } ∧
      exec .idcode s = pins { d.jtag with ir := .idcode, tdo := (List.range 32).map (bitOf 0x1A41C0B5), pins := 0 } ∧
      ∀ seen load, exec (.samplePreload seen load) s = pins ⟨.sample, load, seen.take 9 ++ [false, !d.inReset, d.powerGood,
        decide (∀ x ∈ Reg.telAlert.fields, getF d ⟨.telAlert, x.lo⟩ = 0), !flag d F.telAlert_trip], 0⟩) ∧
    (d.standby = true → d.inReset = true → exec .clamp s = pins { d.jtag with ir := .clamp, tdo := [false], pins := 1 } ∧
      exec .highz s = pins { d.jtag with ir := .highz, tdo := [false], pins := 2 } ∧
      ∀ drive, ∃ t, exec (.extest drive) s = .next t ∧ t.dev.jtag.ir = .extest ∧ t.dev.jtag.cells = drive ∧ t.dev.jtag.pins = 1 ∧
        t.dev.jtag.tdo.length = 14 ∧ t.dev.f = d.f ∧ t.dev.mem = d.mem ∧ t.sec = s.sec) ∧
    (d.standby = true → d.inReset = false → exec .clamp s = pins { d.jtag with ir := .clamp, tdo := [false], pins := 0 } ∧
      exec .highz s = pins { d.jtag with ir := .highz, tdo := [false], pins := 0 } ∧
      ∀ drive, exec (.extest drive) s = pins { d.jtag with ir := .extest, tdo := [false], pins := 0 }) ∧
    (∀ link fec addr, d.powerGood = true → ∃ t, exec (.mgtLinkChange link fec addr) s = .next t ∧ getF t.dev F.mgtStatus_link = b2n link ∧
      getF t.dev F.mgtStatus_fec_lock = b2n fec ∧ getF t.dev F.mgtStatus_global = b2n (link && addr.isSome) ∧ (∀ k : FKey, k.reg ≠ .mgtStatus → getF t.dev k = getF d k) ∧ t.dev.mem = d.mem)

/-! ## The service ports -/

/-- Work rings and entries (R217, R387, R388, Tables 16.12, 16.13): an enable that passes its checks; a disable resolves what was picked up;
the owned entry at head is taken, and sends its packets, of the path MTU, when its checks pass and its QP is ready; an entry completes
with its status, and a key error stops its QP. -/
def Obligations.ServiceRings : Prop :=
  ∀ (s : State) (p : PartId) (q : SvcId) (v : Word), s.dev.powerGood = true →
    let d := s.dev
    let n := bits v.toNat 51 48
    let based (recv : Bool) : Dev := setF (setF d (svcBase recv p q) (bits v.toNat 47 5)) (svcSize recv p q) n
    let a := 32 * getF d (F.svcWring_base p q) + 64 * getF d (F.svcWhead_head p q)
    let e : SvcEntry := ⟨a, (List.range 8).map (fun i => viewNat d p (a + 8 * i) 8), none⟩
    let next := setF (noteRead d p a 64) (F.svcWhead_head p q) ((getF d (F.svcWhead_head p q) + 1) % 2 ^ getF d (F.svcWring_size_log2 p q))
    let taken : Dev := { next with svc := Tab.put next.svc (p.val, q.val) (svcOf next p q ++ [e]) }
    let packets : Dev := { taken with svcOut := (svcPackets taken p q e).reverse ++ taken.svcOut }
    let sent : Dev := qpAdvance packets p q e.qp (packetCount taken p q e.qp e.bytes) 0
    let offered (op : Nat) : Prop := flag d (F.svcWring_en p q) = true ∧ bitOf (nth e.words 0) 0 = true ∧ e.op = op ∧
      heldRange d p a 64 = false ∧ heldRange d p e.laddr e.bytes = false ∧ (∀ x ∈ svcOf d p q, x.slot ≠ a) ∧ shutBanks d a 64 = []
    let ready (op : Nat) : Prop := offered op ∧ svcCheck d p q e = none
    let live : Prop := qpReady taken p q e.qp = true
    let out (x : Dev) : Host.Outcome State Fault Refusal := .next { s with dev := x }
    let rows : List Instr := [.send p q, .sendWithImmediate p q, .rdmaWrite p q, .rdmaWriteWithImmediate p q, .rdmaRead p q, .udp p q]
    (∀ recv, flag d (svcEn recv p q) = false → bitOf v.toNat 63 = true → 2 ≤ n → n ≤ 12 → svcRingOk (based recv) p q recv = true →
      exec (.svcRingEnable p q recv v) s = out (setF (based recv) (svcEn recv p q) 1)) ∧
    (∀ recv, flag d (svcEn recv p q) = true → bitOf v.toNat 63 = true →
      exec (.svcRingEnable p q recv v) s = out (setF d (F.svcStat_wr_err p q) 1)) ∧
    (∀ recv, flag d (svcEn recv p q) = true → bitOf v.toNat 63 = false → ∃ t, exec (.svcRingDisable p q recv v) s = .next t ∧
      getF t.dev (svcEn recv p q) = 0 ∧ getF t.dev (svcHead recv p q) = 0 ∧ (recv = false → svcOf t.dev p q = []) ∧ t.sec = s.sec) ∧
    (ready 0 → live → exec (.send p q) s = out (noteRead sent p e.laddr e.bytes)) ∧
    (ready 1 → live → exec (.sendWithImmediate p q) s = out (noteRead sent p e.laddr e.bytes)) ∧
    (ready 2 → live → exec (.rdmaWrite p q) s = out (noteRead sent p e.laddr e.bytes)) ∧
    (ready 3 → live → exec (.rdmaWriteWithImmediate p q) s = out (noteRead sent p e.laddr e.bytes)) ∧
    (ready 4 → live → exec (.rdmaRead p q) s = out sent) ∧
    (ready 5 → exec (.udp p q) s = out (noteRead packets p e.laddr e.bytes)) ∧
    (∀ op i, rows[op]? = some i →
      (ready op → op ≠ 5 → ¬live → exec i s = out (denyFirst taken p [(qpAddr taken p q e.qp, 64)])) ∧
      (∀ st, offered op → svcCheck d p q e = some st →
        let failed : Dev := { next with svc := Tab.put next.svc (p.val, q.val) (svcOf next p q ++ [{ e with status := some st }]) }
        exec i s = out (if st = 0x12 then denyFirst failed p [(e.laddr, e.bytes)] else failed))) ∧
    (∀ i x res, (svcOf d p q)[i]? = some x → heldWrite d p x.slot 64 = false → ((svcOf d p q).take i).any (fun y => y.op != 5 && y.qp == x.qp) = false →
      let rest : Dev := { d with svc := Tab.put d.svc (p.val, q.val) ((svcOf d p q).eraseIdx i) }
      (∀ st, x.status = some st → (x.op ≠ 4 ∨ heldWrite d p x.laddr x.bytes = false) →
        exec (.workEntryComplete p q i res) s = out (svcFinish rest p q x st)) ∧
      (∀ data, x.status = none → res = .ok data → x.op ≠ 4 → exec (.workEntryComplete p q i res) s = out (svcFinish rest p q x 1)) ∧
      (∀ data, x.status = none → res = .ok data → x.op = 4 → heldWrite d p x.laddr x.bytes = false →
        exec (.workEntryComplete p q i res) s = out (svcFinish (engineWrite rest p x.laddr (padTo x.bytes data)) p q x 1)) ∧
      (x.status = none → x.op ≠ 5 → x.op ≠ 4 ∨ heldWrite d p x.laddr x.bytes = false →
        let refused (e : Dev) (st : Nat) : Prop := exec (.workEntryComplete p q i res) s = out (svcFinish (qpError e p q x.qp) p q x st)
        (res = .key → refused (addF rest (F.svcStat_naks p q) 1) 3) ∧ (res = .remote true → refused (addF rest (F.svcStat_naks p q) 1) 2) ∧
        (res = .remote false → refused rest 2)))

/-- Packets that come in at a service port (R217, R387, R388): a SEND fills the receive entry at head and is acknowledged with the sequence
number of its last packet, or the sender hears that there is none; an RDMA WRITE and READ act only where the key admits them; anything
unsupported, or for a QP that is not ready, is an invalid request, refused with the sequence number expected; a marked packet is answered
with a congestion notification, and one received changes timing only (log entries 3 and 22). -/
def Obligations.ServicePackets : Prop :=
  ∀ (s : State) (p : PartId) (q : SvcId) (qp : Nat) (key : BitVec 32) (a : Word) (data : List Byte), s.dev.powerGood = true →
    let d := s.dev
    let out (e : Dev) : Host.Outcome State Fault Refusal := .next { s with dev := e }
    let nak (kind : Nat) (e : Dev) : Host.Outcome State Fault Refusal := out (svcReply e p q kind qp (qpSeqs e p q qp).2 [])
    let ack (n : Nat) (e : Dev) : Host.Outcome State Fault Refusal :=
      let k := packetCount e p q qp n
      out (svcReply (qpAdvance e p q qp 0 k) p q 6 qp (((qpSeqs e p q qp).2 + k + 2 ^ 24 - 1) % 2 ^ 24) [])
    let up := qpReady d p q qp = true
    let noEntry : Dev := denyFirst d p (if flag d (F.svcRring_en p q) then [(svcSlot d true p q, 32)] else [])
    let noQp : Dev := denyFirst d p [(qpAddr d p q qp, 64)]
    let free (x n : Nat) : Prop := rangeMapped d p x n = true ∧ shutBanks d x n = [] ∧ heldWrite d p x n = false
    let recv (m : ServicePacket) : Host.Outcome State Fault Refusal := exec (.servicePacketReceive q m) s
    let slotFree : Prop := heldWrite d p (svcSlot d true p q) 32 = false
    (recv (.unsupported p qp) = nak 7 d ∧ recv (.marked p qp) = nak 10 d ∧ recv (.notified p qp) = .next s) ∧
    (∀ imm, qpReady d p q qp = false → recv (.send p qp imm data) = nak 7 noQp) ∧
    (∀ imm, up → recvEntry d p q = none → recv (.send p qp imm data) = nak 9 noEntry) ∧
    (∀ b size (imm : Option (BitVec 32)), up → recvEntry d p q = some (b, size) → data.length ≤ size → free b data.length → slotFree →
      let n := match imm with | some x => x.toNat | none => 0
      recv (.send p qp imm data) = ack data.length (fillRecv (engineWrite d p b data) p q data.length n)) ∧
    (qpReady d p q qp = false → ∀ imm, recv (.rdmaWrite p qp key a imm data) = nak 7 noQp) ∧
    (up → keyAdmits d p q key.toNat a.toNat data.length 1 = false → ∀ imm, recv (.rdmaWrite p qp key a imm data) =
      nak 8 (denyFirst d p [(keyAddr d p q key.toNat, 32), (a.toNat, data.length)])) ∧
    (up → keyAdmits d p q key.toNat a.toNat data.length 1 = true → heldWrite d p a.toNat data.length = false →
      recv (.rdmaWrite p qp key a none data) = ack data.length (engineWrite d p a.toNat data) ∧
      ∀ imm : BitVec 32, (recvEntry d p q).isSome = true → slotFree → recv (.rdmaWrite p qp key a (some imm) data) =
        ack data.length (fillRecv (engineWrite d p a.toNat data) p q data.length imm.toNat)) ∧
    (∀ n, up → keyAdmits d p q key.toNat a.toNat n 0 = true → heldRange d p a.toNat n = false →
      let e := noteRead d p a.toNat n
      recv (.rdmaRead p qp key a n) =
        out (qpAdvance (svcReply e p q 6 qp (qpSeqs d p q qp).2 (viewRead d p a.toNat n)) p q qp 0 (packetCount d p q qp n))) ∧
    (∀ port, 8952 < data.length → recv (.udp p port data) = .next s) ∧
    (∀ port b size, data.length ≤ 8952 → recvEntry d p q = some (b, size) → data.length ≤ size → free b data.length → slotFree →
      recv (.udp p port data) = out (fillRecv (engineWrite d p b data) p q data.length 0))

/-! ## The whole module -/

/-- R333: a fuse once blown stays blown, whatever command runs: no step loses a bit of the fuse array. -/
def Obligations.FusesOnlyBlow : Prop :=
  ∀ s t : State, step s = .next t → s.sec.fuses.instHash.length = 4 → Fuses.le s.sec.fuses t.sec.fuses = true

/-- R344 to R346: the audit log stays a chain: every step keeps the retained entries in sequence, each carrying the hash of the one before. -/
def Obligations.AuditChainKept : Prop :=
  ∀ s t : State, auditSound s.sec → step s = .next t → auditSound t.sec

/-- Memory keeps its canonical form, addresses strictly rising and no byte listed that reads as an unlisted one does, whatever command
runs (log entry 4). -/
def Obligations.MemoryStaysCanonical : Prop :=
  ∀ s t : State, step s = .next t → Memory.wf s.dev.mem = true → Memory.wf t.dev.mem = true

/-- R333, R335, R338, R339, R337: only a key rotation, a fuse program, a boot and a restart of the maltster write fuses, and only an image
install and a recovery datagram write the image in flash. -/
def Obligations.SecurityStoreWriters : Prop :=
  ∀ (s t : State) (c : Instr), exec c s = .next t →
    (t.sec.fuses ≠ s.sec.fuses → (∃ k, c = .keyRotation k ∨ c = .fuseProgram k) ∨ c = .boot ∨ c = .maltsterRestart) ∧
    (t.sec.image ≠ s.sec.image → (∃ k, c = .fwInstall k) ∨ ∃ data src port dst, c = .recoveryDatagram data src port dst) ∧
    t.pending = s.pending
end

