-- ==== Sys2Proof/Laws/Memory.lean ====
section
/-! SUPPORT. The byte memory: reading after writing, and that every operation keeps the canonical form. -/

namespace Sys2Proof.Machine

/-- Every listed address of m is above a. -/
def listedAbove (a : Nat) (m : List Host.Cell) : Bool := m.all (fun e => decide (a < e.1))

theorem Memory.wf_cons {x : Nat} {b : Byte} {r : List Host.Cell} :
    Memory.wf ((x, b) :: r) = true ↔ b ≠ 0 ∧ listedAbove x r = true ∧ Memory.wf r = true := by
  simp [Memory.wf, listedAbove, and_assoc]

theorem listedAbove_cons {a x : Nat} {b : Byte} {r : List Host.Cell} :
    listedAbove a ((x, b) :: r) = true ↔ a < x ∧ listedAbove a r = true := by simp [listedAbove]

theorem listedAbove_mono {a b : Nat} {m : List Host.Cell} (h : a ≤ b) (hb : listedAbove b m = true) : listedAbove a m = true := by
  simp only [listedAbove, List.all_eq_true, decide_eq_true_eq] at *
  exact fun e he => Nat.lt_of_le_of_lt h (hb e he)

theorem memGet_of_listedAbove {a x : Nat} {m : List Host.Cell} (h : listedAbove a m = true) (hx : x ≤ a) : memGet m x = 0 := by
  induction m with
  | nil => rfl
  | cons e r ih =>
    obtain ⟨y, b⟩ := e
    rw [listedAbove_cons] at h
    have : y ≠ x := by omega
    simp [memGet, this, ih h.2]

theorem listedAbove_memPut {a k : Nat} {b : Byte} {m : List Host.Cell} (h : listedAbove a m = true) (hk : a < k) :
    listedAbove a (memPut m k b) = true := by
  induction m with
  | nil => rw [memPut]; split <;> simp [listedAbove, hk]
  | cons e r ih =>
    obtain ⟨x, y⟩ := e
    rw [listedAbove_cons] at h
    simp only [memPut]
    split
    · split
      · exact listedAbove_cons.2 h
      · exact listedAbove_cons.2 ⟨hk, listedAbove_cons.2 h⟩
    · split
      · split
        · exact h.2
        · exact listedAbove_cons.2 ⟨hk, h.2⟩
      · exact listedAbove_cons.2 ⟨h.1, ih h.2⟩

/-- A byte write keeps the canonical form. -/
theorem Memory.wf_memPut {m : List Host.Cell} (k : Nat) (b : Byte) (h : Memory.wf m = true) :
    Memory.wf (memPut m k b) = true := by
  induction m with
  | nil =>
    rw [memPut]
    split
    · rfl
    · next hb => exact Memory.wf_cons.2 ⟨hb, rfl, rfl⟩
  | cons e r ih =>
    obtain ⟨x, y⟩ := e
    have hc := Memory.wf_cons.1 h
    simp only [memPut]
    split
    · split
      · exact h
      · next hx hb => exact Memory.wf_cons.2 ⟨hb, listedAbove_cons.2 ⟨hx, listedAbove_mono (Nat.le_of_lt hx) hc.2.1⟩, h⟩
    · split
      · split
        · exact hc.2.2
        · next hx hk hb => subst hk; exact Memory.wf_cons.2 ⟨hb, hc.2.1, hc.2.2⟩
      · next hx hk => exact Memory.wf_cons.2 ⟨hc.1, listedAbove_memPut hc.2.1 (by omega), ih hc.2.2⟩

/-- A byte reads as last written; the others as before. -/
theorem memGet_memPut {m : List Host.Cell} (k j : Nat) (b : Byte) (h : Memory.wf m = true) :
    memGet (memPut m k b) j = if j = k then b else memGet m j := by
  induction m with
  | nil =>
    rw [memPut]
    split
    · next hb => subst hb; simp [memGet]
    · by_cases hj : j = k
      · subst hj; simp [memGet]
      · simp [memGet, hj, Ne.symm hj]
  | cons e r ih =>
    obtain ⟨x, y⟩ := e
    have hc := Memory.wf_cons.1 h
    simp only [memPut]
    split
    · next hx =>
      have hx0 : x ≠ k := by omega
      have h0 : memGet r k = 0 := memGet_of_listedAbove (listedAbove_mono (Nat.le_of_lt hx) hc.2.1) (Nat.le_refl k)
      split
      · next hb =>
        by_cases hj : j = k
        · subst hj; simp [memGet, hx0, h0, hb]
        · simp [hj]
      · by_cases hj : j = k
        · subst hj; simp [memGet]
        · simp [memGet, hj, Ne.symm hj]
    · split
      · next hx hk =>
        subst hk
        have h0 : memGet r k = 0 := memGet_of_listedAbove hc.2.1 (Nat.le_refl k)
        split
        · next hb =>
          by_cases hj : j = k
          · subst hj; simp [h0, hb]
          · simp [memGet, hj, Ne.symm hj]
        · by_cases hj : j = k
          · subst hj; simp [memGet]
          · simp [memGet, hj, Ne.symm hj]
      · next hx hk =>
        by_cases hj : x = j
        · subst hj; simp [memGet, Ne.symm hk]
        · simp [memGet, hj, ih hc.2.2]

theorem memGet_memPut_same {m : List Host.Cell} (k : Nat) (b : Byte) (h : Memory.wf m = true) :
    memGet (memPut m k b) k = b := by simp [memGet_memPut k k b h]

theorem memGet_memPut_of_ne {m : List Host.Cell} {k j : Nat} (b : Byte) (h : Memory.wf m = true) (hj : j ≠ k) :
    memGet (memPut m k b) j = memGet m j := by simp [memGet_memPut k j b h, hj]

/-- A write of several bytes keeps the canonical form. -/
theorem Memory.wf_memPutList {m : List Host.Cell} (a : Nat) (l : List Byte) (h : Memory.wf m = true) :
    Memory.wf (memPutList m a l) = true := by
  induction l generalizing m a with
  | nil => exact h
  | cons b r ih => exact ih (a + 1) (Memory.wf_memPut a b h)

/-- Bytes outside a write of several read as before. -/
theorem memGet_memPutList_of_outside {m : List Host.Cell} (a j : Nat) (l : List Byte) (h : Memory.wf m = true)
    (hj : j < a ∨ a + l.length ≤ j) : memGet (memPutList m a l) j = memGet m j := by
  induction l generalizing m a with
  | nil => rfl
  | cons b r ih =>
    simp only [List.length_cons] at hj
    rw [memPutList, ih (a + 1) (Memory.wf_memPut a b h) (by omega), memGet_memPut_of_ne b h (by omega)]

theorem listedAbove_filter {a : Nat} {m : List Host.Cell} (q : Host.Cell → Bool) (h : listedAbove a m = true) :
    listedAbove a (m.filter q) = true := by
  simp only [listedAbove, List.all_eq_true, List.mem_filter] at *
  exact fun e he => h e he.1

/-- Leaving listed bytes out keeps the canonical form. -/
theorem Memory.wf_filter {m : List Host.Cell} (q : Host.Cell → Bool) (h : Memory.wf m = true) : Memory.wf (m.filter q) = true := by
  induction m with
  | nil => rfl
  | cons e r ih =>
    obtain ⟨x, b⟩ := e
    have hc := Memory.wf_cons.1 h
    simp only [List.filter]
    split
    · exact Memory.wf_cons.2 ⟨hc.1, listedAbove_filter q hc.2.1, ih hc.2.2⟩
    · exact ih hc.2.2

/-- Zeroing a range keeps the canonical form. -/
theorem Memory.wf_memZero {m : List Host.Cell} (a n : Nat) (h : Memory.wf m = true) : Memory.wf (memZero m a n) = true :=
  Memory.wf_filter _ h

/-- A zeroed range reads zero and the rest as before. -/
theorem memGet_memZero (m : List Host.Cell) (a n j : Nat) :
    memGet (memZero m a n) j = if a ≤ j ∧ j < a + n then 0 else memGet m j := by
  induction m with
  | nil => simp [memZero, memGet]
  | cons e r ih =>
    obtain ⟨x, b⟩ := e
    simp only [memZero, List.filter] at ih ⊢
    by_cases hx : x < a ∨ a + n ≤ x
    · simp only [hx, decide_true, memGet]
      by_cases hj : x = j
      · subst hj
        have : ¬(a ≤ x ∧ x < a + n) := by omega
        simp [this]
      · rw [if_neg hj, if_neg hj, ih]
    · simp only [hx, decide_false, memGet]
      rw [ih]
      by_cases hj : x = j
      · subst hj
        have : a ≤ x ∧ x < a + n := by omega
        simp [this]
      · simp [hj]

/-- A page load keeps the canonical form. -/
theorem Memory.wf_memLoad {m : List Host.Cell} (a n : Nat) (cs : List Host.Cell) (h : Memory.wf m = true) :
    Memory.wf (memLoad m a n cs) = true := by
  have h0 := Memory.wf_memZero a n h
  rw [memLoad]
  generalize memZero m a n = z at h0
  induction cs generalizing z with
  | nil => exact h0
  | cons e r ih =>
    simp only [List.foldl_cons]
    apply ih
    split
    · exact Memory.wf_memPut _ _ h0
    · exact h0

end Sys2Proof.Machine
end

