-- ==== Sys2Proof/Laws/State.lean ====
section
/-! SUPPORT. What each update of the module's state does to each of its fields: one lemma per field per update, and the
laws of tables, fields and clusters that later proofs cite. -/

namespace Sys2Proof.Machine

/-! Tables -/

@[simp] theorem Tab.get?_put_same {κ α : Type} [DecidableEq κ] (t : Tab κ α) (k : κ) (v : α) :
    Tab.get? (Tab.put t k v) k = some v := by simp [Tab.put, Tab.get?]

theorem Tab.get?_erase_of_ne {κ α : Type} [DecidableEq κ] (t : Tab κ α) {k j : κ} (h : k ≠ j) :
    Tab.get? (Tab.erase t k) j = Tab.get? t j := by
  induction t with
  | nil => rfl
  | cons e r ih =>
    obtain ⟨x, v⟩ := e
    by_cases hx : x = k
    · subst hx; simpa [Tab.erase, Tab.get?, h] using ih
    · by_cases hj : x = j
      · subst hj; simp [Tab.erase, Tab.get?, hx]
      · simpa [Tab.erase, Tab.get?, hx, hj] using ih

theorem Tab.get?_put_of_ne {κ α : Type} [DecidableEq κ] (t : Tab κ α) {k j : κ} (v : α) (h : k ≠ j) :
    Tab.get? (Tab.put t k v) j = Tab.get? t j := by
  rw [Tab.put, Tab.get?, if_neg h, Tab.get?_erase_of_ne t h]

theorem Tab.get?_put {κ α : Type} [DecidableEq κ] (t : Tab κ α) (k j : κ) (v : α) :
    Tab.get? (Tab.put t k v) j = if k = j then some v else Tab.get? t j := by
  by_cases h : k = j
  · subst h; simp
  · rw [Tab.get?_put_of_ne t v h, if_neg h]

/-! Fields -/

theorem getF_setF (d : Dev) (k j : FKey) (v : Nat) :
    getF (setF d k v) j = if k = j then v % 2 ^ k.width else getF d j := by
  simp only [getF, setF, Tab.get?_put]
  split <;> simp_all

@[simp] theorem getF_setF_same (d : Dev) (k : FKey) (v : Nat) : getF (setF d k v) k = v % 2 ^ k.width := by
  simp [getF_setF]

theorem getF_setF_of_ne (d : Dev) {k j : FKey} (v : Nat) (h : k ≠ j) : getF (setF d k v) j = getF d j := by
  simp [getF_setF, h]

@[simp] theorem getF_setCluster (d : Dev) (c : Nat) (x : Cluster) (k : FKey) : getF (setCluster d c x) k = getF d k := rfl
@[simp] theorem getF_modCluster (d : Dev) (c : Nat) (g : Cluster → Cluster) (k : FKey) : getF (modCluster d c g) k = getF d k := rfl

/-! Clusters -/

@[simp] theorem clusterOf_setF (d : Dev) (k : FKey) (v c : Nat) : clusterOf (setF d k v) c = clusterOf d c := rfl
@[simp] theorem clusterOf_setCluster_same (d : Dev) (c : Nat) (x : Cluster) : clusterOf (setCluster d c x) c = x := by
  simp [clusterOf, setCluster]
@[simp] theorem clusterOf_modCluster_same (d : Dev) (c : Nat) (g : Cluster → Cluster) :
    clusterOf (modCluster d c g) c = g (clusterOf d c) := by simp [modCluster]
theorem clusterOf_setCluster_of_ne (d : Dev) {c k : Nat} (x : Cluster) (h : c ≠ k) :
    clusterOf (setCluster d c x) k = clusterOf d k := by
  simp [clusterOf, setCluster, Tab.get?_put_of_ne _ _ h]

/-! One lemma per field per update -/

@[simp] theorem setF_mem (d : Dev) (k : FKey) (v : Nat) : (setF d k v).mem = d.mem := rfl
@[simp] theorem setF_pages (d : Dev) (k : FKey) (v : Nat) : (setF d k v).pages = d.pages := rfl
@[simp] theorem setF_acc (d : Dev) (k : FKey) (v : Nat) : (setF d k v).acc = d.acc := rfl
@[simp] theorem setF_wins (d : Dev) (k : FKey) (v : Nat) : (setF d k v).wins = d.wins := rfl
@[simp] theorem setF_cl (d : Dev) (k : FKey) (v : Nat) : (setF d k v).cl = d.cl := rfl
@[simp] theorem setF_bars (d : Dev) (k : FKey) (v : Nat) : (setF d k v).bars = d.bars := rfl
@[simp] theorem setF_modes (d : Dev) (k : FKey) (v : Nat) : (setF d k v).modes = d.modes := rfl
@[simp] theorem setF_checkModes (d : Dev) (k : FKey) (v : Nat) : (setF d k v).checkModes = d.checkModes := rfl
@[simp] theorem setF_msis (d : Dev) (k : FKey) (v : Nat) : (setF d k v).msis = d.msis := rfl
@[simp] theorem setF_bus (d : Dev) (k : FKey) (v : Nat) : (setF d k v).bus = d.bus := rfl
@[simp] theorem setF_free (d : Dev) (k : FKey) (v : Nat) : (setF d k v).free = d.free := rfl
@[simp] theorem setF_ports (d : Dev) (k : FKey) (v : Nat) : (setF d k v).ports = d.ports := rfl
@[simp] theorem setF_chans (d : Dev) (k : FKey) (v : Nat) : (setF d k v).chans = d.chans := rfl
@[simp] theorem setF_gens (d : Dev) (k : FKey) (v : Nat) : (setF d k v).gens = d.gens := rfl
@[simp] theorem setF_colls (d : Dev) (k : FKey) (v : Nat) : (setF d k v).colls = d.colls := rfl
@[simp] theorem setF_collNext (d : Dev) (k : FKey) (v : Nat) : (setF d k v).collNext = d.collNext := rfl
@[simp] theorem setF_insts (d : Dev) (k : FKey) (v : Nat) : (setF d k v).insts = d.insts := rfl
@[simp] theorem setF_reads (d : Dev) (k : FKey) (v : Nat) : (setF d k v).reads = d.reads := rfl
@[simp] theorem setF_readNext (d : Dev) (k : FKey) (v : Nat) : (setF d k v).readNext = d.readNext := rfl
@[simp] theorem setF_offSum (d : Dev) (k : FKey) (v : Nat) : (setF d k v).offSum = d.offSum := rfl
@[simp] theorem setF_offCount (d : Dev) (k : FKey) (v : Nat) : (setF d k v).offCount = d.offCount := rfl
@[simp] theorem setF_slew (d : Dev) (k : FKey) (v : Nat) : (setF d k v).slew = d.slew := rfl
@[simp] theorem setF_frac (d : Dev) (k : FKey) (v : Nat) : (setF d k v).frac = d.frac := rfl
@[simp] theorem setF_ppsIgnored (d : Dev) (k : FKey) (v : Nat) : (setF d k v).ppsIgnored = d.ppsIgnored := rfl
@[simp] theorem setF_ppsRef (d : Dev) (k : FKey) (v : Nat) : (setF d k v).ppsRef = d.ppsRef := rfl
@[simp] theorem setF_coordSet (d : Dev) (k : FKey) (v : Nat) : (setF d k v).coordSet = d.coordSet := rfl
@[simp] theorem setF_history (d : Dev) (k : FKey) (v : Nat) : (setF d k v).history = d.history := rfl
@[simp] theorem setF_arrived (d : Dev) (k : FKey) (v : Nat) : (setF d k v).arrived = d.arrived := rfl
@[simp] theorem setF_sentData (d : Dev) (k : FKey) (v : Nat) : (setF d k v).sentData = d.sentData := rfl
@[simp] theorem setF_sentCtl (d : Dev) (k : FKey) (v : Nat) : (setF d k v).sentCtl = d.sentCtl := rfl
@[simp] theorem setF_reports (d : Dev) (k : FKey) (v : Nat) : (setF d k v).reports = d.reports := rfl
@[simp] theorem setF_forced (d : Dev) (k : FKey) (v : Nat) : (setF d k v).forced = d.forced := rfl
@[simp] theorem setF_moves (d : Dev) (k : FKey) (v : Nat) : (setF d k v).moves = d.moves := rfl
@[simp] theorem setF_blocked (d : Dev) (k : FKey) (v : Nat) : (setF d k v).blocked = d.blocked := rfl
@[simp] theorem setF_mover (d : Dev) (k : FKey) (v : Nat) : (setF d k v).mover = d.mover := rfl
@[simp] theorem setF_snaps (d : Dev) (k : FKey) (v : Nat) : (setF d k v).snaps = d.snaps := rfl
@[simp] theorem setF_acks (d : Dev) (k : FKey) (v : Nat) : (setF d k v).acks = d.acks := rfl
@[simp] theorem setF_buddies (d : Dev) (k : FKey) (v : Nat) : (setF d k v).buddies = d.buddies := rfl
@[simp] theorem setF_acked (d : Dev) (k : FKey) (v : Nat) : (setF d k v).acked = d.acked := rfl
@[simp] theorem setF_stamps (d : Dev) (k : FKey) (v : Nat) : (setF d k v).stamps = d.stamps := rfl
@[simp] theorem setF_snapAt (d : Dev) (k : FKey) (v : Nat) : (setF d k v).snapAt = d.snapAt := rfl
@[simp] theorem setF_frameErrs (d : Dev) (k : FKey) (v : Nat) : (setF d k v).frameErrs = d.frameErrs := rfl
@[simp] theorem setF_badRows (d : Dev) (k : FKey) (v : Nat) : (setF d k v).badRows = d.badRows := rfl
@[simp] theorem setF_hardRows (d : Dev) (k : FKey) (v : Nat) : (setF d k v).hardRows = d.hardRows := rfl
@[simp] theorem setF_patrolled (d : Dev) (k : FKey) (v : Nat) : (setF d k v).patrolled = d.patrolled := rfl
@[simp] theorem setF_taken (d : Dev) (k : FKey) (v : Nat) : (setF d k v).taken = d.taken := rfl
@[simp] theorem setF_joined (d : Dev) (k : FKey) (v : Nat) : (setF d k v).joined = d.joined := rfl
@[simp] theorem setF_retired (d : Dev) (k : FKey) (v : Nat) : (setF d k v).retired = d.retired := rfl
@[simp] theorem setF_held (d : Dev) (k : FKey) (v : Nat) : (setF d k v).held = d.held := rfl
@[simp] theorem setF_kjobs (d : Dev) (k : FKey) (v : Nat) : (setF d k v).kjobs = d.kjobs := rfl
@[simp] theorem setF_kilnCe (d : Dev) (k : FKey) (v : Nat) : (setF d k v).kilnCe = d.kilnCe := rfl
@[simp] theorem setF_coreFails (d : Dev) (k : FKey) (v : Nat) : (setF d k v).coreFails = d.coreFails := rfl
@[simp] theorem setF_batch (d : Dev) (k : FKey) (v : Nat) : (setF d k v).batch = d.batch := rfl
@[simp] theorem setF_placed (d : Dev) (k : FKey) (v : Nat) : (setF d k v).placed = d.placed := rfl
@[simp] theorem setF_sweeps (d : Dev) (k : FKey) (v : Nat) : (setF d k v).sweeps = d.sweeps := rfl
@[simp] theorem setF_evals (d : Dev) (k : FKey) (v : Nat) : (setF d k v).evals = d.evals := rfl
@[simp] theorem setF_rack (d : Dev) (k : FKey) (v : Nat) : (setF d k v).rack = d.rack := rfl
@[simp] theorem setF_rackFails (d : Dev) (k : FKey) (v : Nat) : (setF d k v).rackFails = d.rackFails := rfl
@[simp] theorem setF_stg (d : Dev) (k : FKey) (v : Nat) : (setF d k v).stg = d.stg := rfl
@[simp] theorem setF_stgHeld (d : Dev) (k : FKey) (v : Nat) : (setF d k v).stgHeld = d.stgHeld := rfl
@[simp] theorem setF_checks (d : Dev) (k : FKey) (v : Nat) : (setF d k v).checks = d.checks := rfl
@[simp] theorem setF_svc (d : Dev) (k : FKey) (v : Nat) : (setF d k v).svc = d.svc := rfl
@[simp] theorem setF_svcOut (d : Dev) (k : FKey) (v : Nat) : (setF d k v).svcOut = d.svcOut := rfl
@[simp] theorem setF_qps (d : Dev) (k : FKey) (v : Nat) : (setF d k v).qps = d.qps := rfl
@[simp] theorem setF_picked (d : Dev) (k : FKey) (v : Nat) : (setF d k v).picked = d.picked := rfl
@[simp] theorem setF_mbxNext (d : Dev) (k : FKey) (v : Nat) : (setF d k v).mbxNext = d.mbxNext := rfl
@[simp] theorem setF_mbxTurn (d : Dev) (k : FKey) (v : Nat) : (setF d k v).mbxTurn = d.mbxTurn := rfl
@[simp] theorem setF_sets (d : Dev) (k : FKey) (v : Nat) : (setF d k v).sets = d.sets := rfl
@[simp] theorem setF_cycle (d : Dev) (k : FKey) (v : Nat) : (setF d k v).cycle = d.cycle := rfl
@[simp] theorem setF_modeAt (d : Dev) (k : FKey) (v : Nat) : (setF d k v).modeAt = d.modeAt := rfl
@[simp] theorem setF_forms (d : Dev) (k : FKey) (v : Nat) : (setF d k v).forms = d.forms := rfl
@[simp] theorem setF_ends (d : Dev) (k : FKey) (v : Nat) : (setF d k v).ends = d.ends := rfl
@[simp] theorem setF_cuts (d : Dev) (k : FKey) (v : Nat) : (setF d k v).cuts = d.cuts := rfl
@[simp] theorem setF_sealEnd (d : Dev) (k : FKey) (v : Nat) : (setF d k v).sealEnd = d.sealEnd := rfl
@[simp] theorem setF_malt (d : Dev) (k : FKey) (v : Nat) : (setF d k v).malt = d.malt := rfl
@[simp] theorem setF_maltCe (d : Dev) (k : FKey) (v : Nat) : (setF d k v).maltCe = d.maltCe := rfl
@[simp] theorem setF_lastRestart (d : Dev) (k : FKey) (v : Nat) : (setF d k v).lastRestart = d.lastRestart := rfl
@[simp] theorem setF_version (d : Dev) (k : FKey) (v : Nat) : (setF d k v).version = d.version := rfl
@[simp] theorem setF_audits (d : Dev) (k : FKey) (v : Nat) : (setF d k v).audits = d.audits := rfl
@[simp] theorem setF_datagrams (d : Dev) (k : FKey) (v : Nat) : (setF d k v).datagrams = d.datagrams := rfl
@[simp] theorem setF_mgtGlobal (d : Dev) (k : FKey) (v : Nat) : (setF d k v).mgtGlobal = d.mgtGlobal := rfl
@[simp] theorem setF_i2c (d : Dev) (k : FKey) (v : Nat) : (setF d k v).i2c = d.i2c := rfl
@[simp] theorem setF_jtag (d : Dev) (k : FKey) (v : Nat) : (setF d k v).jtag = d.jtag := rfl
@[simp] theorem setF_standby (d : Dev) (k : FKey) (v : Nat) : (setF d k v).standby = d.standby := rfl
@[simp] theorem setF_inReset (d : Dev) (k : FKey) (v : Nat) : (setF d k v).inReset = d.inReset := rfl
@[simp] theorem setF_powerGood (d : Dev) (k : FKey) (v : Nat) : (setF d k v).powerGood = d.powerGood := rfl
@[simp] theorem setF_inputOk (d : Dev) (k : FKey) (v : Nat) : (setF d k v).inputOk = d.inputOk := rfl
@[simp] theorem setF_inputTrip (d : Dev) (k : FKey) (v : Nat) : (setF d k v).inputTrip = d.inputTrip := rfl
@[simp] theorem setF_capLimit (d : Dev) (k : FKey) (v : Nat) : (setF d k v).capLimit = d.capLimit := rfl
@[simp] theorem setF_thermLimit (d : Dev) (k : FKey) (v : Nat) : (setF d k v).thermLimit = d.thermLimit := rfl
@[simp] theorem setF_ilimLimit (d : Dev) (k : FKey) (v : Nat) : (setF d k v).ilimLimit = d.ilimLimit := rfl
@[simp] theorem setF_hotSteps (d : Dev) (k : FKey) (v : Nat) : (setF d k v).hotSteps = d.hotSteps := rfl
@[simp] theorem setF_gated (d : Dev) (k : FKey) (v : Nat) : (setF d k v).gated = d.gated := rfl
@[simp] theorem setF_waking (d : Dev) (k : FKey) (v : Nat) : (setF d k v).waking = d.waking := rfl
@[simp] theorem setF_wakeQueue (d : Dev) (k : FKey) (v : Nat) : (setF d k v).wakeQueue = d.wakeQueue := rfl
@[simp] theorem setF_wearSaved (d : Dev) (k : FKey) (v : Nat) : (setF d k v).wearSaved = d.wearSaved := rfl
@[simp] theorem setF_swing (d : Dev) (k : FKey) (v : Nat) : (setF d k v).swing = d.swing := rfl
@[simp] theorem setF_readings (d : Dev) (k : FKey) (v : Nat) : (setF d k v).readings = d.readings := rfl
@[simp] theorem setF_traced (d : Dev) (k : FKey) (v : Nat) : (setF d k v).traced = d.traced := rfl

@[simp] theorem setCluster_f (d : Dev) (c : Nat) (x : Cluster) : (setCluster d c x).f = d.f := rfl
@[simp] theorem setCluster_mem (d : Dev) (c : Nat) (x : Cluster) : (setCluster d c x).mem = d.mem := rfl
@[simp] theorem setCluster_pages (d : Dev) (c : Nat) (x : Cluster) : (setCluster d c x).pages = d.pages := rfl
@[simp] theorem setCluster_acc (d : Dev) (c : Nat) (x : Cluster) : (setCluster d c x).acc = d.acc := rfl
@[simp] theorem setCluster_wins (d : Dev) (c : Nat) (x : Cluster) : (setCluster d c x).wins = d.wins := rfl
@[simp] theorem setCluster_bars (d : Dev) (c : Nat) (x : Cluster) : (setCluster d c x).bars = d.bars := rfl
@[simp] theorem setCluster_modes (d : Dev) (c : Nat) (x : Cluster) : (setCluster d c x).modes = d.modes := rfl
@[simp] theorem setCluster_checkModes (d : Dev) (c : Nat) (x : Cluster) : (setCluster d c x).checkModes = d.checkModes := rfl
@[simp] theorem setCluster_msis (d : Dev) (c : Nat) (x : Cluster) : (setCluster d c x).msis = d.msis := rfl
@[simp] theorem setCluster_bus (d : Dev) (c : Nat) (x : Cluster) : (setCluster d c x).bus = d.bus := rfl
@[simp] theorem setCluster_free (d : Dev) (c : Nat) (x : Cluster) : (setCluster d c x).free = d.free := rfl
@[simp] theorem setCluster_ports (d : Dev) (c : Nat) (x : Cluster) : (setCluster d c x).ports = d.ports := rfl
@[simp] theorem setCluster_chans (d : Dev) (c : Nat) (x : Cluster) : (setCluster d c x).chans = d.chans := rfl
@[simp] theorem setCluster_gens (d : Dev) (c : Nat) (x : Cluster) : (setCluster d c x).gens = d.gens := rfl
@[simp] theorem setCluster_colls (d : Dev) (c : Nat) (x : Cluster) : (setCluster d c x).colls = d.colls := rfl
@[simp] theorem setCluster_collNext (d : Dev) (c : Nat) (x : Cluster) : (setCluster d c x).collNext = d.collNext := rfl
@[simp] theorem setCluster_insts (d : Dev) (c : Nat) (x : Cluster) : (setCluster d c x).insts = d.insts := rfl
@[simp] theorem setCluster_reads (d : Dev) (c : Nat) (x : Cluster) : (setCluster d c x).reads = d.reads := rfl
@[simp] theorem setCluster_readNext (d : Dev) (c : Nat) (x : Cluster) : (setCluster d c x).readNext = d.readNext := rfl
@[simp] theorem setCluster_offSum (d : Dev) (c : Nat) (x : Cluster) : (setCluster d c x).offSum = d.offSum := rfl
@[simp] theorem setCluster_offCount (d : Dev) (c : Nat) (x : Cluster) : (setCluster d c x).offCount = d.offCount := rfl
@[simp] theorem setCluster_slew (d : Dev) (c : Nat) (x : Cluster) : (setCluster d c x).slew = d.slew := rfl
@[simp] theorem setCluster_frac (d : Dev) (c : Nat) (x : Cluster) : (setCluster d c x).frac = d.frac := rfl
@[simp] theorem setCluster_ppsIgnored (d : Dev) (c : Nat) (x : Cluster) : (setCluster d c x).ppsIgnored = d.ppsIgnored := rfl
@[simp] theorem setCluster_ppsRef (d : Dev) (c : Nat) (x : Cluster) : (setCluster d c x).ppsRef = d.ppsRef := rfl
@[simp] theorem setCluster_coordSet (d : Dev) (c : Nat) (x : Cluster) : (setCluster d c x).coordSet = d.coordSet := rfl
@[simp] theorem setCluster_history (d : Dev) (c : Nat) (x : Cluster) : (setCluster d c x).history = d.history := rfl
@[simp] theorem setCluster_arrived (d : Dev) (c : Nat) (x : Cluster) : (setCluster d c x).arrived = d.arrived := rfl
@[simp] theorem setCluster_sentData (d : Dev) (c : Nat) (x : Cluster) : (setCluster d c x).sentData = d.sentData := rfl
@[simp] theorem setCluster_sentCtl (d : Dev) (c : Nat) (x : Cluster) : (setCluster d c x).sentCtl = d.sentCtl := rfl
@[simp] theorem setCluster_reports (d : Dev) (c : Nat) (x : Cluster) : (setCluster d c x).reports = d.reports := rfl
@[simp] theorem setCluster_forced (d : Dev) (c : Nat) (x : Cluster) : (setCluster d c x).forced = d.forced := rfl
@[simp] theorem setCluster_moves (d : Dev) (c : Nat) (x : Cluster) : (setCluster d c x).moves = d.moves := rfl
@[simp] theorem setCluster_blocked (d : Dev) (c : Nat) (x : Cluster) : (setCluster d c x).blocked = d.blocked := rfl
@[simp] theorem setCluster_mover (d : Dev) (c : Nat) (x : Cluster) : (setCluster d c x).mover = d.mover := rfl
@[simp] theorem setCluster_snaps (d : Dev) (c : Nat) (x : Cluster) : (setCluster d c x).snaps = d.snaps := rfl
@[simp] theorem setCluster_acks (d : Dev) (c : Nat) (x : Cluster) : (setCluster d c x).acks = d.acks := rfl
@[simp] theorem setCluster_buddies (d : Dev) (c : Nat) (x : Cluster) : (setCluster d c x).buddies = d.buddies := rfl
@[simp] theorem setCluster_acked (d : Dev) (c : Nat) (x : Cluster) : (setCluster d c x).acked = d.acked := rfl
@[simp] theorem setCluster_stamps (d : Dev) (c : Nat) (x : Cluster) : (setCluster d c x).stamps = d.stamps := rfl
@[simp] theorem setCluster_snapAt (d : Dev) (c : Nat) (x : Cluster) : (setCluster d c x).snapAt = d.snapAt := rfl
@[simp] theorem setCluster_frameErrs (d : Dev) (c : Nat) (x : Cluster) : (setCluster d c x).frameErrs = d.frameErrs := rfl
@[simp] theorem setCluster_badRows (d : Dev) (c : Nat) (x : Cluster) : (setCluster d c x).badRows = d.badRows := rfl
@[simp] theorem setCluster_hardRows (d : Dev) (c : Nat) (x : Cluster) : (setCluster d c x).hardRows = d.hardRows := rfl
@[simp] theorem setCluster_patrolled (d : Dev) (c : Nat) (x : Cluster) : (setCluster d c x).patrolled = d.patrolled := rfl
@[simp] theorem setCluster_taken (d : Dev) (c : Nat) (x : Cluster) : (setCluster d c x).taken = d.taken := rfl
@[simp] theorem setCluster_joined (d : Dev) (c : Nat) (x : Cluster) : (setCluster d c x).joined = d.joined := rfl
@[simp] theorem setCluster_retired (d : Dev) (c : Nat) (x : Cluster) : (setCluster d c x).retired = d.retired := rfl
@[simp] theorem setCluster_held (d : Dev) (c : Nat) (x : Cluster) : (setCluster d c x).held = d.held := rfl
@[simp] theorem setCluster_kjobs (d : Dev) (c : Nat) (x : Cluster) : (setCluster d c x).kjobs = d.kjobs := rfl
@[simp] theorem setCluster_kilnCe (d : Dev) (c : Nat) (x : Cluster) : (setCluster d c x).kilnCe = d.kilnCe := rfl
@[simp] theorem setCluster_coreFails (d : Dev) (c : Nat) (x : Cluster) : (setCluster d c x).coreFails = d.coreFails := rfl
@[simp] theorem setCluster_batch (d : Dev) (c : Nat) (x : Cluster) : (setCluster d c x).batch = d.batch := rfl
@[simp] theorem setCluster_placed (d : Dev) (c : Nat) (x : Cluster) : (setCluster d c x).placed = d.placed := rfl
@[simp] theorem setCluster_sweeps (d : Dev) (c : Nat) (x : Cluster) : (setCluster d c x).sweeps = d.sweeps := rfl
@[simp] theorem setCluster_evals (d : Dev) (c : Nat) (x : Cluster) : (setCluster d c x).evals = d.evals := rfl
@[simp] theorem setCluster_rack (d : Dev) (c : Nat) (x : Cluster) : (setCluster d c x).rack = d.rack := rfl
@[simp] theorem setCluster_rackFails (d : Dev) (c : Nat) (x : Cluster) : (setCluster d c x).rackFails = d.rackFails := rfl
@[simp] theorem setCluster_stg (d : Dev) (c : Nat) (x : Cluster) : (setCluster d c x).stg = d.stg := rfl
@[simp] theorem setCluster_stgHeld (d : Dev) (c : Nat) (x : Cluster) : (setCluster d c x).stgHeld = d.stgHeld := rfl
@[simp] theorem setCluster_checks (d : Dev) (c : Nat) (x : Cluster) : (setCluster d c x).checks = d.checks := rfl
@[simp] theorem setCluster_svc (d : Dev) (c : Nat) (x : Cluster) : (setCluster d c x).svc = d.svc := rfl
@[simp] theorem setCluster_svcOut (d : Dev) (c : Nat) (x : Cluster) : (setCluster d c x).svcOut = d.svcOut := rfl
@[simp] theorem setCluster_qps (d : Dev) (c : Nat) (x : Cluster) : (setCluster d c x).qps = d.qps := rfl
@[simp] theorem setCluster_picked (d : Dev) (c : Nat) (x : Cluster) : (setCluster d c x).picked = d.picked := rfl
@[simp] theorem setCluster_mbxNext (d : Dev) (c : Nat) (x : Cluster) : (setCluster d c x).mbxNext = d.mbxNext := rfl
@[simp] theorem setCluster_mbxTurn (d : Dev) (c : Nat) (x : Cluster) : (setCluster d c x).mbxTurn = d.mbxTurn := rfl
@[simp] theorem setCluster_sets (d : Dev) (c : Nat) (x : Cluster) : (setCluster d c x).sets = d.sets := rfl
@[simp] theorem setCluster_cycle (d : Dev) (c : Nat) (x : Cluster) : (setCluster d c x).cycle = d.cycle := rfl
@[simp] theorem setCluster_modeAt (d : Dev) (c : Nat) (x : Cluster) : (setCluster d c x).modeAt = d.modeAt := rfl
@[simp] theorem setCluster_forms (d : Dev) (c : Nat) (x : Cluster) : (setCluster d c x).forms = d.forms := rfl
@[simp] theorem setCluster_ends (d : Dev) (c : Nat) (x : Cluster) : (setCluster d c x).ends = d.ends := rfl
@[simp] theorem setCluster_cuts (d : Dev) (c : Nat) (x : Cluster) : (setCluster d c x).cuts = d.cuts := rfl
@[simp] theorem setCluster_sealEnd (d : Dev) (c : Nat) (x : Cluster) : (setCluster d c x).sealEnd = d.sealEnd := rfl
@[simp] theorem setCluster_malt (d : Dev) (c : Nat) (x : Cluster) : (setCluster d c x).malt = d.malt := rfl
@[simp] theorem setCluster_maltCe (d : Dev) (c : Nat) (x : Cluster) : (setCluster d c x).maltCe = d.maltCe := rfl
@[simp] theorem setCluster_lastRestart (d : Dev) (c : Nat) (x : Cluster) : (setCluster d c x).lastRestart = d.lastRestart := rfl
@[simp] theorem setCluster_version (d : Dev) (c : Nat) (x : Cluster) : (setCluster d c x).version = d.version := rfl
@[simp] theorem setCluster_audits (d : Dev) (c : Nat) (x : Cluster) : (setCluster d c x).audits = d.audits := rfl
@[simp] theorem setCluster_datagrams (d : Dev) (c : Nat) (x : Cluster) : (setCluster d c x).datagrams = d.datagrams := rfl
@[simp] theorem setCluster_mgtGlobal (d : Dev) (c : Nat) (x : Cluster) : (setCluster d c x).mgtGlobal = d.mgtGlobal := rfl
@[simp] theorem setCluster_i2c (d : Dev) (c : Nat) (x : Cluster) : (setCluster d c x).i2c = d.i2c := rfl
@[simp] theorem setCluster_jtag (d : Dev) (c : Nat) (x : Cluster) : (setCluster d c x).jtag = d.jtag := rfl
@[simp] theorem setCluster_standby (d : Dev) (c : Nat) (x : Cluster) : (setCluster d c x).standby = d.standby := rfl
@[simp] theorem setCluster_inReset (d : Dev) (c : Nat) (x : Cluster) : (setCluster d c x).inReset = d.inReset := rfl
@[simp] theorem setCluster_powerGood (d : Dev) (c : Nat) (x : Cluster) : (setCluster d c x).powerGood = d.powerGood := rfl
@[simp] theorem setCluster_inputOk (d : Dev) (c : Nat) (x : Cluster) : (setCluster d c x).inputOk = d.inputOk := rfl
@[simp] theorem setCluster_inputTrip (d : Dev) (c : Nat) (x : Cluster) : (setCluster d c x).inputTrip = d.inputTrip := rfl
@[simp] theorem setCluster_capLimit (d : Dev) (c : Nat) (x : Cluster) : (setCluster d c x).capLimit = d.capLimit := rfl
@[simp] theorem setCluster_thermLimit (d : Dev) (c : Nat) (x : Cluster) : (setCluster d c x).thermLimit = d.thermLimit := rfl
@[simp] theorem setCluster_ilimLimit (d : Dev) (c : Nat) (x : Cluster) : (setCluster d c x).ilimLimit = d.ilimLimit := rfl
@[simp] theorem setCluster_hotSteps (d : Dev) (c : Nat) (x : Cluster) : (setCluster d c x).hotSteps = d.hotSteps := rfl
@[simp] theorem setCluster_gated (d : Dev) (c : Nat) (x : Cluster) : (setCluster d c x).gated = d.gated := rfl
@[simp] theorem setCluster_waking (d : Dev) (c : Nat) (x : Cluster) : (setCluster d c x).waking = d.waking := rfl
@[simp] theorem setCluster_wakeQueue (d : Dev) (c : Nat) (x : Cluster) : (setCluster d c x).wakeQueue = d.wakeQueue := rfl
@[simp] theorem setCluster_wearSaved (d : Dev) (c : Nat) (x : Cluster) : (setCluster d c x).wearSaved = d.wearSaved := rfl
@[simp] theorem setCluster_swing (d : Dev) (c : Nat) (x : Cluster) : (setCluster d c x).swing = d.swing := rfl
@[simp] theorem setCluster_readings (d : Dev) (c : Nat) (x : Cluster) : (setCluster d c x).readings = d.readings := rfl
@[simp] theorem setCluster_traced (d : Dev) (c : Nat) (x : Cluster) : (setCluster d c x).traced = d.traced := rfl

@[simp] theorem modCluster_f (d : Dev) (c : Nat) (g : Cluster → Cluster) : (modCluster d c g).f = d.f := rfl
@[simp] theorem modCluster_mem (d : Dev) (c : Nat) (g : Cluster → Cluster) : (modCluster d c g).mem = d.mem := rfl
@[simp] theorem modCluster_pages (d : Dev) (c : Nat) (g : Cluster → Cluster) : (modCluster d c g).pages = d.pages := rfl
@[simp] theorem modCluster_acc (d : Dev) (c : Nat) (g : Cluster → Cluster) : (modCluster d c g).acc = d.acc := rfl
@[simp] theorem modCluster_wins (d : Dev) (c : Nat) (g : Cluster → Cluster) : (modCluster d c g).wins = d.wins := rfl
@[simp] theorem modCluster_bars (d : Dev) (c : Nat) (g : Cluster → Cluster) : (modCluster d c g).bars = d.bars := rfl
@[simp] theorem modCluster_modes (d : Dev) (c : Nat) (g : Cluster → Cluster) : (modCluster d c g).modes = d.modes := rfl
@[simp] theorem modCluster_checkModes (d : Dev) (c : Nat) (g : Cluster → Cluster) : (modCluster d c g).checkModes = d.checkModes := rfl
@[simp] theorem modCluster_msis (d : Dev) (c : Nat) (g : Cluster → Cluster) : (modCluster d c g).msis = d.msis := rfl
@[simp] theorem modCluster_bus (d : Dev) (c : Nat) (g : Cluster → Cluster) : (modCluster d c g).bus = d.bus := rfl
@[simp] theorem modCluster_free (d : Dev) (c : Nat) (g : Cluster → Cluster) : (modCluster d c g).free = d.free := rfl
@[simp] theorem modCluster_ports (d : Dev) (c : Nat) (g : Cluster → Cluster) : (modCluster d c g).ports = d.ports := rfl
@[simp] theorem modCluster_chans (d : Dev) (c : Nat) (g : Cluster → Cluster) : (modCluster d c g).chans = d.chans := rfl
@[simp] theorem modCluster_gens (d : Dev) (c : Nat) (g : Cluster → Cluster) : (modCluster d c g).gens = d.gens := rfl
@[simp] theorem modCluster_colls (d : Dev) (c : Nat) (g : Cluster → Cluster) : (modCluster d c g).colls = d.colls := rfl
@[simp] theorem modCluster_collNext (d : Dev) (c : Nat) (g : Cluster → Cluster) : (modCluster d c g).collNext = d.collNext := rfl
@[simp] theorem modCluster_insts (d : Dev) (c : Nat) (g : Cluster → Cluster) : (modCluster d c g).insts = d.insts := rfl
@[simp] theorem modCluster_reads (d : Dev) (c : Nat) (g : Cluster → Cluster) : (modCluster d c g).reads = d.reads := rfl
@[simp] theorem modCluster_readNext (d : Dev) (c : Nat) (g : Cluster → Cluster) : (modCluster d c g).readNext = d.readNext := rfl
@[simp] theorem modCluster_offSum (d : Dev) (c : Nat) (g : Cluster → Cluster) : (modCluster d c g).offSum = d.offSum := rfl
@[simp] theorem modCluster_offCount (d : Dev) (c : Nat) (g : Cluster → Cluster) : (modCluster d c g).offCount = d.offCount := rfl
@[simp] theorem modCluster_slew (d : Dev) (c : Nat) (g : Cluster → Cluster) : (modCluster d c g).slew = d.slew := rfl
@[simp] theorem modCluster_frac (d : Dev) (c : Nat) (g : Cluster → Cluster) : (modCluster d c g).frac = d.frac := rfl
@[simp] theorem modCluster_ppsIgnored (d : Dev) (c : Nat) (g : Cluster → Cluster) : (modCluster d c g).ppsIgnored = d.ppsIgnored := rfl
@[simp] theorem modCluster_ppsRef (d : Dev) (c : Nat) (g : Cluster → Cluster) : (modCluster d c g).ppsRef = d.ppsRef := rfl
@[simp] theorem modCluster_coordSet (d : Dev) (c : Nat) (g : Cluster → Cluster) : (modCluster d c g).coordSet = d.coordSet := rfl
@[simp] theorem modCluster_history (d : Dev) (c : Nat) (g : Cluster → Cluster) : (modCluster d c g).history = d.history := rfl
@[simp] theorem modCluster_arrived (d : Dev) (c : Nat) (g : Cluster → Cluster) : (modCluster d c g).arrived = d.arrived := rfl
@[simp] theorem modCluster_sentData (d : Dev) (c : Nat) (g : Cluster → Cluster) : (modCluster d c g).sentData = d.sentData := rfl
@[simp] theorem modCluster_sentCtl (d : Dev) (c : Nat) (g : Cluster → Cluster) : (modCluster d c g).sentCtl = d.sentCtl := rfl
@[simp] theorem modCluster_reports (d : Dev) (c : Nat) (g : Cluster → Cluster) : (modCluster d c g).reports = d.reports := rfl
@[simp] theorem modCluster_forced (d : Dev) (c : Nat) (g : Cluster → Cluster) : (modCluster d c g).forced = d.forced := rfl
@[simp] theorem modCluster_moves (d : Dev) (c : Nat) (g : Cluster → Cluster) : (modCluster d c g).moves = d.moves := rfl
@[simp] theorem modCluster_blocked (d : Dev) (c : Nat) (g : Cluster → Cluster) : (modCluster d c g).blocked = d.blocked := rfl
@[simp] theorem modCluster_mover (d : Dev) (c : Nat) (g : Cluster → Cluster) : (modCluster d c g).mover = d.mover := rfl
@[simp] theorem modCluster_snaps (d : Dev) (c : Nat) (g : Cluster → Cluster) : (modCluster d c g).snaps = d.snaps := rfl
@[simp] theorem modCluster_acks (d : Dev) (c : Nat) (g : Cluster → Cluster) : (modCluster d c g).acks = d.acks := rfl
@[simp] theorem modCluster_buddies (d : Dev) (c : Nat) (g : Cluster → Cluster) : (modCluster d c g).buddies = d.buddies := rfl
@[simp] theorem modCluster_acked (d : Dev) (c : Nat) (g : Cluster → Cluster) : (modCluster d c g).acked = d.acked := rfl
@[simp] theorem modCluster_stamps (d : Dev) (c : Nat) (g : Cluster → Cluster) : (modCluster d c g).stamps = d.stamps := rfl
@[simp] theorem modCluster_snapAt (d : Dev) (c : Nat) (g : Cluster → Cluster) : (modCluster d c g).snapAt = d.snapAt := rfl
@[simp] theorem modCluster_frameErrs (d : Dev) (c : Nat) (g : Cluster → Cluster) : (modCluster d c g).frameErrs = d.frameErrs := rfl
@[simp] theorem modCluster_badRows (d : Dev) (c : Nat) (g : Cluster → Cluster) : (modCluster d c g).badRows = d.badRows := rfl
@[simp] theorem modCluster_hardRows (d : Dev) (c : Nat) (g : Cluster → Cluster) : (modCluster d c g).hardRows = d.hardRows := rfl
@[simp] theorem modCluster_patrolled (d : Dev) (c : Nat) (g : Cluster → Cluster) : (modCluster d c g).patrolled = d.patrolled := rfl
@[simp] theorem modCluster_taken (d : Dev) (c : Nat) (g : Cluster → Cluster) : (modCluster d c g).taken = d.taken := rfl
@[simp] theorem modCluster_joined (d : Dev) (c : Nat) (g : Cluster → Cluster) : (modCluster d c g).joined = d.joined := rfl
@[simp] theorem modCluster_retired (d : Dev) (c : Nat) (g : Cluster → Cluster) : (modCluster d c g).retired = d.retired := rfl
@[simp] theorem modCluster_held (d : Dev) (c : Nat) (g : Cluster → Cluster) : (modCluster d c g).held = d.held := rfl
@[simp] theorem modCluster_kjobs (d : Dev) (c : Nat) (g : Cluster → Cluster) : (modCluster d c g).kjobs = d.kjobs := rfl
@[simp] theorem modCluster_kilnCe (d : Dev) (c : Nat) (g : Cluster → Cluster) : (modCluster d c g).kilnCe = d.kilnCe := rfl
@[simp] theorem modCluster_coreFails (d : Dev) (c : Nat) (g : Cluster → Cluster) : (modCluster d c g).coreFails = d.coreFails := rfl
@[simp] theorem modCluster_batch (d : Dev) (c : Nat) (g : Cluster → Cluster) : (modCluster d c g).batch = d.batch := rfl
@[simp] theorem modCluster_placed (d : Dev) (c : Nat) (g : Cluster → Cluster) : (modCluster d c g).placed = d.placed := rfl
@[simp] theorem modCluster_sweeps (d : Dev) (c : Nat) (g : Cluster → Cluster) : (modCluster d c g).sweeps = d.sweeps := rfl
@[simp] theorem modCluster_evals (d : Dev) (c : Nat) (g : Cluster → Cluster) : (modCluster d c g).evals = d.evals := rfl
@[simp] theorem modCluster_rack (d : Dev) (c : Nat) (g : Cluster → Cluster) : (modCluster d c g).rack = d.rack := rfl
@[simp] theorem modCluster_rackFails (d : Dev) (c : Nat) (g : Cluster → Cluster) : (modCluster d c g).rackFails = d.rackFails := rfl
@[simp] theorem modCluster_stg (d : Dev) (c : Nat) (g : Cluster → Cluster) : (modCluster d c g).stg = d.stg := rfl
@[simp] theorem modCluster_stgHeld (d : Dev) (c : Nat) (g : Cluster → Cluster) : (modCluster d c g).stgHeld = d.stgHeld := rfl
@[simp] theorem modCluster_checks (d : Dev) (c : Nat) (g : Cluster → Cluster) : (modCluster d c g).checks = d.checks := rfl
@[simp] theorem modCluster_svc (d : Dev) (c : Nat) (g : Cluster → Cluster) : (modCluster d c g).svc = d.svc := rfl
@[simp] theorem modCluster_svcOut (d : Dev) (c : Nat) (g : Cluster → Cluster) : (modCluster d c g).svcOut = d.svcOut := rfl
@[simp] theorem modCluster_qps (d : Dev) (c : Nat) (g : Cluster → Cluster) : (modCluster d c g).qps = d.qps := rfl
@[simp] theorem modCluster_picked (d : Dev) (c : Nat) (g : Cluster → Cluster) : (modCluster d c g).picked = d.picked := rfl
@[simp] theorem modCluster_mbxNext (d : Dev) (c : Nat) (g : Cluster → Cluster) : (modCluster d c g).mbxNext = d.mbxNext := rfl
@[simp] theorem modCluster_mbxTurn (d : Dev) (c : Nat) (g : Cluster → Cluster) : (modCluster d c g).mbxTurn = d.mbxTurn := rfl
@[simp] theorem modCluster_sets (d : Dev) (c : Nat) (g : Cluster → Cluster) : (modCluster d c g).sets = d.sets := rfl
@[simp] theorem modCluster_cycle (d : Dev) (c : Nat) (g : Cluster → Cluster) : (modCluster d c g).cycle = d.cycle := rfl
@[simp] theorem modCluster_modeAt (d : Dev) (c : Nat) (g : Cluster → Cluster) : (modCluster d c g).modeAt = d.modeAt := rfl
@[simp] theorem modCluster_forms (d : Dev) (c : Nat) (g : Cluster → Cluster) : (modCluster d c g).forms = d.forms := rfl
@[simp] theorem modCluster_ends (d : Dev) (c : Nat) (g : Cluster → Cluster) : (modCluster d c g).ends = d.ends := rfl
@[simp] theorem modCluster_cuts (d : Dev) (c : Nat) (g : Cluster → Cluster) : (modCluster d c g).cuts = d.cuts := rfl
@[simp] theorem modCluster_sealEnd (d : Dev) (c : Nat) (g : Cluster → Cluster) : (modCluster d c g).sealEnd = d.sealEnd := rfl
@[simp] theorem modCluster_malt (d : Dev) (c : Nat) (g : Cluster → Cluster) : (modCluster d c g).malt = d.malt := rfl
@[simp] theorem modCluster_maltCe (d : Dev) (c : Nat) (g : Cluster → Cluster) : (modCluster d c g).maltCe = d.maltCe := rfl
@[simp] theorem modCluster_lastRestart (d : Dev) (c : Nat) (g : Cluster → Cluster) : (modCluster d c g).lastRestart = d.lastRestart := rfl
@[simp] theorem modCluster_version (d : Dev) (c : Nat) (g : Cluster → Cluster) : (modCluster d c g).version = d.version := rfl
@[simp] theorem modCluster_audits (d : Dev) (c : Nat) (g : Cluster → Cluster) : (modCluster d c g).audits = d.audits := rfl
@[simp] theorem modCluster_datagrams (d : Dev) (c : Nat) (g : Cluster → Cluster) : (modCluster d c g).datagrams = d.datagrams := rfl
@[simp] theorem modCluster_mgtGlobal (d : Dev) (c : Nat) (g : Cluster → Cluster) : (modCluster d c g).mgtGlobal = d.mgtGlobal := rfl
@[simp] theorem modCluster_i2c (d : Dev) (c : Nat) (g : Cluster → Cluster) : (modCluster d c g).i2c = d.i2c := rfl
@[simp] theorem modCluster_jtag (d : Dev) (c : Nat) (g : Cluster → Cluster) : (modCluster d c g).jtag = d.jtag := rfl
@[simp] theorem modCluster_standby (d : Dev) (c : Nat) (g : Cluster → Cluster) : (modCluster d c g).standby = d.standby := rfl
@[simp] theorem modCluster_inReset (d : Dev) (c : Nat) (g : Cluster → Cluster) : (modCluster d c g).inReset = d.inReset := rfl
@[simp] theorem modCluster_powerGood (d : Dev) (c : Nat) (g : Cluster → Cluster) : (modCluster d c g).powerGood = d.powerGood := rfl
@[simp] theorem modCluster_inputOk (d : Dev) (c : Nat) (g : Cluster → Cluster) : (modCluster d c g).inputOk = d.inputOk := rfl
@[simp] theorem modCluster_inputTrip (d : Dev) (c : Nat) (g : Cluster → Cluster) : (modCluster d c g).inputTrip = d.inputTrip := rfl
@[simp] theorem modCluster_capLimit (d : Dev) (c : Nat) (g : Cluster → Cluster) : (modCluster d c g).capLimit = d.capLimit := rfl
@[simp] theorem modCluster_thermLimit (d : Dev) (c : Nat) (g : Cluster → Cluster) : (modCluster d c g).thermLimit = d.thermLimit := rfl
@[simp] theorem modCluster_ilimLimit (d : Dev) (c : Nat) (g : Cluster → Cluster) : (modCluster d c g).ilimLimit = d.ilimLimit := rfl
@[simp] theorem modCluster_hotSteps (d : Dev) (c : Nat) (g : Cluster → Cluster) : (modCluster d c g).hotSteps = d.hotSteps := rfl
@[simp] theorem modCluster_gated (d : Dev) (c : Nat) (g : Cluster → Cluster) : (modCluster d c g).gated = d.gated := rfl
@[simp] theorem modCluster_waking (d : Dev) (c : Nat) (g : Cluster → Cluster) : (modCluster d c g).waking = d.waking := rfl
@[simp] theorem modCluster_wakeQueue (d : Dev) (c : Nat) (g : Cluster → Cluster) : (modCluster d c g).wakeQueue = d.wakeQueue := rfl
@[simp] theorem modCluster_wearSaved (d : Dev) (c : Nat) (g : Cluster → Cluster) : (modCluster d c g).wearSaved = d.wearSaved := rfl
@[simp] theorem modCluster_swing (d : Dev) (c : Nat) (g : Cluster → Cluster) : (modCluster d c g).swing = d.swing := rfl
@[simp] theorem modCluster_readings (d : Dev) (c : Nat) (g : Cluster → Cluster) : (modCluster d c g).readings = d.readings := rfl
@[simp] theorem modCluster_traced (d : Dev) (c : Nat) (g : Cluster → Cluster) : (modCluster d c g).traced = d.traced := rfl

end Sys2Proof.Machine
end

