-- ==== Sys2Proof/Laws/Tile.lean ====
section
/-! SUPPORT. What issuing an instruction comes to: when nothing stops it, its own run; when a check fails, the fault. -/

namespace Sys2Proof.Machine

theorem Plan.issue_of_free {d : Dev} {x : Plan} (h : x.free = true) : x.issue d = .ran (x.run ()) := by
  simp only [Plan.free, Bool.and_eq_true, List.all_eq_true, Option.isNone_iff_eq_none, Bool.not_eq_true'] at h
  have hf : x.checks.find? (fun y => y.1) = none := by
    simp only [List.find?_eq_none]
    intro y hy; simp [h.1 y hy]
  simp [Plan.issue, hf, h.2]

/-- The parts of issuing. -/
theorem issuing_iff {s : State} {p c w : Nat} : issuing s p c w = true ↔
    s.dev.powerGood = true ∧ canIssue s.dev c = true ∧ asleep s.dev c = false ∧ partOf s.dev c = some p ∧
    fetchWord s.dev c = w ∧ (wWen w = true → 1 ≤ getF s.dev (F.mcEvt_count c (wWevt w))) ∧
    opcodeKnown (wOp w) = true ∧ unusedNonzero w = false := by
  simp only [issuing, Bool.and_eq_true, beq_iff_eq, Bool.not_eq_true', Bool.or_eq_true, decide_eq_true_eq, and_assoc]
  have : (wWen w = false ∨ 1 ≤ getF s.dev (F.mcEvt_count c (wWevt w))) ↔
      (wWen w = true → 1 ≤ getF s.dev (F.mcEvt_count c (wWevt w))) := by
    generalize getF s.dev (F.mcEvt_count c (wWevt w)) = z
    cases wWen w <;> simp
  rw [this]

/-- An instruction that nothing stops runs, its wen wait consumed. -/
theorem tileStep_of_free {s : State} {p c w op : Nat} {sel : Nat → Bool} {go : Nat → Nat → Nat → Dev → Plan}
    (hi : issuing s p c w = true) (ho : wOp w = op) (hs : sel w = true) (hf : (go p c w (takeWen s.dev c w)).free = true) :
    tileStep op sel go c s.dev = finishRun c w ((go p c w (takeWen s.dev c w)).run ()) := by
  obtain ⟨-, hc, ha, hp, rfl, hw, hk, hu⟩ := issuing_iff.1 hi
  have hw' : (wWen (fetchWord s.dev c) && getF s.dev (F.mcEvt_count c (wWevt (fetchWord s.dev c))) == 0) = false := by
    generalize getF s.dev (F.mcEvt_count c (wWevt (fetchWord s.dev c))) = z at hw ⊢
    cases h : wWen (fetchWord s.dev c)
    · rfl
    · have := hw h; simp; omega
  simp only [tileStep, hc, ha, if_true, ho, hs, beq_self_eq_true, Bool.and_self, Bool.or_true, issueWord, hp, hw',
    Bool.false_eq_true, if_false]
  simp [headFaults, hk, hu, Plan.issue_of_free hf, finishIssue]

/-- A command that only changes the module, with the rails on. -/
theorem onDev_of_good {s : State} {f : Dev → Dev} (h : s.dev.powerGood = true) : onDev f s = { s with dev := f s.dev } := by
  simp [onDev, h, withDev]

theorem onMal_of_good {s : State} {f : Dev → Dev} (h : s.dev.powerGood = true) :
    onMal f s = flushAudit { s with dev := f s.dev } := by simp [onMal, h, withAudit, withDev]

theorem onSec_of_good {s : State} {f : State → State} (h : s.dev.powerGood = true) : onSec f s = f s := by simp [onSec, h]

theorem issuing_good {s : State} {p c w : Nat} (h : issuing s p c w = true) : s.dev.powerGood = true := (issuing_iff.1 h).1

/-- A run of a tile row, as exec answers it. -/
theorem onDev_tileStep {s : State} {p c w op : Nat} {sel : Nat → Bool} {go : Nat → Nat → Nat → Dev → Plan}
    (hi : issuing s p c w = true) (ho : wOp w = op) (hs : sel w = true) (hf : (go p c w (takeWen s.dev c w)).free = true) :
    onDev (tileStep op sel go c) s = { s with dev := finishRun c w ((go p c w (takeWen s.dev c w)).run ()) } := by
  rw [onDev_of_good (issuing_good hi), tileStep_of_free hi ho hs hf]

end Sys2Proof.Machine
end

