-- ==== Sys2Proof/Laws/Ops.lean ====
section
/-! SUPPORT. The shared operations: each keeps memory in its canonical form, and what each leaves alone. -/

namespace Sys2Proof.Machine

/-! Lists of changes -/

/-- What every change of a list keeps, the list keeps. -/
theorem forEach_keeps {α : Type} {P : Dev → Prop} {g : Dev → α → Dev} (hg : ∀ d a, P d → P (g d a)) (l : List α) (d : Dev)
    (h : P d) : P (forEach l d g) := by
  induction l generalizing d with
  | nil => exact h
  | cons a r ih => exact ih (g d a) (hg d a h)

/-- A part of the state that no change of a list changes. -/
theorem forEach_same {α β : Type} (v : Dev → β) {g : Dev → α → Dev} (hg : ∀ d a, v (g d a) = v d) (l : List α) (d : Dev) :
    v (forEach l d g) = v d := by
  induction l generalizing d with
  | nil => rfl
  | cons a r ih => exact (ih (g d a)).trans (hg d a)

/-! Registers, interrupts and events leave memory alone -/

@[simp] theorem addF_mem (d : Dev) (k : FKey) (n : Nat) : (addF d k n).mem = d.mem := rfl
@[simp] theorem satF_mem (d : Dev) (k : FKey) (n : Nat) : (satF d k n).mem = d.mem := rfl
@[simp] theorem sendMsi_mem (d : Dev) (p : Nat) (r : Reg) : (sendMsi d p r).mem = d.mem := rfl
@[simp] theorem setNonfin_mem (d : Dev) (p : Nat) : (setNonfin d p).mem = d.mem := rfl
@[simp] theorem setDataFault_mem (d : Dev) (p : Nat) : (setDataFault d p).mem = d.mem := rfl
@[simp] theorem evPost_mem (d : Dev) (c e k : Nat) : (evPost d c e k).mem = d.mem := rfl
@[simp] theorem evSub_mem (d : Dev) (c e k : Nat) : (evSub d c e k).mem = d.mem := rfl
@[simp] theorem setPage_mem (d : Dev) (p : Nat) (w : Tier) (v : Nat) (x : Page) : (setPage d p w v x).mem = d.mem := rfl
@[simp] theorem cancelEviction_mem (d : Dev) (k : PageKey) : (cancelEviction d k).mem = d.mem := rfl
@[simp] theorem report_mem (d : Dev) (r : Report) : (report d r).mem = d.mem := rfl
@[simp] theorem moduleFault_mem (d : Dev) (u : FaultUnit) : (moduleFault d u).mem = d.mem := rfl

@[simp] theorem raise_mem (d : Dev) (p : Option Nat) (irq en : FKey) : (raise d p irq en).mem = d.mem := by
  unfold raise; split
  · simp only; split <;> rfl
  · rfl

@[simp] theorem noteProtHit_mem (d : Dev) (c : Nat) : (noteProtHit d c).mem = d.mem := by simp [noteProtHit]
@[simp] theorem noteNonOwner_mem (d : Dev) (c : Nat) : (noteNonOwner d c).mem = d.mem := rfl

@[simp] theorem evAdd_mem (d : Dev) (c e k : Nat) : (evAdd d c e k).mem = d.mem := by
  unfold evAdd; simp only; split <;> simp

@[simp] theorem signal_mem (d : Dev) (c : Nat) (x : Option Nat) : (signal d c x).mem = d.mem := by
  unfold signal; split <;> simp

@[simp] theorem postMask_mem (d : Dev) (m e : Nat) : (postMask d m e).mem = d.mem :=
  forEach_same (g := fun d c => evPost d c e 1) Dev.mem (fun _ _ => rfl) _ d

@[simp] theorem requestWake_mem (d : Dev) (x : GatedUnit) : (requestWake d x).mem = d.mem := by
  unfold requestWake; simp only; split
  · rfl
  · split <;> rfl

@[simp] theorem ungate_mem (d : Dev) (x : GatedUnit) : (ungate d x).mem = d.mem := rfl

@[simp] theorem reachUnit_mem (d : Dev) (x : GatedUnit) : (reachUnit d x).mem = d.mem := by
  unfold reachUnit; split
  · rfl
  · split <;> simp

@[simp] theorem reachCluster_mem (d : Dev) (c : Nat) : (reachCluster d c).mem = d.mem := reachUnit_mem _ _

/-- Units on the way to a range wake, and no byte changes. -/
@[simp] theorem reachRange_mem (d : Dev) (p a n : Nat) : (reachRange d p a n).mem = d.mem :=
  forEach_same Dev.mem reachUnit_mem _ d

/-- Reading a range changes no byte. -/
@[simp] theorem noteRead_mem (d : Dev) (p a n : Nat) : (noteRead d p a n).mem = d.mem := by
  refine (forEach_same Dev.mem (fun d wv => ?_) _ (reachRange d p a n)).trans (reachRange_mem d p a n)
  split
  · split <;> simp
  · rfl

/-- What a write notes in the pages' records changes no byte. -/
@[simp] theorem noteWrite_mem (d : Dev) (p a n : Nat) : (noteWrite d p a n).mem = d.mem := by
  refine (forEach_same Dev.mem (fun d wv => ?_) _ (reachRange d p a n)).trans (reachRange_mem d p a n)
  split
  · split <;> simp
  · rfl

@[simp] theorem deniedWrite_mem (d : Dev) (p c : Nat) : (deniedWrite d p c).mem = d.mem := by simp [deniedWrite]

@[simp] theorem accessError_mem (d : Dev) (who : Agent) : (accessError d who).mem = d.mem := by
  unfold accessError; cases who <;> rfl

@[simp] theorem foreignAccess_mem (d : Dev) (who : Agent) (c : Nat) : (foreignAccess d who c).mem = d.mem := by
  simp [foreignAccess]

@[simp] theorem protectedWrite_mem (d : Dev) (who : Agent) (c : Nat) : (protectedWrite d who c).mem = d.mem := by
  simp [protectedWrite]

/-! Writes to memory keep the canonical form -/

theorem Memory.wf_stagePut {d : Dev} (u i off : Nat) (b : Byte) (h : Memory.wf d.mem = true) :
    Memory.wf (stagePut d u i off b).mem = true := by
  unfold stagePut; simp only; split
  · exact h
  · exact Memory.wf_memPut _ _ h

/-- A byte written to the view. -/
theorem Memory.wf_viewPut {d : Dev} (p a : Nat) (b : Byte) (h : Memory.wf d.mem = true) :
    Memory.wf (viewPut d p a b).mem = true := by
  unfold viewPut; split
  · exact h
  · split
    · exact Memory.wf_stagePut _ _ _ b h
    · split
      · exact Memory.wf_memPut _ _ h
      · exact h

theorem Memory.wf_viewPutList {d : Dev} (p a : Nat) (l : List Byte) (h : Memory.wf d.mem = true) :
    Memory.wf (viewPutList d p a l).mem = true := by
  induction l generalizing d a with
  | nil => exact h
  | cons b r ih => exact ih (a + 1) (Memory.wf_viewPut p a b h)

theorem Memory.wf_viewWrite {d : Dev} (p a : Nat) (l : List Byte) (h : Memory.wf d.mem = true) :
    Memory.wf (viewWrite d p a l).mem = true := by
  simpa [viewWrite] using Memory.wf_viewPutList p a l h

theorem Memory.wf_viewWriteNat {d : Dev} (p a n v : Nat) (h : Memory.wf d.mem = true) :
    Memory.wf (viewWriteNat d p a n v).mem = true := Memory.wf_viewWrite p a _ h

/-- A byte written by an instruction, a mover or an engine. -/
theorem Memory.wf_agentPut {d : Dev} (p a : Nat) (b : Byte) (h : Memory.wf d.mem = true) :
    Memory.wf (agentPut d p a b).mem = true := by
  unfold agentPut; split
  · split
    · exact h
    · exact Memory.wf_viewPut p a b h
  · split
    · exact h
    · exact Memory.wf_memPut _ _ h
  · split
    · exact h
    · exact Memory.wf_memPut _ _ h
  · exact Memory.wf_viewPut p a b h

theorem Memory.wf_putLine {d : Dev} (p : Nat) (t : Desc) (n y : Nat) (l : List Byte) (h : Memory.wf d.mem = true) :
    Memory.wf (putLine d p t n y l).mem = true := by
  induction l generalizing d y with
  | nil => exact h
  | cons b r ih => exact ih (y + 1) (Memory.wf_agentPut p _ b h)

/-- An element written to a tile. -/
theorem Memory.wf_tilePut {d : Dev} (p : Nat) (t : Desc) (r c code : Nat) (h : Memory.wf d.mem = true) :
    Memory.wf (tilePut d p t r c code).mem = true := Memory.wf_putLine p t _ _ _ h

theorem Memory.wf_applyBytes {m : List Host.Cell} (f : Byte → Byte → Byte) (k : Nat) (data : Word) (be : BitVec 8) (n : Nat)
    (h : Memory.wf m = true) : Memory.wf (applyBytes f m k data be n) = true := by
  induction n with
  | zero => exact h
  | succ n ih =>
    simp only [applyBytes]; split
    · exact Memory.wf_memPut _ _ ih
    · exact ih

theorem Memory.wf_zeroFrame {d : Dev} (t : Tier) (f : Nat) (h : Memory.wf d.mem = true) :
    Memory.wf (zeroFrame d t f).mem = true := Memory.wf_memZero _ _ h

theorem Memory.wf_copyFrame {d : Dev} (t : Tier) (f : Nat) (t' : Tier) (f' : Nat) (h : Memory.wf d.mem = true) :
    Memory.wf (copyFrame d t f t' f').mem = true := Memory.wf_memLoad _ _ _ h

theorem Memory.wf_guardedPut {d : Dev} (p a : Nat) (l : List Byte) (h : Memory.wf d.mem = true) :
    Memory.wf (guardedPut d p a l).mem = true := by
  unfold guardedPut; split
  · exact Memory.wf_viewWrite p a l h
  · rw [forEach_same Dev.mem (fun d c => deniedWrite_mem d p c)]; exact h

theorem Memory.wf_engineWrite {d : Dev} (p a : Nat) (l : List Byte) (h : Memory.wf d.mem = true) :
    Memory.wf (engineWrite d p a l).mem = true := by
  simp only [engineWrite, noteWrite_mem]
  rw [forEach_same Dev.mem (fun d c => deniedWrite_mem d p c)]
  generalize l.zipIdx = k
  induction k generalizing d with
  | nil => exact h
  | cons x r ih => exact ih (Memory.wf_agentPut p _ x.1 h)

/-- An alias write, byte by byte: an enabled byte by the function, every other byte as before (R220). -/
theorem memGet_applyBytes {m : List Host.Cell} (f : Byte → Byte → Byte) (k : Nat) (data : Word) (be : BitVec 8) (n j : Nat)
    (h : Memory.wf m = true) : memGet (applyBytes f m k data be n) j =
      if k ≤ j ∧ j < k + n ∧ be.getLsbD (j - k) = true then f (memGet m j) (BitVec.ofNat 8 (data.toNat / 256 ^ (j - k)))
      else memGet m j := by
  induction n with
  | zero => simp only [applyBytes]; rw [if_neg (by omega)]
  | succ n ih =>
    have hw := Memory.wf_applyBytes f k data be n h
    simp only [applyBytes]
    by_cases hb : be.getLsbD n = true
    · rw [if_pos hb, memGet_memPut _ _ _ hw, ih]
      by_cases hj : j = k + n
      · subst hj
        rw [ih]
        simp [hb]
      · rw [if_neg hj]
        by_cases hc : k ≤ j ∧ j < k + n ∧ be.getLsbD (j - k) = true
        · rw [if_pos hc, if_pos ⟨hc.1, by omega, hc.2.2⟩]
        · rw [if_neg hc, if_neg (fun x => hc ⟨x.1, by omega, x.2.2⟩)]
    · rw [if_neg hb, ih]
      by_cases hc : k ≤ j ∧ j < k + n ∧ be.getLsbD (j - k) = true
      · rw [if_pos hc, if_pos ⟨hc.1, by omega, hc.2.2⟩]
      · rw [if_neg hc, if_neg]
        rintro ⟨h1, h2, h3⟩
        by_cases hj : j = k + n
        · subst hj; simp at h3; simp [h3] at hb
        · exact hc ⟨h1, by omega, h3⟩

/-! Commands -/

/-- A command on the module touches neither the queue nor the security store. -/
@[simp] theorem onDev_pending (f : Dev → Dev) (s : State) : (onDev f s).pending = s.pending := by unfold onDev; split <;> rfl
@[simp] theorem onDev_sec (f : Dev → Dev) (s : State) : (onDev f s).sec = s.sec := by unfold onDev; split <;> rfl

/-- A command does nothing while the rails are down. -/
theorem onDev_of_off {s : State} (f : Dev → Dev) (h : s.dev.powerGood = false) : onDev f s = s := by simp [onDev, h]
theorem onMal_of_off {s : State} (f : Dev → Dev) (h : s.dev.powerGood = false) : onMal f s = s := by simp [onMal, h]
theorem onSec_of_off {s : State} (f : State → State) (h : s.dev.powerGood = false) : onSec f s = s := by simp [onSec, h]

end Sys2Proof.Machine
end

