-- ==== Sys2Proof/WellFormed.lean ====
section
/-! DEFINITION. Well-formed commands: operands in the ranges the manual gives what they name. A command that is not well formed still
has a meaning; these are the commands the outside can send. -/

namespace Sys2Proof

/-- A bit column of a 576-bit word (R221), where one is named. -/
def Found.wf : Found → Bool
  | .correctable bit => decide (bit < 576)
  | _ => true

/-- Bank, row, bit and word column of Table 9.10. -/
def MarchFail.wf (f : MarchFail) : Bool := decide (f.bank < 32 ∧ f.row < 1024 ∧ f.col < 32 ∧ f.bit < 576)

/-- A page of a window, or a frame of a tier (R229, R230). -/
def pageWf (t : Tier) (v : Nat) : Bool :=
  match t with
  | .hbm => decide (v < 655360)
  | .cellar => decide (v < 507904)

/-- Granules of a frame: 2 KiB in HBM, 32 KiB in the cellar (R229). -/
def granuleWf (t : Tier) (g : Nat) : Bool :=
  match t with
  | .hbm => decide (g < 1024)
  | .cellar => decide (g < 64)

/-- Readings that fit PWR_METER (Table 15.11). -/
def meterWf (watts centivolts centiamps : Nat) : Bool := decide (watts < 2 ^ 16 ∧ centivolts < 2 ^ 16 ∧ centiamps < 2 ^ 16)

/-- A memory unit of Table 15.2: sixteen stacks of 32 pseudo-channels, sixteen packages of four channels (R226). -/
def GatedUnit.wf : GatedUnit → Bool
  | .hbmChannel s c => decide (s < 16 ∧ c < 32)
  | .cellarChannel k c => decide (k < 16 ∧ c < 4)
  | .hbmStack s => decide (s < 16)
  | .cellarPackage k => decide (k < 16)
  | .hart h => decide (h < 16)
  | _ => true

/-- A datagram fits a service port's frames (R387). -/
def ServicePacket.wf : ServicePacket → Bool
  | .udp _ _ l => decide (l.length ≤ 8952)
  | _ => true

/-- Well-formed commands. -/
def Instr.wf : Instr → Bool
  | .kilnBankScrub _ f => f.wf
  | .stagingSlotWrite _ k o l => decide (k < 128 ∧ o + l.length ≤ 0x10000)
  | .bankRequestBoost _ _ r _ => decide (1 ≤ r ∧ r ≤ 7)
  | .bankScrub _ _ _ f => f.wf
  | .mma _ l => l.all (fun x => x.found.wf)
  | .marchComplete _ l m _ => l.all MarchFail.wf && m.all (fun x => x.found.wf)
  | .demandFaultIn _ v => decide (v < 655360)
  | .pageMoveComplete _ t v => pageWf t v
  | .pagePoison _ t v _ _ => pageWf t v
  | .pageRefillComplete _ t v => pageWf t v
  | .refillTimeout _ t v => pageWf t v
  | .patrolScrub t f l => pageWf t f && l.all (fun x => granuleWf t x.granule)
  | .dramRowRepair t f _ g _ => pageWf t f && granuleWf t g
  | .dataFlitReceive _ l => l.length == 256
  | .controlFlitReceive _ l _ => l.length == 256
  | .dataSlot _ k => decide (1 ≤ k ∧ k ≤ 24)
  | .mgtDatagram l _ _ _ _ _ => decide (l.length ≤ 65507)
  | .recoveryDatagram l _ _ _ => decide (8 ≤ l.length ∧ l.length ≤ 1032)
  | .sensorSample l => l.length == 78
  | .capLoopStep w v a => meterWf w v a
  | .rowAdmissionStep w v a => meterWf w v a
  | .currentLimit w v a => meterWf w v a
  | .powerGateEntry x => x.wf
  | .unitWake x => x.wf
  | .servicePacketReceive _ m => m.wf
  | .fruRead _ k => decide (1 ≤ k)
  | .samplePreload l m => l.length == 9 && m.length == 14
  | .extest l => l.length == 14
  | .hostAccess _ _ w _ f _ => decide (1 ≤ w) && f.wf
  | .nop _ | .halt _ | .br _ | .loop _ | .gset _ | .gadd _ | .gld _ | .anset _ | .evwait _ | .evwaitPass _ | .evadd _
  | .evpost _ | .eventCounterChange _ | .barClusterSet _ | .barPartition _ | .localBarrierComplete _ _ | .barSlice _
  | .ftcwait _ | .ftcTargetReached _ | .rouse _ | .dwqflush _ | .fence _ | .mmwg _ | .deferredEntryRun _ | .gram _
  | .matrixInstructionComplete _ | .tdld _ | .tdbase _ | .tdadd _ | .tdshape _ | .mov _ | .moverOpComplete _ _ | .adrn _
  | .afill _ | .azero _ | .aadd _ | .atomicWindowAdd _ _ _ | .amax _ | .amaxSlice _ | .fpost _ | .vadd _ | .vmul _ | .vfma _
  | .vfmas _ | .vcmp _ | .vsel _ | .vmin _ | .vmax _ | .vcvt _ | .vmask _ | .vcompress _ | .vexpand _ | .vrng _ | .vseq _
  | .vredmax _ | .vredmin _ | .vnonfin _ | .vectorOpComplete _ _ | .start _ _ _ | .stop _ _ | .stopComplete _
  | .accQueryWrite _ _ _ | .registerWrite _ _ _ | .rowRetry _ _ | .rouseHoldExpiry _ | .rampStep _ | .flagCheckRelease _
  | .nflagWrite _ _ | .kilnRingEnable _ _ | .kilnRingDisable _ _ | .kilnJobPickup _ | .kilnJobStart _ | .init _ _
  | .fold _ _ | .root _ _ _ _ | .chol _ _ | .ldlt _ _ | .solve _ _ _ | .foldOutcomeAvailable _ _ | .kilnJobResolve _ _
  | .kilnDeadlineCommit _ _ | .kilnAttemptRestart _ _ _ | .sweepStart _ _ | .sweepStop _ _ | .blockHandout _ _
  | .momentPhase _ _ | .weightPhase _ | .layerComplete _ _ | .rackPhaseRetry _ _ _ | .replicaCheck _ _ | .ownerDigestCheck _ _ _
  | .handoverRequest _ _ _ _ | .handoverComplete _ _ | .aliasWriteSet _ _ _ _ | .aliasWriteClear _ _ _ _
  | .marchDestructive _ _ _ | .marchPreserving _ _ _ | .bankRepair _ _ _ | .moverRingEnable _ _ | .moverRingDisable _ _
  | .moverEntryPickup _ | .prefetch _ _ | .evict _ _ | .pin _ _ | .unpin _ _ | .setsrc _ _ | .moverEntryResolve _ _
  | .poolEviction _ | .buddySnapshot _ _ | .drawSnapshot _ _ | .snapshotAbort _ _ | .snapshotComplete _
  | .buddyGenerationComplete _ _ _ | .buddyAck _ | .buddyRegionEnable _ _ | .laneFailure _ _ | .fastRetrainComplete _ _
  | .fullTrainingComplete _ _ | .ident _ | .arrive _ | .release _ | .channelReleaseReached _ _ | .fault _
  | .channelTimeout _ _ | .drainArrive _ | .coll _ _ | .abort _ _ | .write _ _ | .read _ _ | .resp _ _ | .ringpassStep _ _
  | .collectiveResolve _ _ | .ftcRateAdjust | .ftcLockLoss | .ftcPpsEdge _ | .mailboxPickup _ | .mailboxBusyWrite _ _ _ _
  | .identity _ | .stageOpen _ | .stageWrite _ | .stageCheck _ | .stageCommit _ | .stageAbort _ | .commitInstant _
  | .stageSetLapse _ | .pageMap _ | .pageUnmap _ | .pageAttr _ | .poolQuery _ | .sliceFormPrepare _ | .sliceFormCommit _
  | .sliceFormCancel _ | .formationInstant _ | .formationRelease _ | .formationTimeout _ | .preparationLapse _
  | .sliceDissolve _ | .dissolutionInstant _ | .draw _ | .portTrain _ | .attest _ | .signed _ | .keyRotation _
  | .fwInstall _ | .auditRead _ | .diagOpen _ | .diagExpiry | .fuseProgram _ | .telRead _ | .heartbeat _ | .auditSeal
  | .watchdogExpiry | .maltsterRestart | .boot | .modResetAssert | .modResetRelease | .standbyRestore | .standbyLoss
  | .inputFault _ | .thermalTrip _ _ | .thermalLoopStep | .clockStep | .backgroundForced _ _ | .wearSave | .traceEntry _
  | .traceEnable _ _ | .svcRingEnable _ _ _ _ | .svcRingDisable _ _ _ _ | .send _ _ | .sendWithImmediate _ _
  | .rdmaWrite _ _ | .rdmaWriteWithImmediate _ _ | .rdmaRead _ _ | .udp _ _ | .workEntryComplete _ _ _ _ | .bypass | .idcode
  | .clamp | .highz | .partnerFirstSignal _ | .replicaCheckComplete _ | .registerReadClear _ _ | .pageAgeSample
  | .mgtLinkChange _ _ _ => true

end Sys2Proof
end

