-- ==== Sys2Proof/Tests/Slice0.lean ====
section
/-! SUPPORT. Tests: commands that are not well formed are refused by the check; small states that meet the hypotheses of each statement, and
what single commands do there, by the manual's tables. -/

namespace Sys2Proof.Tests

set_option Elab.async false

open Sys2Proof.Machine

/-! ## Small states -/

/-- A word with fields of given values at given low bits. -/
def word (l : List (Nat × Nat)) : Nat := l.foldl (fun a x => a + x.2 * 2 ^ x.1) 0

/-- The module after reset with some fields set. -/
def withF (f : Tab FKey Nat) : State := { State.reset with dev := { State.reset.dev with f := f } }

/-- Cluster 0 is partition 0's and runs a program of 8 words from scratchpad offset 0; banks 0 and 1 are its own. -/
def running : Tab FKey Nat :=
  [(F.hostPcfg_clusters 0, 1), (F.mcSeqStatus_state 0, 1), (F.mcSeqLen_len 0, 8), (F.bankOwner_owner 0 0, 1),
   (F.bankOwner_owner 0 1, 1)]

/-- The running cluster with word w next, further fields and what the cluster holds. -/
def atWord (w : Nat) (f : Tab FKey Nat := []) (x : Cluster := Cluster.idle) : State :=
  { State.reset with dev := { State.reset.dev with
      f := f ++ running, mem := memPutList [] (spadBase 0) (leBytes 16 w), cl := [(0, x)] } }

/-- A fact about the next state. -/
def after (o : Host.Outcome State Fault Refusal) (q : State → Bool) : Bool :=
  match o with
  | .next t => q t
  | _ => false

/-! ## Well-formedness -/

theorem test_wf_kilnBankScrub : (Instr.kilnBankScrub 0 (.correctable 576)).wf = false := by decide
theorem test_wf_bankScrub : (Instr.bankScrub 0 0 0 (.correctable 576)).wf = false := by decide
theorem test_wf_stagingSlotWrite : (Instr.stagingSlotWrite 0 128 0 []).wf = false ∧ (Instr.stagingSlotWrite 0 0 0x10000 [0]).wf = false := by
  decide
theorem test_wf_bankRequestBoost : (Instr.bankRequestBoost 0 0 0 false).wf = false ∧ (Instr.bankRequestBoost 0 0 8 false).wf = false := by
  decide
theorem test_wf_marchComplete : (Instr.marchComplete 0 [⟨32, 0, 0, 0⟩] [] 0).wf = false ∧ (Instr.marchComplete 0 [⟨0, 1024, 0, 0⟩] [] 0).wf = false ∧
    (Instr.marchComplete 0 [⟨0, 0, 32, 0⟩] [] 0).wf = false ∧ (Instr.marchComplete 0 [⟨0, 0, 0, 576⟩] [] 0).wf = false ∧
    (Instr.marchComplete 0 [] [⟨0, 0, 0, .correctable 576⟩] 0).wf = false ∧ (Instr.mma 0 [⟨0, 0, 0, .correctable 576⟩]).wf = false := by decide
theorem test_wf_demandFaultIn : (Instr.demandFaultIn 0 655360).wf = false := by decide
theorem test_wf_pages : (Instr.pageMoveComplete 0 .hbm 655360).wf = false ∧ (Instr.pagePoison 0 .cellar 507904 0 0).wf = false ∧
    (Instr.pageRefillComplete 0 .cellar 507904).wf = false ∧ (Instr.refillTimeout 0 .hbm 655360).wf = false := by decide
theorem test_wf_frames : (Instr.patrolScrub .hbm 655360 []).wf = false ∧ (Instr.dramRowRepair .cellar 507904 true 0 0).wf = false ∧
    (Instr.patrolScrub .cellar 0 [⟨64, 0, .uncorrectable⟩]).wf = false ∧ (Instr.dramRowRepair .hbm 0 true 1024 0).wf = false := by
  decide
theorem test_wf_flits : (Instr.dataFlitReceive 0 []).wf = false ∧ (Instr.controlFlitReceive 0 [] 0).wf = false := by decide
theorem test_wf_dataSlot : (Instr.dataSlot 0 0).wf = false ∧ (Instr.dataSlot 0 25).wf = false := by decide
theorem test_wf_recoveryDatagram : (Instr.recoveryDatagram (List.replicate 7 0) 0 0 0).wf = false := by decide
theorem test_wf_sensorSample : (Instr.sensorSample []).wf = false := by decide
theorem test_wf_meters : (Instr.capLoopStep 65536 0 0).wf = false ∧ (Instr.rowAdmissionStep 0 65536 0).wf = false ∧
    (Instr.currentLimit 0 0 65536).wf = false := by decide
theorem test_wf_gatedUnits : (Instr.powerGateEntry (.hbmChannel 16 0)).wf = false ∧ (Instr.unitWake (.cellarChannel 0 4)).wf = false ∧
    (Instr.unitWake (.hbmStack 16)).wf = false ∧ (Instr.unitWake (.cellarPackage 16)).wf = false ∧
    (Instr.powerGateEntry (.hart 16)).wf = false := by decide
theorem test_wf_fruRead : (Instr.fruRead 0 0).wf = false := by decide
theorem test_wf_boundaryScan : (Instr.samplePreload [] []).wf = false ∧ (Instr.extest []).wf = false := by decide
theorem test_wf_hostAccess : (Instr.hostAccess 0 0 0 none .clean 0).wf = false ∧ (Instr.hostAccess 0 0 8 none (.correctable 576) 0).wf = false ∧
    (Instr.hostAccess 0 0 9 none .clean 0).wf = true ∧ (Instr.servicePacketReceive 0 (.udp 0 0 (List.replicate 8953 0))).wf = false := by
  decide +kernel
theorem test_wf_datagrams : (Instr.mgtDatagram (List.replicate 8 0) 0 0 17440 0 true).wf = true ∧
    (Instr.recoveryDatagram (List.replicate 8 0) 0 0 0).wf = true ∧ (Instr.mgtDatagram (List.replicate 65508 0) 0 0 0 0 true).wf = false := by
  decide +kernel
theorem test_wf_tile : (Instr.gset 27).wf = true := by decide

/-! ## The sequencer -/

theorem test_stepRunsFrontCommand : ∃ s : State, s.pending = [.boot] ∧ step s = exec .boot { s with pending := [] } :=
  ⟨{ State.reset with pending := [.boot] }, rfl, rfl⟩

theorem test_timeCounter : State.reset.pending = [] ∧ State.reset.dev.powerGood = true ∧ State.reset.dev.slew = 0 ∧
    0 ≤ State.reset.dev.frac ∧ State.reset.dev.frac < slewTick ∧
    after (step State.reset) (fun t => getF t.dev F.fabFtc_ftc == 1) = true := by decide +kernel

/-- A module that is not the root, with 64 offsets of a given sum. -/
def offsets (sum : Int) (locked : Nat) : State :=
  { State.reset with dev := { State.reset.dev with
      f := [(F.fabFtcStat_parent, 3), (F.fabFtcStat_locked, locked)], offSum := sum, offCount := 64 } }

theorem test_ftcRateAdjust_lock : flag (offsets 512 0).dev F.fabFtcCfg_root = false ∧ 64 ≤ (offsets 512 0).dev.offCount ∧
    getF (offsets 512 0).dev F.fabFtcStat_parent ≠ 0xF ∧ (512 : Int) ≤ 8 * (64 : Nat) ∧ -8 * ((64 : Nat) : Int) ≤ 512 ∧
    flag (withF [(F.fabFtcCfg_root, 1)]).dev F.fabFtcCfg_root = true ∧
    after (exec .ftcRateAdjust (offsets 512 0)) (fun t => getF t.dev F.fabFtcStat_locked == 1 && getF t.dev F.fabFtcStat_offset == 8) = true ∧
    after (exec .ftcRateAdjust (offsets (-512) 0)) (fun t => getF t.dev F.fabFtcStat_locked == 1) = true := by decide
theorem test_ftcRateAdjust_lose : flag (offsets 576 1).dev F.fabFtcStat_locked = true ∧
    after (exec .ftcRateAdjust (offsets 576 1)) (fun t => getF t.dev F.fabFtcStat_locked == 0 && t.dev.slew == 5760000) = true ∧
    after (exec .ftcRateAdjust (offsets (-576) 1)) (fun t => getF t.dev F.fabFtcStat_locked == 0) = true := by decide +kernel
theorem test_ftcRateAdjust_jump : inAnySlice (offsets 4096 0).dev = false ∧ flag (offsets 4096 0).dev F.fabFtcStat_locked = false ∧
    after (exec .ftcRateAdjust (offsets 4096 0)) (fun t => getF t.dev F.fabFtc_ftc == 1 && t.dev.slew == 0) = true := by decide +kernel
theorem test_ftcLockLoss : flag (offsets 0 1).dev F.fabFtcStat_locked = true ∧ flag (offsets 0 0).dev F.fabFtcStat_locked = false ∧
    after (exec .ftcLockLoss (offsets 0 1)) (fun t => getF t.dev F.fabFtcStat_locked == 0) = true := by decide

/-- The root takes its time from FTC_PPS, the edge due 5 ticks into each second. -/
def ppsRoot : State := withF [(F.fabFtcCfg_root, 1), (F.fabFtcCfg_pps_en, 1), (F.fabFtcCfg_pps_offset, 5)]

theorem test_ftcPpsEdge : flag ppsRoot.dev F.fabFtcCfg_root = true ∧ flag ppsRoot.dev F.fabFtcCfg_pps_en = true ∧
    ppsRoot.dev.ppsRef = none ∧ getF ppsRoot.dev F.fabFtc_ftc ≤ 3 ∧ flag ppsRoot.dev F.fabFtcStat_locked = false ∧
    inAnySlice ppsRoot.dev = false ∧ ppsRoot.dev.powerGood = true ∧
    after (exec (.ftcPpsEdge 5) ppsRoot) (fun t => getF t.dev F.fabFtc_ftc == 5 && getF t.dev F.fabFtcStat_locked == 1) = true ∧
    after (exec (.ftcPpsEdge 3) ppsRoot) (fun t => getF t.dev F.fabFtc_ftc == 5 && getF t.dev F.fabFtcStat_locked == 0) = true := by
  decide +kernel
/-- The root after its first aligned edge, with as many edges ignored since as given. -/
def aligned (n : Nat) : State :=
  let s := withF [(F.fabFtcCfg_root, 1), (F.fabFtcCfg_pps_en, 1), (F.fabFtcCfg_pps_offset, 5), (F.fabFtcStat_locked, 1)]
  { s with dev := { s.dev with ppsRef := some 5, ppsIgnored := n } }
theorem test_ftcPpsEdge_later : flag (aligned 0).dev F.fabFtcStat_locked = true ∧
    after (exec (.ftcPpsEdge 3) (aligned 0)) (fun t => getF t.dev F.fabFtc_ftc == 3 && t.dev.slew == 2 * slewTick) = true ∧
    after (exec (.ftcPpsEdge 3005) (aligned 6)) (fun t => t.dev.ppsIgnored == 7 && getF t.dev F.fabFtcStat_locked == 1) = true ∧
    after (exec (.ftcPpsEdge 3005) (aligned 7)) (fun t => t.dev.ppsIgnored == 0 && getF t.dev F.fabFtcStat_locked == 0) = true := by
  decide +kernel

theorem test_memory : Memory.wf [(3, (1 : Byte))] = true ∧ memGet (memPut [(3, 1)] 3 0) 3 = 0 ∧ memPut [(3, 1)] 3 0 = [] := by decide

/-- GSET G3, 77 with sen = 1, sevt = 2. -/
def gsetWord : Nat := word [(0, 4), (13, 1), (14, 2), (20, 3), (64, 77)]

theorem test_gset : issuing (atWord gsetWord) 0 0 gsetWord = true ∧ wOp gsetWord = 4 ∧
    after (exec (.gset 0) (atWord gsetWord)) (fun t => getF t.dev (F.mcG_value 0 3) == 77 && pcOf t.dev 0 == 1 &&
      getF t.dev (F.mcEvt_count 0 2) == 1) = true := by decide
theorem test_issueAdvances : (clusterOf (atWord 0).dev 0).loops = [] ∧ (clusterOf (atWord 0).dev 0).waiting = none ∧
    (clusterOf (atWord 0).dev 0).pend = none ∧ pcOf (atWord 0).dev 0 + 1 < getF (atWord 0).dev (F.mcSeqLen_len 0) ∧
    getF (atWord 0).dev (F.mcSeqLen_len 0) ≤ 2 ^ 22 ∧ wSen gsetWord = true ∧ getF (atWord 0).dev (F.mcEvt_count 0 (wSevt gsetWord)) < 65535 ∧
    getF (atWord 0).dev (F.mcEvt_count 0 (wWevt gsetWord)) ≤ 65535 := by decide
theorem test_issueAdvances_placed : let s := atWord (word [(0, 0x10)]) [(F.pwrMode_mode, 3)]
    partOf s.dev 0 = some 0 ∧ isRef s.dev 0 = true ∧ reduces (word [(0, 0x10)]) = true ∧ reduces 0 = false ∧
    (finishRun 0 (word [(0, 0x10)]) (.queued s.dev)).placed = [(0, [⟨0, 0, 0x10⟩])] := by decide
theorem test_issueAdvances_end : let s := atWord 0 [(F.mcSeqPc_pc 0, 7)]
    let u := atWord 0 [(F.mcSeqPc_pc 0, 7)] { Cluster.idle with jobs := [⟨.array, none, [], false, [], [], false, none, [], none, none⟩] }
    1 ≤ getF s.dev (F.mcSeqLen_len 0) ∧ getF s.dev (F.mcSeqLen_len 0) ≤ (loopNext (pcOf s.dev 0 + 1) []).1 ∧ drained s.dev 0 = true ∧
    drained u.dev 0 = false ∧ flag s.dev (F.mcLend_enable 0) = false ∧ seqState (finishRun 0 0 (.done s.dev)) 0 = 5 ∧
    (clusterOf (finishRun 0 0 (.done u.dev)) 0).pend = some ⟨cPcRange, 7, false⟩ := by decide
theorem test_loopBackEdge : (⟨2, 4, 3⟩ : LoopRec).stop = 4 ∧ loopNext 4 [⟨2, 4, 3⟩] = (2, [⟨2, 4, 2⟩]) ∧ loopNext 4 [⟨2, 4, 1⟩] = (4, []) := by
  decide
theorem test_nop : issuing (atWord 0) 0 0 0 = true ∧ wOp 0 = 0 := by decide
theorem test_gadd : let w := word [(0, 5), (20, 1), (24, 1), (64, 2 ^ 64 - 1)]
    issuing (atWord w) 0 0 w = true ∧ wOp w = 5 ∧
    after (exec (.gadd 0) (atWord w [(F.mcG_value 0 1, 1)])) (fun t => getF t.dev (F.mcG_value 0 1) == 0) = true := by decide
theorem test_gld : let w := word [(0, 6), (20, 1), (64, 0)]
    issuing (atWord w) 0 0 w = true ∧ wOp w = 6 ∧ wImm w % 8 = 0 ∧ wImm w + 8 ≤ 0x4000000 ∧
    bankOpen (takeWen (atWord w).dev 0 w) 0 (wImm w / 0x200000) = true ∧
    after (exec (.gld 0) (atWord w)) (fun t => getF t.dev (F.mcG_value 0 1) == 6 + 2 ^ 20) = true := by decide

/-- An opcode of no instruction, a GSET with a reserved bit set, and a BR with sub 7. -/
theorem test_checkedInstruction : partOf (atWord 0x13).dev 0 = some 0 ∧ opcodeKnown (wOp 0x13) = false ∧
    opcodeKnown (wOp (word [(0, 4), (18, 1)])) = true ∧ unusedNonzero (word [(0, 4), (18, 1)]) = true ∧
    unusedNonzero (word [(0, 2), (32, 7)]) = false ∧
    (goBr 0 0 (word [(0, 2), (32, 7)]) (atWord 0).dev).checks.find? (fun x => x.1) = some (true, cEncoding) ∧ cEncoding ≠ cBankOwner ∧
    (clusterOf (atWord 0x13).dev 0).pend = none ∧ drained (atWord 0x13).dev 0 = true ∧ pcOf (atWord 0x13).dev 0 < 2 ^ 22 ∧
    flag (atWord 0x13).dev (F.mcLend_enable 0) = false ∧
    after (exec (.nop 0) (atWord 0x13)) (fun t => getF t.dev (F.mcSeqFault_cause 0) == 1 && seqState t.dev 0 == 5) = true := by decide
theorem test_checkedInstruction_waits : let s := atWord 0x13 [] { Cluster.idle with jobs := [⟨.array, none, [], false, [], [], false, none, [], none, none⟩] }
    let u := atWord 0x13 [(F.mcLend_enable 0, 1), (F.mcLend_lend_all 0, 1)]
    drained s.dev 0 = false ∧ (clusterOf s.dev 0).waiting = none ∧
    after (exec (.nop 0) s) (fun t => (clusterOf t.dev 0).pend == some ⟨cOpcode, 0, false⟩) = true ∧
    flag u.dev (F.mcLend_lend_all 0) = true ∧ after (exec (.nop 0) u) (fun t => seqState t.dev 0 == 6) = true := by decide

theorem test_br : let w := word [(0, 2), (32, 1), (24, 2), (64, 3)]
    let v := word [(0, 2), (32, 2), (24, 2), (64, 3)]
    issuing (atWord w) 0 0 w = true ∧ wOp w = 2 ∧ wSub w = 1 ∧ getF (takeWen (atWord w).dev 0 w) (F.mcG_value 0 (wGa w)) = 0 ∧
    (0 : Int) ≤ (pcOf (takeWen (atWord w).dev 0 w) 0 : Int) + signed 64 (wImm w) ∧
    (clusterOf (takeWen (atWord w).dev 0 w) 0).loops = [] ∧ after (exec (.br 0) (atWord w)) (fun t => pcOf t.dev 0 == 3) = true ∧
    issuing (atWord v) 0 0 v = true ∧ wSub v = 2 ∧ after (exec (.br 0) (atWord v)) (fun t => pcOf t.dev 0 == 1) = true := by decide
theorem test_br_backward : let w := word [(0, 2), (64, 2 ^ 64 - 1)]
    let at1 := atWord 0 [(F.mcSeqPc_pc 0, 1)]
    let s := { at1 with dev := { at1.dev with mem := memPutList at1.dev.mem (spadBase 0 + 16) (leBytes 16 w) } }
    issuing s 0 0 w = true ∧ signed 64 (wImm w) = -1 ∧ after (exec (.br 0) s) (fun t => pcOf t.dev 0 == 0) = true := by decide
theorem test_loop : let w := word [(0, 3), (24, 1), (64, 4096)]
    issuing (atWord w) 0 0 w = true ∧ wOp w = 3 ∧ 1 ≤ wImm w % 2 ^ 16 ∧ wImm w % 2 ^ 16 ≤ 4096 ∧
    (clusterOf (takeWen (atWord w).dev 0 w) 0).loops.length < 4 ∧
    after (exec (.loop 0) (atWord w [(F.mcG_value 0 1, 2)])) (fun t => (clusterOf t.dev 0).loops == [⟨1, 4097, 2⟩]) = true ∧
    after (exec (.loop 0) (atWord w [(F.mcSeqLen_len 0, 5000)])) (fun t => pcOf t.dev 0 == 4097) = true := by decide

theorem test_anset : let w := word [(0, 7), (36, 4), (64, 4097)]
    issuing (atWord w) 0 0 w = true ∧ wOp w = 7 ∧ 1 ≤ wImm w ∧ wImm w ≤ 2 ^ 48 ∧
    interlocked (takeWen (atWord w).dev 0 w) 0 [] false [wE w] = false ∧
    after (exec (.anset 0) (atWord w)) (fun t => getF t.dev (F.mcAnchor_logk 0 4) == 13 && getF t.dev (F.mcAnchor_ea 0 4) == 0x800) = true := by
  decide
theorem test_evadd : let w := word [(0, 9), (36, 1), (64, 65535)]
    let v := word [(0, 9), (32, 1), (36, 1), (64, 65535)]
    issuing (atWord w) 0 0 w = true ∧ wSub w = 0 ∧ getF (takeWen (atWord w).dev 0 w) (F.mcEvt_count 0 (wE w)) + wImm w % 2 ^ 16 ≤ 65535 ∧
    after (exec (.evadd 0) (atWord w)) (fun t => getF t.dev (F.mcEvt_count 0 1) == 65535) = true ∧
    issuing (atWord v) 0 0 v = true ∧ wSub v = 1 ∧
    after (exec (.evadd 0) (atWord v [(F.mcEvt_count 0 1, 9)])) (fun t => getF t.dev (F.mcEvt_count 0 1) == 65535) = true := by decide
theorem test_evpost : let w := word [(0, 0xA), (36, 1), (40, 0), (64, 7)]
    issuing (atWord w) 0 0 w = true ∧ wOp w = 0xA ∧ wMisc w ≤ 27 ∧ ownsCluster (takeWen (atWord w).dev 0 w) 0 (wMisc w) = true ∧
    after (exec (.evpost 0) (atWord w)) (fun t => (clusterOf t.dev 0).posts == [(1, 7)]) = true := by decide
theorem test_evpost_foreign : let w := word [(0, 0xA), (36, 1), (40, 5), (64, 7)]
    let v := word [(0, 0xA), (36, 1), (40, 28), (64, 7)]
    issuing (atWord w) 0 0 w = true ∧ wOp w = 0xA ∧ ownsCluster (takeWen (atWord w).dev 0 w) 0 (wMisc w) = false ∧
    issuing (atWord v) 0 0 v = true ∧ wOp v = 0xA ∧ 27 < wMisc v ∧
    after (exec (.evpost 0) (atWord w)) (fun t => getF t.dev (F.mcSeqFault_cause 0) == 0x14 && seqState t.dev 0 == 5) = true ∧
    after (exec (.evpost 0) (atWord v)) (fun t => getF t.dev (F.mcSeqFault_cause 0) == 0x14 && seqState t.dev 0 == 5) = true := by decide
theorem test_eventCounterChange : let s := atWord 0 [(F.mcEvt_count 0 1, 65530)] { Cluster.idle with posts := [(1, 3), (1, 4)] }
    s.dev.powerGood = true ∧ 65535 < getF s.dev (F.mcEvt_count 0 1) + 7 ∧ (∀ e < 16, getF s.dev (F.mcEvt_count 0 e) ≤ 65535) ∧
    after (exec (.eventCounterChange 0) s) (fun t => getF t.dev (F.mcEvt_count 0 1) == 65535 && getF t.dev (F.mcSeqIrq_evt_ovf 0) == 1 &&
      (clusterOf t.dev 0).posts == []) = true := by decide
theorem test_evAdd : (∀ e < 16, getF (atWord 0).dev (F.mcEvt_count 0 e) ≤ 65535) ∧ 65535 < getF (atWord 0 [(F.mcEvt_count 0 15, 65530)]).dev (F.mcEvt_count 0 15) + 6 ∧
    getF (evAdd (atWord 0 [(F.mcEvt_count 0 15, 65530)]).dev 0 15 6) (F.mcEvt_count 0 15) = 65535 := by decide

theorem test_barClusterSet : let w := word [(0, 0xB), (40, 3), (64, 1)]
    issuing (atWord w) 0 0 w = true ∧ wOp w = 0xB ∧ wSub w = 0 ∧ bitOf (wImm w % 2 ^ 28) 0 = true ∧
    Tab.get? (takeWen (atWord w).dev 0 w).bars (0, bits w 43 40) = none ∧
    after (exec (.barClusterSet 0) (atWord w)) (fun t => Tab.get? t.dev.bars (0, 3) == some ⟨1, [0]⟩ && seqState t.dev 0 == 2) = true := by
  decide
theorem test_barPartition : let w := word [(0, 0xB), (32, 1), (40, 3)]
    issuing (atWord w) 0 0 w = true ∧ wSub w = 1 ∧ Tab.get? (takeWen (atWord w).dev 0 w).bars (0, bits w 43 40) = none ∧
    after (exec (.barPartition 0) (atWord w)) (fun t => Tab.get? t.dev.bars (0, 3) == some ⟨1, [0]⟩) = true := by decide
theorem test_localBarrierComplete : let w := word [(0, 0xB), (40, 3), (64, 1)]
    let s := match exec (.barClusterSet 0) (atWord w) with | .next t => t | _ => State.reset
    Tab.get? s.dev.bars (0, 3) = some ⟨1, [0]⟩ ∧ s.dev.powerGood = true ∧
    after (exec (.localBarrierComplete 0 3) s) (fun t => seqState t.dev 0 == 1 && pcOf t.dev 0 == 1) = true := by decide

theorem test_tdld : let w := word [(0, 0x20), (20, 5), (64, 0)]
    issuing (atWord w) 0 0 w = true ∧ wOp w = 0x20 ∧ wImm w % 32 = 0 ∧ bankOpen (takeWen (atWord w).dev 0 w) 0 0 = true ∧
    after (exec (.tdld 0) (atWord w)) (fun t => getF t.dev (F.mcTdesc0_base 0 5) == 0x500020) = true := by decide
theorem test_tdbase : let w := word [(0, 0x21), (20, 5), (64, 2 ^ 48 - 1)]
    issuing (atWord w) 0 0 w = true ∧ wOp w = 0x21 ∧ wImm w < 2 ^ 48 ∧
    after (exec (.tdbase 0) (atWord w)) (fun t => getF t.dev (F.mcTdesc0_base 0 5) == 2 ^ 48 - 1) = true := by decide
theorem test_tdadd : let w := word [(0, 0x22), (20, 5), (26, 1), (30, 1), (64, 1)]
    issuing (atWord w) 0 0 w = true ∧ wOp w = 0x22 ∧
    after (exec (.tdadd 0) (atWord w [(F.mcTdesc0_base 0 5, 2 ^ 48 - 1), (F.mcG_value 0 1, 4)])) (fun t =>
      getF t.dev (F.mcTdesc0_base 0 5) == 4) = true := by decide
theorem test_tdshape : let w := word [(0, 0x23), (20, 5), (64, 3), (80, 7)]
    issuing (atWord w) 0 0 w = true ∧ wOp w = 0x23 ∧ wImm w < 2 ^ 32 ∧
    after (exec (.tdshape 0) (atWord w)) (fun t => getF t.dev (F.mcTdesc1_rows 0 5) == 3 && getF t.dev (F.mcTdesc1_cols 0 5) == 7) = true := by
  decide

theorem test_evwait : let w := word [(0, 8), (32, 1), (36, 1), (64, 3)]
    issuing (atWord w) 0 0 w = true ∧ wOp w = 8 ∧
    after (exec (.evwait 0) (atWord w [(F.mcEvt_count 0 1, 3)])) (fun t => getF t.dev (F.mcEvt_count 0 1) == 0 && pcOf t.dev 0 == 1) = true ∧
    getF (takeWen (atWord w).dev 0 w) (F.mcEvt_count 0 (wE w)) < wImm w % 2 ^ 16 ∧
    after (exec (.evwait 0) (atWord w)) (fun t => seqState t.dev 0 == 2 && pcOf t.dev 0 == 0) = true := by decide
theorem test_evwaitPass : let s := atWord 0 [(F.mcEvt_count 0 1, 3), (F.mcSeqStatus_state 0, 2)] { Cluster.idle with waiting := some ⟨.event 1 3 true, none, none⟩ }
    s.dev.powerGood = true ∧ (clusterOf s.dev 0).waiting = some ⟨.event 1 3 true, none, none⟩ ∧ 3 ≤ getF s.dev (F.mcEvt_count 0 1) ∧
    after (exec (.evwaitPass 0) s) (fun t => getF t.dev (F.mcEvt_count 0 1) == 0 && seqState t.dev 0 == 1) = true := by decide
theorem test_evwaitPass_wen : let w := word [(8, 1), (9, 1)]
    let s := atWord w [(F.mcEvt_count 0 1, 1), (F.mcSeqStatus_state 0, 2), (F.mcSeqStatus_wait_cause 0, 1)]
    issuing s 0 0 w = true ∧ seqState s.dev 0 = 2 ∧ getF s.dev (F.mcSeqStatus_wait_cause 0) = 1 ∧ wWen w = true ∧ wOp w = 0 ∧
    after (exec (.evwaitPass 0) s) (fun t => getF t.dev (F.mcEvt_count 0 1) == 0 && pcOf t.dev 0 == 1) = true := by decide
theorem test_ftcwait : let w := word [(0, 0xC), (64, 10)]
    issuing (atWord w) 0 0 w = true ∧ wOp w = 0xC ∧ getF (takeWen (atWord w).dev 0 w) F.fabFtc_ftc < 10 ∧
    after (exec (.ftcwait 0) (atWord w)) (fun t => getF t.dev (F.mcSeqStatus_wait_cause 0) == 4) = true ∧
    after (exec (.ftcwait 0) (atWord w [(F.fabFtc_ftc, 10)])) (fun t => pcOf t.dev 0 == 1) = true := by decide
theorem test_ftcTargetReached : let s := atWord 0 [(F.mcSeqStatus_state 0, 2)] { Cluster.idle with waiting := some ⟨.ftc 10, none, none⟩ }
    s.dev.powerGood = true ∧ (clusterOf s.dev 0).waiting = some ⟨.ftc 10, none, none⟩ ∧ getF s.dev F.fabFtc_ftc ≤ 10 ∧
    after (exec (.ftcTargetReached 0) s) (fun t => getF t.dev F.fabFtc_ftc == 10 && seqState t.dev 0 == 1) = true := by decide

/-- A job of the array, of the mover, of the vector units. -/
def job (u : JobUnit) : Job :=
  { unit := u, sig := none, tiles := [], accum := false, slots := [], banks := [], nonfin := false, move := none, adds := [], post := none,
    rouse := none }

/-- A deferred entry that has nothing to do. -/
def deferred : Deferred := ⟨0, 0, descOf (atWord 0).dev 0 0, descOf (atWord 0).dev 0 0, none, [], none⟩

theorem test_dwqflush : issuing (atWord 0xE) 0 0 0xE = true ∧ wOp 0xE = 0xE ∧ (clusterOf (takeWen (atWord 0xE).dev 0 0xE) 0).dwq = [] ∧
    after (exec (.dwqflush 0) (atWord 0xE)) (fun t => pcOf t.dev 0 == 1) = true ∧
    issuing (atWord 0xE [] { Cluster.idle with dwq := [deferred] }) 0 0 0xE = true ∧
    after (exec (.dwqflush 0) (atWord 0xE [] { Cluster.idle with dwq := [deferred] })) (fun t =>
      getF t.dev (F.mcSeqStatus_wait_cause 0) == 5) = true := by decide
theorem test_fence : issuing (atWord 0xF) 0 0 0xF = true ∧ wOp 0xF = 0xF ∧ (clusterOf (takeWen (atWord 0xF).dev 0 0xF) 0).jobs = [] ∧
    bitOf 0xF 32 = false ∧ after (exec (.fence 0) (atWord 0xF)) (fun t => pcOf t.dev 0 == 1) = true ∧
    issuing (atWord 0xF [] { Cluster.idle with jobs := [job .array] }) 0 0 0xF = true ∧
    after (exec (.fence 0) (atWord 0xF [] { Cluster.idle with jobs := [job .array] })) (fun t => seqState t.dev 0 == 2) = true := by decide
/-- A cluster that waits, its job and deferred queue as given. -/
def waitingOn (x : WaitFor) (jobs : List Job) (dwq : List Deferred) (f : Tab FKey Nat := []) : State :=
  atWord 0 ((F.mcSeqStatus_state 0, 2) :: f) { Cluster.idle with waiting := some ⟨x, none, none⟩, jobs := jobs, dwq := dwq }
theorem test_waits_end : let s := waitingOn .deferred [] [deferred]
    let u := waitingOn (.fence false) [job .array] []
    let v := waitingOn (.fence true) [job (.vec 1)] []
    (clusterOf s.dev 0).waiting = some ⟨.deferred, none, none⟩ ∧ (clusterOf s.dev 0).pend = none ∧ (clusterOf s.dev 0).loops = [] ∧
    pcOf s.dev 0 + 1 < getF s.dev (F.mcSeqLen_len 0) ∧ extentOutside s.dev 0 deferred.a false = false ∧ deferred.sk = none ∧
    (∀ b ∈ mmwgBanks deferred.a deferred.g none, bankOpen s.dev b.1 b.2 = true) ∧ getF u.dev (F.mcArrStatus_phase 0) ≠ 5 ∧
    after (exec (.deferredEntryRun 0) s) (fun t => pcOf t.dev 0 == 1 && seqState t.dev 0 == 1) = true ∧
    after (exec (.matrixInstructionComplete 0) u) (fun t => pcOf t.dev 0 == 1) = true ∧
    after (exec (.vectorOpComplete 0 0) v) (fun t => pcOf t.dev 0 == 1) = true ∧
    settle (waitingOn .deferred [] [deferred]).dev 0 = (waitingOn .deferred [] [deferred]).dev := by decide

/-! ## The array -/

/-- Tile descriptor n of cluster 0: rows x cols of a format in bank 1 from byte off, lines of 64 bytes. -/
def tile (n fmt off rows cols : Nat) : Tab FKey Nat :=
  [(F.mcTdesc0_valid 0 n, 1), (F.mcTdesc0_fmt 0 n, fmt), (F.mcTdesc0_base 0 n, spadBase 0 + 0x200000 + off),
   (F.mcTdesc1_row_stride 0 n, 64), (F.mcTdesc1_rows 0 n, rows), (F.mcTdesc1_cols 0 n, cols), (F.mcTdesc2_bank_start 0 n, 1),
   (F.mcTdesc2_gcols 0 n, cols)]

/-- Bytes placed in bank 1 of cluster 0. -/
def inBank (s : State) (off : Nat) (l : List Byte) : State :=
  { s with dev := { s.dev with mem := memPutList s.dev.mem (spadBase 0 + 0x200000 + off) l } }

/-- Windows and entries of cluster 0. -/
def opened (s : State) (ws : List (Nat × Win)) (es : List (Nat × Nat × AccEntry) := []) : State :=
  { s with dev := { s.dev with wins := ws.map (fun x => ((0, x.1), x.2)), acc := es.map (fun x => ((0, x.1, x.2.1), x.2.2)) } }

/-- FP32 1.0 as bytes. -/
def one32 : List Byte := leBytes 4 0x3F800000

theorem test_halt : issuing (atWord 1) 0 0 1 = true ∧ wOp 1 = 1 ∧ drained (takeWen (atWord 1).dev 0 1) 0 = true ∧
    pcOf (takeWen (atWord 1).dev 0 1) 0 + 1 < 2 ^ 22 ∧ flag (atWord 1).dev (F.mcLend_enable 0) = false ∧
    after (exec (.halt 0) (atWord 1)) (fun t => seqState t.dev 0 == 3 && pcOf t.dev 0 == 1 && getF t.dev (F.mcSeqIrq_done 0) == 1) = true := by
  decide
theorem test_halt_lent : let s := atWord 1 [(F.mcLend_enable 0, 1), (F.mcLend_lend_all 0, 1)]
    issuing s 0 0 1 = true ∧ drained (takeWen s.dev 0 1) 0 = true ∧ flag s.dev (F.mcLend_enable 0) = true ∧
    flag s.dev (F.mcLend_lend_all 0) = true ∧ after (exec (.halt 0) s) (fun t => seqState t.dev 0 == 6) = true := by decide
theorem test_halt_waits : let s := atWord 1 [] { Cluster.idle with jobs := [job .array] }
    issuing s 0 0 1 = true ∧ drained (takeWen s.dev 0 1) 0 = false ∧
    after (exec (.halt 0) s) (fun t => getF t.dev (F.mcSeqStatus_wait_cause 0) == 8) = true := by decide
theorem test_start : let s := atWord 0 [(F.mcSeqStatus_state 0, 5), (F.mcSeqFault_cause 0, 3)]
    s.dev.powerGood = true ∧ reachesCluster s.dev (.host 0) 0 = true ∧ seqAtRest s.dev 0 = true ∧ startable s.dev 0 = true ∧
    (partOf s.dev 0).isSome = true ∧ (clusterOf s.dev 0).startBlocked = false ∧ asleep s.dev 0 = false ∧
    after (exec (.start (.host 0) 0 false) s) (fun t => seqState t.dev 0 == 1 && getF t.dev (F.mcSeqFault_cause 0) == 0) = true := by decide
theorem test_start_err : seqAtRest (atWord 0).dev 0 = false ∧ reachesCluster (atWord 0).dev (.host 0) 0 = true ∧
    after (exec (.start (.host 0) 0 false) (atWord 0)) (fun t => getF t.dev (F.mcSeqStatus_start_err 0) == 1) = true := by decide
theorem test_stop : reachesCluster (atWord 0).dev (.host 0) 0 = true ∧ seqActive (atWord 0).dev 0 = true ∧
    (clusterOf (atWord 0).dev 0).waiting = none ∧
    after (exec (.stop (.host 0) 0) (atWord 0)) (fun t => getF t.dev (F.mcSeqCtrl_stop 0) == 1) = true := by decide
theorem test_stopComplete : let s := atWord 0 [(F.mcSeqCtrl_stop 0, 1)]
    flag s.dev (F.mcSeqCtrl_stop 0) = true ∧ drained s.dev 0 = true ∧ (clusterOf s.dev 0).pend = none ∧
    flag s.dev (F.mcLend_enable 0) = false ∧
    after (exec (.stopComplete 0) s) (fun t => seqState t.dev 0 == 4 && getF t.dev (F.mcSeqIrq_stopped 0) == 1) = true := by decide

/-- MMA of descriptors 1 and 2 into tile 447, a 1 x 1 product of 1.0 and 1.0. -/
def mmaWord : Nat := word [(0, 0x10), (20, 1), (26, 2), (32, 447)]
/-- The cluster before it. -/
def mmaState (w : Nat) (x : Cluster := Cluster.idle) : State :=
  opened (inBank (inBank (atWord w (tile 1 0 0 1 1 ++ tile 2 0 64 1 1) x) 0 one32) 64 one32) [(447, ⟨0, 10, true⟩)]

theorem test_mma : issuing (mmaState mmaWord) 0 0 mmaWord = true ∧ wOp mmaWord = 0x10 ∧
    (goMma 0 0 mmaWord (takeWen (mmaState mmaWord).dev 0 mmaWord)).free = true ∧
    after (exec (.mma 0 []) (mmaState mmaWord)) (fun t => accAt t.dev 0 447 0 == ⟨2 ^ 52, false⟩) = true := by decide
/-- An uncorrectable error in operand A's bank, and a correctable one in a bank of neither operand (R221). -/
theorem test_mma_errors : let l : List WordFound := [⟨0, 1, 0, .uncorrectable⟩, ⟨0, 3, 0, .correctable 0⟩]
    after (exec (.mma 0 l) (mmaState mmaWord)) (fun t => t.dev.reports == [.moduleFault (.bank 0 1)] &&
      getF t.dev (F.bankRepair_ce_count 0 3) == 0) = true := by decide +kernel
theorem test_gram : let w := word [(0, 0x12), (20, 1), (32, 447)]
    issuing (mmaState w) 0 0 w = true ∧ wOp w = 0x12 ∧ (goGram 0 0 w (takeWen (mmaState w).dev 0 w)).free = true ∧
    after (exec (.gram 0) (mmaState w)) (fun t => accAt t.dev 0 447 0 == ⟨2 ^ 52, false⟩) = true := by decide
theorem test_azero : let w := word [(0, 0x2B), (32, 446), (41, 2), (54, 1), (56, 1), (61, 4095)]
    issuing (atWord w) 0 0 w = true ∧ wOp w = 0x2B ∧ (goAzero 0 0 w (takeWen (atWord w).dev 0 w)).free = true ∧
    after (exec (.azero 0) (opened (atWord w) [] [(447, 0, ⟨3, true⟩)])) (fun t =>
      winOf t.dev 0 447 == some ⟨1, -1, true⟩ && accAt t.dev 0 447 0 == ⟨0, false⟩ && winOf t.dev 0 445 == none) = true := by decide
theorem test_afill : let w := word [(0, 0x2A), (26, 1), (32, 5), (53, 0), (50, 1), (56, 1), (61, 10)]
    let s := inBank (atWord w (tile 1 0 0 1 1)) 0 one32
    issuing s 0 0 w = true ∧ wOp w = 0x2A ∧ (goAfill 0 0 w (takeWen s.dev 0 w)).free = true ∧
    after (exec (.afill 0) s) (fun t => accAt t.dev 0 5 0 == ⟨2 ^ 52, false⟩) = true := by decide

/-- MMWG of A (descriptor 1) and G (descriptor 2) into tile 447, as extra bits say. -/
def mmwgWord (l : List (Nat × Nat)) : Nat := word ([(0, 0x11), (20, 1), (26, 2), (32, 447)] ++ l)

theorem test_mmwg : let w := mmwgWord []
    issuing (mmaState w) 0 0 w = true ∧ wOp w = 0x11 ∧ bitOf w 43 = false ∧
    (goMmwg 0 0 w (takeWen (mmaState w).dev 0 w)).free = true ∧
    after (exec (.mmwg 0) (mmaState w)) (fun t => accAt t.dev 0 447 0 == ⟨2 ^ 52, false⟩) = true := by decide
theorem test_mmwg_defer : let w := mmwgWord [(43, 1)]
    issuing (mmaState w) 0 0 w = true ∧ bitOf w 43 = true ∧ isRef (takeWen (mmaState w).dev 0 w) 0 = false ∧
    (goMmwg 0 0 w (takeWen (mmaState w).dev 0 w)).free = true ∧
    after (exec (.mmwg 0) (mmaState w)) (fun t => (clusterOf t.dev 0).dwq.length == 1 && accAt t.dev 0 447 0 == ⟨0, false⟩) = true := by decide

/-- The cluster after that push. -/
def pushed : State := match exec (.mmwg 0) (mmaState (mmwgWord [(43, 1)])) with | .next t => t | _ => State.reset

theorem test_deferredEntryRun : pushed.dev.powerGood = true ∧ partOf pushed.dev 0 = some 0 ∧
    (clusterOf pushed.dev 0).jobs.any Job.onArray = false ∧ (clusterOf pushed.dev 0).waiting = none ∧
    (clusterOf pushed.dev 0).pend = none ∧
    (∀ x ∈ (clusterOf pushed.dev 0).dwq, x.sk = none ∧ extentOutside pushed.dev 0 x.a false = false ∧
      extentOutside pushed.dev 0 x.g false = false ∧ ∀ b ∈ mmwgBanks x.a x.g x.sk, bankOpen pushed.dev b.1 b.2 = true) ∧
    after (exec (.deferredEntryRun 0) pushed) (fun t => accAt t.dev 0 447 0 == ⟨2 ^ 52, false⟩ && (clusterOf t.dev 0).dwq == [] &&
      getF t.dev (F.mcDwqStatus_done 0) == 1) = true := by decide +kernel
theorem test_deferredEntryRun_waits : let s := { pushed with dev := modCluster pushed.dev 0 (fun x => { x with jobs := [job .array] }) }
    arrayTaken s.dev 0 = true ∧ arrayTaken pushed.dev 0 = false ∧ arrayReady pushed.dev 0 0 = false ∧
    arrayReady (mmaState mmaWord).dev 0 0 = true ∧ after (exec (.deferredEntryRun 0) s) (fun t => (clusterOf t.dev 0).dwq.length == 1) = true := by decide +kernel

theorem test_productTerms : bitOf (mmwgWord []) 44 = false ∧ bitOf (mmwgWord [(44, 1)]) 44 = true ∧
    inWindow 1 ⟨2 ^ 31 - 1, false⟩ = true ∧ inWindow 1 ⟨2 ^ 31, false⟩ = false ∧ inWindow 0 ⟨0, true⟩ = false ∧
    drainWord false 1 ⟨2 ^ 31, false⟩ = (2 ^ 31, true) ∧ drainWord false 1 ⟨BitVec.ofInt 72 (-1), false⟩ = (2 ^ 32 - 1, false) ∧
    (accEnter ⟨5, false⟩ (contrib .nan .nan 0 0)).m = true ∧ (accEnter ⟨2 ^ 72 - 1, false⟩ (1, false)).v = 0 := by decide
/-- W32 at anchor 30 has the grain 1: 3/2 and 5/2 are ties, and 2^31 - 1 is the last in range. -/
theorem test_contrib : contrib (.fin false 3 0) (.fin false 1 (-1)) 30 1 = (2, false) ∧ contrib (.fin true 5 0) (.fin false 1 (-1)) 30 1 = (-2, false) ∧
    contrib (.fin false 1 1) (.fin true 3 0) 30 1 = (-6, false) ∧ contrib (.fin false (2 ^ 31 - 1) 0) (.fin false 1 0) 30 1 = (2 ^ 31 - 1, false) ∧
    contrib (.fin false 1 31) (.fin false 1 0) 30 1 = (0, true) := by decide +kernel

/-- ADRN of tile 447 to descriptor 1 in W64. -/
def adrnWord : Nat := word [(0, 0x29), (20, 1), (32, 447), (50, 4)]
/-- AADD of the same. -/
def aaddWord : Nat := word [(0, 0x2C), (20, 1), (32, 447)]
/-- The cluster before them, one entry of 5. -/
def drainState (w : Nat) : State := opened (atWord w (tile 1 8 0 1 1)) [(447, ⟨0, 10, true⟩)] [(447, 0, ⟨5, false⟩)]

theorem test_adrn : issuing (drainState adrnWord) 0 0 adrnWord = true ∧ wOp adrnWord = 0x29 ∧
    (goAdrn 0 0 adrnWord (takeWen (drainState adrnWord).dev 0 adrnWord)).free = true ∧
    after (exec (.adrn 0) (drainState adrnWord)) (fun t => viewNat t.dev 0 (spadBase 0 + 0x200000) 8 == 5) = true := by decide +kernel
theorem test_aadd : issuing (drainState aaddWord) 0 0 aaddWord = true ∧ wOp aaddWord = 0x2C ∧
    (goAadd 0 0 aaddWord (takeWen (drainState aaddWord).dev 0 aaddWord)).free = true ∧
    after (exec (.aadd 0) (drainState aaddWord)) (fun t => (clusterOf t.dev 0).jobs.map Job.adds == [[⟨spadBase 0 + 0x200000, 8, 5⟩]]) = true := by
  decide

/-- The mover holds one update of 5 to the first word of bank 1, which holds 2. -/
def adding : State :=
  inBank (atWord 0 [] { Cluster.idle with jobs := [{ job .mover with adds := [⟨spadBase 0 + 0x200000, 8, 5⟩] }] }) 0 (leBytes 8 2)

theorem test_atomicWindowAdd : adding.dev.powerGood = true ∧ partOf adding.dev 0 = some 0 ∧
    (nthJob adding.dev 0 Job.onMover 0).map (fun x => (x.1, x.2.adds)) = some (0, [⟨spadBase 0 + 0x200000, 8, 5⟩]) ∧
    heldRange adding.dev 0 (spadBase 0 + 0x200000) 8 = false ∧ Memory.wf adding.dev.mem = true ∧ ownsCluster adding.dev 0 0 = true ∧
    protectedHit adding.dev 0 0x200000 8 = false ∧
    after (exec (.atomicWindowAdd 0 0 0) adding) (fun t => viewNat t.dev 0 (spadBase 0 + 0x200000) 8 == 7) = true := by decide +kernel
theorem test_atomicWindowAdd_held : let s := { adding with dev := { adding.dev with
      pages := [((0, .hbm, 0), ⟨.cellar, 0, 0, false, none, 0, false, .sound, 0, none⟩)]
      cl := [(0, { Cluster.idle with jobs := [{ job .mover with adds := [⟨0, 8, 5⟩] }] })] } }
    heldWrite s.dev 0 0 8 = true ∧ partOf s.dev 0 = some 0 ∧
    after (exec (.atomicWindowAdd 0 0 0) s) (fun t => (clusterOf t.dev 0).jobs.length == 1) = true := by decide +kernel

/-! ## Anchors, channels and queues -/

theorem test_amax : let w := word [(0, 0x2D), (26, 1), (57, 3), (50, 3)]
    let s := inBank (atWord w (tile 1 0 0 1 1)) 0 (leBytes 4 0x40000000)
    issuing s 0 0 w = true ∧ wOp w = 0x2D ∧ wCvt w ≠ 2 ∧ (goAmaxFold 0 0 w (takeWen s.dev 0 w)).free = true ∧
    after (exec (.amax 0) s) (fun t => getF t.dev (F.mcAnchor_ea 0 3) == 1 && getF t.dev (F.mcAnchor_eb_set 0 3) == 1) = true := by decide

/-- Partition 0 is a whole slice of one module, its root, with share 1 of the fabric. -/
def slice : Tab FKey Nat := [(F.fabSlice_valid 0, 1), (F.fabSlcfg_root 0, 1), (F.fabCfg_share, 1)]

theorem test_barSlice : let w := word [(0, 0xB), (32, 2), (40, 2)]
    issuing (atWord w slice) 0 0 w = true ∧ wOp w = 0xB ∧ wSub w = 2 ∧ bitOf w 44 = false ∧
    after (exec (.barSlice 0) (atWord w slice)) (fun t => (clusterOf t.dev 0).waiting.map WaitOp.on == some (.channel 2 none)) = true := by decide +kernel
theorem test_barSlice_check : let w := word [(0, 0xB), (20, 4), (32, 2), (40, 2), (44, 1)]
    issuing (atWord w slice) 0 0 w = true ∧ wSub w = 2 ∧ bitOf w 44 = true ∧
    after (exec (.barSlice 0) (atWord w slice)) (fun t => (clusterOf t.dev 0).waiting.map WaitOp.on == some (.channel 2 (some 4))) = true := by decide +kernel
theorem test_amaxSlice : let w := word [(0, 0x2D), (50, 2), (57, 3), (74, 1)]
    issuing (atWord w slice) 0 0 w = true ∧ wOp w = 0x2D ∧ wCvt w = 2 ∧ (goAmaxSlice 0 0 w (takeWen (atWord w slice).dev 0 w)).free = true ∧
    after (exec (.amaxSlice 0) (atWord w slice)) (fun t => (clusterOf t.dev 0).waiting.map WaitOp.on == some (.anchor 3)) = true := by decide +kernel

/-- MOV of descriptor 2 to descriptor 1. -/
def movWord : Nat := word [(0, 0x28), (20, 1), (26, 2)]
/-- The cluster before it. -/
def movState : State := inBank (atWord movWord (tile 1 0 0 1 1 ++ tile 2 0 64 1 1)) 64 one32
/-- The cluster after it. -/
def moving : State := match exec (.mov 0) movState with | .next t => t | _ => State.reset

theorem test_mov : issuing movState 0 0 movWord = true ∧ wOp movWord = 0x28 ∧
    (goMov 0 0 movWord (takeWen movState.dev 0 movWord)).free = true ∧
    after (exec (.mov 0) movState) (fun t => (clusterOf t.dev 0).jobs.map Job.unit == [.mover]) = true := by decide
theorem test_moverOpComplete : moving.dev.powerGood = true ∧ partOf moving.dev 0 = some 0 ∧
    ((nthJob moving.dev 0 Job.onMover 0).map (fun x => x.2.move.isSome)) = some true ∧ (clusterOf moving.dev 0).waiting = none ∧
    (clusterOf moving.dev 0).pend = none ∧
    (∀ j ∈ (clusterOf moving.dev 0).jobs, ∀ m ∈ j.move.toList, tileHeld moving.dev 0 m.src = false ∧ tileHeld moving.dev 0 m.dst = false) ∧
    after (exec (.moverOpComplete 0 0) moving) (fun t => viewNat t.dev 0 (spadBase 0 + 0x200000) 4 == 0x3F800000 &&
      (clusterOf t.dev 0).jobs == []) = true := by decide +kernel
theorem test_moverOpComplete_adds : ((nthJob adding.dev 0 Job.onMover 0).map (fun x => x.2.move)) = some none ∧
    (clusterOf adding.dev 0).waiting = none ∧ (clusterOf adding.dev 0).pend = none ∧
    after (exec (.moverOpComplete 0 0) adding) (fun t => viewNat t.dev 0 (spadBase 0 + 0x200000) 8 == 7 && (clusterOf t.dev 0).jobs == []) = true := by decide +kernel

/-- A descriptor of a RINGPASS of 64 bytes over axis 0 from bank 1, byte 64, to byte 128, in a layout epoch, and its post. -/
def postWord : Nat := word [(0, 0x2E), (74, spadBase 0 + 0x200000)]
/-- The cluster before it. -/
def postState (op epoch : Nat) : State :=
  inBank (atWord postWord (slice ++ [(F.fabEpoch_pvalid 0, 1), (F.fabEpoch_pending 0, 5)])) 0
    (leBytes 8 (op + 2 * 16 + 2 ^ 16 + epoch * 2 ^ 32) ++ leBytes 8 (spadBase 0 + 0x200040) ++ leBytes 8 (spadBase 0 + 0x200080) ++ leBytes 8 64)
/-- The module once the descriptor is read, and the collective it asks for. -/
def posted (op epoch : Nat) : Dev × List Nat :=
  let f := noteRead (takeWen (postState op epoch).dev 0 postWord) 0 (wAddr postWord) 64
  (f, descWords f 0 (wAddr postWord) 8)

theorem test_fpost_refused : issuing (postState 7 0) 0 0 postWord = true ∧ wOp postWord = 0x2E ∧
    (goFpost 0 0 postWord (takeWen (postState 7 0).dev 0 postWord)).free = true ∧
    collStatus (posted 7 0).1 (collOf (posted 7 0).1 0 0 (wAddr postWord) (posted 7 0).2) (posted 7 0).2 = some 0x10 ∧
    after (exec (.fpost 0) (postState 7 0)) (fun t => getF t.dev (F.fabIrq_coll_err 0) == 1) = true := by decide +kernel
theorem test_fpost_pending : issuing (postState 6 5) 0 0 postWord = true ∧
    (goFpost 0 0 postWord (takeWen (postState 6 5).dev 0 postWord)).free = true ∧
    collStatus (posted 6 5).1 (collOf (posted 6 5).1 0 0 (wAddr postWord) (posted 6 5).2) (posted 6 5).2 = none ∧
    5 ≠ getF (posted 6 5).1 (F.fabEpoch_cur 0) ∧ flag (posted 6 5).1 (F.fabEpoch_pvalid 0) = true ∧
    5 = getF (posted 6 5).1 (F.fabEpoch_pending 0) ∧
    after (exec (.fpost 0) (postState 6 5)) (fun t => t.dev.colls.map Coll.held == [true]) = true := by decide +kernel
theorem test_fpost_current : issuing (postState 6 0) 0 0 postWord = true ∧
    (goFpost 0 0 postWord (takeWen (postState 6 0).dev 0 postWord)).free = true ∧
    collStatus (posted 6 0).1 (collOf (posted 6 0).1 0 0 (wAddr postWord) (posted 6 0).2) (posted 6 0).2 = none ∧
    0 = getF (posted 6 0).1 (F.fabEpoch_cur 0) ∧
    after (exec (.fpost 0) (postState 6 0)) (fun t => t.dev.colls.map Coll.held == [false]) = true := by decide +kernel

/-! ## The array's own events -/

theorem test_rouse : let w := word [(0, 0xD), (64, 100)]
    issuing (atWord w) 0 0 w = true ∧ wOp w = 0xD ∧ (clusterOf (takeWen (atWord w).dev 0 w) 0).dwq = [] ∧ bitOf w 32 = false ∧
    after (exec (.rouse 0) (atWord w)) (fun t => getF t.dev (F.mcArrRouse_count 0) == 100 && getF t.dev (F.mcArrStatus_phase 0) == 5) = true := by
  decide
theorem test_matrixInstructionComplete :
    let arr (auto phase : Nat) (l : List Job) (g : Option Guest) : State :=
      atWord 0 [(F.mcRouseCfg_auto_en 0, auto), (F.mcArrStatus_phase 0, phase), (F.mcArrStatus_level 0, 8)] { Cluster.idle with jobs := l, guest := g }
    let s := arr 1 1 [job .array] none
    let phase (s : State) (n : Nat) : Bool := after (exec (.matrixInstructionComplete 0) s) (fun t => getF t.dev (F.mcArrStatus_phase 0) == n)
    s.dev.powerGood = true ∧ fullLevel s.dev ≤ 8 ∧ nthJob s.dev 0 Job.onArray 0 = some (0, job .array) ∧ (clusterOf s.dev 0).waiting = none ∧
    (clusterOf s.dev 0).pend = none ∧ ((clusterOf s.dev 0).jobs.eraseIdx 0).any Job.onArray = false ∧
    flag s.dev (F.mcRouseCfg_auto_en 0) = true ∧ phase s 3 = true ∧ phase (arr 0 1 [job .array] none) 0 = true ∧
    phase (arr 1 1 [job .array] (some ⟨0, 0, 0xFF⟩)) 6 = true ∧ phase (arr 1 1 [job .array, job .array] none) 1 = true ∧
    phase (arr 1 1 [job .array, { job .array with rouse := some false }] none) 2 = true ∧ phase (arr 1 5 [job .array] none) 5 = true ∧
    after (exec (.matrixInstructionComplete 0) s) (fun t => getF t.dev (F.mcArrStatus_level 0) == 8) = true := by decide +kernel
theorem test_rouseHoldExpiry : getF (withF [(F.mcArrStatus_phase 0, 3)]).dev (F.mcArrStatus_phase 0) = 3 ∧
    after (exec (.rouseHoldExpiry 0) (withF [(F.mcArrStatus_phase 0, 3), (F.mcRouseCfg_hold 0, 7)])) (fun t =>
      getF t.dev (F.mcArrStatus_phase 0) == 4 && getF t.dev (F.mcArrRouse_count 0) == 7) = true := by decide
theorem test_rampStep : let s (phase level : Nat) := withF [(F.mcArrStatus_phase 0, phase), (F.mcArrStatus_level 0, level), (F.mcRouseCfg_ramp_step 0, 3)]
    after (exec (.rampStep 0) (s 4 2)) (fun t => getF t.dev (F.mcArrStatus_phase 0) == 4 && getF t.dev (F.mcArrStatus_level 0) == 1) = true ∧
    after (exec (.rampStep 0) (s 4 1)) (fun t => getF t.dev (F.mcArrStatus_phase 0) == 0 && getF t.dev (F.mcArrRouse_count 0) == 3) = true ∧
    after (exec (.rampStep 0) (s 5 6)) (fun t => getF t.dev (F.mcArrStatus_phase 0) == 5 && getF t.dev (F.mcArrStatus_level 0) == 7) = true ∧
    after (exec (.rampStep 0) (s 5 7)) (fun t => getF t.dev (F.mcArrStatus_phase 0) == 0 && getF t.dev (F.mcArrStatus_level 0) == 8) = true ∧
    after (exec (.rampStep 0) (s 1 7)) (fun t => getF t.dev (F.mcArrStatus_level 0) == 8) = true ∧
    after (exec (.rampStep 0) (s 1 8)) (fun t => getF t.dev (F.mcArrStatus_level 0) == 8) = true := by decide +kernel

/-- Cluster 0's array at work, DPU 5 having failed as often as fails says, with its spare lanes as they stand. -/
def failing5 (fails : List Nat) (f : Tab FKey Nat) : State :=
  atWord 0 ((F.mcArrStatus_phase 0, 1) :: f) { Cluster.idle with dpuFails := fails }

theorem test_rowRetry : getF (failing5 [] []).dev (F.mcArrStatus_phase 0) ≠ 0 ∧ 5 ∈ servingDpus (failing5 [] []).dev 0 ∧
    65 ∉ servingDpus (failing5 [] []).dev 0 ∧ flag (failing5 [] []).dev (F.mcDpuMap_retired 0) = false ∧
    5 ∉ (clusterOf (failing5 [] []).dev 0).dpuFails ∧ 5 ∈ (clusterOf (failing5 [5] []).dev 0).dpuFails ∧
    getF (failing5 [5] []).dev (F.mcDpuMap_out0 0) = 0x7F ∧
    (let s := atWord 0 [(F.mcArrStatus_phase 0, 1)] { Cluster.idle with jobs := [{ job .array with accum := true }] }
     streaming s.dev 0 = true ∧ streaming (failing5 [] []).dev 0 = false) ∧
    after (exec (.rowRetry 0 5) (failing5 [] [])) (fun t => (clusterOf t.dev 0).dpuFails == [5] && getF t.dev (F.mcDpuMap_retries 0) == 0) = true ∧
    after (exec (.rowRetry 0 5) (failing5 [5] [])) (fun t => getF t.dev (F.mcDpuMap_out0 0) == 5 && getF t.dev (F.mcDpuMap_spares_left 0) == 1) = true ∧
    after (exec (.rowRetry 0 5) (failing5 [5] [(F.mcDpuMap_out0 0, 6)])) (fun t => getF t.dev (F.mcDpuMap_out1 0) == 5) = true ∧
    after (exec (.rowRetry 0 5) (failing5 [5] [(F.mcDpuMap_out0 0, 6), (F.mcDpuMap_out1 0, 7)])) (fun t =>
      getF t.dev (F.mcDpuMap_retired 0) == 1 && !ownsCluster t.dev 0 0) = true := by decide +kernel
theorem test_accQueryWrite : reachesCluster (atWord 0).dev (.host 0) 0 = true ∧
    after (exec (.accQueryWrite (.host 0) 0 447) (atWord 0)) (fun t => getF t.dev (F.mcAccQuery_tile 0) == 447) = true := by decide

/-! ## The vector units -/

/-- A VOP of function fn on unit 0: vd is descriptor 1, va 2, vb 3, vc 4, vm 5. -/
def vop (fn : Nat) (l : List (Nat × Nat)) : Nat := word ([(0, 0x30), (20, fn), (59, 1)] ++ l)
/-- Its operands: 1 x 2 tiles of FP32, 1.0 and 2.0 in va, 3.0 and 3.0 in vb; a mask of 1 and 0; masks 6 (in vd) and 7. -/
def vopState (w : Nat) (f : Tab FKey Nat := []) : State :=
  inBank (inBank (inBank (atWord w (f ++ (tile 1 0 0 1 2 ++ tile 2 0 64 1 2 ++ tile 3 0 128 1 2 ++ tile 4 0 192 1 2 ++ tile 5 0x10 256 1 1 ++
    tile 6 0x10 320 1 1 ++ tile 7 0x10 384 1 1))) 64 (one32 ++ leBytes 4 0x40000000)) 128 (leBytes 4 0x40400000 ++ leBytes 4 0x40400000)) 256 [1]
/-- The first two elements of vd afterwards. -/
def vd (i : Instr) (w : Nat) (f : Tab FKey Nat := []) : Option (Nat × Nat) :=
  match exec i (vopState w f) with
  | .next t => some (viewNat t.dev 0 (spadBase 0 + 0x200000) 4, viewNat t.dev 0 (spadBase 0 + 0x200004) 4)
  | _ => none

/-- Operand fields vd, va, vb. -/
def abd : List (Nat × Nat) := [(28, 1), (34, 2), (40, 3)]

theorem test_vadd : let w := vop 0 abd
    issuing (vopState w) 0 0 w = true ∧ wOp w = 0x30 ∧ wFn w = 0 ∧ (goVadd 0 0 w (takeWen (vopState w).dev 0 w)).free = true ∧
    (fpOf ((⟨0, 0, w⟩ : Vop).vd (takeWen (vopState w).dev 0 w)).fmt).isSome = true := by decide
theorem test_vadd_result : vd (.vadd 0) (vop 0 abd) = some (0x40800000, 0x40A00000) := by decide +kernel
/-- vd begins one element after va: reads of va are free, and where they coincide they are not (R179). -/
theorem test_clash : let e := (vopState 0 [(F.mcTdesc0_base 0 1, spadBase 0 + 0x200000 + 68)]).dev
    clashes (clash (descOf e 0 1) [descOf e 0 2, descOf e 0 3] []) = true ∧ clashes (clash (descOf e 0 2) [descOf e 0 2] []) = false ∧
    badOverlap (descOf e 0 1) (descOf e 0 2) = true ∧ clash (descOf e 0 1) [descOf e 0 2, descOf e 0 4] [] 1 = false := by decide +kernel
theorem test_vmul : let w := vop 1 abd
    (goVmul 0 0 w (takeWen (vopState w).dev 0 w)).free = true ∧ vd (.vmul 0) w = some (0x40400000, 0x40C00000) := by decide +kernel
theorem test_vfma : let w := vop 2 (abd ++ [(46, 4)])
    (goVfma 0 0 w (takeWen (vopState w).dev 0 w)).free = true ∧ vd (.vfma 0) w = some (0x40400000, 0x40C00000) := by decide +kernel
theorem test_vfmas : let w := vop 3 (abd ++ [(64, 0x40000000)])
    (goVfmas 0 0 w (takeWen (vopState w).dev 0 w)).free = true ∧ vd (.vfmas 0) w = some (0x40A00000, 0x40E00000) := by decide +kernel
theorem test_vmin : let w := vop 6 abd
    (goVmin 0 0 w (takeWen (vopState w).dev 0 w)).free = true ∧ vd (.vmin 0) w = some (0x3F800000, 0x40000000) := by decide +kernel
theorem test_vmax : let w := vop 7 (abd ++ [(58, 1), (52, 5)])
    (goVmax 0 0 w (takeWen (vopState w).dev 0 w)).free = true ∧ vd (.vmax 0) w = some (0x40400000, 0) := by decide +kernel
theorem test_vcmp : let w := vop 4 [(28, 6), (34, 2), (40, 3), (64, 2)]
    issuing (vopState w) 0 0 w = true ∧ (goVcmp 0 0 w (takeWen (vopState w).dev 0 w)).free = true ∧
    after (exec (.vcmp 0) (vopState w)) (fun t => viewNat t.dev 0 (spadBase 0 + 0x200140) 4 == 3) = true := by decide +kernel
theorem test_vsel : let w := vop 5 (abd ++ [(52, 5)])
    issuing (vopState w) 0 0 w = true ∧ (goVsel 0 0 w (takeWen (vopState w).dev 0 w)).free = true ∧
    (descOf (takeWen (vopState w).dev 0 w) 0 (wVd w)).fmt ≠ 0x0A ∧ vd (.vsel 0) w = some (0x3F800000, 0x40400000) := by decide +kernel
theorem test_vcvt : let w := vop 8 [(28, 1), (34, 2)]
    issuing (vopState w) 0 0 w = true ∧ (goVcvt 0 0 w (takeWen (vopState w).dev 0 w)).free = true ∧
    (fpOf (descOf (takeWen (vopState w).dev 0 w) 0 (wVd w)).fmt).isSome = true ∧
    vd (.vcvt 0) w = some (0x3F800000, 0x40000000) := by decide +kernel
theorem test_vmask : let w := vop 9 [(28, 6), (34, 5), (40, 7), (64, 1)]
    issuing (vopState w) 0 0 w = true ∧ (goVmask 0 0 w (takeWen (vopState w).dev 0 w)).free = true ∧
    after (exec (.vmask 0) (vopState w)) (fun t => viewNat t.dev 0 (spadBase 0 + 0x200140) 4 == 1) = true := by decide +kernel
theorem test_vcompress : let w := vop 10 [(28, 1), (34, 2), (52, 5), (64, 9)]
    let s := { vopState w with dev := { (vopState w).dev with f := (F.mcTdesc1_cols 0 1, 1) :: (vopState w).dev.f } }
    issuing s 0 0 w = true ∧ (goVcompress 0 0 w (takeWen s.dev 0 w)).free = true ∧
    badOverlap (descOf (takeWen s.dev 0 w) 0 (wVd w)) (descOf (takeWen s.dev 0 w) 0 (wVa w)) = false ∧
    badOverlap (descOf (takeWen s.dev 0 w) 0 (wVd w)) (descOf (takeWen s.dev 0 w) 0 (wVm w)) = false ∧
    after (exec (.vcompress 0) s) (fun t => getF t.dev (F.mcG_value 0 9) == 1 && viewNat t.dev 0 (spadBase 0 + 0x200000) 4 == 0x3F800000) = true := by decide +kernel
theorem test_vexpand : let w := vop 11 [(28, 1), (34, 2), (52, 5), (64, 9)]
    issuing (vopState w) 0 0 w = true ∧ (goVexpand 0 0 w (takeWen (vopState w).dev 0 w)).free = true ∧
    badOverlap (descOf (takeWen (vopState w).dev 0 w) 0 (wVd w)) (descOf (takeWen (vopState w).dev 0 w) 0 (wVa w)) = false ∧
    badOverlap (descOf (takeWen (vopState w).dev 0 w) 0 (wVd w)) (descOf (takeWen (vopState w).dev 0 w) 0 (wVm w)) = false ∧
    after (exec (.vexpand 0) (vopState w)) (fun t => getF t.dev (F.mcG_value 0 9) == 1) = true ∧ vd (.vexpand 0) w = some (0x3F800000, 0) := by decide +kernel
theorem test_vrng : let w := vop 12 [(28, 6)]
    issuing (vopState w) 0 0 w = true ∧ wImm32 w % 4 ≠ 2 ∧ (goVrng 0 0 w (takeWen (vopState w).dev 0 w)).free = true := by decide +kernel
theorem test_vseq : let w := vop 13 [(28, 1), (34, 2), (64, 4)]
    let f := [(F.vecSeqMap_loaded 0, 2 ^ 64 - 1)]
    issuing (vopState w f) 0 0 w = true ∧ (goVseq 0 0 w (takeWen (vopState w f).dev 0 w)).free = true ∧
    (fpOf (descOf (takeWen (vopState w f).dev 0 w) 0 (wVd w)).fmt).isSome = true ∧ vd (.vseq 0) w f = some (0x3F800000, 0x3F000000) := by decide +kernel
/-- A pair result in descriptor 8. -/
def pairTile : Tab FKey Nat := tile 8 0x11 448 1 2
/-- The pair afterwards. -/
def pair (i : Instr) (w : Nat) : Option (Nat × Nat) :=
  match exec i (vopState w pairTile) with
  | .next t => some (viewNat t.dev 0 (spadBase 0 + 0x2001C0) 8, viewNat t.dev 0 (spadBase 0 + 0x2001C8) 8)
  | _ => none

theorem test_vredmax : let w := vop 14 [(28, 8), (34, 2)]
    issuing (vopState w pairTile) 0 0 w = true ∧ (goVredmax 0 0 w (takeWen (vopState w pairTile).dev 0 w)).free = true ∧
    clashes (clash (descOf (vopState w pairTile).dev 0 8) [descOf (vopState w pairTile).dev 0 2] []) = false ∧
    pair (.vredmax 0) w = some (0x40000000, 1) := by decide +kernel
theorem test_vredmin : let w := vop 15 [(28, 8), (34, 2)]
    issuing (vopState w pairTile) 0 0 w = true ∧ (goVredmin 0 0 w (takeWen (vopState w pairTile).dev 0 w)).free = true ∧
    pair (.vredmin 0) w = some (0x3F800000, 0) := by decide +kernel
theorem test_vnonfin : let w := vop 16 [(34, 2)]
    issuing (vopState w) 0 0 w = true ∧ (goVnonfin 0 0 w (takeWen (vopState w).dev 0 w)).free = true ∧
    after (exec (.vnonfin 0) (vopState w)) (fun t => (clusterOf t.dev 0).jobs.map Job.nonfin == [false]) = true := by decide +kernel
theorem test_vectorOpComplete : let s := atWord 0 [] { Cluster.idle with jobs := [job (.vec 3)] }
    s.dev.powerGood = true ∧ nthJob s.dev 0 Job.onVec 0 = some (0, job (.vec 3)) ∧ (clusterOf s.dev 0).waiting = none ∧
    (clusterOf s.dev 0).pend = none ∧
    after (exec (.vectorOpComplete 0 0) s) (fun t => getF t.dev (F.vecUnit_done 0 0) == 1 && getF t.dev (F.vecUnit_done 0 1) == 1 &&
      getF t.dev (F.vecUnit_done 0 2) == 0 && (clusterOf t.dev 0).jobs == []) = true := by decide

/-! ## The kiln -/

/-- A page of HBM in frame f. -/
def hbmPage (f : Nat) : Page := ⟨.hbm, f, 0, false, none, 0, false, .sound, 0, none⟩

/-- Page 0 of partition 0's HBM window in frame 0, with some bytes at its start, further fields. -/
def withPage (f : Tab FKey Nat) (l : List Byte := []) : State :=
  { State.reset with dev := { State.reset.dev with f := f, pages := [((0, .hbm, 0), hbmPage 0)], mem := memPutList [] 0 l } }

/-- Core 0 is granted and awake, with a ring of four entries at address 0. -/
def kilnRing : Tab FKey Nat := [(F.klnPcfg_cores 0, 1), (F.klnCore_state 0, 1), (F.klnRing_en 0, 1), (F.klnRing_size_log2 0, 2)]

theorem test_kilnRingEnable : let v : Word := BitVec.ofNat 64 (word [(48, 2), (63, 1)])
    let u : Word := BitVec.ofNat 64 (word [(0, 0x014000000000), (48, 2), (63, 1)])
    let s := withPage []
    s.dev.powerGood = true ∧ flag s.dev (F.klnRing_en 0) = false ∧ bitOf v.toNat 63 = true ∧ 2 ≤ bits v.toNat 51 48 ∧ bits v.toNat 51 48 ≤ 12 ∧
    128 * bits v.toNat 47 7 < 0x014000000000 ∧ 0x014000000000 ≤ 128 * bits u.toNat 47 7 ∧
    after (exec (.kilnRingEnable 0 v) s) (fun t => getF t.dev (F.klnRing_en 0) == 1) = true ∧
    after (exec (.kilnRingEnable 0 u) s) (fun t => getF t.dev (F.klnRstat_ring_err 0) == 1 && getF t.dev (F.klnRing_en 0) == 0) = true ∧
    after (exec (.kilnRingEnable 0 v) (withPage kilnRing)) (fun t => getF t.dev (F.klnRstat_wr_err 0) == 1) = true := by decide
theorem test_kilnRingDisable : flag (withPage kilnRing).dev (F.klnRing_en 0) = true ∧ bitOf (0 : Word).toNat 63 = false ∧
    after (exec (.kilnRingDisable 0 0) (withPage kilnRing)) (fun t => getF t.dev (F.klnRing_en 0) == 0) = true := by decide

/-- A job of order n with given words 0 and further words, its slot at 0, its block at 0x2000. -/
def kjob (w0 n : Nat) (l : List (Nat × Nat) := []) : KilnJob :=
  let ws := (List.range 16).map (fun i => if i = 0 then w0 else if i = 3 then 0x2000 else if i = 5 then n else
    ((l.find? (fun x => x.1 == i)).map Prod.snd).getD 0)
  { idx := 0, slot := 0, words := ws, ftc := 0, started := true, upTo := false, want := 1, cores := [0], banks := [], late := false
    mode := none, decided := false, folded := none, retries := 0, work := KilnWork.fresh, outcome := none, atDeadline := false }

/-- Core 0 at work on a job, its block's factor entry (0, 0) and c as given, s_c 1. -/
def kilnAt (j : KilnJob) (x : Nat := 0) (c : Nat := 1) : State :=
  let s := withPage [(F.klnPcfg_cores 0, 1), (F.klnCore_state 0, 2), (F.klnPcfg_bank_cnt 0, 1)]
  { s with dev := { s.dev with kjobs := [(0, [j])], mem := memPutList (memPutList [] 0x2018 (leBytes 8 (0x3F800000 * 2 ^ 32 + c))) 0x3000 (leBytes 4 x) } }

theorem test_kilnJobPickup : let s := withPage kilnRing (leBytes 8 (1 + 6 * 16))
    let u := { s with dev := { s.dev with pages := [((0, .hbm, 0), { hbmPage 0 with poison := .refilling })] } }
    let j := newJob s.dev 0 0 0
    flag s.dev (F.klnRing_en 0) = true ∧ heldWrite s.dev 0 0 128 = false ∧ viewNat s.dev 0 0 8 % 2 = 1 ∧ freeCores s.dev 0 ≠ [] ∧
    heldRange s.dev 0 j.fblk 64 = false ∧
    pickupCode (setF (noteRead (noteRead s.dev 0 0 128) 0 j.fblk 64) (F.klnRhead_head 0) 1) 0 j = some 0x10 ∧
    heldWrite u.dev 0 0 128 = true ∧ viewNat u.dev 0 0 8 % 2 = 1 ∧
    after (exec (.kilnJobPickup 0) u) (fun t => getF t.dev (F.klnRhead_head 0) == 0) = true := by decide +kernel
theorem test_kilnJobPickup_job : let w := leBytes 8 1 ++ leBytes 8 0 ++ leBytes 8 0 ++ leBytes 8 0x1000 ++ leBytes 8 0 ++ leBytes 8 32
    let s := withPage kilnRing w
    let j := newJob s.dev 0 0 0
    viewNat s.dev 0 0 8 % 2 = 1 ∧ j.fblk = 0x1000 ∧
    pickupCode (setF (noteRead (noteRead s.dev 0 0 128) 0 j.fblk 64) (F.klnRhead_head 0) 1) 0 j = none ∧
    after (exec (.kilnJobPickup 0) s) (fun t => (kjobsOf t.dev 0).length == 1 && getF t.dev (F.klnRhead_head 0) == 1) = true := by decide +kernel
theorem test_kilnJobStart : let j := { kjob 0 1 with started := false, cores := [] }
    let s := { kilnAt j with dev := { (kilnAt j).dev with f := [(F.klnPcfg_cores 0, 1), (F.klnCore_state 0, 1)] } }
    startable? s.dev 0 = some (0, j, [0], []) ∧
    after (exec (.kilnJobStart 0) s) (fun t => (kjobsOf t.dev 0).map KilnJob.cores == [[0]]) = true := by decide

theorem test_init : workingJob (kilnAt (kjob 0 1)).dev 0 0 = some (kjob 0 1) ∧ (kjob 0 1).op = 0 ∧ foldDone (kjob 0 1) = true ∧
    jobHeld (kilnAt (kjob 0 1)).dev 0 (kjob 0 1) = false ∧
    after (exec (.init 0 0) (kilnAt (kjob 0 1) 7)) (fun t => (kjobsOf t.dev 0).map KilnJob.outcome == [some 6] &&
      viewNat t.dev 0 0x3000 4 == 7) = true := by decide +kernel

/-- A CHOL that folds, whose gyle's outcome the descriptor records as kept or skipped. -/
def foldJob (skipped : Nat) : KilnJob := kjob (3 * 16 + 2 ^ 14) 1 [(12, 2 ^ 17 + skipped * 2 ^ 18)]

theorem test_fold : workingJob (kilnAt (foldJob 0)).dev 0 0 = some (foldJob 0) ∧ (foldJob 0).folds = true ∧ (foldJob 0).decided = false ∧
    (foldJob 0).folded = none ∧ skipDecision (kilnAt (foldJob 0)).dev 0 (foldJob 0) = some (some false) ∧
    matFinite (foldedFactor (kilnAt (foldJob 0)).dev 0 (foldJob 0)) = true ∧ (foldJob 0).op ≠ 1 ∧
    jobHeld (kilnAt (foldJob 0)).dev 0 (foldJob 0) = false ∧
    after (exec (.fold 0 0) (kilnAt (foldJob 0))) (fun t => (kjobsOf t.dev 0).map (fun j => j.folded.isSome) == [true]) = true := by decide
theorem test_fold_skipped : workingJob (kilnAt (foldJob 1)).dev 0 0 = some (foldJob 1) ∧
    skipDecision (kilnAt (foldJob 1)).dev 0 (foldJob 1) = some (some true) ∧
    after (exec (.fold 0 0) (kilnAt (foldJob 1))) (fun t => (kjobsOf t.dev 0).map KilnJob.outcome == [some 0x0C]) = true := by decide
/-- A CHOL that folds and asks the history for gyle 5. -/
def askJob : KilnJob := kjob (3 * 16 + 2 ^ 14) 1 [(2, 5)]
/-- The flag check of gyle 5 is done, and the history is as given. -/
def asked (l : List (Nat × Bool)) : State :=
  { kilnAt askJob with dev := { (kilnAt askJob).dev with
      f := [(F.klnPcfg_cores 0, 1), (F.klnCore_state 0, 2), (F.fabNflag_chk_valid 0, 1), (F.fabNflag_chk_gyle 0, 5)], history := [(0, l)] } }
theorem test_fold_lost : workingJob (asked []).dev 0 0 = some askJob ∧ skipDecision (asked []).dev 0 askJob = some none ∧
    after (exec (.fold 0 0) (asked [])) (fun t => (kjobsOf t.dev 0).map KilnJob.outcome == [some 0x19]) = true := by decide
theorem test_foldOutcomeAvailable : workingJob (asked [(5, true)]).dev 0 0 = some askJob ∧ bitOf (askJob.w 12) 17 = false ∧
    skipDecision (asked [(5, true)]).dev 0 askJob = some (some true) ∧
    after (exec (.foldOutcomeAvailable 0 0) (asked [(5, true)])) (fun t => (kjobsOf t.dev 0).map KilnJob.outcome == [some 0x0C]) = true := by
  decide

theorem test_root : workingJob (kilnAt (kjob 32 1)).dev 0 0 = some (kjob 32 1) ∧ (kjob 32 1).op = 2 ∧ (kjob 32 1).outcome = none ∧
    streams (kilnAt (kjob 32 1)).dev 0 (kjob 32 1) = false ∧ foldDone (kjob 32 1) = true ∧
    after (exec (.root 0 0 1 []) (kilnAt (kjob 32 1) 0 0)) (fun t => (kjobsOf t.dev 0).map KilnJob.outcome == [some 4]) = true := by decide +kernel
/-- The job of order 1 streams, no bank being granted; cluster 0 lends 16 tiles and eight banks of a given owner to it. -/
def lending (owner : Nat) : State :=
  let s := kilnAt (kjob 32 1) 0x3F800000
  { s with dev := { s.dev with f := [(F.klnPcfg_cores 0, 1), (F.klnCore_state 0, 2), (F.klnPcfg_bank_cnt 0, 0), (F.hostPcfg_clusters 0, 1), (F.mcLend_enable 0, 1),
    (F.mcLend_acc_cnt 0, 16), (F.mcLend_bank_mask 0, 0xFF)] ++ (List.range 8).map (fun b => (F.bankOwner_owner 0 b, owner)) } }
theorem test_root_guest :
    let takes (s : State) : List (Nat × Nat) :=
      let r := rootLoop 0 1 (noteRead s.dev 0 0x2000 (blockSize 1)) (rootReady s.dev 0 (kjob 32 1))
      guestTakes s.dev 0 1 (r.2.work.iter * (2 + (kjob 32 1).pLog) * tilesOf 1) false [(0, 1)]
    streams (lending 2).dev 0 (kjob 32 1) = true ∧ workingJob (lending 2).dev 0 0 = some (kjob 32 1) ∧ takes (lending 2) = [(0, 1)] ∧
    guestShut (lending 2).dev 0 = false ∧ inBubble (lending 2).dev 0 = true ∧ takes (lending 0) = [(0, 1)] ∧ guestShut (lending 0).dev 0 = true ∧
    jobMode (lending 2).dev 0 (kjob 32 1) ≠ 1 ∧ jobMode (lending 2).dev 0 (kjob 32 1) ≠ 3 ∧
    after (exec (.root 0 0 1 [(0, 1)]) (lending 0)) (fun t => getF t.dev (F.bankStatus_nonown 0) == 1 &&
      (kjobsOf t.dev 0).map KilnJob.retries == [1]) = true := by decide +kernel
set_option maxRecDepth 20000 in
theorem test_chol : workingJob (kilnAt (kjob 48 1) 0x3F800000).dev 0 0 = some (kjob 48 1) ∧ (kjob 48 1).op = 3 ∧ ¬((kjob 48 1).policy = 2 ∧ (kjob 48 1).repStatus = 9) ∧
    (factorise false 1 false (prepareJob (kilnAt (kjob 48 1) 0x3F800000).dev 0 (kjob 48 1))).ready = true := by decide
theorem test_chol_overflow : workingJob (kilnAt (kjob 48 1) 0x7F800000).dev 0 0 = some (kjob 48 1) ∧ (kjob 48 1).op = 3 ∧
    (factorise false 1 false (prepareJob (kilnAt (kjob 48 1) 0x7F800000).dev 0 (kjob 48 1))).ready = false ∧
    after (exec (.chol 0 0) (kilnAt (kjob 48 1) 0x7F800000)) (fun t => (kjobsOf t.dev 0).map KilnJob.outcome == [some 0x0B]) = true := by decide
theorem test_ldlt : workingJob (kilnAt (kjob 64 1) 0x40800000).dev 0 0 = some (kjob 64 1) ∧ (kjob 64 1).op = 4 ∧
    (factorise false 1 true (prepareJob (kilnAt (kjob 64 1) 0x40800000).dev 0 (kjob 64 1))).ready = true ∧
    (factorise false 1 true (prepareJob (kilnAt (kjob 64 1) 0x7F800000).dev 0 (kjob 64 1))).ready = false ∧
    after (exec (.ldlt 0 0) (kilnAt (kjob 64 1) 0x40800000)) (fun t => (kjobsOf t.dev 0).map KilnJob.outcome == [some 7]) = true := by decide
/-- A REPLAY of an abandoned job. -/
def replay9 (op : Nat) : KilnJob := kjob (op * 16 + 2 * 2 ^ 8) 1 [(12, 9 * 2 ^ 8)]
theorem test_replay9 : workingJob (kilnAt (replay9 3)).dev 0 0 = some (replay9 3) ∧ (replay9 3).op = 3 ∧ workingJob (kilnAt (replay9 4)).dev 0 0 = some (replay9 4) ∧ (replay9 4).op = 4 ∧
    (replay9 3).policy = 2 ∧ (replay9 3).repStatus = 9 ∧
    after (exec (.chol 0 0) (kilnAt (replay9 3))) (fun t => (kjobsOf t.dev 0).map KilnJob.outcome == [some 9]) = true := by decide
theorem test_solve : let j := kjob 80 1
    workingJob (kilnAt j).dev 0 0 = some j ∧ j.op = 5 ∧ ¬(j.policy = 2 ∧ j.repStatus = 9) ∧
    after (exec (.solve 0 0 0) (kilnAt j 0x7F800000)) (fun t => (kjobsOf t.dev 0).map KilnJob.outcome == [some 0x0B]) = true := by decide
theorem test_operations_held : let u := { kilnAt (kjob 48 1) with dev := { (kilnAt (kjob 48 1)).dev with
      pages := [((0, .hbm, 0), { hbmPage 0 with poison := .refilling })] } }
    workingJob u.dev 0 0 = some (kjob 48 1) ∧ jobHeld u.dev 0 (kjob 48 1) = true ∧
    after (exec (.chol 0 0) u) (fun t => (kjobsOf t.dev 0).map KilnJob.outcome == [none]) = true := by decide +kernel
/-- A statistic that is not finite ends the fold (R148). -/
theorem test_fold_overflow : let j := kjob (3 * 16 + 2 ^ 14) 1 [(12, 2 ^ 17), (4, 0x4000)]
    let s := { kilnAt j with dev := { (kilnAt j).dev with mem := memPutList (kilnAt j).dev.mem 0x4000 (leBytes 8 (2 ^ 63)) } }
    skipDecision s.dev 0 j = some (some false) ∧ j.gaddr = 0x4000 := by decide +kernel

set_option maxRecDepth 20000 in
theorem test_kilnJobResolve : let j := { kjob 48 1 with outcome := some 7 }
    let u := { kilnAt j with dev := { (kilnAt j).dev with pages := [((0, .hbm, 0), { hbmPage 0 with poison := .refilling })] } }
    (kjobsOf (kilnAt j).dev 0)[0]? = some j ∧ j.outcome = some 7 ∧ jobHeld (kilnAt j).dev 0 j = false ∧ j.atDeadline = false ∧
    after (exec (.kilnJobResolve 0 0) (kilnAt j)) (fun t => kjobsOf t.dev 0 == [] && getF t.dev (F.klnRstat_resolved 0) == 1 &&
      (batchOf t.dev 0 0).early.map KilnEntry.status == [7]) = true ∧
    jobHeld u.dev 0 j = true ∧ after (exec (.kilnJobResolve 0 0) u) (fun t => (kjobsOf t.dev 0).length == 1) = true := by decide +kernel
theorem test_kilnJobResolve_init : let j := { kjob 0 1 with outcome := some 6 }
    after (exec (.kilnJobResolve 0 0) (kilnAt j 7)) (fun t => viewNat t.dev 0 (rootSlot 0x2000 1 0) 4 == 0x3F800000) = true := by decide +kernel
set_option maxRecDepth 20000 in
theorem test_kilnDeadlineCommit : let j := { kjob 48 1 with outcome := some 9, atDeadline := true }
    (kjobsOf (kilnAt j).dev 0)[0]? = some j ∧ jobHeld (kilnAt j).dev 0 j = false ∧ j.atDeadline = true ∧
    after (exec (.kilnDeadlineCommit 0 0) (kilnAt j)) (fun t => kjobsOf t.dev 0 == [] && getF t.dev (F.klnCnt_stale_kept 0) == 1) = true := by
  decide
set_option maxRecDepth 20000 in
theorem test_kilnAttemptRestart : let j := { kjob 48 1 with banks := [3] }
    (kjobsOf (kilnAt j).dev 0)[0]? = some j ∧ j.started = true ∧ j.outcome = none ∧ j.banks ≠ [] ∧ j.cores ≠ [] ∧ j.retries < 2 ∧
    after (exec (.kilnAttemptRestart 0 0 .bank) (kilnAt j)) (fun t => (kjobsOf t.dev 0).map KilnJob.retries == [1]) = true := by decide
theorem test_kilnAttemptRestart_core : let j := { kjob 32 1 with cores := [0, 1], banks := [3] }
    let s (fails : List Nat) (n : Nat) : State := { kilnAt j with dev := { (kilnAt j).dev with
      kjobs := [(0, [{ j with retries := n }])], coreFails := fails } }
    streams (withPage [(F.klnPcfg_bank_cnt 0, 0)]).dev 0 j = true ∧ 0 ∈ j.cores ∧ (∃ x ∈ j.cores, x ≠ 0) ∧
    after (exec (.kilnAttemptRestart 0 0 (.core 0)) (s [] 0)) (fun t => (kjobsOf t.dev 0).map (fun x => (x.retries, x.want)) == [(1, 2)]) = true ∧
    after (exec (.kilnAttemptRestart 0 0 (.core 0)) (s [0] 0)) (fun t => (kjobsOf t.dev 0).map KilnJob.cores == [[1]]) = true ∧
    after (exec (.kilnAttemptRestart 0 0 .bank) (s [] 2)) (fun t => kjobsOf t.dev 0 == [] && getF t.dev (F.klnIrq_err 0) == 1) = true ∧
    after (exec (.kilnBankScrub 3 .uncorrectable) (s [] 0)) (fun t => (kjobsOf t.dev 0).map KilnJob.retries == [1]) = true := by decide +kernel
theorem test_kilnBankScrub : (∀ q < 4, ∀ x ∈ kjobsOf State.reset.dev q, (3 : Fin 52).val ∉ x.banks) ∧
    after (exec (.kilnBankScrub 3 .uncorrectable) State.reset) (fun t => t.dev.reports == [.moduleFault (.kilnBank 3)]) = true ∧
    after (exec (.kilnBankScrub 3 (.correctable 7)) State.reset) (fun t => t.dev.kilnCe == [(3, 1)]) = true := by decide +kernel

/-! ## The rack -/

/-- The descriptor of a layer of one element, its second moment of rank 1, its arrays in page 0, further bits of words 4 and 8. -/
def layer (w4 w8 : Nat := 0) : List Nat :=
  [0x4000, 0x5000, 0x6000, 0x7000, 0x8000 + w4, 0x2000, 0x1000, 2 ^ 32, 1 + 2 ^ 16 + 2 ^ 35 + w8, 0, 0, 0x3F800000, 0, 3 * 2 ^ 28 + 1, 0, 0]

/-- Partition 0 has rack unit 0 and cluster 0, a sweep list of that layer at address 128, and further fields. -/
def rackState (f : Tab FKey Nat) (ws : List Nat := layer) : State :=
  let s := withPage (f ++ [(F.hostPcfg_clusters 0, 1), (F.rkPcfg_units 0, 3), (F.rkSlist_base 0, 1), (F.rkSlist_count 0, 1),
    (F.rkChkl_base 0, 1), (F.rkChkl_count 0, 1)])
  { s with dev := { s.dev with mem := memPutList [] 128 (ws.flatMap (leBytes 8)) } }

/-- The flag check of gyle 1 is done. -/
def checked1 : Tab FKey Nat := [(F.fabNflag_chk_valid 0, 1), (F.fabNflag_chk_gyle 0, 1)]

/-- A request for gyle g. -/
def asks (g : Nat) : Word := BitVec.ofNat 64 (2 ^ 63 + g)

theorem test_sweepStart_armed : let s := rackState checked1
    s.dev.powerGood = true ∧ bitOf (asks 2).toNat 63 = true ∧ bitOf (asks 2).toNat 62 = false ∧ rackLocked s.dev 0 = false ∧
    bits (asks 2).toNat 47 0 ≠ noGyle ∧ getF s.dev (F.fabNflag_chk_gyle 0) + 1 = 2 ∧
    after (exec (.sweepStart 0 (asks 2)) s) (fun t => sweepState t.dev 0 == 1) = true ∧
    after (exec (.sweepStart 0 (asks 2)) (rackState [])) (fun t => sweepState t.dev 0 == 1) = true := by decide
theorem test_sweepStart : let s := rackState checked1
    let fields := setF (setF s.dev (F.rkSweep_resume 0) 0) (F.rkSweep_gyle 0) 1
    flag s.dev (F.fabNflag_chk_valid 0) = true ∧ getF s.dev (F.fabNflag_chk_gyle 0) = 1 ∧ earlyCode fields 0 = none ∧
    evalHeld fields 0 = false ∧ listCode fields 0 1 = none ∧ ownedLayers fields 0 = [layer] ∧
    after (exec (.sweepStart 0 (asks 1)) s) (fun t => sweepState t.dev 0 == 2 && (sweepOf t.dev 0).units == [0, 1]) = true := by decide +kernel
theorem test_sweepStart_held : let s := { rackState checked1 with dev := { (rackState checked1).dev with
      pages := [((0, .hbm, 0), { hbmPage 0 with poison := .refilling })] } }
    earlyCode s.dev 0 = none ∧ evalHeld s.dev 0 = true ∧
    after (exec (.sweepStart 0 (asks 1)) s) (fun t => sweepState t.dev 0 == 1 && t.dev.evals.length == 1) = true := by decide +kernel
theorem test_sweepStart_refused : let s := rackState ((F.fabNflag_red_nonfin 0, 1) :: checked1)
    let u := rackState checked1 (layer 1)
    earlyCode s.dev 0 = some 3 ∧ earlyCode u.dev 0 = none ∧ evalHeld u.dev 0 = false ∧ listCode u.dev 0 1 = some 6 ∧
    after (exec (.sweepStart 0 (asks 1)) s) (fun t => sweepState t.dev 0 == 6 && getF t.dev (F.rkSstat_err 0) == 3) = true ∧
    after (exec (.sweepStart 0 (asks 1)) u) (fun t => sweepState t.dev 0 == 6 && getF t.dev (F.rkSstat_err 0) == 6) = true ∧
    after (exec (.sweepStart 0 (asks 3)) (rackState checked1)) (fun t => getF t.dev (F.rkSstat_err 0) == 2) = true := by decide +kernel
theorem test_sweepStart_busy : let s := rackState [(F.rkSstat_state 0, 2)]
    sweepBusy s.dev 0 = true ∧ getF s.dev (F.rkSweep_gyle 0) ≠ noGyle ∧ bits (asks noGyle).toNat 47 0 = noGyle ∧
    after (exec (.sweepStart 0 (asks 1)) s) (fun t => sweepState t.dev 0 == 2 && getF t.dev (F.rkSstat_err 0) == 1) = true ∧
    after (exec (.sweepStart 0 (asks noGyle)) s) (fun t => sweepState t.dev 0 == 2 && getF t.dev (F.rkSstat_err 0) == 5) = true ∧
    after (exec (.sweepStart 0 (asks noGyle)) (rackState [])) (fun t => sweepState t.dev 0 == 6) = true := by decide +kernel
theorem test_sweepStop : let v : Word := BitVec.ofNat 64 (2 ^ 62)
    let s := rackState [(F.rkSstat_state 0, 2)]
    bitOf v.toNat 62 = true ∧ bitOf v.toNat 63 = false ∧ sweepState s.dev 0 = 2 ∧
    after (exec (.sweepStop 0 v) s) (fun t => sweepState t.dev 0 == 4 && getF t.dev (F.rkIrq_done 0) == 1) = true := by decide

/-- A sweep of gyle 1 over that layer runs, from block 0, with header words 0 and 1 of the block as given, and the units' work. -/
def sweeping (resume : Bool) (m x : Nat) (ws : List Nat := layer) (work : Tab Nat RackWork := []) (f : Tab FKey Nat := []) : State :=
  let s := rackState (f ++ [(F.rkSstat_state 0, 2), (F.rkUnit_state 0, 2)])
  { s with dev := { s.dev with
      mem := memPutList [] 0x2000 (leBytes 8 m ++ leBytes 8 x), rack := work
      sweeps := [(0, ⟨1, 0, resume, 0, [⟨ws, 1, false⟩], 0, 0, true, 0, 0, false, [0, 1], []⟩)] } }

theorem test_blockHandout : let s := sweeping false 0 0
    sweepState s.dev 0 = 2 ∧ (sweepOf s.dev 0).stamp = false ∧ (sweepOf s.dev 0).layer < (sweepOf s.dev 0).layers.length ∧
    unitReady s.dev 0 0 = true ∧ heldRange s.dev 0 (lHead layer) 64 = false ∧ againFor s.dev 0 0 = none ∧ (sweepOf s.dev 0).begun = true ∧
    bits (headerWord s.dev 0 layer 0 0) 47 0 = bits (headerWord s.dev 0 layer 0 1) 47 0 ∧ bits (headerWord s.dev 0 layer 0 0) 47 0 ≠ 1 ∧
    after (exec (.blockHandout 0 0) s) (fun t => workOf t.dev 0 == some ⟨0, 0, 0, none, false⟩ && (sweepOf t.dev 0).handed == 1) = true := by
  decide +kernel
theorem test_blockHandout_first : let s := sweeping false 0 0
    let w := { sweepOf s.dev 0 with begun := false }
    let u := { s with dev := { s.dev with sweeps := [(0, w)] } }
    let v := { s with dev := { s.dev with pages := [((0, .hbm, 0), { hbmPage 0 with poison := .refilling })] } }
    let a := { s with dev := { s.dev with sweeps := [(0, { sweepOf s.dev 0 with again := [(⟨0, 0, 0, none, true⟩, 1)] })] } }
    heldWrite u.dev 0 (lRecord layer) (recordSize layer) = false ∧ heldRange v.dev 0 (lHead layer) 64 = true ∧
    againFor a.dev 0 0 = some (⟨0, 0, 0, none, true⟩, 1) ∧
    after (exec (.blockHandout 0 0) u) (fun t => (sweepOf t.dev 0).begun && workOf t.dev 0 == none) = true ∧
    after (exec (.blockHandout 0 0) v) (fun t => workOf t.dev 0 == none) = true ∧
    after (exec (.blockHandout 0 0) a) (fun t => workOf t.dev 0 == some ⟨0, 0, 0, none, true⟩ && (sweepOf t.dev 0).again == []) = true := by
  decide +kernel
theorem test_blockHandout_resume : (sweepOf (sweeping true 1 0).dev 0).resume = true ∧
    bits (headerWord (sweeping true 1 0).dev 0 layer 0 0) 47 0 = 1 ∧ bits (headerWord (sweeping true 1 0).dev 0 layer 0 1) 47 0 ≠ 1 ∧
    bits (headerWord (sweeping true 1 1).dev 0 layer 0 1) 47 0 = 1 ∧
    after (exec (.blockHandout 0 0) (sweeping true 1 0)) (fun t => workOf t.dev 0 == some ⟨0, 0, 0, none, true⟩) = true ∧
    after (exec (.blockHandout 0 0) (sweeping true 1 1)) (fun t => workOf t.dev 0 == none && (sweepOf t.dev 0).handed == 1) = true := by decide
theorem test_blockHandout_stamp : bits (headerWord (sweeping false 2 0).dev 0 layer 0 0) 47 0 = 2 ∧
    after (exec (.blockHandout 0 0) (sweeping false 2 0)) (fun t => (sweepOf t.dev 0).stamp && sweepState t.dev 0 == 7) = true ∧
    after (exec (.blockHandout 0 0) (sweeping true 2 0)) (fun t => (sweepOf t.dev 0).stamp) = true := by decide

/-- Unit 0 works on block 0. -/
def working (weight : Bool) : State := sweeping false 0 0 layer [(0, ⟨0, 0, 0, none, weight⟩)]

theorem test_momentPhase : readyWork (working false).dev 0 false = some (⟨0, 0, 0, none, false⟩, layer) ∧
    blockHeld (working false).dev ⟨0, 0, 0, none, false⟩ layer = false ∧
    (let s := { working false with dev := { (working false).dev with pages := [((0, .hbm, 0), { hbmPage 0 with poison := .refilling })] } }
     blockHeld s.dev ⟨0, 0, 0, none, false⟩ layer = true ∧ readyWork s.dev 0 false = some (⟨0, 0, 0, none, false⟩, layer)) ∧
    (let t := sweeping false 0 0 layer [(0, ⟨0, 0, 0, some (0, 0, 0), false⟩)]
     let s := { t with dev := { t.dev with stg := [((0, 0), ⟨65536, 65536⟩)] } }
     readyWork s.dev 0 false = some (⟨0, 0, 0, some (0, 0, 0), false⟩, layer) ∧
     after (exec (.momentPhase 0 .uncorrectable) s) (fun t => sweepState t.dev 0 == 7 && getF t.dev (F.rkSstat_err 0) == 0x0A) = true) := by
  decide +kernel
theorem test_weightPhase : readyWork (working true).dev 0 true = some (⟨0, 0, 0, none, true⟩, layer) := by decide
theorem test_rackPhaseRetry : workOf (working true).dev 0 = some ⟨0, 0, 0, none, true⟩ ∧ (working true).dev.rackFails.contains 0 = false ∧
    1 ∈ unitsOf (working true).dev 0 ∧ workOf (working true).dev 1 = none ∧ getF (working true).dev (F.rkUnit_state 1) ≠ 4 ∧
    (sweepOf (working true).dev 0).again = [] ∧
    after (exec (.rackPhaseRetry 0 1 false) (working true)) (fun t => workOf t.dev 1 == some ⟨0, 0, 0, none, true⟩ && workOf t.dev 0 == none &&
      getF t.dev (F.rkUnit_retries 0) == 1) = true ∧
    after (exec (.rackPhaseRetry 0 1 true) (working true)) (fun t => sweepState t.dev 0 == 7) = true ∧
    (let s := { working true with dev := { (working true).dev with rackFails := [0] } }
     after (exec (.rackPhaseRetry 0 1 false) s) (fun t => getF t.dev (F.rkUnit_state 0) == 4) = true) := by decide +kernel
/-- Every block of the layer is done. -/
def layerDone : State :=
  let s := sweeping false 0 0
  { s with dev := { s.dev with sweeps := [(0, ⟨1, 0, false, 0, [⟨layer, 0, false⟩], 1, 0, false, 1, 0, false, [0, 1], []⟩)] } }
set_option maxRecDepth 20000 in
theorem test_layerComplete : (sweepOf layerDone.dev 0).layers[0]? = some ⟨layer, 0, false⟩ ∧ sweepState layerDone.dev 0 = 2 ∧
    after (exec (.layerComplete 0 0) layerDone) (fun t => sweepState t.dev 0 == 5 && getF t.dev (F.rkSstat_last_gyle 0) == 1 &&
      (clusterOf t.dev 0).posts == [(3, 1)]) = true := by decide
theorem test_stagingSlotWrite : 15 < 8 * (unitsOf (rackState []).dev 0).length ∧ 0xFFFF + 1 ≤ 0x10000 ∧
    after (exec (.stagingSlotWrite 0 15 0xFFFF [7]) (rackState [])) (fun t => memGet t.dev.mem (stagingBase 1 7 + 0xFFFF) == 7) = true := by
  decide
theorem test_replicaCheck : let v : Word := BitVec.ofNat 64 (2 ^ 63 + 5 * 2 ^ 32 + 1)
    let s := rackState []
    bitOf v.toNat 63 = true ∧ rackLocked s.dev 0 = false ∧ cmaskOk s.dev 0 (bits v.toNat 27 0) = true ∧ heldRange s.dev 0 128 128 = false ∧
    checkLayers s.dev 0 = [] ∧
    after (exec (.replicaCheck 0 v) s) (fun t => getF t.dev (F.rkChk_busy 0) == 1 && getF t.dev (F.rkChk_evt 0) == 5) = true := by decide +kernel
/-- The layer is a replica, and its one element is not what its check value says (R207). -/
theorem test_replicaCheck_mismatch : let ws := layer 0 (2 ^ 37)
    let v : Word := BitVec.ofNat 64 (2 ^ 63 + 5 * 2 ^ 32 + 1)
    let s := { rackState [] ws with dev := { (rackState [] ws).dev with mem := memPutList (rackState [] ws).dev.mem 0x4000 [1] } }
    checkLayers s.dev 0 = [ws] ∧ lCount ws = 1 ∧ replicaHeld s.dev 0 ws 0 = false ∧ blockLost s.dev 0 ws 0 = false ∧
    replicaOk s.dev 0 ws 0 = false ∧ (Tier.hbm, 0) ∈ pagesTouched s.dev 0 (blockAt (lWeight ws) 0) (2 * blockLen ws 0) ∧
    bitOf v.toNat 63 = true := by decide +kernel
theorem test_replicaCheckComplete : let t := rackState [(F.rkChk_busy 0, 1), (F.rkChk_evt 0, 5), (F.rkChk_cmask 0, 1)]
    let s := { t with dev := { t.dev with checks := [(0, [])] } }
    flag s.dev (F.rkChk_busy 0) = true ∧ Tab.get? s.dev.checks 0 = some [] ∧
    after (exec (.replicaCheckComplete 0) s) (fun t => getF t.dev (F.rkChk_busy 0) == 0 && getF t.dev (F.rkIrq_chk 0) == 1 &&
      (clusterOf t.dev 0).posts == [(5, 1)]) = true := by decide
/-- SM3 of four zero bytes, by its words, as the digest in the block's header. -/
def digested : State :=
  let s := sweeping false 0 0
  { s with dev := { s.dev with mem := memPutList s.dev.mem 0x2020 (sm3 [0, 0, 0, 0]) } }
theorem test_ownerDigestCheck_same : wordsOf 4 (sm3 (blockBytes digested.dev 0 (blockAt (lWeight layer) 0) 2 ++
    blockBytes digested.dev 0 (blockAt (lLees layer) 0) 2)) = (List.range 4).map (fun k => headerWord digested.dev 0 layer 0 (k + 4)) := by
  decide +kernel
theorem test_ownerDigestCheck_other : wordsOf 4 (sm3 (blockBytes (sweeping false 0 0).dev 0 (blockAt (lWeight layer) 0) 2 ++
    blockBytes (sweeping false 0 0).dev 0 (blockAt (lLees layer) 0) 2)) ≠
      (List.range 4).map (fun k => headerWord (sweeping false 0 0).dev 0 layer 0 (k + 4)) := by decide +kernel
theorem test_ownerDigestCheck : lCount layer = 1 ∧ 0 < lCount layer ∧ blockInWork (sweeping false 0 0).dev 0 0 0 = false ∧
    heldRange (sweeping false 0 0).dev 0 (blockAt (lWeight layer) 0) 2 = false ∧
    heldRange (sweeping false 0 0).dev 0 (blockAt (lLees layer) 0) 2 = false ∧ heldRange (sweeping false 0 0).dev 0 (lHead layer) 64 = false ∧
    ((Tier.hbm, 0) ∈ pagesTouched (sweeping false 0 0).dev 0 (blockAt (lWeight layer) 0) 2) ∧
    pageAt (sweeping false 0 0).dev 0 .hbm 0 = some (hbmPage 0) ∧ (hbmPage 0).poison = .sound := by decide

/-! ## Scratchpad banks -/

/-- Cluster 0 is partition 0's; bank 2 of it has a given owner. -/
def bank2 (owner : Nat) (f : Tab FKey Nat := []) : State :=
  withF (f ++ [(F.hostPcfg_clusters 0, 1), (F.bankOwner_owner 0 2, owner)])
/-- A store to BANK_OWNER with req = n. -/
def req (n : Nat) : Word := BitVec.ofNat 64 (n * 256)

theorem test_handoverRequest : reachesCluster (bank2 0).dev (.host 0) 0 = true ∧ bitOf (req 1).toNat 16 = false ∧ bits (req 1).toNat 10 8 = 1 ∧
    flag (bank2 0).dev (F.bankOwner_pending 0 2) = false ∧ (partOf (bank2 0).dev 0).isSome = true ∧ holdsProgram (bank2 1).dev 0 2 = false ∧
    after (exec (.handoverRequest (.host 0) 0 2 (req 1)) (bank2 0)) (fun t => getF t.dev (F.bankOwner_pending 0 2) == 1) = true ∧
    after (exec (.handoverRequest (.host 0) 0 2 (req 0)) (bank2 1)) (fun t => getF t.dev (F.bankOwner_pending 0 2) == 1) = true := by decide
theorem test_handoverRequest_refused : 3 < bits (req 4).toNat 10 8 ∧ handoverAllowed (bank2 0).dev 0 2 2 = false ∧
    reachesCluster (bank2 0).dev (.host 1) 0 = false ∧
    after (exec (.handoverRequest (.host 0) 0 2 (req 4)) (bank2 0)) (fun t => getF t.dev (F.bankStatus_enc_err 0) == 1) = true ∧
    after (exec (.handoverRequest (.host 0) 0 2 (req 2)) (bank2 0)) (fun t => getF t.dev (F.bankOwner_ho_err 0 2) == 1) = true ∧
    after (exec (.handoverRequest (.host 0) 0 2 (req 2)) (bank2 2 [(F.bankOwner_req 0 2, 1)])) (fun t => getF t.dev (F.bankOwner_req 0 2) == 2 &&
      getF t.dev (F.bankOwner_ho_err 0 2) == 0) = true := by decide +kernel
theorem test_handoverComplete : let s := bank2 0 [(F.bankOwner_pending 0 2, 1)]
    let u := { s with dev := { s.dev with cl := [(0, { Cluster.idle with handovers := [⟨2, 1⟩] })] } }
    let v := { s with dev := { s.dev with cl := [(0, { Cluster.idle with handovers := [⟨2, 1⟩], jobs := [{ job .array with banks := [(0, 2)] }] })] } }
    handoverTo u.dev 0 2 = some 1 ∧ bankBusy u.dev 0 2 = false ∧ bankBusy v.dev 0 2 = true ∧
    after (exec (.handoverComplete 0 2) u) (fun t => getF t.dev (F.bankOwner_owner 0 2) == 1 && getF t.dev (F.bankOwner_pending 0 2) == 0) = true ∧
    after (exec (.handoverComplete 0 2) v) (fun t => getF t.dev (F.bankOwner_pending 0 2) == 1) = true ∧
    after (exec (.handoverRequest (.host 0) 0 2 (req 1)) u) (fun t => getF t.dev (F.bankOwner_ho_err 0 2) == 0) = true ∧
    after (exec (.handoverRequest (.host 0) 0 2 (req 0)) u) (fun t => getF t.dev (F.bankOwner_ho_err 0 2) == 1) = true := by decide +kernel

/-- Byte 0x400000 of the scratchpad holds 5 and bank 2 is the cluster's. -/
def five : State := { bank2 1 with dev := { (bank2 1).dev with mem := [(spadBase 0 + 0x400000, 5)] } }

theorem test_alias : Memory.wf five.dev.mem = true ∧ banksOpen five.dev 0 0x400000 8 = true ∧ protectedHit five.dev 0 0x400000 8 = false ∧
    reachesCluster five.dev (.host 0) 0 = true ∧ 0x400000 + 8 ≤ 0x4000000 := by decide
theorem test_aliasWriteSet : let a := BitVec.ofNat 48 (0x040100000000 + 0x400000)
    after (exec (.aliasWriteSet (.host 0) a 0x0303 1) five) (fun t => memGet t.dev.mem (spadBase 0 + 0x400000) == 7 &&
      memGet t.dev.mem (spadBase 0 + 0x400001) == 0) = true := by decide
theorem test_aliasWriteClear : let a := BitVec.ofNat 48 (0x040200000000 + 0x400000)
    after (exec (.aliasWriteClear (.host 0) a 0x0303 1) five) (fun t => memGet t.dev.mem (spadBase 0 + 0x400000) == 4) = true := by decide
theorem test_alias_closed : let a := BitVec.ofNat 48 (0x040100000000 + 0x400000)
    let b := BitVec.ofNat 48 0x040100000000
    banksOpen (bank2 0).dev 0 0x400000 8 = false ∧ banksOpen (atWord 0).dev 0 0 8 = true ∧ protectedHit (atWord 0).dev 0 0 8 = true ∧
    after (exec (.aliasWriteSet (.host 0) a 1 1) (bank2 0)) (fun t => t.dev.bus == .accessError && getF t.dev (F.bankStatus_nonown 0) == 1) = true ∧
    after (exec (.aliasWriteSet (.host 0) b 1 1) (atWord 0)) (fun t => t.dev.bus == .accessError && getF t.dev (F.mcSeqStatus_prot_hit 0) == 1) = true := by
  decide +kernel

theorem test_bankScrub : after (exec (.bankScrub 0 2 63 (.correctable 5)) (bank2 1)) (fun t => getF t.dev (F.bankStatus_ce 0) == 1 &&
      getF t.dev (F.bankRepair_ce_count 0 2) == 1 && rowErrors t.dev 0 2 1 == 1) = true ∧
    after (exec (.bankScrub 0 2 63 .uncorrectable) (bank2 1)) (fun t => t.dev.reports == [.moduleFault (.bank 0 2)]) = true := by decide
/-- Row 1 of bank 2 has two errors and needs repair. -/
def worn : State := { bank2 1 with dev := { (bank2 1).dev with cl := [(0, { Cluster.idle with ceRows := [(2, 1, 2)] })] } }
theorem test_bankRepair : rowNeeds worn.dev 0 2 1 = true ∧ 0 < getF worn.dev (F.bankRepair_rows_left 0 2) ∧
    getF worn.dev (F.bankRepair_rows_left 0 2) < 16 ∧
    getF (repairBank worn.dev 0 2 (.row 1)) (F.bankRepair_rows_left 0 2) = 7 ∧ rowErrors (repairBank worn.dev 0 2 (.row 1)) 0 2 1 = 0 ∧
    after (exec (.bankRepair 0 2 (.row 1)) worn) (fun t => getF t.dev (F.mcArrStallBank_count 0) == 64) = true := by decide +kernel
/-- Column 5 of bank 2 has errors in three rows; bank 2 has worn rows and no spare row left, and the spare bank serves bank n. -/
def wornOut (n : Nat) : State :=
  { bank2 1 [(F.bankRepair_rows_left 0 2, 0), (F.bankMap_spare_for 0, n)] with dev := { (bank2 1 [(F.bankRepair_rows_left 0 2, 0), (F.bankMap_spare_for 0, n)]).dev with
      cl := [(0, { Cluster.idle with ceRows := [(2, 1, 2)], ceCols := [(2, 5, 0), (2, 5, 1), (2, 5, 2)] })] } }
set_option maxRecDepth 20000 in
theorem test_bankRepair_whole : columnNeeds (wornOut 0x3F).dev 0 2 5 = true ∧ 0 < getF (wornOut 0x3F).dev (F.bankRepair_cols_left 0 2) ∧
    getF (wornOut 0x3F).dev (F.bankRepair_cols_left 0 2) < 2 ^ (F.bankRepair_cols_left 0 2).width ∧
    bankNeeds (wornOut 0x3F).dev 0 2 = true ∧ getF (wornOut 0x3F).dev (F.bankMap_spare_for 0) = 0x3F ∧ bankNeeds (wornOut 3).dev 0 2 = true ∧
    getF (wornOut 3).dev (F.bankMap_spare_for 0) ≠ 0x3F ∧
    after (exec (.bankRepair 0 2 .whole) (wornOut 0x3F)) (fun t => getF t.dev (F.bankMap_spare_for 0) == 2) = true ∧
    after (exec (.bankRepair 0 2 .whole) (wornOut 3)) (fun t => t.dev.reports == [.moduleFault (.bank 0 2)]) = true := by decide +kernel
theorem test_bankRequestBoost : let forced := { bank2 1 with dev := { (bank2 1).dev with forced := [.bankScrub] } }
    after (exec (.bankRequestBoost 0 2 5 true) (bank2 1)) (fun t => getF t.dev (F.bankStatus_boosts 0) == 1 &&
      getF t.dev (F.mcArrStallBank_count 0) == 1) = true ∧
    after (exec (.bankRequestBoost 0 2 7 true) (bank2 1)) (fun t => getF t.dev (F.bankStatus_boosts 0) == 0) = true ∧
    after (exec (.bankRequestBoost 0 2 7 false) forced) (fun t => getF t.dev (F.bankStatus_boosts 0) == 1) = true := by decide +kernel

/-- A store to BANK_MARCH_CTRL that starts a march of bank 2. -/
def march (preserving bg : Nat) : Word := BitVec.ofNat 64 (1 + 2 * preserving + 16 * bg + 2 ^ 34)

theorem test_marchDestructive : bitOf (march 0 1).toNat 0 = true ∧ bitOf (march 0 1).toNat 1 = false ∧ bits (march 0 1).toNat 7 4 ≠ 0 ∧
    getF (bank2 0).dev (F.bankMarchStatus_state 0) ≠ 1 ∧ marchAllowed (bank2 0).dev (.host 0) 0 (bits (march 0 1).toNat 63 32) false = true ∧
    after (exec (.marchDestructive (.host 0) 0 (march 0 1)) (bank2 0)) (fun t => getF t.dev (F.bankMarchStatus_state 0) == 1 &&
      getF t.dev (F.bankOwner_owner 0 2) == 3) = true := by decide
theorem test_marchPreserving : bitOf (march 1 0).toNat 1 = true ∧ marchAllowed (bank2 1).dev (.host 0) 0 (bits (march 1 0).toNat 63 32) true = true ∧
    after (exec (.marchPreserving (.host 0) 0 (march 1 0)) (bank2 1)) (fun t => getF t.dev (F.bankMarchStatus_state 0) == 1 &&
      getF t.dev (F.bankOwner_owner 0 2) == 1) = true := by decide
theorem test_march_refused : let busy := bank2 0 [(F.bankMarchStatus_state 0, 1)]
    let refused (c : Instr) (s : State) : Bool := after (exec c s) (fun t => getF t.dev (F.bankMarchStatus_refused 0) == 1)
    getF busy.dev (F.bankMarchStatus_state 0) = 1 ∧ marchAllowed (bank2 1).dev (.host 0) 0 4 false = false ∧
    marchAllowed (bank2 0).dev (.host 0) 0 4 true = false ∧ bits (march 0 0).toNat 7 4 = 0 ∧
    refused (.marchDestructive (.host 0) 0 (march 0 1)) busy = true ∧ refused (.marchPreserving (.host 0) 0 (march 1 0)) busy = true ∧
    refused (.marchDestructive (.host 0) 0 (march 0 1)) (bank2 1) = true ∧ refused (.marchPreserving (.host 0) 0 (march 1 0)) (bank2 0) = true ∧
    refused (.marchDestructive (.host 0) 0 (march 0 0)) (bank2 0) = true := by decide +kernel
/-- A destructive march of bank 2 runs. -/
def marching (preserving : Bool) : State :=
  { five with dev := { five.dev with cl := [(0, { Cluster.idle with march := some ⟨4, preserving⟩ })] } }
theorem test_marchComplete : (clusterOf (marching false).dev 0).march = some ⟨4, false⟩ ∧
    after (exec (.marchComplete 0 [] [] 0) (marching false)) (fun t => getF t.dev (F.bankMarchStatus_pass 0) == 1 && t.dev.mem == [] &&
      getF t.dev (F.bankOwner_owner 0 2) == 0) = true ∧
    after (exec (.marchComplete 0 [⟨2, 1023, 31, 575⟩] [⟨0, 2, 0, .uncorrectable⟩] 9) (marching true)) (fun t =>
      getF t.dev (F.bankMarchStatus_pass 0) == 0 && getF t.dev (F.bankMarchFail_row 0) == 1023 &&
      getF t.dev (F.bankStatus_ue 0) == 1 && getF t.dev (F.mcArrStallBank_count 0) == 9) = true ∧
    after (exec (.marchComplete 0 [⟨2, 1023, 31, 575⟩] [⟨0, 2, 0, .correctable 3⟩] 9) (marching true)) (fun t =>
      t.dev.mem == five.dev.mem && getF t.dev (F.bankStatus_ce 0) == 1) = true := by decide +kernel

/-! ## The page pool -/

/-- A page of the cellar in frame f. -/
def clrPage (f : Nat) : Page := { hbmPage f with tier := .cellar }

/-- Partition 0's page 0 of the HBM window as given, its quotas two pages of each tier, further fields, some bytes at address 0. -/
def pooled (x : Page) (f : Tab FKey Nat := []) (l : List Byte := []) : State :=
  { State.reset with dev := { State.reset.dev with
      f := f ++ [(F.hbmPquota_hbm_quota 0, 2), (F.hbmPquota_clr_quota 0, 2)], pages := [((0, .hbm, 0), x)], mem := memPutList [] 0 l } }

/-- The mover ring of partition 0: four entries at address 0. -/
def moverRing4 : Tab FKey Nat := [(F.hbmMring_en 0, 1), (F.hbmMring_size_log2 0, 2)]

theorem test_moverRingEnable : let v : Word := BitVec.ofNat 64 (word [(48, 2), (63, 1)])
    let u : Word := BitVec.ofNat 64 (word [(0, 0x014000000000), (48, 2), (63, 1)])
    let s := pooled (hbmPage 0)
    flag s.dev (F.hbmMring_en 0) = false ∧ bitOf v.toNat 63 = true ∧ bits v.toNat 51 48 = 2 ∧ bits v.toNat 47 5 = 0 ∧
    0x014000000000 < 32 * bits u.toNat 47 5 + 32 * 2 ^ 2 ∧
    after (exec (.moverRingEnable 0 v) s) (fun t => getF t.dev (F.hbmMring_en 0) == 1) = true ∧
    after (exec (.moverRingEnable 0 u) s) (fun t => getF t.dev (F.hbmMstat_ring_err 0) == 1) = true ∧
    after (exec (.moverRingEnable 0 v) (pooled (hbmPage 0) moverRing4)) (fun t => getF t.dev (F.hbmMstat_wr_err 0) == 1) = true := by decide
theorem test_moverRingDisable : flag (pooled (hbmPage 0) moverRing4).dev (F.hbmMring_en 0) = true ∧ bitOf (0 : Word).toNat 63 = false ∧
    after (exec (.moverRingDisable 0 0) (pooled (hbmPage 0) moverRing4)) (fun t => getF t.dev (F.hbmMring_en 0) == 0) = true := by decide

/-- Word 0 of an entry of one page with an operation, owned. -/
def mword (op : Nat) : Nat := word [(0, 1), (4, op), (48, 1)]

theorem test_moverEntryPickup : let s := pooled (hbmPage 0) moverRing4 (leBytes 8 (mword 2))
    flag s.dev (F.hbmMring_en 0) = true ∧ heldRange s.dev 0 0 32 = false ∧ viewNat s.dev 0 0 8 % 2 = 1 ∧
    after (exec (.moverEntryPickup 0) s) (fun t => getF t.dev (F.hbmMhead_head 0) == 1 && (moverOf t.dev 0).length == 1) = true := by decide

/-- A picked-up entry of one page, page 0 of the HBM window. -/
def mentry (op : Nat) (w3 : Nat := 0) : MoverEntry := ⟨0, mword op, 0, 0, w3, false, none⟩
/-- The entry is picked up in a pool. -/
def withEntry (s : State) (e : MoverEntry) : State := { s with dev := { s.dev with mover := [(0, [e])] } }

theorem test_moverEntryResolve : let e := { mentry 2 with status := some 0x06 }
    let s := withEntry (pooled (hbmPage 0) moverRing4 (leBytes 8 (mword 2))) e
    (moverOf s.dev 0)[0]? = some e ∧ heldRange s.dev 0 e.slot 32 = false ∧ cmaskOk s.dev 0 (bits e.w0 47 20) = true ∧
    after (exec (.moverEntryResolve 0 0) s) (fun t => moverOf t.dev 0 == [] && viewNat t.dev 0 0 8 == word [(4, 2), (8, 6), (48, 1)]) = true := by
  decide
theorem test_moverEntryResolve_late : let e := { mentry 2 5 with begun := true }
    let s := withEntry (pooled (hbmPage 0) (moverRing4 ++ [(F.fabFtc_ftc, 6)]) (leBytes 8 (mword 2))) e
    e.w3 < getF s.dev F.fabFtc_ftc ∧ e.status = none ∧ entryDone s.dev 0 e = true ∧
    after (exec (.moverEntryResolve 0 0) s) (fun t => viewNat t.dev 0 0 8 == word [(4, 2), (8, 2), (48, 1)] &&
      getF t.dev (F.hbmMstat_late 0) == 1) = true := by decide
/-- The ring's page is being refilled: neither a pickup nor a resolution goes on (R248); an entry not done stays. -/
theorem test_moverEntry_held : let s := withEntry (pooled { hbmPage 0 with poison := .refilling } moverRing4) (mentry 2)
    heldRange s.dev 0 0 32 = true ∧ heldWrite s.dev 0 (mentry 2).slot 32 = true ∧
    heldWrite (withEntry (pooled (hbmPage 0) moverRing4) (mentry 0)).dev 0 0 32 = false ∧
    entryDone (withEntry (pooled (hbmPage 0) moverRing4) (mentry 0)).dev 0 (mentry 0) = false ∧
    after (exec (.moverEntryPickup 0) s) (fun t => getF t.dev (F.hbmMhead_head 0) == 0) = true ∧
    after (exec (.moverEntryResolve 0 0) s) (fun t => (moverOf t.dev 0).length == 1) = true := by decide +kernel
theorem test_prefetch : let s := withEntry (pooled (clrPage 5)) (mentry 0 9)
    let none0 := withEntry { pooled (clrPage 5) with dev := { (pooled (clrPage 5)).dev with f := [(F.hbmPquota_hbm_quota 0, 0)], pages := [((0, .hbm, 0), clrPage 5), ((0, .hbm, 1), hbmPage 1)] } } (mentry 0 9)
    let calm (s : State) : Dev := cancelEviction s.dev (0, .hbm, 0)
    entryReady s.dev 0 0 0 = some (mentry 0 9) ∧ entryPages (mentry 0 9) = some (.hbm, [0]) ∧ pageAt s.dev 0 .hbm 0 = some (clrPage 5) ∧
    comingIn (calm s) 0 0 = false ∧ hbmUsed (calm s) 0 < hbmQuota (calm s) 0 ∧ freeHbm (calm s) 0 = some 0 ∧
    after (exec (.prefetch 0 0) s) (fun t => t.dev.moves == [⟨(0, .hbm, 0), .bring (some 9), 0⟩]) = true ∧
    entryReady none0.dev 0 0 0 = some (mentry 0 9) ∧ comingIn (calm none0) 0 0 = false ∧ hbmQuota (calm none0) 0 < hbmUsed (calm none0) 0 ∧
    after (exec (.prefetch 0 0) none0) (fun t => (moverOf t.dev 0).map MoverEntry.status == [some 4]) = true ∧
    after (exec (.prefetch 0 0) (withEntry (pooled (hbmPage 5)) (mentry 0 9))) (fun t => t.dev.moves == []) = true := by decide +kernel
theorem test_evict : let s := withEntry (pooled (hbmPage 5)) (mentry 1)
    let u := withEntry (pooled { hbmPage 5 with pin := true }) (mentry 1)
    let v := withEntry (pooled (clrPage 5)) (mentry 1)
    let w := withEntry { pooled (hbmPage 5) with dev := { (pooled (hbmPage 5)).dev with f := [(F.hbmPquota_clr_quota 0, 0)] } } (mentry 1)
    entryReady s.dev 0 0 1 = some (mentry 1) ∧ clrUsed s.dev 0 < clrQuota s.dev 0 ∧ freeCellar s.dev = some 0 ∧
    after (exec (.evict 0 0) s) (fun t => t.dev.moves == [⟨(0, .hbm, 0), .evict, 0⟩]) = true ∧
    entryReady u.dev 0 0 1 = some (mentry 1) ∧ entryReady v.dev 0 0 1 = some (mentry 1) ∧ entryReady w.dev 0 0 1 = some (mentry 1) ∧
    clrQuota w.dev 0 ≤ clrUsed w.dev 0 ∧ after (exec (.evict 0 0) v) (fun t => t.dev.moves == []) = true ∧
    after (exec (.evict 0 0) w) (fun t => (moverOf t.dev 0).map MoverEntry.status == [some 4]) = true ∧
    after (exec (.evict 0 0) u) (fun t => (moverOf t.dev 0).map MoverEntry.status == [some 5]) = true := by decide +kernel
theorem test_pin : let s := withEntry (pooled (hbmPage 5)) (mentry 2)
    let u := withEntry (pooled (clrPage 5)) (mentry 2)
    entryReady s.dev 0 0 2 = some (mentry 2) ∧ entryReady u.dev 0 0 2 = some (mentry 2) ∧ comingIn u.dev 0 0 = false ∧
    hbmUsed u.dev 0 < hbmQuota u.dev 0 ∧ freeHbm u.dev 0 = some 0 ∧
    after (exec (.pin 0 0) s) (fun t => (pageAt t.dev 0 .hbm 0).map Page.pin == some true) = true ∧
    after (exec (.pin 0 0) u) (fun t => t.dev.moves == [⟨(0, .hbm, 0), .bring none, 0⟩]) = true := by decide +kernel
theorem test_unpin : let s := withEntry (pooled { hbmPage 5 with pin := true }) (mentry 3)
    entryReady s.dev 0 0 3 = some (mentry 3) ∧
    after (exec (.unpin 0 0) s) (fun t => (pageAt t.dev 0 .hbm 0).map Page.pin == some false) = true := by decide
theorem test_setsrc : let e := { mentry 4 with w0 := word [(0, 1), (1, 1), (4, 4), (48, 1)], w2 := word [(0, 0x200000), (48, 7)], w3 := 2 }
    let s := withEntry (pooled (hbmPage 5)) e
    entryReady s.dev 0 0 4 = some e ∧
    after (exec (.setsrc 0 0) s) (fun t => (pageAt t.dev 0 .hbm 0).map Page.src == some (some (7, 2, 0x200000))) = true := by decide

theorem test_demandFaultIn : let s := pooled (clrPage 5)
    let e := steadyBroken (addF s.dev (F.hbmMstat_faultins 0) 1)
    pageAt s.dev 0 .hbm 0 = some (clrPage 5) ∧ comingIn s.dev 0 0 = false ∧ (0, 0) ∉ s.dev.blocked ∧
    hbmUsed e 0 < hbmQuota e 0 ∧ freeHbm e 0 = some 0 := by decide
/-- Page 0 lies in the cellar and page 1 in HBM, the quota of HBM one page. -/
def full (x : Page) : State := withF [(F.hbmPquota_hbm_quota 0, 1), (F.hbmPquota_clr_quota 0, 2)] |> fun s =>
  { s with dev := { s.dev with pages := [((0, .hbm, 0), clrPage 5), ((0, .hbm, 1), x)] } }
theorem test_demandFaultIn_swap : let e := steadyBroken (addF (full (hbmPage 1)).dev (F.hbmMstat_faultins 0) 1)
    hbmQuota e 0 ≤ hbmUsed e 0 ∧ victim e 0 = some ((0, .hbm, 1), hbmPage 1) ∧
    victim (steadyBroken (addF (full { hbmPage 1 with pin := true }).dev (F.hbmMstat_faultins 0) 1)) 0 = none ∧
    after (exec (.demandFaultIn 0 0) (full { hbmPage 1 with pin := true })) (fun t => t.dev.blocked == [(0, 0)]) = true := by decide
/-- A fault-in waits for a victim until a page is unpinned (R237), and a pin of its victim makes it wait again (R240). -/
theorem test_demandFaultIn_waits : let s := full { hbmPage 1 with pin := true }
    after (exec (.demandFaultIn 0 0) s) (fun t => waitsForVictim t.dev 0 &&
      !waitsForVictim (setPage t.dev 0 .hbm 1 (hbmPage 1)) 0) = true ∧
    after (exec (.demandFaultIn 0 0) (full (hbmPage 1))) (fun t => t.dev.moves.length == 1 &&
      (cancelEviction t.dev (0, .hbm, 1)).moves == [] && (cancelEviction t.dev (0, .hbm, 1)).blocked == [(0, 0)]) = true := by decide
theorem test_poolEviction : let s := withF [(F.hbmPquota_hbm_quota 0, 0), (F.hbmPquota_clr_quota 0, 2)]
    let d := { s.dev with pages := [((0, .hbm, 1), hbmPage 1)] }
    hbmQuota d 0 < hbmUsed d 0 - movesOf d 0 goesOut ∧ clrUsed d 0 < clrQuota d 0 ∧ victim d 0 = some ((0, .hbm, 1), hbmPage 1) ∧
    freeCellar d = some 0 ∧ demandWaits d 0 = false ∧ refillWaits d 0 = false ∧ (∀ (i : Nat) (g : MoverEntry), (moverOf d 0)[i]? ≠ some g) ∧
    after (exec (.poolEviction 0) { s with dev := d }) (fun t => t.dev.moves == [⟨(0, .hbm, 1), .evict, 0⟩]) = true ∧
    after (exec (.poolEviction 0) (full (hbmPage 1))) (fun t => t.dev.moves == []) = true :=
  ⟨by decide +kernel, by decide +kernel, by decide +kernel, by decide +kernel, by decide +kernel, by decide +kernel, (fun i g h => by cases h),
    by decide +kernel, by decide +kernel⟩
theorem test_pageMoveComplete : let s := pooled (hbmPage 5)
    let u := pooled (clrPage 5)
    let out (k : MoveKind) (s : State) : State := { s with dev := { s.dev with moves := [⟨(0, .hbm, 0), k, 3⟩] } }
    Memory.wf s.dev.mem = true ∧ s.dev.held = [] ∧
    (out .evict s).dev.moves.find? (fun m => m.key == (0, Tier.hbm, 0)) = some ⟨(0, .hbm, 0), .evict, 3⟩ ∧
    (out (.bring none) u).dev.moves.find? (fun m => m.key == (0, Tier.hbm, 0)) = some ⟨(0, .hbm, 0), .bring none, 3⟩ ∧
    pageAt (out (.bring none) u).dev 0 .hbm 0 = some (clrPage 5) ∧
    (out (.swap 1) (full (hbmPage 3))).dev.moves.find? (fun m => m.key == (0, Tier.hbm, 0)) = some ⟨(0, .hbm, 0), .swap 1, 3⟩ ∧
    pageAt (out (.swap 1) (full (hbmPage 3))).dev 0 .hbm 1 = some (hbmPage 3) ∧
    (let c := { pooled (hbmPage 5) [(F.clrSnap_state 0, 1)] with dev := { (pooled (hbmPage 5) [(F.clrSnap_state 0, 1)]).dev with
       snaps := [(0, ⟨0, 9, 0, 0x020000000000, [⟨(0, .hbm, 0), none, 0⟩], []⟩)] } }
     uncopied c.dev (0, .hbm, 0) = true ∧ c.dev.moves.any (fun m => m.key == (0, Tier.hbm, 0)) = false) := by decide
theorem test_pageAgeSample : after (exec .pageAgeSample (pooled { hbmPage 0 with age := 65535 })) (fun t =>
    (pageAt t.dev 0 .hbm 0).map Page.age == some 65535) = true ∧
    after (exec .pageAgeSample (pooled (hbmPage 0))) (fun t => (pageAt t.dev 0 .hbm 0).map Page.age == some 1) = true := by decide

theorem test_pagePoison : let s := pooled (hbmPage 5)
    let far := { hbmPage 5 with src := some (7, 0, 0) }
    pageAt s.dev 0 .hbm 0 = some (hbmPage 5) ∧ (hbmPage 5).src = none ∧ (hbmPage 5).ckptClean = false ∧
    reachable (pooled far [(F.fabCfg_share, 0)]).dev 0 (Config.moduleCoord 7).toNat = false ∧
    after (exec (.pagePoison 0 .hbm 0 3 7) s) (fun t => (pageAt t.dev 0 .hbm 0).map Page.poison == some .lost &&
      getF t.dev (F.fabNflag_nonfin 0) == 1 && getF t.dev (F.hbmDev_ue_count 5) == 1 && t.dev.badRows == [(.hbm, 5, 7)]) = true :=
  ⟨by decide +kernel, rfl, rfl, by simp [reachable, show fabShare (pooled { hbmPage 5 with src := some (7, 0, 0) } [(F.fabCfg_share, 0)]).dev 0 = 0 from by decide +kernel],
    by decide +kernel⟩
/-- An installation of 32 modules on each axis, all of it partition 0's slice; this module at given coordinates, ports 0 and 1 UP. -/
def spread (own : Nat) : Tab FKey Nat :=
  [(F.fabCoord_coord, own), (F.fabTorus_size, 2 ^ 25 - 1), (F.fabSlice_valid 0, 1), (F.fabSlice_size 0, 2 ^ 25 - 1), (F.fabCfg_share, 1),
   (F.fabPort_state 0, 4), (F.fabPort_state 1, 4)]

/-- A module of such an installation may read from every module whose coordinate on axis A differs. -/
theorem reachable_spread (d : Dev) (own c : Nat) (ho : ownCoord d = own) (hs : fabShare d 0 = 1) (hv : flag d (F.fabSlice_valid 0) = true)
    (hz : ∀ x ∈ axes, sliceSize d 0 x = 32) (ht : ∀ x ∈ axes, torusSize d x = 32) (h0 : portUp d 0 = true)
    (h1 : portUp d 1 = true) (hc : axis own 0 ≠ axis c 0) : reachable d 0 c = true := by
  have hne : c ≠ own := by rintro rfl; exact hc rfl
  have hin : inSlice d 0 c = true := by
    simp only [inSlice, hv, Bool.true_and, List.all_eq_true, decide_eq_true_eq]
    intro x hx
    rw [hz x hx, offsetAt, ht x hx]
    exact Nat.mod_lt _ (by decide)
  have hr : routePort d (some 0) own c = some (axisPort d (some 0) own c 0) := by
    simp [routePort, axes, hc]
  have hp : portUp d (axisPort d (some 0) own c 0) = true := by
    have two (b : Bool) : portUp d (2 * 0 + b2n b) = true := by cases b <;> simpa [b2n]
    exact two _
  simp [reachable, ho, hne, hs, hin, hr, hp]

/-- Whatever the module table says of module 7, a page's clean copy there may be reached. -/
theorem test_pagePoison_refill : let x := { hbmPage 5 with src := some (7, 0, 0) }
    let c := (Config.moduleCoord 7).toNat
    let s := pooled x (spread (if axis c 0 = 0 then 1 else 0))
    pageAt s.dev 0 .hbm 0 = some x ∧ x.poison = .sound ∧ reachable s.dev 0 c = true := by
  generalize Config.moduleCoord 7 = c
  refine ⟨rfl, rfl, ?_⟩
  by_cases h : axis c.toNat 0 = 0
  · simp only [h, if_true]
    exact reachable_spread _ 1 _ (by decide) (by decide) (by decide) (by decide) (by decide) (by decide) (by decide) (by rw [h]; decide)
  · simp only [h, if_false]
    exact reachable_spread _ 0 _ (by decide) (by decide) (by decide) (by decide) (by decide) (by decide) (by decide) (fun e => h e.symm)

theorem test_pageRefill : let x := { hbmPage 5 with poison := .refilling }
    let s := pooled x
    let u := { s with dev := { s.dev with reads := [⟨0, (0, .hbm, 0), 0, 16384, some (0, [1])⟩] } }
    pageAt u.dev 0 .hbm 0 = some x ∧ refillData u.dev (0, .hbm, 0) = some [(0, 1)] ∧ reserveFrame u.dev .hbm = some 654848 ∧
    after (exec (.refillTimeout 0 .hbm 0) s) (fun t => (pageAt t.dev 0 .hbm 0).map Page.poison == some .lost) = true := by decide
theorem test_patrolScrub : 5 < tierFrames .hbm ∧ pageOfFrame State.reset.dev .hbm 5 = none ∧
    pageOfFrame (pooled (hbmPage 5)).dev .hbm 5 = some ((0, .hbm, 0), hbmPage 5) ∧
    after (exec (.patrolScrub .hbm 5 [⟨3, 7, .correctable 1⟩]) State.reset) (fun t => getF t.dev (F.hbmDev_ce_count 5) == 1 &&
      rowErrs t.dev .hbm 5 7 == 1 && t.dev.patrolled == [(.hbm, 5)]) = true ∧
    after (exec (.patrolScrub .cellar 5 [⟨3, 7, .uncorrectable⟩]) State.reset) (fun t => t.dev.badRows == [(.cellar, 5, 7)]) = true := by
  decide +kernel
theorem test_dramRowRepair : let s := { State.reset with dev := { State.reset.dev with frameErrs := [((.hbm, 5, 7), 2)] } }
    let u := { pooled (hbmPage 5) with dev := { (pooled (hbmPage 5)).dev with badRows := [(.hbm, 5, 7)] } }
    pageOfFrame s.dev .hbm 5 = none ∧ rowBad s.dev .hbm 5 7 = true ∧ rowBad s.dev .hbm 5 8 = false ∧ rowBad u.dev .hbm 5 7 = true ∧
    pageOfFrame u.dev .hbm 5 = some ((0, .hbm, 0), hbmPage 5) ∧ reserveFrame u.dev .hbm = some 654848 ∧
    getF (repairRow s.dev .hbm 5 0 7 true) (F.hbmDev_repairs 5) = 1 ∧ (repairRow s.dev .hbm 5 0 7 false).retired = [(.hbm, 5)] ∧
    getF (repairRow s.dev .hbm 5 0 7 false) (F.hbmDev_retired 5) = 1 := by decide +kernel

/-! ## Snapshots -/

/-- Partition 0 has one HBM page whose bytes list it, and cellar pages 0 and 1 to take a copy. -/
def snapping (f : Tab FKey Nat) : State :=
  { State.reset with dev := { State.reset.dev with
      f := f, mem := memPutList [] 0 (leBytes 8 0 ++ leBytes 8 1)
      pages := [((0, .hbm, 0), hbmPage 0), ((0, .cellar, 0), clrPage 0), ((0, .cellar, 1), clrPage 1)] } }
/-- What the registers ask for: one range, the list at address 0, the target the start of the cellar. -/
def snapped : Tab FKey Nat := [(F.clrSnapl_count 0, 1), (F.clrSnapt_addr 0, 0x020000000000)]
/-- A store to CLR_SNAP that starts a snapshot of a kind. -/
def snapStart (kind : Nat) : Word := BitVec.ofNat 64 (word [(0, 9), (60, kind), (63, 1)])
/-- The registers after the store took kind and gyle. -/
def takenRegs (s : State) (v : Word) : Dev :=
  setF (setF (setF s.dev (F.clrSnap_kind 0) (bits v.toNat 60 60)) (F.clrSnap_gyle 0) (bits v.toNat 47 0)) (F.clrSnap_start 0) 0

theorem test_drawSnapshot : let s := snapping snapped
    let v := snapStart 1
    let held := { s with dev := { s.dev with pages := [((0, .hbm, 0), { hbmPage 0 with poison := .refilling })] } }
    s.dev.audits = [] ∧ waitingDraw s.dev 0 = none ∧ bitOf v.toNat 63 = true ∧ bitOf v.toNat 62 = false ∧ bitOf v.toNat 60 = true ∧
    getF s.dev (F.clrSnap_state 0) ≠ 1 ∧ listHeld s.dev 0 (snapRegs (takenRegs s v) 0) = false ∧
    snapCheck (takenRegs s v) 0 (snapRegs (takenRegs s v) 0) = .ok [(0, .hbm, 0)] ∧
    listHeld held.dev 0 (snapRegs (takenRegs held v) 0) = true ∧
    after (exec (.drawSnapshot 0 v) held) (fun t => getF t.dev (F.clrSnap_start 0) == 1 && getF t.dev (F.clrSnap_state 0) == 0) = true ∧
    after (exec (.drawSnapshot 0 v) (snapping (snapped ++ [(F.clrSnap_state 0, 1)]))) (fun t => getF t.dev (F.clrSnap_wr_err 0) == 1) = true := by
  decide +kernel
theorem test_buddySnapshot_refused : let v := snapStart 0
    bitOf v.toNat 63 = true ∧ bitOf v.toNat 61 = false ∧ bitOf v.toNat 60 = false ∧
    snapCheck (takenRegs (snapping []) v) 0 (snapRegs (takenRegs (snapping []) v) 0) = .error 0x10 ∧
    after (exec (.buddySnapshot 0 v) (snapping [])) (fun t => getF t.dev (F.clrSnap_state 0) == 3 && getF t.dev (F.clrSnap_status 0) == 0x10) = true
    := by decide
theorem test_snapshotAbort : let s := snapping [(F.clrSnap_state 0, 1)]
    let v : Word := BitVec.ofNat 64 (2 ^ 62)
    bitOf v.toNat 62 = true ∧ bitOf v.toNat 63 = false ∧ getF s.dev (F.clrSnap_state 0) = 1 ∧ flag s.dev (F.clrSnap_start 0) = false ∧
    s.dev.audits = [] ∧ waitingDraw s.dev 0 = none ∧
    after (exec (.snapshotAbort 0 v) s) (fun t => getF t.dev (F.clrSnap_state 0) == 3 && getF t.dev (F.clrSnap_status 0) == 2) = true := by decide
/-- A buddy snapshot of page 0 that has copied it. -/
def snap0 : Snap := ⟨0, 9, 0, 0x020000000000, [⟨(0, .hbm, 0), some [], 0⟩], []⟩
/-- The snapshot stands so, and waits for its acknowledgement. -/
def copied (st : Nat) : State :=
  let s := snapping [(F.clrSnap_state 0, st)]
  { s with dev := { s.dev with snaps := [(0, snap0)], acks := [(0, [snap0])] } }
theorem test_snapshotComplete : getF (copied 1).dev (F.clrSnap_state 0) = 1 ∧ flag (copied 1).dev (F.clrSnap_start 0) = false ∧
    Tab.get? (copied 1).dev.snaps 0 = some snap0 ∧ (copied 1).dev.audits = [] ∧ waitingDraw (copied 1).dev 0 = none ∧
    (let lost := { copied 1 with dev := { (copied 1).dev with
       pages := [((0, .hbm, 0), { hbmPage 0 with poison := .lost })]
       snaps := [(0, { snap0 with pages := [⟨(0, .hbm, 0), none, 0⟩] })] } }
     (Tab.get? lost.dev.pages (0, .hbm, 0)).map Page.poison = some .lost ∧ flag lost.dev (F.clrSnap_start 0) = false) := by decide
theorem test_buddyAck : (Tab.get? (copied 2).dev.acks 0).getD [] = [snap0] ∧ flag (copied 2).dev (F.clrSnap_start 0) = false ∧
    after (exec (.buddyAck 0) (copied 2)) (fun t => (pageAt t.dev 0 .hbm 0).map Page.ckptClean == some true &&
      (pageAt t.dev 0 .cellar 0).map Page.ckptClean == some false) = true := by decide +kernel
theorem test_buddyRegion : let v : Word := BitVec.ofNat 64 (word [(0, 3), (40, 2), (63, 1)])
    let s := withF [(F.clrBuddy_en 0, 1), (F.clrBuddySrc_src 0, 7)]
    flag State.reset.dev (F.clrBuddy_en 0) = false ∧ bitOf v.toNat 63 = true ∧
    after (exec (.buddyRegionEnable 0 v) State.reset) (fun t => getF t.dev (F.clrBuddy_en 0) == 1 && getF t.dev (F.clrBuddy_base 0) == 3) = true ∧
    flag s.dev (F.clrBuddy_en 0) = true ∧ getF s.dev (F.clrBuddySrc_src 0) = 7 ∧
    after (exec (.buddyGenerationComplete 0 7 9) s) (fun t => getF t.dev (F.clrBuddy_gen 0) == 1 && getF t.dev (F.clrBuddySrc_last_gyle 0) == 9) = true
    := by decide

/-! ## The fabric -/

/-- Port 0 of the installation's root in a state, with what it holds and further fields. -/
def port0 (st : Nat) (x : Port := Port.fresh) (f : Tab FKey Nat := []) : State :=
  { State.reset with dev := { State.reset.dev with f := f ++ [(F.fabPort_state 0, st), (F.fabFtcCfg_root, 1)], ports := [(0, x)] } }

/-- A data flit: one WRITE of the byte 5 to address 0, alone in its message. -/
def flit (seq : Nat) : Flit :=
  { msg := 0, len := 17, dpart := 0, kind := 0, part := 0, src := 0, dst := 0, seq := seq, eom := true, vc := 2
    payload := leBytes 6 0 ++ leBytes 2 1 ++ leBytes 8 0 ++ [5] }

theorem test_ports : (State.reset.dev.audits = []) ∧ State.reset.dev.picked = [] ∧ portUp (port0 4).dev 0 = true := by decide
theorem test_dataFlitReceive : flitGood (flit 0).bytes = true ∧ leNat ((flit 0).bytes.take 1) % 16 = 1 ∧
    (Flit.ofBytes (flit 0).bytes).seq = (portOf (port0 4).dev 0).rxSeq ∧ (Flit.ofBytes (flit 0).bytes).dst = getF (port0 4).dev F.fabCoord_coord ∧
    (Flit.ofBytes (flit 0).bytes).eom = true ∧
    (Msg.ofFlits [Flit.ofBytes (flit 0).bytes]).map (fun m => (m.kind, m.length, m.data)) = some (0, 1, [5]) := by decide +kernel
theorem test_dataFlitReceive_bad : flitGood [1] = false ∧ flitGood (flit 7).bytes = true ∧
    (Flit.ofBytes (flit 7).bytes).seq ≠ (portOf (port0 4).dev 0).rxSeq ∧
    after (exec (.dataFlitReceive 0 (flit 7).bytes) (port0 4)) (fun t => (portOf t.dev 0).nak) = true := by decide +kernel
/-- A flit for coordinate 3 of four comes in on port 1 of coordinate 0; port 0 leads on, over the wrap link. -/
theorem test_dataFlitReceive_forwarded : let g := { flit 0 with dst := 3, part := 0 }
    let s := { State.reset with dev := { State.reset.dev with
      f := [(F.fabTorus_size, 3), (F.fabSlice_valid 0, 1), (F.fabSlice_size 0, 3), (F.fabPort_state 1, 4), (F.fabPort_state 0, 4)], ports := [(1, Port.fresh)] } }
    flitGood g.bytes = true ∧ leNat (g.bytes.take 1) % 16 = 1 ∧ (Flit.ofBytes g.bytes).seq = 0 ∧ (Flit.ofBytes g.bytes).dst = 3 ∧ g.dst ≠ getF s.dev F.fabCoord_coord ∧
    routePort s.dev (sliceOf s.dev g.part g.vc g.dst) (ownCoord s.dev) g.dst = some 0 ∧ portCarries s.dev 0 = true ∧
    after (exec (.dataFlitReceive 1 g.bytes) s) (fun t => (portOf t.dev 0).ready == [(10, { Flit.ofBytes g.bytes with vc := 3 })]) = true := by decide +kernel
theorem test_controlFlitReceive : let l := controlFlit (port0 4).dev Port.fresh
    flitGood l = true ∧ leNat (l.take 1) % 16 = 2 ∧ bitOf (leNat (l.take 12)) 16 = false ∧
    after (exec (.controlFlitReceive 0 l 640) (port0 4)) (fun t => (portOf t.dev 0).lastRx == 640) = true := by decide +kernel
/-- A partner that asks for a replay, to a port with one flit replayed k times already. -/
theorem test_controlFlitReceive_nak : let l := controlFlit (port0 4).dev { Port.fresh with nak := true }
    let x (k : Nat) : Port := { Port.fresh with replay := [flit 0], replays := k }
    flitGood l = true ∧ leNat (l.take 1) % 16 = 2 ∧ bitOf (leNat (l.take 12)) 16 = true ∧
    after (exec (.controlFlitReceive 0 l 640) (port0 4 (x 15))) (fun t => (portOf t.dev 0).resend == 1 && portState t.dev 0 == 4) = true ∧
    after (exec (.controlFlitReceive 0 l 640) (port0 4 (x 16))) (fun t => portState t.dev 0 == 5) = true := by decide +kernel
theorem test_dataSlot_idle : portState (port0 3).dev 0 = 3 ∧
    after (exec (.dataSlot 0 1) (port0 3)) (fun t => (Tab.get? t.dev.sentCtl 0).isSome) = true := by decide +kernel
/-- Port 0 has a flit of partition 0 ready, and a credit for it. -/
def sending : State := port0 4 { Port.fresh with ready := [(10, flit 0)], credit := [((0, 2), 1)] } [(F.fabCfg_share, 1)]
theorem test_dataSlot : let x := portOf sending.dev 0
    portState sending.dev 0 = 4 ∧ lacksCredit x = false ∧ x.resend = 0 ∧ x.replay.length < 1024 ∧ slotChoice sending.dev x 2 = some (10, flit 0) ∧
    after (exec (.dataSlot 0 2) sending) (fun t => (portOf t.dev 0).txSeq == 1 && (portOf t.dev 0).replay.length == 1) = true := by decide +kernel
theorem test_dataSlot_again : let x := { Port.fresh with replay := [flit 0], resend := 1 }
    let stalled := port0 4 { Port.fresh with ready := [(10, flit 0)] }
    portState (port0 4 x).dev 0 = 4 ∧ x.replay[x.replay.length - x.resend]? = some (flit 0) ∧ lacksCredit (portOf stalled.dev 0) = true ∧
    after (exec (.dataSlot 0 2) (port0 4 x)) (fun t => (portOf t.dev 0).resend == 0 && (portOf t.dev 0).replay == [flit 0]) = true ∧
    after (exec (.dataSlot 0 2) stalled) (fun t => getF t.dev (F.fabPcntCreditStall_credit_stall 0) == 1) = true ∧
    slotChoice (port0 4).dev Port.fresh 2 = none ∧
    after (exec (.dataSlot 0 2) (port0 4)) (fun t => Tab.get? t.dev.sentData 0 == some idleFlit) = true := by decide +kernel
theorem test_laneFailure : let s := port0 4 { Port.fresh with trained := true } [(F.fabPort_lane_mask 0, 255)]
    (portOf s.dev 0).trained = true ∧ bitOf (getF s.dev (F.fabPort_lane_mask 0)) 3 = true ∧ portState s.dev 0 = 4 ∧
    after (exec (.laneFailure 0 3) s) (fun t => portState t.dev 0 == 5 && getF t.dev (F.fabPort_retrains 0) == 1) = true := by decide
theorem test_fastRetrainComplete : let s := port0 5 Port.fresh [(F.fabPort_lane_mask 0, 255), (F.fabPort_disc 0, 1)]
    portState s.dev 0 = 5 ∧ portState (completeRetrain s.dev 0 0xF0) 0 = 4 ∧ getF (completeRetrain s.dev 0 0xF0) (F.fabPort_lanes 0) = 4 ∧
    portState (completeRetrain s.dev 0 0) 0 = 8 := by decide +kernel
theorem test_fastRetrainComplete_compares : let x := { Port.fresh with ident := some (7, 3, 1), replay := [flit 0] }
    let planned := [(F.fabPort_lane_mask 0, 255), (F.fabLmap_used 0, 1), (F.fabLmap_nb_module 0, 7), (F.fabLmap_nb_port 0, 1), (F.fabTorus_size, 3)]
    portState (completeRetrain (port0 5 x [(F.fabPort_lane_mask 0, 255)]).dev 0 0xFF) 0 = 7 ∧
    portState (completeRetrain (port0 5 x planned).dev 0 0xFF) 0 = 4 ∧
    portState (completeRetrain (port0 5 { x with ident := some (8, 3, 1) } planned).dev 0 0xFF) 0 = 6 ∧
    (portOf (completeRetrain (port0 5 x planned).dev 0 0xFF) 0).resend = 1 := by decide +kernel
theorem test_fullTrainingComplete : let f := [(F.fabLmap_used 0, 1)]
    portState (port0 2).dev 0 = 2 ∧ (port0 2).dev.wakeQueue.contains (.fabricPort 0) = false ∧
    portState (endTraining (port0 2).dev 0 0xFF) 0 = 3 ∧ getF (endTraining (port0 2).dev 0 0xFF) (F.fabPort_lanes 0) = 8 ∧
    portState (endTraining (port0 2).dev 0 0) 0 = 0 ∧ portState (endTraining (port0 2 Port.fresh f).dev 0 0) 0 = 1 ∧
    portState (endTraining (port0 2 { Port.fresh with signal := true }).dev 0 0) 0 = 8 := by decide +kernel
theorem test_ident : let s := port0 3 { Port.fresh with sbIn := [⟨4, 0, 0, 0, 0, 7 + 2 * 2 ^ 16 + 1 * 2 ^ 41, 0⟩] }
    (takeSb s.dev 0 4).isSome = true ∧ portState s.dev 0 = 3 ∧
    after (exec (.ident 0) s) (fun t => portState t.dev 0 == 7 && getF t.dev (F.fabPort_nb_module 0) == 7) = true := by decide +kernel
/-- Port 1 of a module whose neighbour there is module 7, coordinate 1, its port 0. -/
theorem test_ident_planned : let f := [(F.fabLmap_used 1, 1), (F.fabLmap_nb_module 1, 7), (F.fabLmap_nb_port 1, 0), (F.fabTorus_size, 3), (F.fabFtcCfg_root, 1)]
    let x := { Port.fresh with sbIn := [⟨4, 0, 0, 0, 0, 7 + 1 * 2 ^ 16, 0⟩] }
    let s := { State.reset with dev := { State.reset.dev with f := f ++ [(F.fabPort_state 1, 3)], ports := [(1, x)] } }
    after (exec (.ident 1) s) (fun t => portState t.dev 1 == 4) = true := by decide +kernel
theorem test_partnerFirstSignal : let s := { port0 0 with dev := { (port0 0).dev with malt := 1 } }
    portState s.dev 0 = 0 ∧ s.dev.malt ≠ 0 ∧
    after (exec (.partnerFirstSignal 0) s) (fun t => portState t.dev 0 == 2) = true := by decide

/-- Partition 0 holds a slice of two modules on axis A; this one has coordinate own, port 0 UP with sideband messages. -/
def twins (own : Nat) (m : List SbMsg := []) (f : Tab FKey Nat := []) (k : Tab (Nat × Nat) Chan := []) : State :=
  { State.reset with dev := { State.reset.dev with
      f := f ++ [(F.fabCoord_coord, own), (F.fabTorus_size, 1), (F.fabSlice_valid 0, 1), (F.fabSlice_size 0, 1), (F.fabSlcfg_root 0, own),
                 (F.fabSlcfg_up 0, 1), (F.fabPort_state 0, 4)]
      ports := [(0, { Port.fresh with sbIn := m })], chans := k } }
theorem test_arrive : let m : SbMsg := ⟨1, 0, 2, 0, 1, 0, 0⟩
    let s := twins 1 [m]
    childPorts s.dev 0 = [0] ∧ (takeSb s.dev 0 1 (fun m => !arriveWaits s.dev m)).map Prod.fst = some m ∧ m.chan ≤ 17 ∧
    (openUse s.dev 0 2).cancelled = false ∧ m.gen = useGen s.dev 0 2 (openUse s.dev 0 2) ∧ (openUse s.dev 0 2).release = none ∧
    after (exec (.arrive 0) s) (fun t => (openUse t.dev 0 2).kids == [(0, ⟨1, 0⟩)]) = true := by decide +kernel
/-- This module has arrived on channel 2. -/
def arrived : Chan := { Chan.fresh with own := some ⟨1, 0⟩ }
theorem test_climb : let leaf := (twins 0 [] [] [((0, 2), arrived)]).dev
    let root := (twins 1 [] [] [((0, 2), { arrived with kids := [(0, ⟨2, 0⟩)] })]).dev
    subtree leaf 0 2 arrived = some ⟨1, 0⟩ ∧ (openUse leaf 0 2).check = none ∧ flag leaf (F.fabSlcfg_root 0) = false ∧
    subtree root 0 2 (openUse root 0 2) = some ⟨3, 0⟩ ∧ flag root (F.fabSlcfg_root 0) = true ∧ (openUse root 0 2).release = none ∧
    ((portOf (climb leaf 0 2) 1).sbOut.map Prod.snd) = [⟨1, 0, 2, 0, 1, 0, 0⟩] ∧
    ((portOf (climb root 0 2) 0).sbOut.map (fun x => (x.2.type, x.2.flags))) = [(2, 3)] := by decide +kernel
/-- Without a slice a use releases 200 ns after its own arrival; a flag check of one mode goes on up the tree. -/
theorem test_climb_alone : let s := { State.reset with dev := { State.reset.dev with chans := [((0, 2), arrived)] } }
    let leaf := (twins 0 [] [] [((0, 2), { arrived with check := some 9 })]).dev
    flag s.dev (F.fabSlice_valid 0) = false ∧ ownComplete 2 (openUse s.dev 0 2) = true ∧ (openUse s.dev 0 2).own = some ⟨1, 0⟩ ∧
    (Tab.get? (climb s.dev 0 2).chans (0, 2)).map Chan.release = some (some (400, ⟨1, 0⟩)) ∧
    subtree leaf 0 2 (openUse leaf 0 2) = some ⟨1, 0⟩ ∧ ((portOf (climb leaf 0 2) 1).sbOut.map (fun x => x.2.type)) = [1] := by decide +kernel
theorem test_release : let m : SbMsg := ⟨2, 0, 2, 0, 1, 500, 0⟩
    let x := { arrived with sent := true }
    let s := { twins 0 [] [] [((0, 2), x)] with dev := { (twins 0 [] [] [((0, 2), x)]).dev with ports := [(1, { Port.fresh with sbIn := [m] })] } }
    (takeSb s.dev 1 2).map Prod.fst = some m ∧ Tab.get? s.dev.chans (0, 2) = some x ∧ x.cancelled = false ∧ x.release = none ∧
    m.gen = useGen s.dev 0 2 x ∧ getF s.dev (F.fabSlcfg_up 0) = 1 ∧ getF s.dev F.fabFtc_ftc ≤ m.value ∧
    after (exec (.release 1) s) (fun t => (Tab.get? t.dev.chans (0, 2)).map Chan.release == some (some (500, ⟨1, 500⟩))) = true := by decide +kernel
theorem test_channelReleaseReached : let x := { arrived with release := some (500, ⟨1, 0⟩) }
    let s := twins 0 [] [] [((0, 2), x)]
    Tab.get? s.dev.chans (0, 2) = some x ∧ x.cancelled = false ∧ x.formation = false ∧ x.check = none ∧
    after (exec (.channelReleaseReached 0 2) s) (fun t => t.dev.chans == [] && getF t.dev F.fabFtc_ftc == 500 &&
      getF t.dev (F.fabSlstat_releases 0) == 1) = true := by decide +kernel
theorem test_flagCheckRelease : let x := { arrived with release := some (500, ⟨1, 0⟩), check := some 9 }
    let s := twins 0 [] [] [((0, 2), x)]
    checkChannel s.dev 0 = some 2 ∧ Tab.get? s.dev.chans (0, 2) = some x ∧
    after (exec (.flagCheckRelease 0) s) (fun t => getF t.dev (F.fabNflag_chk_gyle 0) == 9 && getF t.dev (F.fabNflag_red_nonfin 0) == 1) = true := by
  decide +kernel
theorem test_nflagWrite : after (exec (.nflagWrite 0 2) State.reset) (fun t => getF t.dev (F.fabNflag_nonfin 0) == 1 &&
      getF t.dev (F.fabNflag_fault 0) == 1) = true ∧
    after (exec (.nflagWrite 0 0) (withF [(F.fabNflag_nonfin 0, 1)])) (fun t => getF t.dev (F.fabNflag_nonfin 0) == 1) = true := by decide
theorem test_fault : let s := twins 0 [⟨3, 0, 0, 0, 0, 1, 0⟩] [] [((0, 2), arrived)]
    (takeSb s.dev 0 3).map (fun x => x.1.part) = some 0 ∧ flag s.dev (F.fabSlice_valid 0) = true ∧ flag s.dev (F.fabSlstat_fault 0) = false ∧
    after (exec (.fault 0) s) (fun t => getF t.dev (F.fabSlstat_cause 0) == 4 &&
      (Tab.get? t.dev.chans (0, 2)).map Chan.cancelled == some true) = true := by decide +kernel
theorem test_channelTimeout : let s := twins 0 [] [] [((0, 2), arrived)]
    Tab.get? s.dev.chans (0, 2) = some arrived ∧ arrived.own.isSome = true ∧ arrived.release = none ∧
    after (exec (.channelTimeout 0 2) s) (fun t => getF t.dev (F.fabSlstat_cause 0) == 3 && getF t.dev (F.fabIrq_slice_fault 0) == 1) = true := by
  decide +kernel
theorem test_drainArrive : let s := twins 0 [] [(F.fabEpoch_draining 0, 1)]
    flag s.dev (F.fabEpoch_draining 0) = true ∧ getF s.dev (F.fabEpoch_open_old 0) = 0 ∧ (openUse s.dev 0 17).engine = false ∧
    after (exec (.drainArrive 0) s) (fun t => (openUse t.dev 0 17).engine && (openUse t.dev 0 17).sent) = true := by decide +kernel

/-! ## Messages -/

/-- A message of a kind for partition 0, at address 0. -/
def msg (kind step : Nat) (l : List Byte) (length : Nat := 1) : Msg :=
  ⟨kind, 0, 0, 0, 0, 0, 0, length, 0, 0, step, 0, l⟩
/-- The message has come in on channel 2 of port 0; partition 0 has page 0 of the HBM window. -/
def incoming (m : Msg) : State :=
  { withPage [(F.fabPort_state 0, 4)] with dev := { (withPage [(F.fabPort_state 0, 4)]).dev with
      ports := [(0, { Port.fresh with inbox := [(2, m)] })] } }
/-- The same without a page. -/
def unmapped (m : Msg) : State := { incoming m with dev := { (incoming m).dev with pages := [] } }

theorem test_write : let s := incoming (msg 0 0 [5])
    let a := buddyAddr s.dev 0 0 0 true
    (takeMsg s.dev 0 2 0 (fun m => !heldRange s.dev m.dpart (buddyAddr s.dev m.dpart m.src m.addr true) m.data.length)).map Prod.fst =
      some (msg 0 0 [5]) ∧ fabricMay s.dev 0 a 1 = true ∧ fabricMay (unmapped (msg 0 0 [5])).dev 0 a 1 = false ∧
    after (exec (.write 0 2) s) (fun t => memGet t.dev.mem 0 == 5) = true := by decide +kernel
theorem test_read : let s := incoming (msg 1 0 [])
    (takeMsg s.dev 0 2 1 (fun m => !heldRange s.dev m.dpart (buddyAddr s.dev m.dpart m.src m.addr false) m.length)).map Prod.fst =
      some (msg 1 0 []) ∧ fabricMay s.dev 0 (buddyAddr s.dev 0 0 0 false) 1 = true ∧
    pagesTouched s.dev 0 (buddyAddr s.dev 0 0 0 false) 1 = [(.hbm, 0)] ∧ pageAt s.dev 0 .hbm 0 = some (hbmPage 0) ∧
    fabricMay (unmapped (msg 1 0 [])).dev 0 (buddyAddr s.dev 0 0 0 false) 1 = false := by decide +kernel
/-- A READ of a lost page, and messages whose page refills. -/
theorem test_messages_held : let on (m : Msg) (p : Poison) : State := { incoming m with dev := { (incoming m).dev with
      pages := [((0, .hbm, 0), { hbmPage 0 with poison := p })] } }
    let a (m : Msg) (w : Bool) : Nat := buddyAddr (on m .lost).dev 0 0 0 w
    (takeMsg (on (msg 1 0 []) .lost).dev 0 2 1 (fun m => !heldRange (on (msg 1 0 []) .lost).dev m.dpart (a m false) m.length)).isSome = true ∧
    fabricMay (on (msg 1 0 []) .lost).dev 0 (a (msg 1 0 []) false) 1 = true ∧
    pagesTouched (on (msg 1 0 []) .lost).dev 0 (a (msg 1 0 []) false) 1 = [(.hbm, 0)] ∧
    (takeMsg (on (msg 1 0 []) .refilling).dev 0 2 1 (fun m => !heldRange (on (msg 1 0 []) .refilling).dev m.dpart (a m false) m.length)).isNone = true ∧
    after (exec (.read 0 2) (on (msg 1 0 []) .refilling)) (fun t => (portOf t.dev 0).inbox == [(2, msg 1 0 [])]) = true ∧
    (takeMsg (on (msg 0 0 [5]) .refilling).dev 0 2 0 (fun m => !heldWrite (on (msg 0 0 [5]) .refilling).dev m.dpart (a m true) m.data.length)).isNone = true ∧
    after (exec (.write 0 2) (on (msg 0 0 [5]) .refilling)) (fun t => (portOf t.dev 0).inbox == [(2, msg 0 0 [5])] && t.dev.mem == []) = true := by
  decide +kernel
theorem test_resp : let r : RemoteRead := ⟨0, (0, .hbm, 0), 0, 16384, none⟩
    let w (m : Msg) : State := { incoming m with dev := { (incoming m).dev with
      reads := [r], pages := [((0, .hbm, 0), { hbmPage 0 with poison := .refilling })] } }
    (takeMsg (w (msg 2 0 [7])).dev 0 2 2 (fun _ => true)).map Prod.fst = some (msg 2 0 [7]) ∧
    (w (msg 2 0 [7])).dev.reads.find? (fun r => r.req == (msg 2 0 [7]).tag && r.result.isNone) = some r ∧
    after (exec (.resp 0 2) (w (msg 2 0 [7]))) (fun t => t.dev.reads.map RemoteRead.result == [some (0, [7])]) = true ∧
    after (exec (.resp 0 2) (w (msg 2 1 [7]))) (fun t => (Tab.get? t.dev.pages (0, .hbm, 0)).map Page.poison == some .lost) = true := by
  decide +kernel

/-- A collective of partition 0 over axis A, op and count as given, its dst at 0x1000. -/
def coll (op count : Nat) (l : List (Nat × Nat × List Byte) := []) : Coll :=
  { id := 0, c := 0, p := 0, desc := 0x2000, op := op, fmt := 2, pfmt := 0, axes := 1, count := count, root := 0, src := 0, dst := 0x1000
    epoch := 0, tag := 0, evt := 0, cmask := 0, sevt := none, inst := 0, held := false, posted := 0, blocks := l, stepped := 0, phase := 0, chain := false, cur := [] }
/-- The collective is open on the module with coordinate 0 of two; a message has come in. -/
def collective (k : Coll) (m : Msg) : State :=
  let s := twins 0
  { s with dev := { s.dev with pages := [((0, .hbm, 0), hbmPage 0)], colls := [k], ports := [(0, { Port.fresh with inbox := [(0, m)] })] } }

theorem test_coll : let s := collective (coll 2 1) { msg 3 1 [5] with sig := (coll 2 1).sig }
    (takeMsg s.dev 0 0 3 (fun m => match collFor s.dev m with | some k => !k.held | none => false)).isSome = true ∧
    collFor s.dev { msg 3 1 [5] with sig := (coll 2 1).sig } = some (coll 2 1) ∧ ownRank s.dev (coll 2 1) = 0 ∧ (coll 2 1).size s.dev = 2 ∧
    (coll 2 1).ring s.dev 0 = 2 ∧ (coll 2 1).place s.dev 0 = 0 :=
  ⟨by decide +kernel, rfl, by decide +kernel, by decide +kernel, by decide +kernel, by decide +kernel⟩
theorem test_coll_other : let m := { msg 3 1 [5] with sig := (coll 2 1).sig + 1 }
    let s := collective (coll 2 1) m
    (takeMsg s.dev 0 0 3 (fun m => match collFor s.dev m with | some k => !k.held | none => false)).isSome = true ∧
    collFor s.dev m = some (coll 2 1) ∧ m.sig ≠ (coll 2 1).sig := ⟨by decide +kernel, rfl, by simp⟩
theorem test_abort : let s := collective (coll 2 1) (msg 4 0 [0])
    (takeMsg s.dev 0 0 4 (fun m => (collFor s.dev m).isSome)).map Prod.fst = some (msg 4 0 [0]) ∧ collFor s.dev (msg 4 0 [0]) = some (coll 2 1) ∧
    after (exec (.abort 0 0) s) (fun t => t.dev.colls == [] && viewNat t.dev 0 (0x2000 + 48) 1 == 2) = true := by decide +kernel
theorem test_ringpassStep : let k := coll 6 2 [(0, 0, [1, 2]), (1, 0, [3, 4])]
    let s := collective k (msg 4 0 [0])
    let held := { s with dev := { s.dev with pages := [((0, .hbm, 0), { hbmPage 0 with poison := .refilling })] } }
    nthColl s.dev 0 0 = some k ∧ k.held = false ∧ k.stepped + 1 < k.size s.dev ∧ k.whole s.dev 0 1 = true ∧
    heldWrite s.dev 0 (k.dst + 1 * k.count) k.count = false ∧ heldWrite held.dev 0 (k.dst + 1 * k.count) k.count = true ∧
    after (exec (.ringpassStep 0 0) s) (fun t => memGet t.dev.mem 0x1002 == 3 && memGet t.dev.mem 0x1003 == 4) = true := by decide +kernel
theorem test_collectiveResolve : let k := { coll 2 1 with cur := [1, 3], phase := 1 }
    let s := collective k (msg 4 0 [0])
    k.combined = true ∧ k.size s.dev = 2 ∧ heldWrite s.dev 0 k.dst (k.dstBytes 2) = false ∧ heldWrite s.dev 0 (k.desc + 48) 8 = false ∧
    after (exec (.collectiveResolve 0 0) s) (fun t => memGet t.dev.mem 0x1000 == 1 && memGet t.dev.mem 0x1001 == 3 &&
      viewNat t.dev 0 (0x2000 + 48) 1 == 1) = true := by decide +kernel
/-- The blocks of the last axis make an ALLGATHER's result; the last of a chain adds its own words to the partial sum it has. -/
theorem test_advanceColl : let k := coll 2 1 [(0, 0, [1]), (1, 0, [3])]
    let d := (collective k (msg 4 0 [0])).dev
    let chain := { coll 0 1 [(0, 0, leBytes 8 5)] with fmt := 0, chain := true, cur := leBytes 8 2 }
    let last := { d with f := (twins 1).dev.f }
    k.op ≠ 6 ∧ k.chain = false ∧ k.phase + 1 = (groupAxes k.axes).length ∧ (∀ o < k.ring d k.phase, k.whole d k.phase o = true) ∧
    (advanceColl d k).colls.map (fun y => (y.phase, y.cur)) = [(1, [1, 3])] ∧
    chain.phase = 0 ∧ 0 < ownRank last chain ∧ ownRank last chain + 1 = chain.size last ∧ chain.cur.length ≤ (chain.block 0).length ∧
    (advanceColl last chain).colls.map (fun y => (y.phase, y.cur)) = [(2, leBytes 8 7)] := by decide +kernel

/-! ## Hosts, mailboxes and the maltster -/

theorem test_plainStore : let d := (withF [(F.klnRstat_wr_err 0, 1)]).dev
    getF (plainStore d (.mcEvt 0 3) 7) (F.mcEvt_count 0 3) = 7 ∧ Reg.ofAddr (Reg.klnRstat 0).addr = some (.klnRstat 0) := by decide
theorem test_registerAccess : let a := BitVec.ofNat 48 (Reg.mcLend 0).addr
    let s := withF [(F.hostPcfg_clusters 0, 1)]
    Reg.ofAddr a.toNat = some (.mcLend 0) ∧ regVisible s.dev (.host 0) (.mcLend 0) = true ∧ regVisible s.dev (.host 1) (.mcLend 0) = false ∧
    Reg.ofAddr (0x0800001FFFF8 : BitVec 48).toNat = none ∧
    after (exec (.registerReadClear (.host 1) a) s) (fun t => t.dev.bus == .accessError && getF t.dev (F.secDeny_count 1) == 1) = true := by decide
theorem test_registerWrite : let a := BitVec.ofNat 48 (Reg.mcEvt 0 3).addr
    Reg.ofAddr a.toNat = some (.mcEvt 0 3) ∧
    after (exec (.registerWrite .maltster a 9) State.reset) (fun t => getF t.dev (F.mcEvt_count 0 3) == 9) = true := by decide +kernel
theorem test_hostAccess : let s := withF [(F.hostPcfg_clusters 0, 1), (F.bankOwner_owner 0 2, 1)]
    let a := BitVec.ofNat 48 (0x040000000000 + 0x400003)
    ownsCluster s.dev 0 0 = true ∧ banksOpen s.dev 0 0x400003 4 = true ∧ protectedHit s.dev 0 0x400003 4 = false ∧ ownsCluster s.dev 1 0 = false ∧
    inControl (0x080000210108 : BitVec 48).toNat = true ∧ Memory.wf s.dev.mem = true ∧
    after (exec (.hostAccess 0 a 4 (some 0x01020304) .clean 0) s) (fun t => memGet t.dev.mem (spadBase 0 + 0x400003) == 4 &&
      memGet t.dev.mem (spadBase 0 + 0x400006) == 1 && memGet t.dev.mem (spadBase 0 + 0x400007) == 0) = true ∧
    after (exec (.hostAccess 0 a 4 none .uncorrectable 0) s) (fun t => t.dev.bus == .none && getF t.dev (F.bankStatus_ue 0) == 1) = true ∧
    after (exec (.hostAccess 1 a 4 (some 1) .clean 0) s) (fun t => t.dev.bus == .accessError) = true ∧
    after (exec (.hostAccess 0 0x080000210108 16 none .clean 0) s) (fun t => t.dev.bus == .accessError) = true := by decide
theorem test_hostAccess_page : let s := withPage []
    let away := { s with dev := { s.dev with pages := [((0, .hbm, 0), { hbmPage 0 with poison := .refilling })] } }
    let h : HeldAccess := ⟨0, 8, 4, some 7, false⟩
    rangePages s.dev 0 8 4 = true ∧ rangePages away.dev 0 8 4 = true ∧ mustHold s.dev h = false ∧ mustHold away.dev h = true ∧
    after (exec (.hostAccess 0 8 4 (some 7) .clean 0) s) (fun t => viewNat t.dev 0 8 4 == 7 && t.dev.bus == .none) = true ∧
    after (exec (.hostAccess 0 8 4 none .clean 0) s) (fun t => t.dev.bus == .value 0) = true ∧
    after (exec (.hostAccess 0 8 4 (some 7) .clean 0) away) (fun t => t.dev.held == [h] && t.dev.bus == .held) = true := by decide +kernel

/-- A command of partition 0's operator with its arguments, number 0, in slot 0. -/
def cmd (op : Nat) (l : List Nat) : MbxCmd :=
  { id := 0, chan := 0, slot := 0, outer := op * 256 + 1, words := op * 256 :: l ++ List.replicate (15 - l.length) 0, role := 0, kind := 0, seq := 0
    key := 0, bytes := [], blob := [], src := (0, 0), ftc := 0, arrived := none, waits := false }
/-- The maltster runs and has picked a command up. -/
def given (m : MbxCmd) (f : Tab FKey Nat := []) : State :=
  { State.reset with dev := { State.reset.dev with f := f, malt := 1, picked := [m] } }

theorem test_mailboxPickup : let s := { given (cmd 1 []) [(F.mbxCmd_word 0 2 0, 0x0101)] with dev :=
      { (given (cmd 1 []) [(F.mbxCmd_word 0 2 0, 0x0101)]).dev with picked := [] } }
    nextTurn s.dev = some 0 ∧ nextSlot s.dev 0 = some 2 ∧ s.dev.audits = [] ∧ s.dev.malt = 1 ∧
    knownOpcodes.contains (newCmd s.dev 0 2 ((List.range 16).flatMap (fun w => leBytes 8 (getF s.dev (F.mbxCmd_word 0 2 w)))) [] (0, 0)).opcode = true ∧
    (pickMailbox s.dev 0).picked.map MbxCmd.slot = [2] := by decide +kernel
theorem test_mailboxPickup_reserved : let s := { given (cmd 1 []) [(F.mbxCmd_word 0 2 0, 0x7F01)] with dev :=
      { (given (cmd 1 []) [(F.mbxCmd_word 0 2 0, 0x7F01)]).dev with picked := [] } }
    nextTurn s.dev = some 0 ∧ nextSlot s.dev 0 = some 2 ∧ s.dev.malt = 1 ∧
    knownOpcodes.contains (newCmd s.dev 0 2 ((List.range 16).flatMap (fun w => leBytes 8 (getF s.dev (F.mbxCmd_word 0 2 w)))) [] (0, 0)).opcode = false ∧
    bits (getF (pickMailbox s.dev 0) (F.mbxRsp_word 0 2 0)) 31 24 = 1 := by decide +kernel
theorem test_mailboxBusyWrite : let s := withF [(F.mbxCmd_word 0 2 0, 1)]
    bitOf (getF s.dev (F.mbxCmd_word 0 2 0)) 0 = true ∧
    after (exec (.mailboxBusyWrite 0 2 5 9) s) (fun t => getF t.dev (F.mbxStat_busy_wr 0) == 1 && getF t.dev (F.mbxCmd_word 0 2 5) == 0) = true := by
  decide
theorem test_answer : let d := answer (given (cmd 0x10 [])).dev (cmd 0x10 []) 4 [9]
    getF d (F.mbxRsp_word 0 0 0) = 4 * 2 ^ 24 + 0x1001 ∧ getF d (F.mbxRsp_word 0 0 1) = 9 ∧ d.picked = [] := by decide +kernel
theorem test_identity : cmdAt (given (cmd 1 [])).dev 0 0x01 = some (cmd 1 []) ∧ fieldsOk (cmd 1 []) [] = true ∧ (cmd 1 []).role = 0 ∧
    getF (runIdentity (given (cmd 1 [])).dev 0 false) (F.mbxRsp_word 0 0 1) = 0x3832312D314B4754 := by decide +kernel

theorem test_stageOpen : let m := cmd 0x10 [0]
    let d := (given m).dev
    cmdAt d 0 0x10 = some m ∧ scopeRole m = true ∧ otherChannel d m = false ∧ fieldsOk m [1] = true ∧ cmdScope m = 0 ∧
    getF d (stgState 0) = 0 ∧ getF (runOpen d 0) (stgState 0) = 1 ∧
    getF (runOpen (given m [(F.stgPstat_state 0, 1)]).dev 0) (F.mbxRsp_word 0 0 0) / 2 ^ 24 = 4 := by decide +kernel
/-- An item for all of MC_LEND of cluster 0. -/
def lendItem : List Nat := [(Reg.mcLend 0).addr, 2 ^ 32 * (2 ^ 32 - 1), 6 * 2 ^ 32]
theorem test_stageWrite : let m := cmd 0x11 (0x100 :: lendItem)
    let d := (given m [(F.hostPcfg_clusters 0, 1), (F.stgPstat_state 0, 1)]).dev
    cmdAt d 0 0x11 = some m ∧ fieldsOk m (0x701 :: List.replicate 3 allBits) = true ∧ bits (m.arg 1) 10 8 = 1 ∧ getF d (stgState 0) = 1 ∧
    (writeItems d m 0).any (fun x => x.isNone) = false ∧ getF (runWrite d 0) (stgItems 0) = 1 := by decide +kernel
/-- Partition 0 has an open set with one item; state st of it. -/
def staged (m : MbxCmd) (st : Nat) (x : StageItem) (f : Tab FKey Nat := []) : State :=
  { given m with dev := { (given m).dev with
      f := f ++ [(F.hostPcfg_clusters 0, 1), (F.stgPstat_state 0, st), (F.fabCfg_share, 24)], sets := [(0, ⟨[x], none⟩)] } }
/-- MC_LEND of cluster 0 lends bank 3. -/
def lends (v : Nat) : StageItem := ⟨.mcLend 0, 0xFFFFFFFF * 2 ^ 32, v * 2 ^ 32⟩
/-- FAB_EPOCH of partition 0 with pending = cur. -/
def sameEpoch : StageItem := ⟨.fabEpoch 0, fieldMask (stageable State.reset.dev 0 (.fabEpoch 0)), 0⟩
theorem test_stageCheck : let m := cmd 0x12 [0]
    cmdAt (staged m 1 (lends 8)).dev 0 0x12 = some m ∧ fieldsOk m [1] = true ∧ getF (staged m 1 (lends 8)).dev (stgState 0) = 1 ∧
    failing (staged m 1 (lends 8)).dev [lends 8] = none ∧ failing (staged m 1 sameEpoch).dev [sameEpoch] = some (0, 5) ∧
    getF (runCheck (staged m 1 (lends 8)).dev 0) (stgState 0) = 2 ∧ getF (runCheck (staged m 1 sameEpoch).dev 0) (stgReason 0) = 5 := by
  decide +kernel
theorem test_stageCommit : let now := cmd 0x13 [0]
    let m := cmd 0x13 [0x100, 400000]
    let early := cmd 0x13 [0x100, 399999]
    cmdAt (staged now 2 (lends 8)).dev 0 0x13 = some now ∧ fieldsOk now [0x301, 0] = true ∧ getF (staged now 2 (lends 8)).dev (stgState 0) = 2 ∧
    fieldsOk m [0x301, allBits] = true ∧ m.ftc + 400000 ≤ m.arg 2 ∧ m.arg 2 ≤ m.ftc + 120000000000 ∧ early.arg 2 < early.ftc + 400000 ∧
    getF (runCommit (staged now 2 (lends 8)).dev 0) (F.mcLend_bank_mask 0) = 8 ∧ getF (runCommit (staged m 2 (lends 8)).dev 0) (stgState 0) = 3 ∧
    getF (runCommit (staged early 2 (lends 8)).dev 0) (stgLast 0) = 7 := by decide +kernel
/-- A commit for a gyle, and one now after the installer's set due at the same FTC. -/
theorem test_stageCommit_gyle : let m (g : Nat) (a : Option Nat) : MbxCmd := { cmd 0x13 [0x200, g] with arrived := a }
    let s (g : Nat) (a : Option Nat) : State := staged (m g a) 2 (lends 8)
    cmdAt (s 9 none).dev 0 0x13 = some (m 9 none) ∧ fieldsOk (m 9 none) [0x301, allBits] = true ∧ bits ((m 9 none).arg 1) 9 8 = 2 ∧
    getF (runCommit (s 9 none).dev 0) (stgState 0) = 3 ∧ getF (runCommit (s 9 (some 8)).dev 0) (stgLast 0) = 7 ∧
    getF (runCommit (s 9 (some 7)).dev 0) (stgState 0) = 3 := by decide +kernel
theorem test_stageCommit_after : let m := cmd 0x13 [0]
    let s := staged m 2 (lends 8) [(F.stgIstat_state, 3), (F.stgIstat_when, 1)]
    let d := armSet s.dev m 0 0 (ftcOf s.dev)
    cmdAt s.dev 0 0x13 = some m ∧ getF s.dev (stgState 0) = 2 ∧ dueBefore d 0 (ftcOf d) 4 = true ∧ (∀ n < 4, dueBefore (commitSet d 4) 0 (ftcOf (commitSet d 4)) n = false) ∧
    (∀ n < 5, dueBefore (armSet (staged m 2 (lends 8)).dev m 0 0 0) 0 0 n = false) ∧ getF (runCommit s.dev 0) (F.mcLend_bank_mask 0) = 8 ∧
    getF (runCommit s.dev 0) F.stgIstat_state = 0 := by decide +kernel
theorem test_stageAbort : let m := cmd 0x14 [0]
    cmdAt (staged m 2 (lends 8)).dev 0 0x14 = some m ∧ fieldsOk m [1] = true ∧ getF (runAbort (staged m 2 (lends 8)).dev 0) (stgState 0) = 0 := by
  decide +kernel
theorem test_commitInstant : let m := cmd 0x13 [0x100, 500000]
    let s := staged m 3 (lends 8) [(F.stgPstat_when 0, 1), (F.stgPwhen_instant 0, 500000)]
    s.dev.malt = 1 ∧ getF s.dev (stgState 0) = 3 ∧ getF s.dev (stgWhen 0) = 1 ∧ earlierSet s.dev 0 = false ∧
    getF (ftcInstant s.dev 0) (F.mcLend_bank_mask 0) = 8 ∧ getF (ftcInstant s.dev 0) F.fabFtc_ftc = 500000 := by decide +kernel
theorem test_stageSetLapse : let s := staged (cmd 1 []) 1 (lends 8)
    getF s.dev (stgState 0) = 1 ∧ (setOf s.dev 0).cmd = none ∧ s.dev.audits = [] ∧
    after (exec (.stageSetLapse (some 0)) s) (fun t => getF t.dev (stgState 0) == 0) = true := by decide +kernel
theorem test_commitSet_fails : let d := (staged (cmd 1 []) 2 sameEpoch).dev
    (setOf d 0).cmd = none ∧ failing { auditEvent d 1 with cycle := (commitSet d 0).cycle } (setOf d 0).items = some (0, 5) := by decide +kernel

/-- The maltster has picked a command up; partition 0 has HBM pages 0 and 1 of object 3 and its quotas. -/
def pooling (m : MbxCmd) (f : Tab FKey Nat := []) : State :=
  { given m with dev := { (given m).dev with
      f := f ++ [(F.hbmPquota_hbm_quota 0, 4), (F.hbmPquota_clr_quota 0, 2)]
      pages := [((0, .hbm, 0), { hbmPage 0 with obj := 3 }), ((0, .hbm, 1), { hbmPage 1 with obj := 3 })] } }
theorem test_pageMap : let m := cmd 0x20 [2 * 0x200000, 5 * 2 ^ 40 + 0x10001]
    let d := (pooling m).dev
    cmdAt d 0 0x20 = some m ∧ fieldsOk m [allBits, (2 ^ 24 - 1) * 2 ^ 40 + 0x13FFF] = true ∧ operatorCmd m = true ∧
    windowPages (m.arg 1) 1 = some (.hbm, [2]) ∧ pageAt d 0 .hbm 2 = none ∧ (mapPages d 0 .hbm 5 true [2]).isSome = true ∧
    (pageAt (runPageMap d 0) 0 .hbm 2).map (fun x => (x.obj, x.pin)) = some (5, true) := by decide +kernel
theorem test_pageUnmap : let m := cmd 0x21 [0x200000, 1]
    let d := (pooling m).dev
    cmdAt d 0 0x21 = some m ∧ fieldsOk m [allBits, 0x3FFF] = true ∧ bitOf (m.arg 2) 17 = false ∧ windowPages (m.arg 1) 1 = some (.hbm, [1]) ∧
    (pageAt d 0 .hbm 1).isSome = true ∧ d.held = [] ∧ pageAt (runPageUnmap d 0) 0 .hbm 1 = none := by decide +kernel
theorem test_pageAttr : let m := cmd 0x22 [3, 0x12, 0, 0, 0]
    let d := (pooling m).dev
    cmdAt d 0 0x22 = some m ∧ fieldsOk m [0xFFFFFF, 0x33, 0xFFFF, 2 ^ 48 - 1, 3] = true ∧ bits (m.arg 2) 1 0 = 2 ∧ bits (m.arg 2) 5 4 = 1 ∧
    (objectPages d 0 (m.arg 1)).length = 2 := by decide +kernel
theorem test_poolQuery : let m := cmd 0x23 [2 ^ 24]
    let d := (pooling m).dev
    cmdAt d 0 0x23 = some m ∧ fieldsOk m [0x1FFFFFF] = true ∧ operatorCmd m = true ∧ getF (runPoolQuery d 0) (F.mbxRsp_word 0 0 1) = 2 := by
  decide +kernel

/-- What a slice of this one module needs. -/
def alone : Tab FKey Nat := [(F.hostPcfg_en 0, 1), (F.hostPcfg_clusters 0, 1), (F.fabCfg_share, 24), (F.fabFtcStat_locked, 1)]
/-- A formation of such a slice at a phase. -/
def forming (phase : Nat) : Formation := ⟨7, 0, 0, 5, 1000, 0, 0, phase, 500000, []⟩
/-- The formation under way, with a use of the drain channel. -/
def formed (m : MbxCmd) (phase : Nat) (x : Tab (Nat × Nat) Chan := []) : State :=
  { given m alone with dev := { (given m alone).dev with forms := [(0, forming phase)], chans := x } }
theorem test_sliceForm : let m := cmd 0x30 [0, 7, 0, 5]
    let c := cmd 0x30 [1, 7, 0, 0, 500000]
    let x := cmd 0x30 [2, 7]
    let d := (given m alone).dev
    cmdAt d 0 0x30 = some m ∧ formFields m = true ∧ operatorCmd m = true ∧ boxFits d 0 0 0 = true ∧ flag d (F.fabSlice_valid 0) = false ∧
    Tab.get? d.forms 0 = none ∧ sliceReady d 0 0 0 = true ∧ formFields c = true ∧ formOf (formed c 0).dev c = some (forming 0) ∧
    c.ftc + 400000 ≤ c.arg 5 ∧ formFields x = true ∧ formOf (formed x 0).dev x = some (forming 0) ∧
    ((runForm d 0 0 formPrepare).forms.map (fun e => e.2.token)) = [7] ∧
    ((runForm (formed c 0).dev 0 1 formCommit).forms.map (fun e => e.2.phase)) = [1] ∧ (runForm (formed x 0).dev 0 2 formCancel).forms = [] := by
  decide +kernel
theorem test_formation : let use : Chan := { Chan.fresh with formation := true, release := some (600000, ⟨0, 0⟩) }
    let s := formed (cmd 1 []) 2 [((0, 17), use)]
    s.dev.malt = 1 ∧ s.dev.audits = [] ∧ Tab.get? s.dev.forms 0 = some (forming 2) ∧ Tab.get? s.dev.chans (0, 17) = some use ∧
    Tab.get? (formed (cmd 1 []) 2).dev.chans (0, 17) = none ∧ (releaseForm s.dev 0).forms = [] ∧ (timeoutForm (formed (cmd 1 []) 2).dev 0).forms = [] ∧
    (lapseForm (formed (cmd 1 []) 0).dev 0).forms = [] ∧ getF (instantForm (formed (cmd 1 []) 1).dev 0) (F.fabEpoch_cur 0) = 5 := by decide +kernel
/-- Flags of a formation that fail it, and a preparation whose COMMIT has been picked up. -/
theorem test_formation_flags : let use (fl : Nat) : Chan := { Chan.fresh with formation := true, release := some (600000, ⟨fl, 0⟩) }
    let s (fl : Nat) : State := formed (cmd 1 []) 2 [((0, 17), use fl)]
    bits 0 5 3 = 0 ∧ bitOf 2 1 = true ∧ bitOf 8 1 = false ∧ bitOf 8 3 = true ∧ getF (releaseForm (s 0).dev 0) (F.fabSlice_valid 0) = 0 ∧
    (releaseForm (s 2).dev 0).forms = [] ∧ (releaseForm (s 8).dev 0).forms = [] ∧
    (lapseForm (formed (cmd 0x30 [1, 7]) 0).dev 0).forms = [(0, forming 0)] := by decide +kernel
theorem test_sliceDissolve : let m := cmd 0x31 [0, 400000]
    let d := (given m [(F.fabSlice_valid 0, 1)]).dev
    let e := { d with ends := [(0, 500000, 0)] }
    cmdAt d 0 0x31 = some m ∧ fieldsOk m [1, allBits] = true ∧ bitOf (m.arg 1) 0 = false ∧ m.ftc + 400000 ≤ m.arg 2 ∧ Tab.get? d.ends 0 = none ∧
    (runDissolve d 0).ends = [(0, 400000, 0)] ∧ Tab.get? e.ends 0 = some (500000, 0) ∧ getF (instantDissolve e 0) (F.fabSlice_valid 0) = 0 := by
  decide +kernel
theorem test_draw : let m := cmd 0x32 [0x020000000000, 0, 1, 9]
    let s := snapping []
    let d (st : Nat) : Dev := { s.dev with f := [(F.clrSnap_state 0, st), (F.hbmPquota_clr_quota 0, 2)], malt := 1, picked := [m] }
    cmdAt (d 1) 0 0x32 = some m ∧ fieldsOk m [allBits, allBits, 0xFFFF, 2 ^ 48 - 1] = true ∧ m.arg 3 ≠ 0 ∧ operatorCmd m = true ∧
    State.reset.sec.fuses.rights.getLsbD 0 = false ∧ getF (d 1) (F.clrSnap_state 0) = 1 ∧ ((runDraw (d 1) 0 false).picked.map MbxCmd.waits) = [true] ∧
    snapCheck (d 0) 0 (drawReq m) = .ok [(0, .hbm, 0)] ∧ clrUsed (d 0) 0 ≤ clrQuota (d 0) 0 := by decide +kernel
theorem test_portTrain : let m := { cmd 0x33 [4] with role := 1 }
    let d := (given m [(F.fabFtcCfg_root, 1)]).dev
    cmdAt d 0 0x33 = some m ∧ fieldsOk m [0xF] = true ∧ m.arg 1 ≤ 9 ∧ flag d F.secAudit_full = false ∧ sliceUses d 0 4 = false ∧
    sliceUses d 3 4 = false ∧ getF (runTrain d 0) (F.fabPort_state 4) = 2 := by decide +kernel

/-! ## Security -/

/-- The maltster has picked a command up; partition 0 has page 0 of the HBM window, with some bytes at its start. -/
def secured (m : MbxCmd) (l : List Byte := []) : State :=
  { withPage [] l with dev := { (withPage [] l).dev with malt := 1, picked := [m] } }

theorem test_auditLogFrame : State.reset.dev.audits = [] ∧ (flushAudit State.reset).sec.log = State.reset.sec.log ∧
    ((flushAudit { State.reset with dev := auditEvent State.reset.dev 1 }).sec.log.map Prod.fst) = [1] := ⟨rfl, rfl, rfl⟩

theorem test_signed_rejected : let m := cmd 0x41 [0, 64]
    let s := secured m
    cmdAt s.dev 0 0x41 = some m ∧ heldWrite s.dev 0 0 64 = false ∧ fieldsOk m [allBits, 0xFFFF] = true ∧ extentOk s.dev m 0 64 = true ∧
    blobStatus s (blobOf s.dev m) = 2 := by decide +kernel
/-- Bytes 0 to 159 of a blob of the installer that opens a stage set, and its key, 64 bytes of 1. -/
def blobHead (seq : Nat) : List Byte :=
  [0x4B, 0x4E, 0x53, 0x42, 0, 1] ++ leBytes 2 288 ++ leBytes 8 seq ++ serialBytes ++ leBytes 8 0x1000 ++ List.replicate 120 0
theorem test_blob_fields : let b := Blob.ofBytes (blobHead 5 ++ List.replicate 128 1)
    b.kind = 0 ∧ b.role = 1 ∧ b.seq = 5 ∧ b.opcode = 0x10 ∧ b.key = List.replicate 64 1 ∧ permitted 1 0x10 false = true := by decide +kernel
theorem test_keyRotation : let m := { cmd 0x41 [1, 2, 3, 4] with kind := 1, role := 1 }
    let s := secured m
    s.dev.picked[0]? = some m ∧ s.dev.malt = 1 ∧ onTurn s.dev 0 m = true ∧ (∀ j < 11, m.arg (j + 5) = 0) ∧
    s.sec.fuses.rights.getLsbD 3 = false ∧ flag s.dev F.secAudit_full = false ∧
    (List.range 4).find? (fun i => !s.sec.fuses.instValid.getLsbD i) = some 1 ∧ (rotateKey s 0).sec.fuses.instValid = 3 := by decide +kernel
/-- A firmware image of 128 bytes, version 1.2.3. -/
def image : List Byte :=
  [0x4B, 0x4E, 0x46, 0x57] ++ leBytes 2 1 ++ leBytes 2 2 ++ leBytes 2 3 ++ [4] ++ List.replicate 5 0 ++ leBytes 4 128 ++ List.replicate 108 0
theorem test_fwInstall : let m := { cmd 0x42 [0, 128] with role := 1 }
    let s := secured m image
    cmdAt s.dev 0 0x42 = some m ∧ fieldsOk m [allBits, 0xFFFFFFFF] = true ∧ extentOk s.dev m 0 128 = true ∧ heldWrite s.dev 0 0 128 = false ∧
    (imageOf (viewRead s.dev 0 0 128)).map (fun x => (x.major, x.minor, x.patch, x.rb)) = some (1, 2, 3, 4) ∧
    rollbackValue s.sec.fuses ≤ 4 ∧ rollbackValue (advanceRollback s.sec.fuses 5) = 5 := by decide +kernel
/-- While an image is written another is refused; the write's end makes the image the next to boot. -/
theorem test_fwInstall_ends : let m := { cmd 0x42 [0, 128] with role := 1 }
    let s := secured m image
    let u (id : Nat) : State := { s with sec := { s.sec with torn := true, install := some (id, s.sec.image) } }
    s.sec.install = none ∧ (u 1).sec.install = some (1, s.sec.image) ∧ m.id ≠ 1 ∧ (u 0).dev.picked[0]? = some m ∧ s.dev.malt = 1 ∧
    (installImage (u 0) 0).sec.torn = false ∧ getF (installImage (u 0) 0).dev F.secStatus_fw_pending = 1 ∧
    getF (installImage (u 1) 0).dev (F.mbxRsp_word 0 0 0) / 2 ^ 24 = 4 :=
  ⟨rfl, rfl, by decide, rfl, rfl, by decide +kernel, by decide +kernel, by decide +kernel⟩
theorem test_attest : let m := cmd 0x40 [64, 1, 2, 3, 4]
    let s := secured m
    cmdAt s.dev 0 0x40 = some m ∧ heldWrite s.dev 0 64 512 = false ∧ fieldsOk m (List.replicate 5 allBits) = true ∧ m.role = 0 ∧ m.chan ≠ 4 ∧
    bufferOk s.dev m 64 512 = true := by decide +kernel
theorem test_diagOpen : let m := { cmd 0x44 [1, 5] with kind := 2, role := 2 }
    let s := secured m
    cmdAt s.dev 0 0x44 = some m ∧ fieldsOk m [3, 0xFFFF] = true ∧ m.arg 1 = 1 ∧ 1 ≤ m.arg 2 ∧ m.arg 2 ≤ 480 ∧
    s.sec.fuses.debugLock.getLsbD 1 = false ∧ s.sec.fuses.rights.getLsbD 2 = false ∧ s.sec.diag = none ∧
    getF (openDiag s m).dev F.secStatus_diag = 1 ∧ (openDiag s m).sec.diag = some ⟨1, 5, 0⟩ := by decide +kernel
/-- A diagnostic session of 5 minutes is open. -/
def session : State := { withF [(F.secStatus_diag, 1)] with sec := { State.reset.sec with diag := some ⟨1, 5, 0⟩ } }
theorem test_diagExpiry : session.sec.diag = some ⟨1, 5, 0⟩ ∧ session.dev.audits = [] ∧
    (expireDiag session).sec.diag = none ∧ getF (expireDiag session).dev F.fabFtc_ftc = 600000000000 := ⟨rfl, rfl, rfl, by decide +kernel⟩
theorem test_fuseProgram : let m := { cmd 0x45 [7] with kind := 3, role := 2 }
    let s := secured m
    let u := { s with sec := { s.sec with fuses := { s.sec.fuses with mfgClosed := false } } }
    cmdAt s.dev 0 0x45 = some m ∧ s.sec.fuses.mfgClosed = true ∧ u.sec.fuses.mfgClosed = false ∧ flag u.dev F.secAudit_full = false ∧
    (programFuses s m).sec.fuses = s.sec.fuses := ⟨by decide +kernel, rfl, rfl, by decide, rfl⟩
theorem test_auditRead : let m := { cmd 0x43 [64, 1, 2] with role := 1 }
    let s := secured m
    cmdAt s.dev 0 0x43 = some m ∧ heldWrite s.dev 0 64 256 = false ∧ fieldsOk m [allBits, allBits, 0xFFFF] = true ∧
    bufferOk s.dev m 64 256 = true ∧ entriesFrom [(2, [7]), (1, [5])] 1 2 = [5, 7] := by decide +kernel
theorem test_telRead : let m := cmd 0x50 [64, 64, 0]
    let s := secured m
    cmdAt s.dev 0 0x50 = some m ∧ heldWrite s.dev 0 64 64 = false ∧ fieldsOk m [allBits, 0xFFFF, 7] = true ∧ m.arg 3 ≤ 1 ∧ m.chan ≠ 4 ∧
    bufferOk s.dev m 64 64 = true := by decide +kernel
theorem test_mgtDatagram : let data := leBytes 8 0x0101 ++ List.replicate 120 0
    let s := given (cmd 1 [])
    let u := { s with dev := { s.dev with mgtGlobal := some 5 } }
    mgtAddress u.dev 5 = true ∧ (newCmd u.dev 4 0 (data.take 128) (data.drop 128) (7, 9)).opcode = 1 ∧ u.dev.malt = 1 ∧ data.length = 128 ∧
    State.reset.dev.malt ≠ 1 ∧ getF (takeDatagram State.reset.dev data 7 9 linkLocal 17440 true) F.mgtStatus_dropped = 1 ∧
    getF (takeDatagram u.dev data 7 9 5 17441 true) F.mgtStatus_dropped = 1 := ⟨by simp [mgtAddress], by decide +kernel⟩
theorem test_mgtDatagram_other : let data (op : Nat) : List Byte := leBytes 8 (256 * op + 1) ++ List.replicate 120 0
    let s := given (cmd 1 [])
    knownOpcodes.contains (newCmd s.dev 4 0 (data 0x10) [] (7, 9)).opcode = true ∧
    knownOpcodes.contains (newCmd s.dev 4 0 (data 0x7F) [] (7, 9)).opcode = false := by decide +kernel
theorem test_heartbeat : after (exec (.heartbeat 2) (given (cmd 1 []))) (fun t => getF t.dev F.mgtStatus_heartbeats == 1 && t.dev.maltCe == 2) = true ∧
    after (exec .watchdogExpiry (given (cmd 1 []))) (fun t => t.dev.malt == 4) = true := by decide
theorem test_auditSeal : let s := { given (cmd 1 []) with sec := { State.reset.sec with log := [(1, List.replicate 128 0)], next := 2, unsealed := 1 } }
    s.dev.malt = 1 ∧ 0 < s.sec.unsealed ∧ s.sec.log.length < auditRoom := by decide
theorem test_maltsterRestart : let d := { (given (cmd 1 [])).dev with malt := 4 }
    d.malt = 4 ∧ d.lastRestart = none ∧ d.forms = [] ∧ (restartMaltster d).malt = 1 ∧ getF (restartMaltster d) (F.mbxIrq_restart 2) = 1 ∧
    (restartMaltster { d with lastRestart := some 0 }).malt = 2 := by decide +kernel
theorem test_boot : let d := (withF [(F.hostPcfg_en 0, 0)]).dev
    d.malt = 0 ∧ d.standby = true ∧ d.inReset = false ∧ d.audits = [] ∧ (∀ p < 4, flag d (F.hostPcfg_en p) = false) := by decide
theorem test_recoveryDatagram : let d := { State.reset.dev with malt := 3 }
    let data := leBytes 8 0 ++ [1, 2]
    d.malt = 3 ∧ 8 ≤ data.length ∧ data.length ≤ 1032 ∧ recovered (State.reset.sec.recovery ++ [(leNat (data.take 8), data.drop 8)]) = none ∧
    recovered [(0, image)] = some image ∧ (imageOf image).map (fun x => x.rb) = some 4 := by decide +kernel

/-! ## The whole module -/

theorem test_fusesOnlyBlow : (∃ t, step State.reset = .next t) ∧ State.reset.sec.fuses.instHash.length = 4 := ⟨⟨_, rfl⟩, rfl⟩
theorem test_auditChainKept : auditSound State.reset.sec ∧ ∃ t, step State.reset = .next t := ⟨⟨Nat.le_refl 1, trivial⟩, ⟨_, rfl⟩⟩
theorem test_memoryStaysCanonical : Memory.wf State.reset.dev.mem = true ∧ Memory.wf [(5, (1 : Byte)), (3, 2)] = false := by decide
/-- The chain value of the first entry is SM3 over 32 zero bytes and its first 96 (R344). -/
theorem test_auditChain : let s := flushAudit { State.reset with dev := audit State.reset.dev ⟨0, 0, 0x20, 0, 0, 0, [], 0⟩ }
    s.sec.log.map (fun e => (e.1, e.2.length)) = [(1, 128)] ∧
    s.sec.log.all (fun e => e.2.drop 96 == sm3 (List.replicate 32 0 ++ e.2.take 96)) = true := by decide +kernel
theorem test_securityStoreWriters : let m := { cmd 0x41 [1, 2, 3, 4] with kind := 1, role := 1 }
    (rotateKey (secured m) 0).sec.fuses.instValid ≠ (secured m).sec.fuses.instValid := by decide +kernel

/-! ## Power, clocks, sensors and pins -/

theorem test_modReset : after (exec .modResetAssert five) (fun t => t.dev.powerGood == false && t.dev.mem == [] && t.dev.inReset) = true ∧
    State.reset.sec.diag = none := by decide
/-- MOD_RESET_N is asserted and the core rails are off; a trip of sensor 3 latched or not, its last reading given. -/
def held (trip : Nat) (t : Int) : State :=
  let s := withF [(F.telAlert_trip, trip), (F.telAlert_trip_sensor, 3), (F.fabFtcCfg_root, 1)]
  { s with dev := { s.dev with inReset := true, powerGood := false, readings := [(3, t)] } }
theorem test_modResetRelease : (held 1 1520).dev.inReset = true ∧ (held 1 1520).dev.standby = true ∧ tripCleared (held 1 1520).dev = true ∧
    tripCleared (held 1 1521).dev = false ∧ flag (held 1 1521).dev F.telAlert_trip = true ∧ flag (held 0 1521).dev F.telAlert_trip = false ∧
    after (exec .modResetRelease (held 1 1520)) (fun t => t.dev.powerGood && getF t.dev F.telAlert_trip == 0) = true ∧
    after (exec .modResetRelease (held 1 1521)) (fun t => !t.dev.powerGood) = true := by decide +kernel
theorem test_standby : State.reset.dev.standby = true ∧ after (exec .standbyLoss State.reset) (fun t => !t.dev.standby && !t.dev.powerGood) = true ∧
    (let s := { State.reset with dev := { State.reset.dev with standby := false, wearSaved := [(F.telWear2_rows, 3)] } }
     after (exec .standbyRestore s) (fun t => t.dev.standby && getF t.dev F.telWear2_rows == 3 && getF t.dev F.telWear1_restores == 1) = true) := by
  decide +kernel
theorem test_inputFault : after (exec (.inputFault .over) State.reset) (fun t => !t.dev.inputOk && t.dev.inputTrip && getF t.dev F.pwrFault_over == 1 &&
    getF t.dev F.pwrFault_count == 1) = true ∧
    (let s := withF [(F.fabFtcCfg_root, 1)]
     let out : State := { s with dev := { s.dev with inputOk := false, powerGood := false } }
     after (exec (.inputFault .inRange) out) (fun t => t.dev.inputOk && t.dev.powerGood) = true) := by decide +kernel
theorem test_thermalTrip : 16 * ((sensorLimits 3).2.2 : Int) < (1761 : BitVec 16).toInt ∧
    after (exec (.thermalTrip 3 1761) State.reset) (fun t => getF t.dev F.telAlert_trip_sensor == 3 && !t.dev.powerGood) = true ∧
    after (exec (.thermalTrip 3 1760) State.reset) (fun t => t.dev.powerGood) = true := by decide +kernel

/-- ACLK at f MHz in a mode with the cap 1,200 W, further fields. -/
def clocked (f mode : Nat) (l : Tab FKey Nat := []) : State :=
  withF (l ++ [(F.pwrStatus_aclk, f), (F.pwrMode_mode, mode), (F.pwrMode_cap, 48), (F.pwrStatus_hist, 1)])
theorem test_clockStep : after (exec .clockStep (clocked 1800 3)) (fun t => getF t.dev F.pwrStatus_aclk == 1775) = true ∧
    after (exec .clockStep (clocked 1000 3)) (fun t => getF t.dev F.pwrStatus_aclk == 1025) = true ∧
    after (exec .clockStep (clocked 1200 3)) (fun t => getF t.dev F.pwrStatus_aclk == 1200) = true := by decide +kernel
theorem test_clockStep_switching : let s (en : Nat) : State :=
      let t := clocked 1300 3 [(F.hostPcfg_en 0, en)]
      { t with dev := { t.dev with modes := [(1, 0)] } }
    flag (s 1).dev (F.hostPcfg_en 0) = true ∧ modeOf (s 1).dev 0 = getF (s 1).dev F.pwrMode_mode ∧
    after (exec .clockStep (s 1)) (fun t => getF t.dev F.pwrStatus_aclk == 1275) = true ∧
    after (exec .clockStep (s 0)) (fun t => getF t.dev F.pwrStatus_aclk == 1325) = true := by decide +kernel
theorem test_capLoopStep : let s := clocked 1700 2 [(F.pwrStatus_admit, 8), (F.pwrStatus_hclk, 2600)]
    moduleMode s.dev = 2 ∧ 25 * getF s.dev F.pwrMode_cap = 1200 ∧ 900 < min s.dev.capLimit 1700 ∧ 8 ≤ getF s.dev F.pwrStatus_admit ∧
    2600 ≤ getF s.dev F.pwrStatus_hclk ∧ moduleMode (clocked 1700 1).dev ≠ 2 ∧
    after (exec (.capLoopStep 1201 1200 100) s) (fun t => t.dev.capLimit == 1675 && getF t.dev F.pwrMeter_power == 1201) = true ∧
    after (exec (.capLoopStep 1200 1200 100) s) (fun t => t.dev.capLimit == 1800) = true := by decide +kernel
theorem test_rowAdmissionStep : let s := clocked 900 2 [(F.pwrStatus_admit, 8), (F.pwrStatus_hclk, 1300)]
    getF s.dev F.pwrStatus_aclk ≤ 900 ∧ getF s.dev F.pwrStatus_hclk ≤ 1300 ∧
    after (exec (.rowAdmissionStep 1201 1200 100) s) (fun t => getF t.dev F.pwrStatus_admit == 7) = true := by decide +kernel
theorem test_currentLimit : after (exec (.currentLimit 1201 1200 8001) (clocked 1700 1)) (fun t => t.dev.ilimLimit == 1200 &&
      getF t.dev F.pwrStatus_aclk == 1200 && getF t.dev F.telAlert_ilim == 1) = true ∧
    after (exec (.currentLimit 1201 1200 8000) (clocked 1700 1)) (fun t => getF t.dev F.telAlert_ilim == 0) = true := by decide +kernel
theorem test_thermalLoopStep : let s := clocked 1700 1 [(F.telTemp_valid 3, 1), (F.telTemp_temp 3, 1521)]
    reading s.dev 3 = some 1521 ∧ 16 * ((sensorLimits 3).2.1 : Int) < 1521 ∧ 900 < min s.dev.thermLimit 1700 ∧
    after (exec .thermalLoopStep s) (fun t => t.dev.thermLimit == 1675) = true := by decide +kernel
theorem test_sensorSample : State.reset.dev.standby = true ∧
    (let d := takeReading State.reset.dev 0 (some 1521)
     getF d (F.telTemp_temp 0) = 1521 ∧ getF d (F.telTemp_over 0) = 1 ∧ getF d (F.telTemp_alarm 0) = 1 ∧
     getF (takeReading d 0 none) (F.telTemp_valid 0) = 0) := by decide +kernel
theorem test_powerGate : gateable State.reset.dev (.kilnCore 0) = false ∧ gateable (withF [(F.klnCore_state 0, 1)]).dev (.kilnCore 0) = true ∧
    State.reset.dev.gated = [] ∧ State.reset.dev.waking = [] ∧ State.reset.dev.wakeQueue = [] ∧
    after (exec (.powerGateEntry (.kilnCore 0)) (withF [(F.klnCore_state 0, 1)])) (fun t => t.dev.gated == [.kilnCore 0] &&
      getF t.dev (F.klnCore_state 0) == 0) = true := by decide +kernel
theorem test_unitWake : let s := { withF [(F.klnCore_state 0, 3)] with dev := { (withF [(F.klnCore_state 0, 3)]).dev with
      waking := [.kilnCore 0, .kilnCore 1, .kilnCore 2, .kilnCore 3], wakeQueue := [.kilnCore 4] } }
    let v := withF [(F.vecUnit_state 0 0, 3)]
    GatedUnit.kilnCore 0 ∉ s.dev.wakeQueue ∧ powerGated (.kilnCore 5) = true ∧ GatedUnit.kilnCore 5 ∉ s.dev.waking ∧
    GatedUnit.vector 0 0 ∉ v.dev.waking ∧ s.dev.waking.length ≤ 4 ∧ GatedUnit.kilnCore 5 ∉ s.dev.wakeQueue ∧
    (reachUnit s.dev (.kilnCore 5)).wakeQueue = s.dev.wakeQueue ∧
    after (exec (.unitWake (.kilnCore 0)) s) (fun t => t.dev.waking.length == 4 && t.dev.wakeQueue == [] && getF t.dev (F.klnCore_state 0) == 2) = true ∧
    after (exec (.unitWake (.vector 0 0)) v) (fun t => getF t.dev (F.vecUnit_state 0 0) == 2) = true := by decide +kernel
theorem test_enterMode : let d := { (withF [(F.pwrStatus_admit, 5)]).dev with capLimit := 1000 }
    moduleMode (enterMode d 0 1) ≠ 2 ∧ (enterMode d 0 1).capLimit = 1800 := by decide +kernel
theorem test_backgroundForced : Background.calibration ∉ State.reset.dev.forced ∧ Background.calibration ≠ .linkAdaptation ∧
    after (exec (.backgroundForced .calibration true) State.reset) (fun t => t.dev.forced == [.calibration]) = true ∧
    after (exec (.backgroundForced .calibration false) { State.reset with dev := { State.reset.dev with forced := [.calibration] } })
      (fun t => t.dev.forced == []) = true ∧
    after (exec (.backgroundForced .wearSave true) State.reset) (fun t => t.dev.forced == []) = true := by decide +kernel
theorem test_wearSave : (getF (saveWear (withF [(F.telWear2_rows, 3)]).dev) F.telWear0_powered_h = 1) ∧
    Tab.get? (saveWear (withF [(F.telWear2_rows, 3)]).dev).wearSaved F.telWear2_rows = some 3 := by decide +kernel

/-! ## Telemetry, the sideband bus, the test port and the management link -/

/-- An event of a class and partition. -/
def event (k : Fin 8) : TraceEvent := ⟨k, 5, 6, 7, 8, 9, some 0⟩
/-- Partition 0 records class 1 in a ring of 256 entries at the start of its HBM page. -/
def tracing : State := withPage [(F.telTrace_en 0, 1), (F.telTrace_mask 0, 2)]
theorem test_traceEntry : let shut := withF [(F.telTrace_en 0, 1), (F.telTrace_mask 0, 2), (F.telTrace_base 0, 0x040000000000 / 32), (F.hostPcfg_clusters 0, 1), (F.bankOwner_owner 0 0, 2)]
    flag tracing.dev (F.telTrace_en 0) = true ∧ bitOf (getF tracing.dev (F.telTrace_mask 0)) 1 = true ∧
    Tab.get? tracing.dev.traced 0 = none ∧ rangeMapped tracing.dev 0 0 32 = true ∧ heldWrite tracing.dev 0 0 32 = false ∧
    shutBanks tracing.dev 0 32 = [] ∧ rangeMapped shut.dev 0 0x040000000000 32 = true ∧ shutBanks shut.dev 0x040000000000 32 ≠ [] ∧
    after (exec (.traceEntry (event 1)) tracing) (fun t => getF t.dev (F.telThead_head 0) == 1 && viewNat t.dev 0 8 8 / 2 ^ 40 == 1) = true := by
  decide +kernel
theorem test_traceEnable : let v : Word := BitVec.ofNat 64 (word [(5, 3), (48, 2), (56, 12), (63, 1)])
    flag State.reset.dev (F.telTrace_en 0) = false ∧ bits v.toNat 59 56 ≤ 12 ∧
    after (exec (.traceEnable 0 v) State.reset) (fun t => getF t.dev (F.telTrace_en 0) == 1 && getF t.dev (F.telTrace_base 0) == 3 &&
      getF t.dev (F.telTrace_size_log2 0) == 12) = true := by decide +kernel
theorem test_fruRead : after (exec (.fruRead 0x10 3) State.reset) (fun t => t.dev.i2c == [0x54, 0x47, 0x4B]) = true := by decide +kernel
theorem test_jtag : after (exec .idcode State.reset) (fun t => leNat (t.dev.jtag.tdo.map (fun b => if b then (1 : Byte) else 0)) % 2 == 1 &&
      t.dev.jtag.tdo.length == 32) = true ∧
    after (exec .bypass State.reset) (fun t => t.dev.jtag.tdo == [false]) = true ∧
    after (exec (.samplePreload (List.replicate 9 true) [false]) State.reset) (fun t => t.dev.jtag.tdo.drop 8 == [true, false, true, true, true, true] &&
      t.dev.jtag.cells == [false]) = true ∧
    after (exec (.samplePreload [] []) (withF [(F.telAlert_wear, 1)])) (fun t => t.dev.jtag.tdo.drop 3 == [false, true]) = true := by
  decide +kernel
theorem test_jtag_reset : (held 0 0).dev.inReset = true ∧ after (exec .clamp (held 0 0)) (fun t => t.dev.jtag.pins == 1) = true ∧
    after (exec .highz (held 0 0)) (fun t => t.dev.jtag.pins == 2) = true ∧
    after (exec (.extest [true]) (held 0 0)) (fun t => t.dev.jtag.cells == [true] && t.dev.jtag.pins == 1) = true ∧
    after (exec (.extest [true]) State.reset) (fun t => t.dev.jtag.ir == .extest && t.dev.jtag.pins == 0 && t.dev.jtag.tdo == [false]) = true := by decide +kernel
theorem test_mgtLinkChange : after (exec (.mgtLinkChange true false (some 5)) State.reset) (fun t => getF t.dev F.mgtStatus_link == 1 &&
    getF t.dev F.mgtStatus_fec_lock == 0 && getF t.dev F.mgtStatus_global == 1) = true := by decide

/-! ## The service ports -/

theorem test_svcRing : let v : Word := BitVec.ofNat 64 (word [(48, 2), (63, 1)])
    let based (recv : Bool) : Dev := setF (setF (withPage []).dev (svcBase recv 0 0) 0) (svcSize recv 0 0) 2
    flag (withPage []).dev (svcEn true 0 0) = false ∧ bitOf v.toNat 63 = true ∧ bits v.toNat 51 48 = 2 ∧
    svcRingOk (based true) 0 0 true = true ∧ svcRingOk (based false) 0 0 false = true ∧
    after (exec (.svcRingEnable 0 0 false v) (withPage [])) (fun t => getF t.dev (F.svcWring_en 0 0) == 1) = true ∧
    flag (withPage [(F.svcWring_en 0 0, 1)]).dev (svcEn false 0 0) = true ∧
    after (exec (.svcRingEnable 0 0 false v) (withPage [(F.svcWring_en 0 0, 1)])) (fun t => getF t.dev (F.svcStat_wr_err 0 0) == 1) = true ∧
    after (exec (.svcRingDisable 0 0 false 0) (withPage [(F.svcWring_en 0 0, 1)])) (fun t => getF t.dev (F.svcWring_en 0 0) == 0) = true := by
  decide +kernel
/-- A work entry of an op at the head of partition 0's ring: 4 bytes at 0x2000; QP 0, at 0x1000, is ready. -/
def entry (op : Nat) : SvcEntry := ⟨0, [1 + 16 * op, 0x2000, 4, 0, 0, 0, 0, 0], none⟩
/-- The module with that entry. -/
def queued (op : Nat) : State :=
  let s := withPage [(F.svcWring_en 0 0, 1), (F.svcWring_size_log2 0 0, 2), (F.svcQpt_base 0 0, 0x1000 / 64), (F.svcQpt_count 0 0, 1)]
  { s with dev := { s.dev with mem := memPutList (memPutList (memPutList [] 0 ((entry op).words.flatMap (leBytes 8))) 0x101C [1, 1]) 0x2000 [9, 8, 7, 6] } }
theorem test_workEntry_ready : [0, 1, 2, 3, 4, 5].all (fun op => let d := (queued op).dev
    flag d (F.svcWring_en 0 0) && ((List.range 8).map (fun i => viewNat d 0 (8 * i) 8) == (entry op).words) && (entry op).op == op &&
    !heldRange d 0 0 64 && !heldRange d 0 0x2000 4 && (svcOf d 0 0).isEmpty && (svcCheck d 0 0 (entry op)).isNone &&
    qpReady d 0 0 (entry op).qp) = true := by decide +kernel
theorem test_send : (svcRun 0 0 0 (queued 0).dev).svcOut.map (fun m => (m.kind, m.data)) = [(0, [9, 8, 7, 6])] ∧
    (svcRun 1 0 0 (queued 1).dev).svcOut.map (fun m => m.kind) = [1] ∧ (svcRun 2 0 0 (queued 2).dev).svcOut.map (fun m => m.kind) = [2] ∧
    (svcRun 3 0 0 (queued 3).dev).svcOut.map (fun m => m.kind) = [3] := by decide +kernel
theorem test_read_udp : (svcRun 4 0 0 (queued 4).dev).svcOut.map (fun m => (m.kind, m.data)) = [(4, [])] ∧
    (svcRun 5 0 0 (queued 5).dev).svcOut.map (fun m => (m.kind, m.data)) = [(5, [9, 8, 7, 6])] := by decide +kernel
/-- Entries that send nothing: one whose checks fail, and one whose QP is not ready. -/
theorem test_workEntry_failed : let bad := { queued 0 with dev := { (queued 0).dev with mem := memPutList (queued 0).dev.mem 16 [0] } }
    let idle := { queued 0 with dev := { (queued 0).dev with mem := memPutList (queued 0).dev.mem 0x101C [0] } }
    svcCheck bad.dev 0 0 ⟨0, [1, 0x2000, 0, 0, 0, 0, 0, 0], none⟩ = some 0x10 ∧ qpReady idle.dev 0 0 0 = false ∧
    after (exec (.send 0 0) bad) (fun t => (svcOf t.dev 0 0).map SvcEntry.status == [some 0x10] && t.dev.svcOut == []) = true ∧
    after (exec (.send 0 0) idle) (fun t => (svcOf t.dev 0 0).length == 1 && t.dev.svcOut == []) = true := by decide +kernel
/-- The entry is in flight. -/
def flying (e : SvcEntry) : State := { queued e.op with dev := { (queued e.op).dev with svc := [((0, 0), [e])] } }
theorem test_workEntryComplete : (svcOf (flying (entry 0)).dev 0 0)[0]? = some (entry 0) ∧ heldRange (flying (entry 0)).dev 0 0 64 = false ∧
    (svcOf (flying { entry 0 with status := some 0x10 }).dev 0 0)[0]? = some { entry 0 with status := some 0x10 } ∧
    heldRange (flying (entry 4)).dev 0 0x2000 4 = false ∧
    after (exec (.workEntryComplete 0 0 0 (.ok [])) (flying (entry 0))) (fun t => viewNat t.dev 0 0 8 == 0x100 && t.dev.svc == [((0, 0), [])]) = true ∧
    after (exec (.workEntryComplete 0 0 0 (.ok [1, 2, 3, 4])) (flying (entry 4))) (fun t => viewNat t.dev 0 0x2000 4 == 0x04030201) = true := by
  decide +kernel
/-- A key error stops the QP: its entry in the table is no longer ready. -/
theorem test_workEntryComplete_key :
    after (exec (.workEntryComplete 0 0 0 .key) (flying (entry 0))) (fun t => viewNat t.dev 0 0 8 / 256 == 3 && !qpReady t.dev 0 0 0 &&
      getF t.dev (F.svcStat_naks 0 0) == 1) = true ∧
    after (exec (.workEntryComplete 0 0 0 (.remote false)) (flying (entry 0))) (fun t => getF t.dev (F.svcStat_naks 0 0) == 0) = true := by decide +kernel
/-- Partition 0's receive ring has an entry for 16 bytes at 0x2000; QP 0 is ready; key 0 admits reads and writes of the page. -/
def listening : State :=
  let s := withPage [(F.svcRring_en 0 0, 1), (F.svcRring_size_log2 0 0, 2), (F.svcQpt_base 0 0, 0x1000 / 64), (F.svcQpt_count 0 0, 1),
    (F.svcKeyt_base 0 0, 0x1800 / 64), (F.svcKeyt_count 0 0, 1)]
  let m := memPutList (memPutList [] 0 ([1, 0x2000, 16].flatMap (leBytes 8))) 0x101C [1, 1]
  { s with dev := { s.dev with mem := memPutList m 0x1800 ([0, 0x200000, 3].flatMap (leBytes 8)) } }
theorem test_servicePacketReceive : qpReady listening.dev 0 0 0 = true ∧ qpReady listening.dev 0 0 1 = false ∧
    recvEntry listening.dev 0 0 = some (0x2000, 16) ∧ recvEntry (withPage []).dev 0 0 = none ∧ rangeMapped listening.dev 0 0x2000 2 = true ∧
    heldRange listening.dev 0 0x2000 2 = false ∧ heldRange listening.dev 0 (svcSlot listening.dev true 0 0) 32 = false ∧
    after (exec (.servicePacketReceive 0 (.send 0 0 none [5, 6])) listening) (fun t => viewNat t.dev 0 0x2000 2 == 0x0605 &&
      viewNat t.dev 0 0 8 == 0x100 && t.dev.svcOut.map SvcPacket.kind == [6]) = true := by decide +kernel
theorem test_servicePacketReceive_key : keyAdmits listening.dev 0 0 0 0x3000 2 1 = true ∧ keyAdmits listening.dev 0 0 0x100 0x3000 2 1 = false ∧
    keyAdmits listening.dev 0 0 0 0x3000 2 0 = true ∧ heldWrite listening.dev 0 0x3000 2 = false ∧ shutBanks listening.dev 0x2000 2 = [] ∧
    after (exec (.servicePacketReceive 0 (.rdmaWrite 0 0 0 0x3000 none [7])) listening) (fun t => viewNat t.dev 0 0x3000 1 == 7) = true ∧
    after (exec (.servicePacketReceive 0 (.rdmaWrite 0 0 0x100 0x3000 none [7])) listening) (fun t => viewNat t.dev 0 0x3000 1 == 0 &&
      t.dev.svcOut.map SvcPacket.kind == [8]) = true ∧
    after (exec (.servicePacketReceive 0 (.rdmaRead 0 0 0 0x101C 1)) listening) (fun t => t.dev.svcOut.map SvcPacket.data == [[1]]) = true ∧
    after (exec (.servicePacketReceive 0 (.udp 0 7 [5, 6])) listening) (fun t => viewNat t.dev 0 0x2000 2 == 0x0605 && t.dev.svcOut == []) = true ∧
    after (exec (.servicePacketReceive 0 (.marked 0 0)) listening) (fun t => t.dev.svcOut.map SvcPacket.kind == [10]) = true := by
  decide +kernel

end Sys2Proof.Tests
end

section
/-! What each operation of the model leaves of the byte memory: most leave it unchanged (`f_mem`), whatever it is applied to; an
operation that takes another operation keeps what that one keeps (`f_keeps`). -/

namespace Sys2Proof.Machine

/-! Ops -/

@[simp] theorem nextFree_mem (d : Dev) : (nextFree d).2.mem = d.mem := by simp [nextFree]
@[simp] theorem freeBytes_mem (d : Dev) (n : Nat) : (freeBytes d n).2.mem = d.mem := by simp [freeBytes]
@[simp] theorem forEach_mem {α : Type} {g : Dev → α → Dev} (hg : ∀ d a, (g d a).mem = d.mem) (l : List α) (d : Dev) :
    (forEach l d g).mem = d.mem := forEach_same Dev.mem hg l d

/-- Fields set one after another change no byte. -/
@[simp] theorem forEach_setF_mem {α : Type} (k : α → FKey) (v : Dev → α → Nat) (l : List α) (d : Dev) :
    (forEach l d (fun d a => setF d (k a) (v d a))).mem = d.mem :=
  forEach_mem (fun d _ => setF_mem d _ _) l d
@[simp] theorem freely_run (k : Unit → End) : (freely k).run () = k () := rfl
@[simp] theorem End.dev_done (d : Dev) : (End.done d).dev = d := rfl
@[simp] theorem End.dev_jump (d : Dev) (pc : Nat) (taken : Bool) : (End.jump d pc taken).dev = d := rfl
@[simp] theorem End.dev_queued (d : Dev) : (End.queued d).dev = d := rfl
@[simp] theorem End.dev_hold (d : Dev) (on : WaitFor) : (End.hold d on).dev = d := rfl
@[simp] theorem End.dev_halted (d : Dev) : (End.halted d).dev = d := rfl
@[simp] theorem endWake_mem (d : Dev) (x : GatedUnit) : (endWake d x).mem = d.mem := by
  unfold endWake
  simp only
  repeat' split
  all_goals simp

/-! Alert -/

@[simp] theorem steadyBroken_mem (d : Dev) : (steadyBroken d).mem = d.mem := by simp [steadyBroken, apply_ite Dev.mem]
@[simp] theorem dropBit_mem (d : Dev) (k : FKey) (i : Nat) : (dropBit d k i).mem = d.mem := by simp [dropBit, apply_ite Dev.mem]

/-! Operands -/

@[simp] theorem loadDesc_mem (d : Dev) (c s w0 w1 w2 w3 : Nat) : (loadDesc d c s w0 w1 w2 w3).mem = d.mem := rfl
@[simp] theorem engineDeny_mem (d : Dev) (p a n : Nat) : (engineDeny d p a n).mem = d.mem := by
  unfold engineDeny
  split <;> simp
@[simp] theorem denyFirst_mem (d : Dev) (p : Nat) (l : List (Nat × Nat)) : (denyFirst d p l).mem = d.mem := by
  unfold denyFirst
  split <;> simp
@[simp] theorem keepScale_mem (d : Dev) (c s : Nat) (before after : Desc) : (keepScale d c s before after).mem = d.mem := by
  simp [keepScale, apply_ite Dev.mem]
@[simp] theorem setAcc_mem (d : Dev) (c t i : Nat) (x : AccEntry) : (setAcc d c t i x).mem = d.mem := by simp [setAcc]
theorem Plan.issue_ran {d : Dev} {x : Plan} {e : End} (h : x.issue d = .ran e) : e = x.run () := by
  unfold Plan.issue at h
  split at h
  · cases h
  · split at h
    · cases h
    · cases h; rfl

/-! Tile -/

@[simp] theorem setWait_mem (d : Dev) (c cause : Nat) : (setWait d c cause).mem = d.mem := by simp [setWait]
@[simp] theorem setRunning_mem (d : Dev) (c : Nat) : (setRunning d c).mem = d.mem := by simp [setRunning]
@[simp] theorem enterRest_mem (d : Dev) (c st : Nat) : (enterRest d c st).mem = d.mem := by simp [enterRest, apply_ite Dev.mem]
@[simp] theorem setLoops_mem (d : Dev) (c : Nat) (ls : List LoopRec) : (setLoops d c ls).mem = d.mem := by simp [setLoops]
@[simp] theorem setPend_mem (d : Dev) (c cause pc : Nat) (deferred : Bool) : (setPend d c cause pc deferred).mem = d.mem := by
  simp [setPend]
@[simp] theorem advanceTo_mem (d : Dev) (c npc : Nat) : (advanceTo d c npc).mem = d.mem := by
  simp [advanceTo, apply_ite Dev.mem]
@[simp] theorem advance_mem (d : Dev) (c : Nat) : (advance d c).mem = d.mem := by simp [advance]
@[simp] theorem leaveBarrier_mem (d : Dev) (p b c : Nat) : (leaveBarrier d p b c).mem = d.mem := by
  unfold leaveBarrier
  simp only
  repeat' split
  all_goals simp
@[simp] theorem withdraw_mem (d : Dev) (c : Nat) : (withdraw d c).mem = d.mem := by
  unfold withdraw
  repeat' split
  all_goals simp
@[simp] theorem endWait_mem (d : Dev) (c : Nat) : (endWait d c).mem = d.mem := by
  unfold endWait
  split <;> simp
@[simp] theorem enterFaulted_mem (d : Dev) (c : Nat) (f : PendFault) : (enterFaulted d c f).mem = d.mem := by
  simp [enterFaulted]
@[simp] theorem settleFault_mem (d : Dev) (c : Nat) : (settleFault d c).mem = d.mem := by
  unfold settleFault
  simp only
  repeat' split
  all_goals simp
@[simp] theorem settle_mem (d : Dev) (c : Nat) : (settle d c).mem = d.mem := by simp [settle, apply_ite Dev.mem]
@[simp] theorem notePlaced_mem (d : Dev) (c w : Nat) : (notePlaced d c w).mem = d.mem := by
  unfold notePlaced
  repeat' split
  all_goals simp
/-- What the sequencer does as an instruction leaves it changes no byte. -/
@[simp] theorem finishRun_mem (c w : Nat) (x : End) : (finishRun c w x).mem = x.dev.mem := by
  cases x with
  | jump e pc taken => cases taken <;> simp [finishRun]
  | _ => simp [finishRun]
/-- What a fault, a block or a run of an instruction keeps of the memory. -/
theorem finishIssue_keeps {P : List Host.Cell → Prop} {d : Dev} {c w : Nat} {r : Issue} (h : P d.mem)
    (hr : ∀ x, r = .ran x → P x.dev.mem) : P (finishIssue d c w r).mem := by
  cases r with
  | fault k bs =>
    have hb : (forEach bs d (fun d b => noteNonOwner d b.1)).mem = d.mem := forEach_mem (fun _ _ => noteNonOwner_mem ..) _ _
    simpa [finishIssue, hb] using h
  | block k => simpa [finishIssue] using h
  | ran x => simpa [finishIssue] using hr x rfl
@[simp] theorem takeWen_mem (d : Dev) (c w : Nat) : (takeWen d c w).mem = d.mem := by simp [takeWen, apply_ite Dev.mem]
theorem issueWord_keeps {P : List Host.Cell → Prop} {go : Nat → Nat → Nat → Dev → Plan} {d : Dev} {c w : Nat} (h : P d.mem)
    (hg : ∀ p e, P e.mem → P ((go p c w e).run ()).dev.mem) : P (issueWord go d c w).mem := by
  have hx (x : Issue) := finishIssue_keeps (P := P) (c := c) (w := w) (r := x) h
  unfold issueWord; split
  · exact h
  · split
    · simpa using h
    · simp only; split
      · exact hx _ (fun _ hr => nomatch hr)
      · exact hx _ (fun x hr => Plan.issue_ran hr ▸ hg _ _ (by simpa using h))
/-- A tile instruction keeps what its run keeps of the memory. -/
theorem tileStep_keeps {P : List Host.Cell → Prop} {op : Nat} {sel : Nat → Bool} {go : Nat → Nat → Nat → Dev → Plan} {c : Nat}
    {d : Dev} (h : P d.mem) (hg : ∀ p w e, P e.mem → P ((go p c w e).run ()).dev.mem) : P (tileStep op sel go c d).mem := by
  unfold tileStep; split
  · simp only; split
    · split
      · simpa using h
      · exact h
    · split
      · exact issueWord_keeps h (fun p e => hg p _ e)
      · exact h
  · exact h
@[simp] theorem addJob_mem (d : Dev) (c : Nat) (j : Job) : (addJob d c j).mem = d.mem := by simp [addJob]
@[simp] theorem dropJob_mem (d : Dev) (c i : Nat) : (dropJob d c i).mem = d.mem := by simp [dropJob]
@[simp] theorem finishJob_mem (d : Dev) (c i : Nat) (j : Job) : (finishJob d c i j).mem = d.mem := by
  unfold finishJob
  simp only
  split <;> simp

/-! Banks -/

@[simp] theorem beginHandover_mem (d : Dev) (c b owner : Nat) : (beginHandover d c b owner).mem = d.mem := by
  simp [beginHandover]
@[simp] theorem bankOwnerWrite_mem (d : Dev) (c b v : Nat) : (bankOwnerWrite d c b v).mem = d.mem := by
  simp [bankOwnerWrite, apply_ite Dev.mem]
@[simp] theorem bankHold_mem (d : Dev) (c n : Nat) : (bankHold d c n).mem = d.mem := by simp [bankHold]
@[simp] theorem noteError_mem (d : Dev) (c b r n : Nat) (col : Option Nat) : (noteError d c b r n col).mem = d.mem := by
  simp [noteError]
@[simp] theorem repairBank_mem (d : Dev) (c b : Nat) (what : BankRepairKind) : (repairBank d c b what).mem = d.mem := by
  unfold repairBank
  repeat' split
  all_goals simp
@[simp] theorem beginMarch_mem (d : Dev) (c mask : Nat) (preserving : Bool) : (beginMarch d c mask preserving).mem = d.mem := by
  simp [beginMarch, apply_ite Dev.mem]
@[simp] theorem marchWrite_mem (d : Dev) (who : Agent) (c v : Nat) : (marchWrite d who c v).mem = d.mem := by
  simp [marchWrite, apply_ite Dev.mem]
@[simp] theorem recordFail_mem (d : Dev) (c : Nat) (f : MarchFail) : (recordFail d c f).mem = d.mem := by simp [recordFail]
@[simp] theorem boostRequest_mem (d : Dev) (c rank : Nat) (displaced : Bool) : (boostRequest d c rank displaced).mem = d.mem := by
  simp [boostRequest, apply_ite Dev.mem]

/-! Control -/

@[simp] theorem goNop_mem (n n' n'' : Nat) (d : Dev) : ((goNop n n' n'' d).run ()).dev.mem = d.mem := by simp [goNop]
@[simp] theorem goHalt_mem (n c n' : Nat) (d : Dev) : ((goHalt n c n' d).run ()).dev.mem = d.mem := by simp [goHalt]
@[simp] theorem goBr_mem (n c w : Nat) (d : Dev) : ((goBr n c w d).run ()).dev.mem = d.mem := by
  unfold goBr
  simp only
  split <;> simp
@[simp] theorem goLoop_mem (n c w : Nat) (d : Dev) : ((goLoop n c w d).run ()).dev.mem = d.mem := by
  unfold goLoop
  simp only
  split <;> simp
@[simp] theorem goGset_mem (n c w : Nat) (d : Dev) : ((goGset n c w d).run ()).dev.mem = d.mem := by simp [goGset]
@[simp] theorem goGadd_mem (n c w : Nat) (d : Dev) : ((goGadd n c w d).run ()).dev.mem = d.mem := by simp [goGadd]
@[simp] theorem goGld_mem (n c w : Nat) (d : Dev) : ((goGld n c w d).run ()).dev.mem = d.mem := by simp [goGld]
@[simp] theorem setAnchor_mem (d : Dev) (c s : Nat) (ea eb : Int) (logk : Nat) (eaSet ebSet reduced : Bool) :
    (setAnchor d c s ea eb logk eaSet ebSet reduced).mem = d.mem := by simp [setAnchor]
@[simp] theorem goAnset_mem (n c w : Nat) (d : Dev) : ((goAnset n c w d).run ()).dev.mem = d.mem := by simp [goAnset]
@[simp] theorem goEvwait_mem (n c w : Nat) (d : Dev) : ((goEvwait n c w d).run ()).dev.mem = d.mem := by
  unfold goEvwait
  simp only
  repeat' split
  all_goals simp
@[simp] theorem goEvadd_mem (n c w : Nat) (d : Dev) : ((goEvadd n c w d).run ()).dev.mem = d.mem := by
  simp [goEvadd, apply_ite Dev.mem]
@[simp] theorem goEvpost_mem (p n w : Nat) (d : Dev) : ((goEvpost p n w d).run ()).dev.mem = d.mem := by simp [goEvpost]
@[simp] theorem arriveLocal_mem (d : Dev) (p c b mask : Nat) : ((arriveLocal d p c b mask).run ()).dev.mem = d.mem := by
  simp [arriveLocal]
@[simp] theorem goBarSet_mem (p c w : Nat) (d : Dev) : ((goBarSet p c w d).run ()).dev.mem = d.mem := by simp [goBarSet]
@[simp] theorem goBarPart_mem (p c w : Nat) (d : Dev) : ((goBarPart p c w d).run ()).dev.mem = d.mem := by simp [goBarPart]
@[simp] theorem goFtcwait_mem (n c w : Nat) (d : Dev) : ((goFtcwait n c w d).run ()).dev.mem = d.mem := by
  unfold goFtcwait
  simp only
  split <;> simp
@[simp] theorem newRouse_mem (d : Dev) (c : Nat) : (newRouse d c).mem = d.mem := by simp [newRouse, apply_ite Dev.mem]
@[simp] theorem cutShort_mem (d : Dev) (c whole : Nat) : (cutShort d c whole).mem = d.mem := by simp [cutShort]
@[simp] theorem arrayStart_mem (d : Dev) (c phase load : Nat) : (arrayStart d c phase load).mem = d.mem := by
  simp [arrayStart, apply_ite Dev.mem]
@[simp] theorem arrayBusy_mem (d : Dev) (c phase load : Nat) : (arrayBusy d c phase load).mem = d.mem := by
  simp [arrayBusy, apply_ite Dev.mem]
@[simp] theorem arrayIdle_mem (d : Dev) (c : Nat) : (arrayIdle d c).mem = d.mem := by simp [arrayIdle, apply_ite Dev.mem]
@[simp] theorem goRouse_mem (n c w : Nat) (d : Dev) : ((goRouse n c w d).run ()).dev.mem = d.mem := by simp [goRouse]
@[simp] theorem goDwqflush_mem (n c n' : Nat) (d : Dev) : ((goDwqflush n c n' d).run ()).dev.mem = d.mem := by
  unfold goDwqflush
  split <;> simp
@[simp] theorem goFence_mem (n c w : Nat) (d : Dev) : ((goFence n c w d).run ()).dev.mem = d.mem := by
  unfold goFence
  split <;> simp
@[simp] theorem goTdld_mem (n c w : Nat) (d : Dev) : ((goTdld n c w d).run ()).dev.mem = d.mem := by simp [goTdld]
@[simp] theorem goTdbase_mem (n c w : Nat) (d : Dev) : ((goTdbase n c w d).run ()).dev.mem = d.mem := by simp [goTdbase]
@[simp] theorem goTdadd_mem (n c w : Nat) (d : Dev) : ((goTdadd n c w d).run ()).dev.mem = d.mem := by simp [goTdadd]
@[simp] theorem goTdshape_mem (n c w : Nat) (d : Dev) : ((goTdshape n c w d).run ()).dev.mem = d.mem := by simp [goTdshape]
@[simp] theorem passEvwait_mem (d : Dev) (c : Nat) : (passEvwait d c).mem = d.mem := by
  unfold passEvwait
  repeat' split
  all_goals simp
@[simp] theorem applyPosts_mem (d : Dev) (c : Nat) : (applyPosts d c).mem = d.mem := by simp [applyPosts, apply_ite Dev.mem]
@[simp] theorem completeLocal_mem (d : Dev) (p b : Nat) : (completeLocal d p b).mem = d.mem := by
  unfold completeLocal
  repeat' split
  all_goals simp
@[simp] theorem reachFtc_mem (d : Dev) (c : Nat) : (reachFtc d c).mem = d.mem := by
  unfold reachFtc
  split <;> simp

/-! Window -/

@[simp] theorem accumGroup_mem (d : Dev) (ref : Bool) (c first rows cols : Nat) (terms : Nat → Nat → List (Val × Val)) :
    (accumGroup d ref c first rows cols terms).mem = d.mem := by simp [accumGroup]
@[simp] theorem openTile_mem (d : Dev) (c t : Nat) (w : Win) : (openTile d c t w).mem = d.mem := by simp [openTile]
@[simp] theorem openTiles_mem (d : Dev) (c : Nat) (ts : List Nat) (w : Win) : (openTiles d c ts w).mem = d.mem := by
  simp [openTiles]
@[simp] theorem closeWindows_mem (d : Dev) (c : Nat) : (closeWindows d c).mem = d.mem := by simp [closeWindows]

/-! Matrix -/

@[simp] theorem countArray_mem (d : Dev) (c rows stalls : Nat) : (countArray d c rows stalls).mem = d.mem := by
  simp [countArray]
@[simp] theorem endRouse_mem (d : Dev) (c : Nat) : (endRouse d c).mem = d.mem := by
  unfold endRouse
  repeat' split
  all_goals simp
@[simp] theorem intoArray_mem (d : Dev) (c w fmt rows stalls : Nat) (tiles slots : List Nat) (banks : List (Nat × Nat)) (nonfin : Bool) :
    (intoArray d c w fmt rows stalls tiles slots banks nonfin).mem = d.mem := by simp [intoArray]
@[simp] theorem goGram_mem (p c w : Nat) (d : Dev) : ((goGram p c w d).run ()).dev.mem = d.mem := by simp [goGram]
@[simp] theorem mmwgEffect_mem (d : Dev) (ref : Bool) (p c w : Nat) (a g : Desc) (s : Option Desc) :
    (mmwgEffect d ref p c w a g s).mem = d.mem := by
  unfold mmwgEffect
  repeat' split
  all_goals simp
@[simp] theorem arrayWhole_mem (d : Dev) (c load : Nat) : (arrayWhole d c load).mem = d.mem := by
  simp [arrayWhole, apply_ite Dev.mem]
@[simp] theorem runEntry_mem (d : Dev) (p c : Nat) (e : Deferred) : (runEntry d p c e).mem = d.mem := by
  unfold runEntry
  extract_lets d skOut foreign
  split
  · rfl
  · split
    · exact forEach_mem (fun _ _ => noteNonOwner_mem ..) _ _
    · rw [signal_mem, addF_mem, arrayIdle_mem, modCluster_mem, countArray_mem, arrayWhole_mem, mmwgEffect_mem]; rfl
@[simp] theorem goMmwg_mem (p c w : Nat) (d : Dev) : ((goMmwg p c w d).run ()).dev.mem = d.mem := by
  unfold goMmwg
  simp only
  split <;> simp
@[simp] theorem intoAcc_mem (d : Dev) (c w per : Nat) (tiles slots : List Nat) (banks : List (Nat × Nat)) (nonfin : Bool) :
    (intoAcc d c w per tiles slots banks nonfin).mem = d.mem := by simp [intoAcc]
@[simp] theorem goAzero_mem (p c w : Nat) (d : Dev) : ((goAzero p c w d).run ()).dev.mem = d.mem := by simp [goAzero]
@[simp] theorem goAfill_mem (p c w : Nat) (d : Dev) : ((goAfill p c w d).run ()).dev.mem = d.mem := by simp [goAfill]
@[simp] theorem noteOutOfWindow_mem (d : Dev) (c t : Nat) : (noteOutOfWindow d c t).mem = d.mem := by
  unfold noteOutOfWindow
  simp only
  repeat' split
  all_goals simp
@[simp] theorem unitsBusy_mem (d : Dev) (c m : Nat) : (unitsBusy d c m).mem = d.mem := by simp [unitsBusy, apply_ite Dev.mem]
@[simp] theorem countUnit_mem (d : Dev) (c u cycles : Nat) : (countUnit d c u cycles).mem = d.mem := by simp [countUnit]
@[simp] theorem goAmaxFold_mem (p c w : Nat) (d : Dev) : ((goAmaxFold p c w d).run ()).dev.mem = d.mem := by simp [goAmaxFold]
@[simp] theorem goMov_mem (p c w : Nat) (d : Dev) : ((goMov p c w d).run ()).dev.mem = d.mem := by simp [goMov]
@[simp] theorem goAadd_mem (p c w : Nat) (d : Dev) : ((goAadd p c w d).run ()).dev.mem = d.mem := by simp [goAadd]
@[simp] theorem putJob_mem (d : Dev) (c i : Nat) (j : Job) : (putJob d c i j).mem = d.mem := by simp [putJob]
@[simp] theorem arrayNext_mem (d : Dev) (c : Nat) : (arrayNext d c).mem = d.mem := by simp [arrayNext, apply_ite Dev.mem]
@[simp] theorem completeArray_mem (d : Dev) (c : Nat) : (completeArray d c).mem = d.mem := by
  unfold completeArray
  repeat' split
  all_goals simp
@[simp] theorem runDeferred_mem (d : Dev) (c : Nat) : (runDeferred d c).mem = d.mem := by
  unfold runDeferred
  repeat' split
  all_goals simp

/-! Sequencer -/

@[simp] theorem startCluster_mem (d : Dev) (c : Nat) (alsoStop : Bool) : (startCluster d c alsoStop).mem = d.mem := by
  simp [startCluster, apply_ite Dev.mem]
@[simp] theorem withdrawCancelled_mem (d : Dev) (c : Nat) : (withdrawCancelled d c).mem = d.mem := by
  unfold withdrawCancelled
  simp only
  repeat' split
  all_goals simp
@[simp] theorem stopCluster_mem (d : Dev) (c : Nat) : (stopCluster d c).mem = d.mem := by
  unfold stopCluster
  simp only
  repeat' split
  all_goals simp
@[simp] theorem completeStop_mem (d : Dev) (c : Nat) : (completeStop d c).mem = d.mem := by
  simp [completeStop, apply_ite Dev.mem]
@[simp] theorem setRouse_mem (d : Dev) : (setRouse d).mem = d.mem := by simp [setRouse, apply_ite Dev.mem]
@[simp] theorem retireCluster_mem (d : Dev) (c : Nat) : (retireCluster d c).mem = d.mem := by
  unfold retireCluster
  simp only
  split <;> simp
@[simp] theorem excludeDpu_mem (d : Dev) (c dpu : Nat) : (excludeDpu d c dpu).mem = d.mem := by simp [excludeDpu]
@[simp] theorem retryRows_mem (d : Dev) (c : Nat) : (retryRows d c).mem = d.mem := by simp [retryRows, apply_ite Dev.mem]
@[simp] theorem retryRow_mem (d : Dev) (c dpu : Nat) : (retryRow d c dpu).mem = d.mem := by simp [retryRow, apply_ite Dev.mem]
@[simp] theorem expireHold_mem (d : Dev) (c : Nat) : (expireHold d c).mem = d.mem := by simp [expireHold, apply_ite Dev.mem]
@[simp] theorem rampOnce_mem (d : Dev) (c : Nat) : (rampOnce d c).mem = d.mem := by simp [rampOnce, apply_ite Dev.mem]
@[simp] theorem guardedWrite_mem (d : Dev) (c : Nat) {g : Dev → Dev} (hg : ∀ d, (g d).mem = d.mem) :
    (guardedWrite d c g).mem = d.mem := by
  unfold guardedWrite; split
  · exact hg d
  · rfl

/-! Fabric -/

@[simp] theorem setPort_mem (d : Dev) (n : Nat) (x : Port) : (setPort d n x).mem = d.mem := by simp [setPort]
@[simp] theorem modPort_mem (d : Dev) (n : Nat) (g : Port → Port) : (modPort d n g).mem = d.mem := by simp [modPort]
@[simp] theorem queueFlits_mem (d : Dev) (n source : Nat) (fs : List Flit) : (queueFlits d n source fs).mem = d.mem := by
  simp [queueFlits, apply_ite Dev.mem]
@[simp] theorem sendMsg_mem (d : Dev) (m : Msg) (vc : Nat) : (sendMsg d m vc).mem = d.mem := by
  unfold sendMsg
  split <;> simp
@[simp] theorem sendTo_mem (d : Dev) (m : Msg) (response : Bool) : (sendTo d m response).mem = d.mem := by simp [sendTo]
@[simp] theorem freeBuffers_mem (d : Dev) (n cls vc k : Nat) : (freeBuffers d n cls vc k).mem = d.mem := by simp [freeBuffers]
@[simp] theorem freeSource_mem (d : Dev) (source : Nat) (f : Flit) : (freeSource d source f).mem = d.mem := by
  simp [freeSource, apply_ite Dev.mem]
@[simp] theorem sendFlit_mem (d : Dev) (n : Nat) (r : Nat × Flit) : (sendFlit d n r).mem = d.mem := by simp [sendFlit]
@[simp] theorem sendIdle_mem (d : Dev) (n : Nat) : (sendIdle d n).mem = d.mem := by simp [sendIdle]
@[simp] theorem sendAgain_mem (d : Dev) (n : Nat) : (sendAgain d n).mem = d.mem := by
  unfold sendAgain
  simp only
  split <;> simp
@[simp] theorem sendControl_mem (d : Dev) (n : Nat) : (sendControl d n).mem = d.mem := by simp [sendControl, apply_ite Dev.mem]
@[simp] theorem runSlot_mem (d : Dev) (n slot : Nat) : (runSlot d n slot).mem = d.mem := by
  unfold runSlot
  simp only
  repeat' split
  all_goals simp
@[simp] theorem sendSb_mem (d : Dev) (n : Nat) (m : SbMsg) : (sendSb d n m).mem = d.mem := by simp [sendSb]
theorem takeSb_mem {d e : Dev} {n type : Nat} {ok : SbMsg → Bool} {m : SbMsg} (h : takeSb d n type ok = some (m, e)) :
    e.mem = d.mem := by
  simp only [takeSb, Option.map_eq_some_iff] at h
  obtain ⟨x, -, hx⟩ := h
  cases hx
  simp
@[simp] theorem syncOpen_mem (d : Dev) (p : Nat) : (syncOpen d p).mem = d.mem := by simp [syncOpen]
@[simp] theorem finishPost_mem (d : Dev) (k : Coll) : (finishPost d k).mem = d.mem := by
  unfold finishPost
  repeat' split
  all_goals simp
@[simp] theorem cancelChannels_mem (d : Dev) (p : Nat) : (cancelChannels d p).mem = d.mem := by
  simp [cancelChannels, apply_ite Dev.mem]
@[simp] theorem setLocked_mem (d : Dev) (b : Bool) : (setLocked d b).mem = d.mem := by simp [setLocked]
@[simp] theorem loseLock_mem (d : Dev) : (loseLock d).mem = d.mem := by simp [loseLock, apply_ite Dev.mem]
@[simp] theorem chooseParent_mem (d : Dev) : (chooseParent d).mem = d.mem := by
  unfold chooseParent
  simp only
  repeat' split
  all_goals simp
@[simp] theorem stepFtc_mem (d : Dev) (ticks : Nat) : (stepFtc d ticks).mem = d.mem := by simp [stepFtc, apply_ite Dev.mem]
@[simp] theorem adjustRate_mem (d : Dev) : (adjustRate d).mem = d.mem := by simp [adjustRate, apply_ite Dev.mem]
@[simp] theorem noteOffset_mem (d : Dev) (n tTx tEcho tTurn tRx : Nat) : (noteOffset d n tTx tEcho tTurn tRx).mem = d.mem := by
  simp [noteOffset, apply_ite Dev.mem]
@[simp] theorem ftcReaches_mem (d : Dev) (t : Nat) : (ftcReaches d t).mem = d.mem := by simp [ftcReaches]
@[simp] theorem ppsEdge_mem (d : Dev) (t : Nat) : (ppsEdge d t).mem = d.mem := by simp [ppsEdge, apply_ite Dev.mem]
@[simp] theorem beginPps_mem (d : Dev) : (beginPps d).mem = d.mem := by simp [beginPps]
@[simp] theorem setLanes_mem (d : Dev) (n m : Nat) : (setLanes d n m).mem = d.mem := by simp [setLanes]
@[simp] theorem sendIdent_mem (d : Dev) (n : Nat) : (sendIdent d n).mem = d.mem := by simp [sendIdent, apply_ite Dev.mem]
@[simp] theorem acceptFlit_mem (d : Dev) (n : Nat) (f : Flit) : (acceptFlit d n f).mem = d.mem := by
  simp [acceptFlit, apply_ite Dev.mem]
@[simp] theorem forwardFlit_mem (d : Dev) (n : Nat) (f : Flit) : (forwardFlit d n f).mem = d.mem := by
  unfold forwardFlit
  simp only
  repeat' split
  all_goals simp
@[simp] theorem addFree_mem (d : Dev) (k : FKey) : (addFree d k).mem = d.mem := by simp [addFree]
@[simp] theorem noteFec_mem (d : Dev) (n : Nat) (good : Bool) : (noteFec d n good).mem = d.mem := by simp [noteFec]
@[simp] theorem receiveFlit_mem (d : Dev) (n : Nat) (l : List Byte) : (receiveFlit d n l).mem = d.mem := by
  simp [receiveFlit, apply_ite Dev.mem]
theorem takeMsg_mem {d e : Dev} {n vc kind : Nat} {ok : Msg → Bool} {m : Msg} (h : takeMsg d n vc kind ok = some (m, e)) :
    e.mem = d.mem := by
  simp only [takeMsg, Option.map_eq_some_iff] at h
  obtain ⟨x, -, hx⟩ := h
  cases hx
  simp

/-! Vector -/

@[simp] theorem countVop_mem (d : Dev) (c m rows cols cost : Nat) : (countVop d c m rows cols cost).mem = d.mem := by
  simp [countVop]
@[simp] theorem intoUnits_mem (d : Dev) (o : Vop) (rows cols cost : Nat) (ops : List Desc) (nonfin : Bool) :
    (intoUnits d o rows cols cost ops nonfin).mem = d.mem := by simp [intoUnits]
@[simp] theorem issueVop_run_mem (d : Dev) (o : Vop) (faults : List (Bool × Nat)) (ops : List Desc) (rows cols cost : Nat)
    (eff : Unit → Dev × Bool) : ((issueVop d o faults ops rows cols cost eff).run ()).dev.mem = (eff ()).1.mem := by
  simp [issueVop]
@[simp] theorem chosenBy_mem (d : Dev) (p : Nat) (vd vm : Desc) (rows cols : Nat) : (chosenBy d p vd vm rows cols).2.mem = d.mem := by
  simp [chosenBy, apply_ite Dev.mem]
@[simp] theorem goVnonfin_mem (p c w : Nat) (d : Dev) : ((goVnonfin p c w d).run ()).dev.mem = d.mem := by simp [goVnonfin]
@[simp] theorem completeVop_mem (d : Dev) (c i : Nat) : (completeVop d c i).mem = d.mem := by
  unfold completeVop; split
  · split
    · split
      · rfl
      · exact (forEach_mem (fun _ _ => by simp) _ _).trans (finishJob_mem ..)
    · rfl
  · rfl

/-! Collective -/

@[simp] theorem setColl_mem (d : Dev) (k : Coll) : (setColl d k).mem = d.mem := by simp [setColl]
@[simp] theorem sendHop_mem (d : Dev) (k : Coll) (j s : Nat) (plus : Bool) (off : Nat) (data : List Byte) :
    (sendHop d k j s plus off data).mem = d.mem := by simp [sendHop]
@[simp] theorem sendBlock_mem (d : Dev) (k : Coll) (j s : Nat) (l : List Byte) : (sendBlock d k j s l).mem = d.mem := by
  simp [sendBlock]
@[simp] theorem sendChain_mem (d : Dev) (k : Coll) (step r : Nat) (l : List Byte) : (sendChain d k step r l).mem = d.mem := by
  simp [sendChain]
@[simp] theorem beginPhase_mem (d : Dev) (k : Coll) : (beginPhase d k).1.mem = d.mem := by
  unfold beginPhase
  simp only
  repeat' split
  all_goals simp
@[simp] theorem advanceRings_mem (n : Nat) (d : Dev) (k : Coll) : (advanceRings n d k).1.mem = d.mem := by
  induction n generalizing d k with
  | zero => rfl
  | succ n ih =>
    simp only [advanceRings]; split
    · rfl
    · rw [ih, beginPhase_mem]; split <;> simp
@[simp] theorem advanceChain_mem (d : Dev) (k : Coll) : (advanceChain d k).1.mem = d.mem := by
  unfold advanceChain
  simp only
  repeat' split
  all_goals simp
@[simp] theorem advanceColl_mem (d : Dev) (k : Coll) : (advanceColl d k).mem = d.mem := by
  unfold advanceColl
  repeat' split
  all_goals simp
@[simp] theorem ringPiece_mem (d : Dev) (k : Coll) (m : Msg) : (ringPiece d k m).mem = d.mem := by
  simp [ringPiece, apply_ite Dev.mem]

/-! Service -/

@[simp] theorem svcAdvance_mem (d : Dev) (recv : Bool) (p s : Nat) : (svcAdvance d recv p s).mem = d.mem := by simp [svcAdvance]
@[simp] theorem qpAdvance_mem (d : Dev) (p s q m n : Nat) : (qpAdvance d p s q m n).mem = d.mem := by simp [qpAdvance]
@[simp] theorem svcRun_mem (op p s : Nat) (d : Dev) : (svcRun op p s d).mem = d.mem := by simp [svcRun, apply_ite Dev.mem]
@[simp] theorem svcReply_mem (d : Dev) (p s kind qp psn : Nat) (data : List Byte) :
    (svcReply d p s kind qp psn data).mem = d.mem := by simp [svcReply]
@[simp] theorem svcNak_mem (d : Dev) (p s kind qp : Nat) : (svcNak d p s kind qp).mem = d.mem := by simp [svcNak]
@[simp] theorem svcAck_mem (d : Dev) (p s qp n : Nat) : (svcAck d p s qp n).mem = d.mem :=
  (svcReply_mem ..).trans (qpAdvance_mem ..)
theorem keyed_keeps {P : List Host.Cell → Prop} {d : Dev} {p s qp key a n acc : Nat} {run : Dev → Dev} (h : P d.mem)
    (hr : P (run d).mem) : P (keyed d p s qp key a n acc run).mem := by
  have hs : P (steadyBroken d).mem := by simpa using h
  unfold keyed; split
  · simpa using h
  · split
    · simpa using h
    · exact iteInduction (motive := fun x => P (Dev.mem x)) (fun _ => hs) (fun _ => hr)

/-! Handover -/

@[simp] theorem completeHandover_mem (d : Dev) (c b : Nat) : (completeHandover d c b).mem = d.mem := by
  unfold completeHandover
  repeat' split
  all_goals simp

/-! Pool -/

@[simp] theorem takeReserve_mem (d : Dev) (t : Tier) (f : Nat) : (takeReserve d t f).mem = d.mem := by
  simp [takeReserve, apply_ite Dev.mem]
@[simp] theorem beginEvict_mem (d : Dev) (k : PageKey) : (beginEvict d k).mem = d.mem := by
  unfold beginEvict
  split <;> simp
@[simp] theorem stopMoves_mem (d : Dev) (k : PageKey) : (stopMoves d k).mem = d.mem := by simp [stopMoves]
@[simp] theorem unmapPage_mem (d : Dev) (p : Nat) (w : Tier) (v : Nat) : (unmapPage d p w v).mem = d.mem := by simp [unmapPage]
@[simp] theorem unmapAll_mem (d : Dev) (p : Nat) : (unmapAll d p).mem = d.mem := by simp [unmapAll]
@[simp] theorem faultIn_mem (d : Dev) (p v : Nat) : (faultIn d p v).mem = d.mem := by
  unfold faultIn
  simp only
  repeat' split
  all_goals simp
@[simp] theorem pickEntry_mem (d : Dev) (p : Nat) : (pickEntry d p).mem = d.mem := by simp [pickEntry, apply_ite Dev.mem]
@[simp] theorem setEntry_mem (d : Dev) (p i : Nat) (e : MoverEntry) : (setEntry d p i e).mem = d.mem := by simp [setEntry]
@[simp] theorem poolEvict_mem (d : Dev) (p : Nat) : (poolEvict d p).mem = d.mem := by
  unfold poolEvict
  simp only
  repeat' split
  all_goals simp
theorem overPages_keeps {P : Dev → Prop} {act : Dev → Nat → Except Nat Dev} (hact : ∀ d v e, act d v = .ok e → P d → P e)
    (vs : List Nat) (d : Dev) (h : P d) : P (overPages d act vs).1 := by
  induction vs generalizing d with
  | nil => exact h
  | cons v r ih =>
    simp only [overPages]; split
    · next e he => exact ih e (hact d v e he h)
    · exact h
theorem runMover_keeps {P : List Host.Cell → Prop} {d : Dev} {p i op : Nat} {act : Tier → Dev → Nat → Except Nat Dev}
    (hact : ∀ w d v e, act w d v = .ok e → P d.mem → P e.mem) (h : P d.mem) : P (runMover d p i op act).mem := by
  unfold runMover; split
  · exact h
  · split
    · simpa using overPages_keeps (P := fun e => P e.mem) (hact _) _ d h
    · exact h
theorem evictPage_mem {p : Nat} {w : Tier} {d e : Dev} {v : Nat} (h : evictPage p w d v = .ok e) : e.mem = d.mem := by
  unfold evictPage at h
  split at h
  · split at h
    · cases h
    · split at h
      · cases h; rfl
      · split at h
        · cases h; simp
        · cases h
  · cases h
theorem unpinPage_mem {p : Nat} {w : Tier} {d e : Dev} {v : Nat} (h : unpinPage p w d v = .ok e) : e.mem = d.mem := by
  unfold unpinPage at h
  split at h
  · cases h; rfl
  · cases h
theorem setsrcPage_mem {p : Nat} {src : Nat → Option (Nat × Nat × Nat)} {w : Tier} {d e : Dev} {v : Nat}
    (h : setsrcPage p src w d v = .ok e) : e.mem = d.mem := by
  unfold setsrcPage at h
  split at h
  · cases h; rfl
  · cases h
@[simp] theorem logPoison_mem (d : Dev) (k : PageKey) (x : Page) (outcome : Nat) : (logPoison d k x outcome).mem = d.mem := by
  simp [logPoison]
@[simp] theorem fetchPage_mem (d : Dev) (k : PageKey) (m q a : Nat) : (fetchPage d k m q a).mem = d.mem := by simp [fetchPage]
@[simp] theorem modNaming_mem (d : Dev) (k : PageKey) (g : MoverEntry → MoverEntry) : (modNaming d k g).mem = d.mem := by
  simp [modNaming]
@[simp] theorem losePage_mem (d : Dev) (k : PageKey) (x : Page) : (losePage d k x).mem = d.mem := by simp [losePage]
@[simp] theorem noteCorrectable_mem (d : Dev) (t : Tier) (f g row : Nat) : (noteCorrectable d t f g row).mem = d.mem := by
  simp [noteCorrectable]
@[simp] theorem poisonData_mem (d : Dev) (k : PageKey) : (poisonData d k).mem = d.mem := by
  unfold poisonData
  simp only
  repeat' split
  all_goals simp
@[simp] theorem poisonPage_mem (d : Dev) (k : PageKey) (g row : Nat) : (poisonPage d k g row).mem = d.mem := by
  unfold poisonPage
  repeat' split
  all_goals simp
@[simp] theorem timeoutRefill_mem (d : Dev) (k : PageKey) : (timeoutRefill d k).mem = d.mem := by
  unfold timeoutRefill
  repeat' split
  all_goals simp
@[simp] theorem patrolRow_mem (d : Dev) (t : Tier) (f : Nat) (x : RowFound) : (patrolRow d t f x).mem = d.mem := by
  unfold patrolRow
  repeat' split
  all_goals simp
@[simp] theorem notePatrol_mem (d : Dev) (t : Tier) (f : Nat) : (notePatrol d t f).mem = d.mem := by
  simp [notePatrol, apply_ite Dev.mem]
@[simp] theorem patrolFrame_mem (d : Dev) (t : Tier) (f : Nat) (errors : List RowFound) : (patrolFrame d t f errors).mem = d.mem := by
  simp [patrolFrame, apply_ite Dev.mem]
@[simp] theorem retireFrame_mem (d : Dev) (t : Tier) (f g : Nat) : (retireFrame d t f g).mem = d.mem := by simp [retireFrame]
@[simp] theorem mendFrame_mem (d : Dev) (t : Tier) (f g row : Nat) (spareRow : Bool) :
    (mendFrame d t f g row spareRow).mem = d.mem := by simp [mendFrame, apply_ite Dev.mem]
@[simp] theorem agePages_mem (d : Dev) : (agePages d).mem = d.mem := by simp [agePages]
@[simp] theorem sendWrites_mem (d : Dev) (p m q a : Nat) (l : List Byte) : (sendWrites d p m q a l).mem = d.mem := by
  simp [sendWrites]
@[simp] theorem endSnap_mem (d : Dev) (p st status : Nat) : (endSnap d p st status).mem = d.mem := by simp [endSnap]
@[simp] theorem beginSnap_mem (d : Dev) (p : Nat) (r : SnapReq) : (beginSnap d p r).mem = d.mem := by
  unfold beginSnap
  split <;> simp
@[simp] theorem startSnap_mem (d : Dev) (p : Nat) : (startSnap d p).mem = d.mem := by simp [startSnap, apply_ite Dev.mem]
@[simp] theorem snapWrite_mem (d : Dev) (p v : Nat) : (snapWrite d p v).mem = d.mem := by simp [snapWrite, apply_ite Dev.mem]
@[simp] theorem copyPage_mem (d : Dev) (k : PageKey) : (copyPage d k).mem = d.mem := by
  unfold copyPage
  repeat' split
  all_goals simp
@[simp] theorem completeGeneration_mem (d : Dev) (p src gyle : Nat) : (completeGeneration d p src gyle).mem = d.mem := by
  simp [completeGeneration, apply_ite Dev.mem]
@[simp] theorem ackSnap_mem (d : Dev) (p : Nat) : (ackSnap d p).mem = d.mem := by
  unfold ackSnap
  split <;> simp
@[simp] theorem buddyWrite_mem (d : Dev) (p v : Nat) : (buddyWrite d p v).mem = d.mem := by simp [buddyWrite, apply_ite Dev.mem]

/-! Access -/

@[simp] theorem hostLoad_mem (d : Dev) (p a n : Nat) : (hostLoad d p a n).mem = d.mem := by simp [hostLoad]
@[simp] theorem holdAccess_mem (d : Dev) (h : HeldAccess) : (holdAccess d h).mem = d.mem := by simp [holdAccess]
@[simp] theorem pageFound_mem (d : Dev) (p a : Nat) (found : Found) (row : Nat) : (pageFound d p a found row).mem = d.mem := by
  unfold pageFound
  repeat' split
  all_goals simp
@[simp] theorem fabricDenied_mem (d : Dev) (p a n : Nat) : (fabricDenied d p a n).mem = d.mem := by
  simp [fabricDenied, apply_ite Dev.mem]
@[simp] theorem readMessage_mem (d : Dev) (n vc : Nat) : (readMessage d n vc).mem = d.mem := by
  simp only [readMessage]; split
  · split <;> simp
  · next m e he =>
    have hm := takeMsg_mem he
    rw [sendTo_mem]
    split <;> simpa using hm

/-! Guest -/

@[simp] theorem freeEntry_mem (d : Dev) : (freeEntry d).2.mem = d.mem := by simp [freeEntry]
@[simp] theorem fillTile_mem (d : Dev) (c t : Nat) : (fillTile d c t).mem = d.mem := by simp [fillTile]
@[simp] theorem beginGuest_mem (d : Dev) (p job c : Nat) : (beginGuest d p job c).mem = d.mem := by
  simp [beginGuest, apply_ite Dev.mem]
@[simp] theorem endGuest_mem (d : Dev) (c : Nat) : (endGuest d c).mem = d.mem := by
  unfold endGuest
  simp only
  split <;> simp
@[simp] theorem endGuests_mem (d : Dev) (p job : Nat) : (endGuests d p job).mem = d.mem := by simp [endGuests]

/-! Kiln -/

@[simp] theorem setJob_mem (d : Dev) (p i : Nat) (j : KilnJob) : (setJob d p i j).mem = d.mem := by simp [setJob]
@[simp] theorem enterKiln_mem (d : Dev) (p g : Nat) (e : KilnEntry) : (enterKiln d p g e).mem = d.mem := by simp [enterKiln]
@[simp] theorem reportedGen_mem (d : Dev) (p : Nat) (j : KilnJob) : (reportedGen d p j).2.mem = d.mem := by
  unfold reportedGen
  split <;> simp
@[simp] theorem releaseCores_mem (d : Dev) (cs : List Nat) : (releaseCores d cs).mem = d.mem := by
  simp [releaseCores, apply_ite Dev.mem]
@[simp] theorem countResolution_mem (d : Dev) (p : Nat) (j : KilnJob) (code : Nat) : (countResolution d p j code).mem = d.mem := by
  simp [countResolution, apply_ite Dev.mem]
@[simp] theorem kilnInterrupts_mem (d : Dev) (p : Nat) (j : KilnJob) (code : Nat) : (kilnInterrupts d p j code).mem = d.mem := by
  simp [kilnInterrupts, apply_ite Dev.mem]
@[simp] theorem kilnRelease_mem (d : Dev) (p gyle : Nat) : (kilnRelease d p gyle).mem = d.mem := by simp [kilnRelease]
@[simp] theorem takeCore_mem (d : Dev) (p idx k : Nat) : (takeCore d p idx k).mem = d.mem := by
  simp [takeCore, apply_ite Dev.mem]
@[simp] theorem startJob_mem (d : Dev) (p : Nat) : (startJob d p).mem = d.mem := by
  unfold startJob
  split <;> simp
theorem withJob_keeps {P : Dev → Prop} {d : Dev} {p i : Nat} {work : KilnJob → Dev} (h : P d) (hs : P (steadyBroken d))
    (hw : ∀ j, P (work j)) : P (withJob d p i work) := by
  unfold withJob; split
  · split
    · exact hs
    · exact hw _
  · exact h

@[simp] theorem withJob_mem (d : Dev) (p i : Nat) {work : KilnJob → Dev} (hw : ∀ j, (work j).mem = d.mem) :
    (withJob d p i work).mem = d.mem :=
  withJob_keeps (P := fun e => e.mem = d.mem) rfl (steadyBroken_mem d) hw

theorem Memory.wf_withJob {d : Dev} (p i : Nat) {work : KilnJob → Dev} (h : Memory.wf d.mem = true)
    (hw : ∀ j, Memory.wf (work j).mem = true) : Memory.wf (withJob d p i work).mem = true :=
  withJob_keeps (P := fun e => Memory.wf e.mem = true) h (by simpa using h) hw
@[simp] theorem foldOutcome_mem (d : Dev) (p i : Nat) : (foldOutcome d p i).mem = d.mem := by
  simp [foldOutcome, apply_ite Dev.mem]
@[simp] theorem operate_mem (d : Dev) (p i op : Nat) {work : KilnJob → Dev} (hw : ∀ j, (work j).mem = d.mem) :
    (operate d p i op work).mem = d.mem := by
  refine withJob_mem d p i fun j => ?_
  split
  · exact hw j
  · rfl

theorem Memory.wf_operate {d : Dev} (p i op : Nat) {work : KilnJob → Dev} (h : Memory.wf d.mem = true)
    (hw : ∀ j, Memory.wf (work j).mem = true) : Memory.wf (operate d p i op work).mem = true := by
  refine Memory.wf_withJob p i h fun j => ?_
  split
  · exact hw j
  · exact h
@[simp] theorem runInit_mem (d : Dev) (p i : Nat) : (runInit d p i).mem = d.mem := by simp [runInit]
@[simp] theorem showIter_mem (d : Dev) (j : KilnJob) : (showIter d j).mem = d.mem := by simp [showIter]
@[simp] theorem discardAttempt_mem (d : Dev) (p : Nat) (j : KilnJob) : (discardAttempt d p j).mem = d.mem := by
  rw [discardAttempt, forEach_setF_mem, endGuests_mem]
@[simp] theorem retireCore_mem (d : Dev) (p k : Nat) : (retireCore d p k).mem = d.mem := by simp [retireCore]
@[simp] theorem failCore_mem (d : Dev) (p : Nat) (j : KilnJob) (k : Nat) : (failCore d p j k).1.mem = d.mem := by
  unfold failCore
  split <;> simp
@[simp] theorem regrantJob_mem (d : Dev) (p i : Nat) : (regrantJob d p i).mem = d.mem := by
  unfold regrantJob
  repeat' split
  all_goals simp
@[simp] theorem regrantKiln_mem (d : Dev) (p : Nat) : (regrantKiln d p).mem = d.mem := by simp [regrantKiln]

/-! Rack -/

@[simp] theorem setSweep_mem (d : Dev) (p : Nat) (s : Sweep) : (setSweep d p s).mem = d.mem := by simp [setSweep]
@[simp] theorem rackRefused_mem (d : Dev) (p code : Nat) : (rackRefused d p code).mem = d.mem := by simp [rackRefused]
@[simp] theorem refuseSweep_mem (d : Dev) (p code : Nat) : (refuseSweep d p code).mem = d.mem := by
  simp [refuseSweep, apply_ite Dev.mem]
@[simp] theorem closeBatch_mem (d : Dev) (p g : Nat) : (closeBatch d p g).mem = d.mem := by simp [closeBatch]
@[simp] theorem finishSweep_mem (d : Dev) (p : Nat) : (finishSweep d p).mem = d.mem := by simp [finishSweep, apply_ite Dev.mem]
@[simp] theorem freeUnit_mem (d : Dev) (u : Nat) : (freeUnit d u).mem = d.mem := by simp [freeUnit, apply_ite Dev.mem]
@[simp] theorem faultSweep_mem (d : Dev) (p code : Nat) : (faultSweep d p code).mem = d.mem := by simp [faultSweep]
@[simp] theorem settleStamp_mem (d : Dev) (p : Nat) : (settleStamp d p).mem = d.mem := by simp [settleStamp, apply_ite Dev.mem]
@[simp] theorem blockDone_mem (d : Dev) (p l : Nat) : (blockDone d p l).mem = d.mem := by simp [blockDone]
@[simp] theorem takeBlock_mem (d : Dev) (u : Nat) (w : RackWork) : (takeBlock d u w).mem = d.mem := by
  simp [takeBlock, apply_ite Dev.mem]
@[simp] theorem readArrays_mem (d : Dev) (w : RackWork) (ws : List Nat) : (readArrays d w ws).mem = d.mem := by
  simp [readArrays]
@[simp] theorem countPhase_mem (d : Dev) (p u : Nat) : (countPhase d p u).mem = d.mem := by simp [countPhase]
@[simp] theorem discardBlocks_mem (d : Dev) (p : Nat) : (discardBlocks d p).mem = d.mem := by simp [discardBlocks]
@[simp] theorem rackFault_mem (d : Dev) (p : Nat) (x : FaultUnit) : (rackFault d p x).mem = d.mem := by simp [rackFault]
@[simp] theorem completeLayer_mem (d : Dev) (p l : Nat) : (completeLayer d p l).mem = d.mem := by
  unfold completeLayer
  simp only
  repeat' split
  all_goals simp
@[simp] theorem stopSweep_mem (d : Dev) (p : Nat) : (stopSweep d p).mem = d.mem := by simp [stopSweep, apply_ite Dev.mem]
@[simp] theorem rackGuard_mem (d : Dev) (p : Nat) (fs : List (FKey × Nat)) : (rackGuard d p fs).mem = d.mem := by
  simp [rackGuard, apply_ite Dev.mem]
@[simp] theorem retireUnit_mem (d : Dev) (p u : Nat) : (retireUnit d p u).mem = d.mem := by simp [retireUnit]
@[simp] theorem requeue_mem (d : Dev) (u : Nat) : (requeue d u).mem = d.mem := by
  unfold requeue
  split <;> simp
@[simp] theorem noteUnitFail_mem (d : Dev) (p u : Nat) : (noteUnitFail d p u).mem = d.mem := by
  simp [noteUnitFail, apply_ite Dev.mem]
@[simp] theorem ungrantUnit_mem (d : Dev) (p u : Nat) : (ungrantUnit d p u).mem = d.mem := by
  unfold ungrantUnit
  simp only
  repeat' split
  all_goals simp
@[simp] theorem poisonReplica_mem (d : Dev) (p owner : Nat) (wv : Tier × Nat) : (poisonReplica d p owner wv).mem = d.mem := by
  unfold poisonReplica
  split <;> simp
@[simp] theorem checkReplicas_mem (d : Dev) (p : Nat) (ls : List (List Nat)) : (checkReplicas d p ls).mem = d.mem := by
  refine forEach_mem (fun d ws => forEach_mem (fun d i => ?_) _ _) _ _
  split
  · simp
  · simp only; split <;> simp
@[simp] theorem openCheck_mem (d : Dev) (p : Nat) : (openCheck d p).mem = d.mem := by simp [openCheck, apply_ite Dev.mem]
@[simp] theorem checkWrite_mem (d : Dev) (p v : Nat) : (checkWrite d p v).mem = d.mem := by simp [checkWrite, apply_ite Dev.mem]
@[simp] theorem completeCheck_mem (d : Dev) (p : Nat) : (completeCheck d p).mem = d.mem := by
  unfold completeCheck
  simp only
  repeat' split
  all_goals simp
@[simp] theorem checkOwner_mem (d : Dev) (p l b : Nat) : (checkOwner d p l b).mem = d.mem := by
  simp only [checkOwner]; split
  · rfl
  · split
    · simp
    · split
      · simp
      · refine (forEach_mem (fun _ _ => ?_) _ _).trans (forEach_mem (fun _ _ => noteRead_mem ..) _ _)
        split <;> simp
@[simp] theorem abortRack_mem (d : Dev) (p : Nat) : (abortRack d p).mem = d.mem := by simp [abortRack]

/-! Stage -/

@[simp] theorem audit_mem (d : Dev) (r : AuditReq) : (audit d r).mem = d.mem := by simp [audit]
@[simp] theorem auditEvent_mem (d : Dev) (event : Nat) : (auditEvent d event).mem = d.mem := by simp [auditEvent]
@[simp] theorem answer_mem (d : Dev) (m : MbxCmd) (status : Nat) (res : List Nat) : (answer d m status res).mem = d.mem := by
  simp only [answer]; repeat' split
  all_goals simp
@[simp] theorem setCmd_mem (d : Dev) (m : MbxCmd) : (setCmd d m).mem = d.mem := by simp [setCmd]
@[simp] theorem answerId_mem (d : Dev) (id status : Nat) (res : List Nat) : (answerId d id status res).mem = d.mem := by
  unfold answerId
  split <;> simp
@[simp] theorem applyItem_mem (d : Dev) (x : StageItem) : (applyItem d x).mem = d.mem := forEach_setF_mem _ _ _ d
@[simp] theorem zeroGrants_mem (d : Dev) (p : Nat) : (zeroGrants d p).mem = d.mem := rfl
@[simp] theorem merged_mem (d : Dev) (items : List StageItem) : (merged d items).mem = d.mem :=
  (forEach_mem zeroGrants_mem _ _).trans (forEach_mem applyItem_mem items d)
@[simp] theorem setMeas_mem (d : Dev) (n : Nat) (digest : List Byte) : (setMeas d n digest).mem = d.mem := rfl
@[simp] theorem leaveCap_mem (d : Dev) : (leaveCap d).mem = d.mem := by simp [leaveCap, apply_ite Dev.mem]
@[simp] theorem stayAwake_mem (d : Dev) : (stayAwake d).mem = d.mem :=
  forEach_mem (fun _ _ => by split <;> simp) _ _
@[simp] theorem enterMode_mem (d : Dev) (p m : Nat) : (enterMode d p m).mem = d.mem := by simp [enterMode, apply_ite Dev.mem]
@[simp] theorem commitMode_mem (old d : Dev) : (commitMode old d).mem = d.mem := by simp [commitMode, apply_ite Dev.mem]
@[simp] theorem releaseMode_mem (d : Dev) (p t : Nat) : (releaseMode d p t).mem = d.mem := by
  simp [releaseMode, apply_ite Dev.mem]
@[simp] theorem lendBank_mem (d : Dev) (c b : Nat) (lent : Bool) : (lendBank d c b lent).mem = d.mem := by
  simp [lendBank, apply_ite Dev.mem]
@[simp] theorem commitLend_mem (old d : Dev) (c : Nat) : (commitLend old d c).mem = d.mem := by
  simp [commitLend, apply_ite Dev.mem]
@[simp] theorem partitionEffects_mem (old d : Dev) (p : Nat) (items : List StageItem) :
    (partitionEffects old d p items).mem = d.mem := by simp [partitionEffects, apply_ite Dev.mem]
@[simp] theorem unblockStarts_mem (d : Dev) : (unblockStarts d).mem = d.mem := by simp [unblockStarts]
@[simp] theorem endSet_mem (d : Dev) (scope status : Nat) (res : List Nat) : (endSet d scope status res).mem = d.mem := by
  unfold endSet
  simp only
  repeat' split
  all_goals simp
@[simp] theorem lapseSet_mem (d : Dev) (scope : Nat) : (lapseSet d scope).mem = d.mem := by simp [lapseSet, apply_ite Dev.mem]
@[simp] theorem cancelGyleSet_mem (d : Dev) (p : Nat) : (cancelGyleSet d p).mem = d.mem := by
  simp [cancelGyleSet, apply_ite Dev.mem]

/-! Channels -/

@[simp] theorem setChan_mem (d : Dev) (p ch : Nat) (x : Chan) : (setChan d p ch x).mem = d.mem := by simp [setChan]
@[simp] theorem releaseUse_mem (d : Dev) (p ch : Nat) (x : Chan) (t : Nat) (a : Arrival) : (releaseUse d p ch x t a).mem = d.mem := by
  simp [releaseUse]
@[simp] theorem lossScale_mem (d : Dev) (p : Nat) (nonfin fault : Bool) : (lossScale d p nonfin fault).mem = d.mem := by
  simp [lossScale, apply_ite Dev.mem]
@[simp] theorem enterHistory_mem (d : Dev) (p gyle : Nat) (nonfin : Bool) : (enterHistory d p gyle nonfin).mem = d.mem := by
  simp [enterHistory]
@[simp] theorem openBatch_mem (d : Dev) (p gyle : Nat) (nonfin fault : Bool) : (openBatch d p gyle nonfin fault).mem = d.mem := by
  simp [openBatch, apply_ite Dev.mem]
@[simp] theorem completeBar_mem (d : Dev) (c : Nat) (nonfin : Bool) : (completeBar d c nonfin).mem = d.mem := by
  unfold completeBar
  repeat' split
  all_goals simp
@[simp] theorem completeAmax_mem (d : Dev) (c : Nat) (a : Arrival) : (completeAmax d c a).mem = d.mem := by
  unfold completeAmax
  repeat' split
  all_goals simp
@[simp] theorem noteLate_mem (d : Dev) (p : Nat) : (noteLate d p).mem = d.mem := by simp [noteLate]
@[simp] theorem nflagWrite_mem (d : Dev) (p v : Nat) : (nflagWrite d p v).mem = d.mem := by simp [nflagWrite, apply_ite Dev.mem]

/-! Maltster -/

@[simp] theorem enterCmd_mem (d : Dev) (m : MbxCmd) : (enterCmd d m).mem = d.mem := by simp [enterCmd, apply_ite Dev.mem]
@[simp] theorem pickMailbox_mem (d : Dev) (p : Nat) : (pickMailbox d p).mem = d.mem := by
  unfold pickMailbox
  repeat' split
  all_goals simp
@[simp] theorem slotWrite_mem (d : Dev) (p i w v : Nat) : (slotWrite d p i w v).mem = d.mem := by
  simp [slotWrite, apply_ite Dev.mem]
theorem runCmd_keeps {P : Dev → Prop} {d : Dev} {k op : Nat} {fields role : MbxCmd → Bool} {work : Dev → MbxCmd → Dev} (h : P d)
    (ha : ∀ m st, P (answer d m st [])) (hw : ∀ m, P (work d m)) : P (runCmd d k op fields role work) := by
  unfold runCmd; split
  · exact h
  · split
    · exact ha _ _
    · split
      · exact ha _ _
      · split
        · exact ha _ _
        · exact hw _

@[simp] theorem runCmd_mem (d : Dev) (k op : Nat) (fields role : MbxCmd → Bool) {work : Dev → MbxCmd → Dev}
    (hw : ∀ d m, (work d m).mem = d.mem) : (runCmd d k op fields role work).mem = d.mem :=
  runCmd_keeps (P := fun e => e.mem = d.mem) rfl (fun m st => answer_mem d m st []) (hw d)

theorem Memory.wf_runCmd {d : Dev} (k op : Nat) (fields role : MbxCmd → Bool) {work : Dev → MbxCmd → Dev}
    (h : Memory.wf d.mem = true) (hw : ∀ m, Memory.wf (work d m).mem = true) :
    Memory.wf (runCmd d k op fields role work).mem = true :=
  runCmd_keeps (P := fun e => Memory.wf e.mem = true) h (fun m st => by simpa using h) hw
@[simp] theorem runIdentity_mem (d : Dev) (k : Nat) (noMgt : Bool) : (runIdentity d k noMgt).mem = d.mem := by
  simp [runIdentity]
@[simp] theorem runStage_mem (d : Dev) (k op : Nat) (fields : MbxCmd → Bool) {work : Dev → MbxCmd → Nat → Dev}
    (hw : ∀ d m s, (work d m s).mem = d.mem) : (runStage d k op fields work).mem = d.mem := by
  refine runCmd_mem d k op fields scopeRole fun d m => ?_
  split
  · exact answer_mem _ _ _ _
  · exact hw _ _ _

theorem Memory.wf_runStage {d : Dev} (k op : Nat) (fields : MbxCmd → Bool) {work : Dev → MbxCmd → Nat → Dev}
    (h : Memory.wf d.mem = true) (hw : ∀ m s, Memory.wf (work d m s).mem = true) :
    Memory.wf (runStage d k op fields work).mem = true := by
  refine Memory.wf_runCmd k op fields scopeRole h fun m => ?_
  split
  · simpa using h
  · exact hw _ _
@[simp] theorem runOpen_mem (d : Dev) (k : Nat) : (runOpen d k).mem = d.mem := by simp [runOpen, apply_ite Dev.mem]
@[simp] theorem runWrite_mem (d : Dev) (k : Nat) : (runWrite d k).mem = d.mem := by simp [runWrite, apply_ite Dev.mem]
@[simp] theorem runCheck_mem (d : Dev) (k : Nat) : (runCheck d k).mem = d.mem := by
  refine runStage_mem _ _ _ _ fun d m s => ?_
  split
  · simp
  · simp only; split
    · simp
    · rw [answer_mem, setF_mem, forEach_mem (fun _ _ => modCluster_mem ..)]
@[simp] theorem refuseCommit_mem (d : Dev) (m : MbxCmd) (s status : Nat) : (refuseCommit d m s status).mem = d.mem := by
  simp [refuseCommit]
@[simp] theorem armSet_mem (d : Dev) (m : MbxCmd) (s when at' : Nat) : (armSet d m s when at').mem = d.mem := by simp [armSet]
@[simp] theorem runAbort_mem (d : Dev) (k : Nat) : (runAbort d k).mem = d.mem := by
  refine runStage_mem _ _ _ _ fun d m s => ?_
  split
  · simp
  · split <;> simp
  · simp
@[simp] theorem runPageUnmap_mem (d : Dev) (k : Nat) : (runPageUnmap d k).mem = d.mem := by
  refine runCmd_mem _ _ _ _ _ fun d m => ?_
  simp only; split
  · split <;> simp
  · split
    · simp
    · split <;> simp
@[simp] theorem attrPages_mem (d : Dev) (m : MbxCmd) (ks : List (Tier × Nat)) : (attrPages d m ks).mem = d.mem :=
  forEach_mem (fun _ _ => by split <;> rfl) _ _
@[simp] theorem runPoolQuery_mem (d : Dev) (k : Nat) : (runPoolQuery d k).mem = d.mem := by simp [runPoolQuery]
@[simp] theorem inBox_mem (d : Dev) (p origin size : Nat) : (inBox d p origin size).mem = d.mem := by simp [inBox]
@[simp] theorem formPrepare_mem (d : Dev) (m : MbxCmd) : (formPrepare d m).mem = d.mem := by
  simp [formPrepare, apply_ite Dev.mem]
@[simp] theorem formCommit_mem (d : Dev) (m : MbxCmd) : (formCommit d m).mem = d.mem := by
  unfold formCommit
  repeat' split
  all_goals simp
@[simp] theorem formCancel_mem (d : Dev) (m : MbxCmd) : (formCancel d m).mem = d.mem := by
  unfold formCancel
  repeat' split
  all_goals simp
@[simp] theorem runForm_mem (d : Dev) (k phase : Nat) {work : Dev → MbxCmd → Dev} (hw : ∀ d m, (work d m).mem = d.mem) :
    (runForm d k phase work).mem = d.mem := by
  unfold runForm; split
  · split
    · exact runCmd_mem _ _ _ _ _ hw
    · rfl
  · rfl
@[simp] theorem sealSlice_mem (d : Dev) (p : Nat) : (sealSlice d p).mem = d.mem := by simp [sealSlice]
@[simp] theorem writeSlice_mem (d : Dev) (p : Nat) (f : Formation) : (writeSlice d p f).mem = d.mem := by
  rw [writeSlice, syncOpen_mem, setF_mem, setF_mem, sealSlice_mem, setF_mem, setF_mem, setF_mem, setF_mem, setF_mem, inBox_mem]
@[simp] theorem failForm_mem (d : Dev) (p : Nat) (f : Formation) (status : Nat) : (failForm d p f status).mem = d.mem := by
  rw [failForm, answerId_mem, syncOpen_mem, forEach_setF_mem]
@[simp] theorem endForm_mem (d : Dev) (p : Nat) (f : Formation) : (endForm d p f).mem = d.mem := by simp [endForm]
@[simp] theorem releaseForm_mem (d : Dev) (p : Nat) : (releaseForm d p).mem = d.mem := by
  unfold releaseForm
  repeat' split
  all_goals simp
@[simp] theorem timeoutForm_mem (d : Dev) (p : Nat) : (timeoutForm d p).mem = d.mem := by
  unfold timeoutForm
  simp only
  repeat' split
  all_goals simp
@[simp] theorem lapseForm_mem (d : Dev) (p : Nat) : (lapseForm d p).mem = d.mem := by
  unfold lapseForm
  simp only
  repeat' split
  all_goals simp
@[simp] theorem endDissolve_mem (d : Dev) (p status : Nat) : (endDissolve d p status).mem = d.mem := by
  unfold endDissolve
  split <;> simp
@[simp] theorem beginDraw_mem (d : Dev) (m : MbxCmd) : (beginDraw d m).mem = d.mem := by
  unfold beginDraw
  simp only
  repeat' split
  all_goals simp
@[simp] theorem draw_mem (d : Dev) (m : MbxCmd) : (draw d m).mem = d.mem := by simp [draw, apply_ite Dev.mem]
@[simp] theorem startWaiting_mem (d : Dev) (p n : Nat) : (startWaiting d p n).mem = d.mem := by
  induction n generalizing d with
  | zero => rfl
  | succ n ih =>
    simp only [startWaiting]; split
    · rfl
    · split
      · split <;> simp [ih]
      · split <;> simp
@[simp] theorem afterSnap_mem (d : Dev) (p : Nat) : (afterSnap d p).mem = d.mem := by simp [afterSnap]
@[simp] theorem runDraw_mem (d : Dev) (k : Nat) (noDraw : Bool) : (runDraw d k noDraw).mem = d.mem := by
  simp [runDraw, apply_ite Dev.mem]
@[simp] theorem takeDatagram_mem (d : Dev) (data : List Byte) (src port : Nat) (dst : BitVec 128) (dport : Nat) (udp : Bool) :
    (takeDatagram d data src port dst dport udp).mem = d.mem := by simp [takeDatagram, apply_ite Dev.mem]
@[simp] theorem heartbeat_mem (d : Dev) (corrected : Nat) : (heartbeat d corrected).mem = d.mem := by
  simp [heartbeat, apply_ite Dev.mem]
@[simp] theorem expireWatchdog_mem (d : Dev) : (expireWatchdog d).mem = d.mem := by simp [expireWatchdog, apply_ite Dev.mem]
@[simp] theorem restartSet_mem (d : Dev) (s : Nat) : (restartSet d s).mem = d.mem := by
  unfold restartSet
  repeat' split
  all_goals simp
@[simp] theorem restartSlices_mem (d : Dev) : (restartSlices d).mem = d.mem := by simp [restartSlices, apply_ite Dev.mem]
@[simp] theorem restartMaltster_mem (d : Dev) : (restartMaltster d).mem = d.mem := by simp [restartMaltster, apply_ite Dev.mem]

/-! Security -/

@[simp] theorem withDev_dev (f : Dev → Dev) (s : State) : (withDev f s).dev = f s.dev := rfl
@[simp] theorem syncAudit_mem (s : State) : (syncAudit s).dev.mem = s.dev.mem := by simp [syncAudit, apply_ite Dev.mem]
@[simp] theorem pushEntry_mem (s : State) (r : AuditReq) (digest key : List Byte) :
    (pushEntry s r digest key).dev.mem = s.dev.mem := by simp [pushEntry]
@[simp] theorem noteLost_mem (s : State) : (noteLost s).dev.mem = s.dev.mem := by
  unfold noteLost
  simp only
  split <;> simp
@[simp] theorem putEntry_mem (s : State) (r : AuditReq) (digest key : List Byte) : (putEntry s r digest key).dev.mem = s.dev.mem := by
  unfold putEntry
  repeat' split
  all_goals simp
@[simp] theorem putReq_mem (s : State) (r : AuditReq) : (putReq s r).dev.mem = s.dev.mem := by simp [putReq]
theorem foldl_putReq_mem (l : List AuditReq) (s : State) : (l.foldl putReq s).dev.mem = s.dev.mem := by
  induction l generalizing s with
  | nil => rfl
  | cons r l ih => rw [List.foldl_cons, ih, putReq_mem]

@[simp] theorem flushAudit_mem (s : State) : (flushAudit s).dev.mem = s.dev.mem := by
  simp only [flushAudit]; split <;> exact foldl_putReq_mem _ _
@[simp] theorem withAudit_mem (f : Dev → Dev) (s : State) : (withAudit f s).dev.mem = (f s.dev).mem := by simp [withAudit]
@[simp] theorem eraseSegments_mem (s : State) : (eraseSegments s).dev.mem = s.dev.mem := by simp [eraseSegments]
@[simp] theorem measureFuses_mem (s : State) : (measureFuses s).dev.mem = s.dev.mem := by simp [measureFuses]
@[simp] theorem sealLog_mem (s : State) : (sealLog s).dev.mem = s.dev.mem := by
  unfold sealLog
  split <;> simp
@[simp] theorem acceptBlob_mem (s : State) (m : MbxCmd) (l : List Byte) : (acceptBlob s m l).dev.mem = s.dev.mem := by
  simp [acceptBlob]
@[simp] theorem rejectBlob_mem (s : State) (m : MbxCmd) (l : List Byte) (status : Nat) :
    (rejectBlob s m l status).dev.mem = s.dev.mem := by simp [rejectBlob]
@[simp] theorem refuseExtent_mem (m : MbxCmd) (a n : Nat) (d : Dev) : (refuseExtent m a n d).mem = d.mem := by
  simp [refuseExtent, apply_ite Dev.mem]
theorem runSec_keeps {P : State → Prop} {s : State} {k op : Nat} {fields role : MbxCmd → Bool} {buffer : MbxCmd → Nat × Nat}
    {work : State → MbxCmd → State} (h : P s) (hs : P (withDev steadyBroken s))
    (ha : ∀ m st, P (withDev (fun d => answer d m st []) s)) (hw : ∀ m, P (work s m)) :
    P (runSec s k op fields role buffer work) := by
  unfold runSec; split
  · exact h
  · split
    · exact hs
    · split
      · exact ha _ _
      · split
        · exact ha _ _
        · split
          · exact ha _ _
          · exact hw _

@[simp] theorem runSec_mem (s : State) (k op : Nat) (fields role : MbxCmd → Bool) (buffer : MbxCmd → Nat × Nat)
    {work : State → MbxCmd → State} (hw : ∀ s m, (work s m).dev.mem = s.dev.mem) :
    (runSec s k op fields role buffer work).dev.mem = s.dev.mem :=
  runSec_keeps (P := fun t => t.dev.mem = s.dev.mem) rfl (steadyBroken_mem _) (fun m st => answer_mem _ m st []) (hw s)

theorem Memory.wf_runSec {s : State} (k op : Nat) (fields role : MbxCmd → Bool) (buffer : MbxCmd → Nat × Nat)
    {work : State → MbxCmd → State} (h : Memory.wf s.dev.mem = true) (hw : ∀ m, Memory.wf (work s m).dev.mem = true) :
    Memory.wf (runSec s k op fields role buffer work).dev.mem = true :=
  runSec_keeps (P := fun t => Memory.wf t.dev.mem = true) h (by simpa using h) (fun m st => by simpa using h) hw
@[simp] theorem takeBlob_mem (s : State) (m : MbxCmd) (kindOk : Nat → Bool) {next : State → MbxCmd → State}
    (hn : ∀ s m, (next s m).dev.mem = s.dev.mem) : (takeBlob s m kindOk next).dev.mem = s.dev.mem := by
  unfold takeBlob; simp only; split
  · simp
  · split
    · simp
    · split
      · simp
      · simp [hn]
@[simp] theorem runSigned_mem (s : State) (k : Nat) : (runSigned s k).dev.mem = s.dev.mem := by simp [runSigned]
@[simp] theorem rotateKey_mem (s : State) (k : Nat) : (rotateKey s k).dev.mem = s.dev.mem := by
  unfold rotateKey
  repeat' split
  all_goals simp
@[simp] theorem beginInstall_mem (s : State) (m : MbxCmd) (x : FwImage) : (beginInstall s m x).dev.mem = s.dev.mem := by
  simp [beginInstall]
@[simp] theorem endInstall_mem (s : State) (m : MbxCmd) (x : FwImage) : (endInstall s m x).dev.mem = s.dev.mem := by
  simp [endInstall]
@[simp] theorem stopInstall_mem (s : State) : (stopInstall s).dev.mem = s.dev.mem := by simp [stopInstall]
@[simp] theorem checkInstall_mem (s : State) (k : Nat) : (checkInstall s k).dev.mem = s.dev.mem := by
  refine runSec_mem _ _ _ _ _ _ fun s m => ?_
  split
  · simp
  · split
    · simp
    · split
      · simp
      · split
        · simp
        · split <;> simp
@[simp] theorem installImage_mem (s : State) (k : Nat) : (installImage s k).dev.mem = s.dev.mem := by
  unfold installImage
  repeat' split
  all_goals simp
@[simp] theorem openDiag_mem (s : State) (m : MbxCmd) : (openDiag s m).dev.mem = s.dev.mem := by
  unfold openDiag
  simp only
  repeat' split
  all_goals simp
@[simp] theorem runDiag_mem (s : State) (k : Nat) : (runDiag s k).dev.mem = s.dev.mem := by
  unfold runDiag
  repeat' split
  all_goals simp
@[simp] theorem expireDiag_mem (s : State) : (expireDiag s).dev.mem = s.dev.mem := by
  unfold expireDiag
  split <;> simp
@[simp] theorem programFuses_mem (s : State) (m : MbxCmd) : (programFuses s m).dev.mem = s.dev.mem := by
  unfold programFuses
  split <;> simp
@[simp] theorem runFuse_mem (s : State) (k : Nat) : (runFuse s k).dev.mem = s.dev.mem := by
  unfold runFuse
  repeat' split
  all_goals simp
@[simp] theorem extendAnswer_mem (d : Dev) (l : List Byte) : (extendAnswer d l).mem = d.mem := by
  unfold extendAnswer
  split <;> simp
@[simp] theorem loadImage_mem (s : State) : (loadImage s).dev.mem = s.dev.mem := by
  unfold loadImage
  simp only
  repeat' split
  all_goals rfl
@[simp] theorem enterRecovery_mem (s : State) : (enterRecovery s).dev.mem = s.dev.mem := by simp [enterRecovery]
@[simp] theorem restartModule_mem (s : State) : (restartModule s).dev.mem = s.dev.mem := by
  unfold restartModule
  simp only
  repeat' split
  all_goals simp
@[simp] theorem recoveryPiece_mem (s : State) (data : List Byte) (src port : Nat) (dst : BitVec 128) :
    (recoveryPiece s data src port dst).dev.mem = s.dev.mem := by
  unfold recoveryPiece
  simp only
  repeat' split
  all_goals simp

/-! Power -/

@[simp] theorem stepClock_mem (d : Dev) : (stepClock d).mem = d.mem := by simp [stepClock, apply_ite Dev.mem]
@[simp] theorem meter_mem (d : Dev) (watts centivolts centiamps : Nat) : (meter d watts centivolts centiamps).mem = d.mem := by
  simp [meter]
@[simp] theorem lowerLimit_mem (d : Dev) (l : Nat) {put : Dev → Nat → Dev} (hp : ∀ d n, (put d n).mem = d.mem) :
    (lowerLimit d l put).mem = d.mem := by
  unfold lowerLimit; simp only; split
  · split <;> simp [hp]
  · exact hp _ _
@[simp] theorem raiseLimit_mem (d : Dev) (l m : Nat) {put : Dev → Nat → Dev} (hp : ∀ d n, (put d n).mem = d.mem) :
    (raiseLimit d l m put).mem = d.mem := by
  unfold raiseLimit; simp only; split
  · rfl
  · exact hp _ _
@[simp] theorem capStep_mem (d : Dev) (watts cv ca : Nat) : (capStep d watts cv ca).mem = d.mem := by
  simp [capStep, apply_ite Dev.mem]
@[simp] theorem admissionStep_mem (d : Dev) (watts cv ca : Nat) : (admissionStep d watts cv ca).mem = d.mem := by
  simp [admissionStep, apply_ite Dev.mem]
@[simp] theorem currentStep_mem (d : Dev) (watts cv ca : Nat) : (currentStep d watts cv ca).mem = d.mem := by
  simp [currentStep, apply_ite Dev.mem]
@[simp] theorem takeReading_mem (d : Dev) (n : Nat) (t : Option (BitVec 16)) : (takeReading d n t).mem = d.mem := by
  unfold takeReading
  split <;> simp
@[simp] theorem noteSwing_mem (d : Dev) : (noteSwing d).mem = d.mem := by
  unfold noteSwing
  repeat' split
  all_goals simp
@[simp] theorem sampleSensors_mem (d : Dev) (temps : List (Option (BitVec 16))) : (sampleSensors d temps).mem = d.mem := by
  simp [sampleSensors, apply_ite Dev.mem]
@[simp] theorem thermalStep_mem (d : Dev) : (thermalStep d).mem = d.mem := by simp [thermalStep, apply_ite Dev.mem]
@[simp] theorem secOff_mem (s : State) : (secOff s).dev.mem = s.dev.mem := by
  unfold secOff
  split <;> simp
@[simp] theorem setPins_mem (d : Dev) : (setPins d).mem = d.mem := by simp [setPins]
@[simp] theorem powerUp_mem (d : Dev) : (powerUp d).mem = d.mem := by simp [powerUp, apply_ite Dev.mem]
@[simp] theorem clearTrip_mem (d : Dev) : (clearTrip d).mem = d.mem := by simp [clearTrip, apply_ite Dev.mem]
@[simp] theorem releaseReset_mem (d : Dev) : (releaseReset d).mem = d.mem := by simp [releaseReset, apply_ite Dev.mem]
@[simp] theorem restoreStandby_mem (d : Dev) : (restoreStandby d).mem = d.mem := by
  unfold restoreStandby; split
  · rfl
  · rw [powerUp_mem, satF_mem, forEach_setF_mem]
@[simp] theorem enterGate_mem (d : Dev) (x : GatedUnit) : (enterGate d x).mem = d.mem := by
  unfold enterGate
  repeat' split
  all_goals simp
@[simp] theorem beginWork_mem (d : Dev) (k : FKey) : (beginWork d k).mem = d.mem := by simp [beginWork, apply_ite Dev.mem]
@[simp] theorem beginRack_mem (d : Dev) (u : RackId) : (beginRack d u).mem = d.mem := by simp [beginRack, apply_ite Dev.mem]
@[simp] theorem wakeUnit_mem (d : Dev) (x : GatedUnit) : (wakeUnit d x).mem = d.mem := by
  unfold wakeUnit
  simp only
  repeat' split
  all_goals simp
@[simp] theorem forceWork_mem (d : Dev) (b : Background) (left : Bool) : (forceWork d b left).mem = d.mem := by
  simp [forceWork, apply_ite Dev.mem]
@[simp] theorem noteWear_mem (d : Dev) : (noteWear d).mem = d.mem := by simp [noteWear, apply_ite Dev.mem]
@[simp] theorem saveWear_mem (d : Dev) : (saveWear d).mem = d.mem := by simp [saveWear, apply_ite Dev.mem]
@[simp] theorem readFru_mem (s : State) (off count : Nat) : (readFru s off count).dev.mem = s.dev.mem := by
  unfold readFru
  split <;> simp
@[simp] theorem tapLoad_mem (d : Dev) (ir : JtagInstr) (tdo : List Bool) : (tapLoad d ir tdo).mem = d.mem := by
  simp [tapLoad, apply_ite Dev.mem]
@[simp] theorem tapBypass_mem (d : Dev) : (tapBypass d).mem = d.mem := by simp [tapBypass]
@[simp] theorem tapIdcode_mem (d : Dev) : (tapIdcode d).mem = d.mem := by simp [tapIdcode]
@[simp] theorem tapSample_mem (d : Dev) (pins load : List Bool) : (tapSample d pins load).mem = d.mem := by
  simp [tapSample, apply_ite Dev.mem]
@[simp] theorem tapHold_mem (d : Dev) (ir : JtagInstr) : (tapHold d ir).mem = d.mem := by simp [tapHold]
@[simp] theorem tapExtest_mem (d : Dev) (drive : List Bool) : (tapExtest d drive).mem = d.mem := by
  simp [tapExtest, apply_ite Dev.mem]
@[simp] theorem changeLink_mem (d : Dev) (link fec : Bool) (routerPrefix : Option (BitVec 64)) :
    (changeLink d link fec routerPrefix).mem = d.mem := by simp [changeLink]

/-! Telemetry -/

@[simp] theorem countTicks_mem (n : Nat) (d e : Dev) : (countTicks n d e).mem = e.mem := by
  refine (forEach_mem (fun _ _ => ?_) _ _).trans (forEach_mem (fun _ _ => addF_mem ..) _ _)
  split <;> rfl
@[simp] theorem moveFtc_mem (d : Dev) : (moveFtc d).mem = d.mem := by simp [moveFtc]
@[simp] theorem tick_mem (d : Dev) : (tick d).mem = d.mem := by simp [tick, apply_ite Dev.mem]
@[simp] theorem passing_mem (f : Dev → Dev) (d : Dev) : (passing f d).mem = (f d).mem := by simp [passing]
@[simp] theorem passingAll_mem (f : State → State) (s : State) : (passingAll f s).dev.mem = (f s).dev.mem := by simp [passingAll]
@[simp] theorem idleStep_mem (s : State) : (idleStep s).dev.mem = s.dev.mem := by simp [idleStep]
@[simp] theorem dropTrace_mem (d : Dev) (p : Nat) : (dropTrace d p).mem = d.mem := by simp [dropTrace]
@[simp] theorem traceWrite_mem (d : Dev) (p v : Nat) : (traceWrite d p v).mem = d.mem := by simp [traceWrite, apply_ite Dev.mem]

/-! Registers -/

@[simp] theorem clearRc_mem (d : Dev) (r : Reg) : (clearRc d r).mem = d.mem := by simp [clearRc]
/-- The definition is unfolded as a function: evaluating `clusterBlock r` would count down from its base address. -/
theorem reachReg_keeps {P : Dev → Prop} {d : Dev} {r : Reg} (h : P d) (hc : ∀ c, P (reachCluster d c)) : P (reachReg d r) := by
  obtain ⟨f, hf⟩ : ∃ f, f = reachReg := ⟨_, rfl⟩
  rw [← hf]
  delta reachReg at hf
  rw [hf]
  beta_reduce
  generalize clusterBlock r = x
  cases x with
  | none => exact h
  | some c => exact hc c

@[simp] theorem reachReg_mem (d : Dev) (r : Reg) : (reachReg d r).mem = d.mem :=
  reachReg_keeps (P := fun e => e.mem = d.mem) rfl (reachCluster_mem d)
@[simp] theorem loadReg_mem (s : State) (who : Agent) (a : Nat) : (loadReg s who a).dev.mem = s.dev.mem := by
  unfold loadReg
  repeat' split
  all_goals simp
@[simp] theorem storeField_mem (d : Dev) (r : Reg) (v : Nat) (x : FieldDef) : (storeField d r v x).mem = d.mem := by
  unfold storeField
  repeat' split
  all_goals simp
@[simp] theorem plainStore_mem (d : Dev) (r : Reg) (v : Nat) : (plainStore d r v).mem = d.mem := by simp [plainStore]
@[simp] theorem noteDirect_mem (d : Dev) (who : Agent) (r : Reg) (v : Nat) : (noteDirect d who r v).mem = d.mem := by
  unfold noteDirect
  repeat' split
  all_goals simp
@[simp] theorem seqCtrlWrite_mem (d : Dev) (c v : Nat) : (seqCtrlWrite d c v).mem = d.mem := by
  simp [seqCtrlWrite, apply_ite Dev.mem]
@[simp] theorem closedWhile_mem (busy : Bool) (err : FKey) (d : Dev) {g : Dev → Dev} (hg : ∀ d, (g d).mem = d.mem) :
    (closedWhile busy err d g).mem = d.mem := by
  unfold closedWhile; split
  · rfl
  · exact hg d

/-! TileRows -/

theorem onDev_keeps {P : Dev → Prop} {f : Dev → Dev} {s : State} (h : P s.dev) (hf : P (f s.dev)) : P (onDev f s).dev := by
  unfold onDev; split
  · exact hf
  · exact h
theorem onMal_keeps {P : List Host.Cell → Prop} {f : Dev → Dev} {s : State} (h : P s.dev.mem) (hf : P (f s.dev).mem) :
    P (onMal f s).dev.mem := by
  unfold onMal; split
  · rw [withAudit_mem]; exact hf
  · exact h
theorem onSec_keeps {P : Dev → Prop} {f : State → State} {s : State} (h : P s.dev) (hf : P (f s).dev) : P (onSec f s).dev := by
  unfold onSec; split
  · exact hf
  · exact h
@[simp] theorem atCluster_mem (who : Agent) (c : Nat) {f : Dev → Dev} (hf : ∀ d, (f d).mem = d.mem) (d : Dev) :
    (atCluster who c f d).mem = d.mem := by
  unfold atCluster; split
  · simp [hf]
  · simp
theorem goVop_keeps {P : Dev → Prop} {go : Nat → Nat → Nat → Dev → Plan} {p c w : Nat} {d : Dev} (h : P d)
    (hg : P ((go p c w d).run ()).dev) : P ((goVop go p c w d).run ()).dev := by
  unfold goVop; split
  · exact h
  · exact hg
@[simp] theorem fpostHold_mem (d : Dev) (c : Nat) (e : Dev) : (fpostHold d c e).mem = e.mem := by
  unfold fpostHold; split
  · split <;> simp
  · rfl

/-! EngineRows -/

@[simp] theorem marchCommand_mem (who : Agent) (c v : Nat) (preserving : Bool) (d : Dev) :
    (marchCommand who c v preserving d).mem = d.mem := by simp [marchCommand, apply_ite Dev.mem]

end Sys2Proof.Machine
end

section
/-! The operations that write memory keep its canonical form (log entry 4), and with them every command does. -/

namespace Sys2Proof.Machine

/-! Ops -/

theorem Memory.wf_forEach {α : Type} {g : Dev → α → Dev} (hg : ∀ d a, Memory.wf d.mem = true → Memory.wf (g d a).mem = true)
    (l : List α) {d : Dev} (h : Memory.wf d.mem = true) : Memory.wf (forEach l d g).mem = true :=
  forEach_keeps (P := fun d => Memory.wf d.mem = true) hg l d h

@[simp] theorem Memory.wf_ite {b : Prop} [Decidable b] {x y : Dev} (hx : Memory.wf x.mem = true) (hy : Memory.wf y.mem = true) :
    Memory.wf (if b then x else y).mem = true := by split <;> assumption

/-! Operands -/

@[simp] theorem Memory.wf_engineStore {d : Dev} (p a : Nat) (bs : List Byte) (h : Memory.wf d.mem = true) :
    Memory.wf (engineStore d p a bs).mem = true := by
  unfold engineStore
  split <;> simp [h, Memory.wf_engineWrite]

/-! Banks -/

@[simp] theorem Memory.wf_freeBanks {d : Dev} (c : Nat) (h : Memory.wf d.mem = true) :
    Memory.wf (freeBanks d c).mem = true := by
  rw [freeBanks, modCluster_mem, forEach_mem (fun _ _ => by simp)]
  exact Memory.wf_memZero _ _ h
@[simp] theorem Memory.wf_spadWrite {d : Dev} (who : Agent) (c off : Nat) (f : Byte → Byte → Byte) (data : Word) (be : BitVec 8)
    (h : Memory.wf d.mem = true) :
    Memory.wf (spadWrite d who c off f data be).mem = true := by
  unfold spadWrite; split
  · simpa using h
  · split
    · simpa using h
    · split
      · simpa using h
      · exact Memory.wf_applyBytes _ _ _ _ _ h
@[simp] theorem Memory.wf_aliasWrite {d : Dev} (who : Agent) (base a : Nat) (f : Byte → Byte → Byte) (data : Word) (be : BitVec 8)
    (h : Memory.wf d.mem = true) :
    Memory.wf (aliasWrite d who base a f data be).mem = true := by
  unfold aliasWrite
  split <;> simp [h]
theorem Memory.wf_foldl_memPut {α : Type} (a : α → Nat) (b : α → Byte) (l : List α) {m : List Host.Cell} (h : Memory.wf m = true) :
    Memory.wf (l.foldl (fun m x => memPut m (a x) (b x)) m) = true := by
  induction l generalizing m with
  | nil => exact h
  | cons x r ih => exact ih (Memory.wf_memPut _ _ h)

@[simp] theorem Memory.wf_loseWord {d : Dev} (c b w : Nat) (h : Memory.wf d.mem = true) : Memory.wf (loseWord d c b w).mem = true := by
  unfold loseWord
  generalize 64 = n
  exact Memory.wf_foldl_memPut _ _ _ h
@[simp] theorem Memory.wf_bankError {d : Dev} (c b w : Nat) (found : Found) (h : Memory.wf d.mem = true) :
    Memory.wf (bankError d c b w found).mem = true := by
  unfold bankError
  split <;> simp [h]
@[simp] theorem Memory.wf_wordErrors {d : Dev} (l : List WordFound) (h : Memory.wf d.mem = true) :
    Memory.wf (wordErrors d l).mem = true := Memory.wf_forEach (fun _ _ => Memory.wf_bankError _ _ _ _) l h
@[simp] theorem Memory.wf_completeMarch {d : Dev} (c : Nat) (fails : List MarchFail) (final : List WordFound) (waited : Nat)
    (h : Memory.wf d.mem = true) :
    Memory.wf (completeMarch d c fails final waited).mem = true := by
  unfold completeMarch; split
  · exact h
  · extract_lets e e1 e2 e3 e4
    have he : Memory.wf e4.mem = true := by
      have h0 : e.mem = d.mem := by simp only [e]; split <;> simp
      simpa [e4, e3, e2, e1, h0] using h
    split
    · rw [bankHold_mem]; exact Memory.wf_wordErrors _ he
    · exact Memory.wf_forEach (fun _ _ hx => Memory.wf_memZero _ _ hx) _ he

/-! Matrix -/

@[simp] theorem Memory.wf_goMmaOn {d : Dev} (errors : List WordFound) (p c w : Nat) (h : Memory.wf d.mem = true) :
    Memory.wf ((goMmaOn errors p c w d).run ()).dev.mem = true := by simp [goMmaOn, h]
@[simp] theorem Memory.wf_goMma {d : Dev} (n n' n'' : Nat) (h : Memory.wf d.mem = true) :
    Memory.wf ((goMma n n' n'' d).run ()).dev.mem = true := by simp [goMma, h]
@[simp] theorem Memory.wf_goAdrn {d : Dev} (p c w : Nat) (h : Memory.wf d.mem = true) :
    Memory.wf ((goAdrn p c w d).run ()).dev.mem = true := by
  have ht (t : Desc) (code : Nat × Nat → Nat) (l : List (Nat × Nat)) :
      Memory.wf (forEach l d (fun e x => tilePut e p t x.1 x.2 (code x))).mem = true :=
    Memory.wf_forEach (fun _ _ => Memory.wf_tilePut _ _ _ _ _) l h
  simp only [goAdrn, End.dev_queued, intoAcc_mem, apply_ite Dev.mem, setF_mem, ite_self]
  rw [forEach_mem (fun _ _ => noteOutOfWindow_mem ..)]
  exact ht _ _ _
@[simp] theorem Memory.wf_putQ8lLine {d : Dev} (p : Nat) (t : Desc) (n : Nat) (ys : List Val) (k : Nat) (h : Memory.wf d.mem = true) :
    Memory.wf (putQ8lLine d p t n ys k).1.mem = true := by
  induction k with
  | zero => exact h
  | succ k ih => exact Memory.wf_putLine p t n _ _ ih
@[simp] theorem Memory.wf_putQ8l {d : Dev} (p : Nat) (t : Desc) (v : Nat → Nat → Val) (h : Memory.wf d.mem = true) :
    Memory.wf (putQ8l d p t v).1.mem = true :=
  List.foldlRecOn (motive := fun x : Dev × Bool => Memory.wf x.1.mem = true) _ _ h
    (fun _ hx _ _ => Memory.wf_putQ8lLine _ _ _ _ _ hx)
@[simp] theorem Memory.wf_moveEffect {d : Dev} (p : Nat) (m : MoveOp) (h : Memory.wf d.mem = true) :
    Memory.wf (moveEffect d p m).1.mem = true := by
  have ht (t : Desc) (code : Nat × Nat → Nat) (l : List (Nat × Nat)) :
      Memory.wf (forEach l d (fun e x => tilePut e p t x.1 x.2 (code x))).mem = true :=
    Memory.wf_forEach (fun _ _ => Memory.wf_tilePut _ _ _ _ _) l h
  simp only [moveEffect]; split
  · split
    · exact Memory.wf_forEach (fun _ _ => Memory.wf_putLine _ _ _ _ _) _ h
    · exact ht _ _ _
  · split
    · exact Memory.wf_putQ8l _ _ _ h
    · split
      · exact h
      · exact ht _ _ _
@[simp] theorem Memory.wf_applyAdd {d : Dev} (p : Nat) (a : AddOp) (h : Memory.wf d.mem = true) :
    Memory.wf (applyAdd d p a).1.mem = true := by
  have hp (l : List (Byte × Nat)) : Memory.wf (l.foldl (fun d b => agentPut d p (a.addr + b.2) b.1) d).mem = true :=
    Memory.wf_forEach (fun _ _ => Memory.wf_agentPut p _ _) l h
  unfold applyAdd
  extract_lets w r e
  have he : Memory.wf e.mem = true := by simpa only [e, noteWrite_mem] using hp _
  split
  · simp only; split
    · simpa using he
    · exact he
  · exact he
@[simp] theorem Memory.wf_arriveAdd {d : Dev} (c i k : Nat) (h : Memory.wf d.mem = true) :
    Memory.wf (arriveAdd d c i k).mem = true := by
  unfold arriveAdd
  repeat' split
  all_goals simp [h]
@[simp] theorem Memory.wf_completeMover {d : Dev} (c i : Nat) (h : Memory.wf d.mem = true) :
    Memory.wf (completeMover d c i).mem = true := by
  unfold completeMover; split
  · next n j p _ _ =>
    split
    · next m _ =>
      split
      · simpa using h
      · have hm : Memory.wf (moveEffect d p m).1.mem = true := Memory.wf_moveEffect p m h
        extract_lets r e e' e''
        have he : e''.mem = (moveEffect d p m).1.mem := by
          simp only [e'', forEach_mem (fun _ _ => deniedWrite_mem ..), e']
          split <;> simp [e, r]
        rw [finishJob_mem, he]
        exact hm
    · split
      · simpa using h
      · rw [finishJob_mem]
        exact List.foldlRecOn (motive := fun x : Dev × Bool => Memory.wf x.1.mem = true) _ _ h
          (fun _ hx _ _ => Memory.wf_applyAdd _ _ hx)
  · exact h

/-! Fabric -/

@[simp] theorem Memory.wf_writeStatus {d : Dev} (k : Coll) (steps status : Nat) (h : Memory.wf d.mem = true) :
    Memory.wf (writeStatus d k steps status).mem = true := by simp [writeStatus, h, Memory.wf_engineWrite]
@[simp] theorem Memory.wf_resolveColl {d : Dev} (k : Coll) (steps status : Nat) (h : Memory.wf d.mem = true) :
    Memory.wf (resolveColl d k steps status).mem = true := by
  unfold resolveColl
  split <;> simp [h]
@[simp] theorem Memory.wf_abortColls {d : Dev} (p : Nat) (h : Memory.wf d.mem = true) :
    Memory.wf (abortColls d p).mem = true := Memory.wf_forEach (fun _ k => Memory.wf_resolveColl k _ 3) _ h
@[simp] theorem Memory.wf_sliceFault {d : Dev} (p cause : Nat) (h : Memory.wf d.mem = true) :
    Memory.wf (sliceFault d p cause).mem = true := by
  unfold sliceFault
  split <;> simp [h]
@[simp] theorem Memory.wf_faultMessage {d : Dev} (n : Nat) (h : Memory.wf d.mem = true) :
    Memory.wf (faultMessage d n).mem = true := by
  unfold faultMessage; split
  · next m e he => exact Memory.wf_sliceFault _ _ (takeSb_mem he ▸ h)
  · exact h
@[simp] theorem Memory.wf_setPortState {d : Dev} (n st : Nat) (h : Memory.wf d.mem = true) :
    Memory.wf (setPortState d n st).mem = true := by
  unfold setPortState
  extract_lets was e f g
  split
  · exact h
  · have hf : Memory.wf f.mem = true := by simpa [f, e] using h
    have hg : Memory.wf g.mem = true := by
      simp only [g]; split
      · exact Memory.wf_forEach (fun _ p => Memory.wf_sliceFault p _) _ hf
      · exact hf
    rw [chooseParent_mem]
    exact hg
@[simp] theorem Memory.wf_discover {d : Dev} (n : Nat) (h : Memory.wf d.mem = true) :
    Memory.wf (discover d n).mem = true := by
  have hs (k st : Nat) : Memory.wf (setPortState (setF d (F.fabPort_disc n) k) n st).mem = true := Memory.wf_setPortState n st h
  unfold discover; split
  · exact h
  · split
    · exact hs 4 7
    · split
      · exact hs 1 4
      · exact hs 3 6
@[simp] theorem Memory.wf_identMessage {d : Dev} (n : Nat) (h : Memory.wf d.mem = true) :
    Memory.wf (identMessage d n).mem = true := by
  unfold identMessage; split
  · next m e he =>
    have hm : Memory.wf e.mem = true := takeSb_mem he ▸ h
    simp only; split
    · exact Memory.wf_discover n (by simpa using hm)
    · simpa using hm
  · exact h
@[simp] theorem Memory.wf_firstSignal {d : Dev} (n : Nat) (h : Memory.wf d.mem = true) : Memory.wf (firstSignal d n).mem = true := by
  unfold firstSignal
  repeat' split
  all_goals simp [h]
@[simp] theorem Memory.wf_completeTraining {d : Dev} (n mask : Nat) (h : Memory.wf d.mem = true) :
    Memory.wf (completeTraining d n mask).mem = true := by
  unfold completeTraining
  simp only
  repeat' split
  all_goals simp [h]
@[simp] theorem Memory.wf_beginRetrain {d : Dev} (n : Nat) (h : Memory.wf d.mem = true) :
    Memory.wf (beginRetrain d n).mem = true := by
  simpa [beginRetrain] using Memory.wf_setPortState n 5 h
@[simp] theorem Memory.wf_failLane {d : Dev} (n lane : Nat) (h : Memory.wf d.mem = true) :
    Memory.wf (failLane d n lane).mem = true := by
  unfold failLane
  split <;> simp [h]
@[simp] theorem Memory.wf_completeRetrain {d : Dev} (n mask : Nat) (h : Memory.wf d.mem = true) :
    Memory.wf (completeRetrain d n mask).mem = true := by
  unfold completeRetrain
  simp only
  repeat' split
  all_goals simp [h]
@[simp] theorem Memory.wf_recheckPort {d : Dev} (n : Nat) (h : Memory.wf d.mem = true) :
    Memory.wf (recheckPort d n).mem = true := by
  unfold recheckPort; split
  · exact Memory.wf_discover n h
  · split
    · exact Memory.wf_setPortState n 1 h
    · split
      · exact Memory.wf_setPortState n 0 h
      · exact h
@[simp] theorem Memory.wf_recheckPorts {d : Dev} (coordCommitted : Bool) (h : Memory.wf d.mem = true) :
    Memory.wf (recheckPorts d coordCommitted).mem = true := by
  unfold recheckPorts
  extract_lets first e f
  have hf : Memory.wf f.mem = true := by simp only [f]; split <;> simpa using h
  rw [chooseParent_mem]
  exact Memory.wf_forEach (fun _ n => Memory.wf_recheckPort n) _ hf
@[simp] theorem Memory.wf_receiveControl {d : Dev} (n : Nat) (l : List Byte) (tRx : Nat) (h : Memory.wf d.mem = true) :
    Memory.wf (receiveControl d n l tRx).mem = true := by
  unfold receiveControl
  simp only
  repeat' split
  all_goals simp [h]

/-! Vector -/

/-- A list of results keeps what each write of one keeps. -/
theorem writeResults_keeps {α : Type} {P : List Host.Cell → Prop} {d : Dev} {bad : Nat → Bool} {m : Nat} {xs : List α}
    {put : Dev → (Nat → Nat → Dev) → α → Dev × Bool} (h : P d.mem) (hp : ∀ e v x, P e.mem → P (put e v x).1.mem) :
    P (writeResults d bad m xs put).1.mem := by
  refine List.foldlRecOn (motive := fun x : Dev × Bool => P x.1.mem) _ _ ?_ (fun x hx y _ => hp _ _ _ hx)
  dsimp only
  split <;> exact h

/-- The function of an instruction whose run keeps memory in its canonical form. -/
def RunKeepsWf (go : Nat → Nat → Nat → Dev → Plan) : Prop :=
  ∀ p c w d, Memory.wf d.mem = true → Memory.wf ((go p c w d).run ()).dev.mem = true

theorem RunKeepsWf.goVop {go : Nat → Nat → Nat → Dev → Plan} (hg : RunKeepsWf go) : RunKeepsWf (goVop go) :=
  fun p c w d h => goVop_keeps (P := fun e => Memory.wf e.mem = true) h (hg p c w d h)

theorem RunKeepsWf.tileStep {go : Nat → Nat → Nat → Dev → Plan} (hg : RunKeepsWf go) (op : Nat) (sel : Nat → Bool) (c : Nat) {d : Dev}
    (h : Memory.wf d.mem = true) : Memory.wf (tileStep op sel go c d).mem = true :=
  tileStep_keeps (P := fun m => Memory.wf m = true) h (fun p => hg p c)

theorem RunKeepsWf.vopStep {go : Nat → Nat → Nat → Dev → Plan} (hg : RunKeepsWf go) (fn c : Nat) {d : Dev}
    (h : Memory.wf d.mem = true) : Memory.wf (vopStep fn go c d).mem = true := hg.goVop.tileStep _ _ c h
@[simp] theorem Memory.wf_writeCodes {d : Dev} (p : Nat) (t : Desc) (rows cols : Nat) (bad : Nat → Bool) (sel : Dev → Nat → Nat → Bool)
    (code : (Nat → Dev) → Nat → Nat → Nat × Bool) (h : Memory.wf d.mem = true) :
    Memory.wf (writeCodes d p t rows cols bad sel code).1.mem = true := by
  refine writeResults_keeps (P := fun m => Memory.wf m = true) h fun e v x he => ?_
  split
  · exact Memory.wf_tilePut p t _ _ _ he
  · exact he
@[simp] theorem Memory.wf_writeBlocks {d : Dev} (p : Nat) (t : Desc) (bad : Nat → Bool) (sel : Dev → Nat → Nat → Bool)
    (val : (Nat → Dev) → Nat → Nat → Val) (h : Memory.wf d.mem = true) : Memory.wf (writeBlocks d p t bad sel val).1.mem = true := by
  refine writeResults_keeps (P := fun m => Memory.wf m = true) h fun e v x he => ?_
  extract_lets pos chosen b
  split
  · exact Memory.wf_putLine p t _ _ _ he
  · exact he
@[simp] theorem Memory.wf_goArith {d : Dev} (nsrc : Nat) (op : List Val → Val) (p c w : Nat) (h : Memory.wf d.mem = true) :
    Memory.wf ((goArith nsrc op p c w d).run ()).dev.mem = true := by
  rw [goArith, issueVop_run_mem]
  exact Memory.wf_writeCodes _ _ _ _ _ _ _ h
@[simp] theorem Memory.wf_goVadd {d : Dev} (p c w : Nat) (h : Memory.wf d.mem = true) :
    Memory.wf ((goVadd p c w d).run ()).dev.mem = true := by simp [goVadd, h]
@[simp] theorem Memory.wf_goVmul {d : Dev} (p c w : Nat) (h : Memory.wf d.mem = true) :
    Memory.wf ((goVmul p c w d).run ()).dev.mem = true := by simp [goVmul, h]
@[simp] theorem Memory.wf_goVmin {d : Dev} (p c w : Nat) (h : Memory.wf d.mem = true) :
    Memory.wf ((goVmin p c w d).run ()).dev.mem = true := by simp [goVmin, h]
@[simp] theorem Memory.wf_goVmax {d : Dev} (p c w : Nat) (h : Memory.wf d.mem = true) :
    Memory.wf ((goVmax p c w d).run ()).dev.mem = true := by simp [goVmax, h]
@[simp] theorem Memory.wf_goVfma {d : Dev} (p c w : Nat) (h : Memory.wf d.mem = true) :
    Memory.wf ((goVfma p c w d).run ()).dev.mem = true := by simp [goVfma, h]
@[simp] theorem Memory.wf_goVfmas {d : Dev} (p c w : Nat) (h : Memory.wf d.mem = true) :
    Memory.wf ((goVfmas p c w d).run ()).dev.mem = true := by simp [goVfmas, h]
@[simp] theorem Memory.wf_goVcmp {d : Dev} (p c w : Nat) (h : Memory.wf d.mem = true) :
    Memory.wf ((goVcmp p c w d).run ()).dev.mem = true := by
  rw [goVcmp, issueVop_run_mem]
  exact writeResults_keeps (P := fun m => Memory.wf m = true) h (fun _ _ _ he => Memory.wf_tilePut _ _ _ _ _ he)
@[simp] theorem Memory.wf_goVsel {d : Dev} (p c w : Nat) (h : Memory.wf d.mem = true) :
    Memory.wf ((goVsel p c w d).run ()).dev.mem = true := by
  rw [goVsel, issueVop_run_mem]
  split
  · exact Memory.wf_writeBlocks _ _ _ _ _ h
  · exact Memory.wf_writeCodes _ _ _ _ _ _ _ h
@[simp] theorem Memory.wf_goVcvt {d : Dev} (p c w : Nat) (h : Memory.wf d.mem = true) :
    Memory.wf ((goVcvt p c w d).run ()).dev.mem = true := by
  have hk (s : Nat) (a b : Desc) : Memory.wf (keepScale d c s a b).mem = true := by simpa using h
  rw [goVcvt, issueVop_run_mem]
  split
  · exact Memory.wf_writeCodes _ _ _ _ _ _ _ (hk _ _ _)
  · exact Memory.wf_writeBlocks _ _ _ _ _ (hk _ _ _)
@[simp] theorem Memory.wf_goVmask {d : Dev} (p c w : Nat) (h : Memory.wf d.mem = true) :
    Memory.wf ((goVmask p c w d).run ()).dev.mem = true := by
  rw [goVmask, issueVop_run_mem]
  exact Memory.wf_writeCodes _ _ _ _ _ _ _ h
@[simp] theorem Memory.wf_goVcompress {d : Dev} (p c w : Nat) (h : Memory.wf d.mem = true) :
    Memory.wf ((goVcompress p c w d).run ()).dev.mem = true := by
  rw [goVcompress, issueVop_run_mem]
  have hr (vd vm : Desc) (rows cols : Nat) : Memory.wf (chosenBy d p vd vm rows cols).2.mem = true := by simpa using h
  simp only [apply_ite Dev.mem, setF_mem, ite_self]
  exact writeResults_keeps (P := fun m => Memory.wf m = true) (hr _ _ _ _) (fun _ _ _ he => Memory.wf_tilePut _ _ _ _ _ he)
@[simp] theorem Memory.wf_goVexpand {d : Dev} (p c w : Nat) (h : Memory.wf d.mem = true) :
    Memory.wf ((goVexpand p c w d).run ()).dev.mem = true := by
  rw [goVexpand, issueVop_run_mem]
  have hw {bad : Nat → Bool} {m : Nat} {xs : List ((Nat × Nat) × Nat)} {t : Desc}
      {q : Dev → (Nat → Nat → Dev) → (Nat × Nat) × Nat → Nat} {e : Dev}
      (he : Memory.wf e.mem = true) := writeResults_keeps (P := fun m => Memory.wf m = true) (bad := bad) (m := m) (xs := xs)
        (put := fun e v x => (tilePut e p t x.1.1 x.1.2 (q e v x), false)) he (fun _ _ _ he => Memory.wf_tilePut _ _ _ _ _ he)
  have hr (vd vm : Desc) (rows cols : Nat) : Memory.wf (chosenBy d p vd vm rows cols).2.mem = true := by simpa using h
  simp only [apply_ite Dev.mem, setF_mem, ite_self]
  exact hw (hr _ _ _ _)
@[simp] theorem Memory.wf_goVrng {d : Dev} (p c w : Nat) (h : Memory.wf d.mem = true) :
    Memory.wf ((goVrng p c w d).run ()).dev.mem = true := by
  unfold goVrng
  extract_lets o dist rd ms seed gyle
  split
  · rw [issueVop_run_mem]
    exact writeResults_keeps (P := fun m => Memory.wf m = true) h (fun _ _ _ he => Memory.wf_tilePut _ _ _ _ _ he)
  · rw [issueVop_run_mem]; exact Memory.wf_writeCodes _ _ _ _ _ _ _ h
@[simp] theorem Memory.wf_goVseq {d : Dev} (p c w : Nat) (h : Memory.wf d.mem = true) :
    Memory.wf ((goVseq p c w d).run ()).dev.mem = true := by
  rw [goVseq, issueVop_run_mem]
  exact Memory.wf_writeCodes _ _ _ _ _ _ _ h
@[simp] theorem Memory.wf_goVred {d : Dev} (isMax : Bool) (p c w : Nat) (h : Memory.wf d.mem = true) :
    Memory.wf ((goVred isMax p c w d).run ()).dev.mem = true := by
  rw [goVred, issueVop_run_mem]
  exact writeResults_keeps (P := fun m => Memory.wf m = true) h
    (fun _ _ _ he => Memory.wf_tilePut _ _ _ _ _ (Memory.wf_tilePut _ _ _ _ _ he))
@[simp] theorem Memory.wf_goVredmax {d : Dev} (p c w : Nat) (h : Memory.wf d.mem = true) :
    Memory.wf ((goVredmax p c w d).run ()).dev.mem = true := by simp [goVredmax, h]
@[simp] theorem Memory.wf_goVredmin {d : Dev} (p c w : Nat) (h : Memory.wf d.mem = true) :
    Memory.wf ((goVredmin p c w d).run ()).dev.mem = true := by simp [goVredmin, h]

/-! Collective -/

@[simp] theorem Memory.wf_startColl {d : Dev} (k : Coll) (h : Memory.wf d.mem = true) : Memory.wf (startColl d k).mem = true := by
  unfold startColl
  simp only
  repeat' split
  all_goals simp [h, Memory.wf_engineWrite]
@[simp] theorem Memory.wf_runHeld {d : Dev} (p : Nat) (h : Memory.wf d.mem = true) :
    Memory.wf (runHeld d p).mem = true := Memory.wf_forEach (fun _ k => Memory.wf_startColl k) _ h
@[simp] theorem Memory.wf_applyEpoch {d : Dev} (p : Nat) (h : Memory.wf d.mem = true) : Memory.wf (applyEpoch d p).mem = true := by
  simp [applyEpoch, h]
@[simp] theorem Memory.wf_postColl {d : Dev} (p c w a : Nat) (h : Memory.wf d.mem = true) :
    Memory.wf (postColl d p c w a).dev.mem = true := by
  unfold postColl
  extract_lets ws k refuse cur i k' e j e'
  have hr (s : Nat) : Memory.wf (refuse s).dev.mem = true := by
    have hd : Memory.wf (if s = 0x12 then denyFirst d p (k.extents d) else d).mem = true := by split <;> simpa using h
    simp only [refuse, End.dev_done, raise_mem]
    generalize (if s = 0x12 then denyFirst d p (k.extents d) else d) = e at hd ⊢
    split
    · rw [postMask_mem]; exact Memory.wf_writeStatus _ _ _ hd
    · exact Memory.wf_writeStatus _ _ _ hd
  have he : Memory.wf e'.mem = true := by simpa [e', j, e] using h
  split
  · exact hr _
  · split
    · rw [End.dev_queued]; split
      · exact Memory.wf_startColl _ he
      · exact he
    · exact hr _
@[simp] theorem Memory.wf_goFpost {d : Dev} (p c w : Nat) (h : Memory.wf d.mem = true) :
    Memory.wf ((goFpost p c w d).run ()).dev.mem = true := Memory.wf_postColl p c w _ (by simpa using h)
@[simp] theorem Memory.wf_mismatch {d : Dev} (k : Coll) (h : Memory.wf d.mem = true) : Memory.wf (mismatch d k).mem = true := by
  simp [mismatch, h]
@[simp] theorem Memory.wf_collMessage {d : Dev} (n vc : Nat) (h : Memory.wf d.mem = true) :
    Memory.wf (collMessage d n vc).mem = true := by
  unfold collMessage; split
  · exact h
  · next m e he =>
    have hm : Memory.wf e.mem = true := takeMsg_mem he ▸ h
    split
    · exact h
    · split
      · exact Memory.wf_mismatch _ hm
      · split <;> simpa using hm
@[simp] theorem Memory.wf_abortMessage {d : Dev} (n vc : Nat) (h : Memory.wf d.mem = true) :
    Memory.wf (abortMessage d n vc).mem = true := by
  unfold abortMessage; split
  · exact h
  · next m e he =>
    have hm : Memory.wf e.mem = true := takeMsg_mem he ▸ h
    split
    · exact Memory.wf_resolveColl _ _ _ hm
    · exact h
@[simp] theorem Memory.wf_ringStep {d : Dev} (p i : Nat) (h : Memory.wf d.mem = true) : Memory.wf (ringStep d p i).mem = true := by
  unfold ringStep
  simp only
  repeat' split
  all_goals simp [h, Memory.wf_engineWrite]
@[simp] theorem Memory.wf_completeColl {d : Dev} (p i : Nat) (h : Memory.wf d.mem = true) :
    Memory.wf (completeColl d p i).mem = true := by
  unfold completeColl
  simp only
  repeat' split
  all_goals simp [h, Memory.wf_engineWrite]

/-! Service -/

@[simp] theorem Memory.wf_svcFinish {d : Dev} (p s : Nat) (e : SvcEntry) (status : Nat) (h : Memory.wf d.mem = true) :
    Memory.wf (svcFinish d p s e status).mem = true := by
  unfold svcFinish
  simp only
  repeat' split
  all_goals simp [h, Memory.wf_engineWrite]
@[simp] theorem Memory.wf_svcAbort {d : Dev} (p s : Nat) (h : Memory.wf d.mem = true) :
    Memory.wf (svcAbort d p s).mem = true := Memory.wf_forEach (fun _ e => Memory.wf_svcFinish p s e 0x16) _ h
@[simp] theorem Memory.wf_svcRingWrite {d : Dev} (p s : Nat) (recv : Bool) (v : Nat) (h : Memory.wf d.mem = true) :
    Memory.wf (svcRingWrite d p s recv v).mem = true := by
  unfold svcRingWrite
  simp only
  repeat' split
  all_goals simp [h]
@[simp] theorem Memory.wf_svcDisable {d : Dev} (p : Nat) (h : Memory.wf d.mem = true) :
    Memory.wf (svcDisable d p).mem = true := by
  refine Memory.wf_forEach (fun d s hd => ?_) _ h
  extract_lets off
  have ho (d : Dev) (recv : Bool) : (off d recv).mem = d.mem := by simp only [off]; split <;> rfl
  rw [ho]
  exact Memory.wf_svcAbort p s (by rw [ho]; exact hd)
@[simp] theorem Memory.wf_qpError {d : Dev} (p s q : Nat) (h : Memory.wf d.mem = true) : Memory.wf (qpError d p s q).mem = true := by
  unfold qpError
  split <;> simp [h]
@[simp] theorem Memory.wf_svcComplete {d : Dev} (p s i : Nat) (res : WorkResult) (h : Memory.wf d.mem = true) :
    Memory.wf (svcComplete d p s i res).mem = true := by
  unfold svcComplete
  simp only
  repeat' split
  all_goals simp [h, Memory.wf_engineWrite]
@[simp] theorem Memory.wf_fillRecv {d : Dev} (p s n imm : Nat) (h : Memory.wf d.mem = true) :
    Memory.wf (fillRecv d p s n imm).mem = true := by simp [fillRecv, h, Memory.wf_engineWrite]
@[simp] theorem Memory.wf_deliver {d : Dev} (p s qp imm : Nat) (data : List Byte) (answers : Bool) (h : Memory.wf d.mem = true) :
    Memory.wf (deliver d p s qp imm data answers).mem = true := by
  unfold deliver
  repeat' split
  all_goals simp [h, Memory.wf_engineWrite]
@[simp] theorem Memory.wf_svcReceive {d : Dev} (s : Nat) (m : ServicePacket) (h : Memory.wf d.mem = true) :
    Memory.wf (svcReceive d s m).mem = true := by
  cases m with
  | unsupported p qp => simpa [svcReceive] using h
  | marked p qp => simpa [svcReceive] using h
  | notified p qp => exact h
  | udp p port data =>
    simp only [svcReceive]; split
    · exact Memory.wf_deliver _ _ _ _ _ _ h
    · exact h
  | send p qp imm data =>
    simp only [svcReceive]; split
    · exact Memory.wf_deliver _ _ _ _ _ _ h
    · simpa using h
  | rdmaWrite p qp key a imm data =>
    have hw : Memory.wf (engineWrite d p a.toNat data).mem = true := Memory.wf_engineWrite _ _ _ h
    refine keyed_keeps (P := fun m => Memory.wf m = true) h ?_
    split
    · simpa using hw
    · split
      · simpa using h
      · split
        · simpa using h
        · rw [svcAck_mem]; exact Memory.wf_fillRecv _ _ _ _ hw
  | rdmaRead p qp key a len => exact keyed_keeps (P := fun m => Memory.wf m = true) h (by simpa using h)

/-! Pool -/

@[simp] theorem Memory.wf_placePage {d : Dev} (k : PageKey) (t : Tier) (f : Nat) (h : Memory.wf d.mem = true) :
    Memory.wf (placePage d k t f).mem = true := by
  unfold placePage
  split <;> simp [h, Memory.wf_copyFrame]
@[simp] theorem Memory.wf_endEvict {d : Dev} (k : PageKey) (f : Nat) (h : Memory.wf d.mem = true) :
    Memory.wf (endEvict d k f).mem = true := by simp [endEvict, h]
theorem Memory.wf_evictNow {d e : Dev} {p : Nat} (he : evictNow d p = some e) (h : Memory.wf d.mem = true) : Memory.wf e.mem = true := by
  unfold evictNow at he
  split at he
  · split at he
    · cases he; exact Memory.wf_endEvict _ _ h
    · cases he
  · cases he
theorem Memory.wf_roomHbm {d e : Dev} {p n : Nat} (he : roomHbm d p n = some e) (h : Memory.wf d.mem = true) : Memory.wf e.mem = true := by
  induction n generalizing d with
  | zero => cases he
  | succ n ih =>
    simp only [roomHbm] at he
    split at he
    · cases he; exact h
    · split at he
      · next x hx => exact ih he (Memory.wf_evictNow hx h)
      · cases he
theorem Memory.wf_makeRoom {d e : Dev} {p : Nat} (he : makeRoom d p = some e) (h : Memory.wf d.mem = true) : Memory.wf e.mem = true := by
  unfold makeRoom at he
  split at he
  · cases he
  · exact Memory.wf_roomHbm he h
theorem Memory.wf_mapPage {d e : Dev} {p : Nat} {w : Tier} {v obj : Nat} {pin : Bool} (he : mapPage d p w v obj pin = some e)
    (h : Memory.wf d.mem = true) : Memory.wf e.mem = true := by
  cases w with
  | hbm =>
    simp only [mapPage] at he
    split at he
    · next x hx =>
      obtain ⟨f, -, rfl⟩ := Option.map_eq_some_iff.1 he
      exact Memory.wf_zeroFrame _ _ (Memory.wf_makeRoom hx h)
    · cases he
  | cellar =>
    simp only [mapPage] at he
    split at he
    · obtain ⟨f, -, rfl⟩ := Option.map_eq_some_iff.1 he
      exact Memory.wf_zeroFrame _ _ h
    · cases he
theorem Memory.wf_beginBring {d e : Dev} {p v : Nat} {deadline : Option Nat} (he : beginBring d p v deadline = some e)
    (h : Memory.wf d.mem = true) : Memory.wf e.mem = true := by
  unfold beginBring at he
  split at he
  · next x hx =>
    have hm := Memory.wf_makeRoom hx h
    obtain ⟨f, -, rfl⟩ := Option.map_eq_some_iff.1 he
    exact hm
  · cases he
@[simp] theorem Memory.wf_arrivePage {d : Dev} (k : PageKey) (f : Nat) (deadline : Option Nat) (h : Memory.wf d.mem = true) :
    Memory.wf (arrivePage d k f deadline).mem = true := by
  unfold arrivePage
  simp only
  repeat' split
  all_goals simp [h]
@[simp] theorem Memory.wf_swapPages {d : Dev} (k u : PageKey) (h : Memory.wf d.mem = true) :
    Memory.wf (swapPages d k u).mem = true := by
  unfold swapPages
  split <;> simp [h, Memory.wf_memLoad]
@[simp] theorem Memory.wf_endMove {d : Dev} (k : PageKey) (h : Memory.wf d.mem = true) : Memory.wf (endMove d k).mem = true := by
  unfold endMove
  repeat' split
  all_goals simp [h]
theorem Memory.wf_prefetchPage {d e : Dev} {p deadline : Nat} {w : Tier} {v : Nat} (he : prefetchPage p deadline w d v = .ok e)
    (h : Memory.wf d.mem = true) : Memory.wf e.mem = true := by
  unfold prefetchPage at he
  split at he
  · simp only at he
    split at he
    · cases he; exact h
    · split at he
      · next x hx => cases he; exact Memory.wf_beginBring hx h
      · cases he
  · cases he
theorem Memory.wf_pinPage {d e : Dev} {p : Nat} {w : Tier} {v : Nat} (he : pinPage p w d v = .ok e)
    (h : Memory.wf d.mem = true) : Memory.wf e.mem = true := by
  unfold pinPage at he
  split at he
  · simp only at he
    split at he
    · cases he; exact h
    · split at he
      · next x hx =>
        have hm := Memory.wf_beginBring hx h
        cases he
        exact hm
      · cases he
  · cases he
@[simp] theorem Memory.wf_resolveEntry {d : Dev} (p i s : Nat) (h : Memory.wf d.mem = true) :
    Memory.wf (resolveEntry d p i s).mem = true := by
  unfold resolveEntry
  simp only
  repeat' split
  all_goals simp [h, Memory.wf_viewWriteNat]
@[simp] theorem Memory.wf_settleEntry {d : Dev} (p i : Nat) (h : Memory.wf d.mem = true) :
    Memory.wf (settleEntry d p i).mem = true := by
  unfold settleEntry
  repeat' split
  all_goals simp [h]
@[simp] theorem Memory.wf_stopMoverRing {d : Dev} (p : Nat) (h : Memory.wf d.mem = true) :
    Memory.wf (stopMoverRing d p).mem = true := Memory.wf_forEach (fun _ _ => Memory.wf_resolveEntry p 0 0x16) _ h
@[simp] theorem Memory.wf_moverRingWrite {d : Dev} (p v : Nat) (h : Memory.wf d.mem = true) :
    Memory.wf (moverRingWrite d p v).mem = true := by
  unfold moverRingWrite
  simp only
  repeat' split
  all_goals simp [h]
@[simp] theorem Memory.wf_refillPage {d : Dev} (k : PageKey) (h : Memory.wf d.mem = true) :
    Memory.wf (refillPage d k).mem = true := by
  unfold refillPage
  repeat' split
  all_goals simp [h, Memory.wf_memLoad]
@[simp] theorem Memory.wf_repairRow {d : Dev} (t : Tier) (f g row : Nat) (spareRow : Bool) (h : Memory.wf d.mem = true) :
    Memory.wf (repairRow d t f g row spareRow).mem = true := by
  unfold repairRow
  repeat' split
  all_goals simp [h]
@[simp] theorem Memory.wf_completeMove {d : Dev} (k : PageKey) (h : Memory.wf d.mem = true) :
    Memory.wf (completeMove d k).mem = true := by
  unfold completeMove
  split <;> simp [h]
@[simp] theorem Memory.wf_writeCellar {d : Dev} (p a : Nat) (cs : List Host.Cell) (h : Memory.wf d.mem = true) :
    Memory.wf (writeCellar d p a cs).mem = true := by
  unfold writeCellar
  split <;> simp [h, Memory.wf_memLoad]
/-- The bytes stay variables here: the unifier would spell out those of a whole page. -/
theorem forEach_sendWrites_mem {α : Type} (d : Dev) (p m : Nat) (q : Dev → Nat) (a : α → Nat) (b : α → List Byte) (l : List α) :
    (forEach l d (fun d x => sendWrites d p m (q d) (a x) (b x))).mem = d.mem :=
  forEach_mem (fun d x => sendWrites_mem d p m (q d) (a x) (b x)) l d

@[simp] theorem Memory.wf_completeSnap {d : Dev} (p : Nat) (h : Memory.wf d.mem = true) : Memory.wf (completeSnap d p).mem = true := by
  unfold completeSnap; split
  · exact h
  · split
    · exact h
    · simp only; split
      · simpa using h
      · split
        · exact h
        · rw [endSnap_mem]; split
          · exact Memory.wf_forEach (fun d x hd => Memory.wf_writeCellar p _ _ hd) _ (Memory.wf_writeCellar p _ _ h)
          · rw [sendWrites_mem, forEach_sendWrites_mem]; exact h

/-! Access -/

@[simp] theorem Memory.wf_hostSpad {d : Dev} (p c off n : Nat) (f : Byte → Byte → Byte) (v : Word) (h : Memory.wf d.mem = true) :
    Memory.wf (hostSpad d p c off n f v).mem = true := by
  unfold hostSpad; simp only; split
  · simpa using h
  · split
    · simpa using h
    · split
      · simpa using h
      · exact Memory.wf_applyBytes _ _ _ _ _ h
@[simp] theorem Memory.wf_hostSpadLoad {d : Dev} (p c a off n : Nat) (found : Found) (h : Memory.wf d.mem = true) :
    Memory.wf (hostSpadLoad d p c a off n found).mem = true := by
  unfold hostSpadLoad
  repeat' split
  all_goals simp [h]
@[simp] theorem Memory.wf_memoryAccess {d : Dev} (p a n : Nat) (store : Option Word) (found : Found) (h : Memory.wf d.mem = true) :
    Memory.wf (memoryAccess d p a n store found).mem = true := by
  unfold memoryAccess
  repeat' split
  all_goals simp [h, Memory.wf_viewWriteNat]
@[simp] theorem Memory.wf_hostMemory {d : Dev} (p a n : Nat) (store : Option Word) (found : Found) (row : Nat)
    (h : Memory.wf d.mem = true) :
    Memory.wf (hostMemory d p a n store found row).mem = true := by
  unfold hostMemory
  simp only
  repeat' split
  all_goals simp [h]
@[simp] theorem Memory.wf_retryAccess {d : Dev} (a : HeldAccess) (h : Memory.wf d.mem = true) :
    Memory.wf (retryAccess d a).mem = true := by
  unfold retryAccess; split
  · simpa using h
  · exact Memory.wf_memoryAccess _ _ _ _ _ h
@[simp] theorem Memory.wf_retryHeld {d : Dev} (h : Memory.wf d.mem = true) :
    Memory.wf (retryHeld d).mem = true := Memory.wf_forEach (fun _ a => Memory.wf_retryAccess a) _ h
theorem Memory.wf_thenRetry {f : Dev → Dev} {d : Dev} (hf : Memory.wf (f d).mem = true) : Memory.wf (thenRetry f d).mem = true :=
  Memory.wf_retryHeld hf
@[simp] theorem Memory.wf_writeMessage {d : Dev} (n vc : Nat) (h : Memory.wf d.mem = true) :
    Memory.wf (writeMessage d n vc).mem = true := by
  simp only [writeMessage]; split
  · split <;> simpa using h
  · next m e he =>
    have hm : Memory.wf e.mem = true := takeMsg_mem he ▸ h
    split
    · exact Memory.wf_guardedPut _ _ _ hm
    · simpa using hm
@[simp] theorem Memory.wf_respMessage {d : Dev} (n vc : Nat) (h : Memory.wf d.mem = true) :
    Memory.wf (respMessage d n vc).mem = true := by
  unfold respMessage; split
  · exact h
  · next m e he =>
    have hm : Memory.wf e.mem = true := takeMsg_mem he ▸ h
    split
    · exact hm
    · split
      · exact hm
      · split
        · exact Memory.wf_retryHeld (by simpa using hm)
        · exact hm

/-! Guest -/

@[simp] theorem Memory.wf_scribble {d : Dev} (p a n : Nat) (h : Memory.wf d.mem = true) :
    Memory.wf (scribble d p a n).mem = true := by simp [scribble, h, Memory.wf_viewWrite]
@[simp] theorem Memory.wf_fillPanel {d : Dev} (c b : Nat) (h : Memory.wf d.mem = true) : Memory.wf (fillPanel d c b).mem = true := by
  simp [fillPanel, h, Memory.wf_memLoad]
/-- Stated for any P of the whole state: compared by their memories, the two sides would be evaluated. -/
theorem guestTiles_keeps {P : Dev → Prop} {d : Dev} {c : Nat} (n m : Nat) (h : P d) (hc : ∀ d r k, P d → P (countArray d c r k))
    (ha : ∀ d k v, P d → P (addF d k v)) (hp : ∀ d b, P d → P (fillPanel d c b)) (ht : ∀ d t, P d → P (fillTile d c t)) :
    P (guestTiles d c n m) :=
  forEach_keeps ht _ _ (forEach_keeps hp _ _ (ha _ _ _ (hc _ _ _ h)))

@[simp] theorem Memory.wf_guestTiles {d : Dev} (c n m : Nat) (h : Memory.wf d.mem = true) :
    Memory.wf (guestTiles d c n m).mem = true :=
  guestTiles_keeps (P := fun d => Memory.wf d.mem = true) n m h (fun d r k hd => by simpa using hd) (fun _ _ _ hd => hd)
    (fun d b hd => Memory.wf_fillPanel c b hd) (fun d t hd => by simpa using hd)

/-! Kiln -/

@[simp] theorem Memory.wf_writeFactor {d : Dev} (p fblk n k : Nat) (f : Mat) (h : Memory.wf d.mem = true) :
    Memory.wf (writeFactor d p fblk n k f).mem = true := by
  refine Memory.wf_forEach (fun _ _ => Memory.wf_forEach (fun _ _ hd => ?_) _) _ h
  split
  · exact Memory.wf_viewWriteNat _ _ _ _ hd
  · exact hd
@[simp] theorem Memory.wf_writeRoot {d : Dev} (p fblk n k c : Nat) (x : Mat) (h : Memory.wf d.mem = true) :
    Memory.wf (writeRoot d p fblk n k c x).mem = true :=
  Memory.wf_forEach (fun _ _ => Memory.wf_forEach (fun _ _ => Memory.wf_viewWriteNat p _ _ _) _) _ h
@[simp] theorem Memory.wf_initSlots {d : Dev} (p : Nat) (j : KilnJob) (h : Memory.wf d.mem = true) :
    Memory.wf (initSlots d p j).mem = true := by simp [initSlots, h]
@[simp] theorem Memory.wf_writeHead {d : Dev} (p : Nat) (j : KilnJob) (code : Nat) (h : Memory.wf d.mem = true) :
    Memory.wf (writeHead d p j code).mem = true := by
  unfold writeHead
  repeat' split
  all_goals simp [h, Memory.wf_viewWrite]
@[simp] theorem Memory.wf_resolveJob {d : Dev} (p : Nat) (j : KilnJob) (code : Nat) (h : Memory.wf d.mem = true) :
    Memory.wf (resolveJob d p j code).mem = true := by
  unfold resolveJob
  extract_lets x g y w13 elapsed hw entry z u v w t e
  have hz : Memory.wf z.mem = true := by simpa [z, y, g, x] using Memory.wf_writeHead p j code h
  have hw : Memory.wf w.mem = true := Memory.wf_viewWriteNat _ _ _ _ (Memory.wf_viewWriteNat _ _ _ _ (Memory.wf_viewWriteNat _ _ _ _ hz))
  have he : e.mem = w.mem := by simp only [e]; split <;> simp [t]
  rw [kilnInterrupts_mem, he]
  exact hw
@[simp] theorem Memory.wf_endKilnJob {d : Dev} (p i code : Nat) (h : Memory.wf d.mem = true) :
    Memory.wf (endKilnJob d p i code).mem = true := by
  unfold endKilnJob
  split <;> simp [h]
@[simp] theorem Memory.wf_pickJob {d : Dev} (p : Nat) (h : Memory.wf d.mem = true) : Memory.wf (pickJob d p).mem = true := by
  unfold pickJob
  simp only
  repeat' split
  all_goals simp [h]
@[simp] theorem Memory.wf_foldNow {d : Dev} (p : Nat) (j : KilnJob) (h : Memory.wf d.mem = true) :
    Memory.wf (foldNow d p j).1.mem = true := by
  unfold foldNow
  simp only
  repeat' split
  all_goals simp [h]
@[simp] theorem Memory.wf_runFold {d : Dev} (p i : Nat) (h : Memory.wf d.mem = true) :
    Memory.wf (runFold d p i).mem = true := Memory.wf_withJob p i h (fun _ => Memory.wf_foldNow _ _ h)
@[simp] theorem Memory.wf_rootLoop {d : Dev} (p n : Nat) (j : KilnJob) (h : Memory.wf d.mem = true) :
    Memory.wf (rootLoop p n d j).1.mem = true := by
  induction n generalizing d j with
  | zero => exact h
  | succ n ih =>
    simp only [rootLoop]; split
    · exact h
    · refine ih _ ?_
      split
      · exact Memory.wf_writeRoot _ _ _ _ _ _ h
      · exact h
@[simp] theorem Memory.wf_useArea {d : Dev} (p : Nat) (j : KilnJob) (h : Memory.wf d.mem = true) :
    Memory.wf (useArea d p j).mem = true := by
  unfold useArea
  split <;> simp [h]
@[simp] theorem Memory.wf_restartJob {d : Dev} (p i : Nat) (j : KilnJob) (h : Memory.wf d.mem = true) :
    Memory.wf (restartJob d p i j).mem = true := by
  unfold restartJob
  simp only
  repeat' split
  all_goals simp [h]
@[simp] theorem Memory.wf_runGuests {d : Dev} (p : Nat) (j : KilnJob) (takes : List (Nat × Nat)) (go : Bool) (h : Memory.wf d.mem = true) :
    Memory.wf (runGuests d p j takes go).mem = true := by
  refine Memory.wf_forEach (fun d x hd => ?_) _ (by simpa using h)
  have hg : Memory.wf (guestTiles d x.1 j.n x.2).mem = true := Memory.wf_guestTiles _ _ _ hd
  simp only; split
  · simpa using hg
  · exact hg
@[simp] theorem Memory.wf_runRoot {d : Dev} (p i steps : Nat) (given : List (Nat × Nat)) (h : Memory.wf d.mem = true) :
    Memory.wf (runRoot d p i steps given).mem = true := by
  refine Memory.wf_operate p i 2 h fun j => ?_
  extract_lets e r products fixed takes shut f
  have hr : Memory.wf r.1.mem = true := Memory.wf_rootLoop _ _ _ (by simpa [e] using h)
  split
  · exact h
  · split
    · exact Memory.wf_restartJob _ _ _ (by rw [forEach_mem (fun _ _ => noteNonOwner_mem ..)]; exact h)
    · simpa [f] using Memory.wf_runGuests _ _ _ _ (Memory.wf_useArea _ _ hr)
@[simp] theorem Memory.wf_runFactor {d : Dev} (p i op : Nat) (h : Memory.wf d.mem = true) :
    Memory.wf (runFactor d p i op).mem = true := by
  refine Memory.wf_operate p i op h fun j => ?_
  have hu : Memory.wf (useArea (noteRead d p j.fblk (blockSize j.n)) p j).mem = true := Memory.wf_useArea p j (by simpa using h)
  split
  · exact h
  · simp only; split
    · exact Memory.wf_writeRoot _ _ _ _ _ _ hu
    · exact hu
@[simp] theorem Memory.wf_solveLoop {d : Dev} (p n : Nat) (j : KilnJob) (h : Memory.wf d.mem = true) :
    Memory.wf (solveLoop p n d j).1.mem = true := by
  induction n generalizing d j with
  | zero => exact h
  | succ n ih =>
    simp only [solveLoop]; split
    · exact h
    · refine ih _ ?_
      split
      · exact Memory.wf_writeRoot _ _ _ _ _ _ h
      · exact h
@[simp] theorem Memory.wf_runSolve {d : Dev} (p i steps : Nat) (h : Memory.wf d.mem = true) :
    Memory.wf (runSolve d p i steps).mem = true := by
  refine Memory.wf_operate p i 5 h fun j => ?_
  have hu : Memory.wf (useArea (noteRead (noteRead d p j.fblk (blockSize j.n)) p j.rhs (4 * j.n * j.m)) p j).mem = true :=
    Memory.wf_useArea p j (by simpa using h)
  simp only [setJob_mem, showIter_mem]; split
  · exact hu
  · exact Memory.wf_solveLoop _ _ _ hu
@[simp] theorem Memory.wf_settleJob {d : Dev} (p i : Nat) (deadline : Bool) (h : Memory.wf d.mem = true) :
    Memory.wf (settleJob d p i deadline).mem = true := by
  unfold settleJob
  repeat' split
  all_goals simp [h]
@[simp] theorem Memory.wf_stopAttempt {d : Dev} (p i : Nat) (why : AttemptFault) (h : Memory.wf d.mem = true) :
    Memory.wf (stopAttempt d p i why).mem = true := by
  unfold stopAttempt
  repeat' split
  all_goals simp [h]
@[simp] theorem Memory.wf_scrubKiln {d : Dev} (b : Nat) (found : Found) (h : Memory.wf d.mem = true) :
    Memory.wf (scrubKiln d b found).mem = true := by
  unfold scrubKiln
  simp only
  repeat' split
  all_goals simp [h]
@[simp] theorem Memory.wf_abandonJobs {d : Dev} (p : Nat) (h : Memory.wf d.mem = true) :
    Memory.wf (abandonJobs d p).mem = true := Memory.wf_forEach (fun _ _ => Memory.wf_endKilnJob p 0 0x16) _ h
@[simp] theorem Memory.wf_kilnRingWrite {d : Dev} (p v : Nat) (h : Memory.wf d.mem = true) :
    Memory.wf (kilnRingWrite d p v).mem = true := by
  unfold kilnRingWrite
  simp only
  repeat' split
  all_goals simp [h]

/-! RackMath -/

@[simp] theorem Memory.wf_startLayer {d : Dev} (ref : Bool) (p n : Nat) (ws : List Nat) (h : Memory.wf d.mem = true) :
    Memory.wf (startLayer d ref p n ws).mem = true := by
  unfold startLayer
  extract_lets old e b2 a again r c head x y1 y2 y3 y hi
  have he : Memory.wf e.mem = true := by simpa only [e, noteRead_mem] using h
  have hx : Memory.wf x.mem = true := Memory.wf_viewWrite p _ _ he
  have hy : Memory.wf y.mem = true := by
    simp only [y, y3, y2, y1]; split
    · exact Memory.wf_viewWrite _ _ _ (Memory.wf_viewWrite _ _ _ (Memory.wf_viewWrite _ _ _ (Memory.wf_viewWrite _ _ _ hx)))
    · exact hx
  split
  · exact he
  · split
    · simpa using hy
    · exact hy
@[simp] theorem Memory.wf_addSquares {d : Dev} (ref : Bool) (p addr : Nat) (a : Int) (vs : List Val) (h : Memory.wf d.mem = true) :
    Memory.wf (addSquares d ref p addr a vs).mem = true := by
  unfold addSquares
  simp only
  repeat' split
  all_goals simp [h, Memory.wf_viewWriteNat]
@[simp] theorem Memory.wf_writeSecond {d : Dev} (p : Nat) (ws : List Nat) (i : Nat) (rs : List (Option (Val × (Nat × Bool) × Val)))
    (h : Memory.wf d.mem = true) :
    Memory.wf (writeSecond d p ws i rs).mem = true := by
  refine Memory.wf_forEach (fun e k he => ?_) _ h
  dsimp only
  split
  · exact he
  · split
    · exact Memory.wf_viewWrite _ _ _ he
    · exact Memory.wf_viewWrite _ _ _ he
@[simp] theorem Memory.wf_rankSums {d : Dev} (ref : Bool) (p : Nat) (ws : List Nat) (i : Nat) (rs : List (Option (Val × (Nat × Bool) × Val)))
    (h : Memory.wf d.mem = true) :
    Memory.wf (rankSums d ref p ws i rs).mem = true :=
  Memory.wf_forEach (fun _ _ => Memory.wf_addSquares _ _ _ _ _) _
    (Memory.wf_forEach (fun _ _ => Memory.wf_addSquares _ _ _ _ _) _ h)
@[simp] theorem Memory.wf_countHeld {d : Dev} (p : Nat) (ws : List Nat) (n : Nat) (h : Memory.wf d.mem = true) :
    Memory.wf (countHeld d p ws n).mem = true := by
  unfold countHeld
  split <;> simp [h, Memory.wf_viewWriteNat]
@[simp] theorem Memory.wf_writeHeader {d : Dev} (p : Nat) (ws : List Nat) (i : Nat) (l : List Nat) (h : Memory.wf d.mem = true) :
    Memory.wf (writeHeader d p ws i l).mem = true := Memory.wf_viewWrite p _ _ h
@[simp] theorem Memory.wf_momentBlock {d : Dev} (ref : Bool) (p : Nat) (ws : List Nat) (exp : Int) (n i : Nat) (gs : List Nat)
    (h : Memory.wf d.mem = true) :
    Memory.wf (momentBlock d ref p ws exp n i gs).mem = true := by
  unfold momentBlock
  extract_lets rs held ms hs burst a b c e
  have ha : Memory.wf a.mem = true := by simp only [a]; split <;> simpa using h
  have hb : Memory.wf b.mem = true := Memory.wf_viewWrite _ _ _ ha
  have hc : Memory.wf c.mem = true := by
    simp only [c]; split
    · exact Memory.wf_rankSums _ _ _ _ _ hb
    · exact Memory.wf_writeSecond _ _ _ _ hb
  exact Memory.wf_writeHeader _ _ _ _ (Memory.wf_countHeld _ _ _ hc)
@[simp] theorem Memory.wf_weightBlock {d : Dev} (ref : Bool) (p : Nat) (ws : List Nat) (n i : Nat) (h : Memory.wf d.mem = true) :
    Memory.wf (weightBlock d ref p ws n i).mem = true := by
  have hv (l l' : List Byte) : Memory.wf (viewWrite (viewWrite d p (blockAt (lWeight ws) i) l) p (blockAt (lLees ws) i) l').mem = true :=
    Memory.wf_viewWrite _ _ _ (Memory.wf_viewWrite _ _ _ h)
  exact Memory.wf_writeHeader _ _ _ _ (Memory.wf_countHeld _ _ _ (Memory.wf_addSquares _ _ _ _ _
    (Memory.wf_addSquares _ _ _ _ _ (Memory.wf_addSquares _ _ _ _ _ (Memory.wf_addSquares _ _ _ _ _ (hv _ _))))))

/-! Rack -/

@[simp] theorem Memory.wf_drainSlot {d : Dev} (u i : Nat) (h : Memory.wf d.mem = true) :
    Memory.wf (drainSlot d u i).mem = true := Memory.wf_forEach (fun _ _ => Memory.wf_stagePut u i _ _) _ h
@[simp] theorem Memory.wf_needSlot {d : Dev} (t : Nat × Nat) (n : Nat) (h : Memory.wf d.mem = true) :
    Memory.wf (needSlot d t n).mem = true := by simp [needSlot, h]
@[simp] theorem Memory.wf_openSlots {d : Dev} (p : Nat) (h : Memory.wf d.mem = true) :
    Memory.wf (openSlots d p).mem = true := Memory.wf_forEach (fun _ _ => Memory.wf_needSlot _ _) _ h
@[simp] theorem Memory.wf_freeSlot {d : Dev} (p : Nat) (b : Nat × Nat × Nat) (h : Memory.wf d.mem = true) :
    Memory.wf (freeSlot d p b).mem = true := by simp [freeSlot, h]
@[simp] theorem Memory.wf_stagingWrite {d : Dev} (p slot off : Nat) (data : List Byte) (h : Memory.wf d.mem = true) :
    Memory.wf (stagingWrite d p slot off data).mem = true := by
  unfold stagingWrite
  split <;> simp [h, Memory.wf_viewPutList]
@[simp] theorem Memory.wf_beginLayer {d : Dev} (p : Nat) (h : Memory.wf d.mem = true) : Memory.wf (beginLayer d p).mem = true := by
  unfold beginLayer
  simp only
  repeat' split
  all_goals simp [h]
@[simp] theorem Memory.wf_startSweep {d : Dev} (p : Nat) (e : SweepEval) (h : Memory.wf d.mem = true) :
    Memory.wf (startSweep d p e).mem = true := by
  unfold startSweep
  split <;> simp [h]
@[simp] theorem Memory.wf_tryEval {d : Dev} (p : Nat) (e : SweepEval) (h : Memory.wf d.mem = true) :
    Memory.wf (tryEval d p e).mem = true := by
  unfold tryEval
  split <;> simp [h]
@[simp] theorem Memory.wf_evaluateSweep {d : Dev} (p n : Nat) (h : Memory.wf d.mem = true) :
    Memory.wf (evaluateSweep d p n).mem = true := by
  unfold evaluateSweep
  split <;> simp [h]
@[simp] theorem Memory.wf_resumeSweep {d : Dev} (p : Nat) (h : Memory.wf d.mem = true) : Memory.wf (resumeSweep d p).mem = true := by
  unfold resumeSweep
  split <;> simp [h]
@[simp] theorem Memory.wf_requestSweep {d : Dev} (p named : Nat) (h : Memory.wf d.mem = true) :
    Memory.wf (requestSweep d p named).mem = true := by
  unfold requestSweep
  simp only
  repeat' split
  all_goals simp [h]
@[simp] theorem Memory.wf_sweepRelease {d : Dev} (p g : Nat) (h : Memory.wf d.mem = true) :
    Memory.wf (sweepRelease d p g).mem = true := by
  unfold sweepRelease
  repeat' split
  all_goals simp [h]
@[simp] theorem Memory.wf_nextBlock {d : Dev} (p : Nat) (staged : Bool) (h : Memory.wf d.mem = true) :
    Memory.wf (nextBlock d p staged).mem = true := by
  unfold nextBlock
  simp only
  repeat' split
  all_goals simp [h]
@[simp] theorem Memory.wf_handOut {d : Dev} (p u : Nat) (h : Memory.wf d.mem = true) : Memory.wf (handOut d p u).mem = true := by
  unfold handOut
  simp only
  repeat' split
  all_goals simp [h]
@[simp] theorem Memory.wf_runMoment {d : Dev} (u : Nat) (found : Found) (h : Memory.wf d.mem = true) :
    Memory.wf (runMoment d u found).mem = true := by
  unfold runMoment
  repeat' split
  all_goals simp [h]
@[simp] theorem Memory.wf_runWeight {d : Dev} (u : Nat) (h : Memory.wf d.mem = true) : Memory.wf (runWeight d u).mem = true := by
  unfold runWeight
  repeat' split
  all_goals simp [h]
@[simp] theorem Memory.wf_sweepWrite {d : Dev} (p v : Nat) (h : Memory.wf d.mem = true) :
    Memory.wf (sweepWrite d p v).mem = true := by
  unfold sweepWrite
  repeat' split
  all_goals simp [h]
@[simp] theorem Memory.wf_retryPhase {d : Dev} (u next : Nat) (writing : Bool) (h : Memory.wf d.mem = true) :
    Memory.wf (retryPhase d u next writing).mem = true := by
  unfold retryPhase
  simp only
  repeat' split
  all_goals simp [h]

/-! Stage -/

@[simp] theorem Memory.wf_hostBoot {d : Dev} (q : Nat) (h : Memory.wf d.mem = true) : Memory.wf (hostBoot d q).mem = true := by
  unfold hostBoot
  extract_lets loader x room
  have hx : Memory.wf x.mem = true := by simpa [x] using h
  have hroom (e : Dev) (he : room = some e) : Memory.wf e.mem = true := by
    simp only [room] at he
    split at he
    · cases he; exact hx
    · exact Memory.wf_mapPage he hx
  clear_value room
  cases room with
  | none => exact hx
  | some e =>
    simp only; split
    · simpa using Memory.wf_memLoad _ _ _ (hroom e rfl)
    · exact hx
@[simp] theorem Memory.wf_disablePart {d : Dev} (p : Nat) (h : Memory.wf d.mem = true) :
    Memory.wf (disablePart d p).mem = true := by
  have hs : Memory.wf (svcDisable (stopMoverRing (abandonJobs d p) p) p).mem = true :=
    Memory.wf_svcDisable p (Memory.wf_stopMoverRing p (Memory.wf_abandonJobs p h))
  unfold disablePart
  generalize svcDisable (stopMoverRing (abandonJobs d p) p) p = e at hs ⊢
  have hu : (unmapAll (abortRack e p) p).mem = e.mem := by simp
  generalize unmapAll (abortRack e p) p = u at hu ⊢
  simpa [hu] using hs
@[simp] theorem Memory.wf_resetCluster {d : Dev} (c : Nat) (h : Memory.wf d.mem = true) :
    Memory.wf (resetCluster d c).mem = true := by
  rw [resetCluster, setF_mem, setF_mem, setF_mem, setCluster_mem, forEach_mem (fun _ _ => by simp), forEach_setF_mem, closeWindows_mem]
  exact Memory.wf_freeBanks c h
@[simp] theorem Memory.wf_clearStaging {d : Dev} (u : Nat) (h : Memory.wf d.mem = true) :
    Memory.wf (clearStaging d u).mem = true := by simp [clearStaging, h, Memory.wf_memZero]
@[simp] theorem Memory.wf_moveUnit {d : Dev} (old : Option Nat) (u : Nat) (h : Memory.wf d.mem = true) :
    Memory.wf (moveUnit d old u).mem = true := by
  unfold moveUnit
  split <;> simp [h]
@[simp] theorem Memory.wf_installerEffects {d : Dev} (old : Dev) (items : List StageItem) (h : Memory.wf d.mem = true) :
    Memory.wf (installerEffects old d items).mem = true := by
  unfold installerEffects
  extract_lets d1 d2 d3 d4 d5 e6 d6 geometry d7 pps d8 d9 d10 d11
  have h1 : Memory.wf d1.mem = true := Memory.wf_forEach (fun _ p => Memory.wf_disablePart p) _ h
  have h2 : Memory.wf d2.mem = true := Memory.wf_forEach (fun _ c hd => Memory.wf_ite (Memory.wf_resetCluster c hd) hd) _ h1
  have h3 : Memory.wf d3.mem = true := Memory.wf_forEach (fun _ u hd => Memory.wf_ite (Memory.wf_moveUnit _ u hd) hd) _ h2
  have h4 : d4.mem = d3.mem := forEach_mem (fun _ _ => by split <;> simp) _ _
  have h5 : d5.mem = d4.mem := by simp only [d5]; split <;> simp
  have h6 : d6.mem = d5.mem := by simp only [d6, e6]; repeat' split
                                  all_goals simp
  have h7 : Memory.wf d7.mem = true := by
    have h6' : Memory.wf d6.mem = true := by rw [h6, h5, h4]; exact h3
    exact Memory.wf_ite (Memory.wf_recheckPorts _ h6') h6'
  have h8 : d8.mem = d7.mem := by simp only [d8]; repeat' split
                                  all_goals simp
  have h9 : d9.mem = d8.mem := forEach_mem (fun _ _ => by split <;> simp) _ _
  have h10 : d10.mem = d9.mem := by simp only [d10]; split <;> simp
  have h11 : d11.mem = d10.mem := forEach_mem (fun _ _ => by simp) _ _
  rw [stayAwake_mem]
  exact Memory.wf_forEach (fun _ q => Memory.wf_hostBoot q) _ (by rw [h11, h10, h9, h8]; exact h7)
@[simp] theorem Memory.wf_commitSet {d : Dev} (scope : Nat) (h : Memory.wf d.mem = true) :
    Memory.wf (commitSet d scope).mem = true := by
  unfold commitSet
  simp only
  repeat' split
  all_goals simp [h]
@[simp] theorem Memory.wf_commitInOrder {d : Dev} (scope : Nat) (h : Memory.wf d.mem = true) :
    Memory.wf (commitInOrder d scope).mem = true := by
  refine Memory.wf_commitSet _ (Memory.wf_forEach (fun d s hd => ?_) _ h)
  split
  · exact Memory.wf_commitSet _ hd
  · exact hd
@[simp] theorem Memory.wf_gyleInstant {d : Dev} (p gyle : Nat) (h : Memory.wf d.mem = true) :
    Memory.wf (gyleInstant d p gyle).mem = true := by
  unfold gyleInstant
  split <;> simp [h]
@[simp] theorem Memory.wf_ftcInstant {d : Dev} (scope : Nat) (h : Memory.wf d.mem = true) :
    Memory.wf (ftcInstant d scope).mem = true := by
  unfold ftcInstant
  split <;> simp [h]

/-! Channels -/

@[simp] theorem Memory.wf_climb {d : Dev} (p ch : Nat) (h : Memory.wf d.mem = true) : Memory.wf (climb d p ch).mem = true := by
  unfold climb
  simp only
  repeat' split
  all_goals simp [h]
@[simp] theorem Memory.wf_arriveChan {d : Dev} (p ch : Nat) (a : Arrival) (g : Chan → Chan) (h : Memory.wf d.mem = true) :
    Memory.wf (arriveChan d p ch a g).mem = true := by simp [arriveChan, h]
@[simp] theorem Memory.wf_arriveCheck {d : Dev} (p c ch : Nat) (h : Memory.wf d.mem = true) :
    Memory.wf (arriveCheck d p c ch).mem = true := by simp [arriveCheck, h]
@[simp] theorem Memory.wf_goBarSlice {d : Dev} (p c w : Nat) (h : Memory.wf d.mem = true) :
    Memory.wf ((goBarSlice p c w d).run ()).dev.mem = true := by
  unfold goBarSlice
  split <;> simp [h]
@[simp] theorem Memory.wf_goAmaxSlice {d : Dev} (p c w : Nat) (h : Memory.wf d.mem = true) :
    Memory.wf ((goAmaxSlice p c w d).run ()).dev.mem = true := by simp [goAmaxSlice, h]
@[simp] theorem Memory.wf_epochRelease {d : Dev} (p : Nat) (drain : Bool) (h : Memory.wf d.mem = true) :
    Memory.wf (epochRelease d p drain).mem = true := by
  unfold epochRelease
  repeat' split
  all_goals simp [h]
@[simp] theorem Memory.wf_checkRelease {d : Dev} (p gyle t flags : Nat) (h : Memory.wf d.mem = true) :
    Memory.wf (checkRelease d p gyle t flags).mem = true := by simp [checkRelease, h]
@[simp] theorem Memory.wf_completeUse {d : Dev} (p ch : Nat) (x : Chan) (t : Nat) (a : Arrival) (h : Memory.wf d.mem = true) :
    Memory.wf (completeUse d p ch x t a).mem = true := by
  unfold completeUse
  repeat' split
  all_goals simp [h]
@[simp] theorem Memory.wf_reachRelease {d : Dev} (p ch : Nat) (x : Chan) (h : Memory.wf d.mem = true) :
    Memory.wf (reachRelease d p ch x).mem = true := by
  unfold reachRelease
  split <;> simp [h]
@[simp] theorem Memory.wf_reachChannel {d : Dev} (p ch : Nat) (h : Memory.wf d.mem = true) :
    Memory.wf (reachChannel d p ch).mem = true := by
  unfold reachChannel
  repeat' split
  all_goals simp [h]
@[simp] theorem Memory.wf_reachCheck {d : Dev} (p : Nat) (h : Memory.wf d.mem = true) : Memory.wf (reachCheck d p).mem = true := by
  unfold reachCheck
  repeat' split
  all_goals simp [h]
@[simp] theorem Memory.wf_arriveMessage {d : Dev} (n : Nat) (h : Memory.wf d.mem = true) :
    Memory.wf (arriveMessage d n).mem = true := by
  unfold arriveMessage; split
  · exact h
  · next m e he =>
    have hm : Memory.wf e.mem = true := takeSb_mem he ▸ h
    simp only; split
    · exact hm
    · exact Memory.wf_climb _ _ (by simpa using hm)
@[simp] theorem Memory.wf_releaseMessage {d : Dev} (n : Nat) (h : Memory.wf d.mem = true) : Memory.wf (releaseMessage d n).mem = true := by
  unfold releaseMessage; split
  · exact h
  · next m e he =>
    have hm : Memory.wf e.mem = true := takeSb_mem he ▸ h
    split
    · exact hm
    · split
      · exact hm
      · extract_lets a f
        have hf : Memory.wf f.mem = true := by simpa [f] using hm
        split
        · exact hf
        · split
          · simpa using hf
          · exact Memory.wf_completeUse _ _ _ _ _ (by simpa using hf)
@[simp] theorem Memory.wf_timeoutChannel {d : Dev} (p ch : Nat) (h : Memory.wf d.mem = true) :
    Memory.wf (timeoutChannel d p ch).mem = true := by
  unfold timeoutChannel
  repeat' split
  all_goals simp [h]
@[simp] theorem Memory.wf_arriveDrain {d : Dev} (p : Nat) (h : Memory.wf d.mem = true) : Memory.wf (arriveDrain d p).mem = true := by
  unfold arriveDrain
  split <;> simp [h]

/-! Maltster -/

@[simp] theorem Memory.wf_runCommit {d : Dev} (k : Nat) (h : Memory.wf d.mem = true) :
    Memory.wf (runCommit d k).mem = true := by
  refine Memory.wf_runStage _ _ _ h fun m s => ?_
  simp only; split
  · simpa using h
  · split
    · exact Memory.wf_commitInOrder s (by simpa using h)
    · split
      · simpa using h
      · split <;> simpa using h
    · split
      · split <;> simpa using h
      · simpa using h
theorem Memory.wf_mapPages {d e : Dev} {p : Nat} {w : Tier} {obj : Nat} {pin : Bool} {vs : List Nat}
    (he : mapPages d p w obj pin vs = some e) (h : Memory.wf d.mem = true) : Memory.wf e.mem = true := by
  induction vs generalizing d with
  | nil => cases he; exact h
  | cons v r ih =>
    simp only [mapPages] at he
    split at he
    · next x hx => exact ih he (Memory.wf_mapPage hx h)
    · cases he
@[simp] theorem Memory.wf_runPageMap {d : Dev} (k : Nat) (h : Memory.wf d.mem = true) :
    Memory.wf (runPageMap d k).mem = true := by
  refine Memory.wf_runCmd _ _ _ _ h fun m => ?_
  split
  · simpa using h
  · split
    · simpa using h
    · split
      · next e he => rw [answer_mem]; exact Memory.wf_mapPages he h
      · simpa using h
theorem Memory.wf_pinNow {d e : Dev} {p : Nat} {w : Tier} {v : Nat} (he : pinNow d p w v = some e) (h : Memory.wf d.mem = true) :
    Memory.wf e.mem = true := by
  unfold pinNow at he
  split at he
  · cases he; exact h
  · split at he
    · split at he
      · next x hx =>
        split at he
        · cases he; exact Memory.wf_placePage _ _ _ (Memory.wf_makeRoom hx h)
        · cases he
      · cases he
    · cases he; exact h
theorem Memory.wf_pinPages {d e : Dev} {p : Nat} {l : List (Tier × Nat)} (he : pinPages d p l = some e) (h : Memory.wf d.mem = true) :
    Memory.wf e.mem = true := by
  induction l generalizing d with
  | nil => cases he; exact h
  | cons x r ih =>
    simp only [pinPages] at he
    split at he
    · next y hy => exact ih he (Memory.wf_pinNow hy h)
    · cases he
@[simp] theorem Memory.wf_runPageAttr {d : Dev} (k : Nat) (h : Memory.wf d.mem = true) :
    Memory.wf (runPageAttr d k).mem = true := by
  refine Memory.wf_runCmd _ _ _ _ h fun m => ?_
  split
  · simpa using h
  · split
    · next e he =>
      rw [answer_mem, attrPages_mem]
      split at he
      · exact Memory.wf_pinPages he h
      · cases he; exact h
    · simpa using h
@[simp] theorem Memory.wf_instantForm {d : Dev} (p : Nat) (h : Memory.wf d.mem = true) : Memory.wf (instantForm d p).mem = true := by
  unfold instantForm
  repeat' split
  all_goals simp [h]
@[simp] theorem Memory.wf_dissolve {d : Dev} (p : Nat) (h : Memory.wf d.mem = true) : Memory.wf (dissolve d p).mem = true := by
  simp [dissolve, h]
@[simp] theorem Memory.wf_runDissolve {d : Dev} (k : Nat) (h : Memory.wf d.mem = true) :
    Memory.wf (runDissolve d k).mem = true := by
  refine Memory.wf_runCmd _ _ _ _ h fun m => ?_
  simp only; split
  · simpa using h
  · split
    · split
      · simpa using Memory.wf_dissolve m.part h
      · simpa using h
    · split
      · simpa using h
      · split <;> simpa using h
@[simp] theorem Memory.wf_instantDissolve {d : Dev} (p : Nat) (h : Memory.wf d.mem = true) :
    Memory.wf (instantDissolve d p).mem = true := by
  unfold instantDissolve
  repeat' split
  all_goals simp [h]
@[simp] theorem Memory.wf_runTrain {d : Dev} (k : Nat) (h : Memory.wf d.mem = true) : Memory.wf (runTrain d k).mem = true := by
  refine Memory.wf_runCmd _ _ _ _ h fun m => ?_
  split
  · simpa using h
  · exact Memory.wf_setPortState _ _ (by simpa using h)
@[simp] theorem Memory.wf_endTraining {d : Dev} (n mask : Nat) (h : Memory.wf d.mem = true) :
    Memory.wf (endTraining d n mask).mem = true := by
  unfold endTraining
  split <;> simp [h]

/-! Security -/

@[simp] theorem Memory.wf_readAudit {s : State} (k : Nat) (h : Memory.wf s.dev.mem = true) : Memory.wf (readAudit s k).dev.mem = true := by
  rw [readAudit, flushAudit_mem]
  refine Memory.wf_runSec _ _ _ _ _ h fun m => ?_
  split
  · simpa using h
  · simpa using Memory.wf_viewWrite _ _ _ h
@[simp] theorem Memory.wf_runAttest {s : State} (k : Nat) (h : Memory.wf s.dev.mem = true) : Memory.wf (runAttest s k).dev.mem = true := by
  rw [runAttest, flushAudit_mem]
  refine Memory.wf_runSec _ _ _ _ _ h fun m => ?_
  simp only; split
  · simpa using h
  · split
    · simpa using Memory.wf_viewWrite _ _ _ h
    · simpa using h
@[simp] theorem Memory.wf_startMaltster {d : Dev} (h : Memory.wf d.mem = true) :
    Memory.wf (startMaltster d).mem = true :=
  Memory.wf_recheckPorts false (Memory.wf_forEach (fun _ q => Memory.wf_hostBoot q) _ (by simpa using h))
@[simp] theorem Memory.wf_bootModule {s : State} (h : Memory.wf s.dev.mem = true) : Memory.wf (bootModule s).dev.mem = true := by
  unfold bootModule
  simp only
  repeat' split
  all_goals simp [h]

/-! Power -/

@[simp] theorem Memory.wf_nil : Memory.wf [] = true := rfl

/-- The core domain's memory is empty once its rails are off. -/
@[simp] theorem coreOff_mem (d : Dev) : (coreOff d).mem = [] := rfl
@[simp] theorem Memory.wf_loseStandby {s : State} (h : Memory.wf s.dev.mem = true) : Memory.wf (loseStandby s).dev.mem = true := by
  unfold loseStandby
  split <;> simp [h]
@[simp] theorem Memory.wf_loseInput {s : State} (k : FKey) (h : Memory.wf s.dev.mem = true) :
    Memory.wf (loseInput s k).dev.mem = true := by
  unfold loseInput
  split <;> simp [h]
@[simp] theorem Memory.wf_inputFaulty {s : State} (x : InputLevel) (h : Memory.wf s.dev.mem = true) :
    Memory.wf (inputFaulty s x).dev.mem = true := by
  unfold inputFaulty
  split <;> simp [h]
@[simp] theorem Memory.wf_thermalTrip {s : State} (n : Nat) (temp : Int) (h : Memory.wf s.dev.mem = true) :
    Memory.wf (thermalTrip s n temp).dev.mem = true := by
  unfold thermalTrip
  split <;> simp [h]

/-! Telemetry -/

@[simp] theorem Memory.wf_putTrace {d : Dev} (p : Nat) (e : TraceEvent) (h : Memory.wf d.mem = true) :
    Memory.wf (putTrace d p e).mem = true := by
  unfold putTrace
  simp only
  repeat' split
  all_goals simp [h, Memory.wf_guardedPut]
@[simp] theorem Memory.wf_traceFor {d : Dev} (e : TraceEvent) (p : Nat) (h : Memory.wf d.mem = true) :
    Memory.wf (traceFor d e p).mem = true := by
  unfold traceFor
  simp only
  repeat' split
  all_goals simp [h]
@[simp] theorem Memory.wf_traceEvent {d : Dev} (e : TraceEvent) (h : Memory.wf d.mem = true) :
    Memory.wf (traceEvent d e).mem = true := by
  unfold traceEvent; split
  · exact Memory.wf_forEach (fun _ p => Memory.wf_traceFor e p) _ h
  · split
    · exact Memory.wf_traceFor _ _ h
    · exact h

/-! Registers -/

@[simp] theorem Memory.wf_storeReg {d : Dev} (who : Agent) (r : Reg) (v : Nat) (h : Memory.wf d.mem = true) :
    Memory.wf (storeReg d who r v).mem = true := by
  unfold storeReg
  split <;> simp [h]
@[simp] theorem Memory.wf_storeAt {d : Dev} (who : Agent) (a v : Nat) (h : Memory.wf d.mem = true) :
    Memory.wf (storeAt d who a v).mem = true := by
  unfold storeAt
  repeat' split
  all_goals simp [h]
@[simp] theorem Memory.wf_hostAccess {s : State} (p a width : Nat) (store : Option Word) (found : Found) (row : Nat)
    (h : Memory.wf s.dev.mem = true) :
    Memory.wf (hostAccess s p a width store found row).dev.mem = true := by
  unfold hostAccess
  repeat' split
  all_goals simp [h]
@[simp] theorem Memory.wf_readTelemetry {s : State} (k : Nat) (h : Memory.wf s.dev.mem = true) :
    Memory.wf (readTelemetry s k).dev.mem = true := by
  rw [readTelemetry, flushAudit_mem]
  refine Memory.wf_runSec _ _ _ _ _ h fun m => ?_
  split
  · simpa using h
  · simpa using Memory.wf_viewWrite _ _ _ h

/-! TileRows -/

/-- Every VOP keeps the canonical form. -/
theorem runKeepsWf_vopOf (w : Nat) : RunKeepsWf (vopOf w) := by
  unfold vopOf
  split <;> exact fun p c w d h => by simp [h]
/-- Every tile instruction keeps the canonical form. -/
theorem runKeepsWf_instrOf (w : Nat) : RunKeepsWf (instrOf w) := by
  unfold instrOf
  split
  case h_31 => exact (runKeepsWf_vopOf w).goVop
  all_goals repeat' split
  all_goals exact fun p c w d h => by simp [h]
@[simp] theorem Memory.wf_passWait {d : Dev} (c : Nat) (h : Memory.wf d.mem = true) :
    Memory.wf (passWait d c).mem = true := by
  simp only [passWait]; split
  · simpa using h
  · split
    · rw [fpostHold_mem]
      exact issueWord_keeps (P := fun m => Memory.wf m = true) h (fun p => runKeepsWf_instrOf _ p c _)
    · exact h

/-! EngineRows -/

/-- What follows a change of pages (held accesses, sweep evaluations) keeps the canonical form. -/
@[simp] theorem Memory.wf_pagesChanged {f : Dev → Dev} {d : Dev} (hf : Memory.wf (f d).mem = true) :
    Memory.wf (pagesChanged f d).mem = true :=
  Memory.wf_forEach (fun _ p => Memory.wf_resumeSweep p) _ (Memory.wf_thenRetry hf)

/-! The commands -/

/-- The state a command answers, if it answers one, holds memory in its canonical form. -/
def AnswersWf (o : Host.Outcome State Fault Refusal) : Prop := ∀ t, o = .next t → Memory.wf t.dev.mem = true

theorem AnswersWf.next {t : State} (h : Memory.wf t.dev.mem = true) : AnswersWf (.next t) := by
  rintro _ ⟨⟩; exact h

section
variable {s : State} (h : Memory.wf s.dev.mem = true)
include h

theorem AnswersWf.onDev {f : Dev → Dev} (hf : Memory.wf (f s.dev).mem = true) : AnswersWf (.next (onDev f s)) :=
  .next (onDev_keeps (P := fun d => Memory.wf d.mem = true) h hf)

theorem AnswersWf.onMal {f : Dev → Dev} (hf : Memory.wf (f s.dev).mem = true) : AnswersWf (.next (onMal f s)) :=
  .next (onMal_keeps (P := fun m => Memory.wf m = true) h hf)

theorem AnswersWf.onSec {f : State → State} (hf : Memory.wf (f s).dev.mem = true) : AnswersWf (.next (onSec f s)) :=
  .next (onSec_keeps (P := fun d => Memory.wf d.mem = true) h hf)

theorem AnswersWf.tile {op : Nat} {sel : Nat → Bool} {go : Nat → Nat → Nat → Dev → Plan} {c : Nat} (hg : RunKeepsWf go) :
    AnswersWf (.next (Machine.onDev (tileStep op sel go c) s)) := .onDev h (hg.tileStep op sel c h)

theorem AnswersWf.vop {fn : Nat} {go : Nat → Nat → Nat → Dev → Plan} {c : Nat} (hg : RunKeepsWf go) :
    AnswersWf (.next (Machine.onDev (vopStep fn go c) s)) := .onDev h (hg.vopStep fn c h)

theorem AnswersWf.mover {p i op : Nat} {act : Tier → Dev → Nat → Except Nat Dev}
    (hact : ∀ w d v e, act w d v = .ok e → Memory.wf d.mem = true → Memory.wf e.mem = true) :
    AnswersWf (.next (Machine.onDev (fun d => runMover d p i op act) s)) :=
  .onDev h (runMover_keeps (P := fun m => Memory.wf m = true) hact h)

end

/-- Every command keeps memory in its canonical form. -/
theorem exec_answersWf (i : Instr) {s : State} (h : Memory.wf s.dev.mem = true) : AnswersWf (exec i s) := by
  cases i with
  | nop | halt | br | loop | gset | gadd | gld | anset | evwait | evadd | evpost | barClusterSet | barPartition | ftcwait |
  rouse | dwqflush | fence | mma | mmwg | gram | tdld | tdbase | tdadd | tdshape | mov | adrn | afill | azero | aadd | amax |
  amaxSlice =>
    exact .tile h fun _ _ _ _ h => by simp [h]
  | vadd | vmul | vfma | vfmas | vcmp | vsel | vmin | vmax | vcvt | vmask | vcompress | vexpand | vrng | vseq | vredmax |
  vredmin | vnonfin =>
    exact .vop h fun _ _ _ _ h => by simp [h]
  | eventCounterChange | localBarrierComplete | ftcTargetReached | deferredEntryRun | matrixInstructionComplete |
  moverOpComplete | atomicWindowAdd | vectorOpComplete | start | stop | stopComplete | rowRetry | rouseHoldExpiry | rampStep |
  nflagWrite | kilnRingEnable | kilnRingDisable | kilnJobPickup | kilnJobStart | init | fold | root | chol | ldlt | solve |
  foldOutcomeAvailable | kilnJobResolve | kilnDeadlineCommit | kilnAttemptRestart | kilnBankScrub | sweepStart | sweepStop |
  blockHandout | momentPhase | weightPhase | layerComplete | rackPhaseRetry | stagingSlotWrite | replicaCheck |
  ownerDigestCheck | bankRequestBoost | handoverRequest | handoverComplete | aliasWriteSet | aliasWriteClear | bankScrub |
  marchDestructive | marchPreserving | marchComplete | bankRepair | moverRingEnable | moverRingDisable | moverEntryPickup |
  moverEntryResolve | demandFaultIn | poolEviction | buddyGenerationComplete | buddyRegionEnable | pagePoison | refillTimeout
  | patrolScrub | dramRowRepair | dataFlitReceive | controlFlitReceive | dataSlot | laneFailure | fastRetrainComplete | ident
  | arrive | release | fault | channelTimeout | coll | abort | write | read | resp | ringpassStep | collectiveResolve |
  ftcRateAdjust | ftcLockLoss | ftcPpsEdge | mailboxBusyWrite | heartbeat | watchdogExpiry | thermalLoopStep | capLoopStep |
  rowAdmissionStep | currentLimit | clockStep | powerGateEntry | unitWake | backgroundForced | traceEntry | traceEnable |
  svcRingEnable | svcRingDisable | send | sendWithImmediate | rdmaWrite | rdmaWriteWithImmediate | rdmaRead | udp |
  workEntryComplete | servicePacketReceive | partnerFirstSignal | replicaCheckComplete | pageAgeSample | mgtLinkChange =>
    exact .onDev h (by simp [h])
  | evwaitPass | registerWrite | flagCheckRelease | pageMoveComplete | buddySnapshot | drawSnapshot | snapshotAbort |
  snapshotComplete | buddyAck | pageRefillComplete | fullTrainingComplete | channelReleaseReached | drainArrive |
  mailboxPickup | stageOpen | stageWrite | stageCheck | stageCommit | stageAbort | commitInstant | stageSetLapse | pageMap |
  pageUnmap | pageAttr | poolQuery | sliceFormPrepare | sliceFormCommit | sliceFormCancel | formationInstant |
  formationRelease | formationTimeout | preparationLapse | sliceDissolve | dissolutionInstant | portTrain | mgtDatagram =>
    exact .onMal h (by simp [h])
  | identity | draw | attest | signed | keyRotation | fwInstall | auditRead | diagOpen | diagExpiry | fuseProgram | telRead |
  auditSeal | maltsterRestart | recoveryDatagram | hostAccess | registerReadClear =>
    exact .onSec h (by simp [h])
  | boot | modResetRelease | standbyRestore | standbyLoss | inputFault | sensorSample | thermalTrip | wearSave | fruRead |
  bypass | idcode | samplePreload | extest | clamp | highz =>
    exact .next (by simp [h])
  | barSlice =>
    exact .onMal h (RunKeepsWf.tileStep (fun _ _ _ _ h => by simp [h]) _ _ _ h)
  | fpost =>
    exact .onDev h (by simpa using RunKeepsWf.tileStep (fun _ _ _ _ h => Memory.wf_goFpost _ _ _ h) _ _ _ h)
  | accQueryWrite =>
    refine .onDev h ?_
    unfold atCluster; split
    · exact Memory.wf_storeReg _ _ _ (by simpa using h)
    · simpa using h
  | prefetch =>
    exact .mover h fun _ _ _ _ => Memory.wf_prefetchPage
  | evict =>
    exact .mover h fun _ _ _ _ he hd => evictPage_mem he ▸ hd
  | unpin =>
    exact .mover h fun _ _ _ _ he hd => unpinPage_mem he ▸ hd
  | setsrc =>
    exact .mover h fun _ _ _ _ he hd => setsrcPage_mem he ▸ hd
  | pin =>
    exact .onDev h (Memory.wf_pagesChanged
      (runMover_keeps (P := fun m => Memory.wf m = true) (fun _ _ _ _ => Memory.wf_pinPage) h))
  | modResetAssert =>
    exact .next rfl

/-- Settles O59: an idle step leaves memory alone, and every command keeps its form (`exec_answersWf`). -/
theorem memoryStaysCanonical : Obligations.MemoryStaysCanonical := by
  intro s t hs h
  unfold step at hs
  split at hs
  · cases hs
    rw [idleStep_mem]; exact h
  · next c r _ => exact exec_answersWf c (s := { s with pending := r }) h t hs

end Sys2Proof.Machine
end

section
namespace Sys2Proof.Machine

/-! Fields, memory and reset -/

/-- Settles O3, by the laws of a field's last write and of a byte's. -/
theorem registersAndMemoryHold : Obligations.RegistersAndMemoryHold := by
  refine ⟨fun d k j v => ⟨getF_setF_same d k v, getF_setF_of_ne d v⟩, fun m a j b h => ⟨?_, ?_, ?_⟩⟩
  · exact Memory.wf_memPut a b h
  · exact memGet_memPut_same a b h
  · exact memGet_memPut_of_ne b h

theorem getF_reset (k : FKey) : getF Dev.reset k = k.reset := rfl

theorem auditSound_reset : auditSound Sec.reset := ⟨Nat.le_refl 1, trivial⟩

/-- Settles O4: every table of the reset state is empty, and a field missing from its table reads its reset value. -/
theorem resetValues : Obligations.ResetValues :=
  ⟨getF_reset, fun _ => rfl, rfl, rfl, rfl, rfl, rfl, rfl, rfl, rfl, rfl, rfl, rfl, rfl, rfl, rfl, rfl, rfl, rfl, auditSound_reset⟩

end Sys2Proof.Machine
end

section
namespace Sys2Proof.Machine

/-! Reaching a gated unit -/

/-- Only which units are gated, waking and waiting to wake changes. -/
theorem reachUnit_keeps {α : Type} (v : Dev → α) (hv : ∀ d g w q, v { d with gated := g, waking := w, wakeQueue := q } = v d)
    (d : Dev) (x : GatedUnit) : v (reachUnit d x) = v d := by
  unfold reachUnit requestWake
  split
  · rfl
  · split
    · split
      · rfl
      · dsimp only
        split
        · exact hv d _ _ _
        · exact hv d _ _ _
    · exact hv d _ _ _

@[simp] theorem reachUnit_f (d : Dev) (x : GatedUnit) : (reachUnit d x).f = d.f := reachUnit_keeps Dev.f (fun _ _ _ _ => rfl) d x
@[simp] theorem reachUnit_cl (d : Dev) (x : GatedUnit) : (reachUnit d x).cl = d.cl := reachUnit_keeps Dev.cl (fun _ _ _ _ => rfl) d x
@[simp] theorem reachUnit_free (d : Dev) (x : GatedUnit) : (reachUnit d x).free = d.free :=
  reachUnit_keeps Dev.free (fun _ _ _ _ => rfl) d x
@[simp] theorem reachCluster_f (d : Dev) (c : Nat) : (reachCluster d c).f = d.f := reachUnit_f _ _
@[simp] theorem reachCluster_cl (d : Dev) (c : Nat) : (reachCluster d c).cl = d.cl := reachUnit_cl _ _

/-- A field is read from the table of fields alone. -/
theorem getF_congr {d e : Dev} (h : e.f = d.f) (k : FKey) : getF e k = getF d k := by unfold getF; rw [h]

@[simp] theorem getF_reachCluster (d : Dev) (c : Nat) (k : FKey) : getF (reachCluster d c) k = getF d k :=
  getF_congr (reachCluster_f d c) k

/-! Bank handovers (R218) -/

/-- e differs from d in the field k at most, as far as a handover looks. -/
structure SameBut (k : FKey) (e d : Dev) : Prop where
  f : ∀ j, k ≠ j → getF e j = getF d j
  cl : e.cl = d.cl
  mem : e.mem = d.mem

namespace SameBut
variable {k : FKey} {e d : Dev}

theorem clusterOf_eq (h : SameBut k e d) (c : Nat) : clusterOf e c = clusterOf d c := by unfold clusterOf; rw [h.cl]

theorem handoverTo_eq (h : SameBut k e d) (c b : Nat) : handoverTo e c b = handoverTo d c b := by
  unfold handoverTo; rw [h.clusterOf_eq]

theorem partOf_eq (h : SameBut k e d) (hk : ∀ p, k ≠ F.hostPcfg_clusters p) (c : Nat) : partOf e c = partOf d c := by
  simp only [partOf, ownsCluster, h.f _ (hk _)]

theorem holdsProgram_eq (h : SameBut k e d) {c b : Nat} (h1 : k ≠ F.mcSeqStatus_state c) (h2 : k ≠ F.mcSeqBase_base c)
    (h3 : k ≠ F.mcSeqLen_len c) : holdsProgram e c b = holdsProgram d c b := by
  have hb : progBase e c = progBase d c := congrArg (64 * ·) (h.f _ h2)
  have he : progEnd e c = progEnd d c := congrArg₂ (fun x y => x + 16 * y) hb (h.f _ h3)
  have ha : seqActive e c = seqActive d c := congrArg (fun x => x == 1 || x == 2) (h.f _ h1)
  unfold holdsProgram protectedHit overlapsProg
  rw [hb, he, ha]

end SameBut

/-- The request as BANK_OWNER sees it: the cluster reached, and ho_err cleared if the store writes 1 to it. -/
def handoverSeen (d : Dev) (c b v : Nat) : Dev :=
  let r : Dev := { reachCluster d c with bus := .none }
  if bitOf v 16 then setF r (F.bankOwner_ho_err c b) 0 else r

theorem handoverSeen_sameBut (d : Dev) (c b v : Nat) : SameBut (F.bankOwner_ho_err c b) (handoverSeen d c b v) d := by
  unfold handoverSeen
  dsimp only
  split
  · exact ⟨fun j hj => (getF_setF_of_ne _ 0 hj).trans (getF_congr (reachCluster_f d c) j), reachCluster_cl d c, reachCluster_mem d c⟩
  · exact ⟨fun j _ => getF_congr (reachCluster_f d c) j, reachCluster_cl d c, reachCluster_mem d c⟩

/-- What a store to BANK_OWNER does, by what it finds. -/
def handoverEffect (d e : Dev) (c b req : Nat) : Dev :=
  if req > 3 then setF e (F.bankStatus_enc_err c) 1
  else if flag d (F.bankOwner_pending c b) then
    (if handoverTo d c b = some req then setF e (F.bankOwner_req c b) req else setF e (F.bankOwner_ho_err c b) 1)
  else if req = getF d (F.bankOwner_owner c b) then setF e (F.bankOwner_req c b) req
  else if handoverAllowed d c b req then beginHandover (setF e (F.bankOwner_req c b) req) c b req
  else setF e (F.bankOwner_ho_err c b) 1

theorem FKey.ne_of_lo {k j : FKey} (h : k.lo ≠ j.lo) : k ≠ j := fun e => h (congrArg FKey.lo e)
theorem FKey.ne_of_reg {k j : FKey} (h : k.reg ≠ j.reg) : k ≠ j := fun e => h (congrArg FKey.reg e)

theorem handoverAllowed_eq {d e : Dev} {c b : Nat} (h : SameBut (F.bankOwner_ho_err c b) e d) (req : Nat) :
    handoverAllowed e c b req = handoverAllowed d c b req := by
  unfold handoverAllowed
  rw [h.f _ (FKey.ne_of_lo (by simp)), h.partOf_eq (fun p => FKey.ne_of_reg (by simp)),
    h.holdsProgram_eq (FKey.ne_of_reg (by simp)) (FKey.ne_of_reg (by simp)) (FKey.ne_of_reg (by simp))]

/-- The store decides by the state before it. -/
theorem bankOwnerWrite_eq (d : Dev) (c b v : Nat) :
    bankOwnerWrite { reachCluster d c with bus := .none } c b v = handoverEffect d (handoverSeen d c b v) c b (bits v 10 8) := by
  have h := handoverSeen_sameBut d c b v
  unfold bankOwnerWrite handoverEffect flag
  rw [← h.f (F.bankOwner_pending c b) (FKey.ne_of_lo (by simp)), ← h.f (F.bankOwner_owner c b) (FKey.ne_of_lo (by simp)),
    ← h.handoverTo_eq, ← handoverAllowed_eq h]
  rfl

theorem exec_handoverRequest {s : State} (hp : s.dev.powerGood = true) {who : Agent} {c : ClusterId}
    (hr : reachesCluster s.dev who c = true) (b : BankId) (v : Word) : exec (.handoverRequest who c b v) s =
      .next { s with dev := handoverEffect s.dev (handoverSeen s.dev c b v.toNat) c b (bits v.toNat 10 8) } := by
  have h : exec (.handoverRequest who c b v) s = .next (onDev (atCluster who c (fun d => bankOwnerWrite d c b v.toNat)) s) := rfl
  rw [h, onDev_of_good hp, atCluster, if_pos hr, bankOwnerWrite_eq]

theorem exec_handoverRequest_of_foreign {s : State} (hp : s.dev.powerGood = true) {who : Agent} {c : ClusterId}
    (hr : reachesCluster s.dev who c = false) (b : BankId) (v : Word) :
    exec (.handoverRequest who c b v) s = .next { s with dev := accessError s.dev who } := by
  have h : exec (.handoverRequest who c b v) s = .next (onDev (atCluster who c (fun d => bankOwnerWrite d c b v.toNat)) s) := rfl
  rw [h, onDev_of_good hp, atCluster, hr]
  rfl

section
variable {d : Dev} {c b req : Nat} (e : Dev)

theorem handoverEffect_reserved (h : 3 < req) : handoverEffect d e c b req = setF e (F.bankStatus_enc_err c) 1 := if_pos h

theorem handoverEffect_pending (h : req ≤ 3) (hn : flag d (F.bankOwner_pending c b) = true) : handoverEffect d e c b req =
    if handoverTo d c b = some req then setF e (F.bankOwner_req c b) req else setF e (F.bankOwner_ho_err c b) 1 := by
  rw [handoverEffect, if_neg (Nat.not_lt.2 h), if_pos hn]

theorem handoverEffect_idle (h : req ≤ 3) (hn : flag d (F.bankOwner_pending c b) = false) : handoverEffect d e c b req =
    if req = getF d (F.bankOwner_owner c b) then setF e (F.bankOwner_req c b) req
    else if handoverAllowed d c b req then beginHandover (setF e (F.bankOwner_req c b) req) c b req
    else setF e (F.bankOwner_ho_err c b) 1 := by
  rw [handoverEffect, if_neg (Nat.not_lt.2 h), hn, if_neg Bool.false_ne_true]

end

/-- A handover that the host may ask for and the table of R218 allows. -/
theorem handoverAllowed_iff {d : Dev} {c b req : Nat} : handoverAllowed d c b req = true ↔
    (getF d (F.bankOwner_owner c b) = 0 ∧ req = 1 ∧ (partOf d c).isSome = true) ∨
      (getF d (F.bankOwner_owner c b) = 1 ∧ req = 0 ∧ holdsProgram d c b = false) := by
  unfold handoverAllowed
  split
  · next h => simp [h]
  · next h => simp [h]
  · next h0 h1 =>
    simp only [Bool.false_eq_true, false_iff]
    rintro (⟨h, rfl, -⟩ | ⟨h, rfl, -⟩)
    · exact h0 h rfl
    · exact h1 h rfl

theorem handoverTo_filter (d : Dev) (c b : Nat) :
    handoverTo (modCluster d c (fun x => { x with handovers := x.handovers.filter (fun h => h.bank != b) })) c b = none := by
  simp [handoverTo, List.find?_filter]

/-- A completed handover: the new owner holds the bank and nothing is pending. -/
theorem completeHandover_of_free {d : Dev} {c b o : Nat} (ho : handoverTo d c b = some o) (hb : bankBusy d c b = false) :
    completeHandover d c b = modCluster (setF (setF d (F.bankOwner_owner c b) o) (F.bankOwner_pending c b) 0) c
      (fun x => { x with handovers := x.handovers.filter (fun h => h.bank != b) }) := by
  simp [completeHandover, ho, hb]

theorem completeHandover_of_busy {d : Dev} {c b : Nat} (hb : bankBusy d c b = true) : completeHandover d c b = d := by
  unfold completeHandover
  split
  · rw [if_pos hb]
  · rfl

/-- Settles O33, branch by branch of the store's effect. -/
theorem bankHandovers : Obligations.BankHandovers := by
  intro s who c b v hp
  extract_lets reached r d req owner free busy gives
  have h : SameBut (F.bankOwner_ho_err c b) d s.dev := handoverSeen_sameBut s.dev c b v.toNat
  have effect (hr : reachesCluster s.dev who c = true) : gives (handoverEffect s.dev d c b req) := exec_handoverRequest hp hr b v
  have complete : exec (.handoverComplete c b) s = .next { s with dev := completeHandover s.dev c b } :=
    congrArg Host.Outcome.next (onDev_of_good hp)
  refine ⟨fun hr => exec_handoverRequest_of_foreign hp hr b v, fun hr hq => handoverEffect_reserved d hq ▸ effect hr,
    ?_, ?_, ?_, ?_, ?_, ?_, ?_⟩
  · rintro ⟨hr, hq, hn⟩ ha
    have hne : req ≠ owner := by omega
    refine ⟨_, effect hr, ?_⟩
    rw [handoverEffect_idle d hq hn, if_neg hne, if_pos (handoverAllowed_iff.2 ha)]
    have hw : req % 2 ^ (F.bankOwner_req c b).width = req := Nat.mod_eq_of_lt (Nat.lt_of_le_of_lt hq (by decide : 3 < 2 ^ 3))
    have ho := h.f (F.bankOwner_owner c b) (FKey.ne_of_lo (by simp))
    refine ⟨by simp [beginHandover, getF_setF, hw], ?_, by simpa [beginHandover, getF_setF] using ho,
      by simp [beginHandover, h.clusterOf_eq], by simpa [beginHandover] using h.mem⟩
    have hp1 : (F.bankOwner_pending c b).width = 1 := rfl
    simp [beginHandover, hp1]
  · rintro ⟨hr, hq, hn⟩ he
    have x := effect hr
    rwa [handoverEffect_idle d hq hn, if_pos he] at x
  · rintro ⟨hr, hq, hn⟩ hne ha
    have x := effect hr
    rwa [handoverEffect_idle d hq hn, if_neg hne, if_neg (by simp [ha])] at x
  · rintro ⟨hr, hq, hn⟩ ht
    have x := effect hr
    rwa [handoverEffect_pending d hq hn, if_pos ht] at x
  · rintro ⟨hr, hq, hn⟩ ht
    have x := effect hr
    rwa [handoverEffect_pending d hq hn, if_neg ht] at x
  · intro o ho hlt hb
    refine ⟨_, complete, ?_⟩
    rw [completeHandover_of_free ho hb]
    have hw : o % 2 ^ (F.bankOwner_owner c b).width = o := Nat.mod_eq_of_lt (Nat.lt_trans hlt (by decide : 4 < 2 ^ 3))
    refine ⟨by simp [getF_setF, hw], by simp, handoverTo_filter _ c b, by simp, fun k hk => ?_⟩
    simp [getF_setF, (FKey.ne_of_reg (Ne.symm hk) : F.bankOwner_pending c b ≠ k),
      (FKey.ne_of_reg (Ne.symm hk) : F.bankOwner_owner c b ≠ k)]
  · intro hb
    rw [complete, completeHandover_of_busy hb]

end Sys2Proof.Machine
end

section
namespace Sys2Proof.Machine

/-! What a loss of the core rails keeps (R11, R377) -/

theorem get?_keepFields (f : Tab FKey Nat) (ok : Domain → Bool) (k : FKey) :
    Tab.get? (keepFields f ok) k = if ok k.dom = true then Tab.get? f k else none := by
  induction f with
  | nil => exact (ite_self none).symm
  | cons e r ih =>
    obtain ⟨j, v⟩ := e
    unfold keepFields at ih ⊢
    by_cases hj : j = k
    · subst hj
      by_cases ho : ok j.dom = true
      · simp [ho, Tab.get?]
      · simpa [List.filter, ho] using ih
    · by_cases ho : ok j.dom = true
      · simpa [List.filter, ho, Tab.get?, hj] using ih
      · simpa [List.filter, ho, Tab.get?, hj] using ih

/-- A field whose domain is kept reads as before, and any other its reset value. -/
theorem getF_keepFields {d e : Dev} {ok : Domain → Bool} (h : e.f = keepFields d.f ok) (k : FKey) :
    getF e k = if ok k.dom = true then getF d k else k.reset := by
  unfold getF
  rw [h, get?_keepFields]
  split <;> rfl

theorem coreOff_f (d : Dev) : (coreOff d).f = keepFields d.f (fun x => x != .core) := rfl

theorem getF_coreOff_of_core {d : Dev} {k : FKey} (h : k.dom = .core) : getF (coreOff d) k = k.reset :=
  (getF_keepFields (coreOff_f d) k).trans (if_neg (by simp [h]))

theorem getF_coreOff_of_kept {d : Dev} {k : FKey} (h : k.dom ≠ .core) : getF (coreOff d) k = getF d k :=
  (getF_keepFields (coreOff_f d) k).trans (if_pos (by simpa using h))

/-- The core domain without its rails: every field of it at its reset value, and nothing in memory. -/
structure Down (d : Dev) : Prop where
  powerGood : d.powerGood = false
  mem : d.mem = []
  pages : d.pages = []
  acc : d.acc = []
  core : ∀ k : FKey, k.dom = .core → getF d k = k.reset

theorem down_coreOff (d : Dev) : Down (coreOff d) := ⟨rfl, rfl, rfl, rfl, fun _ h => getF_coreOff_of_core h⟩

/-- A field outside the core domain may be set while the rails are down. -/
theorem Down.setF {d : Dev} (h : Down d) {k : FKey} (hk : k.dom ≠ .core) (v : Nat) : Down (setF d k v) :=
  ⟨h.powerGood, h.mem, h.pages, h.acc, fun j hj =>
    (getF_setF_of_ne d v (fun e => hk ((congrArg FKey.dom e).trans hj))).trans (h.core j hj)⟩

/-! The security store when the rails go: its working state ends, its fuses and log stay. -/

theorem secOff_dev {s : State} (h : s.sec.diag = none) : (secOff s).dev = s.dev := by simp [secOff, h]
theorem secOff_fuses {s : State} (h : s.sec.diag = none) : (secOff s).sec.fuses = s.sec.fuses := by simp [secOff, h]
theorem secOff_log {s : State} (h : s.sec.diag = none) : (secOff s).sec.log = s.sec.log := by simp [secOff, h]
theorem secOff_pending {s : State} (h : s.sec.diag = none) : (secOff s).pending = s.pending := by simp [secOff, h]

/-- t is s without the core rails. -/
structure OffFrom (s t : State) : Prop where
  dev : Down t.dev
  fuses : t.sec.fuses = s.sec.fuses
  log : t.sec.log = s.sec.log
  pending : t.pending = s.pending

theorem offFrom_withDev {s : State} (h : s.sec.diag = none) {f : Dev → Dev} (hf : Down (f s.dev)) :
    OffFrom s (withDev f (secOff s)) :=
  ⟨(congrArg (fun d => Down (f d)) (secOff_dev h)).mpr hf, secOff_fuses h, secOff_log h, secOff_pending h⟩

/-! Power up (R376) -/

/-- Powering up clears the record of rows found hard. -/
theorem powerUp_hardRows {d : Dev} (h : (powerUp d).powerGood = true) (hp : d.powerGood = false) : (powerUp d).hardRows = [] := by
  unfold powerUp at h ⊢
  split
  · rfl
  · next hn => rw [if_neg hn, hp] at h; cases h

theorem powerUp_powerGood (d : Dev) : (powerUp d).powerGood =
    (d.powerGood || (d.standby && d.inputOk && !d.inputTrip && !d.inReset && !flag d F.telAlert_trip)) := by
  unfold powerUp
  cases hp : d.powerGood <;> split <;> simp_all

/-- What powering up changes is the rails and the rows found hard alone. -/
theorem powerUp_keeps {α : Type} (v : Dev → α) (hv : ∀ d, v { d with powerGood := true, hardRows := [] } = v d) (d : Dev) :
    v (powerUp d) = v d := by
  unfold powerUp
  split
  · exact hv d
  · rfl

@[simp] theorem powerUp_f (d : Dev) : (powerUp d).f = d.f := powerUp_keeps Dev.f (fun _ => rfl) d
@[simp] theorem powerUp_inReset (d : Dev) : (powerUp d).inReset = d.inReset := powerUp_keeps Dev.inReset (fun _ => rfl) d
@[simp] theorem powerUp_standby (d : Dev) : (powerUp d).standby = d.standby := powerUp_keeps Dev.standby (fun _ => rfl) d
@[simp] theorem powerUp_inputOk (d : Dev) : (powerUp d).inputOk = d.inputOk := powerUp_keeps Dev.inputOk (fun _ => rfl) d
@[simp] theorem powerUp_jtag (d : Dev) : (powerUp d).jtag = d.jtag := powerUp_keeps Dev.jtag (fun _ => rfl) d
@[simp] theorem getF_powerUp (d : Dev) (k : FKey) : getF (powerUp d) k = getF d k := getF_congr (powerUp_f d) k

/-! Resets and standby -/

/-- The wear counters as they come back from flash. -/
theorem getF_restoreWear (l : List FKey) (d : Dev) (k : FKey) :
    getF (forEach l d (fun d k => setF d k ((Tab.get? d.wearSaved k).getD 0))) k =
      if k ∈ l then (Tab.get? d.wearSaved k).getD 0 % 2 ^ k.width else getF d k := by
  induction l generalizing d with
  | nil => rfl
  | cons j r ih =>
    refine (ih _).trans ?_
    by_cases hr : k ∈ r
    · simp [hr]
    · by_cases hj : k = j
      · subst hj; simp [hr]
      · simp [hr, hj, getF_setF_of_ne _ _ (Ne.symm hj)]

theorem clearTrip_of_clear {d : Dev} (h : flag d F.telAlert_trip = false ∨ tripCleared d = true) :
    clearTrip d = setF (setF d F.telAlert_trip 0) F.telAlert_trip_sensor 0 := if_neg (by rcases h with h | h <;> simp [h])

theorem clearTrip_of_hot {d : Dev} (h : flag d F.telAlert_trip = true) (ht : tripCleared d = false) : clearTrip d = d :=
  if_pos (by simp [h, ht])

theorem Down.setPins {d : Dev} (h : Down d) : Down (setPins d) := ⟨h.powerGood, h.mem, h.pages, h.acc, h.core⟩

theorem withDev_secOff_dev {s : State} (h : s.sec.diag = none) (f : Dev → Dev) : (withDev f (secOff s)).dev = f s.dev :=
  congrArg f (secOff_dev h)

/-- The module as MOD_RESET_N is released, before anything powers up. -/
def released (d : Dev) : Dev := setPins { d with inReset := false, inputTrip := d.inputTrip && !d.inputOk }

/-- A release with no trip latched, or with one that has cooled. -/
theorem releaseReset_of_clear {d : Dev} (hi : d.inReset = true) (hst : d.standby = true)
    (ht : flag d F.telAlert_trip = false ∨ tripCleared d = true) :
    releaseReset d = powerUp (setF (setF (released d) F.telAlert_trip 0) F.telAlert_trip_sensor 0) := by
  have he : (released d).standby = true := hst
  have hc := clearTrip_of_clear (d := released d) ht
  rw [releaseReset, if_pos hi, ← hc]
  exact congrArg powerUp (if_pos he)

/-- A release with a trip that has not cooled: it stays latched. -/
theorem releaseReset_of_hot {d : Dev} (hi : d.inReset = true) (hst : d.standby = true)
    (ht : flag d F.telAlert_trip = true) (hc : tripCleared d = false) : releaseReset d = powerUp (released d) := by
  have he : (released d).standby = true := hst
  have hh := clearTrip_of_hot (d := released d) ht hc
  rw [releaseReset, if_pos hi]
  exact congrArg powerUp ((if_pos he).trans hh)

theorem telAlert_trip_not_wear : F.telAlert_trip ∉ wearFields := by decide

/-- The module without standby power (R377). -/
def standbyLost (d : Dev) : Dev :=
  let e := coreOff { d with standby := false, inputTrip := false, jtag := Dev.reset.jtag }
  { e with f := keepFields e.f (fun x => x == .repair), coordSet := false, hotSteps := 0, swing := none, readings := [] }

theorem standbyLost_f (d : Dev) : (standbyLost d).f = keepFields (coreOff d).f (fun x => x == .repair) := rfl

theorem getF_standbyLost_of_repair {d : Dev} {k : FKey} (h : k.dom = .repair) : getF (standbyLost d) k = getF d k :=
  (getF_keepFields (standbyLost_f d) k).trans ((if_pos (by simp [h])).trans (getF_coreOff_of_kept (by simp [h])))

theorem getF_standbyLost_of_lost {d : Dev} {k : FKey} (h : k.dom ≠ .repair) : getF (standbyLost d) k = k.reset :=
  (getF_keepFields (standbyLost_f d) k).trans (if_neg (by simpa using h))

theorem down_standbyLost (d : Dev) : Down (standbyLost d) :=
  ⟨rfl, rfl, rfl, rfl, fun _ h => getF_standbyLost_of_lost (by simp [h])⟩

/-- The wear counters restored from flash, before the restore is counted. -/
def restoredWear (d : Dev) : Dev :=
  forEach wearFields { d with standby := true } (fun d k => setF d k ((Tab.get? d.wearSaved k).getD 0))

theorem restoredWear_keeps {α : Type} (v : Dev → α) (hv : ∀ d k x, v (setF d k x) = v d) (d : Dev) :
    v (restoredWear d) = v { d with standby := true } := forEach_same v (fun d k => hv d k _) _ _

@[simp] theorem restoredWear_standby (d : Dev) : (restoredWear d).standby = true := restoredWear_keeps Dev.standby setF_standby d
@[simp] theorem restoredWear_powerGood (d : Dev) : (restoredWear d).powerGood = d.powerGood :=
  restoredWear_keeps Dev.powerGood setF_powerGood d
@[simp] theorem restoredWear_inputOk (d : Dev) : (restoredWear d).inputOk = d.inputOk := restoredWear_keeps Dev.inputOk setF_inputOk d
@[simp] theorem restoredWear_inputTrip (d : Dev) : (restoredWear d).inputTrip = d.inputTrip :=
  restoredWear_keeps Dev.inputTrip setF_inputTrip d
@[simp] theorem restoredWear_inReset (d : Dev) : (restoredWear d).inReset = d.inReset := restoredWear_keeps Dev.inReset setF_inReset d

theorem getF_restoredWear (d : Dev) (k : FKey) : getF (restoredWear d) k =
    if k ∈ wearFields then (Tab.get? d.wearSaved k).getD 0 % 2 ^ k.width else getF d k := getF_restoreWear _ _ k

/-- The module without its input, the fault noted in k (R373). -/
def inputLost (k : FKey) (d : Dev) : Dev :=
  satF (setF (coreOff { d with inputOk := false, inputTrip := true }) k 1) F.pwrFault_count 1

/-- The module after sensor n read temp above its trip limit (R362). -/
def tripped (n : Nat) (temp : Int) (d : Dev) : Dev :=
  let e := coreOff { d with readings := Tab.put d.readings n temp }
  setF (setF (setF { e with hotSteps := 0 } F.telAlert_trip 1) F.telAlert_trip_sensor n) F.pwrStatus_hist 0

theorem down_tripped (n : Nat) (temp : Int) (d : Dev) : Down (tripped n temp d) :=
  have h : Down { coreOff { d with readings := Tab.put d.readings n temp } with hotSteps := 0 } :=
    ⟨rfl, rfl, rfl, rfl, (down_coreOff _).core⟩
  ((h.setF (by decide) 1).setF (by decide) n).setF (by decide) 0

/-- Settles O51: what falls with the rails is `coreOff`, what comes back is `powerUp`. -/
theorem railsAndResets : Obligations.RailsAndResets := by
  intro s hs
  extract_lets d off trip pins
  have off_of {t : State} (h : OffFrom s t) : off t :=
    ⟨h.dev.powerGood, h.dev.mem, h.dev.pages, h.dev.acc, h.dev.core, h.fuses, h.log, h.pending⟩
  refine ⟨?_, fun hi hst ht => ?_, fun hi hst ht hc => ?_, fun hst => ?_, fun hst => ?_, fun x k hst hk => ?_, ?_, fun n temp hst hot => ?_⟩
  case refine_1 =>
    have hd : (assertReset s).dev = setPins (coreOff { d with inReset := true }) := withDev_secOff_dev hs _
    refine ⟨assertReset s, rfl, off_of (offFrom_withDev hs (down_coreOff _).setPins), by rw [hd]; rfl, ?_, fun k hk => ?_⟩
    · unfold pins
      rw [hd]
      rfl
    · rw [hd]
      exact getF_coreOff_of_kept (d := { d with inReset := true }) hk
  case refine_2 =>
    have hd : (withDev releaseReset s).dev = powerUp (setF (setF (released d) F.telAlert_trip 0) F.telAlert_trip_sensor 0) :=
      releaseReset_of_clear hi hst ht
    refine ⟨_, rfl, ?_⟩
    rw [hd]
    have htrip : getF (setF (setF (released d) F.telAlert_trip 0) F.telAlert_trip_sensor 0) F.telAlert_trip = 0 := by
      simp [getF_setF]
    have hgood : (powerUp (setF (setF (released d) F.telAlert_trip 0) F.telAlert_trip_sensor 0)).powerGood =
        (d.powerGood || d.inputOk) := by
      simp only [powerUp_powerGood, flag, htrip]
      cases hk : d.inputOk <;> simp [released, setPins, hst, hk]
    refine ⟨hgood, by simp [released, setPins], (getF_powerUp _ _).trans htrip, ?_, by simp [released], rfl, fun hp hk => ?_⟩
    · unfold pins
      rw [hd, powerUp_jtag]
      rfl
    · exact powerUp_hardRows (hgood.trans (by simp [hk])) hp
  case refine_3 =>
    have hd : (withDev releaseReset s).dev = powerUp (released d) := releaseReset_of_hot hi hst ht hc
    refine ⟨_, rfl, ?_⟩
    rw [hd]
    refine ⟨?_, by simp [released, setPins], by simp [released, setPins]⟩
    have htrip : flag (released d) F.telAlert_trip = true := ht
    rw [powerUp_powerGood, htrip]
    simp [released, setPins]
  case refine_4 =>
    have hl : loseStandby s = withDev standbyLost (secOff s) := if_pos hst
    have hd : (loseStandby s).dev = standbyLost d := by rw [hl, withDev_secOff_dev hs]
    refine ⟨_, rfl, off_of (hl ▸ offFrom_withDev hs (down_standbyLost d)), ?_⟩
    rw [hd]
    exact ⟨rfl, rfl, fun k hn => getF_standbyLost_of_lost hn, fun k hr => getF_standbyLost_of_repair hr⟩
  case refine_5 =>
    have hd : (withDev restoreStandby s).dev = powerUp (satF (restoredWear d) F.telWear1_restores 1) :=
      if_neg (Bool.not_eq_true _ ▸ hst)
    have ho (k : FKey) (hk : F.telWear1_restores ≠ k) : getF (withDev restoreStandby s).dev k = getF (restoredWear d) k := by
      rw [hd, getF_powerUp, satF, getF_setF_of_ne _ _ hk]
    refine ⟨_, rfl, ?_, ?_, fun k hk hn => ?_, fun k hk => ?_⟩
    · rw [hd]
      simp [satF]
    · have htrip : flag (satF (restoredWear d) F.telWear1_restores 1) F.telAlert_trip = trip := by
        unfold flag
        rw [satF, getF_setF_of_ne _ _ (by decide), getF_restoredWear, if_neg telAlert_trip_not_wear]
        rfl
      rw [hd, powerUp_powerGood, htrip]
      simp [satF]
    · rw [ho k hn.symm, getF_restoredWear, if_pos hk]
    · rw [ho k (fun e => hk (e ▸ by decide)), getF_restoredWear, if_neg hk]
  case refine_6 =>
    have hl : inputFaulty s x = withDev (inputLost k) (secOff s) := by
      rcases hk with ⟨rfl, rfl⟩ | ⟨rfl, rfl⟩ <;> exact if_pos hst
    have hd : (inputFaulty s x).dev = inputLost k d := by rw [hl, withDev_secOff_dev hs]
    have hk1 : k.dom ≠ .core ∧ k.width = 1 ∧ k ≠ F.pwrFault_count := by rcases hk with ⟨-, rfl⟩ | ⟨-, rfl⟩ <;> decide
    obtain ⟨hcore, hwidth, hne⟩ := hk1
    refine ⟨_, rfl, off_of (hl ▸ offFrom_withDev hs (((down_coreOff _).setF hcore 1).setF (by decide) _)), ?_⟩
    rw [hd]
    refine ⟨rfl, rfl, ?_, ?_⟩
    · rw [inputLost, satF, getF_setF_of_ne _ _ hne.symm, getF_setF_same, hwidth]
      rfl
    · rw [inputLost, satF, getF_setF_same, getF_setF_of_ne _ _ hne, getF_coreOff_of_kept (by decide)]
      have hw : F.pwrFault_count.width = 8 := rfl
      rw [hw]
      exact Nat.mod_eq_of_lt (Nat.lt_of_le_of_lt (Nat.min_le_right _ _) (by decide))
  case refine_7 =>
    refine ⟨_, rfl, ?_⟩
    have hd : (inputFaulty s .inRange).dev = powerUp { d with inputOk := true } := rfl
    rw [hd]
    refine ⟨by simp, by simp, by simp, rfl, ?_⟩
    have htrip : flag { d with inputOk := true } F.telAlert_trip = trip := rfl
    rw [powerUp_powerGood, htrip, Bool.and_true]
  case refine_8 =>
    have hl : thermalTrip s n temp.toInt = withDev (tripped n temp.toInt) (secOff s) := if_pos ⟨hst, decide_eq_true hot⟩
    have hd : (thermalTrip s n temp.toInt).dev = tripped n temp.toInt d := by rw [hl, withDev_secOff_dev hs]
    refine ⟨_, rfl, off_of (hl ▸ offFrom_withDev hs (down_tripped n temp.toInt d)), ?_⟩
    rw [hd]
    have hw1 : F.telAlert_trip.width = 1 := rfl
    have hw8 : F.telAlert_trip_sensor.width = 8 := rfl
    have hn : n.val < 256 := by omega
    simp [tripped, getF_setF, hw1, hw8, hn]

end Sys2Proof.Machine
end

section
namespace Sys2Proof.Machine

/-! The fields of a register (R5, R9, R314) -/

/-- The fields of one register begin at different bits. -/
theorem fields_nodup (r : Reg) : (r.fields.map FieldDef.lo).Nodup := by
  cases r <;> exact of_decide_eq_true rfl

theorem find?_lo_of_nodup {l : List FieldDef} (hl : (l.map FieldDef.lo).Nodup) {x : FieldDef} (hx : x ∈ l) :
    l.find? (fun f => f.lo == x.lo) = some x := by
  induction l with
  | nil => cases hx
  | cons y r ih =>
    obtain ⟨hy, hr⟩ := List.nodup_cons.1 hl
    rcases List.mem_cons.1 hx with rfl | hx
    · simp
    · have hne : y.lo ≠ x.lo := fun e => hy (e ▸ List.mem_map_of_mem hx)
      rw [List.find?_cons_of_neg (by simpa using hne)]
      exact ih hr hx

theorem width_of_mem {r : Reg} {x : FieldDef} (hx : x ∈ r.fields) : (⟨r, x.lo⟩ : FKey).width = x.width := by
  simp [FKey.width, FKey.def?, find?_lo_of_nodup (fields_nodup r) hx]

/-- A change of each of several fields of r leaves every other field as it was. -/
theorem getF_forEach_fields_of_ne {r : Reg} {g : Dev → FieldDef → Dev} {k : FKey} {l : List FieldDef}
    (hk : ∀ y ∈ l, (⟨r, y.lo⟩ : FKey) ≠ k)
    (hg : ∀ d y, (⟨r, y.lo⟩ : FKey) ≠ k → getF (g d y) k = getF d k) (d : Dev) : getF (forEach l d g) k = getF d k := by
  induction l generalizing d with
  | nil => rfl
  | cons y t ih =>
    exact (ih (fun z hz => hk z (List.mem_cons_of_mem y hz)) (g d y)).trans (hg d y (hk y List.mem_cons_self))

/-- A change of each field of r, each by a function of what it read, as one of them sees it. -/
theorem getF_forEach_fields {r : Reg} {g : Dev → FieldDef → Dev} {h : FieldDef → Nat → Nat} {l : List FieldDef} {x : FieldDef}
    (hl : (l.map FieldDef.lo).Nodup) (hx : x ∈ l)
    (hg : ∀ d y k, (⟨r, y.lo⟩ : FKey) ≠ k → getF (g d y) k = getF d k)
    (ho : ∀ d, getF (g d x) ⟨r, x.lo⟩ = h x (getF d ⟨r, x.lo⟩)) (d : Dev) :
    getF (forEach l d g) ⟨r, x.lo⟩ = h x (getF d ⟨r, x.lo⟩) := by
  induction l generalizing d with
  | nil => cases hx
  | cons y t ih =>
    obtain ⟨hy, ht⟩ := List.nodup_cons.1 hl
    rcases List.mem_cons.1 hx with rfl | hx
    · refine (getF_forEach_fields_of_ne (fun z hz e => hy ?_) (fun d y => hg d y _) (g d x)).trans (ho d)
      exact FKey.mk.inj e |>.2 ▸ List.mem_map_of_mem hz
    · have hne : y.lo ≠ x.lo := fun e => hy (e ▸ List.mem_map_of_mem hx)
      exact (ih ht hx (g d y)).trans (congrArg (h x) (hg d y _ (FKey.ne_of_lo hne)))

/-- What a plain store of v leaves in field x, which read old. -/
def storedField (v : Nat) (x : FieldDef) (old : Nat) : Nat :=
  if x.stage ≠ .none then old
  else match x.acc with
    | .rw => fieldOf v x % 2 ^ x.width
    | .w1c => Nat.land old (2 ^ x.width - 1 - fieldOf v x) % 2 ^ x.width
    | .w1s => Nat.lor old (fieldOf v x) % 2 ^ x.width
    | _ => old

theorem getF_storeField_of_ne (d : Dev) {r : Reg} {x : FieldDef} {k : FKey} (v : Nat) (h : (⟨r, x.lo⟩ : FKey) ≠ k) :
    getF (storeField d r v x) k = getF d k := by
  unfold storeField
  dsimp only
  split
  · rfl
  · split <;> simp [getF_setF_of_ne _ _ h]

theorem getF_storeField_same (d : Dev) {r : Reg} {x : FieldDef} (hx : x ∈ r.fields) (v : Nat) :
    getF (storeField d r v x) ⟨r, x.lo⟩ = storedField v x (getF d ⟨r, x.lo⟩) := by
  unfold storeField storedField
  dsimp only
  split
  · rfl
  · cases x.acc <;> simp [width_of_mem hx]

theorem getF_plainStore (d : Dev) {r : Reg} {x : FieldDef} (hx : x ∈ r.fields) (v : Nat) :
    getF (plainStore d r v) ⟨r, x.lo⟩ = storedField v x (getF d ⟨r, x.lo⟩) :=
  getF_forEach_fields (fields_nodup r) hx (fun d _ _ hk => getF_storeField_of_ne d v hk) (fun d => getF_storeField_same d hx v) d

theorem getF_plainStore_of_ne (d : Dev) {r : Reg} {k : FKey} (hk : k.reg ≠ r) (v : Nat) : getF (plainStore d r v) k = getF d k :=
  getF_forEach_fields_of_ne (r := r) (fun _ _ => FKey.ne_of_reg hk.symm) (fun d _ h => getF_storeField_of_ne d v h) d

/-- A read clears the fields that a read clears, and no others. -/
theorem getF_clearRc (d : Dev) {r : Reg} {x : FieldDef} (hx : x ∈ r.fields) :
    getF (clearRc d r) ⟨r, x.lo⟩ = if x.acc = .rc then 0 else getF d ⟨r, x.lo⟩ := by
  by_cases hc : x.acc = .rc
  · have hl : ((r.fields.filter (fun x => x.acc == .rc)).map FieldDef.lo).Nodup :=
      (fields_nodup r).sublist (List.filter_sublist.map _)
    rw [if_pos hc]
    exact getF_forEach_fields (h := fun _ _ => 0) hl (List.mem_filter.2 ⟨hx, by simp [hc]⟩)
      (fun d _ _ hk => getF_setF_of_ne d 0 hk) (fun d => by simp) d
  · rw [if_neg hc]
    refine getF_forEach_fields_of_ne (r := r) (fun y hy e => hc ?_) (fun d _ h => getF_setF_of_ne d 0 h) d
    obtain ⟨hm, ha⟩ := List.mem_filter.1 hy
    have hyx : some y = some x := by
      rw [← find?_lo_of_nodup (fields_nodup r) hm, ← find?_lo_of_nodup (fields_nodup r) hx, (FKey.mk.inj e).2]
    rw [← Option.some.inj hyx]
    simpa using ha

theorem getF_clearRc_of_ne (d : Dev) {r : Reg} {k : FKey} (hk : k.reg ≠ r) : getF (clearRc d r) k = getF d k :=
  getF_forEach_fields_of_ne (r := r) (fun _ _ => FKey.ne_of_reg hk.symm) (fun d _ h => getF_setF_of_ne d 0 h) d

theorem clearRc_bus (d : Dev) (r : Reg) : (clearRc d r).bus = d.bus := forEach_same Dev.bus (fun d _ => setF_bus d _ _) _ d

@[simp] theorem getF_reachReg (d : Dev) (r : Reg) (k : FKey) : getF (reachReg d r) k = getF d k :=
  reachReg_keeps (P := fun e => getF e k = getF d k) rfl (fun c => getF_reachCluster d c k)

@[simp] theorem getF_bus (d : Dev) (b : BusResult) (k : FKey) : getF { d with bus := b } k = getF d k := rfl

/-! Accesses that are not granted (R331) -/

theorem accessError_bus (d : Dev) (who : Agent) : (accessError d who).bus = .accessError := by cases who <;> rfl

/-- An access error is counted against the host that made the access. -/
theorem getF_accessError (d : Dev) (p : PartId) : getF (accessError d (.host p)) (F.secDeny_count p) =
    (getF d (F.secDeny_count p) + 1) % 2 ^ (F.secDeny_count p).width := getF_setF_same _ _ _

/-! Register accesses by address -/

theorem exec_registerWrite {s : State} (hp : s.dev.powerGood = true) (who : Agent) (a : BitVec 48) (v : Word) :
    exec (.registerWrite who a v) s = .next (flushAudit { s with dev := storeAt s.dev who a.toNat v.toNat }) :=
  congrArg Host.Outcome.next (onMal_of_good hp)

theorem exec_registerReadClear {s : State} (hp : s.dev.powerGood = true) (who : Agent) (a : BitVec 48) :
    exec (.registerReadClear who a) s = .next (loadReg s who a.toNat) := congrArg Host.Outcome.next (onSec_of_good hp)

theorem storeAt_of_visible {d : Dev} {who : Agent} {a : Nat} {r : Reg} (h : Reg.ofAddr a = some r) (hv : regVisible d who r = true)
    (v : Nat) : storeAt d who a v = storeReg { d with bus := .none } who r v := by
  unfold storeAt
  rw [h]
  exact if_pos hv

theorem loadReg_of_visible {s : State} {who : Agent} {a : Nat} {r : Reg} (h : Reg.ofAddr a = some r)
    (hv : regVisible s.dev who r = true) : loadReg s who a =
      { s with dev := clearRc { reachReg s.dev r with bus := .value (BitVec.ofNat 64 (readReg s r)) } r } := by
  unfold loadReg
  rw [h]
  exact if_pos hv

/-- A load of no register, or of one the reader may not see, is an access error. -/
theorem loadReg_of_denied {s : State} {who : Agent} {a : Nat} (h : ∀ r, Reg.ofAddr a = some r → regVisible s.dev who r = false) :
    loadReg s who a = { s with dev := accessError s.dev who } := by
  unfold loadReg
  split
  · next r hr => exact if_neg (by simp [h r hr])
  · rfl

theorem accesses_fields (d : Dev) (r : Reg) (v : Nat) (x : FieldDef) (hx : x ∈ r.fields) :
    let k : FKey := ⟨r, x.lo⟩
    let new := getF (plainStore d r v) k
    (x.stage = .none → x.acc = .rw → new = v / 2 ^ x.lo % 2 ^ x.width) ∧
    (x.stage = .none → x.acc = .w1c → new = Nat.land (getF d k) (2 ^ x.width - 1 - v / 2 ^ x.lo % 2 ^ x.width) % 2 ^ x.width) ∧
    (x.stage = .none → x.acc = .w1s → new = Nat.lor (getF d k) (v / 2 ^ x.lo % 2 ^ x.width) % 2 ^ x.width) ∧
    (x.stage ≠ .none ∨ (x.acc ≠ .rw ∧ x.acc ≠ .w1c ∧ x.acc ≠ .w1s) → new = getF d k) ∧
    (∀ j : FKey, j.reg ≠ r → getF (plainStore d r v) j = getF d j) := by
  intro k new
  have hnew : new = storedField v x (getF d k) := getF_plainStore d hx v
  rw [hnew]
  refine ⟨fun hs ha => ?_, fun hs ha => ?_, fun hs ha => ?_, fun h => ?_, fun j hj => getF_plainStore_of_ne d hj v⟩
  · simp [storedField, hs, ha, fieldOf]
  · simp [storedField, hs, ha, fieldOf]
  · simp [storedField, hs, ha, fieldOf]
  · rcases h with h | ⟨h1, h2, h3⟩
    · simp [storedField, h]
    · unfold storedField
      split
      · rfl
      · split <;> simp_all

theorem accesses_registers (s : State) (who : Agent) (a : BitVec 48) (v : Word) (hp : s.dev.powerGood = true) :
    let denied (t : State) : Prop := t.dev.bus = .accessError ∧ t.dev.mem = s.dev.mem ∧ t.sec = s.sec ∧
      ∀ p, who = .host p → getF t.dev (F.secDeny_count p) = (getF s.dev (F.secDeny_count p) + 1) % 2 ^ (F.secDeny_count p).width
    (∀ r, Reg.ofAddr a.toNat = some r → regVisible s.dev who r = true →
      exec (.registerWrite who a v) s =
        .next (flushAudit { s with dev := storeReg { s.dev with bus := .none } who r v.toNat }) ∧
      ∃ t, exec (.registerReadClear who a) s = .next t ∧ t.dev.bus = .value (BitVec.ofNat 64 (readReg s r)) ∧ t.dev.mem = s.dev.mem ∧
        (∀ x ∈ r.fields, getF t.dev ⟨r, x.lo⟩ = if x.acc = .rc then 0 else getF s.dev ⟨r, x.lo⟩) ∧
        (∀ j : FKey, j.reg ≠ r → getF t.dev j = getF s.dev j) ∧ t.sec = s.sec) ∧
    (Reg.ofAddr a.toNat = none → ∃ t, exec (.registerReadClear who a) s = .next t ∧ denied t) ∧
    (∀ r, Reg.ofAddr a.toNat = some r → regVisible s.dev who r = false → ∃ t, exec (.registerReadClear who a) s = .next t ∧ denied t) := by
  intro denied
  have hdenied : denied { s with dev := accessError s.dev who } := by
    refine ⟨accessError_bus _ _, accessError_mem _ _, rfl, ?_⟩
    rintro p rfl
    exact getF_accessError s.dev p
  refine ⟨fun r hr hv => ⟨?_, ?_⟩, fun hr => ?_, fun r hr hv => ?_⟩
  · rw [exec_registerWrite hp, storeAt_of_visible hr hv]
  · rw [exec_registerReadClear hp, loadReg_of_visible hr hv]
    refine ⟨_, rfl, clearRc_bus _ r, by simp, fun x hx => ?_, fun j hj => ?_, rfl⟩
    · rw [getF_clearRc _ hx, getF_bus, getF_reachReg]
    · rw [getF_clearRc_of_ne _ hj, getF_bus, getF_reachReg]
  · rw [exec_registerReadClear hp, loadReg_of_denied (by simp [hr])]
    exact ⟨_, rfl, hdenied⟩
  · rw [exec_registerReadClear hp, loadReg_of_denied (fun q hq => by rw [← Option.some.inj (hr.symm.trans hq)]; exact hv)]
    exact ⟨_, rfl, hdenied⟩

end Sys2Proof.Machine
end

section
namespace Sys2Proof.Machine

/-! Host accesses to memory (R310 to R312) -/

/-- An access that must be held is held; every other is made, when its read finds no error. -/
theorem hostMemory_of_held {d : Dev} {p a n : Nat} {store : Option Word} (h : mustHold d ⟨p, a, n, store, false⟩ = true)
    (found : Found) (row : Nat) : hostMemory d p a n store found row = holdAccess d ⟨p, a, n, store, false⟩ := if_pos h

theorem hostMemory_of_free {d : Dev} {p a n : Nat} {store : Option Word} (h : mustHold d ⟨p, a, n, store, false⟩ = false)
    {found : Found} {row : Nat} (hf : pageFound d p a found row = d) :
    hostMemory d p a n store found row = memoryAccess d p a n store found := by
  unfold hostMemory
  dsimp only
  rw [hf, h]
  rfl

theorem pageFound_clean (d : Dev) (p a row : Nat) : pageFound d p a .clean row = d := by
  unfold pageFound
  split
  · split <;> simp_all
  · rfl

theorem pageFound_of_no_page {d : Dev} {p a : Nat} (h : ∀ w v o, placeOf d p a ≠ .page w v o) (found : Found) (row : Nat) :
    pageFound d p a found row = d := by
  unfold pageFound
  split
  · next w v o hp => exact absurd hp (h w v o)
  · rfl

theorem hostAccess_memory {s : State} {p a n : Nat} (h1 : 1 ≤ n) (h8 : n ≤ 8) (ha : a + n ≤ 0x080000000000) (store : Option Word)
    (found : Found) (row : Nat) :
    hostAccess s p a n store found row = { s with dev := hostMemory s.dev p a n store found row } := by
  have hc (x : Nat) (hx : x < 0x080000000000) : inControl x = false := by
    simp only [inControl, decide_eq_false_iff_not]
    omega
  unfold hostAccess
  dsimp only
  rw [if_neg (by omega), hc a (by omega), hc (a + n - 1) (by omega)]
  rw [Bool.or_self, if_neg Bool.false_ne_true]
  exact if_neg (by omega)

theorem exec_hostAccess {s : State} (hp : s.dev.powerGood = true) (p : PartId) (a : BitVec 48) (n : Nat) (store : Option Word)
    (found : Found) (row : Nat) :
    exec (.hostAccess p a n store found row) s = .next (hostAccess s p a.toNat n store found row) :=
  congrArg Host.Outcome.next (onSec_of_good hp)

/-- An access of a width or an alignment that the control window does not take. -/
theorem hostAccess_control {s : State} {p a n : Nat} (h1 : 1 ≤ n) (hc : inControl a = true) (h : a % 8 ≠ 0 ∨ n ≠ 8)
    (store : Option Word) (found : Found) (row : Nat) :
    hostAccess s p a n store found row = { s with dev := accessError s.dev (.host (Fin.ofNat 4 p)) } := by
  unfold hostAccess
  dsimp only
  rw [if_neg (by omega), hc, if_pos (by rfl), if_pos h]
  rfl

/-! An access to pages -/

theorem placeOf_of_rangePages {d : Dev} {p a n : Nat} (h1 : 1 ≤ n) (h : rangePages d p a n = true) :
    ∃ w v o, placeOf d p a = .page w v o := by
  unfold rangePages at h
  simp only [Bool.or_eq_true, beq_iff_eq, Bool.and_eq_true] at h
  rcases h with h | ⟨h, -⟩
  · omega
  · split at h
    · next w v o hp => exact ⟨w, v, o, hp⟩
    · cases h

theorem memoryAccess_load_pages {d : Dev} {p a n : Nat} (h1 : 1 ≤ n) (h : rangePages d p a n = true) (found : Found) :
    memoryAccess d p a n none found = hostLoad d p a n := by
  obtain ⟨w, v, o, hp⟩ := placeOf_of_rangePages h1 h
  simp only [memoryAccess, hp, h, if_true]

theorem memoryAccess_store_pages {d : Dev} {p a n : Nat} (h1 : 1 ≤ n) (h : rangePages d p a n = true) (v : Word) (found : Found) :
    memoryAccess d p a n (some v) found = { viewWriteNat d p a n v.toNat with bus := .none } := by
  obtain ⟨w, x, o, hp⟩ := placeOf_of_rangePages h1 h
  simp only [memoryAccess, hp, h, if_true]

/-! Holding an access (R241) -/

theorem holdAccess_bus (d : Dev) (h : HeldAccess) : (holdAccess d h).bus = .held := by
  unfold holdAccess steadyBroken
  split <;> rfl

theorem holdAccess_held (d : Dev) (h : HeldAccess) : (holdAccess d h).held = d.held ++ [h] := by
  unfold holdAccess steadyBroken
  split <;> rfl

theorem holdAccess_of_steady {d : Dev} (hs : inSteady d = true) (h : HeldAccess) :
    holdAccess d h = setF { d with held := d.held ++ [h], bus := .held } F.pwrStatus_steady_broken 1 := if_pos hs

/-! Scratchpad addresses -/

theorem pagesTouched_eq_nil {d : Dev} {p a n : Nat} (h : ∀ x, a ≤ x → x < a + n → ∀ w v o, placeOf d p x ≠ .page w v o) :
    pagesTouched d p a n = [] := by
  unfold pagesTouched
  dsimp only
  split
  · rfl
  · next hn =>
    refine List.flatMap_eq_nil_iff.2 fun i hi => ?_
    have hi := List.mem_range.1 hi
    split
    · next w v o hp =>
      refine absurd hp (h _ ?_ ?_ w v o)
      · split
        · exact Nat.le_refl a
        · unfold pageSize; omega
      · split
        · omega
        · unfold pageSize at hi ⊢; omega
    · rfl

theorem mustHold_of_no_page {d : Dev} {p a n : Nat} (h : pagesTouched d p a n = []) (store : Option Word) :
    mustHold d ⟨p, a, n, store, false⟩ = false := by
  unfold mustHold
  simp [heldWrite, heldRange, h]

theorem placeOf_spadBase {d : Dev} {p c x : Nat} (hc : c < 28) (hx : x < 0x4000000) :
    placeOf d p (spadBase c + x) = if ownsCluster d p c then .spad c x else .nothing := by
  have h1 : (spadBase c + x - 0x040000000000) / 0x4000000 = c := by unfold spadBase; omega
  have h2 : (spadBase c + x) % 0x4000000 = x := by unfold spadBase; omega
  unfold placeOf
  dsimp only
  rw [if_neg (by unfold spadBase; omega), if_neg (by unfold spadBase; omega), if_pos (by unfold spadBase; omega), h1, h2]

/-- A scratchpad address is no page. -/
theorem placeOf_spadBase_ne_page {d : Dev} {p c x : Nat} (hc : c < 28) (hx : x < 0x4000000) (w : Tier) (v o : Nat) :
    placeOf d p (spadBase c + x) ≠ .page w v o := by
  rw [placeOf_spadBase hc hx]
  split <;> exact Place.noConfusion

theorem pagesTouched_spad {d : Dev} {p c off n : Nat} (hc : c < 28) (hn : off + n ≤ 0x4000000) :
    pagesTouched d p (spadBase c + off) n = [] := by
  refine pagesTouched_eq_nil fun x h1 h2 => ?_
  obtain ⟨y, rfl⟩ := Nat.exists_eq_add_of_le h1
  rw [Nat.add_assoc]
  exact placeOf_spadBase_ne_page hc (by omega)

/-- An access to a scratchpad is never held, and no page is behind it. -/
theorem hostMemory_spad {d : Dev} {p c off n : Nat} (hc : c < 28) (h1 : 1 ≤ n) (hn : off + n ≤ 0x4000000) (store : Option Word)
    (found : Found) (row : Nat) :
    hostMemory d p (spadBase c + off) n store found row = memoryAccess d p (spadBase c + off) n store found :=
  hostMemory_of_free (mustHold_of_no_page (pagesTouched_spad hc hn) store)
    (pageFound_of_no_page (placeOf_spadBase_ne_page hc (by omega)) found row)

section
variable {d : Dev} {p c off n : Nat} (hc : c < 28) (h1 : 1 ≤ n) (hn : off + n ≤ 0x4000000)
include hc h1 hn

theorem memoryAccess_spad_store (ho : ownsCluster d p c = true) (v : Word) (found : Found) :
    memoryAccess d p (spadBase c + off) n (some v) found = hostSpad d p c off n (fun _ b => b) v := by
  simp only [memoryAccess, placeOf_spadBase hc (by omega : off < 0x4000000), ho, if_true]

theorem memoryAccess_spad_load (ho : ownsCluster d p c = true) (found : Found) :
    memoryAccess d p (spadBase c + off) n none found = hostSpadLoad d p c (spadBase c + off) off n found := by
  simp only [memoryAccess, placeOf_spadBase hc (by omega : off < 0x4000000), ho, if_true]

theorem memoryAccess_spad_foreign (ho : ownsCluster d p c = false) (store : Option Word) (found : Found) :
    memoryAccess d p (spadBase c + off) n store found = accessError d (.host (Fin.ofNat 4 p)) := by
  simp [memoryAccess, placeOf_spadBase hc (by omega : off < 0x4000000), ho]

end

/-- A store to open banks that no protected program is in. -/
theorem hostSpad_of_open {d : Dev} {c off n : Nat} (hn : off + n ≤ 0x4000000) (hb : banksOpen d c off n = true)
    (hp : protectedHit d c off n = false) (p : Nat) (f : Byte → Byte → Byte) (v : Word) : hostSpad d p c off n f v =
      { reachCluster d c with mem := applyBytes f d.mem (spadBase c + off) v (BitVec.ofNat 8 (2 ^ n - 1)) 8, bus := .none } := by
  simp [hostSpad, Nat.not_lt.2 hn, hb, hp]

theorem hostSpadLoad_clean {d : Dev} {c off n : Nat} (hn : off + n ≤ 0x4000000) (hb : banksOpen d c off n = true)
    (p a : Nat) : hostSpadLoad d p c a off n .clean = hostLoad d p a n := by
  simp [hostSpadLoad, Nat.not_lt.2 hn, hb, bankError]

theorem hostSpadLoad_uncorrectable {d : Dev} {c off n : Nat} (hn : off + n ≤ 0x4000000) (hb : banksOpen d c off n = true)
    (p a : Nat) : hostSpadLoad d p c a off n .uncorrectable =
      { bankError (hostLoad d p a n) c (off / 0x200000) (off % 0x200000 / 64) .uncorrectable with bus := .none } := by
  simp [hostSpadLoad, Nat.not_lt.2 hn, hb]

/-- Byte i of a store of n bytes is enabled when i is below n. -/
theorem lowBytes_getLsbD {n : Nat} (hn : n ≤ 8) (i : Nat) : (BitVec.ofNat 8 (2 ^ n - 1)).getLsbD i = decide (i < n) := by
  rw [BitVec.getLsbD_ofNat, Nat.testBit_two_pow_sub_one, ← Bool.decide_and]
  exact decide_eq_decide.2 ⟨And.right, fun h => ⟨by omega, h⟩⟩

/-- A load of no page reaches the units on the way, and shows the bytes. -/
theorem hostLoad_of_no_page {d : Dev} {p a n : Nat} (h : pagesTouched d p a n = []) :
    hostLoad d p a n = { reachRange d p a n with bus := .value (BitVec.ofNat 64 (viewNat d p a n)) } := by
  unfold hostLoad noteRead
  rw [h]
  rfl

theorem viewRead_eq_map {d : Dev} {p a n : Nat} {g : Nat → Byte} (h : ∀ i < n, viewByte d p (a + i) = g i) :
    viewRead d p a n = (List.range n).map g := by
  induction n generalizing a g with
  | zero => rfl
  | succ n ih =>
    rw [List.range_succ_eq_map, List.map_cons, List.map_map, viewRead, ih (g := g ∘ Nat.succ)]
    · rw [← h 0 (Nat.succ_pos n)]; rfl
    · intro i hi
      rw [Nat.add_assoc, Nat.add_comm 1 i]
      exact h (i + 1) (by omega)

/-- A byte of a scratchpad as its partition sees it. -/
theorem viewByte_spad {d : Dev} {p c x : Nat} (hc : c < 28) (hx : x < 0x4000000) (ho : ownsCluster d p c = true) :
    viewByte d p (spadBase c + x) = memGet d.mem (spadBase c + x) := by
  simp [viewByte, lostByte, keyOf, placeOf_spadBase hc hx, ho]

theorem viewNat_spad {d : Dev} {p c off n : Nat} (hc : c < 28) (hn : off + n ≤ 0x4000000) (ho : ownsCluster d p c = true) :
    viewNat d p (spadBase c + off) n = leNat ((List.range n).map (fun i => memGet d.mem (spadBase c + off + i))) := by
  refine congrArg leNat (viewRead_eq_map fun i hi => ?_)
  rw [Nat.add_assoc]
  exact viewByte_spad hc (by omega) ho

/-- The bytes a lost word takes are the next free ones. -/
theorem loseWord_mem_congr {d e : Dev} (hf : e.free = d.free) (hm : e.mem = d.mem) (c b w : Nat) :
    (loseWord e c b w).mem = (loseWord d c b w).mem := by
  simp only [loseWord, freeBytes, hf, hm]

@[simp] theorem reachRange_f (d : Dev) (p a n : Nat) : (reachRange d p a n).f = d.f := forEach_same Dev.f reachUnit_f _ d
@[simp] theorem reachRange_free (d : Dev) (p a n : Nat) : (reachRange d p a n).free = d.free := forEach_same Dev.free reachUnit_free _ d

theorem bankError_uncorrectable_mem (d : Dev) (c b w : Nat) : (bankError d c b w .uncorrectable).mem = (loseWord d c b w).mem := by
  simp [bankError]

theorem getF_noteError (d : Dev) (c b r n : Nat) (col : Option Nat) (k : FKey) : getF (noteError d c b r n col) k = getF d k := rfl
theorem getF_moduleFault (d : Dev) (u : FaultUnit) (k : FKey) : getF (moduleFault d u) k = getF d k := rfl

theorem bankError_uncorrectable_ue (d : Dev) (c b w : Nat) : getF (bankError d c b w .uncorrectable) (F.bankStatus_ue c) = 1 := by
  have hw : (F.bankStatus_ue c).width = 1 := rfl
  rw [bankError, getF_moduleFault, getF_noteError, getF_setF_same, hw]
  rfl

/-- A host access in the memory of the view, as its outcome. -/
theorem exec_hostAccess_memory {s : State} (hp : s.dev.powerGood = true) {p : PartId} {a : BitVec 48} {n : Nat} (h1 : 1 ≤ n)
    (h8 : n ≤ 8) (ha : a.toNat + n ≤ 0x080000000000) (store : Option Word) (found : Found) (row : Nat) :
    exec (.hostAccess p a n store found row) s = .next { s with dev := hostMemory s.dev p a.toNat n store found row } := by
  rw [exec_hostAccess hp, hostAccess_memory h1 h8 ha]

theorem accesses_pages (s : State) (p : PartId) (a : BitVec 48) (n : Nat) (store : Option Word) (found : Found) (row : Nat)
    (hp : s.dev.powerGood = true) (h1 : 1 ≤ n) :
    let d := s.dev
    (inControl a.toNat = true → a.toNat % 8 ≠ 0 ∨ n ≠ 8 → ∃ t, exec (.hostAccess p a n store found row) s = .next t ∧
      t.dev.bus = .accessError ∧ t.dev.mem = d.mem) ∧
    (a.toNat + n ≤ 0x040000000000 → n ≤ 8 → rangePages d p a.toNat n = true →
      let h : HeldAccess := ⟨p, a.toNat, n, store, false⟩
      (mustHold d h = true → ∃ t, exec (.hostAccess p a n store found row) s = .next t ∧ t.dev.bus = .held ∧ t.dev.held = d.held ++ [h] ∧
        t.dev.mem = d.mem ∧ (inSteady d = true → getF t.dev F.pwrStatus_steady_broken = 1)) ∧
      (mustHold d h = false → store = none → found = .clean → ∃ t, exec (.hostAccess p a n store found row) s = .next t ∧
        t.dev.bus = .value (BitVec.ofNat 64 (viewNat d p a.toNat n)) ∧ t.dev.mem = d.mem) ∧
      (∀ v : Word, mustHold d h = false → store = some v → found = .clean → ∃ t, exec (.hostAccess p a n store found row) s = .next t ∧
        t.dev.bus = .none ∧ t.dev.mem = (viewWriteNat d p a.toNat n v.toNat).mem)) := by
  intro d
  refine ⟨fun hc ha => ?_, fun ha h8 hr => ⟨fun hh => ?_, ?_, ?_⟩⟩
  · rw [exec_hostAccess hp, hostAccess_control h1 hc ha]
    exact ⟨_, rfl, accessError_bus _ _, accessError_mem _ _⟩
  · rw [exec_hostAccess_memory hp h1 h8 (by omega), hostMemory_of_held hh]
    refine ⟨_, rfl, holdAccess_bus _ _, holdAccess_held _ _, holdAccess_mem _ _, fun hs => ?_⟩
    rw [holdAccess_of_steady hs]
    exact getF_setF_same _ _ 1
  · rintro hh rfl rfl
    rw [exec_hostAccess_memory hp h1 h8 (by omega), hostMemory_of_free hh (pageFound_clean _ _ _ _), memoryAccess_load_pages h1 hr]
    exact ⟨_, rfl, rfl, hostLoad_mem _ _ _ _⟩
  · rintro v hh rfl rfl
    rw [exec_hostAccess_memory hp h1 h8 (by omega), hostMemory_of_free hh (pageFound_clean _ _ _ _), memoryAccess_store_pages h1 hr]
    exact ⟨_, rfl, rfl, rfl⟩

theorem accesses_spad (s : State) (p : PartId) (c off n : Nat) (v : Word) (row : Nat) (hp : s.dev.powerGood = true) (h1 : 1 ≤ n)
    (h8 : n ≤ 8) :
    let d := s.dev
    let a := BitVec.ofNat 48 (0x040000000000 + 0x4000000 * c + off)
    let mine : Prop := c < 28 ∧ off + n ≤ 0x4000000 ∧ ownsCluster d p c = true ∧ banksOpen d c off n = true
    (∀ found, mine → Memory.wf d.mem = true → protectedHit d c off n = false →
      ∃ t, exec (.hostAccess p a n (some v) found row) s = .next t ∧
      (∀ i < n, memGet t.dev.mem (spadBase c + off + i) = BitVec.ofNat 8 (v.toNat / 256 ^ i)) ∧
      (∀ x, x < spadBase c + off ∨ spadBase c + off + n ≤ x → memGet t.dev.mem x = memGet d.mem x) ∧
      (∀ k, getF t.dev k = getF d k) ∧ t.sec = s.sec) ∧
    (mine → ∃ t, exec (.hostAccess p a n none .clean row) s = .next t ∧ t.dev.mem = d.mem ∧ (∀ k, getF t.dev k = getF d k) ∧
      t.dev.bus = .value (BitVec.ofNat 64 (leNat ((List.range n).map (fun i => memGet d.mem (spadBase c + off + i)))))) ∧
    (mine → ∃ t, exec (.hostAccess p a n none .uncorrectable row) s = .next t ∧ t.dev.bus = .none ∧ getF t.dev (F.bankStatus_ue c) = 1 ∧
      t.dev.mem = (loseWord d c (off / 0x200000) (off % 0x200000 / 64)).mem) ∧
    (∀ found, c < 28 → off + n ≤ 0x4000000 → ownsCluster d p c = false → ∃ t, exec (.hostAccess p a n (some v) found row) s = .next t ∧
      t.dev.bus = .accessError ∧ t.dev.mem = d.mem) := by
  intro d a mine
  have outcome (hc : c < 28) (hn : off + n ≤ 0x4000000) (store : Option Word) (found : Found) :
      exec (.hostAccess p a n store found row) s = .next { s with dev := memoryAccess d p (spadBase c + off) n store found } := by
    have ha : a.toNat = spadBase c + off := by
      simp only [a, BitVec.toNat_ofNat, spadBase]
      omega
    rw [exec_hostAccess_memory hp h1 h8 (by unfold spadBase at ha; omega), ha, hostMemory_spad hc h1 hn]
  have load (hc : c < 28) (hn : off + n ≤ 0x4000000) : hostLoad d p (spadBase c + off) n =
      { reachRange d p (spadBase c + off) n with bus := .value (BitVec.ofNat 64 (viewNat d p (spadBase c + off) n)) } :=
    hostLoad_of_no_page (pagesTouched_spad hc hn)
  refine ⟨?_, ?_, ?_, fun found hc hn ho => ?_⟩
  · rintro found ⟨hc, hn, ho, hb⟩ hw hq
    have hm (x : Nat) := memGet_applyBytes (fun _ b => b) (spadBase c + off) v (BitVec.ofNat 8 (2 ^ n - 1)) 8 x hw
    rw [outcome hc hn, memoryAccess_spad_store hc h1 hn ho, hostSpad_of_open hn hb hq]
    refine ⟨_, rfl, fun i hi => ?_, fun x hx => ?_, fun k => getF_reachCluster d c k, rfl⟩
    · refine (hm _).trans ?_
      rw [Nat.add_sub_cancel_left, if_pos ⟨by omega, by omega, (lowBytes_getLsbD h8 i).trans (decide_eq_true hi)⟩]
    · refine (hm _).trans (if_neg ?_)
      rw [lowBytes_getLsbD h8, decide_eq_true_eq]
      omega
  · rintro ⟨hc, hn, ho, hb⟩
    rw [outcome hc hn, memoryAccess_spad_load hc h1 hn ho, hostSpadLoad_clean hn hb, load hc hn]
    refine ⟨_, rfl, reachRange_mem _ _ _ _, fun k => getF_congr (reachRange_f _ _ _ _) k, ?_⟩
    rw [viewNat_spad hc hn ho]
  · rintro ⟨hc, hn, ho, hb⟩
    rw [outcome hc hn, memoryAccess_spad_load hc h1 hn ho, hostSpadLoad_uncorrectable hn hb]
    have hue := bankError_uncorrectable_ue (hostLoad d p (spadBase c + off) n) c (off / 0x200000) (off % 0x200000 / 64)
    have hmem := bankError_uncorrectable_mem (hostLoad d p (spadBase c + off) n) c (off / 0x200000) (off % 0x200000 / 64)
    have hfree : (hostLoad d p (spadBase c + off) n).free = d.free := by rw [load hc hn]; exact reachRange_free _ _ _ _
    rw [loseWord_mem_congr hfree (hostLoad_mem _ _ _ _)] at hmem
    generalize bankError (hostLoad d p (spadBase c + off) n) c (off / 0x200000) (off % 0x200000 / 64) .uncorrectable = e at hue hmem ⊢
    exact ⟨_, rfl, rfl, hue, hmem⟩
  · rw [outcome hc hn, memoryAccess_spad_foreign hc h1 hn ho]
    exact ⟨_, rfl, accessError_bus _ _, accessError_mem _ _⟩

/-- Settles O44: the fields of a store and a read, accesses to registers, to pages, and to a scratchpad. -/
theorem accesses : Obligations.Accesses :=
  ⟨⟨accesses_fields, accesses_registers⟩, accesses_pages, accesses_spad⟩

end Sys2Proof.Machine
end

section
namespace Sys2Proof.Machine

/-! The clock step (R18, R348, R349) -/

/-- What a broken STEADY is noted in leaves the rest of the state as it was. -/
theorem steadyBroken_same {α : Type} (v : Dev → α) {d : Dev} (hv : v (setF d F.pwrStatus_steady_broken 1) = v d) :
    v (steadyBroken d) = v d := by
  unfold steadyBroken
  split
  · exact hv
  · rfl

theorem getF_steadyBroken_of_ne (d : Dev) {k : FKey} (h : F.pwrStatus_steady_broken ≠ k) : getF (steadyBroken d) k = getF d k :=
  steadyBroken_same (fun e => getF e k) (getF_setF_of_ne d 1 h)

theorem getF_setF_aclk (d : Dev) (v : Nat) : getF (setF d F.pwrStatus_aclk v) F.pwrStatus_aclk = v % 2 ^ 16 := getF_setF_same _ _ v

theorem stepClock_of_above {d : Dev} (h : ceiling d < getF d F.pwrStatus_aclk) :
    getF (stepClock d) F.pwrStatus_aclk = (getF d F.pwrStatus_aclk - 25) % 2 ^ 16 := by
  unfold stepClock
  simp only [if_pos h]
  split
  · rw [getF_steadyBroken_of_ne _ (by decide), getF_setF_aclk]
  · exact getF_setF_aclk _ _

theorem stepClock_of_below {d : Dev} (h : getF d F.pwrStatus_aclk < ceiling d) :
    getF (stepClock d) F.pwrStatus_aclk = (getF d F.pwrStatus_aclk + 25) % 2 ^ 16 := by
  unfold stepClock
  simp only [if_neg (Nat.lt_asymm h), if_pos h]
  exact getF_setF_aclk _ _

theorem stepClock_at_ceiling {d : Dev} (h : getF d F.pwrStatus_aclk = ceiling d) : stepClock d = d := by
  unfold stepClock
  simp only [h, Nat.lt_irrefl, if_false]

/-! The measured power (Table 15.11) -/

/-- PWR_METER shows a measurement. -/
structure Metered (d : Dev) (watts cv ca : Nat) : Prop where
  power : getF d F.pwrMeter_power = watts
  volts : getF d F.pwrMeter_volts = cv
  amps : getF d F.pwrMeter_amps = ca

theorem getF_addFree_of_ne (d : Dev) {k j : FKey} (h : k ≠ j) : getF (addFree d k) j = getF d j := getF_setF_of_ne _ _ h

theorem getF_meter_of_ne (d : Dev) (watts cv ca : Nat) {k : FKey} (hm : Reg.pwrMeter ≠ k.reg) (he : Reg.pwrEnergy ≠ k.reg) :
    getF (meter d watts cv ca) k = getF d k := by
  rw [meter, getF_addFree_of_ne _ (FKey.ne_of_reg he)]
  simp only [getF_setF_of_ne _ _ (FKey.ne_of_reg hm : F.pwrMeter_power ≠ k), getF_setF_of_ne _ _ (FKey.ne_of_reg hm : F.pwrMeter_volts ≠ k),
    getF_setF_of_ne _ _ (FKey.ne_of_reg hm : F.pwrMeter_amps ≠ k)]

theorem getF_meter_pwrStatus (d : Dev) (watts cv ca lo : Nat) : getF (meter d watts cv ca) ⟨.pwrStatus, lo⟩ = getF d ⟨.pwrStatus, lo⟩ :=
  getF_meter_of_ne d watts cv ca Reg.noConfusion Reg.noConfusion

theorem getF_meter_pwrMode (d : Dev) (watts cv ca lo : Nat) : getF (meter d watts cv ca) ⟨.pwrMode, lo⟩ = getF d ⟨.pwrMode, lo⟩ :=
  getF_meter_of_ne d watts cv ca Reg.noConfusion Reg.noConfusion

/-- The mode in effect rests on the partitions' modes and the committed one. -/
theorem moduleMode_congr {d e : Dev} (hm : e.modes = d.modes) (hf : getF e F.pwrMode_mode = getF d F.pwrMode_mode) :
    moduleMode e = moduleMode d := by
  unfold moduleMode
  rw [hm, hf]

theorem moduleMode_meter (d : Dev) (watts cv ca : Nat) : moduleMode (meter d watts cv ca) = moduleMode d :=
  moduleMode_congr rfl (getF_meter_pwrMode d watts cv ca _)

theorem capWatts_meter (d : Dev) (watts cv ca : Nat) : capWatts (meter d watts cv ca) = capWatts d :=
  congrArg (25 * ·) (getF_meter_pwrMode d watts cv ca _)

section
variable {d : Dev} {watts cv ca : Nat}

theorem Metered.setF (h : Metered d watts cv ca) {k : FKey} (hk : k.reg ≠ .pwrMeter) (v : Nat) : Metered (setF d k v) watts cv ca :=
  ⟨(getF_setF_of_ne d v (FKey.ne_of_reg hk)).trans h.power, (getF_setF_of_ne d v (FKey.ne_of_reg hk)).trans h.volts,
    (getF_setF_of_ne d v (FKey.ne_of_reg hk)).trans h.amps⟩

/-- A meter's reading rests on the fields alone. -/
theorem Metered.of_f {e : Dev} (h : Metered d watts cv ca) (hf : e.f = d.f) : Metered e watts cv ca :=
  ⟨(getF_congr hf _).trans h.power, (getF_congr hf _).trans h.volts, (getF_congr hf _).trans h.amps⟩

theorem Metered.steadyBroken (h : Metered d watts cv ca) : Metered (steadyBroken d) watts cv ca := by
  unfold Machine.steadyBroken
  split
  · exact h.setF Reg.noConfusion 1
  · exact h

section
variable {put : Dev → Nat → Dev}

theorem Metered.lowerLimit (h : Metered d watts cv ca) (hput : ∀ e l, (put e l).f = e.f) (l : Nat) :
    Metered (lowerLimit d l put) watts cv ca := by
  unfold Machine.lowerLimit
  dsimp only
  split
  · split
    · exact (h.of_f (hput d _)).setF Reg.noConfusion _
    · exact h.of_f (hput d _)
  · exact h.of_f (hput d _)

theorem Metered.raiseLimit (h : Metered d watts cv ca) (hput : ∀ e l, (put e l).f = e.f) (l m : Nat) :
    Metered (raiseLimit d l m put) watts cv ca := by
  unfold Machine.raiseLimit
  dsimp only
  split
  · exact h.setF Reg.noConfusion _
  · exact h.of_f (hput d _)

end

section
variable (d) (hw : watts < 2 ^ 16) (hv : cv < 2 ^ 16) (ha : ca < 2 ^ 16)
include hw hv ha

theorem metered_meter : Metered (meter d watts cv ca) watts cv ca := by
  have width : F.pwrMeter_power.width = 16 ∧ F.pwrMeter_volts.width = 16 ∧ F.pwrMeter_amps.width = 16 := ⟨rfl, rfl, rfl⟩
  obtain ⟨hpw, hvw, haw⟩ := width
  unfold meter
  constructor <;> rw [getF_addFree_of_ne _ (by decide)]
  · rw [getF_setF_of_ne _ _ (by decide), getF_setF_of_ne _ _ (by decide), getF_setF_same, hpw, Nat.mod_eq_of_lt hw]
  · rw [getF_setF_of_ne _ _ (by decide), getF_setF_same, hvw, Nat.mod_eq_of_lt hv]
  · rw [getF_setF_same, haw, Nat.mod_eq_of_lt ha]

/-! Each loop shows what was measured, whatever it does then. -/

theorem metered_capStep : Metered (capStep d watts cv ca) watts cv ca := by
  have h := metered_meter d hw hv ha
  unfold capStep
  dsimp only
  split
  · exact h
  split
  · refine h.lowerLimit ?_ _
    exact fun _ _ => rfl
  split
  · split
    · exact h.setF Reg.noConfusion _
    · refine h.raiseLimit ?_ _ _
      exact fun _ _ => rfl
  · exact h

theorem metered_admissionStep : Metered (admissionStep d watts cv ca) watts cv ca := by
  have h := metered_meter d hw hv ha
  unfold admissionStep
  dsimp only
  split
  · exact h.setF Reg.noConfusion _
  · exact h

theorem metered_currentStep : Metered (currentStep d watts cv ca) watts cv ca := by
  have h := metered_meter d hw hv ha
  unfold currentStep
  dsimp only
  split
  · have hlimit : Metered { meter d watts cv ca with ilimLimit := 1200 } watts cv ca := h.of_f rfl
    have hflags := (hlimit.setF (k := F.pwrStatus_ilim) Reg.noConfusion 1).setF (k := F.telAlert_ilim) Reg.noConfusion 1
    split
    · exact (hflags.setF Reg.noConfusion _).steadyBroken
    · exact hflags
  split
  · exact h.of_f rfl
  · exact h

end
end

/-! The loops' limits (R348, R352 to R354, log entry 47) -/

/-- With ACLK above its minimum a loop lowers its limit by one step below the present point. -/
theorem lowerLimit_above_minimum {d : Dev} {l : Nat} (h : 900 < min l (getF d F.pwrStatus_aclk)) (put : Dev → Nat → Dev) :
    lowerLimit d l put = put d (min l (getF d F.pwrStatus_aclk) - 25) := if_neg (Nat.not_le.2 h)

/-- With HCLK at its point a loop raises its limit by one step. -/
theorem raiseLimit_of_full_hclk {d : Dev} (h : 2600 ≤ getF d F.pwrStatus_hclk) (l m : Nat) (put : Dev → Nat → Dev) :
    raiseLimit d l m put = put d (min 1800 (l + 25)) := if_neg (by omega)

theorem capStep_of_not_capped {d : Dev} (h : moduleMode d ≠ 2) (watts cv ca : Nat) : capStep d watts cv ca = meter d watts cv ca :=
  if_pos (moduleMode_meter d watts cv ca ▸ h)

section
variable {d : Dev} {watts cv ca : Nat} (hm : moduleMode d = 2)
include hm

theorem capStep_over_cap (hc : capWatts d < watts) (hl : 900 < min d.capLimit (getF d F.pwrStatus_aclk)) :
    capStep d watts cv ca = { meter d watts cv ca with capLimit := min d.capLimit (getF d F.pwrStatus_aclk) - 25 } := by
  unfold capStep
  dsimp only
  rw [moduleMode_meter, capWatts_meter, if_neg (not_not.2 hm), if_pos hc, lowerLimit_above_minimum]
  · rw [getF_meter_pwrStatus]
    rfl
  · rwa [getF_meter_pwrStatus]

theorem capStep_under_cap (hc : watts + 50 ≤ capWatts d) (hk : 8 ≤ getF d F.pwrStatus_admit) (hh : 2600 ≤ getF d F.pwrStatus_hclk) :
    capStep d watts cv ca = { meter d watts cv ca with capLimit := min 1800 (d.capLimit + 25) } := by
  unfold capStep
  dsimp only
  rw [moduleMode_meter, capWatts_meter, if_neg (not_not.2 hm), if_neg (by omega : ¬ watts > capWatts d), if_pos hc,
    getF_meter_pwrStatus, if_neg (Nat.not_lt.2 hk), raiseLimit_of_full_hclk (hh.trans_eq (getF_meter_pwrStatus ..).symm)]
  rfl

theorem admissionStep_over_cap (hc : capWatts d < watts) (hf : getF d F.pwrStatus_aclk ≤ 900) (hh : getF d F.pwrStatus_hclk ≤ 1300)
    (hk : 2 < getF d F.pwrStatus_admit) :
    admissionStep d watts cv ca = setF (meter d watts cv ca) F.pwrStatus_admit (getF d F.pwrStatus_admit - 1) := by
  unfold admissionStep
  dsimp only
  simp only [moduleMode_meter, capWatts_meter, getF_meter_pwrStatus]
  exact if_pos ⟨hm, hc, hf, hh, hk⟩

end

/-- The module as the current limiter acts (R354), before ACLK falls. -/
def currentLimited (d : Dev) : Dev := setF (setF { d with ilimLimit := 1200 } F.pwrStatus_ilim 1) F.telAlert_ilim 1

/-- What the current limiter shows: its limit, its flags, and ACLK at most at 1.20 GHz. -/
structure CurrentLimited (d : Dev) (f : Nat) : Prop where
  limit : d.ilimLimit = 1200
  status : getF d F.pwrStatus_ilim = 1
  alert : getF d F.telAlert_ilim = 1
  aclk : getF d F.pwrStatus_aclk = min f 1200

theorem getF_currentLimited_aclk (d : Dev) : getF (currentLimited d) F.pwrStatus_aclk = getF d F.pwrStatus_aclk := by
  unfold currentLimited
  rw [getF_setF_of_ne _ _ (by decide), getF_setF_of_ne _ _ (by decide)]
  rfl

theorem currentLimited_flags (d : Dev) :
    getF (currentLimited d) F.pwrStatus_ilim = 1 ∧ getF (currentLimited d) F.telAlert_ilim = 1 := by
  unfold currentLimited
  constructor
  · rw [getF_setF_of_ne _ _ (by decide), getF_setF_same]
    rfl
  · rw [getF_setF_same]
    rfl

theorem currentStep_over_limit {d : Dev} {ca : Nat} (h : 8000 < ca) (watts cv : Nat) :
    CurrentLimited (currentStep d watts cv ca) (getF d F.pwrStatus_aclk) := by
  have hf : getF (currentLimited (meter d watts cv ca)) F.pwrStatus_aclk = getF d F.pwrStatus_aclk :=
    (getF_currentLimited_aclk _).trans (getF_meter_pwrStatus ..)
  obtain ⟨hstatus, halert⟩ := currentLimited_flags (meter d watts cv ca)
  have hstep : currentStep d watts cv ca =
      if getF (currentLimited (meter d watts cv ca)) F.pwrStatus_aclk > 1200 then
        steadyBroken (setF (currentLimited (meter d watts cv ca)) F.pwrStatus_aclk 1200)
      else currentLimited (meter d watts cv ca) := if_pos h
  rw [hstep, hf]
  split
  · next hfast =>
    have keep {e : Dev} {k : FKey} (hb : F.pwrStatus_steady_broken ≠ k) (hk : F.pwrStatus_aclk ≠ k) :
        getF (steadyBroken (setF e F.pwrStatus_aclk 1200)) k = getF e k :=
      (getF_steadyBroken_of_ne _ hb).trans (getF_setF_of_ne e 1200 hk)
    refine ⟨steadyBroken_same Dev.ilimLimit rfl, (keep (by decide) (by decide)).trans hstatus,
      (keep (by decide) (by decide)).trans halert, ?_⟩
    rw [getF_steadyBroken_of_ne _ (by decide), getF_setF_aclk, Nat.min_eq_right (Nat.le_of_lt hfast)]
    rfl
  · next hslow => exact ⟨rfl, hstatus, halert, hf.trans (Nat.min_eq_left (Nat.not_lt.1 hslow)).symm⟩

/-! The thermal loop (R361) -/

theorem mem_sensorsWith {d : Dev} {n : Nat} {x : Int} {ok : Nat → Int → Bool} (hn : n < 78) (hr : reading d n = some x)
    (hx : ok n x = true) : n ∈ sensorsWith d ok :=
  List.mem_filter.2 ⟨List.mem_range.2 hn, by rw [hr]; exact hx⟩

/-- One die, regulator or coolant sensor above its throttle limit lowers the thermal loop's limit. -/
theorem thermalStep_of_hot {d : Dev} {n : Nat} {x : Int} (hn : n < 78) (hs : n < 40 ∨ 72 ≤ n) (hr : reading d n = some x)
    (hx : 16 * ((sensorLimits n).2.1 : Int) < x) (hl : 900 < min d.thermLimit (getF d F.pwrStatus_aclk)) :
    thermalStep d = steadyBroken (setF { d with thermLimit := min d.thermLimit (getF d F.pwrStatus_aclk) - 25 } F.telAlert_throttle 1) := by
  have hot : n ∈ sensorsWith d (fun n t => (decide (n < 40) || decide (72 ≤ n)) && above t (sensorLimits n).2.1) :=
    mem_sensorsWith hn hr (by simp [above, hs, hx])
  unfold thermalStep
  dsimp only
  rw [if_pos (by simpa using List.ne_nil_of_mem hot), lowerLimit_above_minimum hl]

/-! The end of CAPPED mode (R348, R353; at once, log entry 98) -/

/-- What a wake changes is where the units stand. -/
theorem requestWake_same {α : Type} (v : Dev → α) (hv : ∀ d g w q, v { d with gated := g, waking := w, wakeQueue := q } = v d)
    (d : Dev) (x : GatedUnit) : v (requestWake d x) = v d := by
  unfold requestWake
  dsimp only
  split
  · rfl
  · split
    · exact hv d _ _ d.wakeQueue
    · exact hv d _ d.waking _

/-- Units that stay awake change where they stand and the kiln cores' states. -/
theorem stayAwake_same {α : Type} (v : Dev → α) (hv : ∀ d g w q, v { d with gated := g, waking := w, wakeQueue := q } = v d)
    (hk : ∀ d k, v (setF d (F.klnCore_state k) 1) = v d) (d : Dev) : v (stayAwake d) = v d := by
  refine forEach_same v (fun d x => ?_) _ d
  split
  · exact (requestWake_same v hv _ _).trans (hk d _)
  · exact requestWake_same v hv d x

theorem getF_stayAwake (d : Dev) {k : FKey} (h : ∀ n, F.klnCore_state n ≠ k) : getF (stayAwake d) k = getF d k :=
  stayAwake_same (fun e => getF e k) (fun _ _ _ _ => rfl) (fun e n => getF_setF_of_ne e 1 (h n)) d

theorem moduleMode_stayAwake (d : Dev) : moduleMode (stayAwake d) = moduleMode d :=
  moduleMode_congr (stayAwake_same Dev.modes (fun _ _ _ _ => rfl) (fun _ _ => rfl) d)
    (getF_stayAwake d (fun _ => FKey.ne_of_reg Reg.noConfusion))

theorem moduleMode_leaveCap (d : Dev) : moduleMode (leaveCap d) = moduleMode d := by
  have keep (e : Dev) {k : FKey} (hk : k ≠ F.pwrMode_mode) (v : Nat) : moduleMode (setF e k v) = moduleMode e :=
    moduleMode_congr rfl (getF_setF_of_ne e v hk)
  unfold leaveCap
  dsimp only
  split
  · rfl
  have hadmit : moduleMode (setF { d with capLimit := 1800 } F.pwrStatus_admit 8) = moduleMode d := keep _ (by decide) 8
  split
  · exact (keep _ (by decide) 2600).trans hadmit
  · exact hadmit

/-- Outside CAPPED the limit and the admission are released. -/
theorem leaveCap_of_not_capped {d : Dev} (h : moduleMode d ≠ 2) :
    (leaveCap d).capLimit = 1800 ∧ getF (leaveCap d) F.pwrStatus_admit = 8 := by
  have hadmit : getF (setF { d with capLimit := 1800 } F.pwrStatus_admit 8) F.pwrStatus_admit = 8 := getF_setF_same _ _ 8
  unfold leaveCap
  rw [if_neg h]
  dsimp only
  split
  · exact ⟨rfl, (getF_setF_of_ne _ 2600 (by decide)).trans hadmit⟩
  · exact ⟨rfl, hadmit⟩

theorem enterMode_of_not_capped {d : Dev} {p m : Nat} (h : moduleMode (enterMode d p m) ≠ 2) :
    (enterMode d p m).capLimit = 1800 ∧ getF (enterMode d p m) F.pwrStatus_admit = 8 := by
  unfold enterMode at h ⊢
  dsimp only at h ⊢
  rw [moduleMode_stayAwake, moduleMode_leaveCap] at h
  obtain ⟨hlimit, hadmit⟩ := leaveCap_of_not_capped h
  exact ⟨(stayAwake_same Dev.capLimit (fun _ _ _ _ => rfl) (fun _ _ => rfl) _).trans hlimit,
    (getF_stayAwake _ (fun _ => FKey.ne_of_reg Reg.noConfusion)).trans hadmit⟩

/-- Settles O52: each loop's step, by the branch it takes, and the release of the cap where a mode is entered. -/
theorem clocksAndLoops : Obligations.ClocksAndLoops := by
  intro s watts cv ca hp
  extract_lets d f h cap point committed someSwitched top lowest measured
  have run {i : Instr} (g : Dev → Dev) (hi : exec i s = .next (onDev g s)) : exec i s = .next { s with dev := g d } :=
    hi.trans (congrArg Host.Outcome.next (onDev_of_good hp))
  have clock : exec .clockStep s = .next { s with dev := stepClock d } := run stepClock rfl
  have hceiling : lowest = ceiling d := rfl
  refine ⟨⟨_, clock, stepClock_mem d, stepClock_of_above, stepClock_of_below, fun hf => ?_⟩, fun hw hv ha => ?_,
    fun n x hn hs hr hx hl => ?_, fun p m => enterMode_of_not_capped⟩
  · rw [stepClock_at_ceiling (hf.trans hceiling)]
  · have capLoop : exec (.capLoopStep watts cv ca) s = .next { s with dev := capStep d watts cv ca } :=
      run (fun e => capStep e watts cv ca) rfl
    have capMeasured : measured { s with dev := capStep d watts cv ca } :=
      have hshown := metered_capStep d hw hv ha
      ⟨hshown.power, hshown.volts, hshown.amps, capStep_mem d watts cv ca, rfl⟩
    refine ⟨fun hm hc hl => ?_, fun hm hc hk hh => ?_, fun hm => ?_, fun hm hc hf hh hk hk8 => ?_, fun hca => ?_⟩
    · exact ⟨_, capLoop, capMeasured, congrArg Dev.capLimit (capStep_over_cap hm hc hl)⟩
    · exact ⟨_, capLoop, capMeasured, congrArg Dev.capLimit (capStep_under_cap hm hc hk hh)⟩
    · have hlimit := congrArg Dev.capLimit (capStep_of_not_capped hm watts cv ca)
      exact ⟨_, capLoop, capMeasured, hlimit⟩
    · have hshown := metered_admissionStep d hw hv ha
      refine ⟨_, run (fun e => admissionStep e watts cv ca) rfl,
        ⟨hshown.power, hshown.volts, hshown.amps, admissionStep_mem d watts cv ca, rfl⟩, ?_⟩
      have hwidth : F.pwrStatus_admit.width = 4 := rfl
      dsimp only
      rw [admissionStep_over_cap hm hc hf hh hk, getF_setF_same, hwidth]
      omega
    · have hshown := metered_currentStep d hw hv ha
      have hl : CurrentLimited (currentStep d watts cv ca) f := currentStep_over_limit hca watts cv
      exact ⟨_, run (fun e => currentStep e watts cv ca) rfl,
        ⟨hshown.power, hshown.volts, hshown.amps, currentStep_mem d watts cv ca, rfl⟩, hl.limit, hl.status, hl.alert, hl.aclk⟩
  · refine ⟨_, run thermalStep rfl, ?_, ?_, thermalStep_mem d⟩ <;> dsimp only <;> rw [thermalStep_of_hot hn hs hr hx hl]
    · exact steadyBroken_same Dev.thermLimit rfl
    · exact (getF_steadyBroken_of_ne _ (by decide)).trans (getF_setF_same _ _ 1)

end Sys2Proof.Machine
end

section
namespace Sys2Proof.Machine

/-! Small laws of tables, fields and lists -/

@[simp] theorem Tab.get?_erase_same {κ α : Type} [DecidableEq κ] (t : Tab κ α) (k : κ) : Tab.get? (Tab.erase t k) k = none := by
  induction t with
  | nil => rfl
  | cons e r ih =>
    obtain ⟨x, v⟩ := e
    by_cases hx : x = k
    · subst hx; simpa [Tab.erase] using ih
    · simpa [Tab.erase, Tab.get?, hx] using ih

theorem clusterOf_congr {d e : Dev} (h : e.cl = d.cl) (c : Nat) : clusterOf e c = clusterOf d c := by unfold clusterOf; rw [h]

theorem partOf_congr {d e : Dev} (h : ∀ p, getF e (F.hostPcfg_clusters p) = getF d (F.hostPcfg_clusters p)) (c : Nat) :
    partOf e c = partOf d c := by
  simp only [partOf, ownsCluster, h]

/-! Interrupts and events (R49, Table 2.6) -/

@[simp] theorem raise_cl (d : Dev) (p : Option Nat) (irq en : FKey) : (raise d p irq en).cl = d.cl := by
  unfold raise; split
  · dsimp only; split <;> rfl
  · rfl

/-- An interrupt sets its own bit and no other field, whether or not a message goes out. -/
theorem raise_f (d : Dev) (p : Option Nat) (irq en : FKey) : (raise d p irq en).f = (setF d irq 1).f := by
  unfold raise; split
  · dsimp only; split <;> rfl
  · rfl

theorem getF_raise (d : Dev) (p : Option Nat) (irq en k : FKey) : getF (raise d p irq en) k = getF (setF d irq 1) k :=
  getF_congr (raise_f d p irq en) k

@[simp] theorem evAdd_cl (d : Dev) (c e k : Nat) : (evAdd d c e k).cl = d.cl := by
  unfold evAdd; dsimp only; split <;> simp

@[simp] theorem signal_cl (d : Dev) (c : Nat) (x : Option Nat) : (signal d c x).cl = d.cl := by
  unfold signal; split <;> simp

@[simp] theorem clusterOf_raise (d : Dev) (p : Option Nat) (irq en : FKey) (c : Nat) :
    clusterOf (raise d p irq en) c = clusterOf d c := clusterOf_congr (raise_cl d p irq en) c
@[simp] theorem clusterOf_signal (d : Dev) (c : Nat) (x : Option Nat) (k : Nat) : clusterOf (signal d c x) k = clusterOf d k :=
  clusterOf_congr (signal_cl d c x) k

/-- An addition that the counter holds. -/
theorem evAdd_of_le {d : Dev} {c e k : Nat} (h : getF d (F.mcEvt_count c e) + k ≤ 65535) :
    evAdd d c e k = setF d (F.mcEvt_count c e) (getF d (F.mcEvt_count c e) + k) := if_pos h

/-- An addition that passes the counter's range. -/
theorem evAdd_of_gt {d : Dev} {c e k : Nat} (h : 65535 < getF d (F.mcEvt_count c e) + k) :
    evAdd d c e k = raise (setF (setF d (F.mcEvt_count c e) 65535) (F.mcSeqStatus_evt_ovf c) 1) (partOf d c)
      (F.mcSeqIrq_evt_ovf c) (F.mcSeqIrqEn_evt_ovf c) := if_neg (by omega)

theorem evt_width (c e : Nat) : (F.mcEvt_count c e).width = 16 := rfl

/-- A counter after an addition: the sum, at most 65,535 (R49). -/
theorem getF_evAdd_same {d : Dev} {c e k : Nat} : getF (evAdd d c e k) (F.mcEvt_count c e) =
    min 65535 (getF d (F.mcEvt_count c e) + k) := by
  rcases Nat.lt_or_ge 65535 (getF d (F.mcEvt_count c e) + k) with h | h
  · rw [evAdd_of_gt h, getF_raise]
    simp only [getF_setF, evt_width]
    simp
    omega
  · rw [evAdd_of_le h, getF_setF_same, evt_width]
    omega

/-- The fields that an addition to E[e] of cluster c may change. -/
def evField (c e : Nat) (k : FKey) : Bool :=
  k == F.mcEvt_count c e || k == F.mcSeqStatus_evt_ovf c || k == F.mcSeqIrq_evt_ovf c

theorem getF_evAdd_of_not {d : Dev} {c e n : Nat} {k : FKey} (h : evField c e k = false) : getF (evAdd d c e n) k = getF d k := by
  simp only [evField, Bool.or_eq_false_iff, beq_eq_false_iff_ne, ne_eq] at h
  obtain ⟨⟨hc, hs⟩, hi⟩ := h
  unfold evAdd
  dsimp only
  split
  · exact getF_setF_of_ne d _ (Ne.symm hc)
  · rw [getF_raise, getF_setF_of_ne _ _ (Ne.symm hi), getF_setF_of_ne _ _ (Ne.symm hs), getF_setF_of_ne _ _ (Ne.symm hc)]

@[simp] theorem getF_signal {d : Dev} {c : Nat} {x : Option Nat} {k : FKey} (h : ∀ e, evField c e k = false) :
    getF (signal d c x) k = getF d k := by
  unfold signal; split
  · exact getF_evAdd_of_not (h _)
  · rfl

/-! What the sequencer itself changes -/

/-- e is d but for what the sequencer of cluster c changes of its own: its fields, the clusters' records, local barriers and
interrupt messages. -/
structure SeqOnly (c : Nat) (d e : Dev) : Prop where
  rest : e = { d with f := e.f, cl := e.cl, bars := e.bars, msis := e.msis }
  field : ∀ k, sequencerOwn c k = false → getF e k = getF d k

namespace SeqOnly
variable {c : Nat} {d e g : Dev}

theorem refl (c : Nat) (d : Dev) : SeqOnly c d d := ⟨rfl, fun _ _ => rfl⟩

theorem trans (h : SeqOnly c d e) (h' : SeqOnly c e g) : SeqOnly c d g :=
  ⟨h'.rest.trans (by rw [h.rest]), fun k hk => (h'.field k hk).trans (h.field k hk)⟩

theorem setF {k : FKey} (hk : sequencerOwn c k = true) (d : Dev) (v : Nat) : SeqOnly c d (setF d k v) :=
  ⟨rfl, fun j hj => getF_setF_of_ne d v (fun e => by rw [e, hj] at hk; cases hk)⟩

theorem modCluster (c : Nat) (d : Dev) (n : Nat) (m : Cluster → Cluster) : SeqOnly c d (modCluster d n m) := ⟨rfl, fun _ _ => rfl⟩

theorem bars (c : Nat) (d : Dev) (b : Tab (Nat × Nat) LocalBarrier) : SeqOnly c d { d with bars := b } := ⟨rfl, fun _ _ => rfl⟩

theorem raise {irq : FKey} (hk : sequencerOwn c irq = true) (d : Dev) (p : Option Nat) (en : FKey) : SeqOnly c d (raise d p irq en) := by
  refine ⟨?_, fun j hj => (getF_raise d p irq en j).trans ((setF hk d 1).field j hj)⟩
  unfold Machine.raise; split
  · dsimp only; split <;> rfl
  · rfl

theorem part (h : SeqOnly c d e) (n : Nat) : partOf e n = partOf d n := partOf_congr (fun _ => h.field _ rfl) n

/-- A part of the state other than the fields, the clusters' records, the local barriers and the messages. -/
theorem same {α : Type} (h : SeqOnly c d e) (v : Dev → α)
    (hv : ∀ f cl b m, v { d with f := f, cl := cl, bars := b, msis := m } = v d) : v e = v d := by
  rw [h.rest]; exact hv _ _ _ _

end SeqOnly

theorem sequencerOwn_iff {c : Nat} {k : FKey} : sequencerOwn c k = true ↔ k.reg = .mcSeqPc c ∨ k.reg = .mcSeqStatus c ∨
    k.reg = .mcSeqCtrl c ∨ k.reg = .mcSeqFault c ∨ k.reg = .mcSeqIrq c ∨ ∃ e, k.reg = .mcEvt c e := by
  unfold sequencerOwn
  split <;> simp_all

theorem sequencerOwn_of_reg {c : Nat} {k : FKey} (h : k.reg = .mcSeqPc c ∨ k.reg = .mcSeqStatus c ∨
    k.reg = .mcSeqCtrl c ∨ k.reg = .mcSeqFault c ∨ k.reg = .mcSeqIrq c ∨ ∃ e, k.reg = .mcEvt c e) : sequencerOwn c k = true :=
  sequencerOwn_iff.2 h

theorem seqOnly_evAdd (d : Dev) (c e k : Nat) : SeqOnly c d (evAdd d c e k) := by
  unfold evAdd
  dsimp only
  split
  · exact .setF (by simp [sequencerOwn]) d _
  · exact ((SeqOnly.setF (by simp [sequencerOwn]) d _).trans (.setF (by simp [sequencerOwn]) _ _)).trans
      (.raise (by simp [sequencerOwn]) _ _ _)

theorem seqOnly_signal (d : Dev) (c : Nat) (x : Option Nat) : SeqOnly c d (signal d c x) := by
  unfold signal; split
  · exact seqOnly_evAdd d c _ 1
  · exact .refl c d

theorem seqOnly_setWait (d : Dev) (c n : Nat) : SeqOnly c d (setWait d c n) :=
  (SeqOnly.setF (by simp [sequencerOwn]) d _).trans (.setF (by simp [sequencerOwn]) _ _)

theorem seqOnly_setRunning (d : Dev) (c : Nat) : SeqOnly c d (setRunning d c) :=
  (SeqOnly.setF (by simp [sequencerOwn]) d _).trans (.setF (by simp [sequencerOwn]) _ _)

theorem seqOnly_setLoops (d : Dev) (c : Nat) (ls : List LoopRec) : SeqOnly c d (setLoops d c ls) :=
  (SeqOnly.modCluster c d c _).trans (.setF (by simp [sequencerOwn]) _ _)

theorem seqOnly_setPend (d : Dev) (c k pc : Nat) (x : Bool) : SeqOnly c d (setPend d c k pc x) := .modCluster c d c _

theorem seqOnly_enterRest (d : Dev) (c st : Nat) : SeqOnly c d (enterRest d c st) := by
  have h : SeqOnly c d (setF (setF d (F.mcSeqStatus_wait_cause c) 0) (F.mcSeqCtrl_stop c) 0) :=
    (SeqOnly.setF (by simp [sequencerOwn]) d 0).trans (.setF (by simp [sequencerOwn]) _ 0)
  unfold enterRest
  dsimp only
  split
  · exact h.trans ((SeqOnly.modCluster c _ c _).trans (.setF (by simp [sequencerOwn]) _ 6))
  · exact h.trans (.setF (by simp [sequencerOwn]) _ st)

theorem seqOnly_advanceTo (d : Dev) (c npc : Nat) : SeqOnly c d (advanceTo d c npc) := by
  have h := (seqOnly_setLoops d c (loopNext npc (clusterOf d c).loops).2).trans (seqOnly_setRunning _ c)
  have own : sequencerOwn c (F.mcSeqPc_pc c) = true := by simp [sequencerOwn]
  unfold advanceTo
  dsimp only
  split
  · exact h.trans (.setF own _ _)
  · exact h.trans ((SeqOnly.setF own _ _).trans (seqOnly_setPend _ c _ _ _))

theorem seqOnly_leaveBarrier (d : Dev) (p b c n : Nat) : SeqOnly n d (leaveBarrier d p b c) := by
  unfold leaveBarrier; split
  · exact .refl n d
  · dsimp only; split <;> exact .bars n d _

theorem seqOnly_withdraw (d : Dev) (c : Nat) : SeqOnly c d (withdraw d c) := by
  unfold withdraw; split
  · exact .refl c d
  · dsimp only
    refine SeqOnly.trans ?_ ((seqOnly_signal _ c _).trans (.modCluster c _ c _))
    split
    · exact seqOnly_leaveBarrier d _ _ c c
    · exact .refl c d

theorem seqOnly_endWait (d : Dev) (c : Nat) : SeqOnly c d (endWait d c) := by
  unfold endWait; split
  · exact .refl c d
  · exact ((SeqOnly.modCluster c d c _).trans (seqOnly_signal _ c _)).trans (seqOnly_advanceTo _ c _)

theorem seqOnly_enterFaulted (d : Dev) (c : Nat) (x : PendFault) : SeqOnly c d (enterFaulted d c x) := by
  have h : SeqOnly c d (setF (setF (setF d (F.mcSeqFault_cause c) x.cause) (F.mcSeqFault_pc c) x.pc)
      (F.mcSeqFault_deferred c) (b2n x.deferred)) :=
    ((SeqOnly.setF (by simp [sequencerOwn]) d _).trans (.setF (by simp [sequencerOwn]) _ _)).trans
      (.setF (by simp [sequencerOwn]) _ _)
  exact h.trans (((SeqOnly.modCluster c _ c _).trans (seqOnly_enterRest _ c 5)).trans (.raise (by simp [sequencerOwn]) _ _ _))

theorem seqOnly_settleFault (d : Dev) (c : Nat) : SeqOnly c d (settleFault d c) := by
  have faulted (e : Dev) (x : PendFault) (h : SeqOnly c d e) : SeqOnly c d (if drained e c then enterFaulted e c x else e) := by
    split
    · exact h.trans (seqOnly_enterFaulted e c x)
    · exact h
  unfold settleFault
  split
  · exact .refl c d
  · refine faulted _ _ ?_
    split
    · split
      · exact seqOnly_withdraw d c
      · exact .refl c d
    · exact .refl c d

theorem seqOnly_settle (d : Dev) (c : Nat) : SeqOnly c d (settle d c) := by
  unfold settle; split
  · exact (seqOnly_endWait d c).trans (seqOnly_settleFault _ c)
  · exact seqOnly_settleFault d c

theorem seqOnly_advance_settle (d : Dev) (c : Nat) : SeqOnly c d (settle (advance d c) c) :=
  (seqOnly_advanceTo d c _).trans (seqOnly_settle _ c)

/-- What an instruction that is not queued leaves (R29, R33). -/
theorem seqOnly_finishRun (c w : Nat) {x : End} (hx : ∀ e, x ≠ .queued e) : SeqOnly c x.dev (finishRun c w x) := by
  cases x with
  | done d => exact (seqOnly_signal d c _).trans (seqOnly_advance_settle _ c)
  | jump d pc taken =>
    refine (seqOnly_signal d c (sigOf w)).trans ?_
    cases taken with
    | false => exact (seqOnly_advanceTo _ c pc).trans (seqOnly_settle _ c)
    | true =>
      exact ((seqOnly_setRunning _ c).trans (.setF (by simp [sequencerOwn]) _ pc)).trans (seqOnly_settle _ c)
  | queued d => exact absurd rfl (hx d)
  | hold d on => exact ((SeqOnly.modCluster c d c _).trans (seqOnly_setWait _ c _)).trans (seqOnly_settle _ c)
  | halted d =>
    exact (((seqOnly_signal d c _).trans (.setF (by simp [sequencerOwn]) _ _)).trans (seqOnly_enterRest _ c 3)).trans
      (.raise (by simp [sequencerOwn]) _ _ _)

/-- What a queued one leaves, once its placement is noted (R131). -/
theorem seqOnly_finishRun_queued (c w : Nat) (d : Dev) : SeqOnly c (notePlaced d c w) (finishRun c w (.queued d)) :=
  seqOnly_advance_settle _ c

/-! The placement of a reduction (R131) -/

theorem notePlaced_eq (d : Dev) (c w : Nat) : notePlaced d c w = { d with placed := (notePlaced d c w).placed } := by
  unfold notePlaced; split
  · split <;> rfl
  · rfl

theorem notePlaced_of_other {d : Dev} {c w : Nat} (h : reduces w = false) : notePlaced d c w = d := by
  unfold notePlaced; split
  · rw [h, Bool.and_false]; rfl
  · rfl

theorem notePlaced_of_ref {d : Dev} {c w p : Nat} (hp : partOf d c = some p) (hr : isRef d p = true) (h : reduces w = true) :
    notePlaced d c w = { d with placed := Tab.put d.placed p ((Tab.get? d.placed p).getD [] ++ [⟨c, pcOf d c, w⟩]) } := by
  simp only [notePlaced, hp, hr, h, Bool.and_self, if_true]

/-! Where issue goes on -/

theorem settle_of_clear {d : Dev} {c : Nat} (hw : (clusterOf d c).waiting = none) (hp : (clusterOf d c).pend = none) :
    settle d c = d := by
  have hf : fenceMet d c = false := by unfold fenceMet; rw [hw]
  unfold settle settleFault
  rw [hf, if_neg Bool.false_ne_true, hp]

/-- A pending fault waits while earlier work is left. -/
theorem settle_of_pend {d : Dev} {c : Nat} (hw : (clusterOf d c).waiting = none) {x : PendFault}
    (hp : (clusterOf d c).pend = some x) : settle d c = if drained d c then enterFaulted d c x else d := by
  have hf : fenceMet d c = false := by unfold fenceMet; rw [hw]
  unfold settle settleFault
  rw [hf, if_neg Bool.false_ne_true, hp, hw]

theorem drained_congr {d e : Dev} {c : Nat} (hj : (clusterOf e c).jobs = (clusterOf d c).jobs)
    (hd : (clusterOf e c).dwq = (clusterOf d c).dwq) (hw : (clusterOf e c).waiting = (clusterOf d c).waiting) :
    drained e c = drained d c := by
  unfold drained; rw [hj, hd, hw]

/-- Where the sequencer goes on, PC and state aside. -/
def atNext (d : Dev) (c npc : Nat) : Dev := setRunning (setLoops d c (loopNext npc (clusterOf d c).loops).2) c

theorem advanceTo_inside {d : Dev} {c npc : Nat} (h : (loopNext npc (clusterOf d c).loops).1 < getF d (F.mcSeqLen_len c)) :
    advanceTo d c npc = setF (atNext d c npc) (F.mcSeqPc_pc c) (loopNext npc (clusterOf d c).loops).1 := by
  have hl : getF (atNext d c npc) (F.mcSeqLen_len c) = getF d (F.mcSeqLen_len c) :=
    ((seqOnly_setLoops d c _).trans (seqOnly_setRunning _ c)).field _ rfl
  unfold advanceTo
  exact if_pos (by rw [← hl] at h; exact h)

theorem advanceTo_past {d : Dev} {c npc : Nat} (h : getF d (F.mcSeqLen_len c) ≤ (loopNext npc (clusterOf d c).loops).1) :
    advanceTo d c npc = setPend (setF (atNext d c npc) (F.mcSeqPc_pc c) (getF d (F.mcSeqLen_len c) - 1)) c cPcRange
      (getF d (F.mcSeqLen_len c) - 1) false := by
  have hl : getF (atNext d c npc) (F.mcSeqLen_len c) = getF d (F.mcSeqLen_len c) :=
    ((seqOnly_setLoops d c _).trans (seqOnly_setRunning _ c)).field _ rfl
  rw [← hl] at h ⊢
  unfold advanceTo
  exact if_neg (Nat.not_lt.2 h)

end Sys2Proof.Machine
end

section
namespace Sys2Proof.Machine

/-! Entering a state of rest, and FAULTED (R29, R58, R59) -/

theorem getF_enterRest_of_reg {d : Dev} {c : Nat} {k : FKey} (hs : k.reg ≠ .mcSeqStatus c) (hc : k.reg ≠ .mcSeqCtrl c) (st : Nat) :
    getF (enterRest d c st) k = getF d k := by
  have status (lo : Nat) : (⟨.mcSeqStatus c, lo⟩ : FKey) ≠ k := FKey.ne_of_reg hs.symm
  have ctrl (lo : Nat) : (⟨.mcSeqCtrl c, lo⟩ : FKey) ≠ k := FKey.ne_of_reg hc.symm
  unfold enterRest
  dsimp only
  split
  · rw [getF_setF_of_ne _ _ (status 0), getF_modCluster, getF_setF_of_ne _ _ (ctrl 1), getF_setF_of_ne _ _ (status 8)]
  · rw [getF_setF_of_ne _ _ (status 0), getF_setF_of_ne _ _ (ctrl 1), getF_setF_of_ne _ _ (status 8)]

theorem seqStatus_state_width (c : Nat) : (F.mcSeqStatus_state c).width = 3 := rfl

/-- Whether the cluster lends itself is read before the state changes. -/
theorem enterRest_eq (d : Dev) (c st : Nat) : enterRest d c st =
    let e := setF (setF d (F.mcSeqStatus_wait_cause c) 0) (F.mcSeqCtrl_stop c) 0
    if flag d (F.mcLend_enable c) && flag d (F.mcLend_lend_all c) then
      setF (modCluster e c (fun x => { x with restState := st })) (F.mcSeqStatus_state c) 6
    else setF e (F.mcSeqStatus_state c) st := by
  simp only [enterRest, flag, getF_setF]
  simp

theorem seqState_enterRest_of_alone {d : Dev} {c st : Nat} (h : flag d (F.mcLend_enable c) = false) (hst : st < 8) :
    seqState (enterRest d c st) c = st := by
  rw [enterRest_eq, h, seqState]
  simp [seqStatus_state_width, Nat.mod_eq_of_lt hst]

theorem seqState_enterRest_of_lent {d : Dev} {c : Nat} (he : flag d (F.mcLend_enable c) = true)
    (ha : flag d (F.mcLend_lend_all c) = true) (st : Nat) : seqState (enterRest d c st) c = 6 ∧ (clusterOf (enterRest d c st) c).restState = st := by
  rw [enterRest_eq, he, ha, seqState]
  simp [seqStatus_state_width]

theorem getF_enterRest_stop (d : Dev) (c st : Nat) : getF (enterRest d c st) (F.mcSeqCtrl_stop c) = 0 := by
  rw [enterRest_eq]
  dsimp only
  split <;> simp [getF_setF]

/-- Cluster c at rest in state st with its interrupt bit set, as it was left in d. -/
structure Rested (d : Dev) (c st : Nat) (irq : FKey) (t : Dev) : Prop where
  irq : getF t irq = 1
  alone : flag d (F.mcLend_enable c) = false → seqState t c = st
  lent : flag d (F.mcLend_enable c) = true → flag d (F.mcLend_lend_all c) = true → seqState t c = 6 ∧ (clusterOf t c).restState = st
  stop : getF t (F.mcSeqCtrl_stop c) = 0
  other : ∀ k : FKey, k.reg ≠ .mcSeqStatus c → k.reg ≠ .mcSeqCtrl c → k.reg ≠ .mcSeqIrq c → getF t k = getF d k

theorem rested_raise_enterRest (d : Dev) {c st lo : Nat} (p : Option Nat) (en : FKey) (hst : st < 8)
    (hw : (⟨.mcSeqIrq c, lo⟩ : FKey).width = 1) :
    Rested d c st ⟨.mcSeqIrq c, lo⟩ (raise (enterRest d c st) p ⟨.mcSeqIrq c, lo⟩ en) := by
  have unraised {k : FKey} (hk : k.reg ≠ .mcSeqIrq c) :
      getF (raise (enterRest d c st) p ⟨.mcSeqIrq c, lo⟩ en) k = getF (enterRest d c st) k := by
    rw [getF_raise, getF_setF_of_ne _ _ (FKey.ne_of_reg hk.symm)]
  have state : seqState (raise (enterRest d c st) p ⟨.mcSeqIrq c, lo⟩ en) c = seqState (enterRest d c st) c := unraised (by simp)
  refine ⟨?_, fun h => ?_, fun he ha => ?_, ?_, fun k hs hc hi => ?_⟩
  · rw [getF_raise, getF_setF_same, hw]
    rfl
  · rw [state, seqState_enterRest_of_alone h hst]
  · rw [state, clusterOf_raise]
    exact seqState_enterRest_of_lent he ha st
  · rw [unraised (by simp), getF_enterRest_stop]
  · rw [unraised hi, getF_enterRest_of_reg hs hc]

/-- The fault record as FAULTED is entered, before the state changes. -/
def faultRecorded (d : Dev) (c : Nat) (x : PendFault) : Dev :=
  modCluster (setF (setF (setF d (F.mcSeqFault_cause c) x.cause) (F.mcSeqFault_pc c) x.pc) (F.mcSeqFault_deferred c) (b2n x.deferred)) c
    (fun y => { y with pend := none })

/-- The record a fault leaves. -/
structure Faulted (d : Dev) (c : Nat) (x : PendFault) (t : Dev) : Prop where
  cause : x.cause < 256 → getF t (F.mcSeqFault_cause c) = x.cause
  pc : x.pc < 2 ^ 22 → getF t (F.mcSeqFault_pc c) = x.pc
  deferred : getF t (F.mcSeqFault_deferred c) = b2n x.deferred
  irq : getF t (F.mcSeqIrq_fault c) = 1
  alone : flag d (F.mcLend_enable c) = false → seqState t c = 5
  lent : flag d (F.mcLend_enable c) = true → flag d (F.mcLend_lend_all c) = true → seqState t c = 6 ∧ (clusterOf t c).restState = 5
  at_pc : pcOf t c = pcOf d c

theorem faulted_enterFaulted (d : Dev) (c : Nat) (x : PendFault) : Faulted d c x (enterFaulted d c x) := by
  have h : Rested (faultRecorded d c x) c 5 (F.mcSeqIrq_fault c) (enterFaulted d c x) :=
    rested_raise_enterRest _ _ _ (by decide) rfl
  have record (lo : Nat) : getF (enterFaulted d c x) ⟨.mcSeqFault c, lo⟩ = getF (faultRecorded d c x) ⟨.mcSeqFault c, lo⟩ :=
    h.other _ (by simp) (by simp) (by simp)
  have hlend (lo : Nat) : flag (faultRecorded d c x) ⟨.mcLend c, lo⟩ = flag d ⟨.mcLend c, lo⟩ := by
    simp [flag, faultRecorded, getF_setF]
  have hcause : (F.mcSeqFault_cause c).width = 8 := rfl
  have hpc : (F.mcSeqFault_pc c).width = 22 := rfl
  have hdef : (F.mcSeqFault_deferred c).width = 1 := rfl
  refine ⟨fun hx => ?_, fun hx => ?_, ?_, h.irq, fun he => h.alone ((hlend _).trans he),
    fun he ha => h.lent ((hlend _).trans he) ((hlend _).trans ha), ?_⟩
  · rw [record]
    simpa [faultRecorded, getF_setF, hcause] using hx
  · rw [record]
    simpa [faultRecorded, getF_setF, hpc] using Nat.mod_eq_of_lt hx
  · rw [record]
    cases hx : x.deferred <;> simp [faultRecorded, hdef, hx, b2n]
  · rw [pcOf, h.other _ (by simp) (by simp) (by simp)]
    simp [faultRecorded, getF_setF, pcOf]

/-! An instruction that completes at issue (R29, R59, Table 2.1) -/

@[simp] theorem clusterOf_atNext (d : Dev) (c npc : Nat) : clusterOf (atNext d c npc) c =
    { clusterOf d c with loops := (loopNext npc (clusterOf d c).loops).2 } := by
  simp [atNext, setRunning, setLoops]

theorem seqState_atNext (d : Dev) (c npc : Nat) : seqState (atNext d c npc) c = 1 := by
  simp [atNext, setRunning, seqState, getF_setF, seqStatus_state_width]

theorem getF_atNext_of_reg {d : Dev} {c npc : Nat} {k : FKey} (h : k.reg ≠ .mcSeqStatus c) : getF (atNext d c npc) k = getF d k := by
  have status (lo : Nat) : (⟨.mcSeqStatus c, lo⟩ : FKey) ≠ k := FKey.ne_of_reg h.symm
  simp [atNext, setRunning, setLoops, getF_setF, status]

theorem pcOf_signal (d : Dev) (c : Nat) (x : Option Nat) : pcOf (signal d c x) c = pcOf d c := getF_signal (by simp [evField])

/-- Within the program issue goes on at the next PC, and nothing that waited changes. -/
theorem finishRun_done_inside {d : Dev} {c : Nat} (w : Nat) (hw : (clusterOf d c).waiting = none) (hp : (clusterOf d c).pend = none)
    (h : (loopNext (pcOf d c + 1) (clusterOf d c).loops).1 < getF d (F.mcSeqLen_len c)) : finishRun c w (.done d) =
      setF (atNext (signal d c (sigOf w)) c (pcOf d c + 1)) (F.mcSeqPc_pc c) (loopNext (pcOf d c + 1) (clusterOf d c).loops).1 := by
  have hl := (seqOnly_signal d c (sigOf w)).field (F.mcSeqLen_len c) rfl
  have ha := advanceTo_inside (d := signal d c (sigOf w)) (c := c) (npc := pcOf d c + 1) (by rwa [clusterOf_signal, hl])
  rw [clusterOf_signal] at ha
  have hf : finishRun c w (.done d) = settle (advanceTo (signal d c (sigOf w)) c (pcOf (signal d c (sigOf w)) c + 1)) c := rfl
  rw [hf, pcOf_signal, ha]
  exact settle_of_clear (by simp [hw]) (by simp [hp])

/-- The sequencer past the program's last instruction: PC stays at it and PC_RANGE is pending (R59). -/
def pastEnd (d : Dev) (c w : Nat) : Dev :=
  let last := getF d (F.mcSeqLen_len c) - 1
  setPend (setF (atNext (signal d c (sigOf w)) c (pcOf d c + 1)) (F.mcSeqPc_pc c) last) c cPcRange last false

/-- Past the program PC_RANGE is taken where no earlier work is left. -/
theorem finishRun_done_past {d : Dev} {c : Nat} (w : Nat) (hw : (clusterOf d c).waiting = none) (hp : (clusterOf d c).pend = none)
    (h : getF d (F.mcSeqLen_len c) ≤ (loopNext (pcOf d c + 1) (clusterOf d c).loops).1) : finishRun c w (.done d) =
      if drained d c then enterFaulted (pastEnd d c w) c ⟨cPcRange, getF d (F.mcSeqLen_len c) - 1, false⟩ else pastEnd d c w := by
  have hl := (seqOnly_signal d c (sigOf w)).field (F.mcSeqLen_len c) rfl
  have ha := advanceTo_past (d := signal d c (sigOf w)) (c := c) (npc := pcOf d c + 1) (by rwa [clusterOf_signal, hl])
  rw [hl] at ha
  have hf : finishRun c w (.done d) = settle (advanceTo (signal d c (sigOf w)) c (pcOf (signal d c (sigOf w)) c + 1)) c := rfl
  have hc : clusterOf (pastEnd d c w) c = { clusterOf d c with
      loops := (loopNext (pcOf d c + 1) (clusterOf d c).loops).2, pend := some ⟨cPcRange, getF d (F.mcSeqLen_len c) - 1, false⟩ } := by
    simp [pastEnd, setPend, hp]
  rw [hf, pcOf_signal, ha]
  exact (settle_of_pend (d := pastEnd d c w) (by rw [hc]; exact hw) (by rw [hc])).trans
    (by rw [drained_congr (d := d) (by rw [hc]) (by rw [hc]) (by rw [hc])])

theorem seqPc_width (c : Nat) : (F.mcSeqPc_pc c).width = 22 := rfl

theorem getF_takeWen {d : Dev} {c w : Nat} (k : FKey) (h : getF d (F.mcEvt_count c (wWevt w)) ≤ 65535) : getF (takeWen d c w) k =
    if wWen w = true ∧ k = F.mcEvt_count c (wWevt w) then getF d (F.mcEvt_count c (wWevt w)) - 1 else getF d k := by
  unfold takeWen evSub
  by_cases hw : wWen w = true
  · rw [if_pos hw, getF_setF, evt_width]
    by_cases hk : F.mcEvt_count c (wWevt w) = k
    · rw [if_pos hk, if_pos ⟨hw, hk.symm⟩]; omega
    · rw [if_neg hk, if_neg (fun h => hk h.2.symm)]
  · rw [if_neg hw, if_neg (fun h => hw h.1)]

/-- Settles O5, by what the sequencer changes of its own (`SeqOnly`) and where `finishRun` leaves it. -/
theorem issueAdvances : Obligations.IssueAdvances := by
  refine ⟨⟨fun c w x => ?_, fun d c w p hp hr hw => ?_, fun d c w k hk => ⟨?_, getF_takeWen k hk⟩⟩,
    fun d c w hl hw hp hlast hlen => ?_, fun npc l r hstop => ⟨fun hl => ?_, fun hl => ?_⟩, fun d c w hw hp hlen => ?_⟩
  · by_cases hx : ∃ d, x = .queued d
    · obtain ⟨d, rfl⟩ := hx
      have h := seqOnly_finishRun_queued c w d
      refine ⟨⟨_, _, _, _, (notePlaced d c w).placed, h.rest.trans (by rw [notePlaced_eq d c w]; rfl)⟩, fun hn => ?_, fun k hk => (h.field k hk).trans ?_⟩
      · rcases hn with hn | hn
        · exact absurd rfl (hn d)
        · rw [notePlaced_of_other hn] at h
          exact h.same Dev.placed (fun _ _ _ _ => rfl)
      · rw [notePlaced_eq]; rfl
    · have h := seqOnly_finishRun c w (x := x) (fun e he => hx ⟨e, he⟩)
      exact ⟨⟨_, _, _, _, x.dev.placed, h.rest⟩, fun _ => h.same Dev.placed (fun _ _ _ _ => rfl), h.field⟩
  · have h := (seqOnly_finishRun_queued c w d).same Dev.placed (fun _ _ _ _ => rfl)
    rw [h, notePlaced_of_ref hp hr hw, Tab.get?_put_same]
  · unfold takeWen evSub
    split <;> rfl
  · have hn : loopNext (pcOf d c + 1) (clusterOf d c).loops = (pcOf d c + 1, []) := by rw [hl]; rfl
    have hf := finishRun_done_inside w hw hp (by rw [hn]; exact hlast)
    rw [hn] at hf
    rw [hf]
    refine ⟨?_, ?_, fun hs he => ?_⟩
    · rw [pcOf, getF_setF_same, seqPc_width]
      exact Nat.mod_eq_of_lt (by dsimp only; omega)
    · exact (getF_setF_of_ne _ _ (FKey.ne_of_reg (by simp))).trans (seqState_atNext _ c _)
    · rw [getF_setF_of_ne _ _ (FKey.ne_of_reg (by simp)), getF_atNext_of_reg (by simp), sigOf, if_pos hs]
      exact getF_evAdd_same.trans (by omega)
  · rw [loopNext, if_pos hstop, if_pos hl]
  · rw [loopNext, if_pos hstop, if_neg (by omega)]
  · intro next t
    refine ⟨fun hin => ?_, fun hlen1 hpast => ?_⟩
    · have hf : t = _ := finishRun_done_inside w hw hp hin
      rw [hf]
      refine ⟨?_, by simp [next]⟩
      rw [pcOf, getF_setF_same, seqPc_width]
      exact Nat.mod_eq_of_lt (by dsimp only [next] at hin; omega)
    · have hf : t = _ := finishRun_done_past w hw hp hpast
      rw [hf]
      have hx := faulted_enterFaulted (pastEnd d c w) c ⟨cPcRange, getF d (F.mcSeqLen_len c) - 1, false⟩
      have hpc : pcOf (pastEnd d c w) c = getF d (F.mcSeqLen_len c) - 1 := by
        rw [pcOf, pastEnd, setPend, getF_modCluster, getF_setF_same, seqPc_width]
        exact Nat.mod_eq_of_lt (by omega)
      refine ⟨?_, fun hd => ?_, fun hd hlend => ?_⟩
      · split
        · rw [hx.at_pc, hpc]
        · exact hpc
      · rw [hd]
        simp [pastEnd, setPend, hp]
      · rw [if_pos hd]
        refine ⟨hx.alone ?_, hx.cause (by decide : cPcRange < 256), hx.pc (by dsimp only; omega)⟩
        rw [← hlend, flag, flag, pastEnd, setPend, getF_modCluster, getF_setF_of_ne _ _ (FKey.ne_of_reg (by simp)),
          getF_atNext_of_reg (by simp), (seqOnly_signal d c _).field _ rfl]

end Sys2Proof.Machine
end

section
namespace Sys2Proof.Machine

/-! What issuing a word comes to (R33, R59) -/

theorem wenCovered {d : Dev} {c w : Nat} (h : wWen w = true → 1 ≤ getF d (F.mcEvt_count c (wWevt w))) :
    (wWen w && getF d (F.mcEvt_count c (wWevt w)) == 0) = false := by
  cases hw : wWen w with
  | false => rfl
  | true =>
    have hn := h hw
    simp only [Bool.true_and, beq_eq_false_iff_ne, ne_eq]
    omega

section
variable {go : Nat → Nat → Nat → Dev → Plan} {d : Dev} {p c w : Nat} (hp : partOf d c = some p)
  (hw : wWen w = true → 1 ≤ getF d (F.mcEvt_count c (wWevt w)))
include hp hw

theorem issueWord_of_reserved_opcode (ho : opcodeKnown (wOp w) = false) : issueWord go d c w =
    finishIssue d c w (.fault cOpcode []) := by
  simp [issueWord, hp, wenCovered hw, headFaults, ho]

theorem issueWord_of_reserved_bit (ho : opcodeKnown (wOp w) = true) (hu : unusedNonzero w = true) : issueWord go d c w =
    finishIssue d c w (.fault cReserved []) := by
  simp [issueWord, hp, wenCovered hw, headFaults, ho, hu]

theorem issueWord_of_sound (ho : opcodeKnown (wOp w) = true) (hu : unusedNonzero w = false) : issueWord go d c w =
    finishIssue d c w ((go p c w (takeWen d c w)).issue (takeWen d c w)) := by
  simp [issueWord, hp, wenCovered hw, headFaults, ho, hu]

end

theorem Plan.issue_of_fault {d : Dev} {x : Plan} {k : Nat} (h : x.checks.find? (fun y => y.1) = some (true, k)) :
    x.issue d = .fault k (if k = cBankOwner then x.banks.filter (fun b => !bankOpen d b.1 b.2) else []) := by
  simp only [Plan.issue, h]

theorem Plan.issue_of_block {d : Dev} {x : Plan} {k : Nat} (h : x.checks.all (fun y => !y.1) = true) (hb : x.block = some k) :
    x.issue d = .block k := by
  have hf : x.checks.find? (fun y => y.1) = none := by
    simp only [List.find?_eq_none]
    intro y hy
    simpa using List.all_eq_true.1 h y hy
  simp only [Plan.issue, hf, hb]

/-- A tile row whose word stands at the PC issues it. -/
theorem tileStep_of_issuing {s : State} {p c w op : Nat} {sel : Nat → Bool} {go : Nat → Nat → Nat → Dev → Plan}
    (hi : issuing s p c w = true) (ho : wOp w = op) (hs : sel w = true) : tileStep op sel go c s.dev =
      finishIssue s.dev c w ((go p c w (takeWen s.dev c w)).issue (takeWen s.dev c w)) := by
  obtain ⟨-, hc, ha, hp, rfl, hw, hk, hu⟩ := issuing_iff.1 hi
  have mine : (!opcodeKnown (wOp (fetchWord s.dev c)) || (wOp (fetchWord s.dev c) == op && sel (fetchWord s.dev c))) = true := by
    simp [ho, hs]
  rw [← issueWord_of_sound hp hw hk hu]
  unfold tileStep
  dsimp only
  rw [if_pos hc, ha, if_neg Bool.false_ne_true, if_pos mine]

section
variable {s : State} {i : Instr} {p c w op : Nat} {sel : Nat → Bool} {go : Nat → Nat → Nat → Dev → Plan}
  (he : exec i s = .next (onDev (tileStep op sel go c) s)) (hi : issuing s p c w = true) (ho : wOp w = op) (hs : sel w = true)
include he hi ho hs

/-- A command of a tile row that nothing stops. -/
theorem exec_of_free (hf : (go p c w (takeWen s.dev c w)).free = true) :
    exec i s = .next { s with dev := finishRun c w ((go p c w (takeWen s.dev c w)).run ()) } :=
  he.trans (congrArg Host.Outcome.next (onDev_tileStep hi ho hs hf))

/-- One that a check stops. -/
theorem exec_of_fault {k : Nat} (hk : k ≠ cBankOwner)
    (hf : (go p c w (takeWen s.dev c w)).checks.find? (fun y => y.1) = some (true, k)) :
    exec i s = .next { s with dev := finishIssue s.dev c w (.fault k []) } := by
  rw [he, onDev_of_good (issuing_good hi), tileStep_of_issuing hi ho hs, Plan.issue_of_fault hf, if_neg hk]

/-- One that cannot issue yet. -/
theorem exec_of_block {k : Nat} (hf : (go p c w (takeWen s.dev c w)).checks.all (fun y => !y.1) = true)
    (hb : (go p c w (takeWen s.dev c w)).block = some k) : exec i s = .next { s with dev := setWait s.dev c k } := by
  rw [he, onDev_of_good (issuing_good hi), tileStep_of_issuing hi ho hs, Plan.issue_of_block hf hb]
  rfl

end

/-- What the wen wait takes of its counter changes nothing else (R33). -/
theorem seqOnly_takeWen (d : Dev) (c w : Nat) : SeqOnly c d (takeWen d c w) := by
  unfold takeWen evSub; split
  · exact .setF (by simp [sequencerOwn]) d _
  · exact .refl c d

@[simp] theorem clusterOf_takeWen (d : Dev) (c w k : Nat) : clusterOf (takeWen d c w) k = clusterOf d k :=
  clusterOf_congr (by unfold takeWen; split <;> rfl) k

theorem getF_takeWen_of_reg {d : Dev} {c w : Nat} {k : FKey} (h : ∀ e, k.reg ≠ .mcEvt c e) : getF (takeWen d c w) k = getF d k := by
  unfold takeWen evSub; split
  · exact getF_setF_of_ne _ _ (FKey.ne_of_reg (h _).symm)
  · rfl

/-! Faults at issue (R59) -/

theorem clusterOf_setPend_of_none {d : Dev} {c : Nat} (h : (clusterOf d c).pend = none) (k pc : Nat) (x : Bool) :
    clusterOf (setPend d c k pc x) c = { clusterOf d c with pend := some ⟨k, pc, x⟩ } := by
  simp [setPend, h]

theorem finishIssue_fault {d : Dev} {c : Nat} (w k : Nat) (hp : (clusterOf d c).pend = none) (hw : (clusterOf d c).waiting = none) :
    finishIssue d c w (.fault k []) = if drained d c then enterFaulted (setPend d c k (pcOf d c) false) c ⟨k, pcOf d c, false⟩
      else setPend d c k (pcOf d c) false := by
  have hc := clusterOf_setPend_of_none hp k (pcOf d c) false
  have hf : finishIssue d c w (.fault k []) = settle (setPend d c k (pcOf d c) false) c := rfl
  rw [hf, settle_of_pend (by rw [hc]; exact hw) (by rw [hc]), drained_congr (d := d) (by rw [hc]) (by rw [hc]) (by rw [hc])]

theorem waiting_of_drained {d : Dev} {c : Nat} (h : drained d c = true) : (clusterOf d c).waiting = none := by
  unfold drained at h
  simpa using (Bool.and_eq_true_iff.1 h).2

/-- Settles O6: the checks in their order, then what `finishIssue` makes of a fault. -/
theorem checkedInstructionFaults : Obligations.CheckedInstructionFaults := by
  intro go d p c w k hp hw x
  refine ⟨issueWord_of_reserved_opcode hp hw, issueWord_of_reserved_bit hp hw, fun ho hu hx => ?_, fun hn hq hd => ?_,
    fun hn hd hk hpc => ?_⟩
  · rw [issueWord_of_sound hp hw ho hu, Plan.issue_of_fault hx]
  · rw [finishIssue_fault w k hn hq, hd]
    rfl
  · intro t
    have ht : t = _ := (finishIssue_fault w k hn (waiting_of_drained hd)).trans (if_pos hd)
    have hx := faulted_enterFaulted (setPend d c k (pcOf d c) false) c ⟨k, pcOf d c, false⟩
    have hs := (seqOnly_setPend d c k (pcOf d c) false).trans (seqOnly_enterFaulted _ c ⟨k, pcOf d c, false⟩)
    rw [ht]
    exact ⟨hx.cause hk, hx.pc hpc, hx.deferred, hx.irq, hx.alone, hx.lent, hs.same Dev.mem (fun _ _ _ _ => rfl), hs.field⟩

end Sys2Proof.Machine
end

section
namespace Sys2Proof.Machine

/-! Control and descriptor instructions (Tables 2.13, 2.14) -/

theorem wImm_lt (w : Nat) : wImm w < 2 ^ 64 := Nat.mod_lt _ (by decide)

/-- The checks on a plain scratchpad offset pass. -/
theorem free_of_offset {d : Dev} {c off n : Nat} {banks : List (Nat × Nat)} {run : Unit → End} (ha : off % n = 0)
    (he : off + n ≤ 0x4000000) (hb : bankOpen d c (off / 0x200000) = true) :
    Plan.free ⟨offsetFaults d c off n, banks, none, run⟩ = true := by
  have he' : ¬ off + n > 0x4000000 := by omega
  simp [Plan.free, offsetFaults, ha, he', hb]

/-- A plan with one check, which passes. -/
theorem free_of_check {b : Bool} {k : Nat} {banks : List (Nat × Nat)} {run : Unit → End} (hb : b = false) :
    Plan.free ⟨[(b, k)], banks, none, run⟩ = true := by
  subst hb; rfl

/-- An instruction that nothing stops leaves every field that is not the sequencer's as its own effect does. -/
theorem getF_finishRun_done {c w : Nat} {d : Dev} {k : FKey} (hk : sequencerOwn c k = false) :
    getF (finishRun c w (.done d)) k = getF d k :=
  (seqOnly_finishRun c w (x := .done d) (fun _ => End.noConfusion)).field k hk

theorem finishRun_done_same {α : Type} (v : Dev → α) (hv : ∀ d f cl b m, v { d with f := f, cl := cl, bars := b, msis := m } = v d)
    (c w : Nat) (d : Dev) : v (finishRun c w (.done d)) = v d :=
  (seqOnly_finishRun c w (x := .done d) (fun _ => End.noConfusion)).same v (hv d)

theorem takeWen_same {α : Type} (v : Dev → α) (hv : ∀ d f cl b m, v { d with f := f, cl := cl, bars := b, msis := m } = v d)
    (d : Dev) (c w : Nat) : v (takeWen d c w) = v d := (seqOnly_takeWen d c w).same v (hv d)

/-- Settles O7: each is its own run (`exec_of_free`), and for GSET what `SeqOnly` keeps is the frame. -/
theorem registerInstructions : Obligations.RegisterInstructions := by
  refine ⟨⟨fun s p c w hi => ?_, fun s p c w hi ho => ?_⟩, fun s p c w hi => ?_⟩
  · intro e
    refine ⟨fun ho => ?_, fun ho => ?_, fun ho => ?_, fun ho ha hn hb => ?_⟩
    · exact exec_of_free (i := .nop c) rfl hi ho rfl rfl
    · exact exec_of_free (i := .gset c) rfl hi ho rfl rfl
    · exact exec_of_free (i := .gadd c) rfl hi ho rfl rfl
    · exact exec_of_free (i := .gld c) rfl hi ho rfl (free_of_offset ha hn hb)
  · have hx : exec (.gset c) s = .next { s with dev := finishRun c w (.done (setF (takeWen s.dev c w) (F.mcG_value c (wGd w)) (wImm w))) } :=
      exec_of_free (i := .gset c) rfl hi ho rfl rfl
    have hv : (F.mcG_value c (wGd w)).width = 64 := rfl
    have same {α : Type} (v : Dev → α) (hv : ∀ d f cl b m, v { d with f := f, cl := cl, bars := b, msis := m } = v d)
        (hs : v (setF (takeWen s.dev c w) (F.mcG_value c (wGd w)) (wImm w)) = v (takeWen s.dev c w)) :=
      (finishRun_done_same v hv c w (setF (takeWen s.dev c w) (F.mcG_value c (wGd w)) (wImm w))).trans
        (hs.trans (takeWen_same v hv s.dev c w))
    refine ⟨_, hx, ?_, fun k hk hne => ?_, same Dev.mem (fun _ _ _ _ _ => rfl) rfl, same Dev.acc (fun _ _ _ _ _ => rfl) rfl,
      same Dev.wins (fun _ _ _ _ _ => rfl) rfl, same Dev.pages (fun _ _ _ _ _ => rfl) rfl, rfl, rfl⟩
    · rw [getF_finishRun_done rfl, getF_setF_same, hv]
      exact Nat.mod_eq_of_lt (wImm_lt w)
    · rw [getF_finishRun_done hk, getF_setF_of_ne _ _ hne.symm]
      exact (seqOnly_takeWen s.dev c w).field k hk
  · intro e v n
    refine ⟨fun ho ha hn hb => ?_, fun ho hv => ?_, fun ho => ?_, fun ho hv => ?_⟩
    · exact exec_of_free (i := .tdld c) rfl hi ho rfl (free_of_offset ha hn hb)
    · exact exec_of_free (i := .tdbase c) rfl hi ho rfl (free_of_check (decide_eq_false (Nat.not_le.2 hv)))
    · exact exec_of_free (i := .tdadd c) rfl hi ho rfl rfl
    · have hx := exec_of_free (i := .tdshape c) (go := goTdshape) rfl hi ho rfl (free_of_check (decide_eq_false (Nat.not_le.2 hv)))
      have hlow : bits v 15 0 = v % 2 ^ 16 := by simp [bits]
      have hhigh : bits v 31 16 = v / 2 ^ 16 := Nat.mod_eq_of_lt (by omega)
      rw [← hlow, ← hhigh]
      exact hx

/-! BR and LOOP -/

/-- The condition of BR as Table 2.13 gives it. -/
theorem branchTaken_iff {sub a b : Nat} (h : sub ≤ 6) : branchTaken sub a b = true ↔ sub = 0 ∨ (sub = 1 ∧ a = 0) ∨
    (sub = 2 ∧ a ≠ 0) ∨ (sub = 3 ∧ bitOf a 63 = true) ∨ (sub = 4 ∧ bitOf a 63 = false) ∨ (sub = 5 ∧ a = b) ∨ (sub = 6 ∧ a ≠ b) := by
  interval_cases sub <;> simp [branchTaken]

theorem free_goBr_of_taken {d : Dev} {p c w : Nat} {t : Int} (ht : t = (pcOf d c : Int) + signed 64 (wImm w)) (hs : wSub w ≤ 6)
    (h0 : 0 ≤ t) (hlen : t < getF d (F.mcSeqLen_len c))
    (hl : ∀ l ∈ (clusterOf d c).loops, l.first ≤ pcOf d c → pcOf d c < l.stop → (l.first : Int) ≤ t ∧ t < l.stop) :
    (goBr p c w d).free = true := by
  subst ht
  have hs' : ¬ wSub w > 6 := by omega
  have stays (l : LoopRec) (h : l ∈ (clusterOf d c).loops) : (decide (l.first ≤ pcOf d c ∧ pcOf d c < l.stop) &&
      !(decide ((l.first : Int) ≤ (pcOf d c : Int) + signed 64 (wImm w) ∧ (pcOf d c : Int) + signed 64 (wImm w) < (l.stop : Int)))) = false := by
    by_cases hin : l.first ≤ pcOf d c ∧ pcOf d c < l.stop
    · rw [decide_eq_true (hl l h hin.1 hin.2)]
      simp
    · rw [decide_eq_false hin]
      rfl
  have hloops : (clusterOf d c).loops.any (fun l => decide (l.first ≤ pcOf d c ∧ pcOf d c < l.stop) &&
      !(decide ((l.first : Int) ≤ (pcOf d c : Int) + signed 64 (wImm w) ∧ (pcOf d c : Int) + signed 64 (wImm w) < (l.stop : Int)))) = false :=
    List.any_eq_false.2 (fun l h => by rw [stays l h]; exact Bool.false_ne_true)
  unfold goBr Plan.free
  dsimp only
  rw [hloops, decide_eq_true (⟨h0, hlen⟩ : _ ∧ _), decide_eq_false hs']
  simp

theorem free_goBr_of_not_taken {d : Dev} {p c w : Nat} (hs : wSub w ≤ 6)
    (h : branchTaken (wSub w) (gReg d c (wGa w)) (gReg d c (wGb w)) = false) : (goBr p c w d).free = true := by
  unfold goBr Plan.free
  dsimp only
  rw [h, decide_eq_false (Nat.not_lt.2 hs)]
  rfl

theorem goBr_run (d : Dev) (p c w : Nat) : (goBr p c w d).run () =
    if branchTaken (wSub w) (gReg d c (wGa w)) (gReg d c (wGb w)) then .jump d ((pcOf d c : Int) + signed 64 (wImm w)).toNat true
    else .done d := rfl

/-- Settles O8, by the condition of BR (`branchTaken_iff`). -/
theorem branchAndLoop : Obligations.BranchAndLoop := by
  intro s p c w hi e a b t holds
  refine ⟨fun ho hh h0 hlen hl => ?_, fun ho hs hh => ?_, fun ho h1 hn hd => ?_⟩
  · have hs : wSub w ≤ 6 := by
      dsimp only [holds] at hh
      omega
    have hb : branchTaken (wSub w) (gReg e c (wGa w)) (gReg e c (wGb w)) = true := (branchTaken_iff hs).2 hh
    have hx := exec_of_free (i := .br c) (go := goBr) rfl hi ho rfl (free_goBr_of_taken rfl hs h0 hlen hl)
    rwa [goBr_run, if_pos hb] at hx
  · have hb : branchTaken (wSub w) (gReg e c (wGa w)) (gReg e c (wGb w)) = false :=
      Bool.eq_false_iff.2 (fun h => hh ((branchTaken_iff hs).1 h))
    have hx := exec_of_free (i := .br c) (go := goBr) rfl hi ho rfl (free_goBr_of_not_taken hs hb)
    rwa [goBr_run, if_neg (by rw [hb]; exact Bool.false_ne_true)] at hx
  · have hf : (goLoop p c w e).free = true := by
      have hcount : ¬ (wImm w % 2 ^ 16 = 0 ∨ wImm w % 2 ^ 16 > 4096) := by omega
      have hdepth : ¬ (clusterOf e c).loops.length ≥ 4 := by omega
      unfold goLoop Plan.free
      dsimp only
      rw [decide_eq_false hcount, decide_eq_false hdepth]
      rfl
    exact exec_of_free (i := .loop c) (go := goLoop) rfl hi ho rfl hf

end Sys2Proof.Machine
end

section
namespace Sys2Proof.Machine

/-! ANSET, EVADD, EVPOST (Tables 2.13, 2.19) -/

/-- clog2 rounds a logarithm up. -/
theorem clog2_spec {n : Nat} (h : 1 ≤ n) : 2 ^ clog2 n < 2 * n ∧ n ≤ 2 ^ clog2 n := by
  unfold clog2
  split
  · next h1 => omega
  · next h1 =>
    have hn : n - 1 ≠ 0 := by omega
    have hlow := Nat.log2_self_le hn
    have hhigh := Nat.lt_log2_self (n := n - 1)
    rw [Nat.pow_succ] at hhigh ⊢
    omega

theorem clog2_lt {n : Nat} (h : n ≤ 2 ^ 48) : clog2 n < 64 := by
  unfold clog2
  split
  · decide
  · next h1 =>
    have hn : n - 1 ≠ 0 := by omega
    have := (Nat.log2_lt hn).2 (show n - 1 < 2 ^ 48 by omega)
    omega

/-- A slot as ANSET and AMAX leave it (Table 2.7). -/
structure AnchorSet (d t : Dev) (c n : Nat) (ea eb : Int) (logk : Nat) (eaSet ebSet reduced : Bool) : Prop where
  rest : t = { d with f := t.f }
  ea : getF t (F.mcAnchor_ea c n) = unsigned 12 ea
  eb : getF t (F.mcAnchor_eb c n) = unsigned 12 eb
  logk : getF t (F.mcAnchor_logk c n) = logk % 64
  eaSet : getF t (F.mcAnchor_ea_set c n) = b2n eaSet
  ebSet : getF t (F.mcAnchor_eb_set c n) = b2n ebSet
  reduced : getF t (F.mcAnchor_reduced c n) = b2n reduced
  other : ∀ k : FKey, k.reg ≠ .mcAnchor c n → getF t k = getF d k

theorem unsigned_lt (w : Nat) (x : Int) : unsigned w x < 2 ^ w := by
  have h : (0 : Int) < ((2 ^ w : Nat) : Int) := by exact_mod_cast Nat.two_pow_pos w
  have h0 := Int.emod_nonneg x h.ne'
  have h1 := Int.emod_lt_of_pos x h
  unfold unsigned
  omega

theorem b2n_mod_two (b : Bool) : b2n b % 2 ^ 1 = b2n b := by cases b <;> rfl

theorem anchorSet_setAnchor (d : Dev) (c n : Nat) (ea eb : Int) (logk : Nat) (eaSet ebSet reduced : Bool) :
    AnchorSet d (setAnchor d c n ea eb logk eaSet ebSet reduced) c n ea eb logk eaSet ebSet reduced := by
  have h1 : (F.mcAnchor_ea c n).width = 12 := rfl
  have h2 : (F.mcAnchor_eb c n).width = 12 := rfl
  have h3 : (F.mcAnchor_logk c n).width = 6 := rfl
  have h4 : (F.mcAnchor_ea_set c n).width = 1 := rfl
  have h5 : (F.mcAnchor_eb_set c n).width = 1 := rfl
  have h6 : (F.mcAnchor_reduced c n).width = 1 := rfl
  refine ⟨rfl, ?_, ?_, ?_, ?_, ?_, ?_, fun k hk => ?_⟩
  · simpa [setAnchor, getF_setF, h1] using Nat.mod_eq_of_lt (unsigned_lt 12 ea)
  · simpa [setAnchor, getF_setF, h2] using Nat.mod_eq_of_lt (unsigned_lt 12 eb)
  · simp [setAnchor, getF_setF, h3]
  · simpa [setAnchor, getF_setF, h4] using b2n_mod_two eaSet
  · simpa [setAnchor, getF_setF, h5] using b2n_mod_two ebSet
  · simpa [setAnchor, getF_setF, h6] using b2n_mod_two reduced
  · have anchor (lo : Nat) : (⟨.mcAnchor c n, lo⟩ : FKey) ≠ k := FKey.ne_of_reg hk.symm
    simp [setAnchor, getF_setF, anchor]

theorem free_goAnset {d : Dev} {p c w : Nat} (h1 : 1 ≤ wImm w) (h48 : wImm w ≤ 2 ^ 48)
    (hi : interlocked d c [] false [wE w] = false) : (goAnset p c w d).free = true := by
  have hr : ¬ (wImm w = 0 ∨ wImm w > 2 ^ 48) := by omega
  unfold goAnset Plan.free
  dsimp only
  rw [hi, decide_eq_false hr]
  rfl

theorem find?_of_check {b : Bool} {k : Nat} (hb : b = true) : [(b, k)].find? (fun y => y.1) = some (true, k) := by
  subst hb; rfl

theorem goEvadd_run (d : Dev) (p c w : Nat) : (goEvadd p c w d).run () =
    .done (if wSub w = 0 then evAdd d c (wE w) (wImm w % 2 ^ 16) else setF d (F.mcEvt_count c (wE w)) (wImm w % 2 ^ 16)) := rfl

/-- Settles O9: the slot ANSET leaves is `AnchorSet`, and EVPOST's one check is on the cluster it names. -/
theorem anchorAndEventInstructions : Obligations.AnchorAndEventInstructions := by
  intro s p c w hi e k
  refine ⟨fun ho h1 h48 hl => ?_, fun ho hs hk => ?_, fun ho hs => ?_, fun ho hm hown => ?_, fun ho hm => ?_⟩
  · have ha := anchorSet_setAnchor e c (wE w) (-2048) (-2048) (clog2 (wImm w)) false false false
    have hlog := ha.logk
    rw [Nat.mod_eq_of_lt (clog2_lt h48)] at hlog
    refine ⟨_, exec_of_free (i := .anset c) (go := goAnset) rfl hi ho rfl (free_goAnset h1 h48 hl), ha.rest, ha.ea, ha.eb, ?_, ?_,
      ha.eaSet, ha.ebSet, ha.reduced, ha.other⟩
    · rw [hlog]
      exact (clog2_spec h1).1
    · rw [hlog]
      exact (clog2_spec h1).2
  · have hx := exec_of_free (i := .evadd c) (go := goEvadd) rfl hi ho rfl (free_of_check (decide_eq_false (by omega)))
    rwa [goEvadd_run, if_pos hs, evAdd_of_le hk] at hx
  · have hx := exec_of_free (i := .evadd c) (go := goEvadd) rfl hi ho rfl (free_of_check (decide_eq_false (by omega)))
    rwa [goEvadd_run, if_neg (by omega)] at hx
  · refine exec_of_free (i := .evpost c) (go := goEvpost) rfl hi ho rfl (free_of_check ?_)
    rw [decide_eq_false (Nat.not_lt.2 hm), hown]
    rfl
  · have hb : (decide (wMisc w > 27) || !ownsCluster e p (wMisc w)) = true := by
      rcases hm with hm | hm
      · rw [decide_eq_true hm]; rfl
      · rw [hm]; exact Bool.or_true _
    refine exec_of_fault (i := .evpost c) (go := goEvpost) rfl hi ho rfl (by decide) ?_
    exact find?_of_check hb

/-! Posted additions (R49, R50) -/

/-- Additions to the counters of a list, each at most once, those of nothing left out. -/
theorem getF_forEach_evAdd {c e : Nat} (n : Nat → Nat) {l : List Nat} (hl : l.Nodup) {d : Dev}
    (h : getF d (F.mcEvt_count c e) ≤ 65535) :
    getF (forEach l d (fun d e => if n e = 0 then d else evAdd d c e (n e))) (F.mcEvt_count c e) =
      if e ∈ l then min 65535 (getF d (F.mcEvt_count c e) + n e) else getF d (F.mcEvt_count c e) := by
  induction l generalizing d with
  | nil => rfl
  | cons x r ih =>
    obtain ⟨hx, hr⟩ := List.nodup_cons.1 hl
    have step : getF (if n x = 0 then d else evAdd d c x (n x)) (F.mcEvt_count c e) =
        if e = x then min 65535 (getF d (F.mcEvt_count c e) + n e) else getF d (F.mcEvt_count c e) := by
      by_cases he : e = x
      · subst he
        rw [if_pos rfl]
        split
        · omega
        · exact getF_evAdd_same
      · rw [if_neg he]
        split
        · rfl
        · exact getF_evAdd_of_not (by simp [evField, he])
    refine (ih hr (by rw [step]; split <;> omega)).trans ?_
    rw [step]
    by_cases he : e = x
    · subst he
      rw [if_neg hx, if_pos rfl, if_pos (List.mem_cons_self ..)]
    · rw [if_neg he]
      simp only [List.mem_cons, he, false_or]

/-- What the additions posted to a cluster make together of one counter. -/
def postSum (d : Dev) (c e : Nat) : Nat := ((clusterOf d c).posts.filter (fun x => x.1 == e)).foldl (fun a x => a + x.2) 0

theorem applyPosts_eq (d : Dev) (c : Nat) : applyPosts d c = forEach (List.range 16) (modCluster d c (fun x => { x with posts := [] }))
    (fun y e => if postSum d c e = 0 then y else evAdd y c e (postSum d c e)) := rfl

theorem seqOnly_applyPosts (d : Dev) (c : Nat) : SeqOnly c d (applyPosts d c) := by
  refine forEach_keeps (P := SeqOnly c d) (fun e x h => ?_) _ _ (.modCluster c d c _)
  split
  · exact h
  · exact h.trans (seqOnly_evAdd e c x _)

theorem applyPosts_posts (d : Dev) (c : Nat) : (clusterOf (applyPosts d c) c).posts = [] := by
  have h : (applyPosts d c).cl = (modCluster d c (fun x => { x with posts := [] })).cl :=
    forEach_same Dev.cl (fun e x => by split <;> simp) _ _
  rw [clusterOf_congr h]
  simp

theorem foldl_snd_eq_sum (l : List (Nat × Nat)) : l.foldl (fun a x => a + x.2) 0 = (l.map Prod.snd).sum := by
  rw [List.sum_eq_foldl, List.foldl_map]

/-! Local barriers (R51) -/

/-- An arrival that the barrier's first fixed the mask for. -/
theorem free_arriveLocal {d : Dev} {p c b mask : Nat} (hc : bitOf mask c = true)
    (hm : ((Tab.get? d.bars (p, b)).getD ⟨mask, []⟩).mask = mask) : (arriveLocal d p c b mask).free = true := by
  unfold arriveLocal Plan.free
  dsimp only
  rw [hc, hm]
  simp

theorem arriveLocal_run {d : Dev} {p c b mask : Nat} (hm : ((Tab.get? d.bars (p, b)).getD ⟨mask, []⟩).mask = mask) :
    (arriveLocal d p c b mask).run () = .hold { d with
      bars := Tab.put d.bars (p, b) ⟨mask, ((Tab.get? d.bars (p, b)).getD ⟨mask, []⟩).arrived ++ [c]⟩ } (.barrier b) := by
  conv_rhs => rw [← hm]
  unfold arriveLocal
  dsimp only
  rw [hm]

theorem ownsCluster_of_partOf {d : Dev} {c p : Nat} (h : partOf d c = some p) : ownsCluster d p c = true :=
  List.find?_some (p := fun p => ownsCluster d p c) h

theorem partOf_takeWen (d : Dev) (c w n : Nat) : partOf (takeWen d c w) n = partOf d n := (seqOnly_takeWen d c w).part n

/-- Settles O10: `getF_evAdd_same` for a counter, an induction over the counters for what arrives together. -/
theorem postsAndBarriers : Obligations.PostsAndBarriers := by
  refine ⟨⟨fun d c e k _ _ hk => ⟨?_, ?_, ?_, evAdd_mem d c e k⟩, fun s c hp hv => ?_⟩, fun s p c w => ?_⟩
  · rw [getF_evAdd_same]
    omega
  · rw [evAdd_of_gt hk, getF_raise, getF_setF_of_ne _ _ (FKey.ne_of_reg (by simp)), getF_setF_same]
    rfl
  · rw [evAdd_of_gt hk, getF_raise, getF_setF_same]
    rfl
  · have hx : exec (.eventCounterChange c) s = .next { s with dev := applyPosts s.dev c } :=
      congrArg Host.Outcome.next (onDev_of_good hp)
    have hs := seqOnly_applyPosts s.dev c
    refine ⟨_, hx, applyPosts_posts s.dev c, fun e he => ?_, hs.field, hs.same Dev.mem (fun _ _ _ _ => rfl), rfl⟩
    dsimp only
    rw [applyPosts_eq, getF_forEach_evAdd _ List.nodup_range (by exact hv e he), if_pos (List.mem_range.2 he), postSum, foldl_snd_eq_sum]
    rfl
  · intro e b joined joins
    refine ⟨fun hi ho hs hc hm => ?_, fun hi ho hs hm => ?_, fun q n x hp hx hall => ?_⟩
    · have hf : (goBarSet p c w e).free = true := by
        have ha := free_arriveLocal (b := b) (p := p) (d := e) hc hm
        have hsub : ¬ wSub w > 2 := by omega
        unfold Plan.free at ha ⊢
        simpa [goBarSet, hsub] using ha
      have h := exec_of_free (i := .barClusterSet c) (go := goBarSet) rfl hi ho (by simp [hs]) hf
      exact h.trans (congrArg (fun y => Host.Outcome.next { s with dev := finishRun c w y }) (arriveLocal_run hm))
    · have hc : bitOf (partMask e p) c = true := by
        obtain ⟨-, -, -, hpart, -⟩ := issuing_iff.1 hi
        exact ownsCluster_of_partOf ((partOf_takeWen s.dev c w c).trans hpart)
      have h := exec_of_free (i := .barPartition c) (go := goBarPart) rfl hi ho (by simp [hs]) (free_arriveLocal hc hm)
      exact h.trans (congrArg (fun y => Host.Outcome.next { s with dev := finishRun c w y }) (arriveLocal_run hm))
    · intro freed
      have hmembers : (maskClusters x.mask).all (fun k => x.arrived.contains k) = true := by
        rw [List.all_eq_true]
        intro k hk
        obtain ⟨hr, hb⟩ := List.mem_filter.1 hk
        exact List.contains_iff_mem.2 (hall k (List.mem_range.1 hr) hb)
      have hd : completeLocal s.dev q n = x.arrived.foldl (fun d k => settle (endWait d k) k) freed := by
        simp only [completeLocal, hx, if_pos hmembers]
        rfl
      exact (congrArg Host.Outcome.next (onDev_of_good hp)).trans (by rw [hd])

end Sys2Proof.Machine
end

section
namespace Sys2Proof.Machine

/-! Writes through the set and clear windows (R220) -/

theorem getF_accessError_of_reg {d : Dev} {k : FKey} (h : ∀ p, k.reg ≠ .secDeny p) (who : Agent) :
    getF (accessError d who) k = getF d k := by
  cases who with
  | host p => exact getF_setF_of_ne _ _ (FKey.ne_of_reg (h p).symm)
  | maltster => rfl

/-- The bytes of a word write by a byte function. -/
theorem memGet_applyBytes_word {m : List Host.Cell} (hm : Memory.wf m = true) (f : Byte → Byte → Byte) (k : Nat) (data : Word)
    (be : BitVec 8) :
    (∀ a, a < k ∨ k + 8 ≤ a → memGet (applyBytes f m k data be 8) a = memGet m a) ∧
      ∀ i < 8, memGet (applyBytes f m k data be 8) (k + i) =
        if be.getLsbD i then f (memGet m (k + i)) (BitVec.ofNat 8 (data.toNat / 256 ^ i)) else memGet m (k + i) := by
  refine ⟨fun a ha => ?_, fun i hi => ?_⟩
  · rw [memGet_applyBytes f k data be 8 a hm, if_neg (by omega)]
  · rw [memGet_applyBytes f k data be 8 (k + i) hm, Nat.add_sub_cancel_left]
    have hin : (k ≤ k + i ∧ k + i < k + 8 ∧ be.getLsbD i = true) ↔ be.getLsbD i = true := by
      constructor
      · exact fun h => h.2.2
      · exact fun h => ⟨by omega, by omega, h⟩
    simp only [hin]

section
variable {d : Dev} {who : Agent} {c off : Nat}

theorem aliasWrite_at (d : Dev) (who : Agent) {base c off : Nat} (hc : c < 28) (ho : off + 8 ≤ 0x4000000)
    (f : Byte → Byte → Byte) (data : Word) (be : BitVec 8) :
    aliasWrite d who base (base + 0x4000000 * c + off) f data be = spadWrite d who c off f data be := by
  have hin : base ≤ base + 0x4000000 * c + off ∧ base + 0x4000000 * c + off < base + 0x70000000 := by omega
  have hcluster : (base + 0x4000000 * c + off - base) / 0x4000000 = c := by omega
  have hoffset : (base + 0x4000000 * c + off - base) % 0x4000000 = off := by omega
  rw [aliasWrite, if_pos hin, hcluster, hoffset]

theorem reaches_within (hr : reachesCluster d who c = true) (ho : off + 8 ≤ 0x4000000) :
    ¬ (!reachesCluster d who c || decide (off + 8 > 0x4000000)) = true := by
  rw [hr, decide_eq_false (Nat.not_lt.2 ho)]
  decide

variable (hr : reachesCluster d who c = true) (ho : off + 8 ≤ 0x4000000) (f : Byte → Byte → Byte) (data : Word) (be : BitVec 8)
include hr ho

theorem spadWrite_of_open (hb : banksOpen d c off 8 = true) (hp : protectedHit d c off 8 = false) :
    spadWrite d who c off f data be =
      { reachCluster d c with mem := applyBytes f d.mem (spadBase c + off) data be 8, bus := .none } := by
  rw [spadWrite, if_neg (reaches_within hr ho), hb, hp]
  rfl

/-- An open word takes its enabled bytes, and no register changes. -/
theorem spadWrite_open_effect (hm : Memory.wf d.mem = true) (hb : banksOpen d c off 8 = true) (hp : protectedHit d c off 8 = false) :
    (∀ a, a < spadBase c + off ∨ spadBase c + off + 8 ≤ a → memGet (spadWrite d who c off f data be).mem a = memGet d.mem a) ∧
      (∀ i < 8, memGet (spadWrite d who c off f data be).mem (spadBase c + off + i) =
        if be.getLsbD i then f (memGet d.mem (spadBase c + off + i)) (BitVec.ofNat 8 (data.toNat / 256 ^ i))
        else memGet d.mem (spadBase c + off + i)) ∧
      ∀ k, getF (spadWrite d who c off f data be) k = getF d k := by
  rw [spadWrite_of_open hr ho f data be hb hp]
  obtain ⟨hout, hin⟩ := memGet_applyBytes_word hm f (spadBase c + off) data be
  exact ⟨hout, hin, fun k => getF_reachCluster d c k⟩

theorem spadWrite_of_closed (hb : banksOpen d c off 8 = false) : spadWrite d who c off f data be = foreignAccess d who c := by
  rw [spadWrite, if_neg (reaches_within hr ho), hb]
  rfl

theorem spadWrite_of_protected (hb : banksOpen d c off 8 = true) (hp : protectedHit d c off 8 = true) :
    spadWrite d who c off f data be = protectedWrite d who c := by
  rw [spadWrite, if_neg (reaches_within hr ho), hb, hp]
  rfl

end

theorem getF_foreignAccess_nonown (d : Dev) (who : Agent) (c : Nat) :
    getF (foreignAccess d who c) (F.bankStatus_nonown c) = 1 := by
  rw [foreignAccess, getF_accessError_of_reg (by simp), noteNonOwner, satF, getF_setF_of_ne _ _ (FKey.ne_of_lo (by simp)),
    getF_setF_same]
  rfl

theorem getF_protectedWrite_prot_hit (d : Dev) (who : Agent) (c : Nat) :
    getF (protectedWrite d who c) (F.mcSeqStatus_prot_hit c) = 1 := by
  rw [protectedWrite, getF_accessError_of_reg (by simp), noteProtHit, getF_raise, getF_setF_of_ne _ _ (FKey.ne_of_reg (by simp)),
    getF_setF_same]
  rfl

/-- Settles O34: each command is `spadWrite` at the byte's place, whose three outcomes are the clauses. -/
theorem aliasWrites : Obligations.AliasWrites := by
  intro s who c off data be hp hc ho hr
  extract_lets set clear byte old outside
  have hset : set.toNat = 0x040100000000 + 0x4000000 * c + off := by
    rw [BitVec.toNat_ofNat]; exact Nat.mod_eq_of_lt (by omega)
  have hclear : clear.toNat = 0x040200000000 + 0x4000000 * c + off := by
    rw [BitVec.toNat_ofNat]; exact Nat.mod_eq_of_lt (by omega)
  have execSet : exec (.aliasWriteSet who set data be) s =
      .next { s with dev := spadWrite s.dev who c off (fun old b => old ||| b) data be } := by
    refine (congrArg Host.Outcome.next (onDev_of_good hp)).trans ?_
    rw [hset, aliasWrite_at _ _ hc ho]
  have execClear : exec (.aliasWriteClear who clear data be) s =
      .next { s with dev := spadWrite s.dev who c off (fun old b => old &&& ~~~b) data be } := by
    refine (congrArg Host.Outcome.next (onDev_of_good hp)).trans ?_
    rw [hclear, aliasWrite_at _ _ hc ho]
  have either (i : Instr) (hi : i ∈ [Instr.aliasWriteSet who set data be, .aliasWriteClear who clear data be]) :
      ∃ f, exec i s = .next { s with dev := spadWrite s.dev who c off f data be } := by
    simp only [List.mem_cons, List.not_mem_nil, or_false] at hi
    rcases hi with rfl | rfl
    · exact ⟨_, execSet⟩
    · exact ⟨_, execClear⟩
  refine ⟨fun hm hb hq => ⟨_, execSet, spadWrite_open_effect hr ho _ data be hm hb hq⟩,
    fun hm hb hq => ⟨_, execClear, spadWrite_open_effect hr ho _ data be hm hb hq⟩, fun i hi => ⟨fun hb => ?_, fun hb hq => ?_⟩⟩
  · obtain ⟨f, hx⟩ := either i hi
    rw [spadWrite_of_closed hr ho f data be hb] at hx
    exact ⟨_, hx, foreignAccess_mem _ _ _, getF_foreignAccess_nonown _ _ _, accessError_bus _ _⟩
  · obtain ⟨f, hx⟩ := either i hi
    rw [spadWrite_of_protected hr ho f data be hb hq] at hx
    exact ⟨_, hx, protectedWrite_mem _ _ _, getF_protectedWrite_prot_hit _ _ _, accessError_bus _ _⟩

end Sys2Proof.Machine
end

section
namespace Sys2Proof.Machine

/-! HALT (R29) -/

theorem pcOf_takeWen (d : Dev) (c w : Nat) : pcOf (takeWen d c w) c = pcOf d c := getF_takeWen_of_reg (by simp)

/-- The PC that a HALT leaves, before the cluster rests. -/
def pastHalt (d : Dev) (c w : Nat) : Dev := setF (signal d c (sigOf w)) (F.mcSeqPc_pc c) (pcOf (signal d c (sigOf w)) c + 1)

theorem rested_halted (d : Dev) (c w : Nat) : Rested (pastHalt d c w) c 3 (F.mcSeqIrq_done c) (finishRun c w (.halted d)) :=
  rested_raise_enterRest _ _ _ (by decide) rfl

theorem flag_lend_pastHalt (d : Dev) (c w lo : Nat) : flag (pastHalt (takeWen d c w) c w) ⟨.mcLend c, lo⟩ = flag d ⟨.mcLend c, lo⟩ := by
  rw [flag, flag, pastHalt, getF_setF_of_ne _ _ (FKey.ne_of_reg (by simp)), (seqOnly_signal _ c _).field _ rfl,
    getF_takeWen_of_reg (by simp)]

/-! Start (R27) -/

/-- The host may start the cluster (R27, R74, R292). -/
def startAllowed (d : Dev) (c : Nat) : Bool :=
  seqAtRest d c && startable d c && (partOf d c).isSome && !(clusterOf d c).startBlocked && !flag d (F.mcDpuMap_retired c)

/-- What allows a start is read from the fields and the cluster's record. -/
theorem startAllowed_congr {d e : Dev} (hf : e.f = d.f) (hc : e.cl = d.cl) (c : Nat) : startAllowed e c = startAllowed d c := by
  change startAllowed { Dev.reset with f := e.f, cl := e.cl } c = startAllowed { Dev.reset with f := d.f, cl := d.cl } c
  rw [hf, hc]

theorem startAllowed_eq_false_iff {d : Dev} {c : Nat} : startAllowed d c = false ↔ seqAtRest d c = false ∨ startable d c = false ∨
    partOf d c = none ∨ (clusterOf d c).startBlocked = true ∨ flag d (F.mcDpuMap_retired c) = true := by
  simp only [startAllowed, Bool.and_eq_false_iff, Bool.not_eq_false', Option.isSome_eq_false_iff, Option.isNone_iff_eq_none, or_assoc]

/-- The fault record cleared, and the cluster awake or in the queue to wake. -/
def startPrepared (d : Dev) (c : Nat) : Dev :=
  let e := setF (setF (setF d (F.mcSeqFault_cause c) 0) (F.mcSeqFault_pc c) 0) (F.mcSeqFault_deferred c) 0
  if asleep e c then requestWake e (.cluster (Fin.ofNat 28 c)) else e

theorem startCluster_of_allowed {d : Dev} {c : Nat} (h : startAllowed d c = true) :
    startCluster d c false = setRunning (setLoops (startPrepared d c) c []) c := if_pos h

theorem startCluster_of_refused {d : Dev} {c : Nat} {both : Bool} (h : both = true ∨ startAllowed d c = false) :
    startCluster d c both = setF d (F.mcSeqStatus_start_err c) 1 := by
  have hn : (!both && startAllowed d c) = false := by
    rcases h with rfl | h
    · rfl
    · rw [h, Bool.and_false]
  have hx : startCluster d c both = if (!both && seqAtRest d c && startable d c && (partOf d c).isSome && !(clusterOf d c).startBlocked &&
      !flag d (F.mcDpuMap_retired c)) = true then setRunning (setLoops (startPrepared d c) c []) c
      else setF d (F.mcSeqStatus_start_err c) 1 := rfl
  rw [hx, if_neg]
  simpa [startAllowed, Bool.and_assoc] using hn

theorem startPrepared_same {α : Type} (v : Dev → α) (hv : ∀ d g w q, v { d with gated := g, waking := w, wakeQueue := q } = v d)
    (d : Dev) (c : Nat) : v (startPrepared d c) =
      v (setF (setF (setF d (F.mcSeqFault_cause c) 0) (F.mcSeqFault_pc c) 0) (F.mcSeqFault_deferred c) 0) := by
  unfold startPrepared
  dsimp only
  split
  · exact requestWake_same v hv _ _
  · rfl

theorem getF_startPrepared (d : Dev) (c : Nat) (k : FKey) : getF (startPrepared d c) k =
    getF (setF (setF (setF d (F.mcSeqFault_cause c) 0) (F.mcSeqFault_pc c) 0) (F.mcSeqFault_deferred c) 0) k :=
  startPrepared_same (fun d => getF d k) (fun _ _ _ _ => rfl) d c

/-- A field that a start leaves to the fault record and what was there. -/
theorem getF_started {d : Dev} {c : Nat} {k : FKey} (h : k.reg ≠ .mcSeqStatus c) :
    getF (setRunning (setLoops (startPrepared d c) c []) c) k = getF (startPrepared d c) k := by
  have status (lo : Nat) : (⟨.mcSeqStatus c, lo⟩ : FKey) ≠ k := FKey.ne_of_reg h.symm
  simp [setRunning, setLoops, getF_setF, status]

/-! Withdrawing a wait (R28) -/

@[simp] theorem raise_bars (d : Dev) (p : Option Nat) (irq en : FKey) : (raise d p irq en).bars = d.bars := by
  unfold raise; split
  · dsimp only; split <;> rfl
  · rfl

@[simp] theorem signal_bars (d : Dev) (c : Nat) (x : Option Nat) : (signal d c x).bars = d.bars := by
  unfold signal evAdd; split
  · dsimp only; split <;> simp
  · rfl

theorem leaveBarrier_same {α : Type} (v : Dev → α) (hv : ∀ d b, v { d with bars := b } = v d) (d : Dev) (p b c : Nat) :
    v (leaveBarrier d p b c) = v d := by
  unfold leaveBarrier; split
  · rfl
  · dsimp only; split <;> exact hv d _

/-- A barrier that a cluster has left does not count it. -/
theorem not_mem_arrived_leaveBarrier {d : Dev} {p b c : Nat} {x : LocalBarrier}
    (h : Tab.get? (leaveBarrier d p b c).bars (p, b) = some x) : c ∉ x.arrived := by
  unfold leaveBarrier at h
  split at h
  · next hn => rw [hn] at h; cases h
  · dsimp only at h
    split at h
    · rw [Tab.get?_erase_same] at h; cases h
    · rw [Tab.get?_put_same] at h
      cases h
      simp

/-- The local barrier of a wait, left by its cluster. -/
def leftBarrier (d : Dev) (p c : Nat) (on : WaitFor) : Dev :=
  match on with
  | .barrier b => leaveBarrier d p b c
  | _ => d

theorem leftBarrier_same {α : Type} (v : Dev → α) (hv : ∀ d b, v { d with bars := b } = v d) (d : Dev) (p c : Nat) (on : WaitFor) :
    v (leftBarrier d p c on) = v d := by
  unfold leftBarrier; split
  · exact leaveBarrier_same v hv d p _ c
  · rfl

theorem withdraw_of_waiting {d : Dev} {c p : Nat} {q : WaitOp} (hp : partOf d c = some p) (hw : (clusterOf d c).waiting = some q) :
    withdraw d c = modCluster (signal (leftBarrier d p c q.on) c q.wen) c (fun x => { x with waiting := none }) := by
  obtain ⟨on, wen, sig⟩ := q
  cases on <;> simp only [withdraw, hw, hp, leftBarrier]

theorem withdrawCancelled_of_none {d : Dev} {c : Nat} (h : (clusterOf d c).waiting = none) : withdrawCancelled d c = d := by
  unfold withdrawCancelled; rw [h]

/-! The commands of start and stop -/

section
variable {s : State} {who : Agent} {c : ClusterId} (hp : s.dev.powerGood = true) (hr : reachesCluster s.dev who c = true)
include hp hr

/-- An access of an agent that reaches the cluster. -/
theorem next_atCluster (f : Dev → Dev) : Host.Outcome.next (φ := Fault) (ρ := Refusal) (onDev (atCluster who c f) s) =
    .next { s with dev := f { reachCluster s.dev c with bus := .none } } := by
  rw [onDev_of_good hp, atCluster, if_pos hr]

theorem exec_start (both : Bool) : exec (.start who c both) s =
    .next { s with dev := startCluster { reachCluster s.dev c with bus := .none } c both } := next_atCluster hp hr _

theorem exec_stop : exec (.stop who c) s = .next { s with dev := stopCluster { reachCluster s.dev c with bus := .none } c } :=
  next_atCluster hp hr _

end

/-- A cluster as an access reaches it: its fields and record are as before. -/
def accessed (d : Dev) (c : Nat) : Dev := { reachCluster d c with bus := .none }

theorem getF_accessed (d : Dev) (c : Nat) (k : FKey) : getF (accessed d c) k = getF d k := getF_reachCluster d c k
theorem clusterOf_accessed (d : Dev) (c n : Nat) : clusterOf (accessed d c) n = clusterOf d n := clusterOf_congr (reachCluster_cl d c) n
theorem partOf_accessed (d : Dev) (c n : Nat) : partOf (accessed d c) n = partOf d n := partOf_congr (fun _ => getF_accessed d c _) n

/-- A stop under which nothing is withdrawn. -/
theorem stopCluster_of_active {d : Dev} {c : Nat} (ha : seqActive d c = true) (hw : (clusterOf d c).waiting = none) :
    stopCluster d c = setF d (F.mcSeqCtrl_stop c) 1 := by
  have hc : (clusterOf (setF d (F.mcSeqCtrl_stop c) 1) c).waiting = none := hw
  unfold stopCluster
  rw [if_pos ha]
  dsimp only
  rw [hc]
  exact withdrawCancelled_of_none hc

theorem stopCluster_of_rest {d : Dev} {c : Nat} (ha : seqActive d c = false) : stopCluster d c = d := by
  unfold stopCluster; rw [ha]; rfl

/-- A stop withdraws the waits that can be (R28). -/
theorem stopCluster_of_waiting {d : Dev} {c p : Nat} {q : WaitOp} (ha : seqActive d c = true) (hp : partOf d c = some p)
    (hw : (clusterOf d c).waiting = some q) (hq : withdrawable q.on = true) : stopCluster d c =
      modCluster (signal (leftBarrier (setF d (F.mcSeqCtrl_stop c) 1) p c q.on) c q.wen) c (fun x => { x with waiting := none }) := by
  have hc : (clusterOf (setF d (F.mcSeqCtrl_stop c) 1) c).waiting = some q := hw
  have hpart : partOf (setF d (F.mcSeqCtrl_stop c) 1) c = some p :=
    (partOf_congr (fun _ => getF_setF_of_ne _ _ (FKey.ne_of_reg (by simp))) c).trans hp
  unfold stopCluster
  rw [if_pos ha]
  dsimp only
  rw [hc]
  dsimp only
  rw [if_pos hq, withdraw_of_waiting hpart hc]
  exact withdrawCancelled_of_none (by simp)

/-- Settles O12: HALT and the end of a stop come to rest (`Rested`), a start clears the record, a stop withdraws what waits. -/
theorem startHaltStop : Obligations.StartHaltStop := by
  refine ⟨fun s p c w hi ho => ?_, fun s who c hp => ?_⟩
  · intro e
    refine ⟨fun hd => ?_, fun hd => ?_⟩
    · have hf : (goHalt p c w e).free = true := by simp [goHalt, Plan.free, hd]
      have h := rested_halted e c w
      have hlend := flag_lend_pastHalt s.dev c w
      refine ⟨_, exec_of_free (i := .halt c) (go := goHalt) rfl hi ho rfl hf, rfl, fun hpc => ?_, fun he => h.alone ((hlend _).trans he),
        fun he ha => h.lent ((hlend _).trans he) ((hlend _).trans ha), h.irq, (finishRun_mem c w _).trans (takeWen_mem s.dev c w)⟩
      refine (h.other (F.mcSeqPc_pc c) (by simp) (by simp) (by simp)).trans ?_
      rw [pastHalt, getF_setF_same, seqPc_width, pcOf_signal, Nat.mod_eq_of_lt hpc, pcOf_takeWen]
    · have hb : (goHalt p c w e).block = some 8 := by simp [goHalt, hd]
      exact exec_of_block (i := .halt c) (go := goHalt) rfl hi ho rfl rfl hb
  · intro d refused
    have hd : d = accessed s.dev c := rfl
    have hallowed : startAllowed d c = startAllowed s.dev c := startAllowed_congr (reachCluster_f _ _) (reachCluster_cl _ _) c
    have hactive : seqActive d c = seqActive s.dev c := by
      simp only [seqActive, seqState, hd, getF_accessed]
    refine ⟨fun hr hok => ?_, fun both hr hno => ?_, fun hr ha hw => ?_, fun hr ha => ?_, fun p q hr ha hpart hw hq => ?_,
      fun hs hdr hn => ?_⟩
    · have ha : startAllowed d c = true := by
        rw [hallowed, ← Bool.not_eq_false, startAllowed_eq_false_iff]
        exact hok
      have hx := exec_start hp hr false
      rw [startCluster_of_allowed ha] at hx
      have field {k : FKey} (hk : k.reg ≠ .mcSeqStatus c) (hf : k.reg ≠ .mcSeqFault c) :
          getF (setRunning (setLoops (startPrepared d c) c []) c) k = getF s.dev k := by
        have fault (lo : Nat) : (⟨.mcSeqFault c, lo⟩ : FKey) ≠ k := FKey.ne_of_reg hf.symm
        rw [getF_started hk, getF_startPrepared, getF_setF_of_ne _ _ (fault 8), getF_setF_of_ne _ _ (fault 32),
          getF_setF_of_ne _ _ (fault 0), hd, getF_accessed]
      have record (lo : Nat) : getF (setRunning (setLoops (startPrepared d c) c []) c) ⟨.mcSeqFault c, lo⟩ =
          getF (startPrepared d c) ⟨.mcSeqFault c, lo⟩ := getF_started (by simp)
      refine ⟨_, hx, ?_, ?_, ?_, ?_, ?_, field (by simp) (by simp), fun k hk => field ?_ ?_, ?_, rfl⟩
      · simp [setRunning, seqState, getF_setF, seqStatus_state_width]
      · simp [setRunning, setLoops]
      · rw [record, getF_startPrepared]
        simp [getF_setF]
      · rw [record, getF_startPrepared]
        simp [getF_setF]
      · rw [record, getF_startPrepared]
        simp
      · intro hreg
        rw [sequencerOwn_of_reg (Or.inr (Or.inl hreg))] at hk
        cases hk
      · intro hreg
        rw [sequencerOwn_of_reg (Or.inr (Or.inr (Or.inr (Or.inl hreg))))] at hk
        cases hk
      · rw [setRunning_mem, setLoops_mem, startPrepared_same Dev.mem (fun _ _ _ _ => rfl)]
        exact reachCluster_mem s.dev c
    · have hx := exec_start hp hr both
      rwa [startCluster_of_refused (hno.imp_right (fun h => hallowed.trans (startAllowed_eq_false_iff.2 h)))] at hx
    · have hx := exec_stop hp hr
      rwa [stopCluster_of_active (hactive.trans ha) ((congrArg Cluster.waiting (clusterOf_accessed s.dev c c)).trans hw)] at hx
    · have hx := exec_stop hp hr
      rwa [stopCluster_of_rest (hactive.trans ha)] at hx
    · have hx := exec_stop hp hr
      rw [stopCluster_of_waiting (hactive.trans ha) ((partOf_accessed s.dev c c).trans hpart)
        ((congrArg Cluster.waiting (clusterOf_accessed s.dev c c)).trans hw) hq] at hx
      have left (k : FKey) : getF (leftBarrier (setF d (F.mcSeqCtrl_stop c) 1) p c q.on) k = getF (setF d (F.mcSeqCtrl_stop c) 1) k :=
        leftBarrier_same (fun d => getF d k) (fun _ _ => rfl) _ p c q.on
      refine ⟨_, hx, by simp, ?_, ?_, fun e he hlt => ?_, fun b x hb hx => ?_, ?_, rfl⟩
      · rw [pcOf, getF_modCluster, getF_signal (by simp [evField]), left, getF_setF_of_ne _ _ (FKey.ne_of_reg (by simp)), hd,
          getF_accessed]
        rfl
      · rw [getF_modCluster, getF_signal (by simp [evField]), left, getF_setF_same]
        rfl
      · have hc : getF (leftBarrier (setF d (F.mcSeqCtrl_stop c) 1) p c q.on) (F.mcEvt_count c e) = getF s.dev (F.mcEvt_count c e) := by
          rw [left, getF_setF_of_ne _ _ (FKey.ne_of_reg (by simp)), hd, getF_accessed]
        rw [getF_modCluster, he]
        exact getF_evAdd_same.trans (by rw [hc]; omega)
      · have hx' : Tab.get? (leftBarrier (setF d (F.mcSeqCtrl_stop c) 1) p c q.on).bars (p, b) = some x := by simpa using hx
        rw [hb] at hx'
        exact not_mem_arrived_leaveBarrier hx'
      · rw [modCluster_mem, signal_mem, leftBarrier_same Dev.mem (fun _ _ => rfl)]
        exact reachCluster_mem s.dev c
    · have hgo : (flag s.dev (F.mcSeqCtrl_stop c) && drained s.dev c && (clusterOf s.dev c).pend.isNone) = true := by
        rw [hs, hdr, hn]
        rfl
      have hc : completeStop s.dev c = raise (enterRest s.dev c 4) (partOf (enterRest s.dev c 4) c) (F.mcSeqIrq_stopped c)
          (F.mcSeqIrqEn_stopped c) := if_pos hgo
      have hx : exec (.stopComplete c) s = .next { s with dev := completeStop s.dev c } := congrArg Host.Outcome.next (onDev_of_good hp)
      have h : Rested s.dev c 4 (F.mcSeqIrq_stopped c) (completeStop s.dev c) := by
        rw [hc]
        exact rested_raise_enterRest _ _ _ (by decide) rfl
      have hf : SeqOnly c s.dev (completeStop s.dev c) := by
        rw [hc]
        exact (seqOnly_enterRest s.dev c 4).trans (.raise (by simp [sequencerOwn]) _ _ _)
      exact ⟨_, hx, h.stop, h.alone, h.lent, h.irq, h.other _ (by simp) (by simp) (by simp), hf.field,
        completeStop_mem s.dev c, rfl⟩

end Sys2Proof.Machine
end

section
namespace Sys2Proof.Machine

/-! The array's own registers (Tables 3.4, 3.6) -/

/-- The registers of cluster c in which the array counts its work and shows its phase. -/
def arrayRegs (c : Nat) : List Reg :=
  [.mcArrStatus c, .mcArrBusy c, .mcArrRouse c, .mcArrStallLoad c, .mcArrStallBank c, .mcArrAcc c]

/-- e is d but for what the array of cluster c changes as it takes up and ends work: its own registers, its clock gate, free values
drawn, and in the cluster's record the old rouse settings and the last format. -/
structure ArrayOnly (c : Nat) (d e : Dev) : Prop where
  rest : e = { d with f := e.f, cl := e.cl, free := e.free, gated := e.gated }
  field : ∀ k : FKey, k.reg ∉ arrayRegs c → getF e k = getF d k
  record : clusterOf e c = { clusterOf d c with rouseOld := (clusterOf e c).rouseOld, lastFmt := (clusterOf e c).lastFmt }

namespace ArrayOnly
variable {c : Nat} {d e g : Dev}

theorem refl (c : Nat) (d : Dev) : ArrayOnly c d d := ⟨rfl, fun _ _ => rfl, rfl⟩

theorem trans (h : ArrayOnly c d e) (h' : ArrayOnly c e g) : ArrayOnly c d g :=
  ⟨h'.rest.trans (by rw [h.rest]), fun k hk => (h'.field k hk).trans (h.field k hk), h'.record.trans (by rw [h.record])⟩

theorem setF {k : FKey} (hk : k.reg ∈ arrayRegs c) (d : Dev) (v : Nat) : ArrayOnly c d (setF d k v) :=
  ⟨rfl, fun _ hj => getF_setF_of_ne d v (fun e => hj (e ▸ hk)), rfl⟩

theorem addF {k : FKey} (hk : k.reg ∈ arrayRegs c) (d : Dev) (n : Nat) : ArrayOnly c d (addF d k n) := setF hk d _

theorem nextFree (c : Nat) (d : Dev) : ArrayOnly c d (nextFree d).2 := ⟨rfl, fun _ _ => rfl, rfl⟩

theorem ungate (c : Nat) (d : Dev) (x : GatedUnit) : ArrayOnly c d (ungate d x) := ⟨rfl, fun _ _ => rfl, rfl⟩

theorem rouseOld (c : Nat) (d : Dev) (x : Option (Nat × Nat)) : ArrayOnly c d (modCluster d c (fun y => { y with rouseOld := x })) :=
  ⟨rfl, fun _ _ => rfl, by simp⟩

theorem lastFmt (c : Nat) (d : Dev) (x : Nat) : ArrayOnly c d (modCluster d c (fun y => { y with lastFmt := x })) :=
  ⟨rfl, fun _ _ => rfl, by simp⟩

theorem ite {p : Prop} [Decidable p] (h : ArrayOnly c d e) (h' : ArrayOnly c d g) : ArrayOnly c d (if p then e else g) := by
  split
  · exact h
  · exact h'

/-- A part of the state that the array does not change. -/
theorem same {α : Type} (h : ArrayOnly c d e) (v : Dev → α)
    (hv : ∀ f cl n u, v { d with f := f, cl := cl, free := n, gated := u } = v d) : v e = v d := by
  rw [h.rest]; exact hv _ _ _ _

theorem jobs (h : ArrayOnly c d e) : (clusterOf e c).jobs = (clusterOf d c).jobs := by rw [h.record]
theorem dwq (h : ArrayOnly c d e) : (clusterOf e c).dwq = (clusterOf d c).dwq := by rw [h.record]
theorem waiting (h : ArrayOnly c d e) : (clusterOf e c).waiting = (clusterOf d c).waiting := by rw [h.record]
theorem pend (h : ArrayOnly c d e) : (clusterOf e c).pend = (clusterOf d c).pend := by rw [h.record]
theorem loops (h : ArrayOnly c d e) : (clusterOf e c).loops = (clusterOf d c).loops := by rw [h.record]

end ArrayOnly

theorem arrayOnly_newRouse (d : Dev) (c : Nat) : ArrayOnly c d (newRouse d c) := .ite (.rouseOld c d none) (.refl c d)

theorem arrayOnly_cutShort (d : Dev) (c n : Nat) : ArrayOnly c d (cutShort d c n) :=
  (ArrayOnly.nextFree c d).trans (.addF (by simp [arrayRegs]) _ _)

theorem arrayOnly_arrayStart (d : Dev) (c phase load : Nat) : ArrayOnly c d (arrayStart d c phase load) := by
  have status (e : Dev) (lo v : Nat) : ArrayOnly c e (setF e ⟨.mcArrStatus c, lo⟩ v) := .setF (by simp [arrayRegs]) e v
  have cut : ArrayOnly c d (if getF d (F.mcArrStatus_phase c) = 3 then cutShort d c (holdCycles d c)
      else if getF d (F.mcArrStatus_phase c) = 4 then cutShort d c (rampStep d c) else d) :=
    .ite (arrayOnly_cutShort d c _) (.ite (arrayOnly_cutShort d c _) (.refl c d))
  have load (e : Dev) (n : Nat) : ArrayOnly c e (addF e (F.mcArrStallLoad_count c) n) := .addF (by simp [arrayRegs]) e n
  exact ((cut.trans (.ite (.refl c _) (arrayOnly_newRouse _ c))).trans (load _ _)).trans
    (.ite (status _ _ _) ((ArrayOnly.ite (.refl c _) (status _ _ _)).trans (status _ _ _)))

theorem arrayOnly_arrayBusy (d : Dev) (c phase load : Nat) : ArrayOnly c d (arrayBusy d c phase load) :=
  (ArrayOnly.ungate c d _).trans (.ite (.refl c _) (arrayOnly_arrayStart _ c phase load))

theorem arrayOnly_arrayIdle (d : Dev) (c : Nat) : ArrayOnly c d (arrayIdle d c) := by
  have status (e : Dev) (lo v : Nat) : ArrayOnly c e (setF e ⟨.mcArrStatus c, lo⟩ v) := .setF (by simp [arrayRegs]) e v
  exact .ite (status d _ _) (.ite (status d _ _) ((status d _ _).trans (status _ _ _)))

theorem arrayOnly_countArray (d : Dev) (c rows stalls : Nat) : ArrayOnly c d (countArray d c rows stalls) :=
  (((ArrayOnly.nextFree c d).trans (.nextFree c _)).trans (.addF (by simp [arrayRegs]) _ _)).trans
    ((ArrayOnly.addF (by simp [arrayRegs]) _ _).trans (.addF (by simp [arrayRegs]) _ _))

theorem arrayOnly_arrayWhole (d : Dev) (c load : Nat) : ArrayOnly c d (arrayWhole d c load) := by
  refine ((ArrayOnly.ungate c d _).trans (arrayOnly_arrayStart _ c 1 load)).trans (.ite ?_ (.refl c _))
  refine .trans ?_ (arrayOnly_newRouse _ c)
  exact ((ArrayOnly.addF (by simp [arrayRegs]) _ _).trans (.addF (by simp [arrayRegs]) _ _)).trans
    ((ArrayOnly.setF (by simp [arrayRegs]) _ _).trans (.setF (by simp [arrayRegs]) _ _))

theorem seqOnly_endRouse (d : Dev) (c : Nat) : SeqOnly c d (endRouse d c) := by
  unfold endRouse
  split
  · split
    · exact (SeqOnly.modCluster c d c _).trans (seqOnly_signal _ c _)
    · exact .refl c d
  · exact .refl c d

/-! What an instruction does as it enters the array's queue (R34) -/

/-- t is d but for an instruction queued on the array of cluster c. -/
structure OnArray (c : Nat) (d t : Dev) : Prop where
  acc : t.acc = d.acc
  wins : t.wins = d.wins
  mem : t.mem = d.mem
  unit : (clusterOf t c).jobs.getLast?.map Job.unit = some .array
  field : ∀ k : FKey, sequencerOwn c k = false → k.reg ∉ arrayRegs c → getF t k = getF d k

theorem OnArray.of_parts {c : Nat} {d e g : Dev} (hs : SeqOnly c d e) (ha : ArrayOnly c e g) {j : Job} (hj : j.unit = .array) :
    OnArray c d (addJob g c j) where
  acc := (ha.same Dev.acc (fun _ _ _ _ => rfl)).trans (hs.same Dev.acc (fun _ _ _ _ => rfl))
  wins := (ha.same Dev.wins (fun _ _ _ _ => rfl)).trans (hs.same Dev.wins (fun _ _ _ _ => rfl))
  mem := (ha.same Dev.mem (fun _ _ _ _ => rfl)).trans (hs.same Dev.mem (fun _ _ _ _ => rfl))
  unit := by simp [addJob, hj]
  field k hk hr := (ha.field k hr).trans (hs.field k hk)

theorem onArray_intoArray (d : Dev) (c w fmt rows stalls : Nat) (tiles slots : List Nat) (banks : List (Nat × Nat)) (nonfin : Bool) :
    OnArray c d (intoArray d c w fmt rows stalls tiles slots banks nonfin) :=
  .of_parts (seqOnly_endRouse d c)
    (((arrayOnly_countArray _ c rows stalls).trans (arrayOnly_arrayBusy _ c 1 _)).trans (.lastFmt c _ fmt)) rfl

theorem onArray_intoAcc (d : Dev) (c w per : Nat) (tiles slots : List Nat) (banks : List (Nat × Nat)) (nonfin : Bool) :
    OnArray c d (intoAcc d c w per tiles slots banks nonfin) :=
  .of_parts (seqOnly_endRouse d c) ((ArrayOnly.addF (by simp [arrayRegs]) _ _).trans (arrayOnly_arrayBusy _ c 1 0)) rfl

/-! Accumulation reads and changes the accumulators alone (R44, R85) -/

/-- The entries of cluster c after one place of a group. -/
def enterPlace (ref : Bool) (win : Win) (c first cols : Nat) (terms : Nat → Nat → List (Val × Val))
    (a : Tab (Nat × Nat × Nat) AccEntry) (ij : Nat × Nat) : Tab (Nat × Nat × Nat) AccEntry :=
  let e := groupEntry first cols ij.1 ij.2
  Tab.put a (c, e.1, e.2) (addTerms ref win ((Tab.get? a (c, e.1, e.2)).getD ⟨0, false⟩) (terms ij.1 ij.2))

theorem accumGroup_eq (d : Dev) (ref : Bool) (c first rows cols : Nat) (terms : Nat → Nat → List (Val × Val)) :
    accumGroup d ref c first rows cols terms =
      { d with acc := (places rows cols).foldl (enterPlace ref (groupWin d c first) c first cols terms) d.acc } :=
  List.foldl_hom (fun a => ({ d with acc := a } : Dev)) (g₁ := enterPlace ref (groupWin d c first) c first cols terms)
    (g₂ := fun e ij => setAcc e c (groupEntry first cols ij.1 ij.2).1 (groupEntry first cols ij.1 ij.2).2
      (addTerms ref (groupWin d c first) (accAt e c (groupEntry first cols ij.1 ij.2).1 (groupEntry first cols ij.1 ij.2).2)
        (terms ij.1 ij.2))) (init := d.acc) (l := places rows cols) (fun _ _ => rfl)

theorem accumGroup_acc_congr {d e : Dev} (ha : e.acc = d.acc) (hw : e.wins = d.wins) (ref : Bool) (c first rows cols : Nat)
    (terms : Nat → Nat → List (Val × Val)) :
    (accumGroup e ref c first rows cols terms).acc = (accumGroup d ref c first rows cols terms).acc := by
  simp only [accumGroup_eq, ha, groupWin, winOf, hw]

theorem accumGroup_wins (d : Dev) (ref : Bool) (c first rows cols : Nat) (terms : Nat → Nat → List (Val × Val)) :
    (accumGroup d ref c first rows cols terms).wins = d.wins := by rw [accumGroup_eq]

theorem mmwgEffect_eq (d : Dev) (ref : Bool) (p c w : Nat) (a g : Desc) (sk : Option Desc) :
    mmwgEffect d ref p c w a g sk = { d with acc := (mmwgEffect d ref p c w a g sk).acc } := by
  unfold mmwgEffect
  dsimp only
  split
  · split <;> simp only [accumGroup_eq]
  · simp only [accumGroup_eq]

theorem mmwgEffect_wins (d : Dev) (ref : Bool) (p c w : Nat) (a g : Desc) (sk : Option Desc) :
    (mmwgEffect d ref p c w a g sk).wins = d.wins := by rw [mmwgEffect_eq]

theorem getF_mmwgEffect (d : Dev) (ref : Bool) (p c w : Nat) (a g : Desc) (sk : Option Desc) (k : FKey) :
    getF (mmwgEffect d ref p c w a g sk) k = getF d k := by rw [mmwgEffect_eq]; rfl

theorem clusterOf_mmwgEffect (d : Dev) (ref : Bool) (p c w : Nat) (a g : Desc) (sk : Option Desc) (n : Nat) :
    clusterOf (mmwgEffect d ref p c w a g sk) n = clusterOf d n := by rw [mmwgEffect_eq]; rfl

/-- The accumulations of an MMWG do not depend on what the clusters hold. -/
theorem mmwgEffect_modCluster_acc (d : Dev) (ref : Bool) (p c w : Nat) (a g : Desc) (sk : Option Desc) (n : Nat) (m : Cluster → Cluster) :
    (mmwgEffect (modCluster d n m) ref p c w a g sk).acc = (mmwgEffect d ref p c w a g sk).acc := by
  have ht : tVal (modCluster d n m) = tVal d := rfl
  have hs : sketchTerms (modCluster d n m) = sketchTerms d := rfl
  simp only [mmwgEffect, ht, hs]
  have main (rows cols t : Nat) (terms : Nat → Nat → List (Val × Val)) :
      (accumGroup (modCluster d n m) ref c t rows cols terms).acc = (accumGroup d ref c t rows cols terms).acc :=
    accumGroup_acc_congr (d := d) (e := modCluster d n m) rfl rfl ref c t rows cols terms
  have wins (rows cols t : Nat) (terms : Nat → Nat → List (Val × Val)) :
      (accumGroup (modCluster d n m) ref c t rows cols terms).wins = (accumGroup d ref c t rows cols terms).wins := by
    rw [accumGroup_wins, accumGroup_wins, modCluster_wins]
  split
  · refine accumGroup_acc_congr ?_ ?_ ref c _ _ _ _
    · cases sk with
      | none => exact accumGroup_acc_congr (main ..) (wins ..) ref c _ _ _ _
      | some y => exact accumGroup_acc_congr (main ..) (wins ..) ref c _ _ _ _
    · cases sk <;> simp only [accumGroup_wins, modCluster_wins]
  · exact main ..

/-! What an address names does not depend on what the clusters hold (Table 13.1) -/

/-- What an address names is read from the pages, the sweeps and registers other than the event counters. -/
theorem placeOf_congr {d e : Dev} (hp : e.pages = d.pages) (hs : e.sweeps = d.sweeps)
    (hf : ∀ k : FKey, (∀ c n, k.reg ≠ .mcEvt c n) → getF e k = getF d k) (p a : Nat) : placeOf e p a = placeOf d p a := by
  have hpage : pageAt e p = pageAt d p := by funext w v; rw [pageAt, pageAt, hp]
  have hown : ownsCluster e p = ownsCluster d p := by funext c; rw [ownsCluster, ownsCluster, hf _ (by simp)]
  have hunits : slotUnits e p = slotUnits d p := by simp [slotUnits, unitsOf, hs, hf]
  unfold placeOf
  rw [hpage, hown, hunits]

theorem placeOf_modCluster (d : Dev) (n : Nat) (m : Cluster → Cluster) (p a : Nat) : placeOf (modCluster d n m) p a = placeOf d p a :=
  placeOf_congr rfl rfl (fun _ _ => rfl) p a

theorem rangeMapped_modCluster (d : Dev) (n : Nat) (m : Cluster → Cluster) (p a k : Nat) :
    rangeMapped (modCluster d n m) p a k = rangeMapped d p a k := by
  simp only [rangeMapped, placeOf_modCluster]

theorem extentOutside_modCluster (d : Dev) (n : Nat) (m : Cluster → Cluster) (p : Nat) (t : Desc) (w : Bool) :
    extentOutside (modCluster d n m) p t w = extentOutside d p t w := by
  simp only [extentOutside, ownsCluster, rangeMapped_modCluster, placeOf_modCluster, getF_modCluster]

theorem sketchOutside_modCluster (d : Dev) (n : Nat) (m : Cluster → Cluster) (p : Nat) (y a : Desc) :
    sketchOutside (modCluster d n m) p y a = sketchOutside d p y a := by
  simp only [sketchOutside, rangeMapped_modCluster]

/-! MMWG at issue (R55) -/

theorem exec_mmwg {s : State} {p : Nat} {c : ClusterId} {w : Nat} (hi : issuing s p c w = true) (ho : wOp w = 0x11)
    (hf : (goMmwg p c w (takeWen s.dev c w)).free = true) :
    exec (.mmwg c) s = .next { s with dev := finishRun c w ((goMmwg p c w (takeWen s.dev c w)).run ()) } :=
  exec_of_free (i := .mmwg c) (go := goMmwg) rfl hi ho rfl hf

theorem goMmwg_run_now {d : Dev} {p c w : Nat} (h : bitOf w 43 = false ∨ isRef d p = true) :
    ∃ t, (goMmwg p c w d).run () = .queued t ∧ OnArray c (mmwgEffect d (isRef d p) p c w (resolveScale d c (descOf d c (wTa w)))
      (resolveScale d c (descOf d c (wTb w))) (if bitOf w 44 && bitOf w 45 then some (descOf d c (wTsk w)) else none)) t := by
  have hn : (bitOf w 43 && !isRef d p) = false := by
    rcases h with h | h <;> rw [h]
    · rfl
    · exact Bool.and_false _
  simp only [goMmwg, hn, Bool.false_eq_true, if_false]
  exact ⟨_, rfl, onArray_intoArray ..⟩

theorem goMmwg_run_pushed {d : Dev} {p c w : Nat} (h : bitOf w 43 = true) (hr : isRef d p = false) :
    (goMmwg p c w d).run () = .queued (modCluster d c (fun x => { x with dwq := x.dwq ++
      [⟨w, pcOf d c, resolveScale d c (descOf d c (wTa w)), resolveScale d c (descOf d c (wTb w)),
        if bitOf w 44 && bitOf w 45 then some (descOf d c (wTsk w)) else none,
        (mmwgGroups w (descOf d c (wTa w)) (descOf d c (wTb w)) (if bitOf w 44 && bitOf w 45 then some (descOf d c (wTsk w)) else none)).flatMap
          (fun x => groupTiles x.1 x.2.1 x.2.2), sigOf w⟩] })) := by
  simp only [goMmwg, h, hr, Bool.not_false, Bool.and_self, if_true]

/-! The deferred queue (R56) -/

theorem exec_deferredEntryRun {s : State} (hg : s.dev.powerGood = true) (c : ClusterId) :
    exec (.deferredEntryRun c) s = .next { s with dev := runDeferred s.dev c } :=
  congrArg Host.Outcome.next (onDev_of_good hg)

theorem runDeferred_held {d : Dev} {c p : Nat} {x : Deferred} {r : List Deferred} (hp : partOf d c = some p)
    (hd : (clusterOf d c).dwq = x :: r) (h : arrayTaken d c = true ∨ arrayReady d p c = true) : runDeferred d c = d := by
  simp only [runDeferred, hd, hp]
  exact if_pos (by simpa using h)

theorem runDeferred_idle {d : Dev} {c p : Nat} {x : Deferred} {r : List Deferred} (hp : partOf d c = some p)
    (hd : (clusterOf d c).dwq = x :: r) (ht : arrayTaken d c = false) (hr : arrayReady d p c = false) :
    runDeferred d c = settle (runEntry d p c x) c := by
  simp only [runDeferred, hd, hp, ht, hr]
  rfl

/-- The oldest entry no longer in the queue. -/
def entryTaken (d : Dev) (c : Nat) : Dev := modCluster d c (fun x => { x with dwq := x.dwq.drop 1 })

/-- What a deferred entry that runs leaves, before it counts and signals. -/
def entryRun (d : Dev) (p c : Nat) (x : Deferred) : Dev :=
  arrayIdle (modCluster (countArray (arrayWhole (mmwgEffect (entryTaken d c) false p c x.word x.a x.g x.sk) c (loadTime x.a.fmt)) c
    (mmwgRows x.word x.a x.g) (mmwgStalls x.word x.a x.g)) c (fun y => { y with lastFmt := x.a.fmt })) c

theorem arrayOnly_entryRun (d : Dev) (p c : Nat) (x : Deferred) :
    ArrayOnly c (mmwgEffect (entryTaken d c) false p c x.word x.a x.g x.sk) (entryRun d p c x) :=
  ((((arrayOnly_arrayWhole _ c _).trans (arrayOnly_countArray _ c _ _)).trans (.lastFmt c _ _)).trans (arrayOnly_arrayIdle _ c))

/-- The extents and banks of a deferred entry hold as it runs. -/
structure EntrySound (d : Dev) (p : Nat) (x : Deferred) : Prop where
  a : extentOutside d p x.a false = false
  g : extentOutside d p x.g false = false
  sk : ∀ y, x.sk = some y → sketchOutside d p y x.a = false
  banks : ∀ b ∈ mmwgBanks x.a x.g x.sk, bankOpen d b.1 b.2 = true

/-- The sketch map of a deferred entry leaves the scratchpad. -/
def entrySketchOut (d : Dev) (p : Nat) (x : Deferred) : Bool := match x.sk with | some y => sketchOutside d p y x.a | none => false

/-- The banks of a deferred entry that are not open. -/
def entryShut (d : Dev) (x : Deferred) : List (Nat × Nat) := (mmwgBanks x.a x.g x.sk).filter (fun b => !bankOpen d b.1 b.2)

/-- A deferred entry's checks, and what it does when they hold (R55, R56, R60). -/
theorem runEntry_eq (d : Dev) (p c : Nat) (x : Deferred) : runEntry d p c x =
    if extentOutside (entryTaken d c) p x.a false || extentOutside (entryTaken d c) p x.g false || entrySketchOut (entryTaken d c) p x then
      setPend (entryTaken d c) c cAddress x.pc true
    else if !(entryShut (entryTaken d c) x).isEmpty then
      setPend (forEach (entryShut (entryTaken d c) x) (entryTaken d c) (fun d b => noteNonOwner d b.1)) c cBankOwner x.pc true
    else signal (addF (entryRun d p c x) (F.mcDwqStatus_done c) 1) c x.sig := rfl

theorem runEntry_sound {d : Dev} {p : Nat} {x : Deferred} (h : EntrySound d p x) (c : Nat) :
    runEntry d p c x = signal (addF (entryRun d p c x) (F.mcDwqStatus_done c) 1) c x.sig := by
  have ha : extentOutside (entryTaken d c) p x.a false = false := (extentOutside_modCluster ..).trans h.a
  have hg : extentOutside (entryTaken d c) p x.g false = false := (extentOutside_modCluster ..).trans h.g
  have hsk : entrySketchOut (entryTaken d c) p x = false := by
    unfold entrySketchOut
    split
    · next y hy => exact (sketchOutside_modCluster ..).trans (h.sk y hy)
    · rfl
  have hshut : entryShut (entryTaken d c) x = [] := by
    rw [entryShut, List.filter_eq_nil_iff]
    intro b hb
    have ho : bankOpen (entryTaken d c) b.1 b.2 = true := h.banks b hb
    simp [ho]
  rw [runEntry_eq, ha, hg, hsk, hshut]
  rfl

theorem dwqDone_width (c : Nat) : (F.mcDwqStatus_done c).width = 32 := rfl

/-- A deferred entry that runs: its accumulations made, out of the queue, and counted. -/
structure EntryRan (d : Dev) (p c : Nat) (x : Deferred) (t : Dev) : Prop where
  acc : t.acc = (mmwgEffect d false p c x.word x.a x.g x.sk).acc
  mem : t.mem = d.mem
  done : getF t (F.mcDwqStatus_done c) = (getF d (F.mcDwqStatus_done c) + 1) % 2 ^ 32
  dwq : (clusterOf t c).dwq = (clusterOf d c).dwq.drop 1
  jobs : (clusterOf t c).jobs = (clusterOf d c).jobs
  waiting : (clusterOf t c).waiting = (clusterOf d c).waiting
  pend : (clusterOf t c).pend = (clusterOf d c).pend
  loops : (clusterOf t c).loops = (clusterOf d c).loops
  field : ∀ k : FKey, (∀ e, evField c e k = false) → k.reg ∉ arrayRegs c → k.reg ≠ .mcDwqStatus c → getF t k = getF d k

theorem entryRan_runEntry {d : Dev} {p : Nat} {x : Deferred} (h : EntrySound d p x) (c : Nat) : EntryRan d p c x (runEntry d p c x) := by
  have ha := arrayOnly_entryRun d p c x
  have hc : clusterOf (mmwgEffect (entryTaken d c) false p c x.word x.a x.g x.sk) c =
      { clusterOf d c with dwq := (clusterOf d c).dwq.drop 1 } := by
    rw [clusterOf_mmwgEffect]
    simp [entryTaken]
  have hr : clusterOf (runEntry d p c x) c = clusterOf (entryRun d p c x) c := by
    rw [runEntry_sound h, clusterOf_signal]
    rfl
  have hf (k : FKey) (hk : k.reg ∉ arrayRegs c) : getF (entryRun d p c x) k = getF d k :=
    (ha.field k hk).trans (getF_mmwgEffect ..)
  refine ⟨?_, runEntry_mem d p c x, ?_, ?_, ?_, ?_, ?_, ?_, fun k he hk hd => ?_⟩
  · rw [runEntry_sound h, (seqOnly_signal _ c _).same Dev.acc (fun _ _ _ _ => rfl)]
    exact (ha.same Dev.acc (fun _ _ _ _ => rfl)).trans (mmwgEffect_modCluster_acc ..)
  · rw [runEntry_sound h, getF_signal (by simp [evField]), addF, getF_setF_same, hf _ (by simp [arrayRegs]), dwqDone_width]
  · rw [hr, ha.dwq, hc]
  · rw [hr, ha.jobs, hc]
  · rw [hr, ha.waiting, hc]
  · rw [hr, ha.pend, hc]
  · rw [hr, ha.loops, hc]
  · rw [runEntry_sound h, getF_signal he, addF, getF_setF_of_ne _ _ (FKey.ne_of_reg hd.symm), hf k hk]

/-- Settles O14: at issue by `exec_mmwg`, from the queue by what a sound entry leaves (`EntryRan`). -/
theorem gradientProduct : Obligations.GradientProduct := by
  intro s p c w e a g sk tiles
  refine ⟨fun hi ho hf hd => ?_, fun hi ho hf hd hr => ?_, fun x r hg hp hq => ⟨fun h => ?_, fun ht hr hw hn hxa hxg hsk hb => ?_⟩⟩
  · obtain ⟨t, ht, hx⟩ := goMmwg_run_now hd
    exact ⟨t, (exec_mmwg hi ho hf).trans (by rw [ht]), hx.acc, hx.mem.trans (mmwgEffect_mem ..), hx.wins.trans (mmwgEffect_wins ..), hx.unit⟩
  · rw [exec_mmwg hi ho hf, goMmwg_run_pushed hd hr]
  · rw [exec_deferredEntryRun hg, runDeferred_held hp hq h]
  · have hx := entryRan_runEntry (d := s.dev) (p := p) (x := x) ⟨hxa, hxg, hsk, hb⟩ c
    have hs := settle_of_clear (hx.waiting.trans hw) (hx.pend.trans hn)
    refine ⟨_, (exec_deferredEntryRun hg c).trans (by rw [runDeferred_idle hp hq ht hr, hs]), hx.acc, ?_, hx.mem, hx.done⟩
    rw [hx.dwq, hq]
    rfl

end Sys2Proof.Machine
end

section
namespace Sys2Proof.Machine

/-! Entries and windows of a cluster's tiles (R44, R83) -/

theorem Tab.get?_filter_key {κ α : Type} [DecidableEq κ] (t : Tab κ α) (q : κ → Bool) (k : κ) :
    Tab.get? (t.filter (fun e => q e.1)) k = if q k = true then Tab.get? t k else none := by
  induction t with
  | nil => exact (ite_self none).symm
  | cons e r ih =>
    obtain ⟨x, v⟩ := e
    by_cases hx : x = k
    · subst hx
      by_cases hq : q x = true
      · simp [hq, Tab.get?]
      · simpa [List.filter, hq] using ih
    · by_cases hq : q x = true
      · simpa [List.filter, hq, Tab.get?, hx] using ih
      · simpa [List.filter, hq, Tab.get?, hx] using ih

theorem accAt_congr {d e : Dev} (h : e.acc = d.acc) (c t n : Nat) : accAt e c t n = accAt d c t n := by unfold accAt; rw [h]

theorem winOf_congr {d e : Dev} (h : e.wins = d.wins) (c t : Nat) : winOf e c t = winOf d c t := by unfold winOf; rw [h]

theorem accAt_setAcc (d : Dev) (c t n : Nat) (x : AccEntry) (k u m : Nat) :
    accAt (setAcc d c t n x) k u m = if (c, t, n) = (k, u, m) then x else accAt d k u m := by
  unfold accAt setAcc
  rw [Tab.get?_put]
  split <;> rfl

theorem winOf_openTiles (d : Dev) (c : Nat) (ts : List Nat) (w : Win) (t : Nat) :
    winOf (openTiles d c ts w) c t = if t ∈ ts then some w else winOf d c t := by
  induction ts generalizing d with
  | nil => rfl
  | cons x r ih =>
    have step : winOf (openTile d c x w) c t = if t = x then some w else winOf d c t := by
      unfold winOf openTile
      rw [Tab.get?_put]
      simp [eq_comm]
    have hx : openTiles d c (x :: r) w = openTiles (openTile d c x w) c r w := rfl
    rw [hx, ih, step]
    by_cases h : t ∈ r
    · simp [h]
    · simp [h]

theorem accAt_openTiles (d : Dev) (c : Nat) (ts : List Nat) (w : Win) (t n : Nat) :
    accAt (openTiles d c ts w) c t n = if t ∈ ts then ⟨0, false⟩ else accAt d c t n := by
  induction ts generalizing d with
  | nil => rfl
  | cons x r ih =>
    have step : accAt (openTile d c x w) c t n = if t = x then ⟨0, false⟩ else accAt d c t n := by
      have h := Tab.get?_filter_key d.acc (fun e => !(e.1 == c && e.2.1 == x)) (c, t, n)
      unfold accAt openTile
      dsimp only
      rw [h]
      by_cases ht : t = x <;> simp [ht]
    have hx : openTiles d c (x :: r) w = openTiles (openTile d c x w) c r w := rfl
    rw [hx, ih, step]
    by_cases h : t ∈ r
    · simp [h]
    · simp [h]

section
variable {α : Type} (c : Nat) (key : α → Nat × Nat) (h : α → AccEntry → AccEntry)

/-- One place of a group changes its own entry. -/
def setPlace (d : Dev) (x : α) : Dev := setAcc d c (key x).1 (key x).2 (h x (accAt d c (key x).1 (key x).2))

theorem accAt_forEach_setPlace_of_not {l : List α} {k t n : Nat} (hn : k ≠ c ∨ ∀ x ∈ l, (t, n) ≠ key x) (d : Dev) :
    accAt (forEach l d (setPlace c key h)) k t n = accAt d k t n := by
  induction l generalizing d with
  | nil => rfl
  | cons x r ih =>
    have hx : (c, (key x).1, (key x).2) ≠ (k, t, n) := by
      rcases hn with hk | hl
      · exact fun he => hk (congrArg Prod.fst he).symm
      · exact fun he => hl x List.mem_cons_self (congrArg Prod.snd he).symm
    refine (ih (hn.imp_right (fun hl y hy => hl y (List.mem_cons_of_mem _ hy))) (setPlace c key h d x)).trans ?_
    rw [setPlace, accAt_setAcc, if_neg hx]

/-- Where each place has an entry of its own, each is changed once, from what it was. -/
theorem accAt_forEach_setPlace {l : List α} (hl : l.Nodup) (hk : ∀ x ∈ l, ∀ y ∈ l, key x = key y → x = y)
    {x : α} (hx : x ∈ l) (d : Dev) :
    accAt (forEach l d (setPlace c key h)) c (key x).1 (key x).2 = h x (accAt d c (key x).1 (key x).2) := by
  induction l generalizing d with
  | nil => cases hx
  | cons y r ih =>
    obtain ⟨hy, hr⟩ := List.nodup_cons.1 hl
    have apart {a b : α} (ha : a ∈ y :: r) (hb : b ∈ y :: r) (hab : a ≠ b) : key a ≠ key b := fun he => hab (hk a ha b hb he)
    rcases List.mem_cons.1 hx with rfl | hxr
    · have hne : ∀ z ∈ r, ((key x).1, (key x).2) ≠ key z := fun z hz =>
        apart List.mem_cons_self (List.mem_cons_of_mem _ hz) (fun he => hy (he ▸ hz))
      refine (accAt_forEach_setPlace_of_not c key h (Or.inr hne) (setPlace c key h d x)).trans ?_
      rw [setPlace, accAt_setAcc, if_pos rfl]
    · have hne : key y ≠ key x := apart List.mem_cons_self hx (fun he => hy (he ▸ hxr))
      refine (ih hr (fun a ha b hb => hk a (List.mem_cons_of_mem _ ha) b (List.mem_cons_of_mem _ hb)) hxr (setPlace c key h d y)).trans ?_
      rw [setPlace, accAt_setAcc, if_neg (fun he => hne (congrArg Prod.snd he))]

end

theorem nodup_places (rows cols : Nat) : (places rows cols).Nodup :=
  List.Nodup.product (List.nodup_range (n := rows)) (List.nodup_range (n := cols))

theorem mem_places {rows cols : Nat} {x : Nat × Nat} : x ∈ places rows cols ↔ x.1 < rows ∧ x.2 < cols :=
  (List.mem_product (l₁ := List.range rows) (l₂ := List.range cols)).trans (by simp)

theorem div_lt_cdiv {j n : Nat} (h : j < n) : j / 64 < cdiv n 64 := by unfold cdiv; omega

/-- Two places of a group have one entry only if they are one (R44). -/
theorem groupEntry_inj {first cols : Nat} {x y : Nat × Nat} (hx : x.2 < cols) (hy : y.2 < cols)
    (h : groupEntry first cols x.1 x.2 = groupEntry first cols y.1 y.2) : x = y := by
  obtain ⟨i, j⟩ := x
  obtain ⟨k, l⟩ := y
  have hj := div_lt_cdiv hx
  have hl := div_lt_cdiv hy
  simp only [groupEntry, Prod.mk.injEq] at h hj hl ⊢
  obtain ⟨ht, hp⟩ := h
  generalize cdiv cols 64 = m at *
  have hdiv : i / 64 = k / 64 := by
    have h1 : (j / 64 + i / 64 * m) / m = i / 64 := by rw [Nat.add_mul_div_right _ _ (by omega), Nat.div_eq_of_lt hj, Nat.zero_add]
    have h2 : (l / 64 + k / 64 * m) / m = k / 64 := by rw [Nat.add_mul_div_right _ _ (by omega), Nat.div_eq_of_lt hl, Nat.zero_add]
    rw [← h1, ← h2, show j / 64 + i / 64 * m = l / 64 + k / 64 * m by omega]
  rw [hdiv] at ht
  omega

theorem groupEntry_places_inj (first rows cols : Nat) : ∀ x ∈ places rows cols, ∀ y ∈ places rows cols,
    groupEntry first cols x.1 x.2 = groupEntry first cols y.1 y.2 → x = y :=
  fun _ hx _ hy h => groupEntry_inj (mem_places.1 hx).2 (mem_places.1 hy).2 h

/-- The tile of an entry of a group is a tile of the group. -/
theorem groupEntry_mem_groupTiles {first rows cols i j : Nat} (hi : i < rows) (hj : j < cols) :
    (groupEntry first cols i j).1 ∈ groupTiles first rows cols := by
  have hi' := div_lt_cdiv hi
  have hj' := div_lt_cdiv hj
  simp only [groupEntry, groupTiles, List.mem_map, List.mem_range]
  refine ⟨i / 64 * cdiv cols 64 + j / 64, ?_, by omega⟩
  calc i / 64 * cdiv cols 64 + j / 64 < i / 64 * cdiv cols 64 + cdiv cols 64 := by omega
    _ = (i / 64 + 1) * cdiv cols 64 := (Nat.succ_mul _ _).symm
    _ ≤ cdiv rows 64 * cdiv cols 64 := Nat.mul_le_mul_right _ hi'

/-! MMA, GRAM, AZERO, AFILL -/

theorem bankError_acc (d : Dev) (c b w : Nat) (x : Found) : (bankError d c b w x).acc = d.acc := by
  cases x <;> simp [bankError, satF, noteError, moduleFault, report, loseWord, freeBytes]

theorem bankError_wins (d : Dev) (c b w : Nat) (x : Found) : (bankError d c b w x).wins = d.wins := by
  cases x <;> simp [bankError, satF, noteError, moduleFault, report, loseWord, freeBytes]

theorem wordErrors_acc (d : Dev) (l : List WordFound) : (wordErrors d l).acc = d.acc :=
  forEach_same Dev.acc (g := fun d (x : WordFound) => bankError d x.c x.bank x.word x.found) (fun _ _ => bankError_acc ..) l d

theorem wordErrors_wins (d : Dev) (l : List WordFound) : (wordErrors d l).wins = d.wins :=
  forEach_same Dev.wins (g := fun d (x : WordFound) => bankError d x.c x.bank x.word x.found) (fun _ _ => bankError_wins ..) l d

theorem resolveScale_rows (d : Dev) (c : Nat) (t : Desc) : (resolveScale d c t).rows = t.rows := by unfold resolveScale; split <;> rfl
theorem resolveScale_cols (d : Dev) (c : Nat) (t : Desc) : (resolveScale d c t).cols = t.cols := by unfold resolveScale; split <;> rfl

theorem opShape_resolveScale (d : Dev) (c : Nat) (t : Desc) (tr : Bool) : opShape t tr =
    (if tr then (resolveScale d c t).cols else (resolveScale d c t).rows, if tr then (resolveScale d c t).rows else (resolveScale d c t).cols) := by
  rw [resolveScale_rows, resolveScale_cols]
  cases tr <;> rfl

theorem getF_accumGroup (d : Dev) (ref : Bool) (c first rows cols : Nat) (terms : Nat → Nat → List (Val × Val)) (k : FKey) :
    getF (accumGroup d ref c first rows cols terms) k = getF d k := by
  rw [accumGroup_eq]
  rfl

/-- AFILL's entries over the tiles just opened. -/
def filled (d : Dev) (p c w : Nat) (ts : Desc) : Dev :=
  forEach (places ts.rows ts.cols) (openTiles d c (groupTiles (wAcc w) ts.rows ts.cols) (newWin d c w))
    (setPlace c (fun x => groupEntry (wAcc w) ts.cols x.1 x.2)
      (fun x _ => fillEntry (isRef d p) (newWin d c w) (wCvt w) (tileCode d p ts x.1 x.2) (tileVal d p ts x.1 x.2)))

theorem forEach_setPlace_wins {α : Type} (c : Nat) (key : α → Nat × Nat) (h : α → AccEntry → AccEntry) (l : List α) (d : Dev) :
    (forEach l d (setPlace c key h)).wins = d.wins := forEach_same Dev.wins (g := setPlace c key h) (fun _ _ => rfl) l d

theorem forEach_setPlace_mem {α : Type} (c : Nat) (key : α → Nat × Nat) (h : α → AccEntry → AccEntry) (l : List α) (d : Dev) :
    (forEach l d (setPlace c key h)).mem = d.mem := forEach_same Dev.mem (g := setPlace c key h) (fun _ _ => rfl) l d

/-- What the reads of MMA's operands find does not decide whether it may issue. -/
theorem free_goMmaOn (errors : List WordFound) (p c w : Nat) (d : Dev) : (goMmaOn errors p c w d).free = (goMma p c w d).free := by
  simp only [Plan.free, goMma, goMmaOn]

theorem goMma_run (errors : List WordFound) (p c w : Nat) (d : Dev) :
    let ta := descOf d c (wTa w)
    let tb := descOf d c (wTb w)
    let r := wordErrors d (errors.filter (fun x => (operandBanks ta ++ operandBanks tb).contains (x.c.val, x.bank.val)))
    let a := resolveScale d c ta
    let b := resolveScale d c tb
    let m := if bitOf w 41 then a.cols else a.rows
    let k := if bitOf w 41 then a.rows else a.cols
    let n := if bitOf w 42 then b.rows else b.cols
    ∃ t, (goMmaOn errors p c w d).run () = .queued t ∧ OnArray c (accumGroup r (isRef d p) c (wAcc w) m n (fun i j => (List.range k).map (fun x =>
        (if bitOf w 41 then tVal r (isRef d p) p a x i else tVal r (isRef d p) p a i x,
         if bitOf w 42 then tVal r (isRef d p) p b j x else tVal r (isRef d p) p b x j)))) t := by
  simp only [goMmaOn, opShape_resolveScale d c]
  exact ⟨_, rfl, onArray_intoArray ..⟩

theorem goGram_run (p c w : Nat) (d : Dev) :
    let a := resolveScale d c (descOf d c (wTa w))
    ∃ t, (goGram p c w d).run () = .queued t ∧ OnArray c (accumGroup d (isRef d p) c (wAcc w) a.cols a.cols (fun i j =>
      (List.range a.rows).map (fun x => (tVal d (isRef d p) p a x i, tVal d (isRef d p) p a x j)))) t := by
  simp only [goGram, resolveScale_cols]
  exact ⟨_, rfl, onArray_intoArray ..⟩

/-- Settles O13: MMA and GRAM by what they queue (`OnArray`) over `accumGroup`, AZERO and AFILL entry by entry. -/
theorem productsAndOpenTiles : Obligations.ProductsAndOpenTiles := by
  refine ⟨fun s p c w errors hi => ?_, fun s p c w hi => ?_⟩
  · intro e a b m k n seen r left right
    refine ⟨fun ho hf => ?_, fun ho hf => ?_⟩
    · obtain ⟨t, ht, hx⟩ := goMma_run errors p c w e
      have hex := exec_of_free (i := .mma c errors) (go := goMmaOn errors) rfl hi ho rfl ((free_goMmaOn ..).trans hf)
      refine ⟨t, hex.trans (by rw [ht]), hx.acc.trans ?_, hx.mem.trans (accumGroup_mem ..), hx.wins.trans ?_, hx.unit,
        fun q b' => ?_, fun hs => ?_⟩
      · exact accumGroup_acc_congr (wordErrors_acc e seen) (wordErrors_wins e seen) _ _ _ _ _ _
      · exact (accumGroup_wins ..).trans (wordErrors_wins e seen)
      · exact (hx.field _ rfl (by simp [arrayRegs])).trans (getF_accumGroup ..)
      · simp only [r, hs]
        rfl
    · obtain ⟨t, ht, hx⟩ := goGram_run p c w e
      have hex := exec_of_free (i := .gram c) (go := goGram) rfl hi ho rfl hf
      exact ⟨t, hex.trans (by rw [ht]), hx.acc, hx.mem.trans (accumGroup_mem ..), hx.wins.trans (accumGroup_wins ..), hx.unit⟩
  · intro e ts
    refine ⟨fun ho hf => ?_, fun ho hf => ?_⟩
    · have hex := exec_of_free (i := .azero c) (go := goAzero) rfl hi ho rfl hf
      have hx := onArray_intoAcc (openTiles e c ((List.range (wCnt w)).map (fun i => wAcc w + i)) (newWin e c w))
      refine ⟨_, hex, fun i hi => ?_, fun k hk => ?_, (hx ..).mem.trans (openTiles_mem ..)⟩
      · have hm : wAcc w + i ∈ (List.range (wCnt w)).map (fun i => wAcc w + i) := List.mem_map.2 ⟨i, List.mem_range.2 hi, rfl⟩
        exact ⟨(winOf_congr (hx ..).wins _ _).trans ((winOf_openTiles ..).trans (if_pos hm)),
          fun n => (accAt_congr (hx ..).acc _ _ _).trans ((accAt_openTiles ..).trans (if_pos hm))⟩
      · have hm : k ∉ (List.range (wCnt w)).map (fun i => wAcc w + i) := by
          simp only [List.mem_map, List.mem_range, not_exists, not_and]
          omega
        exact ⟨(winOf_congr (hx ..).wins _ _).trans ((winOf_openTiles ..).trans (if_neg hm)),
          fun n => (accAt_congr (hx ..).acc _ _ _).trans ((accAt_openTiles ..).trans (if_neg hm))⟩
    · have hex := exec_of_free (i := .afill c) (go := goAfill) rfl hi ho rfl hf
      have hx := onArray_intoAcc (filled e p c w ts)
      have hwin (k : Nat) : winOf (filled e p c w ts) c k = _ := (winOf_congr (forEach_setPlace_wins ..) c k).trans (winOf_openTiles ..)
      have hother {k n : Nat} (hn : ∀ i j, i < ts.rows → j < ts.cols → (k, n) ≠ groupEntry (wAcc w) ts.cols i j) :
          accAt (filled e p c w ts) c k n = _ :=
        (accAt_forEach_setPlace_of_not c _ _ (Or.inr (fun x hx => hn x.1 x.2 (mem_places.1 hx).1 (mem_places.1 hx).2)) _).trans
          (accAt_openTiles ..)
      refine ⟨_, hex, fun i hi j hj => ?_, fun k hk => ⟨?_, fun n hn => ?_⟩, fun k hk => ⟨?_, fun n => ?_⟩,
        (hx ..).mem.trans ((forEach_setPlace_mem ..).trans (openTiles_mem ..))⟩
      · exact (accAt_congr (hx ..).acc _ _ _).trans (accAt_forEach_setPlace c _ _ (nodup_places ..) (groupEntry_places_inj (wAcc w) ts.rows ts.cols)
          (x := (i, j)) (mem_places.2 ⟨hi, hj⟩) _)
      · exact (winOf_congr (hx ..).wins _ _).trans ((hwin k).trans (if_pos hk))
      · exact (accAt_congr (hx ..).acc _ _ _).trans ((hother hn).trans (if_pos hk))
      · exact (winOf_congr (hx ..).wins _ _).trans ((hwin k).trans (if_neg hk))
      · refine (accAt_congr (hx ..).acc _ _ _).trans ((hother (fun i j hi hj he => hk ?_)).trans (if_neg hk))
        rw [show k = _ from congrArg Prod.fst he]
        exact groupEntry_mem_groupTiles hi hj

end Sys2Proof.Machine
end

section
namespace Sys2Proof.Machine

/-! Rounding to nearest, ties to even (R84) -/

/-- q is an integer nearest to x / n, an even one where two are. -/
def NearestEven (x n q : Int) : Prop := 2 * |q * n - x| ≤ n ∧ (2 * |q * n - x| = n → q % 2 = 0)

theorem NearestEven.unique {x n p q : Int} (hn : 0 < n) (hp : NearestEven x n p) (hq : NearestEven x n q) : p = q := by
  obtain ⟨hp, hpe⟩ := hp
  obtain ⟨hq, hqe⟩ := hq
  have hdiff : |(p - q) * n| ≤ |p * n - x| + |q * n - x| := by
    rw [show (p - q) * n = (p * n - x) - (q * n - x) by ring]
    exact abs_sub _ _
  rw [abs_mul, abs_of_pos hn] at hdiff
  have hle : |p - q| ≤ 1 := by
    by_contra h
    have : 2 * n ≤ |p - q| * n := mul_le_mul_of_nonneg_right (by omega) hn.le
    omega
  rcases (abs_le.1 hle) with ⟨hlo, hhi⟩
  by_contra hne
  have h1 : |p - q| = 1 := by
    have := abs_pos.2 (sub_ne_zero.2 hne)
    omega
  rw [h1, one_mul] at hdiff
  have := hpe (by omega)
  have := hqe (by omega)
  omega

theorem NearestEven.neg {x n q : Int} (h : NearestEven x n q) : NearestEven (-x) n (-q) := by
  have ha : |(-q) * n - -x| = |q * n - x| := by rw [show (-q) * n - -x = -(q * n - x) by ring, abs_neg]
  unfold NearestEven
  rw [ha]
  exact ⟨h.1, fun he => by have := h.2 he; omega⟩

theorem nearestEven_shiftHalfEven (m : Nat) {k : Int} (hk : k < 0) : NearestEven m (2 ^ (-k).toNat) (shiftHalfEven m k) := by
  unfold shiftHalfEven
  rw [if_neg (by omega)]
  dsimp only
  have hd : (pow2 (-k) : Int) = 2 ^ (-k).toNat := by simp [pow2]
  rw [← hd]
  have hpos : 0 < pow2 (-k) := Nat.two_pow_pos _
  generalize pow2 (-k) = n at *
  have hm : (m : Int) = n * (m / n : Nat) + (m % n : Nat) := by exact_mod_cast (Nat.div_add_mod m n).symm
  have hr : m % n < n := Nat.mod_lt m hpos
  generalize m % n = r at *
  generalize m / n = y at *
  have down : (y : Int) * n - m = -(r : Int) := by rw [hm]; ring
  have up : ((y + 1 : Nat) : Int) * n - m = n - (r : Int) := by rw [hm]; push_cast; ring
  split
  · next h =>
    rw [NearestEven, up, abs_of_nonneg (by omega)]
    omega
  · next h =>
    rw [NearestEven, down, abs_neg, abs_of_nonneg (by omega)]
    omega

theorem nearestEven_intShiftHalfEven (x : Int) {k : Int} (hk : k < 0) : NearestEven x (2 ^ (-k).toNat) (intShiftHalfEven x k) := by
  have h := nearestEven_shiftHalfEven x.natAbs hk
  unfold intShiftHalfEven
  split
  · next hx =>
    have hn := h.neg
    rwa [show -((x.natAbs : Nat) : Int) = x by omega] at hn
  · next hx => rwa [show ((x.natAbs : Nat) : Int) = x by omega] at h

/-- A shift up is exact. -/
theorem intShiftHalfEven_of_nonneg (x : Int) {k : Int} (hk : 0 ≤ k) : intShiftHalfEven x k = x * 2 ^ k.toNat := by
  unfold intShiftHalfEven shiftHalfEven
  rw [if_pos hk]
  have hp : (pow2 k : Int) = 2 ^ k.toNat := by simp [pow2]
  split
  · next hx =>
    push_cast
    rw [hp, abs_of_neg hx]
    ring
  · next hx =>
    push_cast
    rw [hp, abs_of_nonneg (by omega)]

/-! Window words (R82 to R85) -/

theorem sgn_xor (s t : Bool) (n : Nat) : sgn (xor s t) n = if s = t then (n : Int) else -(n : Int) := by cases s <;> cases t <;> rfl

theorem contrib_of_nonfinite {u v : Val} (h : u.isFin = false ∨ v.isFin = false) (a : Int) (wfmt : Nat) : contrib u v a wfmt = (0, true) := by
  unfold contrib
  split
  · simp [Val.isFin] at h
  · rfl

/-- A contribution is the rounded product where that is in the window's range. -/
theorem contrib_fin {s t : Bool} {m n : Nat} {e k : Int} (a : Int) (wfmt : Nat) {q : Int}
    (hq : intShiftHalfEven (if s = t then (m * n : Nat) else -((m * n : Nat) : Int)) (e + k - (a - winS wfmt)) = q) :
    contrib (.fin s m e) (.fin t n k) a wfmt = if |q| ≤ winLim wfmt then (q, false) else (0, true) := by
  simp only [contrib, sgn_xor, hq]
  by_cases h : |q| ≤ winLim wfmt
  · obtain ⟨h1, h2⟩ := abs_le.1 h
    rw [if_pos h, if_neg (by omega)]
  · rw [if_neg h, if_pos]
    by_contra hn
    exact h (abs_le.2 (by omega))

/-- Contributions add modulo 2^72. -/
theorem toInt_accEnter (x : AccEntry) (q : Int) (mark : Bool) : ((accEnter x (q, mark)).v.toInt - (x.v.toInt + q)) % 2 ^ 72 = 0 := by
  have h : (accEnter x (q, mark)).v.toInt = (x.v.toInt + q.bmod (2 ^ 72)).bmod (2 ^ 72) := by
    simp only [accEnter, BitVec.toInt_add, BitVec.toInt_ofInt]
  rw [h]
  refine Int.emod_eq_emod_iff_emod_sub_eq_zero.1 ?_
  have hm : ((2 ^ 72 : Nat) : Int) = 2 ^ 72 := by norm_num
  rw [← hm, Int.bmod_emod, Int.add_emod, Int.bmod_emod, ← Int.add_emod]

theorem drainWord_of_out {wfmt : Nat} {x : AccEntry} (h : inWindow wfmt x = false) : drainWord false wfmt x = (winMarker wfmt, true) := by
  simp [drainWord, h]

theorem drainWord_of_in {wfmt : Nat} {x : AccEntry} (h : inWindow wfmt x = true) :
    drainWord false wfmt x = (unsigned (winBits wfmt) x.v.toInt, false) ∧ x.m = false ∧ x.v.toInt.natAbs < 2 ^ (winBits wfmt - 1) := by
  have hd : drainWord false wfmt x = (unsigned (winBits wfmt) x.v.toInt, false) := by simp [drainWord, h]
  simp only [inWindow, Bool.and_eq_true, Bool.not_eq_true', decide_eq_true_eq] at h
  obtain ⟨⟨hm, hlo⟩, hhi⟩ := h
  refine ⟨hd, hm, ?_⟩
  unfold winLim at hlo hhi
  unfold winBits
  split at hlo <;> simp_all <;> omega

/-! Groups (R44, R85, R129) -/

theorem accumGroup_eq_forEach (d : Dev) (ref : Bool) (c first rows cols : Nat) (terms : Nat → Nat → List (Val × Val)) :
    accumGroup d ref c first rows cols terms = forEach (places rows cols) d (setPlace c (fun x => groupEntry first cols x.1 x.2)
      (fun x y => addTerms ref (groupWin d c first) y (terms x.1 x.2))) := rfl

theorem accAt_accumGroup (d : Dev) (ref : Bool) (c first : Nat) {rows cols i j : Nat} (terms : Nat → Nat → List (Val × Val))
    (hi : i < rows) (hj : j < cols) :
    accAt (accumGroup d ref c first rows cols terms) c (groupEntry first cols i j).1 (groupEntry first cols i j).2 =
      addTerms ref (groupWin d c first) (accAt d c (groupEntry first cols i j).1 (groupEntry first cols i j).2) (terms i j) := by
  rw [accumGroup_eq_forEach]
  exact accAt_forEach_setPlace c _ _ (nodup_places rows cols) (groupEntry_places_inj first rows cols) (x := (i, j))
    (mem_places.2 ⟨hi, hj⟩) d

theorem accAt_accumGroup_of_not (d : Dev) (ref : Bool) {c first rows cols k t n : Nat} (terms : Nat → Nat → List (Val × Val))
    (h : k ≠ c ∨ ∀ i j, i < rows → j < cols → (t, n) ≠ groupEntry first cols i j) :
    accAt (accumGroup d ref c first rows cols terms) k t n = accAt d k t n := by
  rw [accumGroup_eq_forEach]
  exact accAt_forEach_setPlace_of_not c _ _ (h.imp_right (fun hn x hx => hn x.1 x.2 (mem_places.1 hx).1 (mem_places.1 hx).2)) d

/-- Settles O15: the groups entry by entry, a term by the uniqueness of the nearest even integer. -/
theorem productTerms : Obligations.ProductTerms := by
  refine ⟨fun d ref p c w a g => ?_, fun d ref c first rows cols terms => ?_, fun win x u v r => ⟨rfl, rfl, rfl, rfl⟩,
    fun x wfmt a u v hw => ?_⟩
  · intro terms first
    refine ⟨fun sk h => ?_, fun h => ?_, fun sk h => ?_⟩
    · simp only [mmwgEffect, h]
      rfl
    · simp only [mmwgEffect, h, if_true]
      rfl
    · simp only [mmwgEffect, h, if_true]
      rfl
  · exact ⟨fun i j hi hj => accAt_accumGroup d ref c first terms hi hj, fun k t n h => accAt_accumGroup_of_not d ref terms h,
      by rw [accumGroup_eq]⟩
  · refine ⟨drainWord_of_out, drainWord_of_in, fun h => contrib_of_nonfinite h a wfmt, fun s t m n e k q hu hv => ?_,
      fun q mark => ⟨toInt_accEnter x q mark, rfl⟩⟩
    intro product shift lim nearest hq
    have hround : intShiftHalfEven product shift = q := by
      by_cases hs : 0 ≤ shift
      · rw [intShiftHalfEven_of_nonneg _ hs]
        exact ((if_pos hs).mp hq).symm
      · exact (nearestEven_intShiftHalfEven product (by omega)).unique (by positivity) ((if_neg hs).mp hq)
    have hlim : winLim wfmt = lim := by simp only [winLim, lim]; split <;> rfl
    have hc := contrib_fin (s := s) (t := t) (m := m) (n := n) (e := e) (k := k) a wfmt hround
    rw [hu, hv, hc, hlim]
    exact ⟨fun h => if_pos h, fun h => if_neg (by omega)⟩

end Sys2Proof.Machine
end

section
namespace Sys2Proof.Machine

/-! The vector units' registers (Tables 7.6, 7.7) -/

/-- The registers of a vector unit of cluster c. -/
def IsVecReg (c : Nat) (r : Reg) : Prop := ∃ u, r = .vecUnit c u ∨ r = .vecBusy c u ∨ r = .vecStall c u

theorem getF_unitsBusy {c : Nat} {k : FKey} (hk : ¬ IsVecReg c k.reg) (d : Dev) (m : Nat) : getF (unitsBusy d c m) k = getF d k := by
  refine forEach_same (fun d => getF d k) (fun d u => ?_) _ d
  have state (v : Nat) : getF (setF d (F.vecUnit_state c u) v) k = getF d k :=
    getF_setF_of_ne d v (FKey.ne_of_reg (fun h => hk ⟨u, Or.inl h.symm⟩))
  split
  · exact state 3
  · split
    · exact state 2
    · rfl

theorem getF_countUnit {c : Nat} {k : FKey} (hk : ¬ IsVecReg c k.reg) (d : Dev) (u n : Nat) : getF (countUnit d c u n) k = getF d k := by
  unfold countUnit addF
  dsimp only
  rw [getF_setF_of_ne _ _ (FKey.ne_of_reg (fun h => hk ⟨u, Or.inr (Or.inr h.symm)⟩)),
    getF_setF_of_ne _ _ (FKey.ne_of_reg (fun h => hk ⟨u, Or.inr (Or.inl h.symm)⟩))]
  rfl

theorem unitsBusy_acc (d : Dev) (c m : Nat) : (unitsBusy d c m).acc = d.acc := by
  refine forEach_same Dev.acc (fun d u => ?_) _ d
  split
  · rfl
  · split <;> rfl

/-! AMAX (R88) -/

/-- The slot as AMAX leaves it. -/
def amaxSlot (d : Dev) (p c w : Nat) : Dev :=
  let t := resolveScale d c (descOf d c (wTb w))
  let n := wAslot w
  let m := maxExpo ((places t.rows t.cols).map (fun x => tileVal d p t x.1 x.2))
  setAnchor d c n (if wCvt w ≠ 1 then max (signed 12 (getF d (F.mcAnchor_ea c n))) m else signed 12 (getF d (F.mcAnchor_ea c n)))
    (if wCvt w ≠ 0 then max (signed 12 (getF d (F.mcAnchor_eb c n))) m else signed 12 (getF d (F.mcAnchor_eb c n)))
    (getF d (F.mcAnchor_logk c n)) (decide (wCvt w ≠ 1) || flag d (F.mcAnchor_ea_set c n))
    (decide (wCvt w ≠ 0) || flag d (F.mcAnchor_eb_set c n)) false

theorem goAmaxFold_run (p c w : Nat) (d : Dev) : ∃ n j, (goAmaxFold p c w d).run () =
    .queued (addJob (countUnit (unitsBusy (amaxSlot d p c w) c 1) c 0 n) c j) := by
  simp only [goAmaxFold, amaxSlot, decide_eq_true_eq]
  exact ⟨_, _, rfl⟩

theorem exec_barSlice {s : State} {p : Nat} {c : ClusterId} {w : Nat} (hi : issuing s p c w = true) (ho : wOp w = 0x0B) (hs : wSub w = 2) :
    exec (.barSlice c) s = .next (flushAudit { s with dev := finishRun c w ((goBarSlice p c w (takeWen s.dev c w)).run ()) }) := by
  have h := tileStep_of_free (sel := fun w => wSub w == 2) (go := goBarSlice) hi ho (by simp [hs]) rfl
  exact (congrArg Host.Outcome.next (onMal_of_good (issuing_good hi))).trans (by rw [h])

theorem goBarSlice_run (p c w : Nat) (d : Dev) : (goBarSlice p c w d).run () =
    if bitOf w 44 then .hold (arriveCheck d p c (bits w 43 40)) (.channel (bits w 43 40) (some (wGd w)))
    else .hold (arriveChan d p (bits w 43 40) ⟨0, 0⟩ (fun x => { x with joined := x.joined ++ [c] })) (.channel (bits w 43 40) none) := rfl

/-- Settles O17: AMAX by the slot it leaves (`AnchorSet`) and the units' own registers, the channels by their arrivals. -/
theorem anchorsAndChannels : Obligations.AnchorsAndChannels := by
  refine ⟨fun s p c w hi ho hc => ?_, fun s p c w hi => ?_⟩
  · intro e ts n m ea eb hf
    obtain ⟨cycles, j, hr⟩ := goAmaxFold_run p c w e
    have hx := exec_of_free (i := .amax c) (go := goAmaxFold) (sel := fun w => wCvt w != 2) rfl hi ho (by simp [hc]) hf
    have ha : AnchorSet e (amaxSlot e p c w) c n _ _ _ _ _ _ := anchorSet_setAnchor ..
    have field {k : FKey} (hk : ¬ IsVecReg c k.reg) :
        getF (addJob (countUnit (unitsBusy (amaxSlot e p c w) c 1) c 0 cycles) c j) k = getF (amaxSlot e p c w) k :=
      (getF_countUnit hk _ _ _).trans (getF_unitsBusy hk _ _)
    have anchor (lo : Nat) : ¬ IsVecReg c (⟨.mcAnchor c n, lo⟩ : FKey).reg := by simp [IsVecReg]
    refine ⟨_, hx.trans (by rw [hr]), ?_, ?_, fun h => ?_, fun h => ?_, ?_, ?_, ?_, fun k hk hv => ?_⟩
    · rw [field (anchor _), ha.ea]
      by_cases h : wCvt w = 1 <;> simp [h, ea, m, n, ts]
    · rw [field (anchor _), ha.eb]
      by_cases h : wCvt w = 0 <;> simp [h, eb, m, n, ts]
    · rw [field (anchor _), ha.eaSet]
      simp [h, b2n]
    · rw [field (anchor _), ha.ebSet]
      simp [h, b2n]
    · rw [field (anchor _), ha.reduced]
      rfl
    · simp [amaxSlot]
    · exact (unitsBusy_acc _ c 1).trans (by rw [ha.rest])
    · refine (field ?_).trans (ha.other k hk)
      rintro ⟨u, h | h | h⟩
      · exact (hv u).1 h
      · exact (hv u).2.1 h
      · exact (hv u).2.2 h
  · refine ⟨fun ho hs hb => ?_, fun ho hs hb => ?_, fun ho hc hf => ?_⟩
    · rw [exec_barSlice hi ho hs, goBarSlice_run, if_neg (by rw [hb]; exact Bool.false_ne_true)]
    · rw [exec_barSlice hi ho hs, goBarSlice_run, if_pos hb]
    · exact exec_of_free (i := .amaxSlice c) (go := goAmaxSlice) (sel := fun w => wCvt w == 2) rfl hi ho (by simp [hc]) hf

end Sys2Proof.Machine
end

section
namespace Sys2Proof.Machine

/-! What an access to memory changes beside it (R30, R217, R237, R240, R355) -/

/-- The registers in which accesses are noted: prot_hit, owner faults, denials, and the local flags of lost data. -/
def IsAccessReg (r : Reg) : Prop :=
  ∃ n, r = .fabNflag n ∨ r = .mcSeqStatus n ∨ r = .mcSeqIrq n ∨ r = .secDeny n ∨ r = .bankStatus n

/-- e is d but for memory, its pages and staging slots, and what an access notes and wakes. -/
structure Accessed (d e : Dev) : Prop where
  rest : e = { d with f := e.f, mem := e.mem, pages := e.pages, moves := e.moves, blocked := e.blocked, stamps := e.stamps,
                      stg := e.stg, stgHeld := e.stgHeld, gated := e.gated, waking := e.waking, wakeQueue := e.wakeQueue, msis := e.msis }
  field : ∀ k : FKey, ¬ IsAccessReg k.reg → getF e k = getF d k

namespace Accessed
variable {d e g : Dev}

theorem refl (d : Dev) : Accessed d d := ⟨rfl, fun _ _ => rfl⟩

theorem trans (h : Accessed d e) (h' : Accessed e g) : Accessed d g :=
  ⟨h'.rest.trans (by rw [h.rest]), fun k hk => (h'.field k hk).trans (h.field k hk)⟩

theorem setF {k : FKey} (hk : IsAccessReg k.reg) (d : Dev) (v : Nat) : Accessed d (setF d k v) :=
  ⟨rfl, fun _ hj => getF_setF_of_ne d v (fun e => hj (e ▸ hk))⟩

theorem raise {irq : FKey} (hk : IsAccessReg irq.reg) (d : Dev) (p : Option Nat) (en : FKey) : Accessed d (raise d p irq en) := by
  refine ⟨?_, fun j hj => (getF_raise d p irq en j).trans ((setF hk d 1).field j hj)⟩
  unfold Machine.raise
  split
  · dsimp only
    split <;> rfl
  · rfl

theorem forEach {α : Type} {step : Dev → α → Dev} (hs : ∀ d a, Accessed d (step d a)) (l : List α) (d : Dev) :
    Accessed d (forEach l d step) :=
  forEach_keeps (P := fun e => Accessed d e) (fun e a h => h.trans (hs e a)) l d (refl d)

/-- A part of the state that accesses do not change. -/
theorem same {α : Type} (h : Accessed d e) (v : Dev → α) (hv : ∀ f m pg mv bl st sg sh ga wa wq ms,
    v { d with f := f, mem := m, pages := pg, moves := mv, blocked := bl, stamps := st, stg := sg, stgHeld := sh, gated := ga,
               waking := wa, wakeQueue := wq, msis := ms } = v d) : v e = v d := by
  rw [h.rest]
  exact hv ..

theorem acc (h : Accessed d e) : e.acc = d.acc := h.same Dev.acc (fun _ _ _ _ _ _ _ _ _ _ _ _ => rfl)
theorem cl (h : Accessed d e) : e.cl = d.cl := h.same Dev.cl (fun _ _ _ _ _ _ _ _ _ _ _ _ => rfl)
theorem colls (h : Accessed d e) : e.colls = d.colls := h.same Dev.colls (fun _ _ _ _ _ _ _ _ _ _ _ _ => rfl)
theorem part (h : Accessed d e) (n : Nat) : partOf e n = partOf d n := partOf_congr (fun _ => h.field _ (by simp [IsAccessReg])) n

end Accessed

theorem accessed_reachUnit (d : Dev) (x : GatedUnit) : Accessed d (reachUnit d x) := by
  unfold reachUnit requestWake
  dsimp only
  repeat' split
  all_goals exact ⟨rfl, fun _ _ => rfl⟩

theorem accessed_reachRange (d : Dev) (p a n : Nat) : Accessed d (reachRange d p a n) := .forEach accessed_reachUnit _ d

theorem accessed_setDataFault (d : Dev) (p : Nat) : Accessed d (setDataFault d p) :=
  (Accessed.setF ⟨p, Or.inl rfl⟩ d 1).trans (.setF ⟨p, Or.inl rfl⟩ _ 1)

theorem accessed_noteRead (d : Dev) (p a n : Nat) : Accessed d (noteRead d p a n) := by
  refine (accessed_reachRange d p a n).trans (.forEach (fun d wv => ?_) _ _)
  split
  · have page (x : Page) : Accessed d (setPage (cancelEviction d (p, wv.1, wv.2)) p wv.1 wv.2 x) := ⟨rfl, fun _ _ => rfl⟩
    split
    · exact (page _).trans (accessed_setDataFault _ p)
    · exact page _
  · exact .refl d

theorem accessed_noteWrite (d : Dev) (p a n : Nat) : Accessed d (noteWrite d p a n) := by
  refine (accessed_reachRange d p a n).trans (.forEach (fun d wv => ?_) _ _)
  split
  · split
    · exact .refl d
    · exact ⟨rfl, fun _ _ => rfl⟩
  · exact .refl d

theorem accessed_deniedWrite (d : Dev) (p c : Nat) : Accessed d (deniedWrite d p c) :=
  ((Accessed.setF ⟨c, by simp⟩ d 1).trans (.raise ⟨c, by simp⟩ _ _ _)).trans (.setF ⟨p, by simp⟩ _ _)

theorem accessed_denyFirst (d : Dev) (p : Nat) (l : List (Nat × Nat)) : Accessed d (denyFirst d p l) := by
  unfold denyFirst engineDeny
  split
  · split
    · next x _ _ => exact ((Accessed.setF ⟨x.1, by simp⟩ d 1).trans (.setF ⟨x.1, by simp⟩ _ _)).trans (.setF ⟨p, by simp⟩ _ _)
    · exact .refl d
  · exact .refl d

theorem accessed_stagePut (d : Dev) (u i off : Nat) (b : Byte) : Accessed d (stagePut d u i off b) := by
  unfold stagePut
  dsimp only
  split <;> exact ⟨rfl, fun _ _ => rfl⟩

theorem accessed_viewPut (d : Dev) (p a : Nat) (b : Byte) : Accessed d (viewPut d p a b) := by
  unfold viewPut
  split
  · exact .refl d
  · split
    · exact accessed_stagePut ..
    · split
      · exact ⟨rfl, fun _ _ => rfl⟩
      · exact .refl d

theorem accessed_agentPut (d : Dev) (p a : Nat) (b : Byte) : Accessed d (agentPut d p a b) := by
  unfold agentPut
  split
  · split
    · exact .refl d
    · exact accessed_viewPut ..
  · split
    · exact .refl d
    · exact ⟨rfl, fun _ _ => rfl⟩
  · split
    · exact .refl d
    · exact ⟨rfl, fun _ _ => rfl⟩
  · exact accessed_viewPut ..

theorem accessed_putLine (d : Dev) (p : Nat) (t : Desc) (n y : Nat) (l : List Byte) : Accessed d (putLine d p t n y l) := by
  induction l generalizing d y with
  | nil => exact .refl d
  | cons b r ih => exact (accessed_agentPut d p _ b).trans (ih _ (y + 1))

theorem accessed_engineWrite (d : Dev) (p a : Nat) (bs : List Byte) : Accessed d (engineWrite d p a bs) :=
  ((Accessed.forEach (fun d (x : Byte × Nat) => accessed_agentPut d p (a + x.2) x.1) bs.zipIdx d).trans
    (.forEach (fun d c => accessed_deniedWrite d p c) _ _)).trans (accessed_noteWrite ..)

/-! The mover's copies and updates (R101, R109) -/

theorem accessed_putQ8lLine (d : Dev) (p : Nat) (t : Desc) (n : Nat) (ys : List Val) (k : Nat) : Accessed d (putQ8lLine d p t n ys k).1 := by
  induction k with
  | zero => exact .refl d
  | succ k ih => exact ih.trans (accessed_putLine ..)

theorem accessed_putQ8l (d : Dev) (p : Nat) (t : Desc) (v : Nat → Nat → Val) : Accessed d (putQ8l d p t v).1 :=
  List.foldlRecOn (motive := fun x : Dev × Bool => Accessed d x.1) _ _ (.refl d) (fun _ h _ _ => h.trans (accessed_putQ8lLine ..))

theorem accessed_moveEffect (d : Dev) (p : Nat) (m : MoveOp) : Accessed d (moveEffect d p m).1 := by
  have tile (l : List (Nat × Nat)) (v : Nat × Nat → Nat) : Accessed d (forEach l d (fun e x => tilePut e p m.dst x.1 x.2 (v x))) :=
    .forEach (fun d x => accessed_putLine d p m.dst _ _ _) l d
  unfold moveEffect
  dsimp only
  split
  · split
    · exact .forEach (fun d n => accessed_putLine d p m.dst n 0 _) _ d
    · exact tile _ _
  · split
    · exact accessed_putQ8l ..
    · split
      · exact .refl d
      · exact tile _ _

theorem accessed_applyAdd (d : Dev) (p : Nat) (a : AddOp) : Accessed d (applyAdd d p a).1 := by
  have put (l : List (Byte × Nat)) : Accessed d (noteWrite (l.foldl (fun d b => agentPut d p (a.addr + b.2) b.1) d) p a.addr a.size) :=
    (Accessed.forEach (fun d (b : Byte × Nat) => accessed_agentPut d p (a.addr + b.2) b.1) l d).trans (accessed_noteWrite ..)
  unfold applyAdd
  dsimp only
  split
  · dsimp only
    split
    · exact (put _).trans (accessed_deniedWrite ..)
    · exact put _
  · exact put _

/-! A queued instruction ends (R34, R49, R123) -/

/-- The n-th job of cluster c has ended: it is gone, signalled, and its non-finite value is noted. -/
structure Ended (d : Dev) (c n : Nat) (j : Job) (t : Dev) : Prop where
  jobs : (clusterOf t c).jobs = (clusterOf d c).jobs.eraseIdx n
  acc : t.acc = d.acc
  sig : ∀ e, j.sig = some e → getF d (F.mcEvt_count c e) < 65535 → getF t (F.mcEvt_count c e) = getF d (F.mcEvt_count c e) + 1
  nonfin : ∀ p, partOf d c = some p → j.nonfin = true → getF t (F.fabNflag_nonfin p) = 1

/-- The flag that a job found. -/
def noteFlag (d : Dev) (c : Nat) (j : Job) : Dev :=
  match j.nonfin, partOf d c with
  | true, some p => setNonfin d p
  | _, _ => d

theorem noteFlag_cl (d : Dev) (c : Nat) (j : Job) : (noteFlag d c j).cl = d.cl := by unfold noteFlag; split <;> rfl
theorem noteFlag_acc (d : Dev) (c : Nat) (j : Job) : (noteFlag d c j).acc = d.acc := by unfold noteFlag; split <;> rfl

theorem getF_noteFlag {k : FKey} (hk : ∀ p, k.reg ≠ .fabNflag p) (d : Dev) (c : Nat) (j : Job) : getF (noteFlag d c j) k = getF d k := by
  unfold noteFlag
  split
  · exact getF_setF_of_ne _ _ (FKey.ne_of_reg (hk _).symm)
  · rfl

/-- A job that has ended, before waiting work goes on. -/
def jobEnded (d : Dev) (c n : Nat) (j : Job) : Dev := signal (noteFlag (dropJob d c n) c j) c j.sig

theorem finishJob_eq (d : Dev) (c n : Nat) (j : Job) : finishJob d c n j = settle (jobEnded d c n j) c := rfl

theorem clusterOf_jobEnded (d : Dev) (c n : Nat) (j : Job) :
    clusterOf (jobEnded d c n j) c = { clusterOf d c with jobs := (clusterOf d c).jobs.eraseIdx n } := by
  rw [jobEnded, clusterOf_signal, clusterOf_congr (noteFlag_cl _ c j), dropJob, clusterOf_modCluster_same]

theorem finishJob_of_clear {d : Dev} {c : Nat} (n : Nat) (j : Job) (hw : (clusterOf d c).waiting = none)
    (hp : (clusterOf d c).pend = none) : finishJob d c n j = jobEnded d c n j := by
  rw [finishJob_eq]
  exact settle_of_clear (by rw [clusterOf_jobEnded]; exact hw) (by rw [clusterOf_jobEnded]; exact hp)

theorem ended_finishJob {d e : Dev} (h : Accessed d e) {c : Nat} (n : Nat) {j k : Job} (hs : k.sig = j.sig)
    (hn : j.nonfin = true → k.nonfin = true) (hw : (clusterOf d c).waiting = none) (hp : (clusterOf d c).pend = none) :
    Ended d c n j (finishJob e c n k) := by
  have hc : clusterOf e c = clusterOf d c := clusterOf_congr h.cl c
  have hcount (x : Nat) : getF (noteFlag (dropJob e c n) c k) (F.mcEvt_count c x) = getF d (F.mcEvt_count c x) :=
    (getF_noteFlag (by simp) _ c k).trans (h.field _ (by simp [IsAccessReg]))
  rw [finishJob_of_clear n k (by rw [hc, hw]) (by rw [hc, hp])]
  refine ⟨?_, ?_, fun x hx hlt => ?_, fun p hpart hj => ?_⟩
  · rw [clusterOf_jobEnded, hc]
  · rw [jobEnded, (seqOnly_signal _ c _).same Dev.acc (fun _ _ _ _ => rfl), noteFlag_acc]
    exact h.acc
  · rw [jobEnded, hs, hx]
    refine getF_evAdd_same.trans ?_
    rw [hcount]
    omega
  · have hpart' : partOf (dropJob e c n) c = some p := (h.part c).trans hpart
    rw [jobEnded, getF_signal (by simp [evField]), noteFlag, hn hj, hpart']
    exact getF_setF_same ..

/-! A vector unit's part of an end (R169) -/

/-- Changes that each touch their own part of the state, made once each. -/
theorem forEach_own {α β : Type} [DecidableEq α] (v : α → Dev → β) (f : β → β) {step : Dev → α → Dev}
    (hs : ∀ d x, v x (step d x) = f (v x d))
    (ho : ∀ d x y, x ≠ y → v y (step d x) = v y d) {l : List α} (hl : l.Nodup) (y : α) (d : Dev) :
    v y (forEach l d step) = if y ∈ l then f (v y d) else v y d := by
  induction l generalizing d with
  | nil => rfl
  | cons x r ih =>
    obtain ⟨hx, hr⟩ := List.nodup_cons.1 hl
    have hcons : forEach (x :: r) d step = forEach r (step d x) step := rfl
    rw [hcons, ih hr]
    by_cases hy : y = x
    · subst hy
      rw [if_neg hx, if_pos List.mem_cons_self, hs]
    · rw [ho d x y (Ne.symm hy)]
      simp [hy]

/-- A unit that ends an instruction counts it, and is gated when its queue is empty. -/
def endUnit (c : Nat) (d : Dev) (u : Nat) : Dev :=
  setF (addF d (F.vecUnit_done c u) 1) (F.vecUnit_state c u) (if unitCount (addF d (F.vecUnit_done c u) 1) c u = 0 then 0 else 2)

theorem completeVop_eq {d : Dev} {c i n m : Nat} {j : Job} (hn : nthJob d c Job.onVec i = some (n, j)) (hj : j.unit = .vec m)
    (hfirst : ∀ k ∈ (clusterOf d c).jobs.take n, ∀ u < 4, bitOf m u = true → k.onUnit u = false) :
    completeVop d c i = forEach (namedUnits m) (finishJob d c n j) (endUnit c) := by
  have hb : ((clusterOf d c).jobs.take n).any (fun k => (namedUnits m).any (fun u => k.onUnit u)) = false := by
    simp only [List.any_eq_false, namedUnits, List.mem_filter, List.mem_range, Bool.not_eq_true]
    exact fun k hk u hu => hfirst k hk u hu.1 hu.2
  simp only [completeVop, hn, hj, hb]
  rfl

theorem forEach_endUnit_cl (c : Nat) (l : List Nat) (d : Dev) : (forEach l d (endUnit c)).cl = d.cl :=
  forEach_same Dev.cl (g := endUnit c) (fun _ _ => rfl) l d

theorem getF_endUnit_of_reg {c : Nat} {k : FKey} {u : Nat} (hk : k.reg ≠ .vecUnit c u) (d : Dev) : getF (endUnit c d u) k = getF d k := by
  rw [endUnit, getF_setF_of_ne _ _ (FKey.ne_of_reg hk.symm), addF, getF_setF_of_ne _ _ (FKey.ne_of_reg hk.symm)]

theorem getF_forEach_endUnit_of_reg {c : Nat} {k : FKey} (hk : ∀ u, k.reg ≠ .vecUnit c u) (l : List Nat) (d : Dev) :
    getF (forEach l d (endUnit c)) k = getF d k :=
  forEach_same (fun d => getF d k) (g := endUnit c) (fun d u => getF_endUnit_of_reg (hk u) d) l d

theorem vecUnit_state_width (c u : Nat) : (F.vecUnit_state c u).width = 3 := rfl

/-- What a unit shows of its work. -/
def unitShown (c u : Nat) (d : Dev) : Nat × Nat × Nat := (getF d (F.vecUnit_done c u), getF d (F.vecUnit_state c u), unitCount d c u)

/-- It after the end of one instruction. -/
def unitNext (x : Nat × Nat × Nat) : Nat × Nat × Nat := ((x.1 + 1) % 2 ^ (F.vecUnit_done 0 0).width, if x.2.2 = 0 then 0 else 2, x.2.2)

theorem unitShown_endUnit (c : Nat) (d : Dev) (u : Nat) : unitShown c u (endUnit c d u) = unitNext (unitShown c u d) := by
  have hq : unitCount (addF d (F.vecUnit_done c u) 1) c u = unitCount d c u := rfl
  have hd : getF (endUnit c d u) (F.vecUnit_done c u) = (getF d (F.vecUnit_done c u) + 1) % 2 ^ (F.vecUnit_done 0 0).width := by
    rw [endUnit, getF_setF_of_ne _ _ (FKey.ne_of_lo (by simp)), addF, getF_setF_same]
    rfl
  have hs : getF (endUnit c d u) (F.vecUnit_state c u) = if unitCount d c u = 0 then 0 else 2 := by
    rw [endUnit, getF_setF_same, hq, vecUnit_state_width]
    split <;> rfl
  simp only [unitShown, unitNext, hd, hs]
  rfl

theorem unitShown_endUnit_of_ne {u y : Nat} (h : u ≠ y) (c : Nat) (d : Dev) : unitShown c y (endUnit c d u) = unitShown c y d := by
  have hreg (lo : Nat) : (⟨.vecUnit c y, lo⟩ : FKey).reg ≠ .vecUnit c u := by simpa using h.symm
  simp only [unitShown, getF_endUnit_of_reg (hreg _)]
  rfl

theorem unitShown_forEach_endUnit (c m u : Nat) (d : Dev) : unitShown c u (forEach (namedUnits m) d (endUnit c)) =
    if u ∈ namedUnits m then unitNext (unitShown c u d) else unitShown c u d :=
  forEach_own (unitShown c) unitNext (unitShown_endUnit c) (fun d _ _ h => unitShown_endUnit_of_ne h c d)
    ((List.nodup_range).filter _) u d

/-! The mover's ends -/

theorem completeMover_move {d : Dev} {c i n p : Nat} {j : Job} {m : MoveOp} (hp : partOf d c = some p)
    (hn : nthJob d c Job.onMover i = some (n, j)) (hm : j.move = some m) (hs : tileHeld d p m.src = false)
    (ht : tileHeldWrite d p m.dst = false) : ∃ e k, completeMover d c i = finishJob e c n k ∧ Accessed d e ∧
      e.mem = (moveEffect d p m).1.mem ∧ k.sig = j.sig ∧ (j.nonfin = true → k.nonfin = true) := by
  have hx : completeMover d c i = finishJob (forEach (extentProtected d c m.dst)
      (if (spadOf m.dst.base).isNone then noteWrite (noteRead (moveEffect d p m).1 p m.src.base m.src.extent) p m.dst.base m.dst.extent
        else reachRange (noteRead (moveEffect d p m).1 p m.src.base m.src.extent) p m.dst.base m.dst.extent)
      (fun e k => deniedWrite e p k)) c n { j with nonfin := j.nonfin || (moveEffect d p m).2 } := by
    simp only [completeMover, hn, hp, hm, hs, ht]
    rfl
  refine ⟨_, _, hx, ?_, ?_, rfl, fun h => by simp [h]⟩
  · refine Accessed.trans ?_ (.forEach (fun e k => accessed_deniedWrite e p k) _ _)
    refine ((accessed_moveEffect d p m).trans (accessed_noteRead _ p m.src.base m.src.extent)).trans ?_
    split
    · exact accessed_noteWrite ..
    · exact accessed_reachRange ..
  · rw [forEach_mem (fun e k => deniedWrite_mem e p k)]
    split <;> simp

theorem completeMover_adds {d : Dev} {c i n p : Nat} {j : Job} (hp : partOf d c = some p)
    (hn : nthJob d c Job.onMover i = some (n, j)) (hm : j.move = none) (ha : ∀ a ∈ j.adds, heldWrite d p a.addr a.size = false) :
    ∃ e k, completeMover d c i = finishJob e c n k ∧ Accessed d e ∧
      e = j.adds.foldl (fun d a => (applyAdd d p a).1) d ∧ k.sig = j.sig ∧ (j.nonfin = true → k.nonfin = true) := by
  have hheld : j.adds.any (fun a => heldWrite d p a.addr a.size) = false := by
    simp only [List.any_eq_false, Bool.not_eq_true]
    exact ha
  have hx : completeMover d c i = finishJob (j.adds.foldl (fun (x : Dev × Bool) a => ((applyAdd x.1 p a).1, x.2 || (applyAdd x.1 p a).2))
      (d, false)).1 c n { j with adds := [], nonfin := j.nonfin || (j.adds.foldl (fun (x : Dev × Bool) a =>
        ((applyAdd x.1 p a).1, x.2 || (applyAdd x.1 p a).2)) (d, false)).2 } := by
    simp only [completeMover, hn, hp, hm, hheld]
    rfl
  have hfold := List.foldl_hom Prod.fst (g₁ := fun (x : Dev × Bool) a => ((applyAdd x.1 p a).1, x.2 || (applyAdd x.1 p a).2))
    (g₂ := fun d a => (applyAdd d p a).1) (l := j.adds) (init := (d, false)) (fun _ _ => rfl)
  refine ⟨_, _, hx, ?_, hfold.symm, rfl, fun h => by simp [h]⟩
  rw [← hfold]
  exact .forEach (fun d a => accessed_applyAdd d p a) _ _

/-- Settles O19: what the mover's copies and updates change (`Accessed`), what the end of a job does (`Ended`), unit by unit. -/
theorem queuedCompletions : Obligations.QueuedCompletions := by
  intro s c i n j hg hw hpend ended
  have close {t : Dev} (h : Ended s.dev c n j t) : ended { s with dev := t } := ⟨h.jobs, h.acc, rfl, h.sig, h.nonfin⟩
  have hmover : exec (.moverOpComplete c i) s = .next { s with dev := completeMover s.dev c i } :=
    congrArg Host.Outcome.next (onDev_of_good hg)
  refine ⟨fun p m hp hn hm hs ht => ?_, fun p hp hn hm ha => ?_, fun m hn hj hfirst => ?_⟩
  · obtain ⟨e, k, hx, he, hmem, hsig, hnf⟩ := completeMover_move hp hn hm hs ht
    exact ⟨_, hmover.trans (by rw [hx]), close (ended_finishJob he n hsig hnf hw hpend), (finishJob_mem ..).trans hmem⟩
  · obtain ⟨e, k, hx, he, hmem, hsig, hnf⟩ := completeMover_adds hp hn hm ha
    exact ⟨_, hmover.trans (by rw [hx]), close (ended_finishJob he n hsig hnf hw hpend), (finishJob_mem ..).trans (by rw [hmem])⟩
  · have hx := completeVop_eq hn hj hfirst
    have h := ended_finishJob (.refl s.dev) n (j := j) rfl id hw hpend
    have hcl := forEach_endUnit_cl c (namedUnits m) (finishJob s.dev c n j)
    have hunit (u lo : Nat) : getF (finishJob s.dev c n j) ⟨.vecUnit c u, lo⟩ = getF s.dev ⟨.vecUnit c u, lo⟩ := by
      rw [finishJob_of_clear n j hw hpend, jobEnded, getF_signal (by simp [evField]), getF_noteFlag (by simp)]
      rfl
    have hnamed {u : Nat} (hu : u < 4) : u ∈ namedUnits m ↔ bitOf m u = true := by simp [namedUnits, hu]
    refine ⟨_, (congrArg Host.Outcome.next (onDev_of_good hg)).trans (by rw [hx]), close ⟨?_, ?_, fun e he hlt => ?_, fun p hp hnf => ?_⟩,
      ?_, fun u hu => ?_, fun u hu hb => ?_⟩
    · rw [clusterOf_congr hcl]
      exact h.jobs
    · exact (forEach_same Dev.acc (g := endUnit c) (fun _ _ => rfl) _ _).trans h.acc
    · rw [getF_forEach_endUnit_of_reg (by simp)]
      exact h.sig e he hlt
    · rw [getF_forEach_endUnit_of_reg (by simp)]
      exact h.nonfin p hp hnf
    · exact (forEach_same Dev.mem (g := endUnit c) (fun _ _ => rfl) _ _).trans (finishJob_mem ..)
    · have hs := congrArg Prod.fst (unitShown_forEach_endUnit c m u (finishJob s.dev c n j))
      by_cases hb : bitOf m u = true
      · rw [if_pos ((hnamed hu).2 hb)] at hs
        rw [if_pos hb, ← hunit]
        exact hs
      · rw [if_neg (fun h => hb ((hnamed hu).1 h))] at hs
        rw [if_neg hb, ← hunit]
        exact hs
    · have hs := unitShown_forEach_endUnit c m u (finishJob s.dev c n j)
      rw [if_pos ((hnamed hu).2 hb)] at hs
      have hstate := congrArg (fun x => x.2.1) hs
      have hcount : unitCount (forEach (namedUnits m) (finishJob s.dev c n j) (endUnit c)) c u = unitCount (finishJob s.dev c n j) c u :=
        congrArg (fun x => x.2.2) hs
      exact hstate.trans (by rw [hcount]; rfl)

end Sys2Proof.Machine
end

section
namespace Sys2Proof.Machine

/-! FPOST (R282, R284) -/

/-- An FPOST that is refused: its status written, its clusters' counters posted, its interrupt raised. -/
def refusedPost (d : Dev) (p : Nat) (k : Coll) (status : Nat) : Dev :=
  let d := if status = 0x12 then denyFirst d p (k.extents d) else d
  let e := writeStatus d k 0 status
  let e := if cmaskOk d p k.cmask then postMask e k.cmask k.evt else e
  raise e (some p) (F.fabIrq_coll_err p) (F.fabIrqEn_coll_err p)

theorem postMask_colls (d : Dev) (mask e : Nat) : (postMask d mask e).colls = d.colls :=
  forEach_same Dev.colls (g := fun d c => evPost d c e 1) (fun _ _ => rfl) _ d

theorem raise_colls (d : Dev) (p : Option Nat) (irq en : FKey) : (raise d p irq en).colls = d.colls := by
  unfold raise
  split
  · dsimp only
    split <;> rfl
  · rfl

theorem accessed_writeStatus (d : Dev) (k : Coll) (steps status : Nat) : Accessed d (writeStatus d k steps status) := accessed_engineWrite ..

theorem refusedPost_colls (d : Dev) (p : Nat) (k : Coll) (status : Nat) : (refusedPost d p k status).colls = d.colls := by
  have denied : (if status = 0x12 then denyFirst d p (k.extents d) else d).colls = d.colls := by
    split
    · exact (accessed_denyFirst ..).colls
    · rfl
  unfold refusedPost
  dsimp only
  rw [raise_colls]
  generalize (if status = 0x12 then denyFirst d p (k.extents d) else d) = e at denied ⊢
  refine Eq.trans ?_ ((accessed_writeStatus _ k 0 status).colls.trans denied)
  split
  · exact postMask_colls ..
  · rfl

theorem getF_refusedPost (d : Dev) (p : Nat) (k : Coll) (status : Nat) : getF (refusedPost d p k status) (F.fabIrq_coll_err p) = 1 := by
  unfold refusedPost
  dsimp only
  rw [getF_raise]
  exact getF_setF_same ..

/-- The collective that a descriptor starts or leaves held. -/
def postedColl (d : Dev) (p c a : Nat) (held : Bool) : Coll :=
  { collOf d p c a (descWords d p a 8) with
    inst := ((Tab.get? d.insts (p, (collOf d p c a (descWords d p a 8)).tag)).getD 0) % 256, held := held }

/-- The FPOST in the fabric queue, its collective open. -/
def postOpened (d : Dev) (p c w a : Nat) (held : Bool) : Dev :=
  let k := collOf d p c a (descWords d p a 8)
  addJob { d with colls := d.colls ++ [postedColl d p c a held], collNext := d.collNext + 1,
                  insts := Tab.put d.insts (p, k.tag) ((Tab.get? d.insts (p, k.tag)).getD 0 + 1) } c
    { plainJob .fabric w with post := some d.collNext }

theorem postOpened_post (d : Dev) (p c w a : Nat) (held : Bool) :
    (clusterOf (postOpened d p c w a held) c).jobs.getLast?.map Job.post = some (some d.collNext) := by
  simp [postOpened, addJob]

section
variable {d : Dev} {p c a : Nat} (w : Nat)

theorem postColl_of_status {status : Nat} (h : collStatus d (collOf d p c a (descWords d p a 8)) (descWords d p a 8) = some status) :
    postColl d p c w a = .done (refusedPost d p (collOf d p c a (descWords d p a 8)) status) := by
  simp only [postColl, h]
  rfl

variable (h : collStatus d (collOf d p c a (descWords d p a 8)) (descWords d p a 8) = none)
include h

theorem postColl_of_current (he : (collOf d p c a (descWords d p a 8)).epoch = getF d (F.fabEpoch_cur p)) :
    postColl d p c w a = .queued (startColl (postOpened d p c w a false) (postedColl d p c a false)) := by
  have hcur := decide_eq_true he
  simp only [postColl, h, hcur, Bool.true_or, if_true]
  rfl

theorem postColl_of_pending (hc : (collOf d p c a (descWords d p a 8)).epoch ≠ getF d (F.fabEpoch_cur p))
    (hv : flag d (F.fabEpoch_pvalid p) = true) (he : (collOf d p c a (descWords d p a 8)).epoch = getF d (F.fabEpoch_pending p)) :
    postColl d p c w a = .queued (postOpened d p c w a true) := by
  have hcur := decide_eq_false hc
  have hb : (flag d (F.fabEpoch_pvalid p) && (collOf d p c a (descWords d p a 8)).epoch == getF d (F.fabEpoch_pending p)) = true := by
    rw [hv, beq_iff_eq.2 he]
    rfl
  simp only [postColl, h, hcur, hb, Bool.false_or, if_true, Bool.false_eq_true, if_false]
  rfl

theorem postColl_of_other (hc : (collOf d p c a (descWords d p a 8)).epoch ≠ getF d (F.fabEpoch_cur p))
    (hv : flag d (F.fabEpoch_pvalid p) = false ∨ (collOf d p c a (descWords d p a 8)).epoch ≠ getF d (F.fabEpoch_pending p)) :
    postColl d p c w a = .done (refusedPost d p (collOf d p c a (descWords d p a 8)) 4) := by
  have hb : (flag d (F.fabEpoch_pvalid p) && (collOf d p c a (descWords d p a 8)).epoch == getF d (F.fabEpoch_pending p)) = false := by
    rcases hv with hv | hv
    · rw [hv, Bool.false_and]
    · rw [beq_false_of_ne hv, Bool.and_false]
  have hcur := decide_eq_false hc
  simp only [postColl, h, hcur, hb, Bool.or_self, Bool.false_eq_true, if_false]
  rfl

end

/-! An FPOST that may issue waits for no held page -/

theorem heldRange_congr {d e : Dev} (hp : e.pages = d.pages) (hs : e.sweeps = d.sweeps)
    (hf : ∀ k : FKey, (∀ c n, k.reg ≠ .mcEvt c n) → getF e k = getF d k) (p a n : Nat) : heldRange e p a n = heldRange d p a n := by
  have hpage : pageAt e p = pageAt d p := by funext w v; rw [pageAt, pageAt, hp]
  have hplace : placeOf e p = placeOf d p := funext (placeOf_congr hp hs hf p)
  unfold heldRange pagesTouched
  rw [hpage, hplace]

theorem heldRange_of_free {d : Dev} {p c w : Nat} (h : (goFpost p c w d).free = true) : heldRange d p (wAddr w) 64 = false := by
  unfold Plan.free goFpost at h
  have hb := (Bool.and_eq_true_iff.1 h).2
  dsimp only at hb
  by_contra hh
  rw [if_pos (Or.inr (by simpa using hh))] at hb
  cases hb

theorem takeWen_pages (d : Dev) (c w : Nat) : (takeWen d c w).pages = d.pages := (seqOnly_takeWen d c w).same Dev.pages (fun _ _ _ _ => rfl)
theorem takeWen_sweeps (d : Dev) (c w : Nat) : (takeWen d c w).sweeps = d.sweeps := (seqOnly_takeWen d c w).same Dev.sweeps (fun _ _ _ _ => rfl)

theorem exec_fpost {s : State} {p : Nat} {c : ClusterId} {w : Nat} (hi : issuing s p c w = true) (ho : wOp w = 0x2E)
    (hf : (goFpost p c w (takeWen s.dev c w)).free = true) : exec (.fpost c) s =
      .next { s with dev := finishRun c w (postColl (noteRead (takeWen s.dev c w) p (wAddr w) 64) p c w (wAddr w)) } := by
  obtain ⟨hg, -, -, hp, hw, -⟩ := issuing_iff.1 hi
  have hh : heldRange s.dev p (wAddr w) 64 = false := by
    rw [← heldRange_of_free hf]
    exact (heldRange_congr (takeWen_pages ..) (takeWen_sweeps ..) (fun k hk => getF_takeWen_of_reg (hk c)) p (wAddr w) 64).symm
  have hx : exec (.fpost c) s = .next { s with dev := fpostHold s.dev c (tileStep 0x2E (fun _ => true) goFpost c s.dev) } :=
    congrArg Host.Outcome.next (onDev_of_good hg)
  have hstep := tileStep_of_free (sel := fun _ => true) (go := goFpost) hi ho rfl hf
  rw [hx, hstep]
  simp only [fpostHold, hp, hw, hh, Bool.false_eq_true, and_false, if_false]
  rfl

/-- Settles O18: MOV's own run, and FPOST by the four answers of `postColl`. -/
theorem moverAndFabricInstructions : Obligations.MoverAndFabricInstructions := by
  intro s p c w hi e src dst f ws k
  refine ⟨fun ho hf => ?_, fun status ho hf hst => ?_, fun ho hf hst hc hv => ?_, fun ho hf hst hc hv he => ?_, fun ho hf hst he => ?_⟩
  · exact ⟨_, exec_of_free (i := .mov c) (go := goMov) rfl hi ho rfl hf, rfl, rfl, rfl, rfl⟩
  · exact ⟨_, (exec_fpost hi ho hf).trans (by rw [postColl_of_status w hst]), refusedPost_colls .., getF_refusedPost ..⟩
  · exact ⟨_, (exec_fpost hi ho hf).trans (by rw [postColl_of_other w hst hc hv]), refusedPost_colls .., getF_refusedPost ..⟩
  · exact ⟨postOpened f p c w (wAddr w) true, (exec_fpost hi ho hf).trans (by rw [postColl_of_pending w hst hc hv he]), rfl, rfl, rfl,
      postOpened_post ..⟩
  · exact ⟨postOpened f p c w (wAddr w) false, (exec_fpost hi ho hf).trans (by rw [postColl_of_current w hst he]; rfl), rfl, rfl, rfl,
      postOpened_post ..⟩

end Sys2Proof.Machine
end

section
namespace Sys2Proof.Machine

/-! Waits at issue (R33, R49, R53, Table 2.13) -/

theorem goEvwait_run (p c w : Nat) (d : Dev) : (goEvwait p c w d).run () =
    if wImm w % 2 ^ 16 ≤ getF d (F.mcEvt_count c (wE w)) then
      .done (if bitOf w 32 then setF d (F.mcEvt_count c (wE w)) (getF d (F.mcEvt_count c (wE w)) - wImm w % 2 ^ 16) else d)
    else .hold d (.event (wE w) (wImm w % 2 ^ 16) (bitOf w 32)) := rfl

theorem goFtcwait_run (p c w : Nat) (d : Dev) : (goFtcwait p c w d).run () =
    if (getF d (F.mcG_value c (wGa w)) + wImm w) % 2 ^ 64 ≤ getF d F.fabFtc_ftc then .done d
    else .hold d (.ftc ((getF d (F.mcG_value c (wGa w)) + wImm w) % 2 ^ 64)) := rfl

theorem goDwqflush_run (p c w : Nat) (d : Dev) : (goDwqflush p c w d).run () =
    if (clusterOf d c).dwq = [] then .done d else .hold d .deferred := by
  simp only [goDwqflush, freely, List.isEmpty_iff]

/-- No operation, and where asked no deferred entry, is left. -/
def allEnded (d : Dev) (c : Nat) (all : Bool) : Prop := (clusterOf d c).jobs = [] ∧ (all = true → (clusterOf d c).dwq = [])

theorem ended_iff {d : Dev} {c : Nat} {all : Bool} :
    ((clusterOf d c).jobs.isEmpty && (!all || (clusterOf d c).dwq.isEmpty)) = true ↔ allEnded d c all := by
  cases all <;> simp [allEnded]

theorem goFence_run_of_ended {p c w : Nat} {d : Dev} (h : allEnded d c (bitOf w 32)) : (goFence p c w d).run () = .done d :=
  if_pos (ended_iff.2 h)

theorem goFence_run_of_not {p c w : Nat} {d : Dev} (h : ¬ allEnded d c (bitOf w 32)) :
    (goFence p c w d).run () = .hold d (.fence (bitOf w 32)) :=
  if_neg (fun hn => h (ended_iff.1 hn))

theorem fpostHold_of_other {d : Dev} {c : Nat} (h : wOp (fetchWord d c) ≠ 0x2E) (e : Dev) : fpostHold d c e = e := by
  unfold fpostHold
  split
  · exact if_neg (fun hn => h hn.1)
  · rfl

theorem exec_evwaitPass {s : State} (hg : s.dev.powerGood = true) (c : ClusterId) :
    exec (.evwaitPass c) s = .next (flushAudit { s with dev := passWait s.dev c }) :=
  congrArg Host.Outcome.next (onMal_of_good hg)

/-- The instruction that its wen wait blocked issues. -/
theorem passWait_of_wen {s : State} {p c w : Nat} (hi : issuing s p c w = true) (hs : seqState s.dev c = 2)
    (hc : getF s.dev (F.mcSeqStatus_wait_cause c) = 1) (hw : wWen w = true) : passWait s.dev c =
      fpostHold s.dev c (finishIssue s.dev c w ((instrOf w p c w (takeWen s.dev c w)).issue (takeWen s.dev c w))) := by
  obtain ⟨-, hcan, hawake, hp, hfetch, hcount, hop, hun⟩ := issuing_iff.1 hi
  have hwait : (clusterOf s.dev c).waiting.isSome = false := by
    have h := hcan
    simp only [canIssue, Bool.and_eq_true] at h
    obtain ⟨⟨⟨⟨⟨-, hn⟩, -⟩, -⟩, -⟩, -⟩ := h
    simpa using hn
  have hn := hcount hw
  unfold passWait
  dsimp only
  rw [hwait, hfetch, hcan, hawake, hw, hs, hc, decide_eq_true hn, issueWord_of_sound hp hcount hop hun]
  rfl

/-! What ends a wait -/

theorem passWait_of_waiting {d : Dev} {c : Nat} {q : WaitOp} (hq : (clusterOf d c).waiting = some q) : passWait d c = passEvwait d c := by
  unfold passWait
  dsimp only
  rw [hq]
  rfl

theorem passEvwait_of_event {d : Dev} {c e k : Nat} {consume : Bool} {q : WaitOp} (hq : (clusterOf d c).waiting = some q)
    (hon : q.on = .event e k consume) : passEvwait d c =
      if k ≤ getF d (F.mcEvt_count c e) then
        settle (endWait (if consume then setF d (F.mcEvt_count c e) (getF d (F.mcEvt_count c e) - k) else d) c) c
      else d := by
  obtain ⟨on, wen, sig⟩ := q
  cases hon
  unfold passEvwait
  rw [hq]
  rfl

theorem reachFtc_of_waiting {d : Dev} {c t : Nat} {q : WaitOp} (hq : (clusterOf d c).waiting = some q) (hon : q.on = .ftc t) :
    reachFtc d c = settle (endWait (setF d F.fabFtc_ftc (max (getF d F.fabFtc_ftc) t)) c) c := by
  obtain ⟨on, wen, sig⟩ := q
  cases hon
  unfold reachFtc
  rw [hq]
  rfl

theorem fenceMet_of_deferred {d : Dev} {c : Nat} {q : WaitOp} (hq : (clusterOf d c).waiting = some q) (hon : q.on = .deferred) :
    fenceMet d c = (clusterOf d c).dwq.isEmpty := by
  obtain ⟨on, wen, sig⟩ := q
  cases hon
  unfold fenceMet
  rw [hq]

theorem fenceMet_of_fence {d : Dev} {c : Nat} {all : Bool} {q : WaitOp} (hq : (clusterOf d c).waiting = some q) (hon : q.on = .fence all) :
    fenceMet d c = true ↔ allEnded d c all := by
  obtain ⟨on, wen, sig⟩ := q
  cases hon
  unfold fenceMet
  rw [hq]
  exact ended_iff

theorem settleFault_of_none {d : Dev} {c : Nat} (hp : (clusterOf d c).pend = none) : settleFault d c = d := by
  unfold settleFault
  rw [hp]

theorem settle_of_unmet {d : Dev} {c : Nat} (hm : fenceMet d c = false) (hp : (clusterOf d c).pend = none) : settle d c = d := by
  rw [settle, hm, if_neg Bool.false_ne_true, settleFault_of_none hp]

/-- Cluster c of t as in d, with the program that d runs. -/
structure SamePlace (c : Nat) (d t : Dev) : Prop where
  pc : pcOf t c = pcOf d c
  len : getF t (F.mcSeqLen_len c) = getF d (F.mcSeqLen_len c)
  waiting : (clusterOf t c).waiting = (clusterOf d c).waiting
  pend : (clusterOf t c).pend = (clusterOf d c).pend
  loops : (clusterOf t c).loops = (clusterOf d c).loops

/-- Cluster c goes on after its wait. -/
structure GoesOn (c : Nat) (d t : Dev) : Prop where
  waiting : (clusterOf t c).waiting = none
  pc : pcOf t c = pcOf d c + 1
  state : seqState t c = 1

/-- A wait whose condition holds ends, and issue goes on after it. -/
theorem goesOn_settle {c : Nat} {d e : Dev} {q : WaitOp} (h : SamePlace c d e) (hq : (clusterOf d c).waiting = some q)
    (hp : (clusterOf d c).pend = none) (hl : (clusterOf d c).loops = []) (hin : pcOf d c + 1 < getF d (F.mcSeqLen_len c))
    (hlen : getF d (F.mcSeqLen_len c) ≤ 2 ^ 22) (hm : fenceMet e c = true) :
    GoesOn c d (settle e c) ∧ (clusterOf (settle e c) c).jobs = (clusterOf e c).jobs := by
  have hw : endWait e c = advanceTo (signal (modCluster e c (fun x => { x with waiting := none })) c q.sig) c
      (pcOf (signal (modCluster e c (fun x => { x with waiting := none })) c q.sig) c + 1) := by
    unfold endWait
    rw [h.waiting, hq]
    rfl
  have hc : clusterOf (signal (modCluster e c (fun x => { x with waiting := none })) c q.sig) c = { clusterOf e c with waiting := none } := by
    simp
  have hf (k : FKey) (hk : ∀ n, evField c n k = false) :
      getF (signal (modCluster e c (fun x => { x with waiting := none })) c q.sig) k = getF e k := (getF_signal hk).trans (getF_modCluster ..)
  generalize signal (modCluster e c (fun x => { x with waiting := none })) c q.sig = g at hw hc hf
  have hpc : pcOf g c = pcOf d c := (hf _ (by simp [evField])).trans h.pc
  have hgl : (clusterOf g c).loops = [] := by rw [hc]; exact h.loops.trans hl
  have hnext : loopNext (pcOf d c + 1) (clusterOf g c).loops = (pcOf d c + 1, []) := by rw [hgl]; rfl
  have ha := advanceTo_inside (d := g) (c := c) (npc := pcOf d c + 1) (by
    rw [hnext, hf _ (by simp [evField]), h.len]
    exact hin)
  rw [hnext] at ha
  rw [hpc, ha] at hw
  have hcl : clusterOf (endWait e c) c = { clusterOf e c with waiting := none, loops := [] } := by
    rw [hw, clusterOf_setF, clusterOf_atNext, hnext, hc]
  have hs : settle e c = endWait e c := by
    rw [settle, hm, if_pos rfl, settleFault_of_none (by rw [hcl]; exact h.pend.trans hp)]
  rw [hs]
  refine ⟨⟨by rw [hcl], ?_, ?_⟩, by rw [hcl]⟩
  · rw [hw, pcOf, getF_setF_same, seqPc_width]
    exact Nat.mod_eq_of_lt (by dsimp only; omega)
  · rw [hw]
    exact (getF_setF_of_ne _ _ (FKey.ne_of_reg (by simp))).trans (seqState_atNext _ c _)

theorem nthJob_single {d : Dev} {c : Nat} {kind : Job → Bool} {j : Job} (hj : (clusterOf d c).jobs = [j]) (hk : kind j = true) :
    nthJob d c kind 0 = some (0, j) := by
  simp [nthJob, hj, hk]

/-- The end of a job leaves the program where it was. -/
theorem samePlace_jobEnded (d : Dev) (c n : Nat) (j : Job) : SamePlace c d (jobEnded d c n j) := by
  have field {k : FKey} (hk : ∀ e, evField c e k = false) (hn : ∀ p, k.reg ≠ .fabNflag p) : getF (jobEnded d c n j) k = getF d k := by
    rw [jobEnded, getF_signal hk, getF_noteFlag hn]
    rfl
  have hc := clusterOf_jobEnded d c n j
  exact ⟨field (by simp [evField]) (by simp), field (by simp [evField]) (by simp), by rw [hc], by rw [hc], by rw [hc]⟩

theorem SamePlace.trans {c : Nat} {d e t : Dev} (h : SamePlace c d e) (h' : SamePlace c e t) : SamePlace c d t :=
  ⟨h'.pc.trans h.pc, h'.len.trans h.len, h'.waiting.trans h.waiting, h'.pend.trans h.pend, h'.loops.trans h.loops⟩

theorem Accessed.samePlace {d e : Dev} (h : Accessed d e) (c : Nat) : SamePlace c d e := by
  have hc := clusterOf_congr h.cl c
  exact ⟨h.field _ (by simp [IsAccessReg]), h.field _ (by simp [IsAccessReg]), by rw [hc], by rw [hc], by rw [hc]⟩

theorem EntryRan.samePlace {d t : Dev} {p c : Nat} {x : Deferred} (h : EntryRan d p c x t) : SamePlace c d t :=
  ⟨h.field _ (by simp [evField]) (by simp [arrayRegs]) (by simp), h.field _ (by simp [evField]) (by simp [arrayRegs]) (by simp),
    h.waiting, h.pend, h.loops⟩

/-- Changes elsewhere after the sequencer went on. -/
theorem GoesOn.of_same {c : Nat} {d t u : Dev} (h : GoesOn c d t) (hw : (clusterOf u c).waiting = (clusterOf t c).waiting)
    (hf : ∀ k : FKey, k.reg = .mcSeqPc c ∨ k.reg = .mcSeqStatus c → getF u k = getF t k) : GoesOn c d u :=
  ⟨hw.trans h.waiting, (hf _ (Or.inl rfl)).trans h.pc, (hf _ (Or.inr rfl)).trans h.state⟩

theorem arrayOnly_arrayNext {d : Dev} {c : Nat} (h : (clusterOf d c).jobs = []) : ArrayOnly c d (arrayNext d c) := by
  have hn : arrayNext d c = newRouse (arrayIdle d c) c := by simp [arrayNext, arrayTaken, h]
  rw [hn]
  exact (arrayOnly_arrayIdle d c).trans (arrayOnly_newRouse _ c)

theorem completeArray_of_head {d : Dev} {c n : Nat} {j : Job} (hn : nthJob d c Job.onArray 0 = some (n, j))
    (h : getF d (F.mcArrStatus_phase c) ≠ 5) : completeArray d c = arrayNext (finishJob d c n j) c := by
  unfold completeArray
  rw [hn]
  exact if_neg h

section
variable {c : Nat} {d : Dev} {q : WaitOp} (hq : (clusterOf d c).waiting = some q) (hp : (clusterOf d c).pend = none)
  (hl : (clusterOf d c).loops = []) (hin : pcOf d c + 1 < getF d (F.mcSeqLen_len c)) (hlen : getF d (F.mcSeqLen_len c) ≤ 2 ^ 22)
include hq hp hl hin hlen

/-- The last deferred entry ends a DWQFLUSH. -/
theorem goesOn_runDeferred {p : Nat} {x : Deferred} (hon : q.on = .deferred) (hpart : partOf d c = some p)
    (hd : (clusterOf d c).dwq = [x]) (hj : (clusterOf d c).jobs = []) (hx : EntrySound d p x) :
    GoesOn c d (runDeferred d c) ∧ (clusterOf (runDeferred d c) c).jobs = [] := by
  have htaken : arrayTaken d c = false := by rw [arrayTaken, hj]; rfl
  have hready : arrayReady d p c = false := by
    have hcan : canIssue d c = false := by simp [canIssue, hq]
    simp [arrayReady, hcan]
  have hran := entryRan_runEntry hx c
  have hmet : fenceMet (runEntry d p c x) c = true := by
    rw [fenceMet_of_deferred (hran.waiting.trans hq) hon, hran.dwq, hd]
    rfl
  have h := goesOn_settle hran.samePlace hq hp hl hin hlen hmet
  rw [runDeferred_idle hpart hd htaken hready]
  exact ⟨h.1, h.2.trans (hran.jobs.trans hj)⟩

variable {all : Bool} (hon : q.on = .fence all) (hall : all = true → (clusterOf d c).dwq = [])
include hon hall

/-- The last operation's end ends a FENCE. -/
theorem goesOn_finishJob {e : Dev} (h : Accessed d e) {j : Job} (hj : (clusterOf d c).jobs = [j]) (k : Job) :
    GoesOn c d (finishJob e c 0 k) ∧ (clusterOf (finishJob e c 0 k) c).jobs = [] := by
  have hc := clusterOf_congr h.cl c
  have hjobs : (clusterOf (jobEnded e c 0 k) c).jobs = [] := by rw [clusterOf_jobEnded, hc, hj]; rfl
  have hplace := (h.samePlace c).trans (samePlace_jobEnded e c 0 k)
  have hmet : fenceMet (jobEnded e c 0 k) c = true := by
    refine (fenceMet_of_fence (hplace.waiting.trans hq) hon).2 ⟨hjobs, fun ha => ?_⟩
    rw [clusterOf_jobEnded, hc]
    exact hall ha
  rw [finishJob_eq]
  exact (goesOn_settle hplace hq hp hl hin hlen hmet).imp_right (fun hs => hs.trans hjobs)

theorem goesOn_completeArray {j : Job} (hj : (clusterOf d c).jobs = [j]) (hu : j.unit = .array)
    (hphase : getF d (F.mcArrStatus_phase c) ≠ 5) :
    GoesOn c d (completeArray d c) ∧ (clusterOf (completeArray d c) c).jobs = [] := by
  obtain ⟨hgo, hjobs⟩ := goesOn_finishJob hq hp hl hin hlen hon hall (.refl d) hj j
  have hnext := arrayOnly_arrayNext hjobs
  rw [completeArray_of_head (nthJob_single hj (by simp [Job.onArray, hu])) hphase]
  refine ⟨hgo.of_same hnext.waiting (fun k hk => hnext.field k ?_), hnext.jobs.trans hjobs⟩
  rcases hk with hk | hk <;> simp [hk, arrayRegs]

theorem goesOn_completeVop {j : Job} {m : Nat} (hj : (clusterOf d c).jobs = [j]) (hu : j.unit = .vec m) :
    GoesOn c d (completeVop d c 0) ∧ (clusterOf (completeVop d c 0) c).jobs = [] := by
  obtain ⟨hgo, hjobs⟩ := goesOn_finishJob hq hp hl hin hlen hon hall (.refl d) hj j
  have hcl := clusterOf_congr (forEach_endUnit_cl c (namedUnits m) (finishJob d c 0 j)) c
  rw [completeVop_eq (nthJob_single hj (by simp [Job.onVec, hu])) hu (by simp)]
  refine ⟨hgo.of_same (by rw [hcl]) (fun k hk => getF_forEach_endUnit_of_reg ?_ _ _), by rw [hcl, hjobs]⟩
  rcases hk with hk | hk <;> simp [hk]

theorem goesOn_completeMover {p : Nat} {j : Job} {m : MoveOp} (hj : (clusterOf d c).jobs = [j]) (hu : j.unit = .mover)
    (hpart : partOf d c = some p) (hm : j.move = some m) (hs : tileHeld d p m.src = false) (ht : tileHeldWrite d p m.dst = false) :
    GoesOn c d (completeMover d c 0) ∧ (clusterOf (completeMover d c 0) c).jobs = [] := by
  obtain ⟨e, k, hx, he, -, -, -⟩ := completeMover_move hpart (nthJob_single hj (by simp [Job.onMover, hu])) hm hs ht
  rw [hx]
  exact goesOn_finishJob hq hp hl hin hlen hon hall he hj k

end

/-- Settles O11: at issue by each instruction's run, later by what its wait ends with (`GoesOn`). -/
theorem waits : Obligations.Waits := by
  refine ⟨fun s p c w hi => ?_, fun s c q hg hq => ?_⟩
  · intro e k n target idle
    refine ⟨fun ho h => ?_, fun ho h => ?_, fun ho h => ?_, fun ho h => ?_, fun ho h => ?_, fun ho h => ?_, fun ho h => ?_, fun ho h => ?_,
      fun hs hc hw => ?_⟩
    · rw [exec_of_free (i := .evwait c) (go := goEvwait) rfl hi ho rfl rfl, goEvwait_run, if_pos h]
    · rw [exec_of_free (i := .evwait c) (go := goEvwait) rfl hi ho rfl rfl, goEvwait_run, if_neg (Nat.not_le.2 h)]
    · rw [exec_of_free (i := .ftcwait c) (go := goFtcwait) rfl hi ho rfl rfl, goFtcwait_run, if_pos h]
    · rw [exec_of_free (i := .ftcwait c) (go := goFtcwait) rfl hi ho rfl rfl, goFtcwait_run, if_neg (Nat.not_le.2 h)]
    · rw [exec_of_free (i := .dwqflush c) (go := goDwqflush) rfl hi ho rfl rfl, goDwqflush_run, if_pos h]
    · rw [exec_of_free (i := .dwqflush c) (go := goDwqflush) rfl hi ho rfl rfl, goDwqflush_run, if_neg h]
    · rw [exec_of_free (i := .fence c) (go := goFence) rfl hi ho rfl rfl, goFence_run_of_ended h]
    · rw [exec_of_free (i := .fence c) (go := goFence) rfl hi ho rfl rfl, goFence_run_of_not h]
    · obtain ⟨hg, -, -, -, hfetch, -⟩ := issuing_iff.1 hi
      intro t
      rw [exec_evwaitPass hg, passWait_of_wen hi hs hc hw]
      split
      · rfl
      · next ho => rw [fpostHold_of_other (by rwa [hfetch])]
  · refine ⟨fun e k consume hon => ⟨fun h => ?_, fun h => ?_⟩, fun t hon ht hnow => ?_, fun hp hl hin hlen => ?_,
      fun hp => ⟨fun hon hd => ?_, fun all hon hd => ?_⟩⟩
    · rw [exec_evwaitPass hg, passWait_of_waiting hq, passEvwait_of_event hq hon, if_pos h]
    · rw [exec_evwaitPass hg, passWait_of_waiting hq, passEvwait_of_event hq hon, if_neg (Nat.not_le.2 h)]
    · intro now passed
      have hftc : getF passed F.fabFtc_ftc = max now t := by
        have hw : F.fabFtc_ftc.width = 64 := rfl
        rw [((seqOnly_endWait _ c).trans (seqOnly_settle _ c)).field _ rfl, getF_setF_same, hw]
        exact Nat.mod_eq_of_lt (by omega)
      have hx : exec (.ftcTargetReached c) s = .next { s with dev := passing (fun d => reachFtc d c) s.dev } :=
        congrArg Host.Outcome.next (onDev_of_good hg)
      rw [hx, passing, reachFtc_of_waiting hq hon]
      exact congrArg (fun n => Host.Outcome.next { s with dev := countTicks (n - now) s.dev passed }) hftc
    · intro goesOn
      have close {r : Host.Outcome State Fault Refusal} {t : Dev} (hr : r = .next { s with dev := t })
          (h : GoesOn c s.dev t ∧ (clusterOf t c).jobs = []) : goesOn r := ⟨_, hr, h.1.waiting, h.2, h.1.pc, h.1.state, rfl⟩
      refine ⟨fun p x hon hpart hd hj hxa hxg hsk hb => ?_,
        fun all j hon hall hj => ⟨fun hu hphase => ?_, fun m hu => ?_, fun p m hu hpart hm hs ht => ?_⟩⟩
      · exact close (exec_deferredEntryRun hg c) (goesOn_runDeferred hq hp hl hin hlen hon hpart hd hj ⟨hxa, hxg, hsk, hb⟩)
      · exact close (congrArg Host.Outcome.next (onDev_of_good hg)) (goesOn_completeArray hq hp hl hin hlen hon hall hj hu hphase)
      · exact close (congrArg Host.Outcome.next (onDev_of_good hg)) (goesOn_completeVop hq hp hl hin hlen hon hall hj hu)
      · exact close (congrArg Host.Outcome.next (onDev_of_good hg))
          (goesOn_completeMover hq hp hl hin hlen hon hall hj hu hpart hm hs ht)
    · refine settle_of_unmet ?_ hp
      rw [fenceMet_of_deferred hq hon]
      simpa using hd
    · refine settle_of_unmet ?_ hp
      rw [Bool.eq_false_iff]
      intro hm
      obtain ⟨hj, hall⟩ := (fenceMet_of_fence hq hon).1 hm
      rcases hd with hd | ⟨ha, hd⟩
      · exact hd hj
      · exact hd (hall ha)

end Sys2Proof.Machine
end

section
namespace Sys2Proof.Machine

/-! The array's activity (R76 to R80, R353) -/

theorem arrStatus_phase_width (c : Nat) : (F.mcArrStatus_phase c).width = 3 := rfl
theorem arrStatus_level_width (c : Nat) : (F.mcArrStatus_level c).width = 4 := rfl
theorem arrRouse_width (c : Nat) : (F.mcArrRouse_count c).width = 64 := rfl
theorem arrStallLoad_width (c : Nat) : (F.mcArrStallLoad_count c).width = 64 := rfl

@[simp] theorem getF_newRouse (d : Dev) (c : Nat) (k : FKey) : getF (newRouse d c) k = getF d k := by
  unfold newRouse; split <;> rfl

/-- What work that arrives leaves of the hold or the ramp down that it cuts short (R77). -/
def holdEnded (d : Dev) (c : Nat) : Dev :=
  if getF d (F.mcArrStatus_phase c) = 3 then cutShort d c (holdCycles d c)
  else if getF d (F.mcArrStatus_phase c) = 4 then cutShort d c (rampStep d c) else d

/-- The cycles of the hold or ramp down that work cuts short: fewer than its whole length (log entry 36). -/
structure CutCycles (d : Dev) (c cut : Nat) : Prop where
  other : getF d (F.mcArrStatus_phase c) ≠ 3 → getF d (F.mcArrStatus_phase c) ≠ 4 → cut = 0
  hold : getF d (F.mcArrStatus_phase c) = 3 → cut < max 1 (holdCycles d c)
  ramp : getF d (F.mcArrStatus_phase c) = 4 → cut < max 1 (rampStep d c)

/-- Nothing is cut short. -/
theorem CutCycles.zero (d : Dev) (c : Nat) : CutCycles d c 0 :=
  ⟨fun _ _ => rfl, fun _ => by omega, fun _ => by omega⟩

theorem getF_cutShort_rouse (d : Dev) (c whole : Nat) : ∃ cut, cut < max 1 whole ∧
    getF (cutShort d c whole) (F.mcArrRouse_count c) = (getF d (F.mcArrRouse_count c) + cut) % 2 ^ 64 := by
  refine ⟨Config.freeCount d.free % max 1 whole, Nat.mod_lt _ (by omega), ?_⟩
  rw [← arrRouse_width c]
  exact getF_setF_same _ _ _

theorem getF_holdEnded_rouse (d : Dev) (c : Nat) : ∃ cut, CutCycles d c cut ∧
    getF (holdEnded d c) (F.mcArrRouse_count c) % 2 ^ 64 = (getF d (F.mcArrRouse_count c) + cut) % 2 ^ 64 := by
  unfold holdEnded
  split
  · next h =>
    obtain ⟨cut, hlt, hx⟩ := getF_cutShort_rouse d c (holdCycles d c)
    exact ⟨cut, ⟨fun h3 => absurd h h3, fun _ => hlt, fun h4 => by omega⟩, by rw [hx, Nat.mod_mod]⟩
  · next h =>
    split
    · next h4 =>
      obtain ⟨cut, hlt, hx⟩ := getF_cutShort_rouse d c (rampStep d c)
      exact ⟨cut, ⟨fun _ h4' => absurd h4 h4', fun h3 => absurd h3 h, fun _ => hlt⟩, by rw [hx, Nat.mod_mod]⟩
    · exact ⟨0, .zero d c, rfl⟩

/-- Beyond the cycles cut short, work that starts leaves the count of rouse cycles alone. -/
theorem getF_arrayStart_rouse (d : Dev) (c phase load : Nat) :
    getF (arrayStart d c phase load) (F.mcArrRouse_count c) = getF (holdEnded d c) (F.mcArrRouse_count c) := by
  have status (e : Dev) (lo v : Nat) : getF (setF e ⟨.mcArrStatus c, lo⟩ v) (F.mcArrRouse_count c) = getF e (F.mcArrRouse_count c) :=
    getF_setF_of_ne _ _ (FKey.ne_of_reg (by simp))
  have load' (e : Dev) (n : Nat) : getF (addF e (F.mcArrStallLoad_count c) n) (F.mcArrRouse_count c) = getF e (F.mcArrRouse_count c) :=
    getF_setF_of_ne _ _ (FKey.ne_of_reg (by simp))
  unfold arrayStart
  dsimp only
  rw [← holdEnded]
  simp only [apply_ite (fun e => getF e (F.mcArrRouse_count c)), status, load', getF_newRouse, ite_self]

/-- Work that starts below full activity ramps up first, else it runs at once (R77). -/
theorem phase_arrayStart (d : Dev) {c phase : Nat} (h : phase < 8) (load : Nat) :
    getF (arrayStart d c phase load) (F.mcArrStatus_phase c) =
      if flag d (F.mcRouseCfg_auto_en c) = true ∧ getF d (F.mcArrStatus_level c) < fullLevel d then 5 else phase := by
  unfold arrayStart
  dsimp only
  rw [apply_ite (fun e => getF e (F.mcArrStatus_phase c)), getF_setF_same, getF_setF_same, arrStatus_phase_width,
    Nat.mod_eq_of_lt (show phase < 2 ^ 3 from h)]
  simp only [Bool.and_eq_true, decide_eq_true_eq]
  rfl

/-! ROUSE enters the array (R78) -/

/-- The cycles a ROUSE counts: as many as it names, or a free number of them where it ends early (log entry 36). -/
def rouseCycles (d : Dev) (w : Nat) : Nat :=
  if bitOf w 32 then Config.freeCount d.free % (wImm w % 2 ^ 32 + 1) else wImm w % 2 ^ 32

theorem rouseCycles_le (d : Dev) (w : Nat) : rouseCycles d w ≤ wImm w % 2 ^ 32 := by
  unfold rouseCycles
  split
  · exact Nat.le_of_lt_succ (Nat.mod_lt _ (by omega))
  · exact Nat.le_refl _

/-- The module with a ROUSE of word w on the array of cluster c. -/
def rouseEntered (d : Dev) (c w : Nat) : Dev :=
  addJob (addF (arrayBusy (nextFree d).2 c 2 0) (F.mcArrRouse_count c) (rouseCycles d w)) c
    { plainJob .array w with rouse := some (bitOf w 32) }

theorem goRouse_run (p c w : Nat) (d : Dev) : (goRouse p c w d).run () = .queued (rouseEntered d c w) := rfl

theorem rouseEntered_mem (d : Dev) (c w : Nat) : (rouseEntered d c w).mem = d.mem := by
  simp [rouseEntered]

theorem arrayBusy_of_taken {d : Dev} {c : Nat} (h : arrayTaken d c = true) (phase load : Nat) :
    arrayBusy d c phase load = ungate d (.array (Fin.ofNat 28 c)) := if_pos h

theorem arrayBusy_of_idle {d : Dev} {c : Nat} (h : arrayTaken d c = false) (phase load : Nat) :
    arrayBusy d c phase load = arrayStart (ungate d (.array (Fin.ofNat 28 c))) c phase load :=
  if_neg (ne_true_of_eq_false h)

theorem rouseEntered_phase (d : Dev) (c w : Nat) : getF (rouseEntered d c w) (F.mcArrStatus_phase c) =
    if arrayTaken d c then getF d (F.mcArrStatus_phase c)
    else if flag d (F.mcRouseCfg_auto_en c) = true ∧ getF d (F.mcArrStatus_level c) < fullLevel d then 5 else 2 := by
  have hcount : getF (rouseEntered d c w) (F.mcArrStatus_phase c) = getF (arrayBusy (nextFree d).2 c 2 0) (F.mcArrStatus_phase c) :=
    getF_setF_of_ne _ _ (FKey.ne_of_reg (by simp))
  rw [hcount]
  split
  · next h =>
    rw [arrayBusy_of_taken (d := (nextFree d).2) h]
    rfl
  · next h =>
    rw [arrayBusy_of_idle (d := (nextFree d).2) (eq_false_of_ne_true h)]
    exact phase_arrayStart _ (by decide) 0

theorem rouseEntered_count (d : Dev) (c w : Nat) : ∃ cut, CutCycles d c cut ∧ (arrayTaken d c = true → cut = 0) ∧
    getF (rouseEntered d c w) (F.mcArrRouse_count c) = (getF d (F.mcArrRouse_count c) + cut + rouseCycles d w) % 2 ^ 64 := by
  have hcount : getF (rouseEntered d c w) (F.mcArrRouse_count c) =
      (getF (arrayBusy (nextFree d).2 c 2 0) (F.mcArrRouse_count c) + rouseCycles d w) % 2 ^ 64 := by
    rw [← arrRouse_width c]
    exact getF_setF_same _ _ _
  rw [hcount]
  by_cases h : arrayTaken d c = true
  · rw [arrayBusy_of_taken (d := (nextFree d).2) h]
    exact ⟨0, .zero d c, fun _ => rfl, rfl⟩
  · obtain ⟨cut, hcut, hx⟩ := getF_holdEnded_rouse (ungate (nextFree d).2 (.array (Fin.ofNat 28 c))) c
    refine ⟨cut, ⟨hcut.other, hcut.hold, hcut.ramp⟩, fun ht => absurd ht h, ?_⟩
    rw [arrayBusy_of_idle (d := (nextFree d).2) (eq_false_of_ne_true h), getF_arrayStart_rouse, Nat.add_mod, hx]
    exact (Nat.add_mod _ _ _).symm

/-! What a wen wait takes does not touch the array's settings (R33) -/

section
variable (d : Dev) (c w : Nat)

theorem rampStep_takeWen : rampStep (takeWen d c w) c = rampStep d c := by
  simp only [rampStep, clusterOf_takeWen, getF_takeWen_of_reg (k := F.mcRouseCfg_ramp_step c) (by simp)]

theorem holdCycles_takeWen : holdCycles (takeWen d c w) c = holdCycles d c := by
  simp only [holdCycles, clusterOf_takeWen, getF_takeWen_of_reg (k := F.mcRouseCfg_hold c) (by simp)]

theorem fullLevel_takeWen : fullLevel (takeWen d c w) = fullLevel d := getF_takeWen_of_reg (by simp)

theorem arrayTaken_takeWen : arrayTaken (takeWen d c w) c = arrayTaken d c := by simp only [arrayTaken, clusterOf_takeWen]

theorem arrStatus_takeWen (lo : Nat) : getF (takeWen d c w) ⟨.mcArrStatus c, lo⟩ = getF d ⟨.mcArrStatus c, lo⟩ :=
  getF_takeWen_of_reg (by simp)

theorem autoEn_takeWen : flag (takeWen d c w) (F.mcRouseCfg_auto_en c) = flag d (F.mcRouseCfg_auto_en c) :=
  congrArg (· != 0) (getF_takeWen_of_reg (by simp))

variable {d c w}

theorem cutCycles_takeWen {cut : Nat} (h : CutCycles (takeWen d c w) c cut) : CutCycles d c cut := by
  obtain ⟨ho, hh, hr⟩ := h
  rw [arrStatus_takeWen] at ho hh hr
  rw [holdCycles_takeWen] at hh
  rw [rampStep_takeWen] at hr
  exact ⟨ho, hh, hr⟩

end

theorem exec_rouse {s : State} {p : Nat} {c : ClusterId} {w : Nat} (hi : issuing s p c w = true) (ho : wOp w = 0x0D)
    (hd : (clusterOf (takeWen s.dev c w) c).dwq = []) :
    exec (.rouse c) s = .next { s with dev := finishRun c w (.queued (rouseEntered (takeWen s.dev c w) c w)) } := by
  have hf : (goRouse p c w (takeWen s.dev c w)).free = true := by
    unfold goRouse Plan.free
    rw [hd]
    rfl
  rw [exec_of_free (i := .rouse c) (go := goRouse) rfl hi ho rfl hf, goRouse_run]

/-! The oldest instruction ends (R66, R76) -/

theorem exec_matrixInstructionComplete {s : State} (hg : s.dev.powerGood = true) (c : ClusterId) :
    exec (.matrixInstructionComplete c) s = .next { s with dev := completeArray s.dev c } :=
  congrArg Host.Outcome.next (onDev_of_good hg)

theorem completeArray_of_ramp {d : Dev} {c : Nat} (h : getF d (F.mcArrStatus_phase c) = 5) : completeArray d c = d := by
  unfold completeArray
  split
  · exact if_pos h
  · rfl

theorem arrayNext_of_short {d : Dev} {c : Nat} (h : ((clusterOf d c).jobs.filter Job.onArray).length ≤ 1) : arrayNext d c =
    newRouse (if arrayTaken d c then setF d (F.mcArrStatus_phase c) (runPhase d c) else arrayIdle d c) c := by
  simp only [arrayNext, if_neg (Nat.not_lt.2 h)]

/-- With at most one instruction left, the array alone goes on. -/
theorem arrayOnly_arrayNext_of_short {d : Dev} {c : Nat} (h : ((clusterOf d c).jobs.filter Job.onArray).length ≤ 1) :
    ArrayOnly c d (arrayNext d c) := by
  rw [arrayNext_of_short h]
  exact (ArrayOnly.ite (.setF (by simp [arrayRegs]) d _) (arrayOnly_arrayIdle d c)).trans (arrayOnly_newRouse _ c)

theorem arrayNext_of_none {d : Dev} {c : Nat} (h : (clusterOf d c).jobs.any Job.onArray = false) :
    arrayNext d c = newRouse (arrayIdle d c) c := by
  have hf : (clusterOf d c).jobs.filter Job.onArray = [] := List.filter_eq_nil_iff.2 (List.any_eq_false.1 h)
  have ht : arrayTaken d c = false := h
  rw [arrayNext_of_short (by simp [hf]), ht]
  rfl

theorem phase_arrayNext_of_single {d : Dev} {c : Nat} {j : Job} (h : (clusterOf d c).jobs.filter Job.onArray = [j]) :
    getF (arrayNext d c) (F.mcArrStatus_phase c) = if j.rouse.isSome then 2 else 1 := by
  have hmem : j ∈ (clusterOf d c).jobs.filter Job.onArray := by rw [h]; exact List.mem_singleton_self j
  have htaken : arrayTaken d c = true := List.any_eq_true.2 ⟨j, List.mem_filter.1 hmem⟩
  have hhead : arrayHead d c = some j := by rw [arrayHead, ← List.head?_filter, h]; rfl
  rw [arrayNext_of_short (by simp [h]), htaken, if_pos rfl, getF_newRouse, getF_setF_same, runPhase, hhead, arrStatus_phase_width]
  dsimp only
  split <;> rfl

theorem arrayNext_acc (d : Dev) (c : Nat) : (arrayNext d c).acc = d.acc := by
  have hnext (e : Dev) : ArrayOnly c e (newRouse (if arrayTaken e c then setF e (F.mcArrStatus_phase c) (runPhase e c) else arrayIdle e c) c) :=
    (ArrayOnly.ite (.setF (by simp [arrayRegs]) e _) (arrayOnly_arrayIdle e c)).trans (arrayOnly_newRouse _ c)
  unfold arrayNext
  refine ((hnext _).same Dev.acc (fun _ _ _ _ => rfl)).trans ?_
  split
  · exact (seqOnly_endRouse d c).same Dev.acc (fun _ _ _ _ => rfl)
  · rfl

/-! An idle array (R58, R77, Table 3.6) -/

section
variable {d : Dev} {c : Nat}

theorem arrayIdle_of_guest (hg : (clusterOf d c).guest.isSome = true) (hd : (clusterOf d c).dwq = []) :
    arrayIdle d c = setF d (F.mcArrStatus_phase c) 6 := if_pos (by rw [hg, hd]; rfl)

theorem arrayIdle_of_hold (hg : (clusterOf d c).guest = none) (ha : flag d (F.mcRouseCfg_auto_en c) = true) :
    arrayIdle d c = setF d (F.mcArrStatus_phase c) 3 := by simp [arrayIdle, hg, ha]

theorem arrayIdle_of_rest (hg : (clusterOf d c).guest = none) (ha : flag d (F.mcRouseCfg_auto_en c) = false) :
    arrayIdle d c = setF (setF d (F.mcArrStatus_level c) 0) (F.mcArrStatus_phase c) 0 := by simp [arrayIdle, hg, ha]

end

/-- The end of a job leaves every field but the event counters' and the non-finite flags as it was. -/
theorem getF_jobEnded {c : Nat} {k : FKey} (hk : ∀ e, evField c e k = false) (hn : ∀ p, k.reg ≠ .fabNflag p) (d : Dev) (n : Nat)
    (j : Job) : getF (jobEnded d c n j) k = getF d k := by
  rw [jobEnded, getF_signal hk, getF_noteFlag hn]
  rfl

/-! Hold and ramps (R77, R353) -/

theorem exec_rouseHoldExpiry {s : State} (hg : s.dev.powerGood = true) (c : ClusterId) :
    exec (.rouseHoldExpiry c) s = .next { s with dev := expireHold s.dev c } :=
  congrArg Host.Outcome.next (onDev_of_good hg)

theorem exec_rampStep {s : State} (hg : s.dev.powerGood = true) (c : ClusterId) :
    exec (.rampStep c) s = .next { s with dev := rampOnce s.dev c } :=
  congrArg Host.Outcome.next (onDev_of_good hg)

section
variable {d : Dev} {c : Nat}

/-- One eighth down. -/
def rampedDown (d : Dev) (c : Nat) : Dev :=
  setF (setF d (F.mcArrRouse_count c) (getF d (F.mcArrRouse_count c) + rampStep d c)) (F.mcArrStatus_level c)
    (getF d (F.mcArrStatus_level c) - 1)

theorem rampOnce_down (h : getF d (F.mcArrStatus_phase c) = 4) : rampOnce d c =
    if getF d (F.mcArrStatus_level c) ≤ 1 then newRouse (setF (rampedDown d c) (F.mcArrStatus_phase c) 0) c else rampedDown d c := by
  unfold rampOnce
  dsimp only
  rw [if_pos h]
  rfl

/-- One eighth up, its cycles a load stall where rows are to be requested. -/
def rampedUp (d : Dev) (c : Nat) : Dev :=
  let e := setF (addF d (F.mcArrRouse_count c) (rampStep d c)) (F.mcArrStatus_level c) (min (fullLevel d) (getF d (F.mcArrStatus_level c) + 1))
  if runPhase d c = 2 then e else addF e (F.mcArrStallLoad_count c) (rampStep d c)

theorem rampOnce_up (h : getF d (F.mcArrStatus_phase c) = 5) : rampOnce d c =
    if fullLevel d ≤ getF d (F.mcArrStatus_level c) + 1 then
      newRouse (setF (rampedUp d c) (F.mcArrStatus_phase c) (runPhase d c)) c
    else rampedUp d c := by
  unfold rampOnce
  dsimp only
  rw [if_neg (by omega), if_pos h]
  rfl

theorem rampOnce_working (h4 : getF d (F.mcArrStatus_phase c) ≠ 4) (h5 : getF d (F.mcArrStatus_phase c) ≠ 5) : rampOnce d c =
    if getF d (F.mcArrStatus_phase c) = 0 ∨ getF d (F.mcArrStatus_level c) = fullLevel d then d
    else setF d (F.mcArrStatus_level c)
      (if getF d (F.mcArrStatus_level c) < fullLevel d then getF d (F.mcArrStatus_level c) + 1 else getF d (F.mcArrStatus_level c) - 1) := by
  unfold rampOnce
  dsimp only
  rw [if_neg h4, if_neg h5]

/-- A field other than the phase after one eighth up. -/
theorem getF_rampOnce_up (h : getF d (F.mcArrStatus_phase c) = 5) {k : FKey} (hk : F.mcArrStatus_phase c ≠ k) :
    getF (rampOnce d c) k = getF (rampedUp d c) k := by
  rw [rampOnce_up h]
  split
  · rw [getF_newRouse, getF_setF_of_ne _ _ hk]
  · rfl

/-- The load stalls that an eighth up counts aside, the level rises and the cycles are counted as rouse cycles. -/
theorem getF_rampedUp {k : FKey} (hk : F.mcArrStallLoad_count c ≠ k) : getF (rampedUp d c) k =
    getF (setF (addF d (F.mcArrRouse_count c) (rampStep d c)) (F.mcArrStatus_level c)
      (min (fullLevel d) (getF d (F.mcArrStatus_level c) + 1))) k := by
  unfold rampedUp
  dsimp only
  split
  · rfl
  · exact getF_setF_of_ne _ _ hk

theorem level_rampedUp (h : fullLevel d ≤ 8) :
    getF (rampedUp d c) (F.mcArrStatus_level c) = min (fullLevel d) (getF d (F.mcArrStatus_level c) + 1) := by
  rw [getF_rampedUp (FKey.ne_of_reg (by simp)), getF_setF_same, arrStatus_level_width]
  exact Nat.mod_eq_of_lt (by omega)

theorem rouse_rampedUp : getF (rampedUp d c) (F.mcArrRouse_count c) = (getF d (F.mcArrRouse_count c) + rampStep d c) % 2 ^ 64 := by
  rw [getF_rampedUp (FKey.ne_of_reg (by simp)), getF_setF_of_ne _ _ (FKey.ne_of_reg (by simp)), addF, getF_setF_same, arrRouse_width]

theorem phase_rampedUp : getF (rampedUp d c) (F.mcArrStatus_phase c) = getF d (F.mcArrStatus_phase c) := by
  rw [getF_rampedUp (FKey.ne_of_reg (by simp)), getF_setF_of_ne _ _ (FKey.ne_of_lo (by simp)), addF,
    getF_setF_of_ne _ _ (FKey.ne_of_reg (by simp))]

theorem stallLoad_rampedUp (h : runPhase d c ≠ 2) :
    getF (rampedUp d c) (F.mcArrStallLoad_count c) = (getF d (F.mcArrStallLoad_count c) + rampStep d c) % 2 ^ 64 := by
  simp only [rampedUp, if_neg h]
  rw [addF, getF_setF_same, arrStallLoad_width, getF_setF_of_ne _ _ (FKey.ne_of_reg (by simp)), addF,
    getF_setF_of_ne _ _ (FKey.ne_of_reg (by simp))]

theorem runPhase_lt (d : Dev) (c : Nat) : runPhase d c < 8 := by
  unfold runPhase
  split
  · split <;> decide
  · decide

end

/-- Settles O20: ROUSE by `rouseEntered`, an end by `arrayNext` after `jobEnded`, a ramp by `rampOnce`'s equation for its phase. -/
theorem arrayEvents : Obligations.ArrayEvents := by
  intro s c hg hfull level phase auto full step rouse
  refine ⟨fun p w hi ho hd => ?_, fun n j hn hp => ?_, fun n j hn hp hw hq => ?_, ?_⟩
  · obtain ⟨cut, hcut, hzero, hcount⟩ := rouseEntered_count (takeWen s.dev c w) c w
    have hc := cutCycles_takeWen hcut
    refine ⟨_, rouseCycles (takeWen s.dev c w) w, cut, exec_rouse hi ho hd, ?_, rouseCycles_le _ w, fun hb => ?_, fun h => ?_,
      hc.hold, hc.ramp, ?_, ?_, ?_⟩
    · rw [hcount, getF_takeWen_of_reg (by simp)]
    · simp [rouseCycles, hb]
    · rcases h with h | ⟨h3, h4⟩
      · exact hzero ((arrayTaken_takeWen ..).trans h)
      · exact hc.other h3 h4
    · rw [rouseEntered_phase, arrayTaken_takeWen, arrStatus_takeWen, arrStatus_takeWen, autoEn_takeWen, fullLevel_takeWen]
    · simp [rouseEntered, addJob, plainJob]
    · rw [rouseEntered_mem, takeWen_mem]
  · rw [exec_matrixInstructionComplete hg, completeArray_of_ramp hp]
  · intro rest
    have hx : completeArray s.dev c = arrayNext (jobEnded s.dev c n j) c := by
      rw [completeArray_of_head hn hp, finishJob_of_clear n j hw hq]
    have hc := clusterOf_jobEnded s.dev c n j
    have hend := ended_finishJob (.refl s.dev) n (j := j) rfl id hw hq
    rw [finishJob_of_clear n j hw hq] at hend
    have hfield (k : FKey) (hk : ∀ e, evField c e k = false) (hr : ∀ p, k.reg ≠ .fabNflag p) := getF_jobEnded hk hr s.dev n j
    refine ⟨_, exec_matrixInstructionComplete hg c, completeArray_mem s.dev c, ?_, fun e he hlt hshort => ?_, fun hnone => ?_,
      fun k hk => ?_⟩
    · rw [hx, arrayNext_acc]
      exact hend.acc
    · rw [hx, (arrayOnly_arrayNext_of_short (by rw [hc]; exact hshort)).field _ (by simp [arrayRegs])]
      exact hend.sig e he hlt
    · have hidle : arrayNext (jobEnded s.dev c n j) c = newRouse (arrayIdle (jobEnded s.dev c n j) c) c :=
        arrayNext_of_none (by rw [hc]; exact hnone)
      have hauto : flag (jobEnded s.dev c n j) (F.mcRouseCfg_auto_en c) = auto :=
        congrArg (· != 0) (hfield _ (by simp [evField]) (by simp))
      refine ⟨?_, fun hguest hdwq => ?_, fun hguest ha => ?_, fun hguest ha => ?_⟩
      · rw [hx, hidle, ((arrayOnly_arrayIdle _ c).trans (arrayOnly_newRouse _ c)).jobs]
        exact hend.jobs
      · rw [hx, hidle, arrayIdle_of_guest (by rw [hc]; exact hguest) (by rw [hc]; exact hdwq), getF_newRouse, getF_setF_same]
        rfl
      · rw [hx, hidle, arrayIdle_of_hold (by rw [hc]; exact hguest) (hauto.trans ha)]
        refine ⟨?_, ?_⟩
        · rw [getF_newRouse, getF_setF_of_ne _ _ (FKey.ne_of_lo (by simp)), hfield _ (by simp [evField]) (by simp)]
        · rw [getF_newRouse, getF_setF_same]
          rfl
      · rw [hx, hidle, arrayIdle_of_rest (by rw [hc]; exact hguest) (hauto.trans ha)]
        refine ⟨?_, ?_⟩
        · rw [getF_newRouse, getF_setF_of_ne _ _ (FKey.ne_of_lo (by simp)), getF_setF_same]
          rfl
        · rw [getF_newRouse, getF_setF_same]
          rfl
    · have hsingle : (clusterOf (jobEnded s.dev c n j) c).jobs.filter Job.onArray = [k] := by rw [hc]; exact hk
      refine ⟨?_, ?_⟩
      · rw [hx, (arrayOnly_arrayNext_of_short (by rw [hsingle]; exact Nat.le_refl 1)).jobs]
        exact hend.jobs
      · rw [hx, phase_arrayNext_of_single hsingle]
  · intro held down
    refine ⟨fun hp => ?_, fun hp => ?_, fun hp hl => ?_, fun hp hl => ?_, fun hp => ?_, fun h4 h5 => ⟨fun h => ?_, fun h0 hl => ?_⟩⟩
    · rw [exec_rouseHoldExpiry hg, expireHold, if_pos hp]
      rfl
    · rw [exec_rouseHoldExpiry hg, expireHold, if_neg hp]
    · rw [exec_rampStep hg, rampOnce_down hp, if_neg (Nat.not_le.2 hl)]
      rfl
    · rw [exec_rampStep hg, rampOnce_down hp, if_pos hl]
      rfl
    · have hphase : F.mcArrStatus_phase c ≠ F.mcArrStatus_level c := FKey.ne_of_lo (by simp)
      refine ⟨_, exec_rampStep hg c, ?_, ?_, fun hle => ?_, fun hlt => ?_, fun hr => ?_, rampOnce_mem s.dev c⟩
      · rw [getF_rampOnce_up hp hphase, level_rampedUp hfull]
      · rw [getF_rampOnce_up hp (FKey.ne_of_reg (by simp)), rouse_rampedUp]
      · rw [rampOnce_up hp, if_pos hle, getF_newRouse, getF_setF_same, arrStatus_phase_width]
        exact Nat.mod_eq_of_lt (runPhase_lt s.dev c)
      · rw [rampOnce_up hp, if_neg (Nat.not_le.2 hlt), phase_rampedUp]
        exact hp
      · rw [getF_rampOnce_up hp (FKey.ne_of_reg (by simp)), stallLoad_rampedUp hr]
    · rw [exec_rampStep hg, rampOnce_working h4 h5, if_pos h]
    · rw [exec_rampStep hg, rampOnce_working h4 h5, if_neg (not_or.2 ⟨h0, hl⟩)]

end Sys2Proof.Machine
end

section
namespace Sys2Proof.Machine

/-! Row retries and exclusions (R72 to R75) -/

theorem dpuRetries_width (c : Nat) : (F.mcDpuMap_retries c).width = 16 := rfl
theorem dpuOut0_width (c : Nat) : (F.mcDpuMap_out0 c).width = 7 := rfl
theorem dpuOut1_width (c : Nat) : (F.mcDpuMap_out1 c).width = 7 := rfl
theorem sparesLeft_width (c : Nat) : (F.mcDpuMap_spares_left c).width = 2 := rfl
theorem hostClusters_width (p : Nat) : (F.hostPcfg_clusters p).width = 28 := rfl

/-- The replacement advisory changes its own status and alert alone (R365). -/
theorem getF_noteWear {k : FKey} (hs : k.reg ≠ .telWearStat) (ha : k.reg ≠ .telAlert) (d : Dev) : getF (noteWear d) k = getF d k := by
  have stat (e : Dev) (lo v : Nat) : getF (setF e ⟨.telWearStat, lo⟩ v) k = getF e k := getF_setF_of_ne _ _ (FKey.ne_of_reg hs.symm)
  have alert (e : Dev) (lo v : Nat) : getF (setF e ⟨.telAlert, lo⟩ v) k = getF e k := getF_setF_of_ne _ _ (FKey.ne_of_reg ha.symm)
  unfold noteWear
  dsimp only
  split
  · rw [alert, stat, stat]
  · rw [stat]

/-- A part of the state other than the fields, as the advisory leaves it. -/
theorem noteWear_same {α : Type} (v : Dev → α) (hv : ∀ d k x, v (setF d k x) = v d) (d : Dev) : v (noteWear d) = v d := by
  unfold noteWear
  dsimp only
  split
  · rw [hv, hv, hv]
  · rw [hv]

/-! Which failures act (R72, R73) -/

/-- The failing DPU serves, in an active array of a cluster that is not retired. -/
def FailureActs (d : Dev) (c dpu : Nat) : Prop :=
  getF d (F.mcArrStatus_phase c) ≠ 0 ∧ dpu ∈ servingDpus d c ∧ flag d (F.mcDpuMap_retired c) = false

/-- A cluster's record once DPU dpu has failed for the first time. -/
def firstFailure (d : Dev) (c dpu : Nat) : Dev := modCluster d c (fun x => { x with dpuFails := dpu :: x.dpuFails })

@[simp] theorem getF_firstFailure (d : Dev) (c dpu : Nat) (k : FKey) : getF (firstFailure d c dpu) k = getF d k := rfl

section
variable {d : Dev} {c dpu : Nat}

theorem retryRow_of_quiet (h : ¬ FailureActs d c dpu) : retryRow d c dpu = d := by
  refine if_pos ?_
  by_contra hn
  obtain ⟨hp, hs, hr⟩ := not_or.1 hn |>.imp_right not_or.1
  exact h ⟨hp, by simpa using hs, by simpa using hr⟩

section
variable (h : FailureActs d c dpu)
include h

theorem retryRow_of_acts : retryRow d c dpu =
    if dpu ∈ (clusterOf d c).dpuFails then
      if getF d (F.mcDpuMap_out0 c) ≠ 0x7F ∧ getF d (F.mcDpuMap_out1 c) ≠ 0x7F then retireCluster d c
      else retryRows (steadyBroken (excludeDpu d c dpu)) c
    else retryRows (firstFailure d c dpu) c := by
  obtain ⟨hp, hs, hr⟩ := h
  simp only [retryRow, hp, hr, List.contains_eq_mem, hs, decide_true, decide_eq_true_eq, Bool.true_eq_false, Bool.false_eq_true,
    or_self, if_false]
  rfl

theorem retryRow_of_first (hf : dpu ∉ (clusterOf d c).dpuFails) : retryRow d c dpu = retryRows (firstFailure d c dpu) c := by
  rw [retryRow_of_acts h, if_neg hf]

theorem retryRow_of_spare (hf : dpu ∈ (clusterOf d c).dpuFails)
    (hs : getF d (F.mcDpuMap_out0 c) = 0x7F ∨ getF d (F.mcDpuMap_out1 c) = 0x7F) :
    retryRow d c dpu = retryRows (steadyBroken (excludeDpu d c dpu)) c := by
  rw [retryRow_of_acts h, if_pos hf, if_neg (fun ⟨h0, h1⟩ => hs.elim h0 h1)]

theorem retryRow_of_none_left (hf : dpu ∈ (clusterOf d c).dpuFails) (h0 : getF d (F.mcDpuMap_out0 c) ≠ 0x7F)
    (h1 : getF d (F.mcDpuMap_out1 c) ≠ 0x7F) : retryRow d c dpu = retireCluster d c := by
  rw [retryRow_of_acts h, if_pos hf, if_pos ⟨h0, h1⟩]

end
end

/-! The rows in flight are requested again (R73) -/

/-- The registers besides MC_DPU_MAP.retries that a retry of rows of cluster c may change. -/
def retryRegs (c : Nat) : List Reg := [.mcArrBusy c, .pwrStatus, .telWearStat, .telAlert]

/-- t is d with k rows of cluster c requested again and counted. -/
structure RowsRetried (d : Dev) (c k : Nat) (t : Dev) : Prop where
  streams : streaming d c = true → 1 ≤ k ∧ k ≤ 17
  rests : streaming d c = false → k = 0
  retries : getF d (F.mcDpuMap_retries c) ≤ 65535 →
    getF t (F.mcDpuMap_retries c) = min (getF d (F.mcDpuMap_retries c) + k) 65535
  field : ∀ x : FKey, x ≠ F.mcDpuMap_retries c → x.reg ∉ retryRegs c → getF t x = getF d x
  cl : t.cl = d.cl
  acc : t.acc = d.acc
  mem : t.mem = d.mem

theorem getF_steadyBroken_of_reg (d : Dev) {k : FKey} (h : k.reg ≠ .pwrStatus) : getF (steadyBroken d) k = getF d k :=
  getF_steadyBroken_of_ne d (FKey.ne_of_reg h.symm)

theorem rowsRetried_retryRows (d : Dev) (c : Nat) : ∃ k, RowsRetried d c k (retryRows d c) := by
  unfold retryRows
  split
  · next hs =>
    refine ⟨1 + Config.freeCount d.free % 17, fun _ => by omega, fun hn => by simp [hs] at hn, fun _ => ?_, fun x hr hx => ?_,
      steadyBroken_same Dev.cl rfl, steadyBroken_same Dev.acc rfl, steadyBroken_mem _⟩
    · rw [getF_steadyBroken_of_reg _ (by simp), addF, getF_setF_of_ne _ _ (FKey.ne_of_reg (by simp)), satF, getF_setF_same, dpuRetries_width]
      have hd : getF (nextFree d).2 (F.mcDpuMap_retries c) = getF d (F.mcDpuMap_retries c) := rfl
      rw [hd]
      exact Nat.mod_eq_of_lt (by omega)
    · simp only [retryRegs, List.mem_cons, not_or] at hx
      obtain ⟨hb, hp, -⟩ := hx
      rw [getF_steadyBroken_of_reg _ hp, addF, getF_setF_of_ne _ _ (FKey.ne_of_reg (Ne.symm hb)), satF, getF_setF_of_ne _ _ hr.symm]
      rfl
  · next hs =>
    exact ⟨0, fun h => absurd h hs, fun _ => rfl, fun h => by omega, fun _ _ _ => rfl, rfl, rfl, rfl⟩

/-- The replacement advisory is noted afterwards (R365). -/
theorem RowsRetried.noteWear {d t : Dev} {c k : Nat} (h : RowsRetried d c k t) : RowsRetried d c k (noteWear t) := by
  refine ⟨h.streams, h.rests, fun hle => (getF_noteWear (by simp) (by simp) t).trans (h.retries hle), fun x hr hx => ?_,
    (noteWear_same Dev.cl (fun _ _ _ => rfl) t).trans h.cl, (noteWear_same Dev.acc (fun _ _ _ => rfl) t).trans h.acc,
    (noteWear_mem t).trans h.mem⟩
  refine (getF_noteWear (fun e => hx ?_) (fun e => hx ?_) t).trans (h.field x hr hx) <;> simp [retryRegs, e]

/-- A lane, the spares or the retirement bit of MC_DPU_MAP. -/
theorem RowsRetried.dpuMap {d t : Dev} {c k lo : Nat} (h : RowsRetried d c k t) (hlo : lo ≠ 48) :
    getF t ⟨.mcDpuMap c, lo⟩ = getF d ⟨.mcDpuMap c, lo⟩ := h.field _ (FKey.ne_of_lo hlo) (by simp [retryRegs])

theorem streaming_congr {d e : Dev} {c : Nat} (hp : getF e (F.mcArrStatus_phase c) = getF d (F.mcArrStatus_phase c))
    (hj : (clusterOf e c).jobs = (clusterOf d c).jobs) : streaming e c = streaming d c := by
  simp only [streaming, arrayHead, hp, hj]

/-- What a failure notes before it requests rows again does not change which rows those are. -/
theorem RowsRetried.of_noted {d e t : Dev} {c k : Nat} (h : RowsRetried e c k t)
    (hp : getF e (F.mcArrStatus_phase c) = getF d (F.mcArrStatus_phase c)) (hj : (clusterOf e c).jobs = (clusterOf d c).jobs)
    (hr : getF e (F.mcDpuMap_retries c) = getF d (F.mcDpuMap_retries c)) :
    (streaming d c = true → 1 ≤ k ∧ k ≤ 17) ∧ (streaming d c = false → k = 0) ∧ (getF d (F.mcDpuMap_retries c) ≤ 65535 →
      getF t (F.mcDpuMap_retries c) = min (getF d (F.mcDpuMap_retries c) + k) 65535) := by
  rw [← streaming_congr hp hj, ← hr]
  exact ⟨h.streams, h.rests, h.retries⟩

/-! A DPU is excluded (R74) -/

/-- t is d with DPU dpu of cluster c excluded on its first free lane, and the stationary block loaded again. -/
structure DpuExcluded (d : Dev) (c dpu : Nat) (t : Dev) : Prop where
  first : getF d (F.mcDpuMap_out0 c) = 0x7F → getF t (F.mcDpuMap_out0 c) = dpu ∧ getF t (F.mcDpuMap_spares_left c) = 1
  second : getF d (F.mcDpuMap_out0 c) ≠ 0x7F → getF t (F.mcDpuMap_out1 c) = dpu ∧ getF t (F.mcDpuMap_spares_left c) = 0
  load : getF t (F.mcArrStallLoad_count c) = (getF d (F.mcArrStallLoad_count c) + loadTime (clusterOf d c).lastFmt) % 2 ^ 64
  retired : getF t (F.mcDpuMap_retired c) = getF d (F.mcDpuMap_retired c)
  retries : getF t (F.mcDpuMap_retries c) = getF d (F.mcDpuMap_retries c)
  phase : getF t (F.mcArrStatus_phase c) = getF d (F.mcArrStatus_phase c)
  cl : t.cl = d.cl
  acc : t.acc = d.acc
  mem : t.mem = d.mem

/-- The lane that a DPU is excluded on. -/
def excludedLane (d : Dev) (c : Nat) : FKey := if getF d (F.mcDpuMap_out0 c) = 0x7F then F.mcDpuMap_out0 c else F.mcDpuMap_out1 c

theorem excludedLane_cases (d : Dev) (c : Nat) :
    (getF d (F.mcDpuMap_out0 c) = 0x7F ∧ excludedLane d c = F.mcDpuMap_out0 c) ∨
    (getF d (F.mcDpuMap_out0 c) ≠ 0x7F ∧ excludedLane d c = F.mcDpuMap_out1 c) := by
  unfold excludedLane
  split
  · next h => exact Or.inl ⟨h, rfl⟩
  · next h => exact Or.inr ⟨h, rfl⟩

/-- The lanes of a cluster once a DPU is excluded. -/
def lanesSet (d : Dev) (c dpu : Nat) : Dev :=
  setF (setF d (excludedLane d c) dpu) (F.mcDpuMap_spares_left c) (if getF d (F.mcDpuMap_out0 c) = 0x7F then 1 else 0)

theorem excludeDpu_eq (d : Dev) (c dpu : Nat) : excludeDpu d c dpu =
    addF (satF (lanesSet d c dpu) F.telWear2_dpus 1) (F.mcArrStallLoad_count c) (loadTime (clusterOf d c).lastFmt) := rfl

theorem getF_lanesSet_of_ne {d : Dev} {c : Nat} {k : FKey} (h0 : F.mcDpuMap_out0 c ≠ k) (h1 : F.mcDpuMap_out1 c ≠ k)
    (hs : F.mcDpuMap_spares_left c ≠ k) (dpu : Nat) : getF (lanesSet d c dpu) k = getF d k := by
  rw [lanesSet, getF_setF_of_ne _ _ hs]
  rcases excludedLane_cases d c with ⟨-, h⟩ | ⟨-, h⟩
  · rw [h, getF_setF_of_ne _ _ h0]
  · rw [h, getF_setF_of_ne _ _ h1]

theorem dpuExcluded_excludeDpu (d : Dev) (c : Nat) {dpu : Nat} (hd : dpu < 128) :
    DpuExcluded d c dpu (steadyBroken (excludeDpu d c dpu)) := by
  have lane (lo : Nat) : getF (steadyBroken (excludeDpu d c dpu)) ⟨.mcDpuMap c, lo⟩ = getF (lanesSet d c dpu) ⟨.mcDpuMap c, lo⟩ := by
    rw [getF_steadyBroken_of_reg _ (by simp), excludeDpu_eq, addF, getF_setF_of_ne _ _ (FKey.ne_of_reg (by simp)), satF,
      getF_setF_of_ne _ _ (FKey.ne_of_reg (by simp))]
  refine ⟨fun h => ?_, fun h => ?_, ?_, ?_, ?_, ?_, steadyBroken_same Dev.cl rfl, steadyBroken_same Dev.acc rfl, by simp⟩
  · rw [lane, lane, lanesSet, excludedLane, if_pos h, if_pos h, getF_setF_same, getF_setF_of_ne _ _ (FKey.ne_of_lo (by simp)),
      getF_setF_same, dpuOut0_width]
    exact ⟨Nat.mod_eq_of_lt hd, rfl⟩
  · rw [lane, lane, lanesSet, excludedLane, if_neg h, if_neg h, getF_setF_same, getF_setF_of_ne _ _ (FKey.ne_of_lo (by simp)),
      getF_setF_same, dpuOut1_width]
    exact ⟨Nat.mod_eq_of_lt hd, rfl⟩
  · have hload : getF (satF (lanesSet d c dpu) F.telWear2_dpus 1) (F.mcArrStallLoad_count c) = getF d (F.mcArrStallLoad_count c) := by
      rw [satF, getF_setF_of_ne _ _ (FKey.ne_of_reg (by simp)), getF_lanesSet_of_ne] <;> exact FKey.ne_of_reg (by simp)
    rw [getF_steadyBroken_of_reg _ (by simp), excludeDpu_eq, addF, getF_setF_same, arrStallLoad_width, hload]
  · rw [lane, getF_lanesSet_of_ne] <;> exact FKey.ne_of_lo (by simp)
  · rw [lane, getF_lanesSet_of_ne] <;> exact FKey.ne_of_lo (by simp)
  · rw [getF_steadyBroken_of_reg _ (by simp), excludeDpu_eq, addF, getF_setF_of_ne _ _ (FKey.ne_of_reg (by simp)), satF,
      getF_setF_of_ne _ _ (FKey.ne_of_reg (by simp)), getF_lanesSet_of_ne] <;> exact FKey.ne_of_reg (by simp)

/-! A cluster is retired (R74, R294) -/

/-- A bit that is taken off a mask. -/
theorem bitOf_sub_pow {x i : Nat} (h : bitOf x i = true) (n : Nat) : bitOf ((x - 2 ^ i) % 2 ^ n) i = false := by
  have hpos : 0 < 2 ^ i := Nat.two_pow_pos i
  have hodd : x / 2 ^ i % 2 = 1 := by simpa [bitOf] using h
  have hdiv : (x - 2 ^ i) / 2 ^ i = x / 2 ^ i - 1 := by simpa using Nat.sub_mul_div x (2 ^ i) 1
  have hbit : (x - 2 ^ i).testBit i = false := by
    rw [Nat.testBit_eq_decide_div_mod_eq, hdiv]
    exact decide_eq_false (by omega)
  have hmod := Nat.testBit_mod_two_pow (x - 2 ^ i) n i
  rw [hbit, Bool.and_false, Nat.testBit_eq_decide_div_mod_eq] at hmod
  simpa [bitOf] using hmod

theorem bitOf_dropBit {d : Dev} {k : FKey} {i : Nat} : bitOf (getF (dropBit d k i) k) i = false := by
  unfold dropBit
  split
  · next h =>
    rw [getF_setF_same]
    exact bitOf_sub_pow h _
  · next h => exact eq_false_of_ne_true h

theorem getF_setRouse {k : FKey} (hk : ∀ c, k.reg ≠ .mcRouseCfg c) (d : Dev) : getF (setRouse d) k = getF d k := by
  unfold setRouse
  refine forEach_same (fun e => getF e k) (fun e c => ?_) _ d
  dsimp only
  rw [getF_setF_of_ne _ _ (FKey.ne_of_reg (hk c).symm), getF_setF_of_ne _ _ (FKey.ne_of_reg (hk c).symm)]
  split <;> rfl

/-- The cluster's retirement, as it leaves its partition. -/
def retiredFrom (d : Dev) (c : Nat) : Dev :=
  match partOf d c with
  | some p => dropBit d (F.hostPcfg_clusters p) c
  | none => d

/-- Retirement, which clears the cluster's work and counts the unit, once it has left its partition. -/
theorem getF_retireCluster {k : FKey} (hk : k.reg ≠ .telWear4) (d : Dev) (c : Nat) :
    getF (retireCluster d c) k = getF (retiredFrom (setRouse (setF d (F.mcDpuMap_retired c) 1)) c) k :=
  getF_setF_of_ne _ _ (FKey.ne_of_reg hk.symm)

theorem getF_retiredFrom {k : FKey} (hk : ∀ p, k.reg ≠ .hostPcfg p) (d : Dev) (c : Nat) : getF (retiredFrom d c) k = getF d k := by
  unfold retiredFrom dropBit
  split
  · split
    · exact getF_setF_of_ne _ _ (FKey.ne_of_reg (hk _).symm)
    · rfl
  · rfl

/-- A retired cluster is no longer its partition's. -/
theorem ownsCluster_retireCluster {d : Dev} {c p : Nat} (hp : partOf d c = some p) : ownsCluster (retireCluster d c) p c = false := by
  have hpart : partOf (setRouse (setF d (F.mcDpuMap_retired c) 1)) c = some p := by
    rw [partOf_congr (fun q => (getF_setRouse (by simp) _).trans (getF_setF_of_ne _ _ (FKey.ne_of_reg (by simp)))) c, hp]
  rw [ownsCluster, getF_retireCluster (by simp), retiredFrom, hpart]
  exact bitOf_dropBit

/-! MC_ACC_QUERY (R83) -/

/-- No field of MC_ACC_QUERY is in a stage set. -/
theorem noteDirect_accQuery (d : Dev) (who : Agent) (c v : Nat) : noteDirect d who (.mcAccQuery c) v = d := by
  cases who <;> rfl

theorem storeReg_accQuery (d : Dev) (who : Agent) (c v : Nat) :
    storeReg d who (.mcAccQuery c) v = plainStore (reachReg d (.mcAccQuery c)) (.mcAccQuery c) v :=
  congrArg (fun e => plainStore e (.mcAccQuery c) v) (noteDirect_accQuery _ who c v)

/-- t is d but for the tile that MC_ACC_QUERY of cluster c names. -/
structure TileQueried (d : Dev) (c v : Nat) (t : Dev) : Prop where
  tile : getF t (F.mcAccQuery_tile c) = v % 2 ^ 9
  field : ∀ k : FKey, k.reg ≠ .mcAccQuery c → getF t k = getF d k
  mem : t.mem = d.mem

theorem tileQueried_storeReg (d : Dev) (who : Agent) (c v : Nat) : TileQueried d c v (storeReg d who (.mcAccQuery c) v) := by
  rw [storeReg_accQuery]
  refine ⟨?_, fun k hk => ?_, ?_⟩
  · refine (getF_plainStore _ (x := ⟨0, 9, .rw, 0, .core, .none⟩) (of_decide_eq_true rfl) v).trans ?_
    simp [storedField, fieldOf]
  · rw [getF_plainStore_of_ne _ hk, getF_reachReg]
  · rw [plainStore_mem, reachReg_mem]

/-- Settles O21: a failure by the branch of `retryRow` it takes, its rows by `RowsRetried`, a lane by `DpuExcluded`. -/
theorem rowRetries : Obligations.RowRetries := by
  intro s c dpu hg acts again retries free0 free1
  have hx : exec (.rowRetry c dpu) s = .next { s with dev := noteWear (retryRow s.dev c dpu) } :=
    congrArg Host.Outcome.next (onDev_of_good hg)
  refine ⟨fun h => ?_, fun h hs => ?_, fun h ha h0 h1 => ?_, fun who v hr => ?_⟩
  · rw [hx, retryRow_of_quiet h]
  · have hret : getF s.dev (F.mcDpuMap_retired c) = 0 := by
      obtain ⟨-, -, h0⟩ := h
      simpa [flag] using h0
    by_cases ha : again
    · have hout := dpuExcluded_excludeDpu s.dev c (dpu := dpu) (by omega)
      obtain ⟨k, hk⟩ := rowsRetried_retryRows (steadyBroken (excludeDpu s.dev c dpu)) c
      replace hk := hk.noteWear
      rw [retryRow_of_spare h ha (hs.resolve_left (not_not_intro ha))] at hx
      obtain ⟨hstreams, hrests, hcount⟩ := hk.of_noted hout.phase (congrArg Cluster.jobs (clusterOf_congr hout.cl c)) hout.retries
      refine ⟨_, k, hx, hk.mem.trans hout.mem, hk.acc.trans hout.acc, ?_, hstreams, hrests, fun hle => ?_, fun hn => absurd ha hn,
        fun _ => ?_, fun _ hf => ?_, fun _ hf => ?_⟩
      · rw [hk.dpuMap (by decide), hout.retired, hret]
      · rw [hcount hle]
      · rw [hk.field _ (FKey.ne_of_reg (by simp)) (by simp [retryRegs]), hout.load]
      · rw [hk.dpuMap (by decide), hk.dpuMap (by decide)]
        exact hout.first hf
      · rw [hk.dpuMap (by decide), hk.dpuMap (by decide)]
        exact hout.second hf
    · obtain ⟨k, hk⟩ := rowsRetried_retryRows (firstFailure s.dev c dpu) c
      replace hk := hk.noteWear
      rw [retryRow_of_first h ha] at hx
      obtain ⟨hstreams, hrests, hcount⟩ := hk.of_noted (d := s.dev) (getF_firstFailure ..) (by simp [firstFailure]) (getF_firstFailure ..)
      refine ⟨_, k, hx, hk.mem, hk.acc, ?_, hstreams, hrests, fun hle => ?_, fun _ => ⟨?_, ?_, ?_⟩, fun hn => absurd hn ha,
        fun hn => absurd hn ha, fun hn => absurd hn ha⟩
      · rw [hk.dpuMap (by decide), getF_firstFailure, hret]
      · rw [hcount hle]
      · rw [clusterOf_congr hk.cl, firstFailure, clusterOf_modCluster_same]
      · rw [hk.dpuMap (by decide), getF_firstFailure]
      · rw [hk.dpuMap (by decide), getF_firstFailure]
  · rw [retryRow_of_none_left h ha h0 h1] at hx
    have dpuMap (lo : Nat) : getF (noteWear (retireCluster s.dev c)) ⟨.mcDpuMap c, lo⟩ =
        getF (setF s.dev (F.mcDpuMap_retired c) 1) ⟨.mcDpuMap c, lo⟩ := by
      rw [getF_noteWear (by simp) (by simp), getF_retireCluster (by simp), getF_retiredFrom (by simp), getF_setRouse (by simp)]
    refine ⟨_, hx, ?_, ?_, by simp, fun p hp => ?_⟩
    · rw [dpuMap, getF_setF_same]
      rfl
    · rw [dpuMap, getF_setF_of_ne _ _ (FKey.ne_of_lo (by simp))]
    · rw [ownsCluster, getF_noteWear (by simp) (by simp)]
      exact ownsCluster_retireCluster hp
  · have hq := tileQueried_storeReg { reachCluster s.dev c with bus := .none } who c v.toNat
    refine ⟨_, next_atCluster hg hr _, hq.tile, fun k hk => ?_, hq.mem.trans (reachCluster_mem s.dev c)⟩
    rw [hq.field k hk, getF_bus, getF_reachCluster]

end Sys2Proof.Machine
end

section
namespace Sys2Proof.Machine

/-! Little-endian words in memory (R4, R219) -/

@[simp] theorem length_leBytes (n v : Nat) : (leBytes n v).length = n := by
  induction n generalizing v with
  | zero => rfl
  | succ n ih => rw [leBytes, List.length_cons, ih]

theorem leNat_leBytes (n v : Nat) : leNat (leBytes n v) = v % 2 ^ (8 * n) := by
  induction n generalizing v with
  | zero => simp [leBytes, leNat, Nat.mod_one]
  | succ n ih =>
    rw [leBytes, leNat, ih, BitVec.toNat_ofNat, Nat.mul_succ, Nat.add_comm (8 * n) 8, Nat.pow_add, Nat.mod_mul]

/-- Bytes written from an address up read back in their order. -/
theorem map_memGet_memPutList {m : List Host.Cell} (hm : Memory.wf m = true) (a : Nat) (l : List Byte) :
    (List.range l.length).map (fun i => memGet (memPutList m a l) (a + i)) = l := by
  induction l generalizing m a with
  | nil => rfl
  | cons b r ih =>
    have hw := Memory.wf_memPut a b hm
    have first : memGet (memPutList (memPut m a b) (a + 1) r) a = b := by
      rw [memGet_memPutList_of_outside _ _ r hw (by omega), memGet_memPut_same a b hm]
    have others := ih hw (a + 1)
    simp only [Nat.add_assoc, Nat.add_comm 1] at others
    rw [List.length_cons, List.range_succ_eq_map, List.map_cons, List.map_map]
    exact congrArg₂ List.cons first others

/-! Writes of an agent into its partition's scratchpads (R30) -/

theorem protectedHit_of_within {d : Dev} {c lo n x k : Nat} (h : protectedHit d c lo n = false) (hl : lo ≤ x) (hk : x + k ≤ lo + n) :
    protectedHit d c x k = false := by
  simp only [protectedHit, overlapsProg, Bool.and_eq_false_iff, decide_eq_false_iff_not] at h ⊢
  exact h.imp id (fun h => by omega)

section
variable {d : Dev} {p c off : Nat} (hc : c < 28) (ho : ownsCluster d p c = true)
include hc ho

theorem agentPut_spad (hoff : off < 0x4000000) (hp : protectedHit d c off 1 = false) (b : Byte) :
    agentPut d p (spadBase c + off) b = { d with mem := memPut d.mem (spadBase c + off) b } := by
  simp [agentPut, viewPut, lostByte, keyOf, placeOf_spadBase hc hoff, ho, hp]

/-- Bytes written one by one into memory that no running program is in. -/
theorem foldl_agentPut_spad (l : List Byte) (hoff : off + l.length ≤ 0x4000000) (hp : protectedHit d c off l.length = false) :
    l.zipIdx.foldl (fun d b => agentPut d p (spadBase c + off + b.2) b.1) d =
      { d with mem := memPutList d.mem (spadBase c + off) l } := by
  suffices h : ∀ (r : List Byte) (k : Nat) (m : List Host.Cell), k + r.length ≤ l.length →
      (r.zipIdx k).foldl (fun d b => agentPut d p (spadBase c + off + b.2) b.1) { d with mem := m } =
        { d with mem := memPutList m (spadBase c + off + k) r } from h l 0 d.mem (by omega)
  intro r
  induction r with
  | nil => exact fun _ _ _ => rfl
  | cons b r ih =>
    intro k m hk
    rw [List.length_cons] at hk
    have hput : agentPut { d with mem := m } p (spadBase c + off + k) b = { d with mem := memPut m (spadBase c + off + k) b } := by
      rw [Nat.add_assoc]
      exact agentPut_spad (d := { d with mem := m }) hc ho (by omega) (protectedHit_of_within hp (by omega) (by omega)) b
    rw [List.zipIdx_cons, List.foldl_cons, hput]
    exact ih (k + 1) _ (by omega)

end

theorem Accessed.owns {d e : Dev} (h : Accessed d e) (p c : Nat) : ownsCluster e p c = ownsCluster d p c := by
  rw [ownsCluster, h.field _ (by simp [IsAccessReg])]
  rfl

/-- The word of a scratchpad that an access has written. -/
theorem viewNat_memPutList {d e : Dev} {p c off : Nat} {l : List Byte} (hc : c < 28) (hoff : off + l.length ≤ 0x4000000)
    (ho : ownsCluster e p c = true) (hw : Memory.wf d.mem = true) (hm : e.mem = memPutList d.mem (spadBase c + off) l) :
    viewNat e p (spadBase c + off) l.length = leNat l := by
  rw [viewNat_spad hc hoff ho, hm, map_memGet_memPutList hw]

/-! A queued instruction by its place (R34) -/

theorem getElem?_of_nthJob {d : Dev} {c i n : Nat} {kind : Job → Bool} {j : Job} (h : nthJob d c kind i = some (n, j)) :
    (clusterOf d c).jobs[n]? = some j := by
  obtain ⟨⟨k, m⟩, hx, he⟩ := List.mem_map.1 (List.mem_of_getElem? h)
  obtain ⟨rfl, rfl⟩ := Prod.mk.inj he
  exact List.mem_zipIdx_iff_getElem?.1 (List.mem_filter.1 hx).1

theorem jobs_putJob_same {d : Dev} {c n : Nat} {j : Job} (h : (clusterOf d c).jobs[n]? = some j) (k : Job) :
    (clusterOf (putJob d c n k) c).jobs[n]? = some k := by
  obtain ⟨hn, -⟩ := List.getElem?_eq_some_iff.1 h
  rw [putJob, clusterOf_modCluster_same]
  exact List.getElem?_set_self hn

/-! The arrival of an AADD update (R101, R102) -/

/-- The word that an update makes of the word at its address. -/
def addedWord (d : Dev) (p : Nat) (a : AddOp) : Nat :=
  let w := viewNat d p a.addr a.size
  (if isRef d p then refAdd w a.value else windowAdd (if a.size = 8 then 0 else 1) w a.value).1

theorem applyAdd_mem (d : Dev) (p : Nat) (a : AddOp) : (applyAdd d p a).1.mem =
    ((leBytes a.size (addedWord d p a)).zipIdx.foldl (fun d b => agentPut d p (a.addr + b.2) b.1) d).mem := by
  unfold applyAdd
  dsimp only
  split
  · dsimp only
    split
    · exact (deniedWrite_mem ..).trans (noteWrite_mem ..)
    · exact noteWrite_mem ..
  · exact noteWrite_mem ..

theorem applyAdd_mem_spad {d : Dev} {p c off : Nat} {a : AddOp} (hc : c < 28) (ho : ownsCluster d p c = true)
    (ha : a.addr = spadBase c + off) (hoff : off + a.size ≤ 0x4000000) (hp : protectedHit d c off a.size = false) :
    (applyAdd d p a).1.mem = memPutList d.mem a.addr (leBytes a.size (addedWord d p a)) := by
  rw [applyAdd_mem, ha, foldl_agentPut_spad hc ho _ (by rwa [length_leBytes]) (by rwa [length_leBytes])]

theorem exec_atomicWindowAdd {s : State} (hg : s.dev.powerGood = true) (c : ClusterId) (i k : Nat) :
    exec (.atomicWindowAdd c i k) s = .next { s with dev := arriveAdd s.dev c i k } :=
  congrArg Host.Outcome.next (onDev_of_good hg)

section
variable {d : Dev} {p c i k n : Nat} {j : Job} {a : AddOp} (hp : partOf d c = some p) (hn : nthJob d c Job.onMover i = some (n, j))
  (hk : j.adds[k]? = some a)
include hp hn hk

theorem arriveAdd_of_held (hh : heldWrite d p a.addr a.size = true) : arriveAdd d c i k = steadyBroken d := by
  simp only [arriveAdd, hn, hp, hk, hh, if_true]

variable (hh : heldWrite d p a.addr a.size = false)
include hh

/-- An update that arrives leaves its operation's list; beside that it is an access to its word. -/
theorem arriveAdd_of_free : ∃ e x, arriveAdd d c i k = putJob e c n x ∧ x.adds = j.adds.eraseIdx k ∧ Accessed d e ∧
    e.mem = (applyAdd d p a).1.mem := by
  refine ⟨_, { j with adds := j.adds.eraseIdx k, nonfin := j.nonfin || (applyAdd d p a).2 }, ?_, rfl,
    (accessed_applyAdd d p a).trans (accessed_noteRead _ p a.addr a.size), noteRead_mem ..⟩
  simp only [arriveAdd, hn, hp, hk, hh, Bool.false_eq_true, if_false]

theorem adds_arriveAdd : (clusterOf (arriveAdd d c i k) c).jobs[n]?.map Job.adds = some (j.adds.eraseIdx k) := by
  obtain ⟨e, x, hx, hadds, he, -⟩ := arriveAdd_of_free hp hn hk hh
  have hj : (clusterOf e c).jobs[n]? = some j := by rw [clusterOf_congr he.cl, getElem?_of_nthJob hn]
  rw [hx, jobs_putJob_same hj, Option.map_some, hadds]

/-- The word of a scratchpad takes the sum, and no other byte changes. -/
theorem arriveAdd_spad {m off : Nat} (hm : m < 28) (ho : ownsCluster d p m = true) (ha : a.addr = spadBase m + off)
    (hoff : off + a.size ≤ 0x4000000) (hprot : protectedHit d m off a.size = false) (hw : Memory.wf d.mem = true) :
    viewNat (arriveAdd d c i k) p a.addr a.size = addedWord d p a % 2 ^ (8 * a.size) ∧
    ∀ x, (x < a.addr ∨ a.addr + a.size ≤ x) → memGet (arriveAdd d c i k).mem x = memGet d.mem x := by
  obtain ⟨e, y, hx, -, he, hmem⟩ := arriveAdd_of_free hp hn hk hh
  have hlen := length_leBytes a.size (addedWord d p a)
  have howns : ownsCluster (arriveAdd d c i k) p m = true := by rw [hx]; exact (he.owns p m).trans ho
  have hput : (arriveAdd d c i k).mem = memPutList d.mem a.addr (leBytes a.size (addedWord d p a)) := by
    rw [hx, putJob_mem, hmem, applyAdd_mem_spad hm ho ha hoff hprot]
  refine ⟨?_, fun x hout => ?_⟩
  · have hview := viewNat_memPutList hm (by rwa [hlen]) howns hw (ha ▸ hput)
    rwa [hlen, leNat_leBytes, ← ha] at hview
  · rw [hput, memGet_memPutList_of_outside _ _ _ hw (by rwa [hlen])]

end

/-! ADRN and AADD (R97, R100, R101) -/

/-- e is d but for fields of registers. -/
def FieldsOnly (d e : Dev) : Prop := e = { d with f := e.f }

namespace FieldsOnly
variable {d e g : Dev}

theorem trans (h : FieldsOnly d e) (h' : FieldsOnly e g) : FieldsOnly d g := Eq.trans h' (by rw [h])

theorem ite {p : Prop} [Decidable p] (h : FieldsOnly d e) (h' : FieldsOnly d g) : FieldsOnly d (if p then e else g) := by
  split
  · exact h
  · exact h'

/-- A part of the state that is no field of a register. -/
theorem same {α : Type} (h : FieldsOnly d e) (v : Dev → α) (hv : ∀ f, v { d with f := f } = v d) : v e = v d := by
  rw [h]
  exact hv _

end FieldsOnly

theorem fieldsOnly_noteOutOfWindow (d : Dev) (c t : Nat) : FieldsOnly d (noteOutOfWindow d c t) := by
  unfold noteOutOfWindow
  dsimp only
  split
  · exact .ite rfl rfl
  · rfl

/-- Entries noted as out of window. -/
theorem fieldsOnly_forEach_noteOutOfWindow {α : Type} (c : Nat) (tile : α → Nat) (l : List α) (d : Dev) :
    FieldsOnly d (forEach l d (fun d x => noteOutOfWindow d c (tile x))) :=
  forEach_keeps (P := FieldsOnly d) (fun e x h => h.trans (fieldsOnly_noteOutOfWindow e c (tile x))) l d rfl

/-- What ADRN makes of the entry at place x of its group. -/
def drainedEntry (d : Dev) (p c w : Nat) (x : Nat × Nat) : Drained :=
  let td := descOf d c (wTa w)
  let win := groupWin d c (wAcc w)
  let g := groupEntry (wAcc w) td.cols x.1 x.2
  let e := accAt d c g.1 g.2
  match fpOf td.fmt with
  | some f => drainFloat (isRef d p) win f (wCvt w)
      (roundingDraw (getF d (F.mcRngSeed_seed c)) (getF d (F.mcGyle_gyle c)) td.tensor (td.index x.1 x.2)) e
  | none => let r := drainWord (isRef d p) win.wfmt e; ⟨r.1, r.2, false⟩

/-- The codes of a drained group written to the destination tile. -/
def tileDrained (d : Dev) (p c w : Nat) : Dev :=
  let td := descOf d c (wTa w)
  forEach (places td.rows td.cols) d (fun e x => tilePut e p td x.1 x.2 (drainedEntry d p c w x).code)

theorem accessed_tileDrained (d : Dev) (p c w : Nat) : Accessed d (tileDrained d p c w) :=
  .forEach (fun e _ => accessed_putLine e p (descOf d c (wTa w)) _ _ _) _ d

/-- ADRN enters the array's queue with its tile written, and notes in registers alone what it found. -/
theorem goAdrn_run (p c w : Nat) (d : Dev) :
    ∃ e t, (goAdrn p c w d).run () = .queued t ∧ FieldsOnly (tileDrained d p c w) e ∧ OnArray c e t := by
  refine ⟨_, _, rfl, ?_, onArray_intoAcc ..⟩
  have noted (l : List (Nat × Nat)) := fieldsOnly_forEach_noteOutOfWindow c
    (fun x : Nat × Nat => (groupEntry (wAcc w) (descOf d c (wTa w)).cols x.1 x.2).1) l (tileDrained d p c w)
  exact .ite ((noted _).trans rfl) (noted _)

/-- AADD's update of entry (i, j) of its group. -/
def drainUpdate (d : Dev) (p c w i j : Nat) : AddOp :=
  let td := descOf d c (wTa w)
  let g := groupEntry (wAcc w) td.cols i j
  ⟨td.addr (td.at i j).1 (td.offset (td.at i j).2), td.size,
    (drainWord (isRef d p) (groupWin d c (wAcc w)).wfmt (accAt d c g.1 g.2)).1⟩

/-- AADD enters the mover's queue with its updates, and notes in registers alone what it found. -/
theorem goAadd_run (p c w : Nat) (d : Dev) : ∃ e j, (goAadd p c w d).run () = .queued (addJob e c j) ∧ FieldsOnly d e ∧
    j.unit = .mover ∧
    j.adds = (places (descOf d c (wTa w)).rows (descOf d c (wTa w)).cols).map (fun x => drainUpdate d p c w x.1 x.2) :=
  ⟨_, _, rfl, fieldsOnly_forEach_noteOutOfWindow .., rfl, rfl⟩

theorem jobs_addJob (d : Dev) (c : Nat) (j : Job) : (clusterOf (addJob d c j) c).jobs = (clusterOf d c).jobs ++ [j] := by
  rw [addJob, clusterOf_modCluster_same]

/-- ADRN writes its group's codes, and leaves the entries as they are. -/
theorem exec_adrn {s : State} {p : Nat} {c : ClusterId} {w : Nat} (hi : issuing s p c w = true) (ho : wOp w = 0x29)
    (hf : (goAdrn p c w (takeWen s.dev c w)).free = true) :
    ∃ t, exec (.adrn c) s = .next { s with dev := finishRun c w (.queued t) } ∧ t.acc = (takeWen s.dev c w).acc ∧
      t.wins = (takeWen s.dev c w).wins ∧ t.mem = (tileDrained (takeWen s.dev c w) p c w).mem := by
  obtain ⟨e, t, ht, he, hx⟩ := goAdrn_run p c w (takeWen s.dev c w)
  have ha := accessed_tileDrained (takeWen s.dev c w) p c w
  refine ⟨t, (exec_of_free (i := .adrn c) (go := goAdrn) rfl hi ho rfl hf).trans (by rw [ht]), ?_, ?_, ?_⟩
  · exact (hx.acc.trans (he.same Dev.acc (fun _ => rfl))).trans ha.acc
  · exact (hx.wins.trans (he.same Dev.wins (fun _ => rfl))).trans (ha.same Dev.wins (fun _ _ _ _ _ _ _ _ _ _ _ _ => rfl))
  · exact hx.mem.trans (he.same Dev.mem (fun _ => rfl))

/-- AADD queues its updates on the mover, and leaves the entries and memory as they are. -/
theorem exec_aadd {s : State} {p : Nat} {c : ClusterId} {w : Nat} (hi : issuing s p c w = true) (ho : wOp w = 0x2C)
    (hf : (goAadd p c w (takeWen s.dev c w)).free = true) :
    let e := takeWen s.dev c w
    ∃ t j, exec (.aadd c) s = .next { s with dev := finishRun c w (.queued t) } ∧ t.acc = e.acc ∧ t.wins = e.wins ∧ t.mem = e.mem ∧
      (clusterOf t c).jobs = (clusterOf e c).jobs ++ [j] ∧ j.unit = .mover ∧
      j.adds = (places (descOf e c (wTa w)).rows (descOf e c (wTa w)).cols).map (fun x => drainUpdate e p c w x.1 x.2) := by
  intro e
  obtain ⟨g, j, ht, hg, hu, hadds⟩ := goAadd_run p c w e
  refine ⟨addJob g c j, j, (exec_of_free (i := .aadd c) (go := goAadd) rfl hi ho rfl hf).trans (by rw [ht]),
    hg.same Dev.acc (fun _ => rfl), hg.same Dev.wins (fun _ => rfl), hg.same Dev.mem (fun _ => rfl), ?_, hu, hadds⟩
  rw [jobs_addJob, clusterOf_congr (hg.same Dev.cl (fun _ => rfl))]

/-- Settles O16: ADRN by the tile it writes (`tileDrained`), AADD by the updates it queues, and an update's arrival as an access that
leaves the word `addedWord`. -/
theorem drainingTiles : Obligations.DrainingTiles := by
  refine ⟨fun s p c w hi => ?_, fun s p c i k n j a hg hp hn hk hh => ?_, fun s p c i k n j a hg hp hn hk hh => ?_⟩
  · intro e td win entry code
    have hcode (x : Nat × Nat) : (drainedEntry e p c w x).code = code x.1 x.2 := by
      simp only [drainedEntry, code, entry, win, td]
      cases fpOf (descOf e c (wTa w)).fmt <;> rfl
    refine ⟨fun ho hf => ?_, exec_aadd hi⟩
    simp only [← hcode]
    exact exec_adrn hi ho hf
  · refine ⟨_, exec_atomicWindowAdd hg c i k, adds_arriveAdd hp hn hk hh, fun hw m off _ hoff ho hm ha hprot => ?_⟩
    obtain ⟨hview, hother⟩ := arriveAdd_spad hp hn hk hh hm ho ha hoff hprot hw
    refine ⟨hview.trans ?_, hother⟩
    unfold addedWord
    split <;> rfl
  · rw [exec_atomicWindowAdd hg, arriveAdd_of_held hp hn hk hh]

end Sys2Proof.Machine
end

section
namespace Sys2Proof.Machine

/-! What the writes of a VOP leave (R172, R174, R179) -/

/-- The accumulators and their windows as they were. -/
structure AccsKept (d e : Dev) : Prop where
  acc : e.acc = d.acc
  wins : e.wins = d.wins

theorem AccsKept.refl (d : Dev) : AccsKept d d := ⟨rfl, rfl⟩

theorem AccsKept.trans {d e g : Dev} (h : AccsKept d e) (h' : AccsKept e g) : AccsKept d g :=
  ⟨h'.acc.trans h.acc, h'.wins.trans h.wins⟩

theorem Accessed.accsKept {d e : Dev} (h : Accessed d e) : AccsKept d e :=
  ⟨h.acc, h.same Dev.wins (fun _ _ _ _ _ _ _ _ _ _ _ _ => rfl)⟩

theorem accsKept_forEach {α : Type} {step : Dev → α → Dev} (hs : ∀ d a, AccsKept d (step d a)) (l : List α) (d : Dev) :
    AccsKept d (forEach l d step) :=
  forEach_keeps (P := fun e => AccsKept d e) (fun e a h => h.trans (hs e a)) l d (.refl d)

theorem accsKept_writeResults {α : Type} {put : Dev → (Nat → Nat → Dev) → α → Dev × Bool} (hp : ∀ e v x, AccsKept e (put e v x).1)
    (d : Dev) (bad : Nat → Bool) (m : Nat) (xs : List α) : AccsKept d (writeResults d bad m xs put).1 := by
  refine List.foldlRecOn (motive := fun x : Dev × Bool => AccsKept d x.1) _ _ ?_ (fun x hx y _ => hx.trans (hp _ _ _))
  dsimp only
  split
  · exact ⟨rfl, rfl⟩
  · exact .refl d

theorem accsKept_tilePut (d : Dev) (p : Nat) (t : Desc) (r c code : Nat) : AccsKept d (tilePut d p t r c code) :=
  (accessed_putLine ..).accsKept

theorem accsKept_writeCodes (d : Dev) (p : Nat) (t : Desc) (rows cols : Nat) (bad : Nat → Bool) (sel : Dev → Nat → Nat → Bool)
    (code : (Nat → Dev) → Nat → Nat → Nat × Bool) : AccsKept d (writeCodes d p t rows cols bad sel code).1 := by
  refine accsKept_writeResults (fun e v x => ?_) ..
  split
  · exact accsKept_tilePut ..
  · exact .refl e

theorem accsKept_writeMask (d : Dev) (o : Vop) (t : Desc) (rows cols : Nat) (bad : Nat → Bool) (bit : (Nat → Dev) → Nat → Nat → Bool) :
    AccsKept d (writeMask d o t rows cols bad bit) := accsKept_writeResults (fun _ _ _ => accsKept_tilePut ..) ..

theorem accsKept_writeBlocks (d : Dev) (p : Nat) (t : Desc) (bad : Nat → Bool) (sel : Dev → Nat → Nat → Bool)
    (val : (Nat → Dev) → Nat → Nat → Val) : AccsKept d (writeBlocks d p t bad sel val).1 := by
  refine accsKept_writeResults (fun e v nk => ?_) ..
  extract_lets pos chosen b
  split
  · exact (accessed_putLine ..).accsKept
  · exact .refl e

theorem accsKept_keepScale (d : Dev) (c s : Nat) (before after : Desc) : AccsKept d (keepScale d c s before after) := by
  unfold keepScale
  split
  · exact ⟨rfl, rfl⟩
  · exact .refl d

theorem accsKept_intoUnits (d : Dev) (o : Vop) (rows cols cost : Nat) (ops : List Desc) (nonfin : Bool) :
    AccsKept d (intoUnits d o rows cols cost ops nonfin) := by
  have busy : AccsKept d (unitsBusy d o.c (wVus o.w)) := by
    refine accsKept_forEach (fun d u => ?_) ..
    split
    · exact ⟨rfl, rfl⟩
    · split
      · exact ⟨rfl, rfl⟩
      · exact .refl d
  have counted (d : Dev) : AccsKept d (countVop d o.c (wVus o.w) rows cols cost) := 
    accsKept_forEach (step := fun d (x : Nat × Nat) => countUnit d o.c x.1 _) (fun _ _ => ⟨rfl, rfl⟩) ..
  exact (busy.trans (counted _)).trans ⟨rfl, rfl⟩

theorem jobs_intoUnits (d : Dev) (o : Vop) (rows cols cost : Nat) (ops : List Desc) (nonfin : Bool) :
    (clusterOf (intoUnits d o rows cols cost ops nonfin) o.c).jobs.getLast?.map (fun j => (j.unit, j.nonfin)) =
      some (.vec (wVus o.w), nonfin) := by
  simp [intoUnits, jobs_addJob, plainJob]

/-! Results written in order (R174): vd overlaps no source inexactly -/

theorem clashes_of_exact {bad : Nat → Bool} (h : ∀ i, bad i = false) : clashes bad = false := by simp [clashes, h]

theorem look_of_exact {bad : Nat → Bool} (h : ∀ i, bad i = false) (d e : Dev) (n : Nat) : look d e bad n = fun _ => d := by
  funext i
  simp [look, h]

theorem writeResults_of_exact {α : Type} {bad : Nat → Bool} (h : ∀ i, bad i = false) (d : Dev) (m : Nat) (xs : List α)
    (put : Dev → (Nat → Nat → Dev) → α → Dev × Bool) : writeResults d bad m xs put =
      xs.foldl (fun x y => ((put x.1 (fun _ _ => d) y).1, x.2 || (put x.1 (fun _ _ => d) y).2)) (d, false) := by
  have order : arrivals d.free m bad xs = xs.zipIdx := by simp [arrivals, clashes_of_exact h]
  rw [writeResults, order, if_neg (by simp [clashes_of_exact h])]
  simp only [look_of_exact h]
  conv_rhs => rw [← List.zipIdx_map_fst 0 xs, List.foldl_map]

/-- Writing the chosen places one after another, each with its finding. -/
theorem foldl_chosen {α : Type} (chosen : α → Bool) (put : Dev → α → Dev) (found : α → Bool) (l : List α) (d : Dev) (b : Bool) :
    l.foldl (fun (x : Dev × Bool) y => ((if chosen y then (put x.1 y, found y) else (x.1, false)).1,
      x.2 || (if chosen y then (put x.1 y, found y) else (x.1, false)).2)) (d, b) =
      ((l.filter chosen).foldl put d, b || (l.filter chosen).any found) := by
  induction l generalizing d b with
  | nil => simp
  | cons y l ih =>
    rw [List.foldl_cons, ih, List.filter_cons]
    cases chosen y <;> simp [Bool.or_assoc]

theorem writeCodes_of_exact {bad : Nat → Bool} (h : ∀ i, bad i = false) (d : Dev) (p : Nat) (t : Desc) (sel : Dev → Nat → Nat → Bool)
    (rows cols : Nat) (code : (Nat → Dev) → Nat → Nat → Nat × Bool) :
    let chosen := (places rows cols).filter (fun x => sel d x.1 x.2)
    writeCodes d p t rows cols bad sel code =
      (chosen.foldl (fun e x => tilePut e p t x.1 x.2 (code (fun _ => d) x.1 x.2).1) d,
        chosen.any (fun x => (code (fun _ => d) x.1 x.2).2)) := by
  intro chosen
  rw [writeCodes, writeResults_of_exact h]
  exact (foldl_chosen (fun x : Nat × Nat => sel d x.1 x.2) (fun e x => tilePut e p t x.1 x.2 (code (fun _ => d) x.1 x.2).1)
    (fun x => (code (fun _ => d) x.1 x.2).2) _ d false).trans (by rw [Bool.false_or])

/-- The block b of the stored line n of a Q8L tile, encoded from the values of the chosen elements and the old values of the others. -/
def blockCode (d : Dev) (p : Nat) (t : Desc) (sel : Dev → Nat → Nat → Bool) (val : (Nat → Dev) → Nat → Nat → Val) (n b : Nat) :
    Nat × List Nat × Bool :=
  let pos (n i : Nat) : Nat × Nat := if t.trans then (i, n) else (n, i)
  let chosen (n i : Nat) : Bool := sel d (pos n i).1 (pos n i).2
  q8lEncode ((List.range 256).map (fun i =>
    let k := 256 * b + i
    (if chosen n k then val (fun _ => d) (pos n k).1 (pos n k).2 else tileVal d p t (pos n k).1 (pos n k).2).scale (-t.exp)))

theorem writeBlocks_of_exact {bad : Nat → Bool} (h : ∀ i, bad i = false) (d : Dev) (p : Nat) (t : Desc) (sel : Dev → Nat → Nat → Bool)
    (val : (Nat → Dev) → Nat → Nat → Val) :
    let pos (n i : Nat) : Nat × Nat := if t.trans then (i, n) else (n, i)
    let some256 := (places t.lines (cdiv t.lineLen 256)).filter (fun x =>
      (List.range 256).any (fun i => sel d (pos x.1 (256 * x.2 + i)).1 (pos x.1 (256 * x.2 + i)).2))
    writeBlocks d p t bad sel val =
      (some256.foldl (fun e x => putLine e p t x.1 (258 * x.2)
        ((blockCode d p t sel val x.1 x.2).2.1.map (BitVec.ofNat 8) ++ leBytes 2 (blockCode d p t sel val x.1 x.2).1)) d,
        some256.any (fun x => (blockCode d p t sel val x.1 x.2).2.2)) := by
  intro pos some256
  rw [writeBlocks, writeResults_of_exact h]
  exact (foldl_chosen
    (fun x : Nat × Nat => (List.range 256).any (fun i => sel d (pos x.1 (256 * x.2 + i)).1 (pos x.1 (256 * x.2 + i)).2))
    (fun e x => putLine e p t x.1 (258 * x.2)
        ((blockCode d p t sel val x.1 x.2).2.1.map (BitVec.ofNat 8) ++ leBytes 2 (blockCode d p t sel val x.1 x.2).1))
    (fun x => (blockCode d p t sel val x.1 x.2).2.2) _ d false).trans (by rw [Bool.false_or])

/-! A VOP whose results are written as it issues (R169) -/

/-- The VOP w of cluster c runs: memory is as its writes m leave it, and its entry in the queues of its units holds what it found. -/
def VopWrites (s : State) (c : ClusterId) (w : Nat) (i : Instr) (m : Dev) (nonfin : Bool) : Prop :=
  ∃ t, exec i s = .next { s with dev := finishRun c w (.queued t) } ∧ t.mem = m.mem ∧ t.acc = (takeWen s.dev c w).acc ∧
    t.wins = (takeWen s.dev c w).wins ∧
    (clusterOf t c).jobs.getLast?.map (fun j => (j.unit, j.nonfin)) = some (.vec (wVus w), nonfin)

theorem goVop_of_le {go : Nat → Nat → Nat → Dev → Plan} {p c w : Nat} {d : Dev} (h : wFn w ≤ 0x10) : goVop go p c w d = go p c w d :=
  if_neg (by omega)

theorem vopWrites_of_free {s : State} {i : Instr} {p : Nat} {c : ClusterId} {w fn rows cols cost : Nat}
    {go : Nat → Nat → Nat → Dev → Plan} {ops : List Desc} {m : Dev} {nonfin : Bool}
    (he : exec i s = .next (onDev (vopStep fn go c) s)) (hfn : wFn w = fn) (hle : fn ≤ 0x10)
    (hrun : (go p c w (takeWen s.dev c w)).run () = .queued (intoUnits m ⟨p, c, w⟩ rows cols cost ops nonfin))
    (hm : AccsKept (takeWen s.dev c w) m) (hi : issuing s p c w = true) (ho : wOp w = 0x30)
    (hf : (go p c w (takeWen s.dev c w)).free = true) : VopWrites s c w i m nonfin := by
  have hgo : goVop go p c w (takeWen s.dev c w) = go p c w (takeWen s.dev c w) := goVop_of_le (hfn ▸ hle)
  have kept := hm.trans (accsKept_intoUnits m ⟨p, c, w⟩ rows cols cost ops nonfin)
  refine ⟨intoUnits m ⟨p, c, w⟩ rows cols cost ops nonfin, ?_, intoUnits_mem .., kept.acc, kept.wins, jobs_intoUnits ..⟩
  have h := exec_of_free (go := goVop go) (sel := fun w => wFn w == fn || decide (wFn w > 0x10)) he hi ho (by simp [hfn])
    (by rw [hgo]; exact hf)
  rw [h, hgo, hrun]

theorem resolveScale_fmt (d : Dev) (c : Nat) (t : Desc) : (resolveScale d c t).fmt = t.fmt := by unfold resolveScale; split <;> rfl

/-- Settles O23: each instruction by the writes it runs (`vopWrites_of_free`), and writes in order by a fold over the places chosen
(`writeResults_of_exact`, `foldl_chosen`). -/
theorem vectorElements : Obligations.VectorElements := by
  refine ⟨fun s p c w hi ho => ?_, fun d p t bad sel h => ⟨writeCodes_of_exact h d p t sel, writeBlocks_of_exact h d p t sel⟩⟩
  intro e o ra rb rd ms seed gyle kept writes both
  refine ⟨fun hw hf => ?vcmp, fun hw hf hq => ?vselCodes, fun hw hf hq => ?vselBlocks, fun f hw hf hq => ?vcvtCodes,
    fun hw hf hq => ?vcvtBlocks, fun hw hf => ?vmask, fun hw hf hq => ?vrngCodes, fun hw hf hq => ?vrngMask, fun f hw hf hq => ?vseq⟩
  case vcmp => exact vopWrites_of_free (go := goVcmp) rfl hw (by decide) rfl (accsKept_writeMask ..) hi ho hf
  case vselCodes =>
    exact vopWrites_of_free (go := goVsel) rfl hw (by decide) (by simp only [goVsel, issueVop]; rw [if_neg hq]; rfl)
      (accsKept_writeCodes ..) hi ho hf
  case vselBlocks =>
    exact vopWrites_of_free (go := goVsel) rfl hw (by decide) (by simp only [goVsel, issueVop]; rw [if_pos hq]; rfl)
      (accsKept_writeBlocks ..) hi ho hf
  case vcvtCodes =>
    exact vopWrites_of_free (go := goVcvt) rfl hw (by decide)
      (by simp only [goVcvt, issueVop, convTile, resolveScale_fmt]; rw [hq]; rfl)
      ((accsKept_keepScale ..).trans (accsKept_writeCodes ..)) hi ho hf
  case vcvtBlocks =>
    exact vopWrites_of_free (go := goVcvt) rfl hw (by decide)
      (by simp only [goVcvt, issueVop, resolveScale_fmt]; rw [hq]; rfl)
      ((accsKept_keepScale ..).trans (accsKept_writeBlocks ..)) hi ho hf
  case vmask => exact vopWrites_of_free (go := goVmask) rfl hw (by decide) rfl (accsKept_writeCodes ..) hi ho hf
  case vrngCodes =>
    exact vopWrites_of_free (go := goVrng) rfl hw (by decide) (by rw [goVrng, if_neg hq]; rfl) (accsKept_writeCodes ..) hi ho hf
  case vrngMask =>
    exact vopWrites_of_free (go := goVrng) rfl hw (by decide) (by rw [goVrng, if_pos hq]; rfl) (accsKept_writeMask ..) hi ho hf
  case vseq =>
    exact vopWrites_of_free (go := goVseq) rfl hw (by decide) (by simp only [goVseq, issueVop, resolveScale_fmt]; rw [hq]; rfl)
      (accsKept_writeCodes ..) hi ho hf

end Sys2Proof.Machine
end

section
namespace Sys2Proof.Machine

/-! What sending and taking messages changes (R255, R256, R261): the ports alone -/

/-- e is d but for its ports. -/
def PortsOnly (d e : Dev) : Prop := e = { d with ports := e.ports }

namespace PortsOnly
variable {d e g : Dev}

theorem refl (d : Dev) : PortsOnly d d := rfl

theorem trans (h : PortsOnly d e) (h' : PortsOnly e g) : PortsOnly d g := Eq.trans h' (by rw [h])

/-- A part of the state that is no port. -/
theorem same {α : Type} (h : PortsOnly d e) (v : Dev → α) (hv : ∀ x, v { d with ports := x } = v d) : v e = v d := by
  rw [h]
  exact hv _

theorem colls (h : PortsOnly d e) : e.colls = d.colls := h.same Dev.colls (fun _ => rfl)
theorem mem (h : PortsOnly d e) : e.mem = d.mem := h.same Dev.mem (fun _ => rfl)
theorem chans (h : PortsOnly d e) : e.chans = d.chans := h.same Dev.chans (fun _ => rfl)
theorem field (h : PortsOnly d e) (k : FKey) : getF e k = getF d k := h.same (fun x => getF x k) (fun _ => rfl)

theorem forEach {α : Type} {step : Dev → α → Dev} (hs : ∀ d a, PortsOnly d (step d a)) (l : List α) (d : Dev) :
    PortsOnly d (forEach l d step) :=
  forEach_keeps (P := fun e => PortsOnly d e) (fun e a h => h.trans (hs e a)) l d (refl d)

end PortsOnly

theorem portsOnly_takeMsg {d e : Dev} {n vc kind : Nat} {ok : Msg → Bool} {m : Msg} (h : takeMsg d n vc kind ok = some (m, e)) :
    PortsOnly d e := by
  obtain ⟨x, -, hx⟩ := Option.map_eq_some_iff.1 h
  rw [← (Prod.mk.inj hx).2]
  rfl

theorem portsOnly_takeSb {d e : Dev} {n type : Nat} {ok : SbMsg → Bool} {m : SbMsg} (h : takeSb d n type ok = some (m, e)) :
    PortsOnly d e := by
  obtain ⟨x, -, hx⟩ := Option.map_eq_some_iff.1 h
  rw [← (Prod.mk.inj hx).2]
  rfl

theorem portsOnly_sendSb (d : Dev) (n : Nat) (m : SbMsg) : PortsOnly d (sendSb d n m) := rfl

theorem portsOnly_queueFlits (d : Dev) (n source : Nat) (fs : List Flit) : PortsOnly d (queueFlits d n source fs) := by
  unfold queueFlits
  split <;> rfl

theorem portsOnly_sendMsg (d : Dev) (m : Msg) (vc : Nat) : PortsOnly d (sendMsg d m vc) := by
  unfold sendMsg
  split
  · exact portsOnly_queueFlits ..
  · rfl

theorem portsOnly_sendTo (d : Dev) (m : Msg) (response : Bool) : PortsOnly d (sendTo d m response) := portsOnly_sendMsg ..

theorem portsOnly_sendHop (d : Dev) (k : Coll) (j s : Nat) (plus : Bool) (off : Nat) (data : List Byte) :
    PortsOnly d (sendHop d k j s plus off data) := portsOnly_queueFlits ..

theorem portsOnly_sendBlock (d : Dev) (k : Coll) (j s : Nat) (l : List Byte) : PortsOnly d (sendBlock d k j s l) :=
  (PortsOnly.forEach (step := fun d (x : Nat × List Byte) => sendHop d k j s true x.1 x.2) (fun _ _ => portsOnly_sendHop ..) _ d).trans
    (.forEach (fun _ _ => portsOnly_sendHop ..) _ _)

theorem portsOnly_sendChain (d : Dev) (k : Coll) (step r : Nat) (l : List Byte) : PortsOnly d (sendChain d k step r l) :=
  .forEach (fun _ _ => portsOnly_sendMsg ..) _ _

/-! WRITE and READ (R217, R237, R255, R256) -/

section
variable {s : State} (hg : s.dev.powerGood = true) (n : PortId) (vc : Fin 8)
include hg

theorem exec_write : exec (.write n vc) s = .next { s with dev := writeMessage s.dev n vc } :=
  congrArg Host.Outcome.next (onDev_of_good hg)

theorem exec_read : exec (.read n vc) s = .next { s with dev := readMessage s.dev n vc } :=
  congrArg Host.Outcome.next (onDev_of_good hg)

theorem exec_resp : exec (.resp n vc) s = .next { s with dev := respMessage s.dev n vc } :=
  congrArg Host.Outcome.next (onDev_of_good hg)

theorem exec_coll : exec (.coll n vc) s = .next { s with dev := collMessage s.dev n vc } :=
  congrArg Host.Outcome.next (onDev_of_good hg)

theorem exec_abort : exec (.abort n vc) s = .next { s with dev := abortMessage s.dev n vc } :=
  congrArg Host.Outcome.next (onDev_of_good hg)

end

section
variable {d e : Dev} {n vc : Nat} {m : Msg}

theorem writeMessage_of_taken (h : takeMsg d n vc 0 (fun m => !heldWrite d m.dpart (buddyAddr d m.dpart m.src m.addr true) m.data.length) =
    some (m, e)) : writeMessage d n vc =
      if fabricMay d m.dpart (buddyAddr d m.dpart m.src m.addr true) m.data.length then
        guardedPut e m.dpart (buddyAddr d m.dpart m.src m.addr true) m.data
      else fabricDenied e m.dpart (buddyAddr d m.dpart m.src m.addr true) m.data.length := by
  simp only [writeMessage, h]

theorem writeMessage_of_held (h : takeMsg d n vc 0 (fun m => !heldWrite d m.dpart (buddyAddr d m.dpart m.src m.addr true) m.data.length) =
    none) (hm : (takeMsg d n vc 0 (fun _ => true)).isSome = true) : writeMessage d n vc = steadyBroken d := by
  simp only [writeMessage, h, hm, if_true]

theorem readMessage_of_held (h : takeMsg d n vc 1 (fun m => !heldRange d m.dpart (buddyAddr d m.dpart m.src m.addr false) m.length) = none)
    (hm : (takeMsg d n vc 1 (fun _ => true)).isSome = true) : readMessage d n vc = steadyBroken d := by
  simp only [readMessage, h, hm, if_true]

/-- The RESP to a READ, with a list of bytes and the outcome it tells. -/
def readReply (d : Dev) (m : Msg) (step : Nat) (l : List Byte) : Msg :=
  { m with kind := 2, part := m.dpart, src := getF d F.fabCoord_module, dst := (Config.moduleCoord m.src).toNat, dpart := m.part, addr := 0
           length := l.length, step := step, data := l }

/-- A page of the bytes a READ asks for is lost. -/
def ReadsLost (d : Dev) (m : Msg) (a : Nat) : Prop :=
  ∃ x ∈ pagesTouched d m.dpart a m.length, ∃ y, pageAt d m.dpart x.1 x.2 = some y ∧ y.poison = .lost

theorem readMessage_of_granted (h : takeMsg d n vc 1 (fun m => !heldRange d m.dpart (buddyAddr d m.dpart m.src m.addr false) m.length) =
    some (m, e)) (hmay : fabricMay d m.dpart (buddyAddr d m.dpart m.src m.addr false) m.length = true ∧ 1 ≤ m.length ∧ m.length ≤ 16384)
    {lost : Bool} (hlost : lost = true ↔ ReadsLost d m (buddyAddr d m.dpart m.src m.addr false)) :
    readMessage d n vc = sendTo (noteRead e m.dpart (buddyAddr d m.dpart m.src m.addr false) m.length)
      (readReply d m (if lost then 2 else 0) (viewRead d m.dpart (buddyAddr d m.dpart m.src m.addr false) m.length)) true := by
  obtain ⟨ha, hn⟩ := hmay
  have hl : ((pagesTouched d m.dpart (buddyAddr d m.dpart m.src m.addr false) m.length).any (fun wv =>
      match pageAt d m.dpart wv.1 wv.2 with | some x => x.poison == .lost | none => false)) = lost := by
    rw [Bool.eq_iff_iff, hlost, List.any_eq_true]
    refine exists_congr fun x => and_congr_right fun _ => ?_
    cases pageAt d m.dpart x.1 x.2 <;> simp
  simp only [readMessage, h, ha, hn, and_self, decide_true, Bool.and_self, if_true, Bool.not_true, Bool.false_eq_true, if_false]
  exact congrArg (fun b : Bool => sendTo (noteRead e m.dpart (buddyAddr d m.dpart m.src m.addr false) m.length)
    (readReply d m (if b then 2 else 0) (viewRead d m.dpart (buddyAddr d m.dpart m.src m.addr false) m.length)) true) hl

theorem readMessage_of_denied (h : takeMsg d n vc 1 (fun m => !heldRange d m.dpart (buddyAddr d m.dpart m.src m.addr false) m.length) =
    some (m, e)) (hmay : ¬ (fabricMay d m.dpart (buddyAddr d m.dpart m.src m.addr false) m.length = true ∧ 1 ≤ m.length ∧ m.length ≤ 16384)) :
    readMessage d n vc = sendTo (fabricDenied e m.dpart (buddyAddr d m.dpart m.src m.addr false) m.length)
      (readReply d m 1 (List.replicate (min m.length 16384) 0)) true := by
  have hb : (fabricMay d m.dpart (buddyAddr d m.dpart m.src m.addr false) m.length && decide (1 ≤ m.length ∧ m.length ≤ 16384)) = false := by
    rw [Bool.eq_false_iff]
    intro hb
    rw [Bool.and_eq_true, decide_eq_true_iff] at hb
    exact hmay hb
  simp only [readMessage, h, hb, Bool.false_eq_true, if_false, Bool.not_false, if_true]
  rfl

/-! RESP (R249, R256) -/

theorem respMessage_of_data {r : RemoteRead} (h : takeMsg d n vc 2 (fun _ => true) = some (m, e))
    (hr : d.reads.find? (fun r => r.req == m.tag && r.result.isNone) = some r) (hm : m.step = 0) :
    respMessage d n vc = { e with reads := e.reads.map (fun x => if x = r then { x with result := some (0, m.data) } else x) } := by
  rw [← (portsOnly_takeMsg h).same Dev.reads (fun _ => rfl)] at hr
  simp only [respMessage, h, hr, hm, if_true, beq_iff_eq]

theorem getF_losePage_fault (d : Dev) (k : PageKey) (x : Page) : getF (losePage d k x) (F.fabNflag_fault k.1) = 1 := getF_setF_same ..

theorem pages_losePage (d : Dev) (k : PageKey) (x : Page) : Tab.get? (losePage d k x).pages k = some { x with poison := .lost } :=
  Tab.get?_put_same ..

theorem retryHeld_of_nil (h : d.held = []) : retryHeld d = { d with held := [] } := by simp [retryHeld, h, forEach]

theorem respMessage_of_failed {r : RemoteRead} {x : Page} (h : takeMsg d n vc 2 (fun _ => true) = some (m, e))
    (hr : d.reads.find? (fun r => r.req == m.tag && r.result.isNone) = some r) (hm : m.step ≠ 0)
    (hx : Tab.get? d.pages r.key = some x) (hh : d.held = []) : respMessage d n vc = { losePage e r.key x with held := [] } := by
  have hp := portsOnly_takeMsg h
  rw [← hp.same Dev.reads (fun _ => rfl)] at hr
  rw [← hp.same Dev.pages (fun _ => rfl)] at hx
  rw [← hp.same Dev.held (fun _ => rfl)] at hh
  have hl : (losePage e r.key x).held = [] := hh
  simp only [respMessage, h, hr, hm, if_false, hx, retryHeld_of_nil hl]

/-! COLL and ABORT (R280, R281) -/

/-- The collective a COLL message belongs to runs. -/
def runsFor (d : Dev) (m : Msg) : Bool := match collFor d m with | some k => !k.held | none => false

/-- What a running collective makes of a message of its own. -/
def takePiece (e : Dev) (k : Coll) (m : Msg) : Dev :=
  if m.sig ≠ k.sig then mismatch e k
  else if k.chain then advanceColl e { k with blocks := k.blocks ++ [(64 * (m.step - 1), m.addr, m.data)] }
  else ringPiece e k m

theorem PortsOnly.collFor (h : PortsOnly d e) (m : Msg) : collFor e m = collFor d m := h.same (fun x => Machine.collFor x m) (fun _ => rfl)

theorem collMessage_of_taken {k : Coll} (h : takeMsg d n vc 3 (runsFor d) = some (m, e)) (hk : collFor d m = some k) :
    collMessage d n vc = takePiece e k m := by
  rw [← (portsOnly_takeMsg h).collFor] at hk
  unfold collMessage
  split
  next hn => exact absurd (hn.symm.trans h) nofun
  next m' e' hs =>
    obtain ⟨rfl, rfl⟩ := Prod.mk.inj (Option.some.inj (hs.symm.trans h))
    simp only [hk]
    rfl

theorem abortMessage_of_taken {k : Coll} (h : takeMsg d n vc 4 (fun m => (collFor d m).isSome) = some (m, e)) (hk : collFor d m = some k) :
    abortMessage d n vc = resolveColl e k k.stepped 2 := by
  rw [← (portsOnly_takeMsg h).collFor] at hk
  simp only [abortMessage, h, hk]

end

theorem mismatch_eq (d : Dev) (k : Coll) : ∃ y, mismatch d k = resolveColl y k k.stepped 2 ∧ PortsOnly d y :=
  ⟨_, rfl, .forEach (fun _ _ => portsOnly_sendTo ..) _ _⟩

/-- The collective with the piece of a message in its block. -/
def pieceKept (d : Dev) (k : Coll) (m : Msg) : Coll :=
  let j := m.step / 32
  let i := m.step % 32
  let g := k.ring d j
  let o := k.place d j
  let before := (o + g - i % g) % g
  let from1 : Nat := if m.addr < k.firstHalf (k.blockBytes d j before) then before else (o + i) % g
  let key : Nat := if k.chain = true then 64 * (m.step - 1) else blockKey j from1
  { k with blocks := k.blocks ++ [(key, m.addr, m.data)] }

theorem takePiece_of_sig {d : Dev} {k : Coll} {m : Msg} (h : m.sig = k.sig) :
    ∃ y, takePiece d k m = advanceColl y (pieceKept d k m) ∧ PortsOnly d y := by
  rw [takePiece, if_neg (not_not.2 h)]
  split
  next hc => exact ⟨d, by simp only [pieceKept, hc, if_true], .refl d⟩
  next hc =>
    simp only [ringPiece, pieceKept, hc, Bool.false_eq_true, if_false, decide_eq_true_eq]
    split
    · exact ⟨_, rfl, portsOnly_sendHop ..⟩
    · exact ⟨_, rfl, .refl d⟩

/-! A collective goes on (R130, R280, R281) -/

theorem beginPhase_of_last {d : Dev} {k : Coll} (h : (groupAxes k.axes).length ≤ k.phase) : beginPhase d k = (d, k) := if_pos h

theorem advanceRings_of_last {n : Nat} {d : Dev} {k : Coll} (h : (groupAxes k.axes).length ≤ k.phase) : advanceRings n d k = (d, k) := by
  cases n with
  | zero => rfl
  | succ n => exact if_pos (by simp [h])

/-- The blocks of the last axis make the result. -/
theorem advanceRings_of_whole {n : Nat} {d : Dev} {k : Coll} (hlast : k.phase + 1 = (groupAxes k.axes).length)
    (hw : ∀ o < k.ring d k.phase, k.whole d k.phase o = true) :
    let r := k.combine d k.phase ((List.range (k.ring d k.phase)).map (fun o => k.block (blockKey k.phase o)))
    advanceRings (n + 1) d k = (if r.2 then setNonfin d k.p else d,
      { k with phase := k.phase + 1, cur := r.1, blocks := k.blocks.filter (fun y => decide (64 * (k.phase + 1) ≤ y.1)) }) := by
  intro r
  have hall : (List.range (k.ring d k.phase)).all (k.whole d k.phase) = true :=
    List.all_eq_true.2 fun o ho => hw o (List.mem_range.1 ho)
  have hphase : ¬ (groupAxes k.axes).length ≤ k.phase := by omega
  rw [advanceRings, if_neg (by simp [hall, hphase])]
  dsimp only
  rw [beginPhase_of_last (Nat.le_of_eq hlast.symm),
    advanceRings_of_last (Nat.le_of_eq hlast.symm)]

theorem advanceColl_of_rings {d : Dev} {k : Coll} (ho : k.op ≠ 6) (hc : k.chain = false) :
    advanceColl d k = setColl (advanceRings 6 d k).1 (advanceRings 6 d k).2 := by
  simp only [advanceColl, ho, hc, if_false, Bool.false_eq_true]

theorem advanceColl_of_chain {d : Dev} {k : Coll} (ho : k.op ≠ 6) (hc : k.chain = true) :
    advanceColl d k = setColl (advanceChain d k).1 (advanceChain d k).2 := by
  simp only [advanceColl, ho, hc, if_false, if_true]

theorem advanceColl_of_chain_end {d : Dev} {k : Coll} (ho : k.op ≠ 6) (hc : k.chain = true) (hp : k.phase = 0) (hr : 0 < ownRank d k)
    (hlast : ownRank d k + 1 = k.size d) (hw : k.cur.length ≤ (k.block 0).length) :
    let r := addWords true k.fmt (k.toWords (k.block 0)) (k.toWords k.cur)
    ∃ y, advanceColl d k = setColl y { k with phase := 2, cur := wordBytes (elemBytes k.fmt) r.1 } ∧
      PortsOnly (if r.2 then setNonfin d k.p else d) y := by
  intro r
  have hw' : decide ((k.block 0).length ≥ k.cur.length) = true := decide_eq_true hw
  rw [advanceColl_of_chain ho hc]
  simp only [advanceChain, hp, hw', or_true, and_self, hlast, hr.ne', if_false]
  exact ⟨_, rfl, portsOnly_sendChain ..⟩

/-! RINGPASS steps and results (R282, R283) -/

section
variable {s : State} (hg : s.dev.powerGood = true) (p : PartId) (i : Nat)
include hg

theorem exec_ringpassStep : exec (.ringpassStep p i) s = .next { s with dev := ringStep s.dev p i } :=
  congrArg Host.Outcome.next (onDev_of_good hg)

theorem exec_collectiveResolve : exec (.collectiveResolve p i) s = .next { s with dev := completeColl s.dev p i } :=
  congrArg Host.Outcome.next (onDev_of_good hg)

end

/-- The rank whose block a RINGPASS passes on next. -/
def passedRank (d : Dev) (k : Coll) : Nat := (ownRank d k + k.size d - (k.stepped + 1) % k.size d) % k.size d

section
variable {d : Dev} {p i : Nat} {k : Coll} (hk : nthColl d p i = some k) (hh : k.held = false)
include hk hh

theorem ringStep_of_held (ho : k.op = 6) (hs : k.stepped + 1 < k.size d) (hw : k.whole d 0 (passedRank d k) = true)
    (hd : heldWrite d p (k.dst + passedRank d k * k.count) k.count = true) : ringStep d p i = steadyBroken d := by
  unfold passedRank at hw hd
  simp [ringStep, hk, hh, ho, hs, hw, hd]

theorem ringStep_of_free (ho : k.op = 6) (hs : k.stepped + 1 < k.size d) (hw : k.whole d 0 (passedRank d k) = true)
    (hd : heldWrite d p (k.dst + passedRank d k * k.count) k.count = false) :
    ∃ y, ringStep d p i = (match k.sevt with | some e => postMask y k.cmask e | none => y) ∧
      PortsOnly (setColl (engineWrite d p (k.dst + passedRank d k * k.count) (k.block (passedRank d k))) { k with stepped := k.stepped + 1 }) y := by
  have hb : (k.op != 6 || k.held || decide (k.stepped + 1 ≥ k.size d) || !k.whole d 0 (passedRank d k)) = false := by
    simp [ho, hh, hw, hs]
  unfold passedRank at hw hd hb ⊢
  simp only [ringStep, hk, hb, hd, Bool.false_eq_true, if_false]
  refine ⟨_, rfl, ?_⟩
  split
  · exact portsOnly_sendBlock ..
  · exact .refl _

/-- A collective that is done resolves, with its result in `dst`. -/
theorem completeColl_of_combined (hdone : (k.op = 6 ∧ k.stepped + 1 = k.size d) ∨ (k.op ≠ 6 ∧ k.combined = true))
    (hd : heldWrite d p k.dst (k.dstBytes (k.size d)) = false) (hw : heldWrite d p (k.desc + 48) 8 = false) :
    completeColl d p i = resolveColl (if k.op = 6 then d else engineWrite d p k.dst (collResult d k)) k (k.steps d) 1 := by
  have hsteps : k.steps (if k.op = 6 then d else engineWrite d p k.dst (collResult d k)) = k.steps d := by
    split
    · rfl
    · have field (q : Nat) : getF (engineWrite d p k.dst (collResult d k)) (F.fabSlice_size q) = getF d (F.fabSlice_size q) :=
        (accessed_engineWrite ..).field _ (by simp [IsAccessReg])
      simp only [Coll.steps, Coll.size, groupSize, sliceSize, field]
  have hready : (if k.op = 6 then k.stepped + 1 == k.size d else k.combined) = true := by
    rcases hdone with ⟨ho, hs⟩ | ⟨ho, hc⟩
    · rw [if_pos ho, hs, beq_self_eq_true]
    · rw [if_neg ho, hc]
  simp only [completeColl, hk, hh, hready, hd, hw, Bool.not_true, Bool.or_self, Bool.false_eq_true, if_false, hsteps]

end

/-- Settles O43: each message by what its own function makes of it once it is taken, and the ports (`PortsOnly`) as all that taking and
sending change. -/
theorem messages : Obligations.Messages := by
  intro s p n vc hg d dst
  refine ⟨fun m e h => ⟨fun hm => ?written, fun hm => ?denied⟩, fun m e h => ?read, ⟨fun h hm => ?writeWaits, fun h hm => ?readWaits⟩,
    fun m e r h hr => ⟨fun hm => ?answered, fun x hm hx hh => ?failed⟩,
    fun m e k h hk => ⟨fun hs => ?mismatched, fun hs => ?kept⟩, fun m e k h hk => ?abort, fun k ho hc hlast hw => ?lastAxis,
    fun k ho hc hp hr hlast hw => ?chainEnd,
    fun i k hk hh => ⟨fun ho hs hw => ⟨fun hd => ?stepHeld, fun hd => ?step⟩, fun hdone hd hw => ?resolve⟩⟩
  case written => rw [exec_write hg, writeMessage_of_taken h, if_pos hm]
  case denied => rw [exec_write hg, writeMessage_of_taken h, if_neg (Bool.eq_false_iff.1 hm)]
  case read =>
    intro home reply may lost answered
    refine ⟨fun hm hl => ?_, fun hm hl => ?_, fun hm => ⟨List.replicate (min m.length 16384) 0, List.length_replicate, ?_⟩⟩
    · rw [exec_read hg, readMessage_of_granted h hm (iff_of_false Bool.false_ne_true hl)]
      rfl
    · rw [exec_read hg, readMessage_of_granted h hm (iff_of_true rfl hl)]
      rfl
    · rw [exec_read hg, readMessage_of_denied h hm]
      rfl
  case writeWaits => rw [exec_write hg, writeMessage_of_held h hm]
  case readWaits => rw [exec_read hg, readMessage_of_held h hm]
  case answered => rw [exec_resp hg, respMessage_of_data h hr hm]
  case failed =>
    exact ⟨_, (exec_resp hg n vc).trans (by rw [respMessage_of_failed h hr hm hx hh]), pages_losePage .., getF_losePage_fault ..⟩
  case mismatched =>
    obtain ⟨y, hy, hports⟩ := mismatch_eq e k
    have ht := (portsOnly_takeMsg h).trans hports
    exact ⟨y, by rw [exec_coll hg, collMessage_of_taken h hk, takePiece, if_pos hs, hy], ht.colls, ht.mem, ht.field⟩
  case kept =>
    obtain ⟨y, hy, hports⟩ := takePiece_of_sig (d := e) hs
    have he := portsOnly_takeMsg h
    have ht := he.trans hports
    refine ⟨y, ?_, ht.colls, ht.mem, ht.field⟩
    rw [exec_coll hg, collMessage_of_taken h hk, hy, he.same (fun x => pieceKept x k m) (fun _ => rfl)]
    rfl
  case abort => rw [exec_abort hg, abortMessage_of_taken h hk]
  case lastAxis => exact ⟨_, (advanceColl_of_rings ho hc).trans (by rw [advanceRings_of_whole hlast hw])⟩
  case chainEnd =>
    obtain ⟨y, hy, hports⟩ := advanceColl_of_chain_end ho hc hp hr hlast hw
    refine ⟨y, hy, hports.colls.trans ?_, hports.mem.trans ?_, hports.field⟩
    · split <;> rfl
    · split <;> rfl
  case stepHeld => rw [exec_ringpassStep hg, ringStep_of_held hk hh ho hs hw hd]
  case step =>
    obtain ⟨y, hy, hports⟩ := ringStep_of_free hk hh ho hs hw hd
    refine ⟨y, (exec_ringpassStep hg p i).trans (congrArg (fun x => Host.Outcome.next { s with dev := x }) hy), hports.mem,
      hports.colls.trans ?_⟩
    exact congrArg _ (accessed_engineWrite ..).colls
  case resolve => rw [exec_collectiveResolve hg, completeColl_of_combined hk hh hdone hd hw]

end Sys2Proof.Machine
end

section
namespace Sys2Proof.Machine

/-! What only the barrier unit writes (R122, R125, R270, R274, R278): a frame for everything else that an event of a channel brings about -/

/-- The status of a slice, the time counter, the outcome of a flag check, and the slice fault's interrupt. -/
def barrierField (k : FKey) : Bool :=
  match k.reg with
  | .fabSlstat _ | .fabFtc => true
  | .fabNflag p => k != F.fabNflag_nonfin p && k != F.fabNflag_fault p
  | .fabIrq p => k == F.fabIrq_slice_fault p
  | _ => false

/-- The channels, the history and those fields as they were. -/
structure BarrierKept (d e : Dev) : Prop where
  chans : e.chans = d.chans
  history : e.history = d.history
  field : ∀ k, barrierField k = true → getF e k = getF d k

namespace BarrierKept
variable {d e g : Dev}

theorem refl (d : Dev) : BarrierKept d d := ⟨rfl, rfl, fun _ _ => rfl⟩

theorem trans (h : BarrierKept d e) (h' : BarrierKept e g) : BarrierKept d g :=
  ⟨h'.chans.trans h.chans, h'.history.trans h.history, fun k hk => (h'.field k hk).trans (h.field k hk)⟩

theorem ite {q : Prop} [Decidable q] (h : BarrierKept d e) (h' : BarrierKept d g) : BarrierKept d (if q then e else g) := by
  split
  · exact h
  · exact h'

theorem forEach {α : Type} {step : Dev → α → Dev} (hs : ∀ d a, BarrierKept d (step d a)) (l : List α) (d : Dev) :
    BarrierKept d (forEach l d step) :=
  forEach_keeps (P := fun e => BarrierKept d e) (fun e a h => h.trans (hs e a)) l d (refl d)

theorem setF {k : FKey} (hk : barrierField k = false) (d : Dev) (v : Nat) : BarrierKept d (setF d k v) :=
  ⟨rfl, rfl, fun _ hj => getF_setF_of_ne d v (fun h => by rw [← h, hk] at hj; cases hj)⟩

theorem raise {irq : FKey} (hk : barrierField irq = false) (d : Dev) (p : Option Nat) (en : FKey) : BarrierKept d (raise d p irq en) := by
  refine ⟨?_, ?_, fun j hj => (getF_raise d p irq en j).trans ((setF hk d 1).field j hj)⟩
  all_goals
    unfold Machine.raise
    split
    · dsimp only
      split <;> rfl
    · rfl

end BarrierKept

theorem PortsOnly.barrierKept {d e : Dev} (h : PortsOnly d e) : BarrierKept d e :=
  ⟨h.chans, h.same Dev.history (fun _ => rfl), fun k _ => h.field k⟩

theorem sequencerOwn_of_barrierField {k : FKey} (h : barrierField k = true) (c : Nat) : sequencerOwn c k = false := by
  rw [Bool.eq_false_iff]
  intro hs
  rw [sequencerOwn_iff] at hs
  unfold barrierField at h
  split at h <;> simp_all

theorem SeqOnly.barrierKept {c : Nat} {d e : Dev} (h : SeqOnly c d e) : BarrierKept d e :=
  ⟨h.same Dev.chans (fun _ _ _ _ => rfl), h.same Dev.history (fun _ _ _ _ => rfl),
    fun _ hk => h.field _ (sequencerOwn_of_barrierField hk c)⟩

theorem barrierField_nonfin (p : Nat) : barrierField (F.fabNflag_nonfin p) = false := by simp [barrierField]
theorem barrierField_fault (p : Nat) : barrierField (F.fabNflag_fault p) = false := by simp [barrierField]

/-! Accesses to memory -/

theorem barrierKept_setNonfin (d : Dev) (p : Nat) : BarrierKept d (setNonfin d p) := .setF (barrierField_nonfin p) d 1

theorem barrierKept_setDataFault (d : Dev) (p : Nat) : BarrierKept d (setDataFault d p) :=
  (barrierKept_setNonfin d p).trans (.setF (barrierField_fault p) _ 1)

theorem barrierKept_requestWake (d : Dev) (x : GatedUnit) : BarrierKept d (requestWake d x) := by
  unfold requestWake
  split
  · exact .refl d
  · exact .ite ⟨rfl, rfl, fun _ _ => rfl⟩ ⟨rfl, rfl, fun _ _ => rfl⟩

theorem barrierKept_reachRange (d : Dev) (p a n : Nat) : BarrierKept d (reachRange d p a n) := by
  refine .forEach (fun d x => ?_) _ d
  exact .ite (.refl d) (.ite (barrierKept_requestWake d x) ⟨rfl, rfl, fun _ _ => rfl⟩)

theorem barrierKept_noteRead (d : Dev) (p a n : Nat) : BarrierKept d (noteRead d p a n) := by
  refine (barrierKept_reachRange d p a n).trans (.forEach (fun d wv => ?_) _ _)
  split
  · have page (x : Page) : BarrierKept d (setPage (cancelEviction d (p, wv.1, wv.2)) p wv.1 wv.2 x) := ⟨rfl, rfl, fun _ _ => rfl⟩
    exact .ite ((page _).trans (barrierKept_setDataFault _ p)) (page _)
  · exact .refl d

theorem barrierKept_noteWrite (d : Dev) (p a n : Nat) : BarrierKept d (noteWrite d p a n) := by
  refine (barrierKept_reachRange d p a n).trans (.forEach (fun d wv => ?_) _ _)
  split
  · exact .ite (.refl d) ⟨rfl, rfl, fun _ _ => rfl⟩
  · exact .refl d

theorem barrierKept_deniedWrite (d : Dev) (p c : Nat) : BarrierKept d (deniedWrite d p c) :=
  ((BarrierKept.setF rfl d 1).trans (.raise rfl _ _ _)).trans (.setF rfl _ _)

theorem barrierKept_stagePut (d : Dev) (u i off : Nat) (b : Byte) : BarrierKept d (stagePut d u i off b) := by
  unfold stagePut
  dsimp only
  exact .ite ⟨rfl, rfl, fun _ _ => rfl⟩ ⟨rfl, rfl, fun _ _ => rfl⟩

theorem barrierKept_viewPut (d : Dev) (p a : Nat) (b : Byte) : BarrierKept d (viewPut d p a b) := by
  unfold viewPut
  refine .ite (.refl d) ?_
  split
  · exact barrierKept_stagePut ..
  · split
    · exact ⟨rfl, rfl, fun _ _ => rfl⟩
    · exact .refl d

theorem barrierKept_agentPut (d : Dev) (p a : Nat) (b : Byte) : BarrierKept d (agentPut d p a b) := by
  unfold agentPut
  split
  · exact .ite (.refl d) (barrierKept_viewPut ..)
  · exact .ite (.refl d) ⟨rfl, rfl, fun _ _ => rfl⟩
  · exact .ite (.refl d) ⟨rfl, rfl, fun _ _ => rfl⟩
  · exact barrierKept_viewPut ..

theorem barrierKept_engineWrite (d : Dev) (p a : Nat) (bs : List Byte) : BarrierKept d (engineWrite d p a bs) :=
  ((BarrierKept.forEach (fun d (x : Byte × Nat) => barrierKept_agentPut d p (a + x.2) x.1) bs.zipIdx d).trans
    (.forEach (fun d c => barrierKept_deniedWrite d p c) _ _)).trans (barrierKept_noteWrite ..)

theorem barrierKept_viewPutList (d : Dev) (p a : Nat) (bs : List Byte) : BarrierKept d (viewPutList d p a bs) := by
  induction bs generalizing d a with
  | nil => exact .refl d
  | cons b r ih => exact (barrierKept_viewPut d p a b).trans (ih _ (a + 1))

theorem barrierKept_viewWrite (d : Dev) (p a : Nat) (bs : List Byte) : BarrierKept d (viewWrite d p a bs) :=
  (barrierKept_viewPutList d p a bs).trans (barrierKept_noteWrite ..)

/-! Collectives begin and end (R282, R285) -/

theorem barrierKept_postMask (d : Dev) (mask e : Nat) : BarrierKept d (postMask d mask e) :=
  .forEach (step := fun d c => evPost d c e 1) (fun _ _ => ⟨rfl, rfl, fun _ _ => rfl⟩) _ d

theorem barrierKept_syncOpen (d : Dev) (p : Nat) : BarrierKept d (syncOpen d p) := .setF rfl d _

theorem barrierKept_setColl (d : Dev) (k : Coll) : BarrierKept d (setColl d k) := ⟨rfl, rfl, fun _ _ => rfl⟩

theorem barrierKept_finishJob (d : Dev) (c n : Nat) (j : Job) : BarrierKept d (finishJob d c n j) := by
  have dropped : BarrierKept d (dropJob d c n) := ⟨rfl, rfl, fun _ _ => rfl⟩
  have noted : BarrierKept (dropJob d c n) (noteFlag (dropJob d c n) c j) := by
    unfold noteFlag
    split
    · exact barrierKept_setNonfin ..
    · exact .refl _
  exact ((dropped.trans noted).trans (seqOnly_signal _ c _).barrierKept).trans (seqOnly_settle _ c).barrierKept

theorem barrierKept_finishPost (d : Dev) (k : Coll) : BarrierKept d (finishPost d k) := by
  unfold finishPost
  split
  · split
    · exact barrierKept_finishJob ..
    · exact .refl d
  · exact .refl d

theorem barrierKept_writeStatus (d : Dev) (k : Coll) (steps status : Nat) : BarrierKept d (writeStatus d k steps status) :=
  barrierKept_engineWrite ..

theorem barrierKept_resolveColl (d : Dev) (k : Coll) (steps status : Nat) : BarrierKept d (resolveColl d k steps status) := by
  have gone : BarrierKept d { d with colls := d.colls.filter (fun x => x.id != k.id) } := ⟨rfl, rfl, fun _ _ => rfl⟩
  have posted := (gone.trans (barrierKept_writeStatus _ k steps status)).trans
    ((barrierKept_postMask _ k.cmask k.evt).trans (barrierKept_syncOpen _ k.p))
  unfold resolveColl
  refine BarrierKept.trans (.ite (posted.trans (.raise ?_ _ _ _)) posted) (barrierKept_finishPost _ k)
  simp [barrierField]

theorem barrierKept_beginPhase (d : Dev) (k : Coll) : BarrierKept d (beginPhase d k).1 := by
  unfold beginPhase
  dsimp only
  split
  · exact .refl d
  · exact .ite (portsOnly_sendBlock ..).barrierKept (.refl d)

theorem barrierKept_advanceRings (n : Nat) (d : Dev) (k : Coll) : BarrierKept d (advanceRings n d k).1 := by
  induction n generalizing d k with
  | zero => exact .refl d
  | succ n ih =>
    rw [advanceRings]
    dsimp only
    split
    · exact .refl d
    · exact (BarrierKept.trans (.ite (barrierKept_setNonfin ..) (.refl d)) (barrierKept_beginPhase ..)).trans (ih _ _)

theorem barrierKept_advanceChain (d : Dev) (k : Coll) : BarrierKept d (advanceChain d k).1 := by
  unfold advanceChain
  extract_lets r g whole y sum flagged
  have noted : BarrierKept d flagged := .ite (barrierKept_setNonfin ..) (.refl d)
  split
  next e j hx =>
    have up : BarrierKept d (e, j).1 := by
      rw [← hx]
      split
      · refine noted.trans ?_
        split
        · exact .ite (.refl _) (portsOnly_sendChain ..).barrierKept
        · exact (portsOnly_sendChain ..).barrierKept
      · exact .refl d
    refine up.trans ?_
    split
    · exact .ite (.refl _) (portsOnly_sendChain ..).barrierKept
    · exact .refl _

theorem barrierKept_advanceColl (d : Dev) (k : Coll) : BarrierKept d (advanceColl d k) := by
  refine .ite (barrierKept_setColl ..) (BarrierKept.trans ?_ (barrierKept_setColl ..))
  split
  · exact barrierKept_advanceChain ..
  · exact barrierKept_advanceRings ..

theorem barrierKept_startColl (d : Dev) (k : Coll) : BarrierKept d (startColl d k) := by
  unfold startColl
  extract_lets r n own d1 d2 k2 x
  have read : BarrierKept d d1 := by
    simp only [d1]
    exact .ite (.refl d) (barrierKept_noteRead ..)
  have copied : BarrierKept d1 d2 := by
    simp only [d2]
    exact .ite (barrierKept_engineWrite ..) (.refl d1)
  have begun : BarrierKept d2 x.1 := by
    simp only [x]
    split
    · exact .refl d2
    · exact barrierKept_beginPhase ..
  exact ((read.trans copied).trans begun).trans ((barrierKept_advanceColl ..).trans (barrierKept_syncOpen ..))

theorem barrierKept_applyEpoch (d : Dev) (p : Nat) : BarrierKept d (applyEpoch d p) := by
  have fields := ((BarrierKept.setF (k := F.fabEpoch_cur p) rfl d (getF d (F.fabEpoch_pending p))).trans
    (.setF (k := F.fabEpoch_pvalid p) rfl _ 0)).trans (.setF (k := F.fabEpoch_draining p) rfl _ 0)
  exact (fields.trans (barrierKept_syncOpen _ p)).trans (.forEach (step := startColl) barrierKept_startColl _ _)

/-! A slice fault's own consequences (R28, R278) -/

theorem barrierKept_withdrawCancelled (d : Dev) (c : Nat) : BarrierKept d (withdrawCancelled d c) := by
  have gone : BarrierKept d (withdraw d c) := (seqOnly_withdraw d c).barrierKept
  unfold withdrawCancelled
  split
  · dsimp only
    split
    · exact .ite gone (.refl d)
    · exact .ite gone (.refl d)
    · exact .refl d
  · exact .refl d

theorem barrierKept_abortColls (d : Dev) (p : Nat) : BarrierKept d (abortColls d p) :=
  .forEach (fun _ _ => barrierKept_resolveColl ..) _ d

/-! The flag check's effects (R122, R125, R305) -/

theorem barrierKept_steadyBroken (d : Dev) : BarrierKept d (steadyBroken d) := .ite (.setF rfl d 1) (.refl d)

theorem barrierKept_lossScale (d : Dev) (p : Nat) (nonfin fault : Bool) : BarrierKept d (lossScale d p nonfin fault) := by
  have change (e : Dev) (x : Nat) : BarrierKept e (setF (setF e (F.rkLscale_exp p) x) (F.rkLscale_clean p) 0) :=
    (BarrierKept.setF rfl e x).trans (.setF rfl _ 0)
  have swept : BarrierKept d (setF d (F.rkLscale_sweep_exp p) (getF d (F.rkLscale_exp p))) := .setF rfl d _
  unfold lossScale
  refine swept.trans (.ite (.refl _) (.ite ?_ (.ite (.ite (change ..) (.setF rfl _ _)) (.refl _))))
  exact BarrierKept.trans (.setF rfl _ _) (.ite (change ..) (.refl _))

theorem barrierKept_openBatch (d : Dev) (p gyle : Nat) (nonfin fault : Bool) : BarrierKept d (openBatch d p gyle nonfin fault) := by
  unfold openBatch
  refine .ite ⟨rfl, rfl, fun _ _ => rfl⟩ (.ite ⟨rfl, rfl, fun _ _ => rfl⟩ ⟨rfl, rfl, fun _ _ => rfl⟩)

theorem barrierKept_leaveCap (d : Dev) : BarrierKept d (leaveCap d) := by
  have capped : BarrierKept d { d with capLimit := 1800 } := ⟨rfl, rfl, fun _ _ => rfl⟩
  have admitted := capped.trans (.setF (k := F.pwrStatus_admit) rfl _ 8)
  exact .ite (.refl d) (.ite (admitted.trans (.setF rfl _ _)) admitted)

theorem barrierKept_stayAwake (d : Dev) : BarrierKept d (stayAwake d) := by
  refine .forEach (fun d x => ?_) _ d
  split
  · exact BarrierKept.trans (.setF rfl d 1) (barrierKept_requestWake ..)
  · exact barrierKept_requestWake ..

theorem barrierKept_enterMode (d : Dev) (p m : Nat) : BarrierKept d (enterMode d p m) := by
  have closed (e : Dev) : BarrierKept e (forEach (clustersOf e p) e closeWindows) :=
    .forEach (step := closeWindows) (fun _ _ => ⟨rfl, rfl, fun _ _ => rfl⟩) _ e
  have moded (t : Tab Nat Nat) : BarrierKept d { d with modes := t } := ⟨rfl, rfl, fun _ _ => rfl⟩
  exact (BarrierKept.ite (moded _) ((moded _).trans (closed _))).trans ((barrierKept_leaveCap _).trans (barrierKept_stayAwake _))

theorem barrierKept_releaseMode (d : Dev) (p t : Nat) : BarrierKept d (releaseMode d p t) := .ite (barrierKept_enterMode ..) (.refl d)

theorem barrierKept_epochRelease (d : Dev) (p : Nat) (drain : Bool) : BarrierKept d (epochRelease d p drain) :=
  .ite (.ite (.setF rfl d 1) (barrierKept_applyEpoch d p)) (.refl d)

theorem barrierKept_kilnRelease (d : Dev) (p gyle : Nat) : BarrierKept d (kilnRelease d p gyle) := ⟨rfl, rfl, fun _ _ => rfl⟩

/-! An armed sweep's evaluation (R196, R197) -/

theorem barrierKept_refuseSweep (d : Dev) (p code : Nat) : BarrierKept d (refuseSweep d p code) := by
  have shown : BarrierKept d (if code = 1 then d else setF d (F.rkSstat_state p) 6) := .ite (.refl d) (.setF rfl d 6)
  exact (shown.trans (.setF (k := F.rkSstat_err p) rfl _ code)).trans (.raise (irq := F.rkIrq_refused p) rfl _ (some p) _)

theorem barrierKept_drainSlot (d : Dev) (u i : Nat) : BarrierKept d (drainSlot d u i) := by
  have taken : BarrierKept d { d with stgHeld := d.stgHeld.filter (fun x => !(x.1 == u && x.2.1 == i)) } := ⟨rfl, rfl, fun _ _ => rfl⟩
  exact taken.trans (.forEach (step := fun d (x : Nat × Nat × Nat × Byte) => stagePut d u i x.2.2.1 x.2.2.2) (fun _ _ => barrierKept_stagePut ..) _ _)

theorem barrierKept_needSlot (d : Dev) (t : Nat × Nat) (n : Nat) : BarrierKept d (needSlot d t n) := by
  have needed : BarrierKept d { d with stg := Tab.put d.stg t { stgSlot d t.1 t.2 with need := n } } := ⟨rfl, rfl, fun _ _ => rfl⟩
  exact needed.trans (barrierKept_drainSlot _ t.1 t.2)

theorem barrierKept_openSlots (d : Dev) (p : Nat) : BarrierKept d (openSlots d p) := .forEach (fun _ _ => barrierKept_needSlot ..) _ d

theorem barrierKept_startLayer (d : Dev) (ref : Bool) (p n : Nat) (ws : List Nat) : BarrierKept d (startLayer d ref p n ws) := by
  unfold startLayer
  extract_lets old d1 b2 a again r c head d2 d3 d4 d5 d6 hi
  have read : BarrierKept d d1 := barrierKept_noteRead ..
  have headed : BarrierKept d1 d2 := barrierKept_viewWrite ..
  have sums : BarrierKept d2 (viewWrite d5 p (lRecord ws + vecOffset ws 3) (List.replicate (8 * lCols ws) 0)) :=
    ((barrierKept_viewWrite d2 ..).trans (barrierKept_viewWrite d3 ..)).trans
      ((barrierKept_viewWrite d4 ..).trans (barrierKept_viewWrite d5 ..))
  have written : BarrierKept d d6 := by
    simp only [d6]
    exact (read.trans headed).trans (.ite sums (.refl d2))
  have counted : BarrierKept d6 (satF d6 (F.rkCnt_ratio_exceed p) 1) := .setF rfl d6 _
  exact .ite read (.ite ((written.trans counted).trans (.raise rfl _ _ _)) written)

theorem barrierKept_beginLayer (d : Dev) (p : Nat) : BarrierKept d (beginLayer d p) := by
  have begun : BarrierKept d (setSweep d p { sweepOf d p with begun := true }) := ⟨rfl, rfl, fun _ _ => rfl⟩
  exact .ite (.refl d) (.ite (barrierKept_steadyBroken d) (begun.trans (barrierKept_startLayer ..)))

theorem barrierKept_finishSweep (d : Dev) (p : Nat) : BarrierKept d (finishSweep d p) := by
  have shown := (BarrierKept.setF (k := F.rkSstat_state p) rfl d 5).trans (.setF (k := F.rkSstat_last_gyle p) rfl _ (sweepOf d p).gyle)
  have closed (e : Dev) (g : Nat) : BarrierKept e (closeBatch e p g) := ⟨rfl, rfl, fun _ _ => rfl⟩
  exact .ite ((shown.trans (closed _ _)).trans (.raise rfl _ _ _)) (.refl d)

theorem barrierKept_startSweep (d : Dev) (p : Nat) (e : SweepEval) : BarrierKept d (startSweep d p e) := by
  unfold startSweep
  split
  · exact barrierKept_refuseSweep ..
  · extract_lets l base x d1
    have listed : BarrierKept d (setSweep (noteRead d p l.1 l.2) p x) :=
      (barrierKept_noteRead ..).trans ⟨rfl, rfl, fun _ _ => rfl⟩
    have running : BarrierKept d d1 := listed.trans (.setF rfl _ 2)
    exact running.trans ((barrierKept_openSlots d1 p).trans ((barrierKept_beginLayer _ p).trans (barrierKept_finishSweep _ p)))

theorem barrierKept_evaluateSweep (d : Dev) (p n : Nat) : BarrierKept d (evaluateSweep d p n) := by
  have evals (t : Tab Nat SweepEval) (v : Nat) : BarrierKept d (setF { d with evals := t } (F.rkSstat_state p) v) :=
    BarrierKept.trans (e := { d with evals := t }) ⟨rfl, rfl, fun _ _ => rfl⟩ (.setF rfl _ v)
  unfold evaluateSweep
  split
  · exact barrierKept_refuseSweep ..
  · exact .ite ((evals _ 1).trans (barrierKept_steadyBroken _)) ((evals _ 0).trans (barrierKept_startSweep ..))

theorem barrierKept_sweepRelease (d : Dev) (p g : Nat) : BarrierKept d (sweepRelease d p g) :=
  .ite (.refl d) (.ite (BarrierKept.trans (.setF rfl d 0) (barrierKept_evaluateSweep ..)) (barrierKept_refuseSweep ..))

/-! Instructions that a release lets go on (R52, R90), and the ticks that passed (R366) -/

theorem barrierKept_completeBar (d : Dev) (c : Nat) (nonfin : Bool) : BarrierKept d (completeBar d c nonfin) := by
  unfold completeBar
  split
  · refine BarrierKept.trans ?_ ((seqOnly_endWait _ c).trans (seqOnly_settle _ c)).barrierKept
    split
    · exact .setF rfl d _
    · exact .refl d
  · exact .refl d

theorem barrierKept_setAnchor (d : Dev) (c s : Nat) (ea eb : Int) (logk : Nat) (eaSet ebSet reduced : Bool) :
    BarrierKept d (setAnchor d c s ea eb logk eaSet ebSet reduced) := by
  have exps := (BarrierKept.setF (k := F.mcAnchor_ea c s) rfl d (unsigned 12 ea)).trans (.setF (k := F.mcAnchor_eb c s) rfl _ (unsigned 12 eb))
  have known := exps.trans ((BarrierKept.setF (k := F.mcAnchor_logk c s) rfl _ logk).trans
    (.setF (k := F.mcAnchor_ea_set c s) rfl _ (b2n eaSet)))
  exact known.trans ((BarrierKept.setF (k := F.mcAnchor_eb_set c s) rfl _ (b2n ebSet)).trans
    (.setF (k := F.mcAnchor_reduced c s) rfl _ (b2n reduced)))

theorem barrierKept_completeAmax (d : Dev) (c : Nat) (a : Arrival) : BarrierKept d (completeAmax d c a) := by
  unfold completeAmax
  split
  · refine .ite ?_ ?_
    · exact ((seqOnly_withdraw d c).barrierKept.trans ((seqOnly_setPend ..).trans (seqOnly_settle _ c)).barrierKept)
    · exact (barrierKept_setAnchor ..).trans ((seqOnly_endWait _ c).trans (seqOnly_settle _ c)).barrierKept
  · exact .refl d

theorem barrierKept_countTicks (n : Nat) (d e : Dev) : BarrierKept e (countTicks n d e) := by
  refine BarrierKept.trans (.forEach (fun e p => ?_) _ e) (.forEach (fun e c => .ite (.setF rfl e _) (.refl e)) _ _)
  split <;> exact .setF rfl e _

end Sys2Proof.Machine
end

section
namespace Sys2Proof.Machine

/-! Arrivals and releases along the tree (R274 to R276) -/

section
variable {s : State} (hg : s.dev.powerGood = true)
include hg

theorem exec_arrive (n : PortId) : exec (.arrive n) s = .next { s with dev := arriveMessage s.dev n } :=
  congrArg Host.Outcome.next (onDev_of_good hg)

theorem exec_release (n : PortId) : exec (.release n) s = .next { s with dev := releaseMessage s.dev n } :=
  congrArg Host.Outcome.next (onDev_of_good hg)

theorem exec_onMal {f : Dev → Dev} {i : Instr} (he : exec i s = .next (onMal f s)) :
    exec i s = .next (withAudit (fun _ => f s.dev) s) := by
  rw [he, onMal_of_good hg, withAudit, withDev]

theorem exec_channelReleaseReached (p : PartId) (ch : Fin 18) : exec (.channelReleaseReached p ch) s =
    .next (withAudit (fun _ => passing (fun d => reachChannel d p ch) s.dev) s) := exec_onMal hg rfl

theorem exec_flagCheckRelease (p : PartId) : exec (.flagCheckRelease p) s =
    .next (withAudit (fun _ => passing (fun d => reachCheck d p) s.dev) s) := exec_onMal hg rfl

theorem exec_nflagWrite (p : PartId) (v : Word) : exec (.nflagWrite p v) s =
    .next { s with dev := nflagWrite { s.dev with bus := .none } p v.toNat } := congrArg Host.Outcome.next (onDev_of_good hg)

theorem exec_faultMessage (n : PortId) : exec (.fault n) s = .next { s with dev := faultMessage s.dev n } :=
  congrArg Host.Outcome.next (onDev_of_good hg)

theorem exec_channelTimeout (p : PartId) (ch : Fin 18) : exec (.channelTimeout p ch) s =
    .next { s with dev := timeoutChannel s.dev p ch } := congrArg Host.Outcome.next (onDev_of_good hg)

theorem exec_drainArrive (p : PartId) : exec (.drainArrive p) s = .next (flushAudit { s with dev := arriveDrain s.dev p }) :=
  congrArg Host.Outcome.next (onMal_of_good hg)

end

section
variable {d e : Dev} {n : Nat} {m : SbMsg}

/-- An ARRIVE of a child counts for the use that it is for. -/
theorem arriveMessage_of_child (h : takeSb d n 1 (fun m => !arriveWaits d m) = some (m, e)) (hch : m.chan ≤ 17)
    (hv : flag d (F.fabSlice_valid m.part) = true) (hc : (openUse d m.part m.chan).cancelled = false)
    (hgen : m.gen = useGen d m.part m.chan (openUse d m.part m.chan)) (hn : n ∈ childPorts d m.part)
    (hr : (openUse d m.part m.chan).release = none) : arriveMessage d n =
      climb (setChan e m.part m.chan { openUse e m.part m.chan with
        kids := Tab.put (openUse e m.part m.chan).kids n ⟨m.flags, m.value⟩ }) m.part m.chan := by
  have hp := portsOnly_takeSb h
  have use : openUse e m.part m.chan = openUse d m.part m.chan := hp.same (fun x => openUse x m.part m.chan) (fun _ => rfl)
  have gen : useGen e m.part m.chan (openUse e m.part m.chan) = m.gen :=
    (hp.same (fun x => useGen x m.part m.chan (openUse x m.part m.chan)) (fun _ => rfl)).trans hgen.symm
  have valid : flag e (F.fabSlice_valid m.part) = true := (hp.same (fun x => flag x (F.fabSlice_valid m.part)) (fun _ => rfl)).trans hv
  have kids : (childPorts e m.part).contains n = true := by
    rw [hp.same (fun x => childPorts x m.part) (fun _ => rfl)]
    simpa using hn
  have hgo : (decide (m.chan > 17) || !flag e (F.fabSlice_valid m.part) || (openUse e m.part m.chan).cancelled ||
      m.gen != useGen e m.part m.chan (openUse e m.part m.chan) || !(childPorts e m.part).contains n ||
      (openUse e m.part m.chan).release.isSome) = false := by
    rw [gen, kids, valid, use, hc, hr]
    simp [hch]
  simp only [arriveMessage, h]
  rw [hgo]
  rfl

end

section
variable {d : Dev} {p ch : Nat} {x : Chan} {a : Arrival} (hx : openUse d p ch = x) (hc : x.cancelled = false)
include hx hc

theorem climb_of_complete (hv : flag d (F.fabSlice_valid p) = true) (hs : x.sent = false) (hr : x.release = none)
    (ha : subtree d p ch x = some a) (hk : x.check = none ∨ bitOf a.flags 8 = false) : climb d p ch =
      if flag d (F.fabSlcfg_root p) then releaseUse d p ch x (getF d F.fabFtc_ftc + 8 * getF d (F.fabSlcfg_rel_delay p)) a
      else sendSb (setChan d p ch { x with sent := true }) (getF d (F.fabSlcfg_up p))
        ⟨1, p, ch, useGen d p ch x, a.flags, if ch = 16 ∨ x.formation = true then a.value else 0, 0⟩ := by
  have modes : (x.check.isSome && bitOf a.flags 8) = false := by rcases hk with hk | hk <;> simp [hk]
  simp only [climb, hx, hc, hv, hs, hr, ha, modes, Bool.false_eq_true, if_false, Bool.not_true, Option.isSome_none, Bool.or_self]
  rfl

theorem climb_of_alone (hv : flag d (F.fabSlice_valid p) = false) (ho : ownComplete ch x = true) (ha : x.own = some a) :
    climb d p ch = setChan d p ch { x with release := some (getF d F.fabFtc_ftc + 400, a) } := by
  simp only [climb, hx, hc, hv, ha, ho, Bool.false_eq_true, if_false, Bool.not_false, if_true]
  rfl

end

theorem getF_releaseUse (d : Dev) (p ch : Nat) (x : Chan) (t : Nat) (a : Arrival) (k : FKey) :
    getF (releaseUse d p ch x t a) k = getF d k :=
  (PortsOnly.forEach (step := fun e q => sendSb e q ⟨2, p, ch, useGen e p ch x, a.flags, t, if ch = 16 then a.value % 2 ^ 28 else 0⟩)
    (fun _ _ => portsOnly_sendSb ..) (childPorts d p) (setChan d p ch { x with release := some (t, a) })).field k

theorem releaseMessage_of_use {d e : Dev} {n : Nat} {m : SbMsg} {x : Chan} (h : takeSb d n 2 = some (m, e))
    (hx : Tab.get? e.chans (m.part, m.chan) = some x) (hc : x.cancelled = false) (hs : x.sent = true) (hr : x.release = none)
    (hgen : m.gen = useGen e m.part m.chan x) (hup : getF e (F.fabSlcfg_up m.part) = n) (ht : getF d F.fabFtc_ftc ≤ m.value) :
    releaseMessage d n = releaseUse e m.part m.chan x m.value ⟨m.flags, if m.chan = 16 then m.ext else m.value⟩ := by
  have hgo : (x.cancelled || !x.sent || x.release.isSome || m.gen != useGen e m.part m.chan x ||
      getF e (F.fabSlcfg_up m.part) != n) = false := by
    rw [← hgen, hup, hc, hs, hr]
    simp
  have intime : ftcOf (releaseUse e m.part m.chan x m.value ⟨m.flags, if m.chan = 16 then m.ext else m.value⟩) ≤ m.value := by
    rw [ftcOf, getF_releaseUse, (portsOnly_takeSb h).field]
    exact ht
  simp only [releaseMessage, h, hx, hgo, intime, Bool.false_eq_true, if_false, if_true]

/-! A use completes (R274, R125) -/

/-- The flag check's outcome as it is written, and its gyle in the history (R125, R127). -/
def checkNoted (d : Dev) (p gyle flags : Nat) : Dev :=
  let fault := bitOf flags 1
  let nonfin := bitOf flags 0 || fault
  let d := setF (setF d (F.fabNflag_chk_gyle p) gyle) (F.fabNflag_chk_valid p) 1
  let d := setF (setF d (F.fabNflag_red_fault p) (b2n fault)) (F.fabNflag_red_nonfin p) (b2n nonfin)
  enterHistory d p gyle nonfin

theorem barrierKept_checkRelease (d : Dev) (p gyle t flags : Nat) :
    BarrierKept (checkNoted d p gyle flags) (checkRelease d p gyle t flags) := by
  unfold checkRelease
  extract_lets fault nonfin d1 d2 d3 d4 d5
  have moded : BarrierKept (checkNoted d p gyle flags) (enterHistory d3 p gyle nonfin) := ⟨rfl, rfl, fun _ _ => rfl⟩
  have opened : BarrierKept (checkNoted d p gyle flags) d4 := (moded.trans (barrierKept_lossScale ..)).trans (barrierKept_openBatch ..)
  have released : BarrierKept d4 d5 := (barrierKept_releaseMode ..).trans (barrierKept_epochRelease ..)
  exact (opened.trans released).trans ((barrierKept_kilnRelease ..).trans (barrierKept_sweepRelease ..))

/-- A use that is complete is gone and counted. -/
def useCounted (d : Dev) (p ch : Nat) : Dev :=
  addF { d with chans := Tab.erase d.chans (p, ch), gens := Tab.put d.gens (p, ch) ((count? d.gens (p, ch) + 1) % 65536) }
    (F.fabSlstat_releases p) 1

/-- What the cluster and the drain channel make of a release. -/
def joinersGoOn (d : Dev) (p ch : Nat) (x : Chan) (a : Arrival) : Dev :=
  if ch = 17 then applyEpoch d p
  else forEach x.joined d (fun d c =>
    if ch = 16 then completeAmax d c a else completeBar d c (bitOf a.flags 0 || bitOf a.flags 1))

theorem barrierKept_joinersGoOn (d : Dev) (p ch : Nat) (x : Chan) (a : Arrival) : BarrierKept d (joinersGoOn d p ch x a) :=
  .ite (barrierKept_applyEpoch d p) (.forEach (fun _ _ => .ite (barrierKept_completeAmax ..) (barrierKept_completeBar ..)) _ d)

theorem completeUse_of_plain {d : Dev} {p ch : Nat} {x : Chan} (h : x.check = none) (t : Nat) (a : Arrival) :
    completeUse d p ch x t a = joinersGoOn (useCounted d p ch) p ch x a := by
  simp only [completeUse, h]
  rfl

theorem completeUse_of_check {d : Dev} {p ch g : Nat} {x : Chan} (h : x.check = some g) (t : Nat) (a : Arrival) :
    completeUse d p ch x t a = joinersGoOn (checkRelease (useCounted d p ch) p g t a.flags) p ch x a := by
  simp only [completeUse, h]
  rfl

theorem getF_useCounted_releases (d : Dev) (p ch : Nat) : getF (useCounted d p ch) (F.fabSlstat_releases p) =
    (getF d (F.fabSlstat_releases p) + 1) % 2 ^ (F.fabSlstat_releases p).width := getF_setF_same ..

theorem getF_useCounted_of_ne (d : Dev) {p : Nat} (ch : Nat) {k : FKey} (hk : F.fabSlstat_releases p ≠ k) :
    getF (useCounted d p ch) k = getF d k := getF_setF_of_ne _ _ hk

theorem chans_useCounted (d : Dev) (p ch : Nat) : Tab.get? (useCounted d p ch).chans (p, ch) = none := Tab.get?_erase_same ..

theorem getF_ftcReaches (d : Dev) (t : Nat) : getF (ftcReaches d t) F.fabFtc_ftc = max (getF d F.fabFtc_ftc) t % 2 ^ 64 :=
  getF_setF_same ..

theorem getF_ftcReaches_of_ne (d : Dev) (t : Nat) {k : FKey} (hk : F.fabFtc_ftc ≠ k) : getF (ftcReaches d t) k = getF d k :=
  getF_setF_of_ne _ _ hk

section
variable {d : Dev} {p ch t : Nat} {x : Chan} {a : Arrival} (hx : Tab.get? d.chans (p, ch) = some x) (hr : x.release = some (t, a))
include hx hr

theorem reachChannel_of_plain (hc : x.cancelled = false) (hf : x.formation = false) (hk : x.check = none) :
    reachChannel d p ch = joinersGoOn (useCounted (ftcReaches d t) p ch) p ch x a := by
  have hgo : (x.cancelled || x.formation || x.check.isSome) = false := by rw [hc, hf, hk]; rfl
  simp only [reachChannel, hx, hgo, Bool.false_eq_true, if_false, reachRelease, hr, completeUse_of_plain hk]
  rfl

theorem reachCheck_of_check {g : Nat} (hch : checkChannel d p = some ch) (hk : x.check = some g) :
    reachCheck d p = joinersGoOn (checkRelease (useCounted (ftcReaches d t) p ch) p g t a.flags) p ch x a := by
  simp only [reachCheck, hch, hx, reachRelease, hr, completeUse_of_check hk]
  rfl

end

/-- A released use, and the ticks until its release. -/
theorem barrierKept_passing_reachChannel {d : Dev} {p ch t : Nat} {x : Chan} {a : Arrival}
    (hx : Tab.get? d.chans (p, ch) = some x) (hr : x.release = some (t, a)) (hc : x.cancelled = false) (hf : x.formation = false)
    (hk : x.check = none) : BarrierKept (useCounted (ftcReaches d t) p ch) (passing (fun d => reachChannel d p ch) d) := by
  unfold passing
  dsimp only
  rw [reachChannel_of_plain hx hr hc hf hk]
  exact (barrierKept_joinersGoOn ..).trans (barrierKept_countTicks ..)

theorem barrierKept_passing_reachCheck {d : Dev} {p ch t g : Nat} {x : Chan} {a : Arrival} (hch : checkChannel d p = some ch)
    (hx : Tab.get? d.chans (p, ch) = some x) (hr : x.release = some (t, a)) (hk : x.check = some g) :
    BarrierKept (checkNoted (useCounted (ftcReaches d t) p ch) p g a.flags) (passing (fun d => reachCheck d p) d) := by
  unfold passing
  dsimp only
  rw [reachCheck_of_check hx hr hch hk]
  exact ((barrierKept_checkRelease ..).trans (barrierKept_joinersGoOn ..)).trans (barrierKept_countTicks ..)

section
variable (d : Dev) (p gyle flags : Nat)

theorem checkNoted_gyle (h : gyle < 2 ^ 48) : getF (checkNoted d p gyle flags) (F.fabNflag_chk_gyle p) = gyle := by
  change getF (setF (setF (setF (setF d _ _) _ _) _ _) _ _) _ = _
  rw [getF_setF_of_ne _ _ (by simp), getF_setF_of_ne _ _ (by simp), getF_setF_of_ne _ _ (by simp), getF_setF_same]
  exact Nat.mod_eq_of_lt h

theorem checkNoted_valid : getF (checkNoted d p gyle flags) (F.fabNflag_chk_valid p) = 1 := by
  change getF (setF (setF (setF (setF d _ _) _ _) _ _) _ _) _ = _
  rw [getF_setF_of_ne _ _ (by simp), getF_setF_of_ne _ _ (by simp), getF_setF_same]
  rfl

theorem checkNoted_fault : getF (checkNoted d p gyle flags) (F.fabNflag_red_fault p) = b2n (bitOf flags 1) := by
  change getF (setF (setF (setF (setF d _ _) _ _) _ _) _ _) _ = _
  rw [getF_setF_of_ne _ _ (by simp), getF_setF_same]
  exact b2n_mod_two _

theorem checkNoted_nonfin : getF (checkNoted d p gyle flags) (F.fabNflag_red_nonfin p) = b2n (bitOf flags 0 || bitOf flags 1) := by
  change getF (setF (setF (setF (setF d _ _) _ _) _ _) _ _) _ = _
  rw [getF_setF_same]
  exact b2n_mod_two _

theorem checkNoted_history : ((Tab.get? (checkNoted d p gyle flags).history p).getD []).head? =
    some (gyle, bitOf flags 0 || bitOf flags 1) := by
  simp [checkNoted, enterHistory]

end

/-! FAB_NFLAGp as a host writes it (R123) -/

theorem nflagWrite_nonfin (d : Dev) (p v : Nat) : getF (nflagWrite d p v) (F.fabNflag_nonfin p) =
    if bitOf v 0 || bitOf v 1 then 1 else getF d (F.fabNflag_nonfin p) := by
  unfold nflagWrite
  extract_lets e
  have hf : getF (if bitOf v 1 then setF e (F.fabNflag_fault p) 1 else e) (F.fabNflag_nonfin p) = getF e (F.fabNflag_nonfin p) := by
    split
    · exact getF_setF_of_ne _ _ (by simp)
    · rfl
  rw [hf]
  simp only [e]
  split
  · exact getF_setF_same ..
  · rfl

theorem nflagWrite_fault (d : Dev) (p v : Nat) : getF (nflagWrite d p v) (F.fabNflag_fault p) =
    if bitOf v 1 then 1 else getF d (F.fabNflag_fault p) := by
  unfold nflagWrite
  extract_lets e
  split
  · exact getF_setF_same ..
  · simp only [e]
    split
    · exact getF_setF_of_ne _ _ (by simp)
    · rfl

theorem nflagWrite_other (d : Dev) (p v : Nat) {k : FKey} (hn : k ≠ F.fabNflag_nonfin p) (hf : k ≠ F.fabNflag_fault p) :
    getF (nflagWrite d p v) k = getF d k := by
  have hset (e : Dev) : getF (setNonfin e p) k = getF e k := getF_setF_of_ne _ _ hn.symm
  unfold nflagWrite
  simp only [apply_ite (fun e => getF e k), hset, getF_setF_of_ne _ _ hf.symm, ite_self]

/-! A slice fault (R278) -/

/-- The fault as it is shown. -/
def faultShown (d : Dev) (p cause : Nat) : Dev :=
  raise (setF (setF d (F.fabSlstat_fault p) 1) (F.fabSlstat_cause p) cause) (some p) (F.fabIrq_slice_fault p) (F.fabIrqEn_slice_fault p)

/-- Every channel of a partition cancelled. -/
def chansCancelled (d : Dev) (p : Nat) : Dev :=
  { d with chans := d.chans.map (fun e => if e.1.1 = p then (e.1, { e.2 with cancelled := true }) else e) }

theorem cancelled_of_chansCancelled {d : Dev} {p k : Nat} {x : Chan} (h : Tab.get? (chansCancelled d p).chans (p, k) = some x) :
    x.cancelled = true := by
  unfold chansCancelled at h
  dsimp only at h
  generalize d.chans = l at h
  induction l with
  | nil => cases h
  | cons e l ih =>
    obtain ⟨⟨q, j⟩, y⟩ := e
    rw [List.map_cons] at h
    by_cases hq : q = p
    · rw [if_pos hq, Tab.get?] at h
      split at h
      · rw [← Option.some.inj h]
      · exact ih h
    · rw [if_neg hq, Tab.get?, if_neg (fun he => hq (Prod.mk.inj he).1)] at h
      exact ih h

theorem sliceFault_kept {d : Dev} {p cause : Nat} (hv : flag d (F.fabSlice_valid p) = true) (hf : flag d (F.fabSlstat_fault p) = false) :
    ∃ e, PortsOnly { faultShown d p cause with reports := .sliceFault p cause :: (faultShown d p cause).reports } e ∧
      BarrierKept (chansCancelled e p) (sliceFault d p cause) := by
  unfold sliceFault
  rw [hv, hf, if_neg (by simp)]
  exact ⟨_, .forEach (fun _ _ => portsOnly_sendSb ..) _ _,
    (BarrierKept.forEach (fun _ _ => .ite (barrierKept_withdrawCancelled ..) (.refl _)) _ _).trans (barrierKept_abortColls ..)⟩

/-- What a host and the partition's clusters see of a slice fault. -/
structure SliceFaulted (d : Dev) (p cause : Nat) : Prop where
  fault : getF d (F.fabSlstat_fault p) = 1
  cause : getF d (F.fabSlstat_cause p) = cause
  irq : getF d (F.fabIrq_slice_fault p) = 1
  cancelled : ∀ k x, Tab.get? d.chans (p, k) = some x → x.cancelled = true

theorem getF_faultShown (d : Dev) (p cause : Nat) (k : FKey) : getF (faultShown d p cause) k =
    getF (setF (setF (setF d (F.fabSlstat_fault p) 1) (F.fabSlstat_cause p) cause) (F.fabIrq_slice_fault p) 1) k := getF_raise ..

theorem sliceFaulted_sliceFault {d : Dev} {p cause : Nat} (hv : flag d (F.fabSlice_valid p) = true)
    (hf : flag d (F.fabSlstat_fault p) = false) (hcause : cause ≤ 5) : SliceFaulted (sliceFault d p cause) p cause := by
  obtain ⟨e, ports, kept⟩ := sliceFault_kept (cause := cause) hv hf
  have shown (k : FKey) (hk : barrierField k = true) : getF (sliceFault d p cause) k = getF (faultShown d p cause) k :=
    (kept.field k hk).trans (ports.field k)
  refine ⟨?_, ?_, ?_, fun k x hx => cancelled_of_chansCancelled (kept.chans ▸ hx)⟩
  · rw [shown _ rfl, getF_faultShown, getF_setF_of_ne _ _ (by simp), getF_setF_of_ne _ _ (by simp), getF_setF_same]
    rfl
  · rw [shown _ rfl, getF_faultShown, getF_setF_of_ne _ _ (by simp), getF_setF_same]
    exact Nat.mod_eq_of_lt (Nat.lt_of_le_of_lt hcause (by decide : 5 < 2 ^ 4))
  · rw [shown _ (by simp [barrierField]), getF_faultShown, getF_setF_same]
    rfl

theorem sliceFaulted_faultMessage {d e : Dev} {n : Nat} {m : SbMsg} (h : takeSb d n 3 = some (m, e))
    (hv : flag d (F.fabSlice_valid m.part) = true) (hf : flag d (F.fabSlstat_fault m.part) = false) :
    SliceFaulted (faultMessage d n) m.part (if m.value % 16 = 5 then 5 else 4) := by
  have same (k : FKey) : flag e k = flag d k := congrArg (· != 0) ((portsOnly_takeSb h).field k)
  simp only [faultMessage, h]
  exact sliceFaulted_sliceFault ((same _).trans hv) ((same _).trans hf) (by split <;> decide)

theorem timeoutChannel_of_waiting {d : Dev} {p ch : Nat} {x : Chan} (hx : Tab.get? d.chans (p, ch) = some x)
    (ho : x.own.isSome = true) (hr : x.release = none) (hc : x.cancelled = false) (hf : x.formation = false) :
    timeoutChannel d p ch = sliceFault d p 3 := by
  simp [timeoutChannel, hx, ho, hr, hc, hf]

theorem arriveDrain_of_empty {d : Dev} {p : Nat} (hd : flag d (F.fabEpoch_draining p) = true)
    (ho : getF d (F.fabEpoch_open_old p) = 0) (he : (openUse d p 17).engine = false) :
    arriveDrain d p = arriveChan d p 17 ⟨0, 0⟩ (fun x => { x with engine := true }) := by
  simp [arriveDrain, hd, ho, he]

/-- Settles O42: an event of a channel leaves to the barrier unit what the barrier unit alone writes (`BarrierKept`), so that what a release
and a flag check note is still there once all that waited for them has gone on. -/
theorem channels : Obligations.Channels := by
  unfold Obligations.Channels
  intro s p n ch hg d faulted
  refine ⟨fun m e h hch hv hc hgen hn hr => ?arrive, fun x a hx hc hv hs hr ha hk => ?climb, fun x a hx hc hv ho ha => ?alone,
    fun m e x h hx hc hs hr hgen hup ht => ?release, fun x t a hx hc hf hk hr => ?reached, fun c x t a g hch hx hr hk hg48 => ?check,
    fun v => ?nflag, ⟨fun m e h _ hv hf => ?fault, fun x hx ho hr hc hform hv hf => ?timeout⟩, fun hd ho he => ?drain⟩
  case arrive => rw [exec_arrive hg, arriveMessage_of_child h hch hv hc hgen hn hr]
  case climb => exact climb_of_complete hx hc hv hs hr ha hk
  case alone => exact climb_of_alone hx hc hv ho ha
  case release => rw [exec_release hg, releaseMessage_of_use h hx hc hs hr hgen hup ht]
  case reached =>
    have kept := barrierKept_passing_reachChannel hx hr hc hf hk
    refine ⟨_, exec_channelReleaseReached hg p ch, ?_, ?_, ?_⟩
    · rw [kept.chans, chans_useCounted]
    · rw [kept.field _ rfl, getF_useCounted_releases, getF_ftcReaches_of_ne _ _ (by simp)]
    · rw [kept.field _ rfl, getF_useCounted_of_ne _ _ (by simp), getF_ftcReaches]
  case check =>
    have kept := barrierKept_passing_reachCheck hch hx hr hk
    refine ⟨_, exec_flagCheckRelease hg p, ?_, ?_, ?_, ?_, ?_⟩
    · rw [kept.field _ (by simp [barrierField]), checkNoted_gyle _ _ _ _ hg48]
    · rw [kept.field _ (by simp [barrierField]), checkNoted_valid]
    · rw [kept.field _ (by simp [barrierField]), checkNoted_fault]
    · rw [kept.field _ (by simp [barrierField]), checkNoted_nonfin]
    · rw [kept.history, checkNoted_history]
  case nflag =>
    exact ⟨_, exec_nflagWrite hg p v, nflagWrite_nonfin .., nflagWrite_fault .., fun _ hn hf => nflagWrite_other _ _ _ hn hf, nflagWrite_mem ..⟩
  case fault =>
    obtain ⟨hfault, hcause, hirq, hcancelled⟩ := sliceFaulted_faultMessage h hv hf
    exact ⟨_, exec_faultMessage hg n, hfault, hcause, hirq, hcancelled⟩
  case timeout =>
    obtain ⟨hfault, hcause, hirq, hcancelled⟩ := sliceFaulted_sliceFault hv hf (by decide : 3 ≤ 5)
    rw [← timeoutChannel_of_waiting hx ho hr hc hform] at hfault hcause hirq hcancelled
    exact ⟨_, exec_channelTimeout hg p ch, hfault, hcause, hirq, hcancelled⟩
  case drain => rw [exec_drainArrive hg, arriveDrain_of_empty hd ho he]

end Sys2Proof.Machine
end

section
namespace Sys2Proof.Machine

/-! What the work of a kiln job writes beside the jobs and their records (R147, R249; Tables 3.6, 6.12 to 6.14): a frame for the rest -/

/-- The fields it may write: the local flags, what the arrays of lent clusters and the kiln's cores show, counts and interrupts. -/
def kilnWorkField (k : FKey) : Bool :=
  match k.reg with
  | .fabNflag p => k == F.fabNflag_nonfin p || k == F.fabNflag_fault p
  | .mcArrStatus _ | .mcArrBusy _ | .mcArrRouse _ | .mcArrStallLoad _ | .mcArrStallBank _ | .mcArrAcc _ => true
  | .klnCore _ | .klnCnt _ | .klnIrq _ => true
  | _ => false

/-- The jobs, the batch records, the modes and every other field as they were. -/
structure KilnKept (d e : Dev) : Prop where
  kjobs : e.kjobs = d.kjobs
  batch : e.batch = d.batch
  modes : e.modes = d.modes
  checkModes : e.checkModes = d.checkModes
  field : ∀ k, kilnWorkField k = false → getF e k = getF d k

namespace KilnKept
variable {d e g : Dev}

theorem refl (d : Dev) : KilnKept d d := ⟨rfl, rfl, rfl, rfl, fun _ _ => rfl⟩

theorem trans (h : KilnKept d e) (h' : KilnKept e g) : KilnKept d g :=
  ⟨h'.kjobs.trans h.kjobs, h'.batch.trans h.batch, h'.modes.trans h.modes, h'.checkModes.trans h.checkModes,
    fun k hk => (h'.field k hk).trans (h.field k hk)⟩

theorem ite {q : Prop} [Decidable q] (h : KilnKept d e) (h' : KilnKept d g) : KilnKept d (if q then e else g) := by
  split
  · exact h
  · exact h'

theorem forEach {α : Type} {step : Dev → α → Dev} (hs : ∀ d a, KilnKept d (step d a)) (l : List α) (d : Dev) :
    KilnKept d (forEach l d step) :=
  forEach_keeps (P := fun e => KilnKept d e) (fun e a h => h.trans (hs e a)) l d (refl d)

theorem setF {k : FKey} (hk : kilnWorkField k = true) (d : Dev) (v : Nat) : KilnKept d (setF d k v) :=
  ⟨rfl, rfl, rfl, rfl, fun j hj => getF_setF_of_ne d v (fun h => by rw [h, hj] at hk; cases hk)⟩

theorem raise {irq : FKey} (hk : kilnWorkField irq = true) (d : Dev) (p : Option Nat) (en : FKey) : KilnKept d (raise d p irq en) := by
  refine ⟨?_, ?_, ?_, ?_, fun j hj => (getF_raise d p irq en j).trans ((setF hk d 1).field j hj)⟩
  all_goals
    unfold Machine.raise
    split
    · dsimp only
      split <;> rfl
    · rfl

/-- The jobs of each partition. -/
theorem kjobsOf (h : KilnKept d e) (p : Nat) : kjobsOf e p = kjobsOf d p := by unfold Machine.kjobsOf; rw [h.kjobs]

theorem batchOf (h : KilnKept d e) (p g : Nat) : batchOf e p g = batchOf d p g := by unfold Machine.batchOf; rw [h.batch]

theorem flag (h : KilnKept d e) {k : FKey} (hk : kilnWorkField k = false) : flag e k = flag d k := congrArg (· != 0) (h.field k hk)

/-- The outcome of a flag check is not among the flags that lost data set. -/
theorem chkValid (h : KilnKept d e) (p : Nat) : Machine.flag e (F.fabNflag_chk_valid p) = Machine.flag d (F.fabNflag_chk_valid p) :=
  h.flag (by simp [kilnWorkField])

theorem chkGyle (h : KilnKept d e) (p : Nat) : getF e (F.fabNflag_chk_gyle p) = getF d (F.fabNflag_chk_gyle p) :=
  h.field _ (by simp [kilnWorkField])

theorem gyleMode (h : KilnKept d e) (p n : Nat) : gyleMode e p n = gyleMode d p n := by
  unfold Machine.gyleMode modeOf
  rw [h.chkValid, h.chkGyle, h.checkModes, h.modes, h.field F.pwrMode_mode rfl]

theorem jobMode (h : KilnKept d e) (p : Nat) (j : KilnJob) : jobMode e p j = jobMode d p j := by
  unfold Machine.jobMode
  rw [h.gyleMode]

theorem jobRef (h : KilnKept d e) (p : Nat) (j : KilnJob) : jobRef e p j = jobRef d p j := by
  unfold Machine.jobRef
  rw [h.jobMode]

/-- A deadline finds a job the same. -/
theorem meetDeadline (h : KilnKept d e) (p : Nat) (j : KilnJob) : meetDeadline e p j = meetDeadline d p j := by
  unfold Machine.meetDeadline policyOf
  rw [h.jobRef]

theorem streams (h : KilnKept d e) (p : Nat) (j : KilnJob) : streams e p j = streams d p j := by
  unfold Machine.streams resident
  rw [h.field (F.klnPcfg_bank_cnt p) rfl]

theorem lentBanks (h : KilnKept d e) (c : Nat) : lentBanks e c = lentBanks d c := by
  unfold Machine.lentBanks
  rw [h.flag (k := F.mcLend_enable c) rfl, h.field (F.mcLend_bank_mask c) rfl]

end KilnKept

/-! Accesses to memory, and the records and results that a job writes -/

theorem kilnKept_reachRange (d : Dev) (p a n : Nat) : KilnKept d (reachRange d p a n) := by
  have acc := accessed_reachRange d p a n
  exact ⟨acc.same Dev.kjobs (fun _ _ _ _ _ _ _ _ _ _ _ _ => rfl), acc.same Dev.batch (fun _ _ _ _ _ _ _ _ _ _ _ _ => rfl),
    acc.same Dev.modes (fun _ _ _ _ _ _ _ _ _ _ _ _ => rfl), acc.same Dev.checkModes (fun _ _ _ _ _ _ _ _ _ _ _ _ => rfl),
    fun k _ => getF_congr (reachRange_f d p a n) k⟩

theorem kilnKept_setDataFault (d : Dev) (p : Nat) : KilnKept d (setDataFault d p) :=
  (KilnKept.setF (by simp [kilnWorkField]) d 1).trans (.setF (by simp [kilnWorkField]) _ 1)

theorem kilnKept_noteRead (d : Dev) (p a n : Nat) : KilnKept d (noteRead d p a n) := by
  refine (kilnKept_reachRange d p a n).trans (.forEach (fun d wv => ?_) _ _)
  split
  · have page (x : Page) : KilnKept d (setPage (cancelEviction d (p, wv.1, wv.2)) p wv.1 wv.2 x) := ⟨rfl, rfl, rfl, rfl, fun _ _ => rfl⟩
    exact .ite ((page _).trans (kilnKept_setDataFault _ p)) (page _)
  · exact .refl d

theorem kilnKept_noteWrite (d : Dev) (p a n : Nat) : KilnKept d (noteWrite d p a n) := by
  refine (kilnKept_reachRange d p a n).trans (.forEach (fun d wv => ?_) _ _)
  split
  · exact .ite (.refl d) ⟨rfl, rfl, rfl, rfl, fun _ _ => rfl⟩
  · exact .refl d

theorem kilnKept_viewPut (d : Dev) (p a : Nat) (b : Byte) : KilnKept d (viewPut d p a b) := by
  unfold viewPut
  refine .ite (.refl d) ?_
  split
  · exact .ite ⟨rfl, rfl, rfl, rfl, fun _ _ => rfl⟩ ⟨rfl, rfl, rfl, rfl, fun _ _ => rfl⟩
  · split
    · exact ⟨rfl, rfl, rfl, rfl, fun _ _ => rfl⟩
    · exact .refl d

theorem kilnKept_viewPutList (d : Dev) (p a : Nat) (l : List Byte) : KilnKept d (viewPutList d p a l) := by
  induction l generalizing d a with
  | nil => exact .refl d
  | cons b r ih => exact (kilnKept_viewPut d p a b).trans (ih _ (a + 1))

theorem kilnKept_viewWrite (d : Dev) (p a : Nat) (l : List Byte) : KilnKept d (viewWrite d p a l) :=
  (kilnKept_viewPutList d p a l).trans (kilnKept_noteWrite ..)

theorem kilnKept_viewWriteNat (d : Dev) (p a n v : Nat) : KilnKept d (viewWriteNat d p a n v) := kilnKept_viewWrite ..

theorem kilnKept_writeFactor (d : Dev) (p fblk n k : Nat) (f : Mat) : KilnKept d (writeFactor d p fblk n k f) :=
  .forEach (fun d _ => .forEach (fun d _ => .ite (kilnKept_viewWriteNat d ..) (.refl d)) _ d) _ d

theorem kilnKept_writeRoot (d : Dev) (p fblk n k c : Nat) (x : Mat) : KilnKept d (writeRoot d p fblk n k c x) :=
  .forEach (fun d _ => .forEach (fun d _ => kilnKept_viewWriteNat d ..) _ d) _ d

theorem kilnKept_freeBytes (d : Dev) (n : Nat) : KilnKept d (freeBytes d n).2 := ⟨rfl, rfl, rfl, rfl, fun _ _ => rfl⟩

theorem kilnKept_scribble (d : Dev) (p a n : Nat) : KilnKept d (scribble d p a n) :=
  (kilnKept_freeBytes d n).trans (kilnKept_viewWrite ..)

theorem kilnKept_useArea (d : Dev) (p : Nat) (j : KilnJob) : KilnKept d (useArea d p j) := .ite (kilnKept_scribble ..) (.refl d)

theorem kilnKept_writeHead (d : Dev) (p : Nat) (j : KilnJob) (code : Nat) : KilnKept d (writeHead d p j code) := by
  have slots : KilnKept d (if code = 6 then initSlots d p j else d) :=
    .ite ((kilnKept_writeFactor ..).trans (kilnKept_writeRoot ..)) (.refl d)
  exact slots.trans (.ite (kilnKept_viewWrite ..) (.refl _))

/-! Guest products (R147) -/

theorem ArrayOnly.kilnKept {c : Nat} {d e : Dev} (h : ArrayOnly c d e) : KilnKept d e := by
  refine ⟨h.same Dev.kjobs (fun _ _ _ _ => rfl), h.same Dev.batch (fun _ _ _ _ => rfl), h.same Dev.modes (fun _ _ _ _ => rfl),
    h.same Dev.checkModes (fun _ _ _ _ => rfl), fun k hk => h.field k (fun hr => ?_)⟩
  simp only [arrayRegs, List.mem_cons, List.not_mem_nil, or_false] at hr
  rcases hr with hr | hr | hr | hr | hr | hr <;> simp [kilnWorkField, hr] at hk

theorem kilnKept_modCluster (d : Dev) (c : Nat) (m : Cluster → Cluster) : KilnKept d (modCluster d c m) := ⟨rfl, rfl, rfl, rfl, fun _ _ => rfl⟩

theorem kilnKept_endGuest (d : Dev) (c : Nat) : KilnKept d (endGuest d c) :=
  (kilnKept_modCluster d c _).trans (.ite (arrayOnly_arrayIdle _ c).kilnKept (.refl _))

theorem kilnKept_endGuests (d : Dev) (p job : Nat) : KilnKept d (endGuests d p job) := .forEach kilnKept_endGuest _ d

theorem kilnKept_beginGuest (d : Dev) (p job c : Nat) : KilnKept d (beginGuest d p job c) :=
  (kilnKept_modCluster d c _).trans (.ite (.refl _) (arrayOnly_arrayBusy _ c 6 0).kilnKept)

theorem kilnKept_fillPanel (d : Dev) (c b : Nat) : KilnKept d (fillPanel d c b) := by
  have stored (e : Dev) (m : List Host.Cell) : KilnKept e { e with mem := m } := ⟨rfl, rfl, rfl, rfl, fun _ _ => rfl⟩
  exact (kilnKept_freeBytes d 0x200000).trans (stored _ _)

theorem kilnKept_fillTile (d : Dev) (c t : Nat) : KilnKept d (fillTile d c t) := by
  unfold fillTile
  dsimp only [nextFree]
  refine KilnKept.trans ?_ (.forEach (fun _ _ => ?_) _ _)
  all_goals exact ⟨rfl, rfl, rfl, rfl, fun _ _ => rfl⟩

theorem kilnKept_guestTiles (d : Dev) (c n m : Nat) : KilnKept d (guestTiles d c n m) := by
  unfold guestTiles
  refine .trans (.trans ?_ (.forEach (fun d b => kilnKept_fillPanel d c b) _ _)) (.forEach (fun d t => kilnKept_fillTile d c t) _ _)
  exact (arrayOnly_countArray ..).kilnKept.trans (.setF (k := F.mcArrAcc_count c) rfl _ _)

/-! Cores, counts and interrupts (Tables 6.12 to 6.14) -/

theorem kilnKept_showIter (d : Dev) (j : KilnJob) : KilnKept d (showIter d j) :=
  .forEach (fun d k => .setF (k := F.klnCore_iter k) rfl d _) _ d

theorem kilnKept_releaseCores (d : Dev) (cs : List Nat) : KilnKept d (releaseCores d cs) :=
  .forEach (fun d k => .ite (.refl d) (.setF (k := F.klnCore_state k) rfl d 1)) _ d

theorem kilnKept_discardAttempt (d : Dev) (p : Nat) (j : KilnJob) : KilnKept d (discardAttempt d p j) :=
  (kilnKept_endGuests d p j.idx).trans (.forEach (fun d k => .setF (k := F.klnCore_iter k) rfl d 0) _ _)

theorem kilnKept_requestWake (d : Dev) (x : GatedUnit) : KilnKept d (requestWake d x) := by
  unfold requestWake
  exact .ite (.refl d) (.ite ⟨rfl, rfl, rfl, rfl, fun _ _ => rfl⟩ ⟨rfl, rfl, rfl, rfl, fun _ _ => rfl⟩)

theorem kilnKept_takeCore (d : Dev) (p idx k : Nat) : KilnKept d (takeCore d p idx k) := by
  have shown (e : Dev) (lo v : Nat) : KilnKept e (setF e ⟨.klnCore k, lo⟩ v) := .setF rfl e v
  have taken := ((shown d 8 p).trans (shown _ 32 idx)).trans (shown _ 48 0)
  exact taken.trans (.ite ((shown ..).trans (kilnKept_requestWake ..)) (shown ..))

theorem kilnKept_kilnInterrupts (d : Dev) (p : Nat) (j : KilnJob) (code : Nat) : KilnKept d (kilnInterrupts d p j code) := by
  have irq (e : Dev) (lo : Nat) (en : FKey) : KilnKept e (raise e (some p) ⟨.klnIrq p, lo⟩ en) := .raise rfl e _ en
  have done := KilnKept.ite (q := bitOf (j.w 0) 20 = true) (irq d 0 (F.klnIrqEn_done p)) (.refl d)
  have kept := done.trans (.ite (q := 2 ≤ j.op ∧ j.op ≤ 5 ∧ commitsResult code = false) (irq _ 1 (F.klnIrqEn_kept p)) (.refl _))
  exact kept.trans (.ite (irq ..) (.refl _))

theorem kilnKept_postMask (d : Dev) (mask e : Nat) : KilnKept d (postMask d mask e) :=
  .forEach (step := fun d c => evPost d c e 1) (fun _ _ => kilnKept_modCluster ..) _ d

end Sys2Proof.Machine
end

section
namespace Sys2Proof.Machine

/-! What the bytes of a partition's view and a write to it depend on (Table 13.1, R206, R240, R249) -/

/-- d and e agree in memory, pages, staging slots and whatever says what an address names. -/
structure SameView (d e : Dev) : Prop where
  mem : e.mem = d.mem
  pages : e.pages = d.pages
  stamps : e.stamps = d.stamps
  stg : e.stg = d.stg
  sweeps : e.sweeps = d.sweeps
  owns : ∀ p, getF e (F.hostPcfg_clusters p) = getF d (F.hostPcfg_clusters p)
  units : ∀ p, getF e (F.rkPcfg_units p) = getF d (F.rkPcfg_units p)
  sweepState : ∀ p, getF e (F.rkSstat_state p) = getF d (F.rkSstat_state p)

namespace SameView
variable {d e g : Dev}

theorem refl (d : Dev) : SameView d d := ⟨rfl, rfl, rfl, rfl, rfl, fun _ => rfl, fun _ => rfl, fun _ => rfl⟩

theorem symm (h : SameView d e) : SameView e d :=
  ⟨h.mem.symm, h.pages.symm, h.stamps.symm, h.stg.symm, h.sweeps.symm, fun p => (h.owns p).symm, fun p => (h.units p).symm,
    fun p => (h.sweepState p).symm⟩

theorem trans (h : SameView d e) (h' : SameView e g) : SameView d g :=
  ⟨h'.mem.trans h.mem, h'.pages.trans h.pages, h'.stamps.trans h.stamps, h'.stg.trans h.stg, h'.sweeps.trans h.sweeps,
    fun p => (h'.owns p).trans (h.owns p), fun p => (h'.units p).trans (h.units p), fun p => (h'.sweepState p).trans (h.sweepState p)⟩

theorem ite {q : Prop} [Decidable q] (h : SameView d e) (h' : SameView d g) : SameView d (if q then e else g) := by
  split
  · exact h
  · exact h'

theorem forEach {α : Type} {step : Dev → α → Dev} (hs : ∀ d a, SameView d (step d a)) (l : List α) (d : Dev) :
    SameView d (forEach l d step) :=
  forEach_keeps (P := fun e => SameView d e) (fun e a h => h.trans (hs e a)) l d (refl d)

/-- One list of changes on both sides. -/
theorem forEach_both {α : Type} {step : Dev → α → Dev} (hs : ∀ d e a, SameView d e → SameView (step d a) (step e a)) (l : List α)
    (h : SameView d e) : SameView (Machine.forEach l d step) (Machine.forEach l e step) := by
  induction l generalizing d e with
  | nil => exact h
  | cons a r ih => exact ih (hs d e a h)

/-! What an address names, and the bytes there -/

theorem pageAt (h : SameView d e) : pageAt e = pageAt d := by
  unfold Machine.pageAt
  rw [h.pages]

theorem slotUnits (h : SameView d e) : slotUnits e = slotUnits d := by
  funext p
  unfold Machine.slotUnits unitsOf
  rw [h.sweeps, h.units, h.sweepState]

theorem placeOf (h : SameView d e) : placeOf e = placeOf d := by
  unfold Machine.placeOf ownsCluster
  simp only [h.pageAt, h.slotUnits, h.owns]

theorem keyOf (h : SameView d e) : keyOf e = keyOf d := by
  unfold Machine.keyOf
  rw [h.placeOf, h.pageAt, h.slotUnits]

theorem lostByte (h : SameView d e) : lostByte e = lostByte d := by
  unfold Machine.lostByte
  rw [h.placeOf, h.pageAt]

theorem viewByte (h : SameView d e) : viewByte e = viewByte d := by
  unfold Machine.viewByte
  rw [h.lostByte, h.keyOf, h.mem]

theorem viewRead (h : SameView d e) (p a n : Nat) : viewRead e p a n = viewRead d p a n := by
  induction n generalizing a with
  | zero => rfl
  | succ n ih => rw [Machine.viewRead, Machine.viewRead, h.viewByte, ih]

theorem headWord (h : SameView d e) (p fblk i : Nat) : headWord e p fblk i = headWord d p fblk i := congrArg leNat (h.viewRead ..)

theorem pagesTouched (h : SameView d e) (p a n : Nat) : pagesTouched e p a n = pagesTouched d p a n := by
  unfold Machine.pagesTouched
  rw [h.placeOf]

theorem inHbmWindow (h : SameView d e) (p a n : Nat) : inHbmWindow e p a n = inHbmWindow d p a n := by
  unfold Machine.inHbmWindow rangePages
  rw [h.placeOf]

/-! The same bytes written to both -/

theorem setF {k : FKey} (hk : ∀ p, k.reg ≠ .hostPcfg p ∧ k.reg ≠ .rkPcfg p ∧ k.reg ≠ .rkSstat p) (d : Dev) (v : Nat) :
    SameView d (setF d k v) :=
  ⟨rfl, rfl, rfl, rfl, rfl, fun p => getF_setF_of_ne d v (FKey.ne_of_reg (hk p).1), fun p => getF_setF_of_ne d v (FKey.ne_of_reg (hk p).2.1),
    fun p => getF_setF_of_ne d v (FKey.ne_of_reg (hk p).2.2)⟩

theorem stagePut (h : SameView d e) (u i off : Nat) (b : Byte) : SameView (stagePut d u i off b) (stagePut e u i off b) := by
  have slot : stgSlot e u i = stgSlot d u i := by rw [stgSlot, stgSlot, h.stg]
  unfold Machine.stagePut
  rw [slot]
  dsimp only
  split
  · exact ⟨h.mem, h.pages, h.stamps, h.stg, h.sweeps, h.owns, h.units, h.sweepState⟩
  · exact ⟨by rw [h.mem], h.pages, h.stamps, by rw [h.stg], h.sweeps, h.owns, h.units, h.sweepState⟩

theorem viewPut (h : SameView d e) (p a : Nat) (b : Byte) : SameView (viewPut d p a b) (viewPut e p a b) := by
  unfold Machine.viewPut
  rw [h.lostByte, h.placeOf, h.keyOf, h.slotUnits]
  split
  · exact h
  · split
    · exact h.stagePut ..
    · split
      · exact ⟨by rw [h.mem], h.pages, h.stamps, h.stg, h.sweeps, h.owns, h.units, h.sweepState⟩
      · exact h

theorem viewPutList (h : SameView d e) (p a : Nat) (l : List Byte) : SameView (viewPutList d p a l) (viewPutList e p a l) := by
  induction l generalizing d e a with
  | nil => exact h
  | cons b r ih => exact ih (h.viewPut p a b) (a + 1)

theorem requestWake (d : Dev) (x : GatedUnit) : SameView d (requestWake d x) := by
  have woken (ga wa wq : List GatedUnit) : SameView d { d with gated := ga, waking := wa, wakeQueue := wq } :=
    ⟨rfl, rfl, rfl, rfl, rfl, fun _ => rfl, fun _ => rfl, fun _ => rfl⟩
  unfold Machine.requestWake
  exact .ite (.refl d) (.ite (woken _ _ _) (woken _ _ _))

theorem reachRange (d : Dev) (p a n : Nat) : SameView d (reachRange d p a n) := by
  have ungated (e : Dev) (x : GatedUnit) : SameView e (ungate e x) :=
    ⟨rfl, rfl, rfl, rfl, rfl, fun _ => rfl, fun _ => rfl, fun _ => rfl⟩
  exact .forEach (fun d x => .ite (.refl d) (.ite (requestWake d x) (ungated d x))) _ d

theorem noteWrite (h : SameView d e) (p a n : Nat) : SameView (noteWrite d p a n) (noteWrite e p a n) := by
  unfold Machine.noteWrite
  rw [h.pagesTouched]
  refine .forEach_both (fun d e wv h => ?_) _ (((reachRange d p a n).symm.trans h).trans (reachRange e p a n))
  rw [h.pageAt]
  split
  · split
    · exact h
    · exact ⟨h.mem, by simp only [setPage, cancelEviction, h.pages, h.stamps], congrArg (· + 1) h.stamps, h.stg, h.sweeps, h.owns, h.units,
        h.sweepState⟩
  · exact h

theorem viewWrite (h : SameView d e) (p a : Nat) (l : List Byte) : SameView (viewWrite d p a l) (viewWrite e p a l) :=
  (h.viewPutList p a l).noteWrite ..

theorem viewWriteNat (h : SameView d e) (p a n v : Nat) : SameView (viewWriteNat d p a n v) (viewWriteNat e p a n v) := h.viewWrite ..

/-! The same slots and header written to both (R139, R140) -/

theorem writeFactor (h : SameView d e) (p fblk n k : Nat) (f : Mat) : SameView (writeFactor d p fblk n k f) (writeFactor e p fblk n k f) := by
  refine forEach_both (fun d e i h => ?_) (List.range n) h
  refine forEach_both (fun d e j h => ?_) (List.range n) h
  split
  · exact h.viewWriteNat ..
  · exact h

theorem writeRoot (h : SameView d e) (p fblk n k c : Nat) (x : Mat) : SameView (writeRoot d p fblk n k c x) (writeRoot e p fblk n k c x) := by
  refine forEach_both (fun d e i h => ?_) (List.range n) h
  refine forEach_both (fun d e j h => ?_) (List.range n) h
  exact h.viewWriteNat ..

theorem headAfter (h : SameView d e) (p : Nat) (j : KilnJob) (code : Nat) : headAfter e p j code = headAfter d p j code := by
  have words : Machine.headWord e p j.fblk = Machine.headWord d p j.fblk := funext (h.headWord p j.fblk)
  unfold Machine.headAfter
  rw [words]

theorem writeHead (h : SameView d e) (p : Nat) (j : KilnJob) (code : Nat) : SameView (writeHead d p j code) (writeHead e p j code) := by
  have slots : SameView (if code = 6 then initSlots d p j else d) (if code = 6 then initSlots e p j else e) := by
    split
    · exact (h.writeFactor ..).writeRoot ..
    · exact h
  unfold Machine.writeHead
  dsimp only
  rw [slots.headAfter]
  split
  · exact slots.viewWrite ..
  · exact slots

end SameView

theorem ArrayOnly.sameView {c : Nat} {d e : Dev} (h : ArrayOnly c d e) : SameView d e :=
  ⟨h.same Dev.mem (fun _ _ _ _ => rfl), h.same Dev.pages (fun _ _ _ _ => rfl), h.same Dev.stamps (fun _ _ _ _ => rfl),
    h.same Dev.stg (fun _ _ _ _ => rfl), h.same Dev.sweeps (fun _ _ _ _ => rfl), fun _ => h.field _ (by simp [arrayRegs]),
    fun _ => h.field _ (by simp [arrayRegs]), fun _ => h.field _ (by simp [arrayRegs])⟩

theorem sameView_endGuests (d : Dev) (p job : Nat) : SameView d (endGuests d p job) := by
  have changed (e : Dev) (c : Nat) (m : Cluster → Cluster) : SameView e (modCluster e c m) :=
    ⟨rfl, rfl, rfl, rfl, rfl, fun _ => rfl, fun _ => rfl, fun _ => rfl⟩
  exact .forEach (fun d c => (changed d c _).trans (.ite (arrayOnly_arrayIdle _ c).sameView (.refl _))) _ d

theorem sameView_releaseCores (d : Dev) (cs : List Nat) : SameView d (releaseCores d cs) :=
  .forEach (fun d k => .ite (.refl d) (.setF (k := F.klnCore_state k) (by simp) d 1)) _ d

end Sys2Proof.Machine
end

section
namespace Sys2Proof.Machine

/-! What one element of a list of changes brings about, and the others keep -/

theorem forEach_establishes {α : Type} {P Q : Dev → Prop} {g : Dev → α → Dev} (hq : ∀ d a, Q d → Q (g d a)) {x : α}
    (hset : ∀ d, Q d → P (g d x)) (hkeep : ∀ d a, P d → P (g d a)) {l : List α} (hx : x ∈ l) {d : Dev} (h : Q d) : P (forEach l d g) := by
  induction l generalizing d with
  | nil => cases hx
  | cons a r ih =>
    rcases List.mem_cons.1 hx with rfl | hr
    · exact forEach_keeps hkeep r _ (hset d h)
    · exact ih hr (hq d a h)

/-! The table of jobs -/

@[simp] theorem kjobsOf_setJob (d : Dev) (p i : Nat) (j : KilnJob) : kjobsOf (setJob d p i j) p = (kjobsOf d p).set i j := by
  simp [kjobsOf, setJob]

theorem getElem?_kjobsOf_setJob {d e : Dev} {p i : Nat} {j : KilnJob} (he : kjobsOf e p = kjobsOf d p) (hj : (kjobsOf d p)[i]? = some j)
    (k : KilnJob) : (kjobsOf (setJob e p i k) p)[i]? = some k := by
  rw [kjobsOf_setJob, he]
  exact List.getElem?_set_self (List.getElem?_eq_some_iff.1 hj).1

/-- The device without job i of a partition. -/
def jobRemoved (d : Dev) (p i : Nat) : Dev := { d with kjobs := Tab.put d.kjobs p ((kjobsOf d p).eraseIdx i) }

@[simp] theorem kjobsOf_jobRemoved (d : Dev) (p i : Nat) : kjobsOf (jobRemoved d p i) p = (kjobsOf d p).eraseIdx i := by
  simp [kjobsOf, jobRemoved]

theorem sameView_jobRemoved (d : Dev) (p i : Nat) : SameView d (jobRemoved d p i) :=
  ⟨rfl, rfl, rfl, rfl, rfl, fun _ => rfl, fun _ => rfl, fun _ => rfl⟩

theorem endKilnJob_of_job {d : Dev} {p i : Nat} {j : KilnJob} (hj : (kjobsOf d p)[i]? = some j) (code : Nat) :
    endKilnJob d p i code = resolveJob (jobRemoved d p i) p j code := by
  simp only [endKilnJob, hj]
  rfl

/-! The parts of a resolution (R140, R161, R163, R167) -/

theorem reportedGen_of_readable {d : Dev} {p : Nat} {j : KilnJob} (ha : j.fblk % 4096 = 0) (hw : inHbmWindow d p j.fblk 64 = true) :
    reportedGen d p j = (bits (headWord d p j.fblk 0) 63 32, d) := if_pos ⟨ha, hw⟩

theorem kilnKept_reportedGen (d : Dev) (p : Nat) (j : KilnJob) : KilnKept d (reportedGen d p j).2 := by
  unfold reportedGen
  split
  · exact .refl d
  · exact ⟨rfl, rfl, rfl, rfl, fun _ _ => rfl⟩

theorem sameView_reportedGen (d : Dev) (p : Nat) (j : KilnJob) : SameView d (reportedGen d p j).2 := by
  unfold reportedGen
  split
  · exact .refl d
  · exact ⟨rfl, rfl, rfl, rfl, rfl, fun _ => rfl, fun _ => rfl, fun _ => rfl⟩

/-- The record of a gyle once an entry has joined it: an open one takes it, one to be opened keeps it for then. -/
theorem batchOf_enterKiln (d : Dev) (p g : Nat) (e : KilnEntry) : batchOf (enterKiln d p g e) p g =
    if flag d (F.fabNflag_chk_valid p) = true ∧ g ≤ getF d (F.fabNflag_chk_gyle p) then
      { batchOf d p g with kiln := (batchOf d p g).kiln ++ [e] }
    else { batchOf d p g with early := (batchOf d p g).early ++ [e] } := by
  have put (b : BatchRec) : batchOf { d with batch := Tab.put d.batch (p, g) b } p g = b := by simp [batchOf]
  unfold enterKiln
  rw [put]
  simp only [Bool.and_eq_true, decide_eq_true_eq]

/-- The counts of pivots and of results kept or accepted, and then that of resolutions. -/
theorem countResolution_eq (d : Dev) (p : Nat) (j : KilnJob) (code : Nat) :
    ∃ e, KilnKept d e ∧ countResolution d p j code = addF e (F.klnRstat_resolved p) 1 := by
  have count (e : Dev) (lo n : Nat) : KilnKept e (satF e ⟨.klnCnt p, lo⟩ n) := .setF rfl e _
  unfold countResolution
  refine ⟨_, ?_, rfl⟩
  refine .trans (.trans (.trans (count d 0 _) (.ite (count ..) (.refl _))) (.ite (count ..) (.refl _))) (.ite (count ..) (.refl _))

/-- Word 13 of a descriptor as a resolution writes it: generation, pivots, restarts and iterations (R167). -/
def resultWord13 (j : KilnJob) (gen : Nat) : Nat :=
  gen * 2 ^ 32 + j.work.pivots % 2 ^ 16 * 2 ^ 16 + j.retries % 16 * 2 ^ 12 + j.work.iter % 2 ^ 8

/-- Word 14: the time since pickup in units of 2,000 ticks, and the best residual. -/
def resultWord14 (d : Dev) (j : KilnJob) (code : Nat) : Nat :=
  min ((ftcOf d - j.ftc) / 2000) (2 ^ 32 - 1) * 2 ^ 32 + reportedResidual j code

/-- Word 0: own cleared and the status. -/
def resultWord0 (j : KilnJob) (code : Nat) : Nat := putBits (putBits (j.w 0) 31 24 code) 0 0 0

/-- The descriptor written: words 13 and 14, and last word 0, which gives the entry back. -/
def descriptorWritten (d : Dev) (p : Nat) (j : KilnJob) (w13 w14 w0 : Nat) : Dev :=
  viewWriteNat (viewWriteNat (viewWriteNat d p (j.slot + 104) 8 w13) p (j.slot + 112) 8 w14) p j.slot 8 w0

theorem kilnKept_descriptorWritten (d : Dev) (p : Nat) (j : KilnJob) (w13 w14 w0 : Nat) : KilnKept d (descriptorWritten d p j w13 w14 w0) :=
  ((kilnKept_viewWriteNat d ..).trans (kilnKept_viewWriteNat ..)).trans (kilnKept_viewWriteNat ..)

theorem SameView.descriptorWritten {d e : Dev} (h : SameView d e) (p : Nat) (j : KilnJob) (w13 w14 w0 : Nat) :
    SameView (descriptorWritten d p j w13 w14 w0) (descriptorWritten e p j w13 w14 w0) :=
  ((h.viewWriteNat ..).viewWriteNat ..).viewWriteNat ..

/-- The entry of a job for the batch record of its gyle (R163). -/
def resultEntry (d : Dev) (p : Nat) (j : KilnJob) (code gen : Nat) : KilnEntry :=
  ⟨bits (headWord d p j.fblk 5) 31 0, bits (headWord d p j.fblk 5) 32 32, code, j.work.iter, j.work.pivots, gen⟩

/-- What t has of a job resolved in d with the generation gen: h is d with the factor block written. -/
structure JobResolved (d h : Dev) (p : Nat) (j : KilnJob) (code gen : Nat) (t : Dev) : Prop where
  generation : j.fblk % 4096 = 0 → inHbmWindow h p j.fblk 64 = true → gen = bits (headWord h p j.fblk 0) 63 32
  mem : t.mem = (descriptorWritten h p j (resultWord13 j gen) (resultWord14 d j code) (resultWord0 j code)).mem
  batch : batchOf t p j.gyle = batchOf (enterKiln d p j.gyle (resultEntry h p j code gen)) p j.gyle
  kjobs : t.kjobs = d.kjobs
  resolved : getF t (F.klnRstat_resolved p) = (getF d (F.klnRstat_resolved p) + 1) % 2 ^ (F.klnRstat_resolved p).width
  field : ∀ k, kilnWorkField k = false → F.klnRstat_resolved p ≠ k → getF t k = getF d k

theorem jobResolved_resolveJob (d : Dev) (p : Nat) (j : KilnJob) (code : Nat) :
    ∃ gen, JobResolved d (writeHead d p j code) p j code gen (resolveJob d p j code) := by
  unfold resolveJob
  extract_lets x g y w13 elapsed h entry z v w u t e
  have headed : KilnKept d (writeHead d p j code) := kilnKept_writeHead ..
  have left : KilnKept d y := ((headed.trans (kilnKept_releaseCores ..)).trans (kilnKept_endGuests ..)).trans (kilnKept_reportedGen x p j)
  have seenLeft : SameView (writeHead d p j code) x := (sameView_releaseCores ..).trans (sameView_endGuests ..)
  have seen : SameView (writeHead d p j code) y := seenLeft.trans (sameView_reportedGen x p j)
  have entered : SameView y z := ⟨rfl, rfl, rfl, rfl, rfl, fun _ => rfl, fun _ => rfl, fun _ => rfl⟩
  have hz (k : FKey) : getF z k = getF y k := rfl
  have hentry : entry = resultEntry (writeHead d p j code) p j code g.1 := by
    simp only [entry, h, resultEntry, seen.headWord]
  have hftc : ftcOf y = ftcOf d := left.field _ rfl
  have hu : u = descriptorWritten z p j (resultWord13 j g.1) (resultWord14 d j code) (resultWord0 j code) := by
    rw [resultWord14, ← hftc]
    rfl
  have wrote : KilnKept z u := hu ▸ kilnKept_descriptorWritten ..
  obtain ⟨c, counted, hc⟩ := countResolution_eq u p j code
  have noted : KilnKept t (kilnInterrupts e p j code) := .trans (.ite (kilnKept_postMask ..) (.refl _)) (kilnKept_kilnInterrupts ..)
  have field (k : FKey) (hk : kilnWorkField k = false) : getF c k = getF d k := by
    rw [counted.field k hk, wrote.field k hk, hz, left.field k hk]
  refine ⟨g.1, fun ha hw => ?_, ?_, ?_, ?_, ?_, fun k hk hne => ?_⟩
  · rw [← seenLeft.headWord]
    rw [← seenLeft.inHbmWindow] at hw
    exact congrArg Prod.fst (reportedGen_of_readable ha hw)
  · have hm : (kilnInterrupts e p j code).mem = u.mem := by
      rw [kilnInterrupts_mem]
      simp only [e]
      split <;> simp [t]
    rw [hm, hu]
    exact ((seen.trans entered).descriptorWritten ..).mem
  · have hb : batchOf t p j.gyle = batchOf u p j.gyle := by
      simp only [t, hc]
      exact counted.batchOf ..
    rw [noted.batchOf, hb, wrote.batchOf]
    simp only [z, batchOf_enterKiln, left.chkValid, left.chkGyle, left.batchOf, hentry]
  · calc (kilnInterrupts e p j code).kjobs = t.kjobs := noted.kjobs
      _ = c.kjobs := by simp only [t, hc]; rfl
      _ = d.kjobs := (counted.kjobs.trans wrote.kjobs).trans left.kjobs
  · rw [noted.field _ rfl]
    simp only [t, hc, addF, getF_setF_same, field (F.klnRstat_resolved p) rfl]
  · rw [noted.field k hk]
    simp only [t, hc, addF, getF_setF_of_ne _ _ hne, field k hk]

/-- What a resolution writes is told by the view that the written header leaves, whatever else the module holds. -/
theorem JobResolved.of_sameView {d h g : Dev} {p : Nat} {j : KilnJob} {code gen : Nat} {t : Dev} (done : JobResolved d h p j code gen t)
    (same : SameView g h) : JobResolved d g p j code gen t := by
  refine ⟨fun ha hw => ?_, done.mem.trans (same.descriptorWritten ..).mem, ?_, done.kjobs, done.resolved, done.field⟩
  · rw [done.generation ha ((same.inHbmWindow ..).trans hw), same.headWord]
  · rw [done.batch, resultEntry, same.headWord]
    rfl

/-- The entry stands in the record of its gyle, or waits for the one that the gyle's flag check opens. -/
theorem JobResolved.entered {d h : Dev} {p : Nat} {j : KilnJob} {code gen : Nat} {t : Dev} (done : JobResolved d h p j code gen t) :
    if flag d (F.fabNflag_chk_valid p) = true ∧ j.gyle ≤ getF d (F.fabNflag_chk_gyle p) then
      (batchOf t p j.gyle).kiln = (batchOf d p j.gyle).kiln ++ [resultEntry h p j code gen]
    else (batchOf t p j.gyle).early = (batchOf d p j.gyle).early ++ [resultEntry h p j code gen] := by
  rw [done.batch, batchOf_enterKiln]
  split <;> rfl

theorem jobResolved_endKilnJob {d : Dev} {p i : Nat} {j : KilnJob} (hj : (kjobsOf d p)[i]? = some j) (code : Nat) :
    ∃ gen, JobResolved (jobRemoved d p i) (writeHead d p j code) p j code gen (endKilnJob d p i code) := by
  obtain ⟨gen, done⟩ := jobResolved_resolveJob (jobRemoved d p i) p j code
  rw [endKilnJob_of_job hj]
  exact ⟨gen, done.of_sameView ((sameView_jobRemoved d p i).writeHead p j code)⟩

theorem kjobsOf_endKilnJob {d : Dev} {p i : Nat} {j : KilnJob} (hj : (kjobsOf d p)[i]? = some j) (code : Nat) :
    kjobsOf (endKilnJob d p i code) p = (kjobsOf d p).eraseIdx i := by
  obtain ⟨gen, done⟩ := jobResolved_endKilnJob hj code
  rw [← kjobsOf_jobRemoved]
  unfold kjobsOf
  rw [done.kjobs]

theorem resolved_endKilnJob {d : Dev} {p i : Nat} {j : KilnJob} (hj : (kjobsOf d p)[i]? = some j) (code : Nat) :
    getF (endKilnJob d p i code) (F.klnRstat_resolved p) =
      (getF d (F.klnRstat_resolved p) + 1) % 2 ^ (F.klnRstat_resolved p).width := by
  obtain ⟨gen, done⟩ := jobResolved_endKilnJob hj code
  exact done.resolved

/-- The fields that a resolution leaves alone. -/
theorem getF_endKilnJob {k : FKey} {p : Nat} (hk : kilnWorkField k = false) (hr : F.klnRstat_resolved p ≠ k) (d : Dev) (i code : Nat) :
    getF (endKilnJob d p i code) k = getF d k := by
  cases hj : (kjobsOf d p)[i]? with
  | none => simp only [endKilnJob, hj]
  | some j =>
    obtain ⟨gen, done⟩ := jobResolved_endKilnJob hj code
    exact done.field k hk hr

/-- A job that resolves with a code of the checks or FAULT sets the error interrupt (Table 6.12). -/
theorem irqErr_endKilnJob {d : Dev} {p i : Nat} {j : KilnJob} (hj : (kjobsOf d p)[i]? = some j) {code : Nat} (h : 0x10 ≤ code ∧ code ≤ 0x17) :
    getF (endKilnJob d p i code) (F.klnIrq_err p) = 1 := by
  have raised (e : Dev) : getF (kilnInterrupts e p j code) (F.klnIrq_err p) = 1 := by
    unfold kilnInterrupts
    dsimp only
    rw [if_pos (Or.inl h), getF_raise, getF_setF_same]
    rfl
  rw [endKilnJob_of_job hj]
  exact raised _

end Sys2Proof.Machine
end

section
namespace Sys2Proof.Machine

/-! The ring register (R165, R168) -/

section
variable {s : State} (hg : s.dev.powerGood = true) (p : PartId)
include hg

theorem exec_kilnRingEnable {v : Word} (hv : bitOf v.toNat 63 = true) :
    exec (.kilnRingEnable p v) s = .next { s with dev := kilnRingWrite s.dev p v.toNat } :=
  congrArg Host.Outcome.next ((onDev_of_good hg).trans (by rw [if_pos hv]))

theorem exec_kilnRingDisable {v : Word} (hv : bitOf v.toNat 63 = false) :
    exec (.kilnRingDisable p v) s = .next { s with dev := kilnRingWrite s.dev p v.toNat } :=
  congrArg Host.Outcome.next ((onDev_of_good hg).trans (by rw [hv]; rfl))

theorem exec_kilnJobPickup : exec (.kilnJobPickup p) s = .next { s with dev := pickJob s.dev p } :=
  congrArg Host.Outcome.next (onDev_of_good hg)

theorem exec_kilnJobStart : exec (.kilnJobStart p) s = .next { s with dev := startJob s.dev p } :=
  congrArg Host.Outcome.next (onDev_of_good hg)

end

/-- Base and size as a store of v gives them, of a size that is not reserved. -/
def ringBased (d : Dev) (p v : Nat) : Dev := setF (setF d (F.klnRing_base p) (bits v 47 7)) (F.klnRing_size_log2 p) (bits v 51 48)

section
variable (d : Dev) (p v : Nat)

theorem getF_ringBased_base : getF (ringBased d p v) (F.klnRing_base p) = bits v 47 7 := by
  have hw : (F.klnRing_base p).width = 41 := rfl
  rw [ringBased, getF_setF_of_ne _ _ (by simp), getF_setF_same, hw]
  exact Nat.mod_eq_of_lt (Nat.mod_lt _ (by decide))

theorem getF_ringBased_size : getF (ringBased d p v) (F.klnRing_size_log2 p) = bits v 51 48 := by
  have hw : (F.klnRing_size_log2 p).width = 4 := rfl
  rw [ringBased, getF_setF_same, hw]
  exact Nat.mod_eq_of_lt (Nat.mod_lt _ (by decide))

end

/-- A store that enables a ring that is off: by its base, which must lie in the HBM window. -/
theorem kilnRingWrite_of_enabling {d : Dev} {p v : Nat} (hen : flag d (F.klnRing_en p) = false) (hv : bitOf v 63 = true)
    (h2 : 2 ≤ bits v 51 48) (h12 : bits v 51 48 ≤ 12) : kilnRingWrite d p v =
      if 128 * bits v 47 7 < 0x014000000000 then setF (ringBased d p v) (F.klnRing_en p) 1
      else setF (ringBased d p v) (F.klnRstat_ring_err p) 1 := by
  unfold kilnRingWrite
  extract_lets en n put based size
  have hb : based = ringBased d p v := if_pos ⟨h2, h12⟩
  have hs : size = bits v 51 48 := by
    simp only [size, hb, getF_ringBased_size]
  rw [hen, if_neg Bool.false_ne_true, show en = true from hv, hs, hb, getF_ringBased_base]
  simp only [h2, h12, true_and, Bool.not_true, Bool.false_eq_true, if_false]

theorem kilnRingWrite_of_enabled {d : Dev} {p v : Nat} (hen : flag d (F.klnRing_en p) = true) (hv : bitOf v 63 = true) :
    kilnRingWrite d p v = setF d (F.klnRstat_wr_err p) 1 := by
  simp only [kilnRingWrite, hen, hv, if_true]

/-! Clearing en (R165) -/

theorem kjobsOf_endFirst_of_cons {d : Dev} {p : Nat} {j : KilnJob} {js : List KilnJob} (h : kjobsOf d p = j :: js) (code : Nat) :
    kjobsOf (endKilnJob d p 0 code) p = js := by
  rw [kjobsOf_endKilnJob (by rw [h]; rfl), h]
  rfl

/-- The first job ended as often as there are jobs. -/
theorem kjobsOf_endEach {p : Nat} (code : Nat) {l : List Nat} {d : Dev} (h : l.length = (kjobsOf d p).length) :
    kjobsOf (forEach l d (fun d _ => endKilnJob d p 0 code)) p = [] := by
  induction l generalizing d with
  | nil => exact List.eq_nil_of_length_eq_zero h.symm
  | cons a r ih =>
    obtain ⟨j, js, hjs⟩ := List.exists_cons_of_length_eq_add_one (h.symm.trans List.length_cons)
    refine ih ?_
    rw [hjs] at h
    rw [kjobsOf_endFirst_of_cons hjs]
    exact Nat.succ.inj h

theorem resolved_endEach {p : Nat} (code : Nat) {l : List Nat} {d : Dev} (h : l.length = (kjobsOf d p).length) (hl : l ≠ []) :
    getF (forEach l d (fun d _ => endKilnJob d p 0 code)) (F.klnRstat_resolved p) =
      (getF d (F.klnRstat_resolved p) + l.length) % 2 ^ (F.klnRstat_resolved p).width := by
  induction l generalizing d with
  | nil => exact absurd rfl hl
  | cons a r ih =>
    obtain ⟨j, js, hjs⟩ := List.exists_cons_of_length_eq_add_one (h.symm.trans List.length_cons)
    have first : getF (endKilnJob d p 0 code) (F.klnRstat_resolved p) = _ := resolved_endKilnJob (by rw [hjs]; rfl) code
    rcases eq_or_ne r [] with rfl | hr
    · exact first
    · rw [hjs] at h
      refine (ih (d := endKilnJob d p 0 code) ?_ hr).trans ?_
      · rw [kjobsOf_endFirst_of_cons hjs]
        exact Nat.succ.inj h
      · rw [first, Nat.mod_add_mod, List.length_cons, Nat.add_assoc, Nat.add_comm 1]

/-- The ring is off, every job picked up being resolved, and takes base and size (R165, R10). -/
theorem kilnRingWrite_of_disabling {d : Dev} {p v : Nat} (hen : flag d (F.klnRing_en p) = true) (hv : bitOf v 63 = false) :
    kilnRingWrite d p v = if 2 ≤ bits v 51 48 ∧ bits v 51 48 ≤ 12 then ringBased (abandonJobs d p) p v
      else setF (setF (abandonJobs d p) (F.klnRing_base p) (bits v 47 7)) (F.klnRstat_wr_err p) 1 := by
  simp only [kilnRingWrite, hen, hv, if_true, Bool.false_eq_true, if_false]
  rfl

/-- What a disabling store leaves of the ring: base, size and wr_err alone are set after the jobs have been resolved. -/
theorem getF_kilnRingWrite_of_disabling {d : Dev} {p v : Nat} (hen : flag d (F.klnRing_en p) = true) (hv : bitOf v 63 = false) {k : FKey}
    (hb : F.klnRing_base p ≠ k) (hs : F.klnRing_size_log2 p ≠ k) (hw : F.klnRstat_wr_err p ≠ k) :
    getF (kilnRingWrite d p v) k = getF (abandonJobs d p) k := by
  rw [kilnRingWrite_of_disabling hen hv]
  split
  · rw [ringBased, getF_setF_of_ne _ _ hs, getF_setF_of_ne _ _ hb]
  · rw [getF_setF_of_ne _ _ hw, getF_setF_of_ne _ _ hb]

theorem kjobsOf_kilnRingWrite_of_disabling {d : Dev} {p v : Nat} (hen : flag d (F.klnRing_en p) = true) (hv : bitOf v 63 = false) :
    kjobsOf (kilnRingWrite d p v) p = [] := by
  have none : kjobsOf (abandonJobs d p) p = [] := kjobsOf_endEach 0x16 List.length_range
  rw [kilnRingWrite_of_disabling hen hv, ← none]
  split <;> rfl

theorem resolved_abandonJobs {d : Dev} {p : Nat} (h : kjobsOf d p ≠ []) : getF (abandonJobs d p) (F.klnRstat_resolved p) =
    (getF d (F.klnRstat_resolved p) + (kjobsOf d p).length) % 2 ^ (F.klnRstat_resolved p).width := by
  have all := resolved_endEach (p := p) 0x16 (l := List.range (kjobsOf d p).length) (d := d) List.length_range (by simpa using h)
  rw [List.length_range] at all
  rw [abandonJobs, getF_setF_of_ne _ _ (by simp), getF_setF_of_ne _ _ (by simp), all]

/-! Pickup (R142, R143) -/

/-- An entry that a kiln with a free core, or with none granted, may read. -/
def entryOwned (d : Dev) (p a : Nat) : Prop :=
  flag d (F.klnRing_en p) = true ∧ viewNat d p a 8 % 2 = 1 ∧ (freeCores d p ≠ [] ∨ grantedCores d p = [])

/-- Address of the entry at head. -/
def headEntry (d : Dev) (p : Nat) : Nat := 128 * getF d (F.klnRing_base p) + 128 * getF d (F.klnRhead_head p)

/-- The job read from it. -/
def headJob (d : Dev) (p : Nat) : KilnJob := newJob d p (headEntry d p) (getF d (F.klnRhead_head p))

/-- The entry and its block's header read, and head moved on. -/
def entryRead (d : Dev) (p : Nat) : Dev :=
  setF (noteRead (noteRead d p (headEntry d p) 128) p (headJob d p).fblk 64) (F.klnRhead_head p)
    ((getF d (F.klnRhead_head p) + 1) % 2 ^ getF d (F.klnRing_size_log2 p))

/-- A job joins the unresolved ones. -/
def jobQueued (d : Dev) (p : Nat) (j : KilnJob) : Dev := { d with kjobs := Tab.put d.kjobs p (kjobsOf d p ++ [j]) }

section
variable {d : Dev} {p : Nat} (ho : entryOwned d p (headEntry d p))
include ho

theorem pickJob_of_owned : pickJob d p =
    if heldWrite d p (headEntry d p) 128 then steadyBroken d
    else if heldRange d p (headJob d p).fblk 64 then steadyBroken d
    else match pickupCode (entryRead d p) p (headJob d p) with
      | some code => resolveJob (entryRead d p) p (headJob d p) code
      | none => jobQueued (entryRead d p) p (meetDeadline (entryRead d p) p (headJob d p)) := by
  obtain ⟨hen, hown, hfree⟩ := ho
  have skip : (viewNat d p (headEntry d p) 8 % 2 == 0 || ((freeCores d p).isEmpty && !(grantedCores d p).isEmpty)) = false := by
    simpa [hown, Classical.or_iff_not_imp_left] using hfree
  have on : (!flag d (F.klnRing_en p)) = false := by rw [hen]; rfl
  exact (if_neg (by rw [on]; exact Bool.false_ne_true)).trans
    (if_congr Iff.rfl rfl (if_neg (fun h => Bool.false_ne_true (skip.symm.trans h))))

theorem pickJob_of_held (h : heldWrite d p (headEntry d p) 128 = true ∨ heldRange d p (headJob d p).fblk 64 = true) :
    pickJob d p = steadyBroken d := by
  rw [pickJob_of_owned ho]
  split
  · rfl
  · rw [if_pos (h.resolve_left ‹_›)]

variable (hw : heldWrite d p (headEntry d p) 128 = false) (hr : heldRange d p (headJob d p).fblk 64 = false)
include hw hr

theorem pickJob_of_passing (hc : pickupCode (entryRead d p) p (headJob d p) = none) : pickJob d p =
    jobQueued (entryRead d p) p (meetDeadline (entryRead d p) p (headJob d p)) := by
  rw [pickJob_of_owned ho, hw, hr, hc]
  rfl

theorem pickJob_of_failing {code : Nat} (hc : pickupCode (entryRead d p) p (headJob d p) = some code) :
    pickJob d p = resolveJob (entryRead d p) p (headJob d p) code := by
  rw [pickJob_of_owned ho, hw, hr, hc]
  rfl

end

/-! Start (R144, R146) -/

/-- The cores that take a job. -/
def coresTaken (d : Dev) (p : Nat) (j : KilnJob) (cs : List Nat) : Dev := forEach cs d (fun d k => takeCore d p j.idx k)

/-- The job on its cores and banks, in the mode of its gyle. -/
def jobStarted (d : Dev) (p : Nat) (j : KilnJob) (cs bs : List Nat) : KilnJob :=
  meetDeadline d p { j with started := true, upTo := false, cores := cs, banks := bs, mode := some (jobMode d p j) }

theorem startJob_of_startable {d : Dev} {p i : Nat} {j : KilnJob} {cs bs : List Nat} (h : startable? d p = some (i, j, cs, bs)) :
    startJob d p = setJob (coresTaken d p j cs) p i (jobStarted (coresTaken d p j cs) p j cs bs) := by
  simp only [startJob, h]
  rfl

/-- The job that starts is one of the partition's. -/
theorem job_of_startable {d : Dev} {p i : Nat} {j : KilnJob} {cs bs : List Nat} (h : startable? d p = some (i, j, cs, bs)) :
    (kjobsOf d p)[i]? = some j := by
  unfold startable? at h
  split at h
  · cases h
  · next k x hnext =>
    have found : (kjobsOf d p)[k]? = some x := by
      obtain ⟨e, he, hk⟩ := Option.map_eq_some_iff.1 hnext
      obtain ⟨rfl, rfl⟩ := Prod.mk.inj hk
      exact List.mem_zipIdx_iff_getElem?.1 (List.mem_of_find?_eq_some he)
    split at h
    · cases h
    · split at h
      · obtain ⟨rfl, rest⟩ := Prod.mk.inj (Option.some.inj h)
        obtain ⟨rfl, -⟩ := Prod.mk.inj rest
        exact found
      · cases h

theorem meetDeadline_keeps {β : Type} (v : KilnJob → β) (hv : ∀ x o a, v { x with outcome := o, atDeadline := a } = v x) (d : Dev) (p : Nat)
    (j : KilnJob) : v (meetDeadline d p j) = v j := by
  unfold meetDeadline
  split
  · exact hv ..
  · rfl

/-- What a core shows of the partition whose job it has taken (Table 6.14). -/
def CoreTaken (p core : Nat) (d : Dev) : Prop :=
  getF d (F.klnCore_part core) = p ∧ (getF d (F.klnCore_state core) = 2 ∨ getF d (F.klnCore_state core) = 3)

theorem requestWake_f (d : Dev) (x : GatedUnit) : (requestWake d x).f = d.f := by
  unfold requestWake
  split
  · rfl
  · dsimp only
    split <;> rfl

theorem coreTaken_takeCore {p : Nat} (hp : p < 4) (d : Dev) (idx core : Nat) : CoreTaken p core (takeCore d p idx core) := by
  have hpart : (F.klnCore_part core).width = 2 := rfl
  have hstate : (F.klnCore_state core).width = 3 := rfl
  unfold takeCore
  extract_lets e
  have part : getF e (F.klnCore_part core) = p := by
    simp only [e]
    rw [getF_setF_of_ne _ _ (by simp), getF_setF_of_ne _ _ (by simp), getF_setF_same, hpart]
    exact Nat.mod_eq_of_lt hp
  split
  · refine ⟨?_, Or.inr ?_⟩
    · rw [getF_congr (requestWake_f ..), getF_setF_of_ne _ _ (by simp), part]
    · rw [getF_congr (requestWake_f ..), getF_setF_same, hstate]
      rfl
  · refine ⟨?_, Or.inl ?_⟩
    · rw [getF_setF_of_ne _ _ (by simp), part]
    · rw [getF_setF_same, hstate]
      rfl

/-- A core that takes the job leaves the others as they were. -/
theorem getF_takeCore_of_reg {p idx core : Nat} {k : FKey} (hk : k.reg ≠ .klnCore core) (d : Dev) : getF (takeCore d p idx core) k = getF d k := by
  have shown (e : Dev) (lo v : Nat) : getF (setF e ⟨.klnCore core, lo⟩ v) k = getF e k := getF_setF_of_ne e v (FKey.ne_of_reg hk.symm)
  unfold takeCore
  extract_lets e
  have taken : getF e k = getF d k := by
    simp only [e]
    rw [shown, shown, shown]
  split
  · rw [getF_congr (requestWake_f ..), shown, taken]
  · rw [shown, taken]

theorem coreTaken_coresTaken {p : Nat} (hp : p < 4) (d : Dev) (j : KilnJob) {cs : List Nat} {core : Nat} (h : core ∈ cs) :
    CoreTaken p core (coresTaken d p j cs) := by
  refine forEach_establishes (Q := fun _ => True) (fun _ _ _ => trivial) (fun d _ => coreTaken_takeCore hp d j.idx core)
    (fun d a taken => ?_) h trivial
  rcases eq_or_ne a core with rfl | hne
  · exact coreTaken_takeCore hp d j.idx a
  · have other (lo : Nat) : getF (takeCore d p j.idx a) ⟨.klnCore core, lo⟩ = getF d ⟨.klnCore core, lo⟩ :=
      getF_takeCore_of_reg (by simpa using hne.symm) d
    exact ⟨(other 8).trans taken.1, taken.2.imp (other 0).trans (other 0).trans⟩

theorem kilnKept_coresTaken (d : Dev) (p : Nat) (j : KilnJob) (cs : List Nat) : KilnKept d (coresTaken d p j cs) :=
  .forEach (fun d k => kilnKept_takeCore d p j.idx k) cs d

/-- Settles O25: the ring's store by the enable it finds, the entry at head by what is held and what the checks say, and the start on the
cores that the job takes one by one. -/
theorem kilnRings : Obligations.KilnRings := by
  unfold Obligations.KilnRings
  refine ⟨fun s p v hg => ?ring, fun s p hg => ?jobs⟩
  case ring =>
    refine ⟨fun hen hv h2 h12 hb => ?_, fun hen hv h2 h12 hb => ?_, fun hen hv => ?_, fun hen hv => ?_⟩
    · rw [exec_kilnRingEnable hg p hv, kilnRingWrite_of_enabling hen hv h2 h12, if_pos hb]
      rfl
    · rw [exec_kilnRingEnable hg p hv, kilnRingWrite_of_enabling hen hv h2 h12, if_neg (Nat.not_lt.2 hb)]
      rfl
    · rw [exec_kilnRingEnable hg p hv, kilnRingWrite_of_enabled hen hv]
    · have shown {k : FKey} := getF_kilnRingWrite_of_disabling (k := k) hen hv
      refine ⟨_, exec_kilnRingDisable hg p hv, ?_, ?_, kjobsOf_kilnRingWrite_of_disabling hen hv, rfl, fun hjobs => ?_⟩
      · rw [shown (by simp) (by simp) (by simp), abandonJobs, getF_setF_of_ne _ _ (by simp), getF_setF_same, Nat.zero_mod]
      · rw [shown (by simp) (by simp) (by simp), abandonJobs, getF_setF_same, Nat.zero_mod]
      · rw [shown (by simp) (by simp) (by simp), resolved_abandonJobs hjobs]
  case jobs =>
    intro head a j size d owned ready
    refine ⟨fun ⟨ho, hw, hr⟩ hc => ?_, fun code ⟨ho, hw, hr⟩ hc => ?_, fun ho hheld => ?_, fun i k cs bs hstart => ?_⟩
    · rw [exec_kilnJobPickup hg p, pickJob_of_passing ho hw hr hc]
      rfl
    · rw [exec_kilnJobPickup hg p, pickJob_of_failing ho hw hr hc]
      rfl
    · rw [exec_kilnJobPickup hg p, pickJob_of_held ho hheld]
    · have kept := kilnKept_coresTaken s.dev p k cs
      have placed (e : Dev) (x : KilnJob) (y : FKey) : getF (setJob e p i x) y = getF e y := rfl
      refine ⟨_, exec_kilnJobStart hg p, ?_, fun core hcore => ?_, startJob_mem ..⟩
      · dsimp only
        rw [startJob_of_startable hstart, getElem?_kjobsOf_setJob (kept.kjobsOf p) (job_of_startable hstart), Option.map_some, jobStarted,
          meetDeadline_keeps (fun x => (x.started, x.cores, x.banks, x.mode)) (fun _ _ _ => rfl), kept.jobMode]
      · obtain ⟨part, state⟩ := coreTaken_coresTaken p.isLt s.dev k hcore
        dsimp only
        rw [startJob_of_startable hstart, placed, placed]
        exact ⟨part, by omega⟩

end Sys2Proof.Machine
end

section
namespace Sys2Proof.Machine

/-! A job at work (R144, R237) -/

theorem workingJob_iff {d : Dev} {p i : Nat} {j : KilnJob} : workingJob d p i = some j ↔
    (kjobsOf d p)[i]? = some j ∧ j.started = true ∧ j.outcome = none ∧ j.cores.all (fun k => getF d (F.klnCore_state k) == 2) = true := by
  unfold workingJob
  split
  · next x hx =>
    rw [Option.ite_none_right_eq_some, hx, Option.some_inj, Bool.and_eq_true, Bool.and_eq_true, Option.isNone_iff_eq_none]
    constructor
    · rintro ⟨⟨⟨hs, ho⟩, hc⟩, rfl⟩
      exact ⟨rfl, hs, ho, hc⟩
    · rintro ⟨rfl, hs, ho, hc⟩
      exact ⟨⟨⟨hs, ho⟩, hc⟩, rfl⟩
  · next hx => simp [hx]

section
variable {d : Dev} {p i : Nat} {j : KilnJob} (hj : workingJob d p i = some j)
include hj

theorem withJob_of_free (hh : jobHeld d p j = false) (work : KilnJob → Dev) : withJob d p i work = work j := by
  simp [withJob, hj, hh]

theorem withJob_of_held (hh : jobHeld d p j = true) (work : KilnJob → Dev) : withJob d p i work = steadyBroken d := by
  simp [withJob, hj, hh]

theorem operate_of_free (hh : jobHeld d p j = false) (hf : foldDone j = true) {op : Nat} (ho : j.op = op) (work : KilnJob → Dev) :
    operate d p i op work = work j := by
  rw [operate, withJob_of_free hj hh, if_pos ⟨ho, hf⟩]

end

section
variable {s : State} (hg : s.dev.powerGood = true) (p : PartId) (i : Nat)
include hg

theorem exec_init : exec (.init p i) s = .next { s with dev := runInit s.dev p i } := congrArg Host.Outcome.next (onDev_of_good hg)
theorem exec_fold : exec (.fold p i) s = .next { s with dev := runFold s.dev p i } := congrArg Host.Outcome.next (onDev_of_good hg)
theorem exec_foldOutcomeAvailable : exec (.foldOutcomeAvailable p i) s = .next { s with dev := foldOutcome s.dev p i } :=
  congrArg Host.Outcome.next (onDev_of_good hg)

end

theorem kjobsOf_setJob_self {d : Dev} {p i : Nat} {j : KilnJob} (h : (kjobsOf d p)[i]? = some j) :
    kjobsOf (setJob d p i j) p = kjobsOf d p := by
  obtain ⟨hlt, rfl⟩ := List.getElem?_eq_some_iff.1 h
  rw [kjobsOf_setJob, List.set_getElem_self]

/-! The skip decision (R148, R160) -/

/-- A fold that is asked for and neither decided nor done. -/
def foldPending (j : KilnJob) : Prop := j.folds = true ∧ j.decided = false ∧ j.folded = none

theorem decideFold_of_pending {d : Dev} {p : Nat} {j : KilnJob} (h : foldPending j) : decideFold d p j = match skipDecision d p j with
    | none => j
    | some none => opOutcome { j with decided := true } 0x19
    | some (some true) => opOutcome { j with decided := true } 0x0C
    | some (some false) => { j with decided := true } := by
  obtain ⟨hfolds, hdec, -⟩ := h
  rw [decideFold, hfolds, hdec]
  rfl

theorem foldNow_of_undecided {d : Dev} {p : Nat} {j : KilnJob} (h : j.decided = false) : foldNow d p j = (d, j) := by simp [foldNow, h]

theorem foldNow_of_outcome {d : Dev} {p : Nat} {j : KilnJob} (h : j.outcome.isSome = true) : foldNow d p j = (d, j) := by simp [foldNow, h]

/-- The factor block and the statistics read (R148). -/
def foldRead (d : Dev) (p : Nat) (j : KilnJob) : Dev :=
  noteRead (noteRead d p j.fblk (blockSize j.n)) p j.gaddr (j.n * j.n * (if j.gWide then 8 else 4))

/-- The job with its statistics folded; a FOLD is then done. -/
def jobFolded (d : Dev) (p : Nat) (j : KilnJob) : KilnJob :=
  let k := { j with folded := some (foldedCount d p j) }
  if j.op = 1 then opOutcome k 5 else k

section
variable {d : Dev} {p : Nat} {j : KilnJob} (hdec : j.decided = true) (ho : j.outcome = none) (hfold : j.folded = none)
include hdec ho hfold

/-- A decided fold that is still to be done ends in overflow or is written to the inactive slot. -/
theorem foldNow_of_decided : foldNow d p j =
    if matFinite (foldedFactor d p j) = true then
      (writeFactor (foldRead d p j) p j.fblk j.n (1 - headFsel (foldRead d p j) p j.fblk) (foldedFactor d p j), jobFolded (foldRead d p j) p j)
    else (foldRead d p j, opOutcome j 0x0B) := by
  have go : (!j.decided || j.outcome.isSome || j.folded.isSome) = false := by rw [hdec, ho, hfold]; rfl
  rw [foldNow, go, if_neg Bool.false_ne_true]
  dsimp only
  cases matFinite (foldedFactor d p j) <;> rfl

theorem foldNow_of_finite (hf : matFinite (foldedFactor d p j) = true) : foldNow d p j =
    (writeFactor (foldRead d p j) p j.fblk j.n (1 - headFsel (foldRead d p j) p j.fblk) (foldedFactor d p j), jobFolded (foldRead d p j) p j) := by
  rw [foldNow_of_decided hdec ho hfold, if_pos hf]

theorem foldNow_of_overflow (hf : matFinite (foldedFactor d p j) = false) : foldNow d p j = (foldRead d p j, opOutcome j 0x0B) := by
  rw [foldNow_of_decided hdec ho hfold, hf]
  rfl

end

theorem kilnKept_foldNow (d : Dev) (p : Nat) (j : KilnJob) : KilnKept d (foldNow d p j).1 := by
  have read : KilnKept d (foldRead d p j) := (kilnKept_noteRead ..).trans (kilnKept_noteRead ..)
  unfold foldNow
  dsimp only
  split
  · exact .refl d
  · split
    · exact read
    · exact read.trans (kilnKept_writeFactor ..)

/-! Deadlines leave alone what is decided, and what has its fold to do (R158, R159) -/

theorem meetDeadline_of_outcome {d : Dev} {p : Nat} {j : KilnJob} (h : j.outcome ≠ none) : meetDeadline d p j = j :=
  if_neg (fun hc => h hc.2.2.1)

theorem meetDeadline_of_unfolded {d : Dev} {p : Nat} {j : KilnJob} (h : foldDone j = false) : meetDeadline d p j = j :=
  if_neg (fun hc => by rw [h] at hc; exact Bool.false_ne_true hc.2.2.2.2)

theorem opOutcome_ne_none (j : KilnJob) (code : Nat) : (opOutcome j code).outcome ≠ none := by simp [opOutcome]

section
variable {d : Dev} {p i : Nat} {j : KilnJob} (hj : workingJob d p i = some j) (hh : jobHeld d p j = false) (hp : foldPending j)
include hj hh

theorem runInit_of_free (ho : j.op = 0) (hf : foldDone j = true) : runInit d p i = setJob d p i (opOutcome j 6) :=
  operate_of_free hj hh hf ho _

theorem runFold_of_free : runFold d p i = setJob (foldNow d p (decideFold d p j)).1 p i
    (meetDeadline (foldNow d p (decideFold d p j)).1 p (foldNow d p (decideFold d p j)).2) := withJob_of_free hj hh _

theorem foldOutcome_of_free (h : bitOf (j.w 12) 17 = false) : foldOutcome d p i = setJob d p i (decideFold d p j) := by
  rw [foldOutcome, withJob_of_free hj hh, h]
  rfl

/-- A decision that settles the job folds nothing. -/
theorem runFold_of_settled {k : KilnJob} (hk : decideFold d p j = k) (ho : k.outcome ≠ none) : runFold d p i = setJob d p i k := by
  rw [runFold_of_free hj hh, hk, foldNow_of_outcome (Option.isSome_iff_ne_none.2 ho), meetDeadline_of_outcome ho]

include hp

theorem runFold_of_unknown (h : skipDecision d p j = none) : runFold d p i = setJob d p i j := by
  obtain ⟨hfolds, hdec, hfold⟩ := hp
  have undecided : decideFold d p j = j := by rw [decideFold_of_pending ⟨hfolds, hdec, hfold⟩, h]
  have unfolded : foldDone j = false := by simp [foldDone, hfolds, hfold]
  rw [runFold_of_free hj hh, undecided, foldNow_of_undecided hdec, meetDeadline_of_unfolded unfolded]

variable (hk : skipDecision d p j = some (some false))
include hk

theorem runFold_of_overflow (hf : matFinite (foldedFactor d p j) = false) :
    runFold d p i = setJob (foldRead d p j) p i (opOutcome { j with decided := true } 0x0B) := by
  obtain ⟨-, -, ho, -⟩ := workingJob_iff.1 hj
  have decided : decideFold d p j = { j with decided := true } := by rw [decideFold_of_pending hp, hk]
  rw [runFold_of_free hj hh, decided, foldNow_of_overflow (j := { j with decided := true }) rfl ho hp.2.2 hf,
    meetDeadline_of_outcome (opOutcome_ne_none _ _)]
  rfl

theorem runFold_of_finite (hf : matFinite (foldedFactor d p j) = true) : runFold d p i =
    setJob (writeFactor (foldRead d p j) p j.fblk j.n (1 - headFsel (foldRead d p j) p j.fblk) (foldedFactor d p j)) p i
      (meetDeadline d p (jobFolded (foldRead d p j) p { j with decided := true })) := by
  obtain ⟨-, -, ho, -⟩ := workingJob_iff.1 hj
  have decided : decideFold d p j = { j with decided := true } := by rw [decideFold_of_pending hp, hk]
  rw [runFold_of_free hj hh, decided, (kilnKept_foldNow ..).meetDeadline, foldNow_of_finite (j := { j with decided := true }) rfl ho hp.2.2 hf]
  rfl

end

/-- Settles O26: a fold by the skip decision that it finds, and then by the folded statistics. -/
theorem kilnInitAndFold : Obligations.KilnInitAndFold := by
  unfold Obligations.KilnInitAndFold
  intro s p i j hg hj hh d f decided done pending code
  have place : (kjobsOf s.dev p)[i]? = some j := (workingJob_iff.1 hj).1
  have settled {c : Nat} (hd : decideFold s.dev p j = opOutcome decided c) :
      exec (.fold p i) s = .next { s with dev := setJob s.dev p i { decided with outcome := some (code c) } } := by
    rw [exec_fold hg, runFold_of_settled hj hh hd (opOutcome_ne_none _ _)]
    rfl
  have told (hp : pending) (hw : bitOf (j.w 12) 17 = false) {k : KilnJob} (hd : decideFold s.dev p j = k) :
      exec (.foldOutcomeAvailable p i) s = .next { s with dev := setJob s.dev p i k } := by
    rw [exec_foldOutcomeAvailable hg, foldOutcome_of_free hj hh hw, hd]
  refine ⟨fun ho hf => ?init, fun hp hk hf => ?finite, fun hp hk hf => ?overflow, fun hp hk => ?skipped, fun hp hk => ?lost,
    fun hp hk => ?unknown, fun hp hw hk => ?toldKept, fun hp hw hk => ?toldSkipped, fun hp hw hk => ?toldLost⟩
  case init =>
    rw [exec_init hg, runInit_of_free hj hh ho hf]
    rfl
  case finite =>
    have kept : KilnKept s.dev (writeFactor d p j.fblk j.n (1 - headFsel d p j.fblk) f) :=
      ((kilnKept_noteRead ..).trans (kilnKept_noteRead ..)).trans (kilnKept_writeFactor ..)
    refine ⟨_, (exec_fold hg p i).trans (by rw [runFold_of_finite hj hh hp hk hf]), rfl, ?_⟩
    refine (getElem?_kjobsOf_setJob (kept.kjobsOf p) place _).trans (congrArg some ?_)
    by_cases ho : j.op = 1
    · have hfold : jobFolded d p decided = opOutcome done 5 := if_pos ho
      rw [if_pos ho]
      exact (congrArg (meetDeadline s.dev p) hfold).trans (meetDeadline_of_outcome (opOutcome_ne_none _ _))
    · have hfold : jobFolded d p decided = done := if_neg ho
      rw [if_neg ho]
      exact congrArg (meetDeadline s.dev p) hfold
  case overflow =>
    rw [exec_fold hg, runFold_of_overflow hj hh hp hk hf]
    rfl
  case skipped => exact settled (by rw [decideFold_of_pending hp, hk])
  case lost => exact settled (by rw [decideFold_of_pending hp, hk])
  case unknown =>
    refine ⟨{ s with dev := setJob s.dev p i j }, ?_, ?_, rfl⟩
    · rw [exec_fold hg, runFold_of_unknown hj hh hp hk]
    · exact kjobsOf_setJob_self place
  case toldKept => exact told hp hw (by rw [decideFold_of_pending hp, hk])
  case toldSkipped => exact told hp hw (by rw [decideFold_of_pending hp, hk]; rfl)
  case toldLost => exact told hp hw (by rw [decideFold_of_pending hp, hk]; rfl)

end Sys2Proof.Machine
end

section
namespace Sys2Proof.Machine

section
variable {s : State} (hg : s.dev.powerGood = true) (p : PartId) (i : Nat)
include hg

theorem exec_root (steps : Nat) (given : List (ClusterId × Nat)) : exec (.root p i steps given) s =
    .next { s with dev := runRoot s.dev p i steps (given.map (fun x => (x.1.val, x.2))) } := congrArg Host.Outcome.next (onDev_of_good hg)
theorem exec_chol : exec (.chol p i) s = .next { s with dev := runFactor s.dev p i 3 } := congrArg Host.Outcome.next (onDev_of_good hg)
theorem exec_ldlt : exec (.ldlt p i) s = .next { s with dev := runFactor s.dev p i 4 } := congrArg Host.Outcome.next (onDev_of_good hg)
theorem exec_solve (steps : Nat) : exec (.solve p i steps) s = .next { s with dev := runSolve s.dev p i steps } :=
  congrArg Host.Outcome.next (onDev_of_good hg)

end

/-- Every operation of a job waits while a byte that it names is held. -/
theorem exec_operation_of_held {s : State} (hg : s.dev.powerGood = true) {p : PartId} {i : Nat} {j : KilnJob}
    (hj : workingJob s.dev p i = some j) (hh : jobHeld s.dev p j = true) (steps : Nat) (given : List (ClusterId × Nat)) {c : Instr}
    (hc : c ∈ [Instr.init p i, .fold p i, .root p i steps given, .chol p i, .ldlt p i, .solve p i steps]) :
    exec c s = .next { s with dev := steadyBroken s.dev } := by
  have held (work : KilnJob → Dev) : withJob s.dev p i work = steadyBroken s.dev := withJob_of_held hj hh work
  simp only [List.mem_cons, List.not_mem_nil, or_false] at hc
  rcases hc with rfl | rfl | rfl | rfl | rfl | rfl
  · rw [exec_init hg, runInit, operate, held]
  · rw [exec_fold hg, runFold, held]
  · rw [exec_root hg, runRoot, operate, held]
  · rw [exec_chol hg, runFactor, operate, held]
  · rw [exec_ldlt hg, runFactor, operate, held]
  · rw [exec_solve hg, runSolve, operate, held]

/-! CHOL and LDLT (R151 to R153, R160) -/

/-- The factor block read, and the work area of a streamed job used. -/
def blockUsed (d : Dev) (p : Nat) (j : KilnJob) : Dev := useArea (noteRead d p j.fblk (blockSize j.n)) p j

/-- The factorisation of the job's damped factor. -/
def jobFactor (d : Dev) (p : Nat) (j : KilnJob) (ldl : Bool) : KilnWork :=
  factorise (jobRef d p j) j.n ldl (prepareJob (blockUsed d p j) p j)

/-- The job with the pivots that were regularised. -/
def pivotsNoted (j : KilnJob) (k : KilnWork) : KilnJob := { j with work := { KilnWork.fresh with pivots := k.pivots } }

/-- A replay of a job that was abandoned at its deadline before it had factored (R160). -/
def replaysAbandoned (j : KilnJob) : Prop := j.policy = 2 ∧ j.repStatus = 9

theorem kilnKept_blockUsed (d : Dev) (p : Nat) (j : KilnJob) : KilnKept d (blockUsed d p j) :=
  (kilnKept_noteRead ..).trans (kilnKept_useArea ..)

/-- The factor block and the right-hand sides of a SOLVE read, and the work area of a streamed one used. -/
def inputsUsed (d : Dev) (p : Nat) (j : KilnJob) : Dev :=
  useArea (noteRead (noteRead d p j.fblk (blockSize j.n)) p j.rhs (4 * j.n * j.m)) p j

section
variable {d : Dev} {p i : Nat} {j : KilnJob} (hj : workingJob d p i = some j) (hh : jobHeld d p j = false) (hf : foldDone j = true)
include hj hh hf

theorem runFactor_of_replay {op : Nat} (ho : j.op = op) (hr : replaysAbandoned j) :
    runFactor d p i op = setJob d p i { j with outcome := some 9 } := (operate_of_free hj hh hf ho _).trans (if_pos hr)

theorem runFactor_of_work {op : Nat} (ho : j.op = op) (hr : ¬replaysAbandoned j) : runFactor d p i op =
    if (jobFactor d p j (op == 4)).ready = true then
      setJob (writeRoot (blockUsed d p j) p j.fblk j.n (1 - headRsel (blockUsed d p j) p j.fblk) j.n
        (factorResult j.n (op == 4) (jobFactor d p j (op == 4)))) p i (opOutcome (pivotsNoted j (jobFactor d p j (op == 4))) 7)
    else setJob (blockUsed d p j) p i (opOutcome (pivotsNoted j (jobFactor d p j (op == 4))) 0x0B) := by
  have factor : factorise (jobRef (blockUsed d p j) p j) j.n (op == 4) (prepareJob (blockUsed d p j) p j) = jobFactor d p j (op == 4) := by
    rw [jobFactor, (kilnKept_blockUsed d p j).jobRef]
  rw [← factor]
  exact (operate_of_free hj hh hf ho _).trans (if_neg hr)

theorem runFactor_of_finite {op : Nat} (ho : j.op = op) (hr : ¬replaysAbandoned j) (hk : (jobFactor d p j (op == 4)).ready = true) :
    runFactor d p i op = setJob (writeRoot (blockUsed d p j) p j.fblk j.n (1 - headRsel (blockUsed d p j) p j.fblk) j.n
      (factorResult j.n (op == 4) (jobFactor d p j (op == 4)))) p i (opOutcome (pivotsNoted j (jobFactor d p j (op == 4))) 7) := by
  rw [runFactor_of_work hj hh hf ho hr, if_pos hk]

theorem runFactor_of_overflow {op : Nat} (ho : j.op = op) (hr : ¬replaysAbandoned j) (hk : (jobFactor d p j (op == 4)).ready = false) :
    runFactor d p i op = setJob (blockUsed d p j) p i (opOutcome (pivotsNoted j (jobFactor d p j (op == 4))) 0x0B) := by
  rw [runFactor_of_work hj hh hf ho hr, if_neg (by rw [hk]; exact Bool.false_ne_true)]

/-! SOLVE (R155, R160) -/

theorem runSolve_of_replay (ho : j.op = 5) (hr : replaysAbandoned j) (steps : Nat) : runSolve d p i steps =
    setJob (showIter (inputsUsed d p j) { j with outcome := some 9 }) p i { j with outcome := some 9 } :=
  (operate_of_free hj hh hf ho _).trans (congrArg (fun r : Dev × KilnJob => setJob (showIter r.1 r.2) p i r.2) (if_pos hr))

theorem runSolve_of_work (ho : j.op = 5) (hr : ¬replaysAbandoned j) (steps : Nat) : runSolve d p i steps =
    let r := solveLoop p steps (inputsUsed d p j) (solveReady (inputsUsed d p j) p j)
    setJob (showIter r.1 r.2) p i r.2 :=
  (operate_of_free hj hh hf ho _).trans (congrArg (fun r : Dev × KilnJob => setJob (showIter r.1 r.2) p i r.2) (if_neg hr))

end

/-! ROOT (R150, R153, R160) -/

/-- What the outcome of an operation and its work do not show. -/
theorem opOutcome_keeps {β : Type} (v : KilnJob → β) (hv : ∀ x o, v { x with outcome := o } = v x) (j : KilnJob) (code : Nat) :
    v (opOutcome j code) = v j := hv ..

theorem afterStep_keeps {β : Type} (v : KilnJob → β) (hv : ∀ x o, v { x with outcome := o } = v x) (j : KilnJob) (e : KilnEnd) :
    v (afterStep j e) = v j := by
  unfold afterStep
  split
  · exact opOutcome_keeps v hv ..
  · split
    · exact opOutcome_keeps v hv ..
    · rfl

section
variable {β : Type} (v : KilnJob → β) (ho : ∀ x o, v { x with outcome := o } = v x) (hw : ∀ x w, v { x with work := w } = v x)
include ho hw

theorem rootReady_keeps (d : Dev) (p : Nat) (j : KilnJob) : v (rootReady d p j) = v j := by
  unfold rootReady
  dsimp only
  repeat' split
  all_goals simp only [opOutcome_keeps v ho, hw]

theorem rootLoop_keeps (p n : Nat) (d : Dev) (j : KilnJob) : v (rootLoop p n d j).2 = v j := by
  induction n generalizing d j with
  | zero => rfl
  | succ n ih =>
    rw [rootLoop]
    split
    · rfl
    · exact (ih _ _).trans ((afterStep_keeps v ho _ _).trans (hw ..))

end

theorem kilnKept_rootLoop (p n : Nat) (d : Dev) (j : KilnJob) : KilnKept d (rootLoop p n d j).1 := by
  induction n generalizing d j with
  | zero => exact .refl d
  | succ n ih =>
    rw [rootLoop]
    split
    · exact .refl d
    · refine .trans ?_ (ih _ _)
      split
      · exact kilnKept_writeRoot ..
      · exact .refl d

/-- An iteration counts, whether it ends in overflow or not. -/
theorem rootStep_iter (ref : Bool) (n pLog cap tol : Nat) (k : KilnWork) : (rootStep ref n pLog cap tol k).work.iter = k.iter + 1 := by
  unfold rootStep
  dsimp only
  split
  · rfl
  · unfold noteResidual
    dsimp only
    split <;> rfl

/-- The best iterate so far, if the iteration found one, in the inactive root slot. -/
def bestWritten (d : Dev) (p : Nat) (j : KilnJob) (best : Option Mat) : Dev :=
  match best with
  | some x => writeRoot d p j.fblk j.n (1 - headRsel d p j.fblk) j.n x
  | none => d

theorem rootLoop_succ {d : Dev} {j : KilnJob} (ho : j.outcome = none) (p n : Nat) :
    let r := rootStep (jobRef d p j) j.n j.pLog j.cap j.convTol j.work
    rootLoop p (n + 1) d j = rootLoop p n (bestWritten d p j r.best) (afterStep { j with work := r.work } r.fate) := by
  rw [rootLoop, ho, if_neg (by simp)]
  rfl

/-- The iterations of a ROOT command. -/
def rootRun (d : Dev) (p : Nat) (j : KilnJob) (steps : Nat) : Dev × KilnJob :=
  rootLoop p steps (noteRead d p j.fblk (blockSize j.n)) (rootReady d p j)

/-- The tiles go by the fixed rotation (R351). -/
def tilesRotate (d : Dev) (p : Nat) (j : KilnJob) : Bool := jobMode d p j == 1 || jobMode d p j == 3

/-- The lent clusters that take tiles of a streamed ROOT's products, with their numbers (R147). -/
def rootTakes (d : Dev) (p : Nat) (j : KilnJob) (steps : Nat) (given : List (Nat × Nat)) : List (Nat × Nat) :=
  guestTakes d p j.cores.length (((rootRun d p j steps).2.work.iter - j.work.iter) * (2 + j.pLog) * tilesOf j.n) (tilesRotate d p j) given

/-- Some of them whose banks the kiln does not own. -/
def takesShut (d : Dev) (takes : List (Nat × Nat)) : List (Nat × Nat) := takes.filter (fun x => x.2 != 0 && guestShut d x.1)

theorem kilnKept_rootRun (d : Dev) (p : Nat) (j : KilnJob) (steps : Nat) : KilnKept d (rootRun d p j steps).1 :=
  (kilnKept_noteRead ..).trans (kilnKept_rootLoop ..)

theorem rootRun_keeps {β : Type} (v : KilnJob → β) (ho : ∀ x o, v { x with outcome := o } = v x) (hw : ∀ x w, v { x with work := w } = v x)
    (d : Dev) (p : Nat) (j : KilnJob) (steps : Nat) : v (rootRun d p j steps).2 = v j :=
  (rootLoop_keeps v ho hw ..).trans (rootReady_keeps v ho hw ..)

theorem kilnKept_runGuests (d : Dev) (p : Nat) (j : KilnJob) (takes : List (Nat × Nat)) (go : Bool) : KilnKept d (runGuests d p j takes go) := by
  refine (kilnKept_endGuests ..).trans (.forEach (fun d x => (kilnKept_guestTiles d x.1 j.n x.2).trans ?_) _ _)
  exact .ite (kilnKept_beginGuest ..) (.refl _)

/-! Guest products under way (R76, R147) -/

/-- The guest product of every cluster as it was. -/
structure GuestsKept (d e : Dev) : Prop where
  guest : ∀ c, (clusterOf e c).guest = (clusterOf d c).guest

namespace GuestsKept
variable {d e g : Dev}

theorem of_cl (h : e.cl = d.cl) : GuestsKept d e := ⟨fun c => by rw [clusterOf_congr h]⟩

theorem trans (h : GuestsKept d e) (h' : GuestsKept e g) : GuestsKept d g := ⟨fun c => (h'.guest c).trans (h.guest c)⟩

theorem ite {q : Prop} [Decidable q] (h : GuestsKept d e) (h' : GuestsKept d g) : GuestsKept d (if q then e else g) := by
  split
  · exact h
  · exact h'

theorem forEach {α : Type} {step : Dev → α → Dev} (hs : ∀ d a, GuestsKept d (step d a)) (l : List α) (d : Dev) :
    GuestsKept d (forEach l d step) :=
  forEach_keeps (P := fun e => GuestsKept d e) (fun e a h => h.trans (hs e a)) l d (.of_cl rfl)

theorem modCluster (d : Dev) (c : Nat) {m : Cluster → Cluster} (hm : ∀ x, (m x).guest = x.guest) : GuestsKept d (modCluster d c m) := by
  refine ⟨fun k => ?_⟩
  rcases eq_or_ne c k with rfl | hne
  · rw [clusterOf_modCluster_same, hm]
  · rw [Machine.modCluster, clusterOf_setCluster_of_ne _ _ hne]

end GuestsKept

theorem guestsKept_arrayBusy (d : Dev) (c phase load : Nat) : GuestsKept d (arrayBusy d c phase load) := by
  have cleared (e : Dev) : GuestsKept e (newRouse e c) := .ite (.modCluster e c (fun _ => rfl)) (.of_cl rfl)
  have cut (e : Dev) (n : Nat) : GuestsKept e (cutShort e c n) := .of_cl rfl
  have shown (e : Dev) (k : FKey) (n : Nat) : GuestsKept e (setF e k n) := .of_cl rfl
  have started (e : Dev) : GuestsKept e (arrayStart e c phase load) :=
    (GuestsKept.trans (.trans (.ite (cut ..) (.ite (cut ..) (.of_cl rfl))) (.ite (.of_cl rfl) (cleared _))) (shown ..)).trans
      (.ite (shown ..) (.trans (.ite (.of_cl rfl) (shown ..)) (shown ..)))
  exact GuestsKept.trans (e := ungate d _) (.of_cl rfl) (.ite (.of_cl rfl) (started _))

theorem guestsKept_fillPanel (d : Dev) (c b : Nat) : GuestsKept d (fillPanel d c b) := by
  unfold fillPanel freeBytes
  exact .of_cl rfl

theorem guestsKept_fillTile (d : Dev) (c t : Nat) : GuestsKept d (fillTile d c t) := by
  unfold fillTile
  dsimp only [nextFree]
  refine GuestsKept.trans ?_ (.forEach (fun _ _ => ?_) _ _)
  all_goals exact .of_cl rfl

/-- The tiles that a lent cluster computes leave what is under way on the clusters as it was. -/
theorem guestsKept_guestTiles (d : Dev) (c n m : Nat) : GuestsKept d (guestTiles d c n m) := by
  unfold guestTiles
  refine .trans (.trans ?_ (.forEach (fun d b => guestsKept_fillPanel d c b) _ _)) (.forEach (fun d t => guestsKept_fillTile d c t) _ _)
  exact .of_cl rfl

theorem guest_beginGuest_same (d : Dev) (p job c : Nat) : (clusterOf (beginGuest d p job c) c).guest = some ⟨p, job, lentBanks d c⟩ := by
  unfold beginGuest
  dsimp only
  split
  · rw [clusterOf_modCluster_same]
  · rw [(guestsKept_arrayBusy ..).guest, clusterOf_modCluster_same]

theorem guest_beginGuest_of_ne {c k : Nat} (h : c ≠ k) (d : Dev) (p job : Nat) :
    (clusterOf (beginGuest d p job c) k).guest = (clusterOf d k).guest := by
  have other (m : Cluster → Cluster) : clusterOf (modCluster d c m) k = clusterOf d k := clusterOf_setCluster_of_ne _ _ h
  unfold beginGuest
  dsimp only
  split
  · rw [other]
  · rw [(guestsKept_arrayBusy ..).guest, other]

/-- A cluster that took tiles of a job that goes on has the job's guest product under way, on the banks it lends. -/
theorem guest_runGuests {d : Dev} {p : Nat} {j : KilnJob} {takes : List (Nat × Nat)} {x : Nat × Nat} (hx : x ∈ takes) (hn : x.2 ≠ 0) :
    (clusterOf (runGuests d p j takes true) x.1).guest = some ⟨p, j.idx, lentBanks d x.1⟩ := by
  have step (e : Dev) (y : Nat × Nat) (h : KilnKept d e) : KilnKept d (beginGuest (guestTiles e y.1 j.n y.2) p j.idx y.1) :=
    (h.trans (kilnKept_guestTiles ..)).trans (kilnKept_beginGuest ..)
  have begun (e : Dev) (n : Nat) (h : KilnKept d e) :
      (clusterOf (beginGuest (guestTiles e x.1 j.n n) p j.idx x.1) x.1).guest = some ⟨p, j.idx, lentBanks d x.1⟩ := by
    rw [guest_beginGuest_same, (h.trans (kilnKept_guestTiles ..)).lentBanks]
  refine (forEach_establishes (Q := KilnKept d) step
    (P := fun e => KilnKept d e ∧ (clusterOf e x.1).guest = some ⟨p, j.idx, lentBanks d x.1⟩)
    (fun e h => ⟨step e x h, begun e x.2 h⟩) (fun e y h => ⟨step e y h.1, ?_⟩)
    (List.mem_filter.2 ⟨hx, by simpa using hn⟩) (kilnKept_endGuests ..)).2
  rcases eq_or_ne y.1 x.1 with hy | hy
  · rw [hy]
    exact begun e y.2 h.1
  · rw [guest_beginGuest_of_ne hy, (guestsKept_guestTiles ..).guest, h.2]

end Sys2Proof.Machine
end

section
namespace Sys2Proof.Machine

/-! A discarded attempt (R166) -/

/-- The job as its next attempt begins it, from its inputs. -/
def begunAgain (j : KilnJob) : KilnJob := { j with retries := j.retries + 1, decided := false, folded := none, work := KilnWork.fresh }

theorem restartJob_of_few {d : Dev} {p i : Nat} {j : KilnJob} (hr : j.retries < 2) (hc : j.cores ≠ []) :
    restartJob d p i j = setJob (discardAttempt d p j) p i (begunAgain j) := by
  unfold restartJob
  dsimp only
  rw [if_neg (by simp [hc]; omega), if_neg hc]
  rfl

theorem getElem?_kjobsOf_restartJob {d e : Dev} {p i : Nat} {j k : KilnJob} (he : kjobsOf e p = kjobsOf d p)
    (hj : (kjobsOf d p)[i]? = some j) (hr : k.retries < 2) (hc : k.cores ≠ []) :
    (kjobsOf (restartJob e p i k) p)[i]? = some (begunAgain k) := by
  rw [restartJob_of_few hr hc]
  exact getElem?_kjobsOf_setJob (((kilnKept_discardAttempt ..).kjobsOf p).trans he) hj _

/-! ROOT with and without lent clusters (R147, R150) -/

section
variable {d : Dev} {p i : Nat} {j : KilnJob} (hj : workingJob d p i = some j) (hh : jobHeld d p j = false) (hf : foldDone j = true)
  (ho : j.op = 2) (steps : Nat) (given : List (Nat × Nat))
include hj hh hf ho

/-- A ROOT command by the tiles that lent clusters take: it waits for a bubble, a shut one stops the attempt, else it runs. -/
theorem runRoot_of_free {takes : List (Nat × Nat)} (ht : (if streams d p j then rootTakes d p j steps given else []) = takes) :
    runRoot d p i steps given =
      if tilesRotate d p j && takes.any (fun x => x.2 != 0 && !inBubble d x.1) then d
      else if !(takesShut d takes).isEmpty then restartJob (forEach (takesShut d takes) d (fun d x => noteNonOwner d x.1)) p i j
      else setJob (showIter (runGuests (useArea (rootRun d p j steps).1 p (rootRun d p j steps).2) p (rootRun d p j steps).2 takes
        (rootRun d p j steps).2.outcome.isNone) (rootRun d p j steps).2) p i (rootRun d p j steps).2 := by
  subst ht
  exact operate_of_free hj hh hf ho _

theorem runRoot_of_resident (hs : streams d p j = false) : runRoot d p i steps given =
    setJob (showIter (endGuests (rootRun d p j steps).1 p j.idx) (rootRun d p j steps).2) p i (rootRun d p j steps).2 := by
  have area : useArea (rootRun d p j steps).1 p (rootRun d p j steps).2 = (rootRun d p j steps).1 := by
    rw [useArea, (kilnKept_rootRun ..).streams, rootRun_keeps (streams d p) (fun _ _ => rfl) (fun _ _ => rfl), hs]
    rfl
  have idx : (rootRun d p j steps).2.idx = j.idx := rootRun_keeps KilnJob.idx (fun _ _ => rfl) (fun _ _ => rfl) ..
  rw [runRoot_of_free hj hh hf ho steps given (takes := []) (by rw [hs]; rfl), area, ← idx]
  simp [takesShut, runGuests, forEach]

variable (hs : streams d p j = true) (hb : ∀ x ∈ rootTakes d p j steps given, x.2 ≠ 0 → inBubble d x.1 = true)
include hs hb

/-- Where every cluster that takes tiles is in a bubble, nothing waits. -/
theorem runRoot_of_bubbles : runRoot d p i steps given =
    if !(takesShut d (rootTakes d p j steps given)).isEmpty then
      restartJob (forEach (takesShut d (rootTakes d p j steps given)) d (fun d x => noteNonOwner d x.1)) p i j
    else setJob (showIter (runGuests (useArea (rootRun d p j steps).1 p (rootRun d p j steps).2) p (rootRun d p j steps).2
      (rootTakes d p j steps given) (rootRun d p j steps).2.outcome.isNone) (rootRun d p j steps).2) p i (rootRun d p j steps).2 := by
  have ready : (rootTakes d p j steps given).any (fun x => x.2 != 0 && !inBubble d x.1) = false := by
    simpa using fun a b h => hb (a, b) h
  rw [runRoot_of_free hj hh hf ho steps given (takes := rootTakes d p j steps given) (by rw [hs]; rfl), ready, Bool.and_false,
    if_neg Bool.false_ne_true]

theorem runRoot_of_guests (ho' : ∀ x ∈ rootTakes d p j steps given, x.2 ≠ 0 → guestShut d x.1 = false) : runRoot d p i steps given =
    setJob (showIter (runGuests (useArea (rootRun d p j steps).1 p (rootRun d p j steps).2) p (rootRun d p j steps).2
      (rootTakes d p j steps given) (rootRun d p j steps).2.outcome.isNone) (rootRun d p j steps).2) p i (rootRun d p j steps).2 := by
  have none : takesShut d (rootTakes d p j steps given) = [] := by
    rw [takesShut, List.filter_eq_nil_iff]
    intro x hx
    simpa using ho' x hx
  rw [runRoot_of_bubbles hj hh hf ho steps given hs hb, none]
  rfl

theorem runRoot_of_shut {x : Nat × Nat} (hx : x ∈ takesShut d (rootTakes d p j steps given)) : runRoot d p i steps given =
    restartJob (forEach (takesShut d (rootTakes d p j steps given)) d (fun d x => noteNonOwner d x.1)) p i j := by
  have some : (takesShut d (rootTakes d p j steps given)).isEmpty = false := List.isEmpty_eq_false_iff.2 (List.ne_nil_of_mem hx)
  rw [runRoot_of_bubbles hj hh hf ho steps given hs hb, some]
  rfl

end

/-- A cluster among those noted shows the non-owner access. -/
theorem nonown_forEach_noteNonOwner {l : List (Nat × Nat)} {x : Nat × Nat} (hx : x ∈ l) (d : Dev) :
    getF (forEach l d (fun d y => noteNonOwner d y.1)) (F.bankStatus_nonown x.1) = 1 := by
  have noted (e : Dev) : getF (noteNonOwner e x.1) (F.bankStatus_nonown x.1) = 1 := by
    have hw : (F.bankStatus_nonown x.1).width = 1 := rfl
    rw [noteNonOwner, satF, getF_setF_of_ne _ _ (by simp), getF_setF_same, hw]
    rfl
  refine forEach_establishes (g := fun d (y : Nat × Nat) => noteNonOwner d y.1) (P := fun e => getF e (F.bankStatus_nonown x.1) = 1)
    (Q := fun _ => True) (fun _ _ _ => trivial)
    (fun e _ => noted e) (fun e y h => ?_) hx trivial
  rcases eq_or_ne y.1 x.1 with hy | hy
  · rw [hy]
    exact noted e
  · rw [noteNonOwner, satF, getF_setF_of_ne _ _ (by simp [hy]), getF_setF_of_ne _ _ (by simp [hy]), h]

/-- A shut lent cluster is told of, and the job begins again. -/
theorem restartJob_of_shut {d : Dev} {p i : Nat} {j : KilnJob} {l : List (Nat × Nat)} {x : Nat × Nat} (hx : x ∈ l)
    (hj : (kjobsOf d p)[i]? = some j) (hr : j.retries < 2) (hc : j.cores ≠ []) :
    let t := restartJob (forEach l d (fun d y => noteNonOwner d y.1)) p i j
    getF t (F.bankStatus_nonown x.1) = 1 ∧ t.mem = d.mem ∧ (kjobsOf t p)[i]? = some (begunAgain j) := by
  have kept : kjobsOf (forEach l d (fun d y => noteNonOwner d y.1)) p = kjobsOf d p := 
    forEach_same (kjobsOf · p) (g := fun d (y : Nat × Nat) => noteNonOwner d y.1) (fun _ _ => rfl) l d
  refine ⟨?_, ?_, getElem?_kjobsOf_restartJob kept hj hr hc⟩
  · rw [restartJob_of_few hr hc]
    exact ((kilnKept_discardAttempt ..).field _ rfl).trans (nonown_forEach_noteNonOwner hx d)
  · rw [restartJob_of_few hr hc, setJob_mem, discardAttempt_mem, forEach_mem (fun _ _ => noteNonOwner_mem ..)]

/-- What a streamed ROOT that was not stopped leaves: its job, and the guest products of a job that goes on. -/
theorem root_with_guests {d : Dev} {p i : Nat} {j : KilnJob} (hj : (kjobsOf d p)[i]? = some j) (steps : Nat) (takes : List (Nat × Nat)) :
    let r := rootRun d p j steps
    let t := setJob (showIter (runGuests (useArea r.1 p r.2) p r.2 takes r.2.outcome.isNone) r.2) p i r.2
    (kjobsOf t p)[i]? = some r.2 ∧
      ∀ x ∈ takes, x.2 ≠ 0 → r.2.outcome = none → (clusterOf t x.1).guest = some ⟨p, j.idx, lentBanks d x.1⟩ := by
  intro r t
  have used : KilnKept d (useArea r.1 p r.2) := (kilnKept_rootRun ..).trans (kilnKept_useArea ..)
  have kept : KilnKept d (showIter (runGuests (useArea r.1 p r.2) p r.2 takes r.2.outcome.isNone) r.2) :=
    (used.trans (kilnKept_runGuests ..)).trans (kilnKept_showIter ..)
  have idx : r.2.idx = j.idx := rootRun_keeps KilnJob.idx (fun _ _ => rfl) (fun _ _ => rfl) ..
  have shown (e : Dev) (x : KilnJob) : (showIter e x).cl = e.cl :=
    forEach_same Dev.cl (g := fun d k => setF d (F.klnCore_iter k) x.work.iter) (fun _ _ => rfl) _ e
  refine ⟨getElem?_kjobsOf_setJob (kept.kjobsOf p) hj _, fun x hx hn hnone => ?_⟩
  have guest := guest_runGuests (d := useArea r.1 p r.2) (p := p) (j := r.2) hx hn
  rw [used.lentBanks, idx] at guest
  have same : clusterOf t x.1 = clusterOf (runGuests (useArea r.1 p r.2) p r.2 takes true) x.1 :=
    clusterOf_congr ((shown _ r.2).trans (by rw [hnone]; rfl)) x.1
  rw [same, guest]

/-- Settles O27: ROOT by its lent clusters, the others by what a replay and the factorisation say; every operation waits on a held page. -/
theorem kilnOperations : Obligations.KilnOperations := by
  unfold Obligations.KilnOperations
  intro s p i steps given j hg hj free d u ref k pivots result replay9 root products fixed takes e solve
  have place : (kjobsOf s.dev p)[i]? = some j := (workingJob_iff.1 hj).1
  refine ⟨fun ⟨hh, hf⟩ ho hs => ?resident, fun ⟨hh, hf⟩ ho hs hx => ?guests, fun x ⟨hh, hf⟩ ho hs hx hn hshut hb hr hc => ?shut,
    fun ⟨hh, hf⟩ ho hr hk => ?chol, fun ⟨hh, hf⟩ ho hr hk => ?cholKept,
    fun ⟨hh, hf⟩ ho hr hk => ?ldlt, fun ⟨hh, hf⟩ ho hr hk => ?ldltKept,
    fun ⟨hh, hf⟩ ho hr => ?cholReplay, fun ⟨hh, hf⟩ ho hr => ?ldltReplay,
    fun ⟨hh, hf⟩ ho hr => ?solve, fun ⟨hh, hf⟩ ho hr => ?solveReplay,
    fun hh c hc => exec_operation_of_held hg hj hh steps given hc, fun n x y ho => ⟨rootLoop_succ ho p n, rootStep_iter ..⟩⟩
  case resident =>
    rw [exec_root hg, runRoot_of_resident hj hh hf ho steps _ hs]
    rfl
  case guests =>
    have run := runRoot_of_guests hj hh hf ho steps _ hs (fun x h hn => (hx x h hn).2) (fun x h hn => (hx x h hn).1)
    exact ⟨_, (exec_root hg p i steps given).trans (by rw [run]), root_with_guests place steps takes⟩
  case shut =>
    have shut : x ∈ takesShut s.dev takes := List.mem_filter.2 ⟨hx, by simp [hn, hshut]⟩
    have run := runRoot_of_shut hj hh hf ho steps _ hs hb shut
    exact ⟨_, (exec_root hg p i steps given).trans (by rw [run]), restartJob_of_shut shut place hr hc⟩
  case chol =>
    rw [exec_chol hg, runFactor_of_finite hj hh hf ho hr hk]
    rfl
  case cholKept =>
    rw [exec_chol hg, runFactor_of_overflow hj hh hf ho hr hk]
    rfl
  case ldlt =>
    rw [exec_ldlt hg, runFactor_of_finite hj hh hf ho hr hk]
    rfl
  case ldltKept =>
    rw [exec_ldlt hg, runFactor_of_overflow hj hh hf ho hr hk]
    rfl
  case cholReplay => rw [exec_chol hg, runFactor_of_replay hj hh hf ho hr]
  case ldltReplay => rw [exec_ldlt hg, runFactor_of_replay hj hh hf ho hr]
  case solve =>
    rw [exec_solve hg, runSolve_of_work hj hh hf ho hr]
    rfl
  case solveReplay =>
    rw [exec_solve hg, runSolve_of_replay hj hh hf ho hr]
    rfl

end Sys2Proof.Machine
end

section
namespace Sys2Proof.Machine

section
variable {s : State} (hg : s.dev.powerGood = true) (p : PartId) (i : Nat)
include hg

theorem exec_kilnJobResolve : exec (.kilnJobResolve p i) s = .next { s with dev := settleJob s.dev p i false } :=
  congrArg Host.Outcome.next (onDev_of_good hg)
theorem exec_kilnDeadlineCommit : exec (.kilnDeadlineCommit p i) s = .next { s with dev := settleJob s.dev p i true } :=
  congrArg Host.Outcome.next (onDev_of_good hg)
theorem exec_kilnAttemptRestart (why : AttemptFault) : exec (.kilnAttemptRestart p i why) s =
    .next { s with dev := noteWear (stopAttempt s.dev p i why) } := congrArg Host.Outcome.next (onDev_of_good hg)
theorem exec_kilnBankScrub (b : Fin 52) (found : Found) : exec (.kilnBankScrub b found) s =
    .next { s with dev := scrubKiln s.dev b found } := congrArg Host.Outcome.next (onDev_of_good hg)

end

/-! A decided job resolves (R161, R167) -/

section
variable {d : Dev} {p i code : Nat} {j : KilnJob} (hj : (kjobsOf d p)[i]? = some j) (ho : j.outcome = some code)
include hj ho

theorem settleJob_of_free (hh : jobHeld d p j = false) : settleJob d p i j.atDeadline = endKilnJob d p i code := by
  simp [settleJob, hj, ho, hh]

theorem settleJob_of_held (hh : jobHeld d p j = true) : settleJob d p i j.atDeadline = steadyBroken d := by
  simp [settleJob, hj, ho, hh]

end

/-- INIT writes its slots and then its header whole (R140, R141). -/
theorem writeHead_init (d : Dev) (p : Nat) (j : KilnJob) :
    writeHead d p j 6 = viewWrite (initSlots d p j) p j.fblk ((headAfter (initSlots d p j) p j 6).flatMap (leBytes 8)) := rfl

theorem writeHead_of_unwritten {code : Nat} (hs : headStatus code = false) (hc : code ≠ 6) (d : Dev) (p : Nat) (j : KilnJob) :
    writeHead d p j code = d := by
  simp [writeHead, hs, hc]

/-! An attempt that is stopped (R166) -/

/-- t is d with job i begun again as k: no byte written, and its cores show no iteration. -/
structure AttemptAgain (d : Dev) (p i : Nat) (k : KilnJob) (t : Dev) : Prop where
  job : (kjobsOf t p)[i]? = some k
  mem : t.mem = d.mem
  iter : ∀ core ∈ k.cores, getF t (F.klnCore_iter core) = 0

theorem AttemptAgain.noteWear {d t : Dev} {p i : Nat} {k : KilnJob} (h : AttemptAgain d p i k t) : AttemptAgain d p i k (noteWear t) := by
  refine ⟨?_, (noteWear_mem t).trans h.mem, fun core hc => (getF_noteWear (by simp) (by simp) t).trans (h.iter core hc)⟩
  rw [noteWear_same (kjobsOf · p) (fun _ _ _ => rfl)]
  exact h.job

theorem iter_discardAttempt {j : KilnJob} {core : Nat} (h : core ∈ j.cores) (d : Dev) (p : Nat) :
    getF (discardAttempt d p j) (F.klnCore_iter core) = 0 := by
  have cleared (e : Dev) : getF (setF e (F.klnCore_iter core) 0) (F.klnCore_iter core) = 0 := (getF_setF_same ..).trans (Nat.zero_mod _)
  refine forEach_establishes (g := fun d k => setF d (F.klnCore_iter k) 0) (P := fun e => getF e (F.klnCore_iter core) = 0)
    (Q := fun _ => True) (fun _ _ _ => trivial) (fun e _ => cleared e) (fun e k he => ?_) h trivial
  rcases eq_or_ne k core with rfl | hne
  · exact cleared e
  · exact (getF_setF_of_ne _ _ (by simpa using hne)).trans he

/-- e is what a failing core, if any, has left of d. -/
theorem attemptAgain_restartJob {d e : Dev} {p i : Nat} {j k : KilnJob} (hj : (kjobsOf d p)[i]? = some j) (he : kjobsOf e p = kjobsOf d p)
    (hm : e.mem = d.mem) (hr : k.retries < 2) (hc : k.cores ≠ []) : AttemptAgain d p i (begunAgain k) (restartJob e p i k) := by
  refine ⟨getElem?_kjobsOf_restartJob he hj hr hc, ?_, fun core hcore => ?_⟩
  · rw [restartJob_of_few hr hc, setJob_mem, discardAttempt_mem, hm]
  · rw [restartJob_of_few hr hc]
    exact iter_discardAttempt hcore e p

/-- The job without its attempt. -/
def attemptDropped (j : KilnJob) : KilnJob := { j with decided := false, folded := none, work := KilnWork.fresh }

theorem restartJob_of_third {d : Dev} {p i : Nat} {j : KilnJob} (hr : 2 ≤ j.retries) :
    restartJob d p i j = moduleFault (endKilnJob (setJob (discardAttempt d p j) p i (attemptDropped j)) p i 0x17) (.kilnJob p) :=
  if_pos (Or.inl hr)

theorem getF_restartJob {k : FKey} {p : Nat} (hk : kilnWorkField k = false) (hr : F.klnRstat_resolved p ≠ k) (d : Dev) (i : Nat) (j : KilnJob) :
    getF (restartJob d p i j) k = getF d k := by
  have dropped : getF (discardAttempt d p j) k = getF d k := (kilnKept_discardAttempt ..).field k hk
  unfold restartJob
  dsimp only
  split
  · exact (getF_endKilnJob hk hr _ i 0x17).trans dropped
  · exact dropped

/-- What a third stop leaves: the job is gone from the ring, counted, and told of. -/
theorem fault_of_third {d : Dev} {p i : Nat} {j : KilnJob} (hj : (kjobsOf d p)[i]? = some j) (hr : 2 ≤ j.retries) :
    kjobsOf (restartJob d p i j) p = (kjobsOf d p).eraseIdx i ∧
    getF (restartJob d p i j) (F.klnRstat_resolved p) =
      (getF d (F.klnRstat_resolved p) + 1) % 2 ^ (F.klnRstat_resolved p).width ∧
    getF (restartJob d p i j) (F.klnIrq_err p) = 1 := by
  have kept := kilnKept_discardAttempt d p j
  have place := getElem?_kjobsOf_setJob (kept.kjobsOf p) hj (attemptDropped j)
  rw [restartJob_of_third hr]
  refine ⟨?_, ?_, irqErr_endKilnJob place (by decide)⟩
  · refine (kjobsOf_endKilnJob place 0x17).trans ?_
    rw [kjobsOf_setJob, kept.kjobsOf, List.eraseIdx_set_eq]
  · refine (resolved_endKilnJob place 0x17).trans ?_
    exact congrArg (fun n => (n + 1) % _) (kept.field (F.klnRstat_resolved p) rfl)

section
variable {d : Dev} {p i : Nat} {j : KilnJob} (hj : (kjobsOf d p)[i]? = some j) (hs : j.started = true) (ho : j.outcome = none)
include hj hs ho

theorem stopAttempt_of_bank (hb : j.banks ≠ []) : stopAttempt d p i .bank = restartJob d p i j := by
  simp [stopAttempt, hj, hs, ho, hb]

theorem stopAttempt_of_lent (h : streams d p j = true) : stopAttempt d p i .lentCluster = restartJob d p i j := by
  simp [stopAttempt, hj, hs, ho, h]

variable {core : Fin 8} (hc : core.val ∈ j.cores)
include hc

theorem stopAttempt_of_core : stopAttempt d p i (.core core) =
    restartJob (failCore d p { j with want := j.cores.length } core).1 p i (failCore d p { j with want := j.cores.length } core).2 := by
  simp [stopAttempt, hj, hs, ho, hc]

theorem stopAttempt_of_first (hf : core.val ∉ d.coreFails) : stopAttempt d p i (.core core) =
    restartJob { d with coreFails := core :: d.coreFails } p i { j with want := j.cores.length } := by
  rw [stopAttempt_of_core hj hs ho hc, failCore, if_neg (by simpa using hf)]

theorem stopAttempt_of_second (hf : core.val ∈ d.coreFails) : stopAttempt d p i (.core core) =
    restartJob (retireCore d p core) p i { j with want := j.cores.length, cores := j.cores.filter (fun x => x != core.val) } := by
  rw [stopAttempt_of_core hj hs ho hc, failCore, if_pos (by simpa using hf)]

end

theorem getF_retireCore_of_reg {p core : Nat} {k : FKey} (hc : k.reg ≠ .klnCore core) (ht : F.telWear4_units ≠ k) (d : Dev) :
    getF (retireCore d p core) k = getF (dropBit d (F.klnPcfg_cores p) core) k :=
  (getF_setF_of_ne _ _ ht).trans (getF_setF_of_ne _ _ (FKey.ne_of_reg hc.symm))

theorem kjobsOf_retireCore (d : Dev) (p core : Nat) : kjobsOf (retireCore d p core) p = kjobsOf d p := by
  have dropped : (dropBit d (F.klnPcfg_cores p) core).kjobs = d.kjobs := by
    unfold dropBit
    split <;> rfl
  exact congrArg (fun t => (Tab.get? t p).getD []) dropped

/-- A core retired is no longer granted. -/
theorem notGranted_retireCore (d : Dev) (p core : Nat) : bitOf (getF (retireCore d p core) (F.klnPcfg_cores p)) core = false := by
  rw [getF_retireCore_of_reg (by simp) (by simp)]
  exact bitOf_dropBit

/-! Scrub reads of kiln banks (R133) -/

/-- A running job that uses a bank. -/
def usesBank (b : Nat) (j : KilnJob) : Bool := j.started && j.outcome.isNone && j.banks.contains b

theorem usesBank_iff {b : Nat} {j : KilnJob} : usesBank b j = true ↔ j.started = true ∧ j.outcome = none ∧ b ∈ j.banks := by
  simp [usesBank, and_assoc]

/-- The first running job that uses it: its partition and place. -/
def bankUser (d : Dev) (b : Nat) : Option (Nat × Nat) :=
  (List.range 4).findSome? (fun p => ((kjobsOf d p).findIdx? (usesBank b)).map (fun i => (p, i)))

theorem scrubKiln_uncorrectable (d : Dev) (b : Nat) : scrubKiln d b .uncorrectable =
    match bankUser d b with
    | some (p, i) => stopAttempt d p i .bank
    | none => moduleFault d (.kilnBank b) := rfl

theorem bankUser_of_none {d : Dev} {b : Nat} (h : ∀ q < 4, ∀ x ∈ kjobsOf d q, usesBank b x = false) : bankUser d b = none := by
  refine List.findSome?_eq_none_iff.2 fun q hq => ?_
  rw [Option.map_eq_none_iff, List.findIdx?_eq_none_iff]
  exact h q (List.mem_range.1 hq)

theorem bankUser_of_only {d : Dev} {b p i : Nat} {j : KilnJob} (hp : p < 4) (hj : (kjobsOf d p)[i]? = some j) (hu : usesBank b j = true)
    (only : ∀ q k x, q < 4 → (kjobsOf d q)[k]? = some x → usesBank b x = true → q = p ∧ k = i) : bankUser d b = some (p, i) := by
  cases hfound : bankUser d b with
  | none =>
    have none := List.findSome?_eq_none_iff.1 hfound p (List.mem_range.2 hp)
    rw [Option.map_eq_none_iff, List.findIdx?_eq_none_iff] at none
    rw [none j (List.mem_of_getElem? hj)] at hu
    cases hu
  | some found =>
    obtain ⟨q, hq, hmap⟩ := List.exists_of_findSome?_eq_some hfound
    obtain ⟨k, hk, rfl⟩ := Option.map_eq_some_iff.1 hmap
    obtain ⟨hlt, huse, -⟩ := List.findIdx?_eq_some_iff_getElem.1 hk
    obtain ⟨rfl, rfl⟩ := only q k _ (List.mem_range.1 hq) (List.getElem?_eq_getElem hlt) huse
    rfl

/-- Settles O28: a resolution by what it writes and enters (`JobResolved`), a stopped attempt by what begins again (`AttemptAgain`) or is
given up, and a scrub read by the job that uses the bank. -/
theorem kilnResolution : Obligations.KilnResolution := by
  unfold Obligations.KilnResolution
  refine ⟨fun s p i code j hg hj ho => ?resolve, fun s p i j b hg => ?stop⟩
  case resolve =>
    intro h head w0 w13 w14 zeros init resolved
    have ended : resolved { s with dev := endKilnJob s.dev p i code } := by
      obtain ⟨gen, done⟩ := jobResolved_endKilnJob hj code
      exact ⟨kjobsOf_endKilnJob hj code, ⟨gen, done.generation, done.mem, done.entered⟩, done.resolved, rfl⟩
    have settled (b : Bool) (hd : j.atDeadline = b) (hh : jobHeld s.dev p j = false) : settleJob s.dev p i b = endKilnJob s.dev p i code :=
      hd ▸ settleJob_of_free hj ho hh
    have waits (b : Bool) (hd : j.atDeadline = b) (hh : jobHeld s.dev p j = true) : settleJob s.dev p i b = steadyBroken s.dev :=
      hd ▸ settleJob_of_held hj ho hh
    refine ⟨fun hh hd => ⟨_, ?_, ended⟩, fun hh hd => ⟨_, ?_, ended⟩, fun hh hd => ?_, fun hh hd => ?_, fun hc => ?_, fun hs hc => ?_⟩
    · rw [exec_kilnJobResolve hg, settled false hd hh]
    · rw [exec_kilnDeadlineCommit hg, settled true hd hh]
    · rw [exec_kilnJobResolve hg, waits false hd hh]
    · rw [exec_kilnDeadlineCommit hg, waits true hd hh]
    · subst hc
      exact congrArg Dev.mem (writeHead_init ..)
    · exact writeHead_of_unwritten hs hc ..
  case stop =>
    intro fresh running again
    have restarted {why : AttemptFault} {k : KilnJob} (h : AttemptAgain s.dev p i k (stopAttempt s.dev p i why)) :
        again (.kilnAttemptRestart p i why) k :=
      ⟨_, exec_kilnAttemptRestart hg p i why, h.noteWear.job, h.noteWear.mem, h.noteWear.iter⟩
    refine ⟨fun ⟨hj, hs, ho, hc⟩ hb hr => restarted ?bank, fun ⟨hj, hs, ho, hc⟩ hb hr => restarted ?lent,
      fun core ⟨hj, hs, ho, hc⟩ hcore hr hf => restarted ?first, fun core ⟨hj, hs, ho, hc⟩ hcore hf => ?second,
      fun ⟨hj, hs, ho, hc⟩ hb hr => ?third, fun ⟨hj, hs, ho, hc⟩ hb hr only => ?scrub, fun free => ?unused, ?clean, fun n => ?corrected⟩
    case bank =>
      rw [stopAttempt_of_bank hj hs ho hb]
      exact attemptAgain_restartJob hj rfl rfl hr hc
    case lent =>
      rw [stopAttempt_of_lent hj hs ho hb]
      exact attemptAgain_restartJob hj rfl rfl hr hc
    case first =>
      rw [stopAttempt_of_first hj hs ho hcore hf]
      exact attemptAgain_restartJob (k := { j with want := j.cores.length }) hj rfl rfl hr hc
    case second =>
      have stopped := stopAttempt_of_second hj hs ho hcore hf
      refine ⟨_, (exec_kilnAttemptRestart hg p i _).trans (by rw [stopped]), ?_, fun hr ⟨x, hx, hne⟩ => ?_⟩
      · exact (congrArg (bitOf · core) ((getF_noteWear (by simp) (by simp) _).trans (getF_restartJob rfl (by simp) ..))).trans
          (notGranted_retireCore ..)
      · have left : j.cores.filter (fun x => x != core.val) ≠ [] := List.ne_nil_of_mem (List.mem_filter.2 ⟨hx, by simpa using hne⟩)
        have begun := attemptAgain_restartJob (k := { j with want := j.cores.length, cores := j.cores.filter (fun x => x != core.val) }) hj
          (kjobsOf_retireCore s.dev p core) (retireCore_mem ..) hr left
        exact begun.noteWear.job
    case third =>
      obtain ⟨gone, counted, told⟩ := fault_of_third hj hr
      refine ⟨_, (exec_kilnAttemptRestart hg p i .bank).trans (by rw [stopAttempt_of_bank hj hs ho hb]), ?_, ?_, ?_⟩
      · exact (noteWear_same (kjobsOf · p) (fun _ _ _ => rfl) _).trans gone
      · exact (getF_noteWear (by simp) (by simp) _).trans counted
      · exact (getF_noteWear (by simp) (by simp) _).trans told
    case scrub =>
      have user : bankUser s.dev b = some (p.val, i) := by
        refine bankUser_of_only p.isLt hj (usesBank_iff.2 ⟨hs, ho, hb⟩) fun q k x hq hx hu => ?_
        obtain ⟨hs', ho', hb'⟩ := usesBank_iff.1 hu
        exact only q k x hq hx hs' ho' hb'
      have again : AttemptAgain s.dev p i (begunAgain j) (scrubKiln s.dev b .uncorrectable) := by
        rw [scrubKiln_uncorrectable, user]
        dsimp only
        rw [stopAttempt_of_bank hj hs ho (List.ne_nil_of_mem hb)]
        exact attemptAgain_restartJob hj rfl rfl hr hc
      exact ⟨_, exec_kilnBankScrub hg b _, again.job, again.mem, again.iter⟩
    case unused =>
      have nobody : bankUser s.dev b = none := by
        refine bankUser_of_none fun q hq x hx => Bool.eq_false_iff.2 fun hu => ?_
        obtain ⟨hs, ho, hb⟩ := usesBank_iff.1 hu
        exact free q hq x hx hs ho hb
      rw [exec_kilnBankScrub hg, scrubKiln_uncorrectable, nobody]
    case clean => exact exec_kilnBankScrub hg b .clean
    case corrected => exact exec_kilnBankScrub hg b (.correctable n)

end Sys2Proof.Machine
end

section
namespace Sys2Proof.Machine

/-! A VOP that runs, its order of results, and the registers it leaves alone (R169, R179) -/

theorem clash_exact {vd : Desc} {srcs ms : List Desc} (hl : srcs.length ≤ 3) (h : clashes (clash vd srcs ms) = false) (i : Nat) :
    clash vd srcs ms i = false := by
  by_cases hi : i < 4
  · exact Bool.eq_false_iff.2 (List.any_eq_false.1 h i (List.mem_range.2 hi))
  · rw [clash, if_neg (by omega), List.getElem?_eq_none (by omega), Option.any_none]

theorem look_cases (d e : Dev) (bad : Nat → Bool) (n i : Nat) : look d e bad n i = d ∨ look d e bad n i = e := by
  unfold look
  split
  · exact .inr rfl
  · exact .inl rfl

theorem look_of_eq_false {bad : Nat → Bool} {i : Nat} (h : bad i = false) (d e : Dev) (n : Nat) : look d e bad n i = d := by
  rw [look, h, Bool.false_and, if_neg Bool.false_ne_true]

theorem arrivals_of_exact {α : Type} {bad : Nat → Bool} (h : clashes bad = false) (free m : Nat) (xs : List α) :
    arrivals free m bad xs = xs.zipIdx := by
  rw [arrivals, h, if_neg Bool.false_ne_true]

theorem arrivals_perm {α : Type} (free m : Nat) (bad : Nat → Bool) (xs : List α) : (arrivals free m bad xs).Perm xs.zipIdx := by
  unfold arrivals
  split
  · exact List.perm_insertionSort ..
  · exact .refl _

/-- Results that arrive in order, each from the sources as they were. -/
theorem writeResults_dev_of_exact {α : Type} {bad : Nat → Bool} (h : ∀ i, bad i = false) (d : Dev) (m : Nat) (xs : List α)
    (put : Dev → (Nat → Nat → Dev) → α → Dev × Bool) :
    (writeResults d bad m xs put).1 = xs.foldl (fun e x => (put e (fun _ _ => d) x).1) d := by
  rw [writeResults_of_exact h]
  exact (List.foldl_hom Prod.fst (fun _ _ => rfl)).symm

theorem getF_intoUnits {o : Vop} {k : FKey} (hk : ¬ IsVecReg o.c k.reg) (d : Dev) (rows cols cost : Nat) (ops : List Desc)
    (nonfin : Bool) : getF (intoUnits d o rows cols cost ops nonfin) k = getF d k := by
  have counted (e : Dev) : getF (countVop e o.c (wVus o.w) rows cols cost) k = getF e k :=
    forEach_same (fun e => getF e k) (g := fun e (x : Nat × Nat) => countUnit e o.c x.1 _) (fun e x => getF_countUnit hk e x.1 _) _ e
  exact (counted _).trans (getF_unitsBusy hk d _)

/-- A VOP that nothing stops leaves what its run leaves. -/
theorem exec_vop_of_free {s : State} {i : Instr} {p : Nat} {c : ClusterId} {w fn : Nat} {go : Nat → Nat → Nat → Dev → Plan} {x : End}
    (he : exec i s = .next (onDev (vopStep fn go c) s)) (hfn : wFn w = fn) (hle : fn ≤ 0x10)
    (hrun : (go p c w (takeWen s.dev c w)).run () = x) (hi : issuing s p c w = true) (ho : wOp w = 0x30)
    (hf : (go p c w (takeWen s.dev c w)).free = true) : exec i s = .next { s with dev := finishRun c w x } := by
  have hgo : goVop go p c w (takeWen s.dev c w) = go p c w (takeWen s.dev c w) := goVop_of_le (hfn ▸ hle)
  have h := exec_of_free (go := goVop go) (sel := fun w => wFn w == fn || decide (wFn w > 0x10)) he hi ho (by simp [hfn])
    (by rw [hgo]; exact hf)
  rw [h, hgo, hrun]

/-! Arithmetic (R173) -/

/-- The values that the sources of an arithmetic VOP have for element (r, k): source i as the view v i shows it. -/
def arithVals (nsrc p c w : Nat) (d : Dev) (v : Nat → Dev) (r k : Nat) : List Val :=
  ((([wVa w, wVb w, wVc w].take nsrc).map (descOf d c)).map (resolveScale d c)).zipIdx.map (fun s => srcVal (v s.2) p s.1 r k)

/-- The codes that an arithmetic VOP with destination format f writes. -/
def arithWritten (f : FpFmt) (nsrc : Nat) (op : List Val → Val) (p c w : Nat) (d : Dev) : Dev × Bool :=
  let o : Vop := ⟨p, c, w⟩
  let vd := o.vd d
  writeCodes d p vd vd.rows vd.cols (clash (descOf d c (wVd w)) (([wVa w, wVb w, wVc w].take nsrc).map (descOf d c)) (o.maskOps d)) o.sel
    (fun v r k => (f.enc ((op (arithVals nsrc p c w d v r k)).scale (-vd.exp)), false))

/-- The flag of writes that never set it. -/
theorem writeCodes_flag_of_false {d : Dev} {p : Nat} {t : Desc} {rows cols : Nat} {bad : Nat → Bool} {sel : Dev → Nat → Nat → Bool}
    (code : (Nat → Dev) → Nat → Nat → Nat) : (writeCodes d p t rows cols bad sel (fun v r k => (code v r k, false))).2 = false := by
  refine List.foldlRecOn (motive := fun x : Dev × Bool => x.2 = false) _ _ rfl (fun x hx y _ => ?_)
  dsimp only
  rw [hx, Bool.false_or]
  split <;> rfl

theorem goArith_run {f : FpFmt} (nsrc : Nat) (op : List Val → Val) (p c w : Nat) (d : Dev)
    (hq : fpOf (Vop.vd ⟨p, c, w⟩ d).fmt = some f) : ∃ rows cols ops, (goArith nsrc op p c w d).run () =
      .queued (intoUnits (arithWritten f nsrc op p c w d).1 ⟨p, c, w⟩ rows cols 1 ops false) := by
  have flag : (arithWritten f nsrc op p c w d).2 = false := writeCodes_flag_of_false _
  refine ⟨(descOf d c (wVd w)).rows, (descOf d c (wVd w)).cols,
    ([wVa w, wVb w, wVc w].take nsrc).map (descOf d c) ++ [descOf d c (wVd w)] ++ Vop.maskOps ⟨p, c, w⟩ d, ?_⟩
  rw [← flag]
  simp only [arithWritten, Vop.vd] at hq ⊢
  simp only [goArith, issueVop, hq, resolveScale_rows, resolveScale_cols]
  rfl

/-- An arithmetic VOP runs; op combines the values of its sources, given its word. -/
theorem vopWrites_arith {s : State} {i : Instr} {p : Nat} {c : ClusterId} {w fn nsrc : Nat} {op : Nat → List Val → Val} {f : FpFmt}
    (he : exec i s = .next (onDev (vopStep fn (fun p c w => goArith nsrc (op w) p c w) c) s)) (hfn : wFn w = fn) (hle : fn ≤ 0x10)
    (hi : issuing s p c w = true) (ho : wOp w = 0x30) (hf : (goArith nsrc (op w) p c w (takeWen s.dev c w)).free = true)
    (hq : fpOf (Vop.vd ⟨p, c, w⟩ (takeWen s.dev c w)).fmt = some f) :
    VopWrites s c w i (arithWritten f nsrc (op w) p c w (takeWen s.dev c w)).1 false := by
  obtain ⟨rows, cols, ops, hrun⟩ := goArith_run nsrc (op w) p c w (takeWen s.dev c w) hq
  exact vopWrites_of_free he hfn hle hrun (accsKept_writeCodes ..) hi ho hf

/-- Settles O22: the six instructions by the codes their common run writes (`vopWrites_arith`), what a read sees by the two states it
chooses from (`look_cases`), and the free order by the sort it is (`arrivals_perm`). -/
theorem vectorArithmetic : Obligations.VectorArithmetic := by
  refine ⟨fun s p c w hi ho => ?_, fun d e bad n i => ⟨look_cases d e bad n i, fun h => look_of_eq_false h d e n⟩,
    fun free m bad xs => ⟨arrivals_perm free m bad xs, fun h => arrivals_of_exact h free m xs⟩⟩
  intro e o vd raw x y z writes two
  have written {i : Instr} {srcs : List Desc} {g : (Nat → Dev) → Nat → Nat → Val} (hl : srcs.length ≤ 3)
      (h : ∀ f, fpOf vd.fmt = some f → VopWrites s c w i (writeCodes e p vd vd.rows vd.cols (clash (raw (wVd w)) srcs (o.maskOps e)) o.sel
        (fun v r k => (f.enc ((g v r k).scale (-vd.exp)), false))).1 false) : writes i srcs g := by
    intro f hq bad code
    obtain ⟨t, hx, hmem, hacc, hwins, hjob⟩ := h f hq
    refine ⟨t, hx, hmem, fun hc => ?_, hacc, hwins, ?_⟩
    · rw [hmem, writeCodes_of_exact (clash_exact hl hc)]
    · simpa using congrArg (Option.map Prod.fst) hjob
  refine ⟨fun hw hf => ?vadd, fun hw hf => ?vmul, fun hw hf => ?vfma, fun hw hf => ?vfmas, fun hw hf => ?vmin, fun hw hf => ?vmax⟩
  case vadd =>
    exact written (by simp [two]) (fun f hq => vopWrites_arith (nsrc := 2) (op := fun _ => on2 Val.add) rfl hw (by decide) hi ho hf hq)
  case vmul =>
    exact written (by simp [two]) (fun f hq => vopWrites_arith (nsrc := 2) (op := fun _ => on2 Val.mul) rfl hw (by decide) hi ho hf hq)
  case vfma =>
    exact written (by simp [two]) (fun f hq => vopWrites_arith (nsrc := 3) (op := fun _ => fma3) rfl hw (by decide) hi ho hf hq)
  case vfmas =>
    exact written (by simp [two]) (fun f hq => vopWrites_arith (nsrc := 2)
      (op := fun w => on2 (fun x y => (x.mul (f32 (wImm32 w))).add y)) rfl hw (by decide) hi ho hf hq)
  case vmin =>
    exact written (by simp [two]) (fun f hq => vopWrites_arith (nsrc := 2) (op := fun _ => on2 Val.min) rfl hw (by decide) hi ho hf hq)
  case vmax =>
    exact written (by simp [two]) (fun f hq => vopWrites_arith (nsrc := 2) (op := fun _ => on2 Val.max) rfl hw (by decide) hi ho hf hq)

/-! Elements picked by a mask (R177, R178) -/

theorem chosenBy_of_exact {vd vm : Desc} (h : badOverlap vd vm = false) (d : Dev) (p rows cols : Nat) :
    chosenBy d p vd vm rows cols = ((places rows cols).filter (fun x => maskBit d p vm x.1 x.2), d) := by
  simp [chosenBy, h]

theorem accsKept_chosenBy (d : Dev) (p : Nat) (vd vm : Desc) (rows cols : Nat) : AccsKept d (chosenBy d p vd vm rows cols).2 := by
  unfold chosenBy
  dsimp only
  split
  · exact ⟨rfl, rfl⟩
  · exact .refl d

/-- Gg takes the number n of selected places, and the status bit k is set where only room of them fit. -/
def countNoted (d : Dev) (c w n room : Nat) (k : FKey) : Dev :=
  let e := setF d (F.mcG_value c (wImm32 w % 16)) n
  if n > room then setF e k 1 else e

theorem countNoted_fieldsOnly (d : Dev) (c w n room : Nat) (k : FKey) : FieldsOnly d (countNoted d c w n room k) := by
  unfold countNoted
  exact .ite rfl rfl

theorem getF_countNoted_count {d : Dev} {c w n room : Nat} {k : FKey} (hk : k.reg = .vecStatus c) (hn : n < 2 ^ 64) :
    getF (countNoted d c w n room k) (F.mcG_value c (wImm32 w % 16)) = n := by
  have width : (F.mcG_value c (wImm32 w % 16)).width = 64 := rfl
  have taken : getF (setF d (F.mcG_value c (wImm32 w % 16)) n) (F.mcG_value c (wImm32 w % 16)) = n := by
    rw [getF_setF_same, width, Nat.mod_eq_of_lt hn]
  unfold countNoted
  dsimp only
  split
  · rw [getF_setF_of_ne _ _ (FKey.ne_of_reg (by simp [hk])), taken]
  · exact taken

theorem getF_countNoted_status {d : Dev} {c w n room : Nat} {k : FKey} (hk : k.width = 1) (hn : room < n) :
    getF (countNoted d c w n room k) k = 1 := by
  rw [countNoted, if_pos hn, getF_setF_same, hk]
  rfl

theorem clash_of_plain_source {rd ra : Desc} (h : badOverlap rd ra = false) (i : Nat) : clash rd [ra] [] i = false :=
  clash_exact (by simp) (by simp [clashes, clash, h, List.range_succ]) i

/-- A VOP that writes its results xs from the state d and notes how many places were selected. -/
theorem exec_counted {α : Type} {s : State} {i : Instr} {p : Nat} {c : ClusterId} {w fn n room rows cols cost : Nat}
    {go : Nat → Nat → Nat → Dev → Plan} {ops : List Desc} {d : Dev} {rd ra : Desc} {xs : List α}
    {put : Dev → (Nat → Nat → Dev) → α → Dev × Bool} {k : FKey}
    (he : exec i s = .next (onDev (vopStep fn go c) s)) (hfn : wFn w = fn) (hle : fn ≤ 0x10)
    (hrun : (go p c w (takeWen s.dev c w)).run () = .queued (intoUnits
      (countNoted (writeResults d (clash rd [ra] []) 1 xs put).1 c w n room k) ⟨p, c, w⟩ rows cols cost ops false))
    (hd : AccsKept (takeWen s.dev c w) d) (hput : ∀ e v x, AccsKept e (put e v x).1)
    (hk : k.reg = .vecStatus c) (hw : k.width = 1) (hn : n < 2 ^ 64)
    (hi : issuing s p c w = true) (ho : wOp w = 0x30) (hf : (go p c w (takeWen s.dev c w)).free = true) :
    ∃ t, exec i s = .next { s with dev := finishRun c w (.queued t) } ∧ getF t (F.mcG_value c (wImm32 w % 16)) = n ∧
      (room < n → getF t k = 1) ∧ t.acc = (takeWen s.dev c w).acc ∧ t.mem = (writeResults d (clash rd [ra] []) 1 xs put).1.mem ∧
      (badOverlap rd ra = false → t.mem = (xs.foldl (fun e x => (put e (fun _ _ => d) x).1) d).mem) := by
  have noted := countNoted_fieldsOnly (writeResults d (clash rd [ra] []) 1 xs put).1 c w n room k
  have kept := hd.trans (accsKept_writeResults hput d (clash rd [ra] []) 1 xs)
  have written := (intoUnits_mem _ ⟨p, c, w⟩ rows cols cost ops false).trans (noted.same Dev.mem (fun _ => rfl))
  refine ⟨_, exec_vop_of_free he hfn hle hrun hi ho hf, ?_, fun h => ?_, ?_, written, fun h => ?_⟩
  · exact (getF_intoUnits (by simp [IsVecReg]) ..).trans (getF_countNoted_count hk hn)
  · exact (getF_intoUnits (by simp [IsVecReg, hk]) ..).trans (getF_countNoted_status hw h)
  · exact ((accsKept_intoUnits ..).acc.trans (noted.same Dev.acc (fun _ => rfl))).trans kept.acc
  · rw [written, writeResults_dev_of_exact (clash_of_plain_source h)]

/-! The reductions (R185) -/

theorem accsKept_putPair (d : Dev) (p : Nat) (t : Desc) (i x y : Nat) : AccsKept d (tilePut (tilePut d p t i 0 x) p t i 1 y) :=
  (accsKept_tilePut ..).trans (accsKept_tilePut ..)

/-- Settles O24: VCOMPRESS and VEXPAND by the writes and the count they note (`exec_counted`), the reductions and the scan by the writes
they run (`vopWrites_of_free`); results in order by `writeResults_dev_of_exact`. -/
theorem vectorSelections : Obligations.VectorSelections := by
  intro s p c w hi ho e o ra rd ms g picked count bits1 fmt rowsOf n result pair reduces
  have reduced {i : Instr} {isMax : Bool} (h : VopWrites s c w i (writeResults e (clash rd [ra] ms) (ra.rows * ra.cols) (List.range n)
      (fun d v i => (pair isMax d v i, false))).1 false) : reduces i isMax := by
    obtain ⟨t, hx, hmem, hacc, -, -⟩ := h
    exact ⟨t, hx, hacc, hmem, fun hc => by rw [hmem, writeResults_dev_of_exact (clash_exact (by simp) hc)]⟩
  refine ⟨fun t h => chosenBy_of_exact h e p t.rows t.cols, fun hw hf hn => ?vcompress, fun hw hf hn => ?vexpand,
    fun hw hf => ?vredmax, fun hw hf => ?vredmin, fun hw hf => ?vnonfin⟩
  case vcompress =>
    exact exec_counted (go := goVcompress) (k := F.vecStatus_compress_trunc c) rfl hw (by decide) rfl (accsKept_chosenBy ..)
      (fun _ _ _ => accsKept_tilePut ..) rfl rfl hn hi ho hf
  case vexpand =>
    exact exec_counted (go := goVexpand) (k := F.vecStatus_expand_short c) rfl hw (by decide) rfl (accsKept_chosenBy ..)
      (fun _ _ _ => accsKept_tilePut ..) rfl rfl hn hi ho hf
  case vredmax =>
    exact reduced (vopWrites_of_free (go := goVredmax) rfl hw (by decide) rfl (accsKept_writeResults (fun _ _ _ => accsKept_putPair ..) ..)
      hi ho hf)
  case vredmin =>
    exact reduced (vopWrites_of_free (go := goVredmin) rfl hw (by decide) rfl (accsKept_writeResults (fun _ _ _ => accsKept_putPair ..) ..)
      hi ho hf)
  case vnonfin =>
    obtain ⟨t, hx, hmem, hacc, -, hjob⟩ := vopWrites_of_free (go := goVnonfin) (i := .vnonfin c) rfl hw (by decide) rfl (.refl e) hi ho hf
    exact ⟨t, hx, hmem, hacc, by simpa using congrArg (Option.map Prod.snd) hjob⟩

end Sys2Proof.Machine
end

section
namespace Sys2Proof.Machine

/-! What a read of a partition's view depends on: a page's place and whether its data are whole, not its age nor what moves it (R237, R249) -/

/-- What a read sees of a page's record. -/
def Page.shown (x : Page) : Tier × Nat × Poison := (x.tier, x.frame, x.poison)

/-- Whatever is read in partition p's view is the same in d and in e. -/
structure SeesAlike (p : Nat) (d e : Dev) : Prop where
  mem : e.mem = d.mem
  page : ∀ w v, (pageAt e p w v).map Page.shown = (pageAt d p w v).map Page.shown
  slots : slotUnits e p = slotUnits d p
  owns : ∀ c, ownsCluster e p c = ownsCluster d p c

theorem SameView.seesAlike {d e : Dev} (h : SameView d e) (p : Nat) : SeesAlike p d e :=
  ⟨h.mem, fun w v => by rw [h.pageAt], by rw [h.slotUnits], fun c => by unfold ownsCluster; rw [h.owns]⟩

namespace SeesAlike
variable {p : Nat} {d e g : Dev}

theorem refl (p : Nat) (d : Dev) : SeesAlike p d d := ⟨rfl, fun _ _ => rfl, rfl, fun _ => rfl⟩

theorem trans (h : SeesAlike p d e) (h' : SeesAlike p e g) : SeesAlike p d g :=
  ⟨h'.mem.trans h.mem, fun w v => (h'.page w v).trans (h.page w v), h'.slots.trans h.slots, fun c => (h'.owns c).trans (h.owns c)⟩

theorem ite {q : Prop} [Decidable q] (h : SeesAlike p d e) (h' : SeesAlike p d g) : SeesAlike p d (if q then e else g) := by
  split
  · exact h
  · exact h'

theorem forEach {α : Type} {step : Dev → α → Dev} (hs : ∀ d a, SeesAlike p d (step d a)) (l : List α) (d : Dev) :
    SeesAlike p d (forEach l d step) :=
  forEach_keeps (P := fun e => SeesAlike p d e) (fun e a h => h.trans (hs e a)) l d (refl p d)

theorem setF {k : FKey} (hk : ∀ p, k.reg ≠ .hostPcfg p ∧ k.reg ≠ .rkPcfg p ∧ k.reg ≠ .rkSstat p) (d : Dev) (v : Nat) :
    SeesAlike p d (setF d k v) := (SameView.setF hk d v).seesAlike p

/-- A page is mapped in both or in neither, at one place and as whole. -/
theorem page_cases (h : SeesAlike p d e) (w : Tier) (v : Nat) : (pageAt e p w v = none ∧ pageAt d p w v = none) ∨
    ∃ x y, pageAt e p w v = some x ∧ pageAt d p w v = some y ∧ x.tier = y.tier ∧ x.frame = y.frame ∧ x.poison = y.poison := by
  have shown := h.page w v
  cases he : pageAt e p w v <;> cases hd : pageAt d p w v <;> simp_all [Page.shown]

theorem poison (h : SeesAlike p d e) (w : Tier) (v : Nat) : (pageAt e p w v).map Page.poison = (pageAt d p w v).map Page.poison := by
  rcases h.page_cases w v with ⟨he, hd⟩ | ⟨x, y, he, hd, -, -, hp⟩
  · rw [he, hd]
  · rw [he, hd, Option.map_some, Option.map_some, hp]

theorem mapped (h : SeesAlike p d e) (w : Tier) (v : Nat) : (pageAt e p w v).isSome = (pageAt d p w v).isSome := by
  rcases h.page_cases w v with ⟨he, hd⟩ | ⟨x, y, he, hd, -⟩
  · rw [he, hd]
  · rw [he, hd, Option.isSome_some, Option.isSome_some]

theorem placeOf (h : SeesAlike p d e) : placeOf e p = placeOf d p := by
  funext a
  unfold Machine.placeOf
  simp only [h.mapped, h.slots, h.owns]

theorem keyOf (h : SeesAlike p d e) : keyOf e p = keyOf d p := by
  funext a
  unfold Machine.keyOf
  rw [h.placeOf, h.slots]
  split
  · next w v off _ =>
    rcases h.page_cases w v with ⟨he, hd⟩ | ⟨x, y, he, hd, ht, hf, -⟩
    · rw [he, hd]
    · rw [he, hd, Option.map_some, Option.map_some, ht, hf]
  all_goals rfl

theorem lostByte (h : SeesAlike p d e) : lostByte e p = lostByte d p := by
  funext a
  unfold Machine.lostByte
  rw [h.placeOf]
  split
  · next w v _ _ =>
    rcases h.page_cases w v with ⟨he, hd⟩ | ⟨x, y, he, hd, -, -, hp⟩
    · rw [he, hd]
    · simp only [he, hd, hp]
  · rfl

theorem viewByte (h : SeesAlike p d e) : viewByte e p = viewByte d p := by
  funext a
  unfold Machine.viewByte
  rw [h.lostByte, h.keyOf, h.mem]

theorem viewRead (h : SeesAlike p d e) (a n : Nat) : viewRead e p a n = viewRead d p a n := by
  induction n generalizing a with
  | zero => rfl
  | succ n ih => rw [Machine.viewRead, Machine.viewRead, h.viewByte, ih]

theorem viewNat (h : SeesAlike p d e) (a n : Nat) : viewNat e p a n = viewNat d p a n := congrArg leNat (h.viewRead a n)

theorem pagesTouched (h : SeesAlike p d e) (a n : Nat) : pagesTouched e p a n = pagesTouched d p a n := by
  unfold Machine.pagesTouched
  rw [h.placeOf]

theorem heldRange (h : SeesAlike p d e) (a n : Nat) : heldRange e p a n = heldRange d p a n := by
  unfold Machine.heldRange
  rw [h.pagesTouched]
  refine congrArg (List.any _) (funext fun wv => ?_)
  rcases h.page_cases wv.1 wv.2 with ⟨he, hd⟩ | ⟨x, y, he, hd, ht, -, hp⟩
  · rw [he, hd]
  · simp only [he, hd, Page.held, ht, hp]

theorem rangePages (h : SeesAlike p d e) (a n : Nat) : rangePages e p a n = rangePages d p a n := by
  unfold Machine.rangePages
  rw [h.placeOf]

theorem headerWord (h : SeesAlike p d e) (ws : List Nat) (i k : Nat) : headerWord e p ws i k = headerWord d p ws i k := h.viewNat ..

theorem cmaskOk (h : SeesAlike p d e) (m : Nat) : cmaskOk e p m = cmaskOk d p m := by
  unfold Machine.cmaskOk
  simp only [h.owns]

theorem listWords (h : SeesAlike p d e) (base count : Nat) : listWords e p base count = listWords d p base count := by
  unfold Machine.listWords
  simp only [h.viewNat]

/-- A page's record changed in its age or in what brought it. -/
theorem setPage {w : Tier} {v : Nat} {x y : Page} (hx : pageAt d p w v = some x) (hy : y.shown = x.shown) (k : PageKey) :
    SeesAlike p d (setPage (cancelEviction d k) p w v y) := by
  refine ⟨rfl, fun w' v' => ?_, rfl, fun _ => rfl⟩
  show (Tab.get? (Tab.put d.pages (p, w, v) y) (p, w', v')).map Page.shown = _
  rw [Tab.get?_put]
  split
  · next hk =>
    cases hk
    rw [hx, Option.map_some, Option.map_some, hy]
  · rfl

end SeesAlike

theorem seesAlike_noteRead (p : Nat) (d : Dev) (a n : Nat) : SeesAlike p d (noteRead d p a n) := by
  refine .trans ((SameView.reachRange d p a n).seesAlike p) (.forEach (fun d wv => ?_) _ _)
  split
  · next x hx =>
    have aged := SeesAlike.setPage (y := { x with age := 0, fetched := none }) hx rfl (p, wv.1, wv.2)
    exact .ite (aged.trans ((SeesAlike.setF (by simp) _ 1).trans (.setF (by simp) _ 1))) aged
  · exact .refl p d

theorem seesAlike_steadyBroken (p : Nat) (d : Dev) : SeesAlike p d (steadyBroken d) := .ite (.setF (by simp) d 1) (.refl p d)

/-! What the work of a sweep notes beside its own records (R101, R197, R231, R240) -/

/-- A part of the state that interrupts do not change. -/
theorem raise_same {α : Type} (v : Dev → α) (hv : ∀ d f m, v { d with f := f, msis := m } = v d) (d : Dev) (p : Option Nat) (irq en : FKey) :
    v (raise d p irq en) = v d := by
  unfold raise
  split
  · dsimp only
    split
    · exact hv d _ _
    · exact hv d _ d.msis
  · exact hv d _ d.msis

/-- The registers it may write: those in which accesses are noted, the sweeps' counts and interrupts, and the steady-broken flag. -/
def IsSweepNote (r : Reg) : Prop := IsAccessReg r ∨ r = .pwrStatus ∨ ∃ p, r = .rkCnt p ∨ r = .rkIrq p

/-- The sweeps, the blocks in the units and every other field as they were. -/
structure SweepKept (d e : Dev) : Prop where
  sweeps : e.sweeps = d.sweeps
  rack : e.rack = d.rack
  field : ∀ k : FKey, ¬ IsSweepNote k.reg → getF e k = getF d k

namespace SweepKept
variable {d e g : Dev}

theorem refl (d : Dev) : SweepKept d d := ⟨rfl, rfl, fun _ _ => rfl⟩

theorem trans (h : SweepKept d e) (h' : SweepKept e g) : SweepKept d g :=
  ⟨h'.sweeps.trans h.sweeps, h'.rack.trans h.rack, fun k hk => (h'.field k hk).trans (h.field k hk)⟩

theorem ite {q : Prop} [Decidable q] (h : SweepKept d e) (h' : SweepKept d g) : SweepKept d (if q then e else g) := by
  split
  · exact h
  · exact h'

theorem forEach {α : Type} {step : Dev → α → Dev} (hs : ∀ d a, SweepKept d (step d a)) (l : List α) (d : Dev) :
    SweepKept d (forEach l d step) :=
  forEach_keeps (P := fun e => SweepKept d e) (fun e a h => h.trans (hs e a)) l d (refl d)

theorem setF {k : FKey} (hk : IsSweepNote k.reg) (d : Dev) (v : Nat) : SweepKept d (setF d k v) :=
  ⟨rfl, rfl, fun _ hj => getF_setF_of_ne d v (fun e => hj (e ▸ hk))⟩

theorem raise {irq : FKey} (hk : IsSweepNote irq.reg) (d : Dev) (p : Option Nat) (en : FKey) : SweepKept d (raise d p irq en) :=
  ⟨raise_same Dev.sweeps (fun _ _ _ => rfl) .., raise_same Dev.rack (fun _ _ _ => rfl) ..,
    fun j hj => (getF_raise d p irq en j).trans ((setF hk d 1).field j hj)⟩

theorem sweepOf (h : SweepKept d e) (p : Nat) : sweepOf e p = sweepOf d p := by
  unfold Machine.sweepOf
  rw [h.sweeps]

theorem workOf (h : SweepKept d e) (u : Nat) : workOf e u = workOf d u := by
  unfold Machine.workOf
  rw [h.rack]

theorem sweepState (h : SweepKept d e) (p : Nat) : sweepState e p = sweepState d p := h.field _ (by simp [IsSweepNote, IsAccessReg])

end SweepKept

theorem Accessed.sweepKept {d e : Dev} (h : Accessed d e) : SweepKept d e :=
  ⟨h.same Dev.sweeps (fun _ _ _ _ _ _ _ _ _ _ _ _ => rfl), h.same Dev.rack (fun _ _ _ _ _ _ _ _ _ _ _ _ => rfl),
    fun k hk => h.field k (fun hr => hk (.inl hr))⟩

theorem sweepKept_noteRead (d : Dev) (p a n : Nat) : SweepKept d (noteRead d p a n) := (accessed_noteRead d p a n).sweepKept

theorem sweepKept_steadyBroken (d : Dev) : SweepKept d (steadyBroken d) := .ite (.setF (by simp [IsSweepNote]) d 1) (.refl d)

theorem accessed_viewPutList (d : Dev) (p a : Nat) (l : List Byte) : Accessed d (viewPutList d p a l) := by
  induction l generalizing d a with
  | nil => exact .refl d
  | cons b r ih => exact (accessed_viewPut d p a b).trans (ih _ (a + 1))

theorem accessed_viewWrite (d : Dev) (p a : Nat) (l : List Byte) : Accessed d (viewWrite d p a l) :=
  (accessed_viewPutList d p a l).trans (accessed_noteWrite ..)

theorem accessed_needSlot (d : Dev) (t : Nat × Nat) (n : Nat) : Accessed d (needSlot d t n) := by
  have needed : Accessed d { d with stg := Tab.put d.stg t { stgSlot d t.1 t.2 with need := n } } := ⟨rfl, fun _ _ => rfl⟩
  have taken (e : Dev) (l : List (Nat × Nat × Nat × Byte)) : Accessed e { e with stgHeld := l } := ⟨rfl, fun _ _ => rfl⟩
  exact (needed.trans (taken _ _)).trans
    (.forEach (step := fun d (x : Nat × Nat × Nat × Byte) => stagePut d t.1 t.2 x.2.2.1 x.2.2.2) (fun _ _ => accessed_stagePut ..) _ _)

theorem accessed_openSlots (d : Dev) (p : Nat) : Accessed d (openSlots d p) := .forEach (fun _ _ => accessed_needSlot ..) _ d

theorem sweepKept_startLayer (d : Dev) (ref : Bool) (p n : Nat) (ws : List Nat) : SweepKept d (startLayer d ref p n ws) := by
  unfold startLayer
  extract_lets old d1 b2 a again r c head d2 d3 d4 d5 d6 hi
  have read : Accessed d d1 := accessed_noteRead ..
  have sums : Accessed d2 (viewWrite d5 p (lRecord ws + vecOffset ws 3) (List.replicate (8 * lCols ws) 0)) :=
    ((accessed_viewWrite d2 ..).trans (accessed_viewWrite d3 ..)).trans ((accessed_viewWrite d4 ..).trans (accessed_viewWrite d5 ..))
  have written : SweepKept d d6 := by
    simp only [d6]
    exact (read.trans (accessed_viewWrite d1 ..)).sweepKept.trans (.ite sums.sweepKept (.refl d2))
  have counted : SweepKept d6 (satF d6 (F.rkCnt_ratio_exceed p) 1) := .setF (by simp [IsSweepNote]) d6 _
  exact .ite read.sweepKept (.ite ((written.trans counted).trans (.raise (by simp [IsSweepNote]) _ _ _)) written)

end Sys2Proof.Machine
end

section
namespace Sys2Proof.Machine

/-! A layer's start and the next block (R197, R202) -/

theorem sweepOf_setSweep (d : Dev) (p : Nat) (w : Sweep) : sweepOf (setSweep d p w) p = w := by simp [sweepOf, setSweep]

/-- A layer that the sweep has come to starts unless its record is held. -/
theorem sweepKept_beginLayer_of_ready {d : Dev} {p : Nat} (hst : sweepState d p = 2) (hb : (sweepOf d p).begun = false)
    (hl : (sweepOf d p).layer < (sweepOf d p).layers.length)
    (hw : heldWrite d p (lRecord (layerWords (sweepOf d p) (sweepOf d p).layer))
      (recordSize (layerWords (sweepOf d p) (sweepOf d p).layer)) = false) :
    SweepKept (setSweep d p { sweepOf d p with begun := true }) (beginLayer d p) := by
  unfold beginLayer
  dsimp only
  rw [if_neg (by simp [hst, hb, hl]), if_neg (by simp [hw])]
  exact sweepKept_startLayer ..

/-- e is d but for what the work of a sweep notes and whether the start of p's layer is done. -/
structure LayerBegun (p : Nat) (d e : Dev) : Prop where
  sweep : ∃ b, sweepOf e p = { sweepOf d p with begun := b }
  rack : e.rack = d.rack
  field : ∀ k : FKey, ¬ IsSweepNote k.reg → getF e k = getF d k

theorem LayerBegun.of_sweepKept {d e : Dev} (h : SweepKept d e) (p : Nat) : LayerBegun p d e :=
  ⟨⟨(sweepOf d p).begun, h.sweepOf p⟩, h.rack, h.field⟩

theorem layerBegun_beginLayer (d : Dev) (p : Nat) : LayerBegun p d (beginLayer d p) := by
  unfold beginLayer
  dsimp only
  split
  · exact .of_sweepKept (.refl d) p
  · split
    · exact .of_sweepKept (sweepKept_steadyBroken d) p
    · have started := sweepKept_startLayer (setSweep d p { sweepOf d p with begun := true }) (sweepOf d p).ref p (sweepOf d p).gyle
        (layerWords (sweepOf d p) (sweepOf d p).layer)
      exact ⟨⟨true, (started.sweepOf p).trans (sweepOf_setSweep ..)⟩, started.rack, started.field⟩

/-- e is d with one block of p's sweep more handed out, or passed over. -/
structure BlockPassed (p : Nat) (d e : Dev) : Prop where
  handed : (sweepOf e p).handed = (sweepOf d p).handed + 1
  rack : e.rack = d.rack
  field : ∀ k : FKey, ¬ IsSweepNote k.reg → getF e k = getF d k

theorem blockPassed_nextBlock (d : Dev) (p : Nat) (staged : Bool) : BlockPassed p d (nextBlock d p staged) := by
  unfold nextBlock
  extract_lets w w'
  split
  · exact ⟨by rw [sweepOf_setSweep], rfl, fun _ _ => rfl⟩
  · have begun := layerBegun_beginLayer (setSweep d p { w' with layer := w'.layer + 1, block := 0, begun := false }) p
    obtain ⟨b, hb⟩ := begun.sweep
    exact ⟨by rw [hb, sweepOf_setSweep], begun.rack, begun.field⟩

/-! A unit takes a block (R202, R357) -/

/-- Apart from registers and what is awake, a unit that takes a block changes the blocks in the units alone. -/
theorem takeBlock_same {α : Type} (v : Dev → α)
    (hv : ∀ d f g w q, v { d with f := f, gated := g, waking := w, wakeQueue := q } = v d) (d : Dev) (u : Nat) (w : RackWork) :
    v (takeBlock d u w) = v { d with rack := Tab.put d.rack u w } := by
  have shown := hv { d with rack := Tab.put d.rack u w }
  unfold takeBlock
  dsimp only
  split
  · split
    · exact (requestWake_same v (fun e g w q => hv e e.f g w q) ..).trans (shown _ d.gated d.waking d.wakeQueue)
    · exact shown _ d.gated d.waking d.wakeQueue
  · exact shown _ d.gated d.waking d.wakeQueue

theorem workOf_takeBlock_same (d : Dev) (u : Nat) (w : RackWork) : workOf (takeBlock d u w) u = some w :=
  (takeBlock_same (workOf · u) (fun _ _ _ _ _ => rfl) d u w).trans (Tab.get?_put_same ..)

theorem workOf_takeBlock_of_ne {u v : Nat} (h : u ≠ v) (d : Dev) (w : RackWork) : workOf (takeBlock d u w) v = workOf d v :=
  (takeBlock_same (workOf · v) (fun _ _ _ _ _ => rfl) d u w).trans (Tab.get?_put_of_ne _ _ h)

theorem sweepOf_takeBlock (d : Dev) (u : Nat) (w : RackWork) (p : Nat) : sweepOf (takeBlock d u w) p = sweepOf d p :=
  takeBlock_same (sweepOf · p) (fun _ _ _ _ _ => rfl) d u w

/-- Of the fields, those of the unit's own register alone change. -/
theorem getF_takeBlock_of_reg {u : Nat} {k : FKey} (hk : k.reg ≠ .rkUnit u) (d : Dev) (w : RackWork) : getF (takeBlock d u w) k = getF d k := by
  have shown (e : Dev) (lo v : Nat) : getF (setF e ⟨.rkUnit u, lo⟩ v) k = getF e k := getF_setF_of_ne _ _ (FKey.ne_of_reg hk.symm)
  unfold takeBlock
  dsimp only
  split
  · split
    · rw [getF_congr (requestWake_f ..), shown, shown]
      rfl
    · rw [shown, shown]
      rfl
  · rw [shown, shown]
    rfl

theorem getF_takeBlock_part (d : Dev) (u : Nat) {w : RackWork} (hw : w.p < 4) : getF (takeBlock d u w) (F.rkUnit_part u) = w.p := by
  have shown (e : Dev) (v : Nat) : getF (setF e (F.rkUnit_state u) v) (F.rkUnit_part u) = getF e (F.rkUnit_part u) :=
    getF_setF_of_ne _ _ (by simp)
  have part (e : Dev) : getF (setF e (F.rkUnit_part u) w.p) (F.rkUnit_part u) = w.p := (getF_setF_same ..).trans (Nat.mod_eq_of_lt hw)
  unfold takeBlock
  dsimp only
  split
  · split
    · rw [getF_congr (requestWake_f ..), shown, part]
    · rw [shown, part]
  · rw [shown, part]

/-! Handing out (R202, R204, Table 8.6) -/

theorem exec_blockHandout {s : State} (hg : s.dev.powerGood = true) (p : PartId) (u : RackId) :
    exec (.blockHandout p u) s = .next { s with dev := handOut s.dev p u } := congrArg Host.Outcome.next (onDev_of_good hg)

/-- Staged blocks read the slots that the window shows. -/
theorem SeesAlike.slotOfBlock {p : Nat} {d e : Dev} (h : SeesAlike p d e) (b : Nat) : slotOfBlock e p b = slotOfBlock d p b := by
  unfold Machine.slotOfBlock slotPlace slotCount
  rw [h.slots]

/-- The header of the next block is read. -/
def nextHeaderRead (d : Dev) (p : Nat) : Dev :=
  noteRead d p (lHead (layerWords (sweepOf d p) (sweepOf d p).layer) + 64 * (sweepOf d p).block) 64

/-- A gyle stamp of the next block: mstamp of its word 0, wstamp of its word 1. -/
def nextStamp (d : Dev) (p k : Nat) : Nat := bits (headerWord d p (layerWords (sweepOf d p) (sweepOf d p).layer) (sweepOf d p).block k) 47 0

/-- The next block reads its gradients from staging. -/
def nextStaged (d : Dev) (p : Nat) : Bool := lStaged (layerWords (sweepOf d p) (sweepOf d p).layer) && !(sweepOf d p).resume

/-- The slot it reads them from. -/
def nextPlace (d : Dev) (p : Nat) : Option (Nat × Nat × Nat) :=
  if nextStaged d p then some (slotOfBlock d p (sweepOf d p).staged) else none

/-- The next block as a unit's work. -/
def nextWork (d : Dev) (p : Nat) (slot : Option (Nat × Nat × Nat)) (weight : Bool) : RackWork :=
  ⟨p, (sweepOf d p).layer, (sweepOf d p).block, slot, weight⟩

/-- What the stamps make of the next block: its moment phase, its weight phase, nothing to do, or a stamp fault. -/
def handByStamps (d : Dev) (p u : Nat) : Dev :=
  let w := sweepOf d p
  let m := nextStamp d p 0
  let x := nextStamp d p 1
  if m = x ∧ m ≠ w.gyle then nextBlock (takeBlock (nextHeaderRead d p) u (nextWork d p (nextPlace d p) false)) p (nextStaged d p)
  else if w.resume = true ∧ m = w.gyle ∧ x ≠ w.gyle then
    nextBlock (takeBlock (nextHeaderRead d p) u (nextWork d p none true)) p (nextStaged d p)
  else if w.resume = true ∧ m = w.gyle ∧ x = w.gyle then nextBlock (blockDone (nextHeaderRead d p) p w.layer) p (nextStaged d p)
  else settleStamp (setSweep (nextHeaderRead d p) p { w with stamp := true }) p

section
variable {d : Dev} {p u : Nat} (hst : sweepState d p = 2)
include hst

/-- A block that waits to run a phase again is all that a unit which may run it is handed. -/
theorem handOut_of_again {y : RackWork × Nat} (hy : againFor d p u = some y) : handOut d p u =
    if (unitsOf d p).contains u && (workOf d u).isNone && getF d (F.rkUnit_state u) != 4 then
      takeBlock (setSweep d p { sweepOf d p with again := (sweepOf d p).again.erase y }) u y.1
    else d := by
  unfold handOut
  dsimp only
  rw [if_neg (not_not.2 hst), hy]

variable (ha : againFor d p u = none) (hs : (sweepOf d p).stamp = false) (hl : (sweepOf d p).layer < (sweepOf d p).layers.length)
  (hu : unitReady d p u = true)
include ha hs hl hu

theorem handOut_of_unbegun (hb : (sweepOf d p).begun = false) : handOut d p u = beginLayer d p := by
  simp [handOut, hst, ha, hs, hl, hu, hb]

theorem handOut_of_held (hb : (sweepOf d p).begun = true)
    (hh : heldRange d p (lHead (layerWords (sweepOf d p) (sweepOf d p).layer) + 64 * (sweepOf d p).block) 64 = true) :
    handOut d p u = steadyBroken d := by
  simp [handOut, hst, ha, hs, hl, hu, hb, hh]

theorem handOut_of_turn (hb : (sweepOf d p).begun = true)
    (hh : heldRange d p (lHead (layerWords (sweepOf d p) (sweepOf d p).layer) + 64 * (sweepOf d p).block) 64 = false) :
    handOut d p u = handByStamps d p u := by
  have seen := seesAlike_noteRead p d (lHead (layerWords (sweepOf d p) (sweepOf d p).layer) + 64 * (sweepOf d p).block) 64
  unfold handOut
  dsimp only
  rw [if_neg (not_not.2 hst), ha]
  dsimp only
  rw [if_neg (by simp [hs, hl, hu]), if_neg (by simp [hb]), if_neg (by simp [hh])]
  simp only [seen.headerWord, seen.slotOfBlock]
  rfl

end

/-- The stamp fault of a sweep waits for the blocks in progress, or faults the sweep at once. -/
theorem settleStamp_of_idle {d : Dev} {p : Nat} (hs : (sweepOf d p).stamp = true) (ha : anyWork d p = false) (hst : sweepState d p = 2) :
    settleStamp d p = faultSweep d p 9 := by
  simp [settleStamp, hs, ha, hst]

/-- A sweep that faults shows its code and interrupt (Tables 8.9, 8.11). -/
structure SweepFaulted (p code : Nat) (d e : Dev) : Prop where
  state : sweepState e p = 7
  err : getF e (F.rkSstat_err p) = code
  irq : getF e (F.rkIrq_fault p) = 1
  sweeps : e.sweeps = d.sweeps
  rack : e.rack = d.rack

theorem sweepFaulted_faultSweep (d : Dev) (p : Nat) {code : Nat} (hc : code < 256) : SweepFaulted p code d (faultSweep d p code) := by
  refine ⟨?_, ?_, ?_, raise_same Dev.sweeps (fun _ _ _ => rfl) .., raise_same Dev.rack (fun _ _ _ => rfl) ..⟩
  · exact ((getF_raise ..).trans (getF_setF_of_ne _ _ (by simp))).trans ((getF_setF_of_ne _ _ (by simp)).trans (getF_setF_same ..))
  · exact ((getF_raise ..).trans (getF_setF_of_ne _ _ (by simp))).trans ((getF_setF_same ..).trans (Nat.mod_eq_of_lt hc))
  · exact (getF_raise ..).trans (getF_setF_same ..)

theorem settleStamp_same {α : Type} (v : Dev → α) (hv : ∀ d f m, v { d with f := f, msis := m } = v d) (d : Dev) (p : Nat) :
    v (settleStamp d p) = v d := by
  unfold settleStamp faultSweep
  split
  · exact (raise_same v hv ..).trans (hv d _ d.msis)
  · rfl

end Sys2Proof.Machine
end

section
namespace Sys2Proof.Machine

section
variable {s : State} (hg : s.dev.powerGood = true) (p : PartId) {v : Word}
include hg

theorem exec_sweepStart (hv : bitOf v.toNat 63 = true) : exec (.sweepStart p v) s = .next { s with dev := sweepWrite s.dev p v.toNat } :=
  congrArg Host.Outcome.next ((onDev_of_good hg).trans (by rw [if_pos hv]))

theorem exec_sweepStop (hv : bitOf v.toNat 62 = true) : exec (.sweepStop p v) s = .next { s with dev := sweepWrite s.dev p v.toNat } :=
  congrArg Host.Outcome.next ((onDev_of_good hg).trans (by rw [if_pos hv]))

end

/-! A refused request (Table 8.9) -/

/-- e is d with a request of p refused with a code, and the sweep in a state. -/
structure SweepRefused (p code state : Nat) (d e : Dev) : Prop where
  state : sweepState e p = state
  err : getF e (F.rkSstat_err p) = code
  irq : getF e (F.rkIrq_refused p) = 1
  mem : e.mem = d.mem
  sweeps : e.sweeps = d.sweeps

theorem sweepRefused_rackRefused (d : Dev) (p : Nat) {code : Nat} (hc : code < 256) :
    SweepRefused p code (sweepState d p) d (rackRefused d p code) := by
  refine ⟨?_, ?_, ?_, rackRefused_mem .., raise_same Dev.sweeps (fun _ _ _ => rfl) ..⟩
  · exact ((getF_raise ..).trans (getF_setF_of_ne _ _ (by simp))).trans (getF_setF_of_ne _ _ (by simp))
  · exact ((getF_raise ..).trans (getF_setF_of_ne _ _ (by simp))).trans ((getF_setF_same ..).trans (Nat.mod_eq_of_lt hc))
  · exact (getF_raise ..).trans (getF_setF_same ..)

/-- With any code but 1, that of a sweep under way, the sweep shows that it was refused. -/
theorem sweepRefused_refuseSweep (d : Dev) (p : Nat) {code : Nat} (h1 : code ≠ 1) (hc : code < 256) :
    SweepRefused p code 6 d (refuseSweep d p code) := by
  have shown := sweepRefused_rackRefused (setF d (F.rkSstat_state p) 6) p hc
  rw [refuseSweep, if_neg h1]
  exact ⟨shown.state.trans (getF_setF_same ..), shown.err, shown.irq, shown.mem, shown.sweeps⟩

theorem refuseSweep_busy (d : Dev) (p : Nat) : refuseSweep d p 1 = rackRefused d p 1 := by rw [refuseSweep, if_pos rfl]

/-! The fields of a store (R209) -/

/-- The fields that a store to RK_SWEEPp gives. -/
def requestFields (d : Dev) (p v : Nat) : Dev := setF (setF d (F.rkSweep_resume p) (bits v 61 61)) (F.rkSweep_gyle p) (bits v 47 0)

theorem getF_requestFields_of_reg {p : Nat} {k : FKey} (hk : k.reg ≠ .rkSweep p) (d : Dev) (v : Nat) :
    getF (requestFields d p v) k = getF d k :=
  (getF_setF_of_ne _ _ (FKey.ne_of_reg hk.symm)).trans (getF_setF_of_ne _ _ (FKey.ne_of_reg hk.symm))

theorem getF_requestFields_gyle (d : Dev) (p v : Nat) : getF (requestFields d p v) (F.rkSweep_gyle p) = bits v 47 0 :=
  (getF_setF_same ..).trans (Nat.mod_mod _ _)

theorem flag_requestFields_resume (d : Dev) (p v : Nat) : flag (requestFields d p v) (F.rkSweep_resume p) = bitOf v 61 := by
  have stored : getF (requestFields d p v) (F.rkSweep_resume p) = v / 2 ^ 61 % 2 :=
    (getF_setF_of_ne _ _ (by simp)).trans ((getF_setF_same ..).trans (Nat.mod_mod _ _))
  rw [flag, stored, bitOf]
  rcases Nat.mod_two_eq_zero_or_one (v / 2 ^ 61) with h | h <;> rw [h] <;> rfl

theorem rackGuard_of_open {d : Dev} {p : Nat} (h : rackLocked d p = false) (fs : List (FKey × Nat)) :
    rackGuard d p fs = forEach fs d (fun d f => setF d f.1 f.2) := by
  rw [rackGuard, if_neg (by simp [h])]

theorem rackGuard_of_locked {d : Dev} {p : Nat} (h : rackLocked d p = true) (fs : List (FKey × Nat)) :
    rackGuard d p fs = d ∨ rackGuard d p fs = setF d (F.rkSstat_wr_err p) 1 := by
  rw [rackGuard, if_pos h]
  split
  · exact .inr rfl
  · exact .inl rfl

/-- A store while nothing is under way takes its fields; one while a sweep or check is keeps them and may note wr_err. -/
theorem getF_rackGuard_of_locked {d : Dev} {p : Nat} (h : rackLocked d p = true) (fs : List (FKey × Nat)) {k : FKey}
    (hk : F.rkSstat_wr_err p ≠ k) : getF (rackGuard d p fs) k = getF d k := by
  rcases rackGuard_of_locked h fs with hd | hd
  · rw [hd]
  · rw [hd, getF_setF_of_ne _ _ hk]

theorem rackGuard_same {α : Type} (v : Dev → α) (hv : ∀ d k n, v (setF d k n) = v d) (d : Dev) (p : Nat) (fs : List (FKey × Nat)) :
    v (rackGuard d p fs) = v d := by
  unfold rackGuard
  split
  · split
    · exact hv ..
    · rfl
  · exact forEach_same v (fun d f => hv d f.1 f.2) fs d

/-! A request (R193, R196, R209) -/

/-- The fields of RK_SWEEPp as a store leaves them. -/
def sweepFields (d : Dev) (p v : Nat) : Dev := rackGuard d p [(F.rkSweep_resume p, bits v 61 61), (F.rkSweep_gyle p, bits v 47 0)]

theorem sweepFields_of_open {d : Dev} {p : Nat} (h : rackLocked d p = false) (v : Nat) : sweepFields d p v = requestFields d p v :=
  rackGuard_of_open h _

/-- The request that is under way goes on as it was. -/
theorem sweepState_sweepFields (d : Dev) (p v : Nat) : sweepState (sweepFields d p v) p = sweepState d p := by
  cases h : rackLocked d p with
  | true => exact getF_rackGuard_of_locked h _ (by simp)
  | false =>
    rw [sweepFields_of_open h]
    exact getF_requestFields_of_reg (by simp) d v

theorem sweepWrite_of_start {p v : Nat} (h63 : bitOf v 63 = true) (h62 : bitOf v 62 = false) (d : Dev) :
    sweepWrite d p v = requestSweep (sweepFields d p v) p (bits v 47 0) := by
  simp only [sweepWrite, h63, h62, if_true, Bool.false_eq_true, if_false]
  rfl

theorem sweepWrite_of_stop {p v : Nat} (h62 : bitOf v 62 = true) (h63 : bitOf v 63 = false) (d : Dev) :
    sweepWrite d p v = stopSweep (sweepFields d p v) p := by
  simp only [sweepWrite, h63, h62, if_true, Bool.false_eq_true, if_false]
  rfl

theorem requestSweep_of_noGyle (d : Dev) (p : Nat) :
    requestSweep d p noGyle = if sweepBusy d p then rackRefused d p 5 else refuseSweep d p 5 := by
  unfold requestSweep
  exact if_pos (.inl rfl)

section
variable {d : Dev} {p n : Nat} (hn : n ≠ noGyle)
include hn

theorem requestSweep_of_busy (hr : getF d (F.rkSweep_gyle p) ≠ noGyle) (hb : sweepBusy d p = true) :
    requestSweep d p n = rackRefused d p 1 := by
  simp [requestSweep, hn, hr, hb, refuseSweep_busy]

variable (hr : getF d (F.rkSweep_gyle p) = n) (hb : sweepBusy d p = false)
include hr hb

theorem requestSweep_of_checked (hv : flag d (F.fabNflag_chk_valid p) = true) (hc : getF d (F.fabNflag_chk_gyle p) = n) :
    requestSweep d p n = evaluateSweep d p n := by
  simp [requestSweep, hn, hr, hb, hv, hc]

theorem requestSweep_of_next (h : flag d (F.fabNflag_chk_valid p) = false ∨ getF d (F.fabNflag_chk_gyle p) + 1 = n) :
    requestSweep d p n = setF d (F.rkSstat_state p) 1 := by
  have unchecked : ¬(flag d (F.fabNflag_chk_valid p) = true ∧ getF d (F.fabNflag_chk_gyle p) = n) := by
    rintro ⟨hv, hc⟩
    rcases h with h | h
    · rw [hv] at h
      cases h
    · omega
  unfold requestSweep
  dsimp only
  rw [hr, hb, if_neg (by simp [hn]), if_neg (by simp), if_neg unchecked, if_pos h]

theorem requestSweep_of_other (hv : flag d (F.fabNflag_chk_valid p) = true) (hc : getF d (F.fabNflag_chk_gyle p) ≠ n)
    (hc' : getF d (F.fabNflag_chk_gyle p) + 1 ≠ n) : requestSweep d p n = refuseSweep d p 2 := by
  simp [requestSweep, hn, hr, hb, hv, hc, hc']

end

/-! Evaluation (R196, Table 8.9) -/

theorem evaluateSweep_of_early {d : Dev} {p code : Nat} (h : earlyCode d p = some code) (n : Nat) :
    evaluateSweep d p n = refuseSweep d p code := by rw [evaluateSweep, h]

theorem earlyCode_cases {d : Dev} {p code : Nat} (h : earlyCode d p = some code) : 3 ≤ code ∧ code ≤ 6 := by
  unfold earlyCode at h
  grind

theorem listCode_cases {d : Dev} {p n code : Nat} (h : listCode d p n = some code) : 5 ≤ code ∧ code ≤ 8 := by
  unfold listCode at h
  grind

/-- The evaluation of a request for gyle n, as its early checks leave it. -/
def newEval (d : Dev) (p n : Nat) : SweepEval := ⟨n, signed 8 (getF d (F.rkLscale_sweep_exp p)), gyleMode d p n⟩

theorem evaluateSweep_of_sound {d : Dev} {p : Nat} (h : earlyCode d p = none) (n : Nat) : evaluateSweep d p n = tryEval d p (newEval d p n) := by
  rw [evaluateSweep, h]
  rfl

/-- An evaluation whose list can be read is no longer armed. -/
def evalTaken (d : Dev) (p : Nat) : Dev := setF { d with evals := Tab.erase d.evals p } (F.rkSstat_state p) 0

theorem tryEval_of_held {d : Dev} {p : Nat} (h : evalHeld d p = true) (e : SweepEval) :
    tryEval d p e = steadyBroken (setF { d with evals := Tab.put d.evals p e } (F.rkSstat_state p) 1) := by rw [tryEval, if_pos h]

theorem tryEval_of_free {d : Dev} {p : Nat} (h : evalHeld d p = false) (e : SweepEval) : tryEval d p e = startSweep (evalTaken d p) p e := by
  rw [tryEval, if_neg (by simp [h])]
  rfl

theorem getF_evalTaken {p : Nat} {k : FKey} (hk : F.rkSstat_state p ≠ k) (d : Dev) : getF (evalTaken d p) k = getF d k :=
  getF_setF_of_ne _ _ hk

theorem slotUnits_of_idle {d : Dev} {p : Nat} (h : sweepState d p ≠ 2) : slotUnits d p = unitsOf d p := by
  unfold slotUnits
  split
  · exact if_neg h
  · rfl

/-- No sweep runs before the evaluation or after it: the window shows the slots of the granted units. -/
theorem seesAlike_evalTaken {d : Dev} {p : Nat} (h : sweepState d p ≠ 2) : SeesAlike p d (evalTaken d p) := by
  have units : unitsOf (evalTaken d p) p = unitsOf d p := by
    unfold unitsOf
    rw [getF_evalTaken (by simp)]
  have idle : getF (evalTaken d p) (F.rkSstat_state p) = 0 := getF_setF_same ..
  refine ⟨rfl, fun _ _ => rfl, ?_, fun c => congrArg (bitOf · c) (getF_evalTaken (by simp) d)⟩
  rw [slotUnits_of_idle h, slotUnits_of_idle (show getF (evalTaken d p) (F.rkSstat_state p) ≠ 2 by simp [idle]), units]

section
variable {p : Nat} {d e : Dev} (h : SeesAlike p d e) (hf : ∀ k : FKey, k.reg ≠ .rkSstat p → getF e k = getF d k)
include h hf

theorem ownedLayers_congr : ownedLayers e p = ownedLayers d p := by
  unfold ownedLayers
  rw [hf _ (by simp), hf _ (by simp), h.listWords]

theorem listCode_congr (n : Nat) : listCode e p n = listCode d p n := by
  have layer : badLayer e p = badLayer d p := by
    funext ws
    unfold badLayer
    rw [h.cmaskOk]
  have arrays (ws : List Nat) (resume : Bool) : badArrays e p ws resume = badArrays d p ws resume := by
    unfold badArrays
    simp only [h.rangePages]
  have sums : badSums e p n = badSums d p n := by
    funext ws
    unfold badSums recWord
    simp only [h.viewNat]
  unfold listCode flag
  rw [ownedLayers_congr h hf, layer, sums, hf _ (by simp)]
  simp only [arrays]

end

theorem startSweep_of_code {d : Dev} {p code : Nat} {e : SweepEval} (h : listCode d p e.gyle = some code) :
    startSweep d p e = refuseSweep d p code := by rw [startSweep, h]

/-- The sweep as it begins, its first layer not yet started. -/
def newSweep (d : Dev) (p : Nat) (e : SweepEval) : Sweep :=
  { Sweep.none with
    gyle := e.gyle, mode := e.mode, resume := flag d (F.rkSweep_resume p), exp := e.exp
    layers := (ownedLayers d p).map (fun ws => ⟨ws, lCount ws, false⟩), units := unitsOf d p }

theorem finishSweep_of_unposted {d : Dev} {p : Nat} {x : SweepLayer} (hx : x ∈ (sweepOf d p).layers) (hp : x.posted = false) :
    finishSweep d p = d := by
  refine if_neg fun ⟨_, _, hall⟩ => ?_
  rw [List.all_eq_true.1 hall x hx] at hp
  cases hp

theorem startSweep_of_sound {d : Dev} {p : Nat} {e : SweepEval} (h : listCode d p e.gyle = none) (hl : ownedLayers d p ≠ []) :
    sweepState (startSweep d p e) p = 2 ∧ ∃ b, sweepOf (startSweep d p e) p = { newSweep d p e with begun := b } := by
  let r := setF (setSweep (noteRead d p (listBytes d p).1 (listBytes d p).2) p (newSweep d p e)) (F.rkSstat_state p) 2
  have opened := (accessed_openSlots r p).sweepKept
  have begun := layerBegun_beginLayer (openSlots r p) p
  have hr : sweepOf r p = newSweep d p e := sweepOf_setSweep ..
  have hsweep : ∃ b, sweepOf (beginLayer (openSlots r p) p) p = { newSweep d p e with begun := b } := by
    obtain ⟨b, hb⟩ := begun.sweep
    exact ⟨b, by rw [hb, opened.sweepOf, hr]⟩
  have hstate : sweepState (beginLayer (openSlots r p) p) p = 2 :=
    (begun.field _ (by simp [IsSweepNote, IsAccessReg])).trans ((opened.sweepState p).trans (getF_setF_same ..))
  have heq : startSweep d p e = beginLayer (openSlots r p) p := by
    obtain ⟨ws, hws⟩ := List.exists_mem_of_ne_nil _ hl
    obtain ⟨b, hb⟩ := hsweep
    have unposted := finishSweep_of_unposted (d := beginLayer (openSlots r p) p) (p := p) (x := ⟨ws, lCount ws, false⟩)
      (by rw [hb]; exact List.mem_map_of_mem hws) rfl
    rw [startSweep, h]
    exact unposted
  rw [heq]
  exact ⟨hstate, hsweep⟩

/-! A stop (R203) -/

theorem freeUnit_same {α : Type} (v : Dev → α) (hv : ∀ d k n, v (setF d k n) = v d) (d : Dev) (u : Nat) :
    v (freeUnit d u) = v { d with rack := Tab.erase d.rack u } := by
  unfold freeUnit
  dsimp only
  split
  · rfl
  · exact hv ..

theorem freeUnit_rack (d : Dev) (u : Nat) : (freeUnit d u).rack = Tab.erase d.rack u := freeUnit_same Dev.rack (fun _ _ _ => rfl) d u

theorem getF_freeUnit_of_ne {u : Nat} {k : FKey} (hk : F.rkUnit_state u ≠ k) (d : Dev) : getF (freeUnit d u) k = getF d k := by
  unfold freeUnit
  dsimp only
  split
  · rfl
  · exact getF_setF_of_ne _ _ hk

/-- The units that work for a partition, freed. -/
def unitsFreed (d : Dev) (p : Nat) : Dev := forEach ((d.rack.filter (fun e => e.2.p == p)).map (fun e => e.1)) d freeUnit

theorem rack_forEach_freeUnit (l : List Nat) (d : Dev) : (forEach l d freeUnit).rack = d.rack.filter (fun e => !l.contains e.1) := by
  induction l generalizing d with
  | nil => simp [forEach]
  | cons u r ih =>
    rw [show forEach (u :: r) d freeUnit = forEach r (freeUnit d u) freeUnit from rfl, ih, freeUnit_rack, Tab.erase, List.filter_filter]
    refine List.filter_congr fun e _ => ?_
    by_cases h : e.1 = u <;> simp [h]

/-- None of them works on: whatever block of the partition a unit had is gone. -/
theorem rack_unitsFreed {d : Dev} {p : Nat} {e : Nat × RackWork} (he : e ∈ (unitsFreed d p).rack) : e ∈ d.rack ∧ e.2.p ≠ p := by
  rw [unitsFreed, rack_forEach_freeUnit, List.mem_filter] at he
  refine ⟨he.1, fun hp => ?_⟩
  have listed : e.1 ∈ (d.rack.filter (fun e => e.2.p == p)).map (fun e => e.1) :=
    List.mem_map_of_mem (List.mem_filter.2 ⟨he.1, by simpa using hp⟩)
  simp [listed] at he

theorem anyWork_discardBlocks (d : Dev) (p : Nat) : anyWork (discardBlocks d p) p = false := by
  have again : (sweepOf (discardBlocks d p) p).again = [] := congrArg Sweep.again (sweepOf_setSweep ..)
  have none : (discardBlocks d p).rack.any (fun e => e.2.p == p) = false := by
    rw [List.any_eq_false]
    intro e he
    simpa using (rack_unitsFreed he).2
  rw [anyWork, again, none]
  rfl

theorem anyWork_congr {d e : Dev} (hr : e.rack = d.rack) (hs : e.sweeps = d.sweeps) (p : Nat) : anyWork e p = anyWork d p := by
  unfold anyWork sweepOf
  rw [hr, hs]

/-- e is d with p's sweep stopped: shown so, and nothing of it in a unit. -/
structure SweepStopped (p : Nat) (d e : Dev) : Prop where
  state : sweepState e p = 4
  work : anyWork e p = false
  irq : getF e (F.rkIrq_done p) = 1
  mem : e.mem = d.mem

theorem sweepStopped_stopSweep {d : Dev} {p : Nat} (h : sweepState d p = 2) : SweepStopped p d (stopSweep d p) := by
  have running : sweepState (setF d (F.rkSweep_stop p) 0) p = 2 := (getF_setF_of_ne _ _ (by simp)).trans h
  refine ⟨?_, ?_, ?_, stopSweep_mem ..⟩
  all_goals
    unfold stopSweep
    dsimp only
    rw [if_pos running]
  · exact ((getF_raise ..).trans (getF_setF_of_ne _ _ (by simp))).trans (getF_setF_same ..)
  · refine (anyWork_congr ?_ ?_ p).trans (anyWork_discardBlocks (setF d (F.rkSweep_stop p) 0) p)
    · exact raise_same Dev.rack (fun _ _ _ => rfl) ..
    · exact raise_same Dev.sweeps (fun _ _ _ => rfl) ..
  · exact (getF_raise ..).trans (getF_setF_same ..)

/-- Settles O29: a store is its request on the fields it leaves (`sweepFields`), and a request by the first check that decides it; an
evaluation that begins a sweep keeps it through the first layer's start. -/
theorem sweepRequests : Obligations.SweepRequests := by
  intro s p v hg n c fields request start done refused
  have started (hr : request) : exec (.sweepStart p v) s = .next { s with dev := requestSweep (sweepFields s.dev p v.toNat) p n } := by
    rw [exec_sweepStart hg p hr.1, sweepWrite_of_start hr.1 hr.2]
  have hfields (hs : start) : sweepFields s.dev p v.toNat = fields := sweepFields_of_open hs.2.1 _
  have kept (k : FKey) (hk : k.reg ≠ .rkSweep p) : getF fields k = getF s.dev k := getF_requestFields_of_reg hk s.dev _
  have state : sweepState fields p = sweepState s.dev p := kept _ (by simp)
  have idle (hs : start) : sweepBusy fields p = false := by
    rw [sweepBusy, state]
    exact (Bool.or_eq_false_iff.1 hs.2.1).1
  have notRunning (hs : start) : sweepState fields p ≠ 2 := fun h2 => by simpa [sweepBusy, h2] using idle hs
  have gyle : getF fields (F.rkSweep_gyle p) = n := getF_requestFields_gyle ..
  have valid : flag fields (F.fabNflag_chk_valid p) = flag s.dev (F.fabNflag_chk_valid p) := congrArg (· != 0) (kept _ (by simp))
  have checked : getF fields (F.fabNflag_chk_gyle p) = c := kept _ (by simp)
  have mode : gyleMode fields p n = gyleMode s.dev p n := by
    rw [gyleMode, gyleMode, valid, checked, modeOf, modeOf, kept _ (by simp)]
    rfl
  have evaluated (hd : done) : exec (.sweepStart p v) s = .next { s with dev := evaluateSweep fields p n } := by
    obtain ⟨hs, hv, hc⟩ := hd
    rw [started hs.1, hfields hs, requestSweep_of_checked hs.2.2 gyle (idle hs) (valid.trans hv) (checked.trans hc)]
  have tried (hd : done) (he : earlyCode fields p = none) (hh : evalHeld fields p = false) :
      exec (.sweepStart p v) s = .next { s with dev := startSweep (evalTaken fields p) p (newEval fields p n) } := by
    rw [evaluated hd, evaluateSweep_of_sound he, tryEval_of_free hh]
  have alike (hd : done) : SeesAlike p fields (evalTaken fields p) := seesAlike_evalTaken (notRunning hd.1)
  have others (k : FKey) (hk : k.reg ≠ .rkSstat p) : getF (evalTaken fields p) k = getF fields k :=
    getF_evalTaken (FKey.ne_of_reg hk.symm) fields
  have shown {d e : Dev} {code st : Nat} (hm : d.mem = s.dev.mem) (hsw : d.sweeps = s.dev.sweeps)
      (he : exec (.sweepStart p v) s = .next { s with dev := e }) (hr : SweepRefused p code st d e) : refused code st :=
    ⟨_, he, hr.state, hr.err, hr.irq, hr.mem.trans hm, by simp only [sweepOf, hr.sweeps, hsw]⟩
  refine ⟨fun hs h => ?armed, fun hs hv hc hc' => ?late, fun hd he hh hl ho => ?runs, fun hd he hh => ?waits, fun code hd he => ?early,
    fun code hd he hh hl => ?list, fun hr hb hn hg' => ?busy, fun hr hn => ?noGyle, fun h62 h63 h2 => ?stop⟩
  case armed =>
    rw [started hs.1, hfields hs, requestSweep_of_next hs.2.2 gyle (idle hs) (by rwa [valid, checked])]
  case late =>
    refine shown (d := fields) rfl rfl ?_ (sweepRefused_refuseSweep fields p (code := 2) (by decide) (by decide))
    rw [started hs.1, hfields hs, requestSweep_of_other hs.2.2 gyle (idle hs) (valid.trans hv) (by rwa [checked]) (by rwa [checked])]
  case runs =>
    have hcode : listCode (evalTaken fields p) p n = none := (listCode_congr (alike hd) others n).trans hl
    have owned := ownedLayers_congr (alike hd) others
    have units : unitsOf (evalTaken fields p) p = unitsOf s.dev p := by
      rw [unitsOf, others _ (by simp), kept _ (by simp)]
      rfl
    have resume : flag (evalTaken fields p) (F.rkSweep_resume p) = bitOf v.toNat 61 :=
      (congrArg (· != 0) (others _ (by simp))).trans (flag_requestFields_resume s.dev p v.toNat)
    obtain ⟨hstate, b, hsweep⟩ := startSweep_of_sound (e := newEval fields p n) hcode (by rwa [owned])
    refine ⟨_, tried hd he hh, hstate, rfl, ?_⟩
    dsimp only
    rw [hsweep]
    refine ⟨rfl, mode, ?_, rfl, units, resume⟩
    simp [newSweep, owned, Function.comp_def]
  case waits =>
    have answered := evaluated hd
    rw [evaluateSweep_of_sound he, tryEval_of_held hh] at answered
    refine ⟨_, answered, ?_, ?_, steadyBroken_mem _⟩
    · exact ((sweepKept_steadyBroken _).sweepState p).trans (getF_setF_same ..)
    · rw [steadyBroken_same (fun d => d.evals) rfl]
      exact congrArg (Option.map SweepEval.gyle) (Tab.get?_put_same ..)
  case early =>
    have hc := earlyCode_cases he
    have answered := evaluated hd
    rw [evaluateSweep_of_early he] at answered
    exact shown (d := fields) rfl rfl answered (sweepRefused_refuseSweep fields p (by omega) (by omega))
  case list =>
    have hc := listCode_cases hl
    have hcode : listCode (evalTaken fields p) p n = some code := (listCode_congr (alike hd) others n).trans hl
    have answered := tried hd he hh
    rw [startSweep_of_code (e := newEval fields p n) hcode] at answered
    exact shown (d := evalTaken fields p) rfl rfl answered
      (sweepRefused_refuseSweep (evalTaken fields p) p (by omega) (by omega))
  case busy =>
    have locked : rackLocked s.dev p = true := by rw [rackLocked, hb, Bool.true_or]
    have named : getF (sweepFields s.dev p v.toNat) (F.rkSweep_gyle p) ≠ noGyle := by
      rwa [sweepFields, getF_rackGuard_of_locked locked _ (by simp)]
    rw [← sweepState_sweepFields]
    refine shown (rackGuard_mem ..) (rackGuard_same Dev.sweeps (fun _ _ _ => rfl) ..) ?_
      (sweepRefused_rackRefused (sweepFields s.dev p v.toNat) p (code := 1) (by decide))
    rw [started hr, requestSweep_of_busy hn named (by rwa [sweepBusy, sweepState_sweepFields])]
  case noGyle =>
    have busy : sweepBusy (sweepFields s.dev p v.toNat) p = sweepBusy s.dev p := by rw [sweepBusy, sweepBusy, sweepState_sweepFields]
    have named := started hr
    rw [hn, requestSweep_of_noGyle, busy] at named
    have mem : (sweepFields s.dev p v.toNat).mem = s.dev.mem := rackGuard_mem ..
    have sweeps : (sweepFields s.dev p v.toNat).sweeps = s.dev.sweeps := rackGuard_same Dev.sweeps (fun _ _ _ => rfl) ..
    split
    · next hb =>
      rw [if_pos hb] at named
      rw [← sweepState_sweepFields]
      exact shown mem sweeps named (sweepRefused_rackRefused _ p (by decide))
    · next hb =>
      rw [if_neg hb] at named
      exact shown mem sweeps named (sweepRefused_refuseSweep _ p (by decide) (by decide))
  case stop =>
    have running : sweepState (sweepFields s.dev p v.toNat) p = 2 := (sweepState_sweepFields ..).trans h2
    have stopped := sweepStopped_stopSweep running
    have answered : exec (.sweepStop p v) s = .next { s with dev := stopSweep (sweepFields s.dev p v.toNat) p } := by
      rw [exec_sweepStop hg p h62, sweepWrite_of_stop h62 h63]
    exact ⟨_, answered, stopped.state, stopped.work, stopped.irq, stopped.mem.trans (rackGuard_mem ..)⟩

end Sys2Proof.Machine
end

section
namespace Sys2Proof.Machine

section
variable {d : Dev} {p u : Nat}

theorem handByStamps_moment (hm : nextStamp d p 0 = nextStamp d p 1) (hg : nextStamp d p 0 ≠ (sweepOf d p).gyle) :
    handByStamps d p u = nextBlock (takeBlock (nextHeaderRead d p) u (nextWork d p (nextPlace d p) false)) p (nextStaged d p) :=
  if_pos ⟨hm, hg⟩

theorem handByStamps_weight (hr : (sweepOf d p).resume = true) (hm : nextStamp d p 0 = (sweepOf d p).gyle)
    (hx : nextStamp d p 1 ≠ (sweepOf d p).gyle) :
    handByStamps d p u = nextBlock (takeBlock (nextHeaderRead d p) u (nextWork d p none true)) p (nextStaged d p) := by
  unfold handByStamps
  dsimp only
  rw [if_neg (fun h => h.2 hm), if_pos ⟨hr, hm, hx⟩]

theorem handByStamps_passed (hr : (sweepOf d p).resume = true) (hm : nextStamp d p 0 = (sweepOf d p).gyle)
    (hx : nextStamp d p 1 = (sweepOf d p).gyle) :
    handByStamps d p u = nextBlock (blockDone (nextHeaderRead d p) p (sweepOf d p).layer) p (nextStaged d p) := by
  unfold handByStamps
  dsimp only
  rw [if_neg (fun h => h.2 hm), if_neg (fun h => h.2.2 hx), if_pos ⟨hr, hm, hx⟩]

theorem handByStamps_fault (h : ((sweepOf d p).resume = false ∧ (nextStamp d p 0 ≠ nextStamp d p 1 ∨ nextStamp d p 0 = (sweepOf d p).gyle)) ∨
    (nextStamp d p 0 ≠ nextStamp d p 1 ∧ nextStamp d p 0 ≠ (sweepOf d p).gyle)) :
    handByStamps d p u = settleStamp (setSweep (nextHeaderRead d p) p { sweepOf d p with stamp := true }) p := by
  have other : ¬((sweepOf d p).resume = true ∧ nextStamp d p 0 = (sweepOf d p).gyle) := by
    rintro ⟨hr, hm⟩
    rcases h with ⟨hr', -⟩ | ⟨-, hm'⟩
    · rw [hr] at hr'
      cases hr'
    · exact hm' hm
  have agree : ¬(nextStamp d p 0 = nextStamp d p 1 ∧ nextStamp d p 0 ≠ (sweepOf d p).gyle) := by
    rintro ⟨hm, hg⟩
    rcases h with ⟨-, hne | he⟩ | ⟨hne, -⟩
    · exact hne hm
    · exact hg he
    · exact hne hm
  unfold handByStamps
  dsimp only
  rw [if_neg agree, if_neg (fun h => other ⟨h.1, h.2.1⟩), if_neg (fun h => other ⟨h.1, h.2.1⟩)]

/-- The next block has gone to unit u as work w. -/
structure BlockTaken (p u : Nat) (w : RackWork) (d e : Dev) : Prop where
  work : workOf e u = some w
  handed : (sweepOf e p).handed = (sweepOf d p).handed + 1
  part : getF e (F.rkUnit_part u) = p

theorem sweepKept_nextHeaderRead (d : Dev) (p : Nat) : SweepKept d (nextHeaderRead d p) := sweepKept_noteRead ..

theorem blockTaken_nextBlock (hp : p < 4) (slot : Option (Nat × Nat × Nat)) (weight staged : Bool) :
    BlockTaken p u (nextWork d p slot weight) d (nextBlock (takeBlock (nextHeaderRead d p) u (nextWork d p slot weight)) p staged) := by
  have passed := blockPassed_nextBlock (takeBlock (nextHeaderRead d p) u (nextWork d p slot weight)) p staged
  refine ⟨?_, ?_, ?_⟩
  · rw [workOf, passed.rack]
    exact workOf_takeBlock_same ..
  · rw [passed.handed, sweepOf_takeBlock, (sweepKept_nextHeaderRead d p).sweepOf]
  · rw [passed.field _ (by simp [IsSweepNote, IsAccessReg])]
    exact getF_takeBlock_part _ _ hp

end

/-- Settles O30: the next block by what its stamps make of it (`handByStamps`), a layer's start and a block that runs again by the branch of
`handOut` that comes before. -/
theorem blockHandout : Obligations.BlockHandout := by
  intro s p u hg hst w ws m x slot next turn
  have answered {e : Dev} (h : handOut s.dev p u = e) : exec (.blockHandout p u) s = .next { s with dev := e } := by
    rw [exec_blockHandout hg, h]
  have stamped (ht : turn) : handOut s.dev p u = handByStamps s.dev p u := by
    obtain ⟨⟨ha, hs, hl, hu⟩, hb, hh⟩ := ht
    exact handOut_of_turn hst ha hs hl hu hb hh
  have idle (hn : next) : workOf s.dev u = none := by
    have ready := hn.2.2.2
    simp only [unitReady, Bool.and_eq_true, Option.isNone_iff_eq_none] at ready
    exact ready.1.1.2
  refine ⟨fun ht hm hw => ?moment, fun ht hr hm hx => ?weight, fun ht hr hm hx => ?passed, fun ht h => ?fault, fun hn hb hw => ?begin,
    fun ⟨ha, hs, hl, hu⟩ hb hh => ?held, fun y hy hu hw h4 => ?again⟩
  case moment =>
    have taken := blockTaken_nextBlock (d := s.dev) (u := u) p.isLt (nextPlace s.dev p) false (nextStaged s.dev p)
    exact ⟨_, answered ((stamped ht).trans (handByStamps_moment hm hw)), taken.work, taken.handed, taken.part⟩
  case weight =>
    have taken := blockTaken_nextBlock (d := s.dev) (u := u) p.isLt none true (nextStaged s.dev p)
    exact ⟨_, answered ((stamped ht).trans (handByStamps_weight hr hm hx)), taken.work, taken.handed⟩
  case passed =>
    have read := sweepKept_nextHeaderRead s.dev p
    have passed := blockPassed_nextBlock (blockDone (nextHeaderRead s.dev p) p w.layer) p (nextStaged s.dev p)
    refine ⟨_, answered ((stamped ht).trans (handByStamps_passed hr hm hx)), ?_, ?_⟩
    · rw [workOf, passed.rack]
      exact (read.workOf u).trans (idle ht.1)
    · rw [passed.handed, blockDone, sweepOf_setSweep, read.sweepOf]
  case fault =>
    let e := setSweep (nextHeaderRead s.dev p) p { w with stamp := true }
    have read := sweepKept_nextHeaderRead s.dev p
    have stored : sweepOf e p = { w with stamp := true } := sweepOf_setSweep ..
    have sweeps : (settleStamp e p).sweeps = e.sweeps := settleStamp_same Dev.sweeps (fun _ _ _ => rfl) e p
    have rack : (settleStamp e p).rack = s.dev.rack := (settleStamp_same Dev.rack (fun _ _ _ => rfl) e p).trans read.rack
    refine ⟨_, answered ((stamped ht).trans (handByStamps_fault h)), ?_, ?_, ?_, fun hidle => ?_⟩
    · show (sweepOf (settleStamp e p) p).stamp = true
      rw [sweepOf, sweeps]
      exact congrArg Sweep.stamp stored
    · show workOf (settleStamp e p) u = none
      rw [workOf, rack]
      exact idle ht.1
    · simp [nextHeaderRead]
    · have idle : anyWork e p = false := by
        rw [anyWork, stored, show e.rack = s.dev.rack from read.rack]
        exact hidle
      have faulted := sweepFaulted_faultSweep e p (code := 9) (by decide)
      rw [settleStamp_of_idle (congrArg Sweep.stamp stored) idle ((read.sweepState p).trans hst)]
      exact ⟨faulted.state, faulted.err⟩
  case begin =>
    have begun := sweepKept_beginLayer_of_ready hst hb hn.2.2.1 hw
    refine ⟨_, answered (handOut_of_unbegun hst hn.1 hn.2.1 hn.2.2.1 hn.2.2.2 hb), ?_, ?_⟩
    · exact (begun.sweepOf p).trans (sweepOf_setSweep ..)
    · exact (begun.workOf u).trans (idle hn)
  case held => exact answered (handOut_of_held hst ha hs hl hu hb hh)
  case again =>
    have taken := handOut_of_again hst hy
    rw [if_pos (by simp [hu, hw, h4])] at taken
    refine ⟨_, answered taken, workOf_takeBlock_same .., ?_, takeBlock_mem ..⟩
    exact (sweepOf_takeBlock ..).trans (sweepOf_setSweep ..)

end Sys2Proof.Machine
end

section
namespace Sys2Proof.Machine

section
variable {s : State} (hg : s.dev.powerGood = true) (u : RackId)
include hg

theorem exec_momentPhase (found : Found) : exec (.momentPhase u found) s = .next { s with dev := runMoment s.dev u found } :=
  congrArg Host.Outcome.next (onDev_of_good hg)
theorem exec_weightPhase : exec (.weightPhase u) s = .next { s with dev := runWeight s.dev u } :=
  congrArg Host.Outcome.next (onDev_of_good hg)
theorem exec_rackPhaseRetry (next : RackId) (writing : Bool) : exec (.rackPhaseRetry u next writing) s =
    .next { s with dev := noteWear (retryPhase s.dev u next writing) } := congrArg Host.Outcome.next (onDev_of_good hg)

end

/-! The phases (R198, R201, R206) -/

/-- A phase's arrays are read, and the staging slot its gradients came from is freed. -/
def inputsRead (d : Dev) (w : RackWork) (ws : List Nat) : Dev :=
  match w.slot with
  | some b => freeSlot (readArrays d w ws) w.p b
  | none => readArrays d w ws

/-- The moment phase written out and counted. -/
def momentsWritten (d : Dev) (u : Nat) (w : RackWork) (ws : List Nat) : Dev :=
  let x := sweepOf d w.p
  countPhase (momentBlock (inputsRead d w ws) x.ref w.p ws x.exp x.gyle w.block (gradients d w ws)) w.p u

/-- The weight phase written out and counted. -/
def weightsWritten (d : Dev) (u : Nat) (w : RackWork) (ws : List Nat) : Dev :=
  let x := sweepOf d w.p
  countPhase (weightBlock (readArrays d w ws) x.ref w.p ws x.gyle w.block) w.p u

theorem workOf_of_readyWork {d : Dev} {u : Nat} {weight : Bool} {w : RackWork} {ws : List Nat} (h : readyWork d u weight = some (w, ws)) :
    workOf d u = some w := by
  unfold readyWork at h
  cases hx : workOf d u with
  | none =>
    rw [hx] at h
    cases h
  | some x =>
    rw [hx] at h
    obtain ⟨-, h⟩ := Option.ite_none_right_eq_some.1 h
    cases h
    rfl

section
variable {d : Dev} {u : Nat} {w : RackWork} {ws : List Nat}

theorem runMoment_of_held (h : readyWork d u false = some (w, ws)) (hh : blockHeld d w ws = true) (found : Found) :
    runMoment d u found = steadyBroken d := by
  unfold runMoment
  rw [h]
  exact if_pos hh

theorem runMoment_of_sound (h : readyWork d u false = some (w, ws)) (hh : blockHeld d w ws = false) {found : Found}
    (hf : w.slot = none ∨ found ≠ .uncorrectable) : runMoment d u found =
      { momentsWritten d u w ws with rack := Tab.put (momentsWritten d u w ws).rack u { w with slot := none, weight := true } } := by
  unfold runMoment
  rw [h]
  dsimp only
  rw [if_neg (by simp [hh])]
  split
  · next b hb =>
    rcases hf with hn | hn
    · rw [hb] at hn
      cases hn
    · exact absurd rfl hn
  · rfl

theorem runMoment_of_uncorrectable (h : readyWork d u false = some (w, ws)) (hh : blockHeld d w ws = false) (hs : w.slot ≠ none) :
    ∃ b, runMoment d u .uncorrectable = rackFault d w.p (.staging b) := by
  obtain ⟨b, hb⟩ := Option.ne_none_iff_exists'.1 hs
  refine ⟨b.2.1, ?_⟩
  unfold runMoment
  rw [h]
  dsimp only
  rw [if_neg (by simp [hh]), hb]

theorem runWeight_of_held (h : readyWork d u true = some (w, ws)) (hh : blockHeld d w ws = true) : runWeight d u = steadyBroken d := by
  unfold runWeight
  rw [h]
  exact if_pos hh

theorem runWeight_of_free (h : readyWork d u true = some (w, ws)) (hh : blockHeld d w ws = false) :
    runWeight d u = settleStamp (blockDone (freeUnit (weightsWritten d u w ws) u) w.p w.layer) w.p := by
  unfold runWeight
  rw [h]
  exact if_neg (by simp [hh])

end

/-! Module faults of the rack units (R204, Table 8.9) -/

theorem Tab.mem_of_get? {κ α : Type} [DecidableEq κ] {t : Tab κ α} {k : κ} {v : α} (h : Tab.get? t k = some v) : (k, v) ∈ t := by
  induction t with
  | nil => cases h
  | cons e r ih =>
    obtain ⟨x, y⟩ := e
    by_cases hx : x = k
    · rw [Tab.get?, if_pos hx] at h
      cases h
      exact hx ▸ List.mem_cons_self
    · rw [Tab.get?, if_neg hx] at h
      exact List.mem_cons_of_mem _ (ih h)

/-- A block in progress is discarded with the others of its partition. -/
theorem workOf_discardBlocks {d : Dev} {u : Nat} {w : RackWork} (h : workOf d u = some w) : workOf (discardBlocks d w.p) u = none := by
  have listed : u ∈ (d.rack.filter (fun e => e.2.p == w.p)).map (fun e => e.1) :=
    List.mem_map_of_mem (List.mem_filter.2 ⟨Tab.mem_of_get? h, by simp⟩)
  have left : (discardBlocks d w.p).rack = _ := rack_forEach_freeUnit _ d
  rw [workOf, left, Tab.get?_filter_key _ (fun k => !_), if_neg (by simpa using listed)]

/-- p's sweep has faulted with the code of a module fault, unit u has no work, and no byte has changed. -/
structure RackFaulted (p u : Nat) (d e : Dev) : Prop where
  state : sweepState e p = 7
  err : getF e (F.rkSstat_err p) = 0x0A
  irq : getF e (F.rkIrq_fault p) = 1
  work : workOf e u = none
  mem : e.mem = d.mem

theorem rackFaulted_rackFault {d : Dev} {u : Nat} {w : RackWork} (h : workOf d u = some w) (x : FaultUnit) :
    RackFaulted w.p u d (rackFault d w.p x) := by
  have faulted := sweepFaulted_faultSweep (moduleFault (discardBlocks d w.p) x) w.p (code := 0x0A) (by decide)
  refine ⟨faulted.state, faulted.err, faulted.irq, ?_, rackFault_mem ..⟩
  rw [workOf, show (rackFault d w.p x).rack = (discardBlocks d w.p).rack from faulted.rack]
  exact workOf_discardBlocks h

theorem RackFaulted.noteWear {p u : Nat} {d e : Dev} (h : RackFaulted p u d e) : RackFaulted p u d (noteWear e) :=
  ⟨(getF_noteWear (by simp) (by simp) e).trans h.state, (getF_noteWear (by simp) (by simp) e).trans h.err,
    (getF_noteWear (by simp) (by simp) e).trans h.irq, (noteWear_same (workOf · u) (fun _ _ _ => rfl) e).trans h.work,
    (noteWear_mem e).trans h.mem⟩

/-! A failing unit (R204) -/

theorem noteUnitFail_rack (d : Dev) (p u : Nat) : (noteUnitFail d p u).rack = d.rack := by
  unfold noteUnitFail retireUnit dropBit
  split
  · split <;> rfl
  · rfl

/-- A failing unit's phase is discarded: the failure is counted and on record, and the block waits to run again. -/
def phaseDiscarded (d : Dev) (w : RackWork) (u : Nat) : Dev := requeue (noteUnitFail (satF d (F.rkUnit_retries u) 1) w.p u) u

section
variable {d : Dev} {u : Nat} {w : RackWork} (hw : workOf d u = some w)
include hw

theorem retryPhase_of_writing (next : Nat) : retryPhase d u next true = rackFault (noteUnitFail d w.p u) w.p (.rackUnit u) := by
  rw [retryPhase, hw]
  rfl

theorem retryPhase_of_before (next : Nat) : retryPhase d u next false =
    if (unitsOf (phaseDiscarded d w u) w.p).isEmpty then rackFault (phaseDiscarded d w u) w.p (.rackUnit u)
    else if (againFor (phaseDiscarded d w u) w.p next).isSome then handOut (phaseDiscarded d w u) w.p next
    else phaseDiscarded d w u := by
  rw [retryPhase, hw]
  rfl

/-- A block whose unit has failed waits behind those that failed before it. -/
theorem requeue_of_work {e : Dev} (he : e.rack = d.rack) : requeue e u =
    setSweep (freeUnit e u) w.p { sweepOf e w.p with again := (sweepOf e w.p).again ++ [(w, u)] } := by
  rw [requeue, workOf, he, show Tab.get? d.rack u = some w from hw]

end

theorem freeUnit_of_retired {d : Dev} {u : Nat} (h : getF d (F.rkUnit_state u) = 4) : freeUnit d u = { d with rack := Tab.erase d.rack u } :=
  if_pos h

theorem getF_satF_same (d : Dev) (k : FKey) (n : Nat) : getF (satF d k n) k = min (getF d k + n) (2 ^ k.width - 1) :=
  (getF_setF_same ..).trans (Nat.mod_eq_of_lt (Nat.lt_of_le_of_lt (Nat.min_le_right ..) (Nat.sub_lt (Nat.two_pow_pos _) Nat.one_pos)))

/-! The first failure: another unit takes the block from its unchanged inputs -/

/-- The block of unit u after its first failure, waiting alone. -/
structure PhaseWaits (d : Dev) (w : RackWork) (u : Nat) (e : Dev) : Prop where
  again : (sweepOf e w.p).again = [(w, u)]
  rack : e.rack = Tab.erase d.rack u
  fails : u ∈ e.rackFails
  retries : getF e (F.rkUnit_retries u) = min (getF d (F.rkUnit_retries u) + 1) (2 ^ (F.rkUnit_retries u).width - 1)
  field : ∀ k : FKey, k.reg ≠ .rkUnit u → getF e k = getF d k
  mem : e.mem = d.mem

theorem getF_setSweep (d : Dev) (p : Nat) (w : Sweep) (k : FKey) : getF (setSweep d p w) k = getF d k := rfl

theorem setSweep_rack (d : Dev) (p : Nat) (w : Sweep) : (setSweep d p w).rack = d.rack := rfl

theorem setSweep_rackFails (d : Dev) (p : Nat) (w : Sweep) : (setSweep d p w).rackFails = d.rackFails := rfl

/-- A unit's first failure is counted and on record. -/
def failNoted (d : Dev) (u : Nat) : Dev := { satF d (F.rkUnit_retries u) 1 with rackFails := u :: d.rackFails }

theorem phaseDiscarded_of_first {d : Dev} {u : Nat} {w : RackWork} (hw : workOf d u = some w) (hf : u ∉ d.rackFails) : phaseDiscarded d w u =
    setSweep (freeUnit (failNoted d u) u) w.p { sweepOf d w.p with again := (sweepOf d w.p).again ++ [(w, u)] } := by
  have noted : noteUnitFail (satF d (F.rkUnit_retries u) 1) w.p u = failNoted d u := if_neg (by simpa [satF, setF] using hf)
  rw [phaseDiscarded, noted]
  exact requeue_of_work hw rfl

theorem phaseWaits_phaseDiscarded {d : Dev} {u : Nat} {w : RackWork} (hw : workOf d u = some w) (hf : u ∉ d.rackFails)
    (ha : (sweepOf d w.p).again = []) : PhaseWaits d w u (phaseDiscarded d w u) := by
  have fails : (freeUnit (failNoted d u) u).rackFails = u :: d.rackFails := freeUnit_same Dev.rackFails (fun _ _ _ => rfl) ..
  have counted : getF (failNoted d u) (F.rkUnit_retries u) = _ := getF_satF_same d _ 1
  have kept (k : FKey) (hk : k.reg ≠ .rkUnit u) : getF (failNoted d u) k = getF d k := getF_setF_of_ne _ _ (FKey.ne_of_reg hk.symm)
  have freed (k : FKey) (hk : F.rkUnit_state u ≠ k) : getF (phaseDiscarded d w u) k = getF (failNoted d u) k := by
    rw [phaseDiscarded_of_first hw hf, getF_setSweep, getF_freeUnit_of_ne hk]
  refine ⟨?_, ?_, ?_, (freed _ (by simp)).trans counted, fun k hk => (freed k (FKey.ne_of_reg hk.symm)).trans (kept k hk), ?_⟩
  all_goals rw [phaseDiscarded_of_first hw hf]
  · rw [sweepOf_setSweep, ha, List.nil_append]
  · rw [setSweep_rack, freeUnit_rack]
    rfl
  · rw [setSweep_rackFails, fails]
    exact List.mem_cons_self
  · rw [setSweep_mem, freeUnit_mem]
    rfl

/-- The block runs again on unit v. -/
structure PhaseMoved (d : Dev) (w : RackWork) (u v : Nat) (e : Dev) : Prop where
  taken : workOf e v = some w
  left : workOf e u = none
  fails : u ∈ e.rackFails
  retries : getF e (F.rkUnit_retries u) = min (getF d (F.rkUnit_retries u) + 1) (2 ^ (F.rkUnit_retries u).width - 1)
  mem : e.mem = d.mem

theorem phaseMoved_retryPhase {d : Dev} {u v : Nat} {w : RackWork} (hw : workOf d u = some w) (hf : u ∉ d.rackFails) (hne : v ≠ u)
    (hv : v ∈ unitsOf d w.p) (hidle : workOf d v = none) (h4 : getF d (F.rkUnit_state v) ≠ 4) (hst : sweepState d w.p = 2)
    (ha : (sweepOf d w.p).again = []) : PhaseMoved d w u v (retryPhase d u v false) := by
  have waits := phaseWaits_phaseDiscarded hw hf ha
  have granted : unitsOf (phaseDiscarded d w u) w.p = unitsOf d w.p := by
    unfold unitsOf
    rw [waits.field _ (by simp)]
  have first : againFor (phaseDiscarded d w u) w.p v = some (w, u) := by
    rw [againFor, waits.again]
    exact List.find?_cons_of_pos (by simp [hne.symm])
  have free : workOf (phaseDiscarded d w u) v = none := by
    rw [workOf, waits.rack, Tab.get?_erase_of_ne _ hne.symm]
    exact hidle
  have awake : getF (phaseDiscarded d w u) (F.rkUnit_state v) ≠ 4 := by rwa [waits.field _ (by simp [hne])]
  have handed : retryPhase d u v false = 
      takeBlock (setSweep (phaseDiscarded d w u) w.p { sweepOf (phaseDiscarded d w u) w.p with again := [] }) v w := by
    rw [retryPhase_of_before hw, if_neg (by rw [granted]; simpa using List.ne_nil_of_mem hv), if_pos (by rw [first]; rfl),
      handOut_of_again ((waits.field _ (by simp)).trans hst) first, if_pos (by simp [granted, hv, free, awake]), waits.again, List.erase_cons_head]
  rw [handed]
  refine ⟨workOf_takeBlock_same .., ?_, ?_, ?_, ?_⟩
  · rw [workOf_takeBlock_of_ne hne]
    show Tab.get? (phaseDiscarded d w u).rack u = none
    rw [waits.rack, Tab.get?_erase_same]
  · rw [takeBlock_same Dev.rackFails (fun _ _ _ _ _ => rfl)]
    exact waits.fails
  · exact (getF_takeBlock_of_reg (by simp [hne.symm]) _ w).trans waits.retries
  · exact (takeBlock_mem ..).trans waits.mem

/-! The second failure: the unit is retired -/

/-- Unit u has left p's grant and shows that it is retired; no byte has changed. -/
structure UnitRetired (p u : Nat) (d e : Dev) : Prop where
  grant : bitOf (getF e (F.rkPcfg_units p)) u = false
  state : getF e (F.rkUnit_state u) = 4
  mem : e.mem = d.mem

theorem unitRetired_retireUnit (d : Dev) (p u : Nat) : UnitRetired p u d (retireUnit d p u) := by
  have shown (k : FKey) (hk : F.telWear4_units ≠ k) :
      getF (retireUnit d p u) k = getF (setF (dropBit d (F.rkPcfg_units p) u) (F.rkUnit_state u) 4) k := getF_setF_of_ne _ _ hk
  refine ⟨?_, ?_, retireUnit_mem ..⟩
  · rw [shown _ (by simp), getF_setF_of_ne _ _ (by simp)]
    exact bitOf_dropBit
  · rw [shown _ (by simp), getF_setF_same]
    rfl

namespace UnitRetired
variable {p u : Nat} {d e g : Dev}

theorem of_field (h : UnitRetired p u d e) (hp : getF g (F.rkPcfg_units p) = getF e (F.rkPcfg_units p))
    (hu : getF g (F.rkUnit_state u) = getF e (F.rkUnit_state u)) (hm : g.mem = e.mem) : UnitRetired p u d g :=
  ⟨(congrArg (bitOf · u) hp).trans h.grant, hu.trans h.state, hm.trans h.mem⟩

/-- A retired unit goes idle no more. -/
theorem freeUnit (h : UnitRetired p u d e) (v : Nat) : UnitRetired p u d (freeUnit e v) := by
  refine h.of_field (getF_freeUnit_of_ne (by simp) e) ?_ (freeUnit_mem e v)
  rcases eq_or_ne v u with rfl | hne
  · rw [freeUnit_of_retired h.state]
    rfl
  · exact getF_freeUnit_of_ne (by simp [hne]) e

theorem setSweep (h : UnitRetired p u d e) (q : Nat) (w : Sweep) : UnitRetired p u d (setSweep e q w) := h.of_field rfl rfl rfl

theorem requeue (h : UnitRetired p u d e) (v : Nat) : UnitRetired p u d (requeue e v) := by
  unfold Machine.requeue
  split
  · exact h
  · exact (h.freeUnit v).setSweep ..

theorem rackFault (h : UnitRetired p u d e) (q : Nat) (x : FaultUnit) : UnitRetired p u d (rackFault e q x) := by
  have freed : UnitRetired p u d (discardBlocks e q) := (forEach_keeps (fun _ v hd => hd.freeUnit v) _ e h).setSweep ..
  have shown (k : FKey) (hi : F.rkIrq_fault q ≠ k) (hs : ∀ lo, ⟨.rkSstat q, lo⟩ ≠ k) :
      getF (Machine.rackFault e q x) k = getF (discardBlocks e q) k :=
    ((getF_raise ..).trans (getF_setF_of_ne _ _ hi)).trans ((getF_setF_of_ne _ _ (hs _)).trans (getF_setF_of_ne _ _ (hs _)))
  exact freed.of_field (shown _ (by simp) (by simp)) (shown _ (by simp) (by simp)) (by simp)

/-- It is not among the units that may take a block. -/
theorem not_mem_unitsOf (h : UnitRetired p u d e) : u ∉ unitsOf e p := fun hu => by
  have bit := (List.mem_filter.1 hu).2
  rw [h.grant] at bit
  cases bit

theorem handOut (h : UnitRetired p u d e) {v : Nat} {y : RackWork × Nat} (hy : againFor e p v = some y) : UnitRetired p u d (handOut e p v) := by
  by_cases hst : sweepState e p = 2
  · rw [handOut_of_again hst hy]
    split
    · next hv =>
      have granted : v ∈ unitsOf e p := by
        simp only [Bool.and_eq_true, List.contains_iff_mem] at hv
        exact hv.1.1
      have hne : u ≠ v := fun hu => h.not_mem_unitsOf (hu ▸ granted)
      exact (h.setSweep p _).of_field (getF_takeBlock_of_reg (by simp) _ y.1) (getF_takeBlock_of_reg (by simp [hne]) _ y.1) (takeBlock_mem ..)
    · exact h
  · unfold Machine.handOut
    dsimp only
    rwa [if_pos hst]

theorem noteWear (h : UnitRetired p u d e) : UnitRetired p u d (noteWear e) :=
  h.of_field (getF_noteWear (by simp) (by simp) e) (getF_noteWear (by simp) (by simp) e) (noteWear_mem e)

end UnitRetired

theorem unitRetired_retryPhase {d : Dev} {u : Nat} {w : RackWork} (hw : workOf d u = some w) (hf : u ∈ d.rackFails) (v : Nat) :
    UnitRetired w.p u d (retryPhase d u v false) := by
  have noted : noteUnitFail (satF d (F.rkUnit_retries u) 1) w.p u = retireUnit (satF d (F.rkUnit_retries u) 1) w.p u :=
    if_pos (by simpa [satF, setF] using hf)
  have retired := unitRetired_retireUnit (satF d (F.rkUnit_retries u) 1) w.p u
  have discarded : UnitRetired w.p u d (phaseDiscarded d w u) := by
    rw [phaseDiscarded, noted]
    exact UnitRetired.requeue (d := d) ⟨retired.grant, retired.state, retired.mem⟩ u
  rw [retryPhase_of_before hw]
  split
  · exact discarded.rackFault ..
  · split
    · next hy =>
      obtain ⟨y, hy⟩ := Option.isSome_iff_exists.1 hy
      exact discarded.handOut hy
    · exact discarded

/-- Settles O31: the phases by what is held and what the slot's reading finds, a failure by whether it is the unit's first (`PhaseMoved`) or
its second (`UnitRetired`), and a fault of the module by what it leaves (`RackFaulted`). -/
theorem blockPhases : Obligations.BlockPhases := by
  intro s u next found w ws hg d sw read taken moments weights faulted
  have fault {c : Instr} {e : Dev} (he : exec c s = .next { s with dev := e }) (h : RackFaulted w.p u s.dev e) : faulted c :=
    ⟨_, he, h.state, h.err, h.irq, h.work, h.mem⟩
  refine ⟨fun h hh hf => ?moment, fun h hh hs => ?staging, fun h hh => ?weight, fun h hh => ?heldMoment, fun h hh => ?heldWeight,
    fun hw hf hne hv hidle h4 hst ha => ?first, fun hw hf => ?second, fun hw => ?writing⟩
  case moment =>
    rw [exec_momentPhase hg, runMoment_of_sound h hh hf]
    rfl
  case staging =>
    obtain ⟨b, hb⟩ := runMoment_of_uncorrectable h hh hs
    have answered := exec_momentPhase hg u .uncorrectable
    rw [hb] at answered
    exact fault answered (rackFaulted_rackFault (workOf_of_readyWork h) _)
  case weight =>
    rw [exec_weightPhase hg, runWeight_of_free h hh]
    rfl
  case heldMoment => rw [exec_momentPhase hg, runMoment_of_held h hh]
  case heldWeight => rw [exec_weightPhase hg, runWeight_of_held h hh]
  case first =>
    have moved := phaseMoved_retryPhase hw hf (fun h => hne (Fin.ext h)) hv hidle h4 hst ha
    refine ⟨_, exec_rackPhaseRetry hg u next false, ?_, ?_, ?_, ?_, (noteWear_mem _).trans moved.mem⟩
    · exact (noteWear_same (workOf · next) (fun _ _ _ => rfl) _).trans moved.taken
    · exact (noteWear_same (workOf · u) (fun _ _ _ => rfl) _).trans moved.left
    · rw [noteWear_same Dev.rackFails (fun _ _ _ => rfl)]
      exact moved.fails
    · exact (getF_noteWear (by simp) (by simp) _).trans moved.retries
  case second =>
    have retired := (unitRetired_retryPhase hw hf next).noteWear
    exact ⟨_, exec_rackPhaseRetry hg u next false, retired.grant, retired.state, retired.mem⟩
  case writing =>
    have answered := exec_rackPhaseRetry hg u next true
    rw [retryPhase_of_writing hw] at answered
    have hw' : workOf (noteUnitFail s.dev w.p u) u = some w := by
      rw [workOf, noteUnitFail_rack]
      exact hw
    have done := (rackFaulted_rackFault hw' (.rackUnit u)).noteWear
    exact fault answered ⟨done.state, done.err, done.irq, done.work, done.mem.trans (noteUnitFail_mem ..)⟩

end Sys2Proof.Machine
end

section
namespace Sys2Proof.Machine

section
variable {s : State} (hg : s.dev.powerGood = true) (p : PartId)
include hg

theorem exec_layerComplete (l : Nat) : exec (.layerComplete p l) s = .next { s with dev := completeLayer s.dev p l } :=
  congrArg Host.Outcome.next (onDev_of_good hg)
theorem exec_stagingSlotWrite (slot off : Nat) (data : List Byte) : exec (.stagingSlotWrite p slot off data) s =
    .next { s with dev := stagingWrite s.dev p slot off data } := congrArg Host.Outcome.next (onDev_of_good hg)
theorem exec_replicaCheck {v : Word} (hv : bitOf v.toNat 63 = true) : exec (.replicaCheck p v) s =
    .next { s with dev := checkWrite s.dev p v.toNat } :=
  congrArg Host.Outcome.next ((onDev_of_good hg).trans (by rw [if_pos hv]))
theorem exec_replicaCheckComplete : exec (.replicaCheckComplete p) s = .next { s with dev := completeCheck s.dev p } :=
  congrArg Host.Outcome.next (onDev_of_good hg)
theorem exec_ownerDigestCheck (l b : Nat) : exec (.ownerDigestCheck p l b) s = .next { s with dev := checkOwner s.dev p l b } :=
  congrArg Host.Outcome.next (onDev_of_good hg)

end

/-! A layer's event, and the end of the sweep with the last layer (R195, Table 8.9) -/

/-- Every cluster of the mask is posted one event, and no other. -/
theorem posts_postMask (d : Dev) (mask e : Nat) {c : Nat} (hc : c < 28) : (clusterOf (postMask d mask e) c).posts =
    if bitOf mask c then (clusterOf d c).posts ++ [(e, 1)] else (clusterOf d c).posts := by
  have posted := forEach_own (l := maskClusters mask) (step := fun d c => evPost d c e 1) (fun c d => (clusterOf d c).posts) (· ++ [(e, 1)])
    (fun d c => by rw [evPost, clusterOf_modCluster_same])
    (fun d c k h => congrArg Cluster.posts (clusterOf_setCluster_of_ne d _ h)) (List.nodup_range.filter (fun c => bitOf mask c)) c d
  have listed : c ∈ (List.range 28).filter (fun c => bitOf mask c) ↔ bitOf mask c = true := by simp [hc]
  exact posted.trans (if_congr listed rfl rfl)

theorem finishSweep_same {α : Type} (v : Dev → α) (hv : ∀ d f m b, v { d with f := f, msis := m, batch := b } = v d) (d : Dev) (p : Nat) :
    v (finishSweep d p) = v d := by
  unfold finishSweep
  dsimp only
  split
  · exact (raise_same v (fun e f m => hv e f m e.batch) ..).trans (hv d _ d.msis _)
  · rfl

/-- The sweep of gyle g is done, its batch record closed. -/
structure SweepDone (p g : Nat) (e : Dev) : Prop where
  state : sweepState e p = 5
  last : getF e (F.rkSstat_last_gyle p) = g % 2 ^ (F.rkSstat_last_gyle p).width
  batch : (batchOf e p g).state = 2
  irq : getF e (F.rkIrq_done p) = 1

theorem sweepDone_finishSweep {d : Dev} {p : Nat} (hst : sweepState d p = 2) (hs : (sweepOf d p).stamp = false)
    (hl : ∀ y ∈ (sweepOf d p).layers, y.posted = true) : SweepDone p (sweepOf d p).gyle (finishSweep d p) := by
  have done : finishSweep d p = raise (closeBatch (setF (setF d (F.rkSstat_state p) 5) (F.rkSstat_last_gyle p) (sweepOf d p).gyle) p
      (sweepOf d p).gyle) (some p) (F.rkIrq_done p) (F.rkIrqEn_done p) := if_pos ⟨hst, hs, List.all_eq_true.2 hl⟩
  have shown (k : FKey) (hk : F.rkIrq_done p ≠ k) : getF (finishSweep d p) k =
      getF (setF (setF d (F.rkSstat_state p) 5) (F.rkSstat_last_gyle p) (sweepOf d p).gyle) k := by
    rw [done, getF_raise, getF_setF_of_ne _ _ hk]
    rfl
  refine ⟨?_, ?_, ?_, ?_⟩
  · rw [sweepState, shown _ (by simp), getF_setF_of_ne _ _ (by simp), getF_setF_same]
    rfl
  · rw [shown _ (by simp), getF_setF_same]
  · rw [done, raise_same (fun e => (batchOf e p (sweepOf d p).gyle).state) (fun _ _ _ => rfl), batchOf, closeBatch, Tab.get?_put_same]
    rfl
  · rw [done, getF_raise, getF_setF_same]
    rfl

/-- A layer's event is on its way; the sweep goes on or ends. -/
def layerPosted (d : Dev) (p l : Nat) (x : SweepLayer) : Dev :=
  postMask (setSweep d p { sweepOf d p with layers := (sweepOf d p).layers.set l { x with posted := true } }) (lMask x.words) (lBits x.words 13 31 28)

theorem postMask_same {α : Type} (v : Dev → α) (hv : ∀ d t, v { d with cl := t } = v d) (d : Dev) (mask e : Nat) :
    v (postMask d mask e) = v d :=
  forEach_same v (g := fun d c => evPost d c e 1) (fun d _ => hv d _) _ d

theorem sweepOf_layerPosted (d : Dev) (p l : Nat) (x : SweepLayer) : sweepOf (layerPosted d p l x) p =
    { sweepOf d p with layers := (sweepOf d p).layers.set l { x with posted := true } } :=
  (postMask_same (sweepOf · p) (fun _ _ => rfl) ..).trans (sweepOf_setSweep ..)

theorem sweepState_layerPosted (d : Dev) (p l : Nat) (x : SweepLayer) : sweepState (layerPosted d p l x) p = sweepState d p :=
  postMask_same (sweepState · p) (fun _ _ => rfl) ..

theorem completeLayer_of_done {d : Dev} {p l : Nat} {x : SweepLayer} (hx : (sweepOf d p).layers[l]? = some x) (h0 : x.left = 0)
    (hp : x.posted = false) : completeLayer d p l = finishSweep (layerPosted d p l x) p := by
  unfold completeLayer
  dsimp only
  rw [hx]
  exact if_neg (by simp [h0, hp])

/-! A page's data are poisoned (R248, R249) -/

/-- The registers that poisoning a page may change. -/
def IsPoisonReg (r : Reg) : Prop := r = .pwrStatus ∨ r = .hbmUeLog ∨ ∃ p, r = .fabNflag p

/-- A page's moves stop, and an entry that moves it begins again (R250). -/
def movesStopped (d : Dev) (k : PageKey) : Dev :=
  modNaming (steadyBroken (stopMoves d k)) k (fun e => if bits e.w0 7 4 ≤ 2 then { e with begun := false } else e)

theorem movesStopped_pages (d : Dev) (k : PageKey) : (movesStopped d k).pages = d.pages := steadyBroken_same Dev.pages rfl

theorem getF_movesStopped {j : FKey} (hj : ¬ IsPoisonReg j.reg) (d : Dev) (k : PageKey) : getF (movesStopped d k) j = getF d j :=
  getF_steadyBroken_of_ne _ (fun h => hj (.inl (h ▸ rfl)))

/-- A page whose clean copy is on its way. -/
def refillBegun (d : Dev) (k : PageKey) (x : Page) (m q a : Nat) : Dev :=
  fetchPage { d with pages := Tab.put d.pages k { x with poison := .refilling } } k m q a

theorem fetchPage_same {α : Type} (v : Dev → α) (hv : ∀ d r n x, v { d with reads := r, readNext := n, ports := x } = v d)
    (d : Dev) (k : PageKey) (m q a : Nat) : v (fetchPage d k m q a) = v d :=
  forEach_same v (fun e _ => ((portsOnly_sendTo ..).same v (fun _ => hv _ _ _ _)).trans (hv e _ _ e.ports)) _ d

theorem refillBegun_pages (d : Dev) (k : PageKey) (x : Page) (m q a : Nat) :
    (refillBegun d k x m q a).pages = Tab.put d.pages k { x with poison := .refilling } := fetchPage_same Dev.pages (fun _ _ _ _ => rfl) ..

theorem getF_refillBegun (d : Dev) (k : PageKey) (x : Page) (m q a : Nat) (j : FKey) : getF (refillBegun d k x m q a) j = getF d j :=
  fetchPage_same (getF · j) (fun _ _ _ _ => rfl) ..

theorem losePage_pages (d : Dev) (k : PageKey) (x : Page) : (losePage d k x).pages = Tab.put d.pages k { x with poison := .lost } := rfl

theorem getF_losePage {j : FKey} (hj : ¬ IsPoisonReg j.reg) (d : Dev) (k : PageKey) (x : Page) : getF (losePage d k x) j = getF d j := by
  have other {r : Reg} (hr : IsPoisonReg r) (e : Dev) (lo v : Nat) : getF (setF e ⟨r, lo⟩ v) j = getF e j :=
    getF_setF_of_ne _ _ (FKey.ne_of_reg (fun h => hj (h ▸ hr)))
  have flag := other (.inr (.inr ⟨k.1, rfl⟩))
  have log := other (.inr (.inl rfl))
  rw [losePage, setDataFault, setNonfin, flag, flag, logPoison, log, log, log, log, log, log]
  rfl

theorem poisonData_of_unmapped {d : Dev} {k : PageKey} (hx : Tab.get? d.pages k = none) : poisonData d k = d := by
  rw [poisonData, hx]

theorem poisonData_of_unsound {d : Dev} {k : PageKey} {x : Page} (hx : Tab.get? d.pages k = some x) (hs : x.poison ≠ .sound) :
    poisonData d k = d := by
  rw [poisonData, hx]
  exact if_pos hs

theorem poisonData_of_sound {d : Dev} {k : PageKey} {x : Page} (hx : Tab.get? d.pages k = some x) (hs : x.poison = .sound) :
    poisonData d k = losePage (movesStopped d k) k x ∨ ∃ m q a, poisonData d k = refillBegun (movesStopped d k) k x m q a := by
  rw [poisonData, hx]
  dsimp only
  rw [if_neg (not_not_intro hs)]
  split
  · split
    · exact .inr ⟨_, _, _, rfl⟩
    · exact .inl rfl
  · exact .inl rfl

/-- A page without a clean copy is lost. -/
theorem poisonData_of_no_copy {d : Dev} {k : PageKey} {x : Page} (hx : Tab.get? d.pages k = some x) (hs : x.poison = .sound)
    (hsrc : x.src = none) (hc : x.ckptClean = false) : poisonData d k = losePage (movesStopped d k) k x := by
  have copy (e : Dev) : cleanCopy e k x = none := by simp [cleanCopy, hsrc, hc]
  rw [poisonData, hx]
  dsimp only
  rw [if_neg (not_not_intro hs), copy]
  rfl

/-- Of the pages, k alone changes, and it is no longer sound. -/
theorem pages_poisonData (d : Dev) (k : PageKey) :
    (poisonData d k = d ∧ (Tab.get? d.pages k).map Page.poison ≠ some .sound) ∨
    ∃ (x : Page) (q : Poison), q ≠ .sound ∧ (poisonData d k).pages = Tab.put d.pages k { x with poison := q } := by
  cases hx : Tab.get? d.pages k with
  | none => exact .inl ⟨poisonData_of_unmapped hx, by simp⟩
  | some x =>
    by_cases hs : x.poison = .sound
    · rcases poisonData_of_sound hx hs with h | ⟨m, q, a, h⟩
      · exact .inr ⟨x, .lost, by decide, by rw [h, losePage_pages, movesStopped_pages]⟩
      · exact .inr ⟨x, .refilling, by decide, by rw [h, refillBegun_pages, movesStopped_pages]⟩
    · exact .inl ⟨poisonData_of_unsound hx hs, by simpa using hs⟩

theorem get?_pages_poisonData_of_ne {k j : PageKey} (h : k ≠ j) (d : Dev) : Tab.get? (poisonData d k).pages j = Tab.get? d.pages j := by
  rcases pages_poisonData d k with ⟨he, -⟩ | ⟨x, q, -, he⟩
  · rw [he]
  · rw [he, Tab.get?_put_of_ne _ _ h]

theorem poison_poisonData_same (d : Dev) (k : PageKey) : (Tab.get? (poisonData d k).pages k).map Page.poison ≠ some .sound := by
  rcases pages_poisonData d k with ⟨he, hp⟩ | ⟨x, q, hq, he⟩
  · rwa [he]
  · rw [he, Tab.get?_put_same]
    simpa using hq

theorem getF_poisonData {j : FKey} (hj : ¬ IsPoisonReg j.reg) (d : Dev) (k : PageKey) : getF (poisonData d k) j = getF d j := by
  cases hx : Tab.get? d.pages k with
  | none => rw [poisonData_of_unmapped hx]
  | some x =>
    by_cases hs : x.poison = .sound
    · rcases poisonData_of_sound hx hs with h | ⟨m, q, a, h⟩
      · rw [h, getF_losePage hj, getF_movesStopped hj]
      · rw [h, getF_refillBegun, getF_movesStopped hj]
    · rw [poisonData_of_unsound hx hs]

/-! A replica's block is checked (R207) -/

namespace SeesAlike
variable {p : Nat} {d e : Dev} (h : SeesAlike p d e)
include h

theorem replicaOk (ws : List Nat) (i : Nat) : replicaOk e p ws i = replicaOk d p ws i := by
  unfold Machine.replicaOk blockBytes
  rw [h.viewRead, h.headerWord]

theorem replicaHeld (ws : List Nat) (i : Nat) : replicaHeld e p ws i = replicaHeld d p ws i := by
  unfold Machine.replicaHeld
  simp only [h.heldRange]

theorem blockLost (ws : List Nat) (i : Nat) : blockLost e p ws i = blockLost d p ws i := by
  unfold Machine.blockLost
  rw [h.pagesTouched]
  refine congrArg (List.any _) (funext fun wv => ?_)
  rcases h.page_cases wv.1 wv.2 with ⟨he, hd⟩ | ⟨x, y, he, hd, -, -, hp⟩
  · rw [he, hd]
  · simp only [he, hd, hp]

end SeesAlike

/-- e is d after reads of partition p's view. -/
structure OnlyRead (p : Nat) (d e : Dev) : Prop where
  sees : SeesAlike p d e
  kept : SweepKept d e

namespace OnlyRead
variable {p : Nat} {d e g : Dev}

theorem refl (p : Nat) (d : Dev) : OnlyRead p d d := ⟨.refl p d, .refl d⟩

theorem trans (h : OnlyRead p d e) (h' : OnlyRead p e g) : OnlyRead p d g := ⟨h.sees.trans h'.sees, h.kept.trans h'.kept⟩

theorem noteRead (p : Nat) (d : Dev) (a n : Nat) : OnlyRead p d (noteRead d p a n) := ⟨seesAlike_noteRead .., sweepKept_noteRead ..⟩

theorem steadyBroken (p : Nat) (d : Dev) : OnlyRead p d (steadyBroken d) := ⟨seesAlike_steadyBroken .., sweepKept_steadyBroken d⟩

theorem noteReads (p : Nat) (l : List (Nat × Nat)) (d : Dev) : OnlyRead p d (forEach l d (fun d a => Machine.noteRead d p a.1 a.2)) :=
  forEach_keeps (P := OnlyRead p d) (fun e a h => h.trans (.noteRead p e a.1 a.2)) l d (.refl p d)

theorem field_rkChk (h : OnlyRead p d e) (lo : Nat) : getF e ⟨.rkChk p, lo⟩ = getF d ⟨.rkChk p, lo⟩ :=
  h.kept.field _ (by simp [IsSweepNote, IsAccessReg])

end OnlyRead

/-- A replica's block and its header are read. -/
def replicaRead (d : Dev) (p : Nat) (ws : List Nat) (i : Nat) : Dev := forEach (replicaRanges ws i) d (fun d a => noteRead d p a.1 a.2)

/-- A replica's block is checked, and refilled when it does not match. -/
def replicaChecked (p : Nat) (ws : List Nat) (d : Dev) (i : Nat) : Dev :=
  if replicaHeld d p ws i then steadyBroken d
  else if blockLost d p ws i || replicaOk d p ws i then replicaRead d p ws i
  else forEach (pagesTouched d p (blockAt (lWeight ws) i) (2 * blockLen ws i)) (satF (replicaRead d p ws i) (F.rkChk_bad p) 1)
    (fun d wv => poisonReplica d p (lBits ws 8 63 48) wv)

theorem checkReplicas_eq (d : Dev) (p : Nat) (ls : List (List Nat)) :
    checkReplicas d p ls = forEach ls d (fun d ws => forEach (List.range (lCount ws)) d (replicaChecked p ws)) := rfl

theorem checkReplicas_one {ws : List Nat} (h : lCount ws = 1) (d : Dev) (p : Nat) : checkReplicas d p [ws] = replicaChecked p ws d 0 := by
  show forEach (List.range (lCount ws)) d (replicaChecked p ws) = _
  rw [h]
  rfl

theorem onlyRead_replicaChecked {d : Dev} {p : Nat} {ws : List Nat} {i : Nat} (h : replicaOk d p ws i = true) :
    OnlyRead p d (replicaChecked p ws d i) := by
  unfold replicaChecked
  rw [h, Bool.or_true, if_pos rfl]
  split
  · exact .steadyBroken p d
  · exact .noteReads ..

theorem onlyRead_checkReplicas {d : Dev} {p : Nat} {ls : List (List Nat)} (h : ∀ ws ∈ ls, ∀ i < lCount ws, replicaOk d p ws i = true) :
    OnlyRead p d (checkReplicas d p ls) := by
  rw [checkReplicas_eq]
  refine List.foldlRecOn (motive := OnlyRead p d) _ _ (.refl p d) fun e he ws hws => ?_
  refine List.foldlRecOn (motive := OnlyRead p d) _ _ he fun e he i hi => ?_
  exact he.trans (onlyRead_replicaChecked ((he.sees.replicaOk ws i).trans (h ws hws i (List.mem_range.1 hi))))

/-! A mismatched block (R207) -/

theorem pageAt_setPage (d : Dev) (p : Nat) (w : Tier) (v : Nat) (x : Page) : pageAt (setPage d p w v x) p w v = some x := Tab.get?_put_same ..

theorem pageAt_setPage_of_ne {w w' : Tier} {v v' : Nat} (h : (w, v) ≠ (w', v')) (d : Dev) (p : Nat) (x : Page) :
    pageAt (setPage d p w v x) p w' v' = pageAt d p w' v' :=
  Tab.get?_put_of_ne _ _ (fun e => h (Prod.mk.inj e).2)

/-- The poison state of a page of partition p. -/
def pagePoison (d : Dev) (p : Nat) (k : Tier × Nat) : Option Poison := (pageAt d p k.1 k.2).map Page.poison

theorem pagePoison_poisonReplica_same (d : Dev) (p owner : Nat) (k : Tier × Nat) : pagePoison (poisonReplica d p owner k) p k ≠ some .sound := by
  unfold poisonReplica
  split
  · exact poison_poisonData_same _ _
  · next hx => simp [pagePoison, hx]

theorem pagePoison_poisonReplica_of_ne {j k : Tier × Nat} (h : j ≠ k) (d : Dev) (p owner : Nat) :
    pagePoison (poisonReplica d p owner j) p k = pagePoison d p k := by
  unfold poisonReplica pagePoison
  split
  · refine congrArg _ ((get?_pages_poisonData_of_ne (fun e => h (Prod.mk.inj e).2) _).trans ?_)
    exact pageAt_setPage_of_ne h ..
  · rfl

theorem getF_poisonReplica {j : FKey} (hj : ¬ IsPoisonReg j.reg) (d : Dev) (p owner : Nat) (k : Tier × Nat) :
    getF (poisonReplica d p owner k) j = getF d j := by
  unfold poisonReplica
  split
  · exact getF_poisonData hj ..
  · rfl

/-- A mismatched block: page k of it is poisoned, and the block is counted. -/
structure ReplicaRefilled (p : Nat) (k : Tier × Nat) (d e : Dev) : Prop where
  poison : pagePoison e p k ≠ some .sound
  busy : getF e (F.rkChk_busy p) = getF d (F.rkChk_busy p)
  bad : getF e (F.rkChk_bad p) = min (getF d (F.rkChk_bad p) + 1) (2 ^ (F.rkChk_bad p).width - 1)

theorem replicaRefilled_replicaChecked {d : Dev} {p : Nat} {ws : List Nat} {i : Nat} {k : Tier × Nat} (hh : replicaHeld d p ws i = false)
    (hl : blockLost d p ws i = false) (ho : replicaOk d p ws i = false)
    (hk : k ∈ pagesTouched d p (blockAt (lWeight ws) i) (2 * blockLen ws i)) : ReplicaRefilled p k d (replicaChecked p ws d i) := by
  have read : OnlyRead p d (replicaRead d p ws i) := .noteReads ..
  have refilled : replicaChecked p ws d i = forEach (pagesTouched d p (blockAt (lWeight ws) i) (2 * blockLen ws i))
      (satF (replicaRead d p ws i) (F.rkChk_bad p) 1) (fun d wv => poisonReplica d p (lBits ws 8 63 48) wv) := by
    rw [replicaChecked, hh, hl, ho]
    rfl
  have shown (lo : Nat) : getF (replicaChecked p ws d i) ⟨.rkChk p, lo⟩ =
      getF (satF (replicaRead d p ws i) (F.rkChk_bad p) 1) ⟨.rkChk p, lo⟩ := by
    rw [refilled]
    exact forEach_same (getF · _) (fun e wv => getF_poisonReplica (by simp [IsPoisonReg]) e p _ wv) ..
  refine ⟨?_, ?_, ?_⟩
  · rw [refilled]
    refine forEach_establishes (Q := fun _ => True) (P := fun e => pagePoison e p k ≠ some .sound) (fun _ _ _ => trivial)
      (fun e _ => pagePoison_poisonReplica_same _ _ _ _) (fun e j he => ?_) hk trivial
    rcases eq_or_ne j k with rfl | hne
    · exact pagePoison_poisonReplica_same _ _ _ _
    · rwa [pagePoison_poisonReplica_of_ne hne]
  · rw [shown, satF, getF_setF_of_ne _ _ (by simp), read.field_rkChk]
  · rw [shown, getF_satF_same, read.field_rkChk]

/-! A check starts, and ends (R207) -/

/-- A check is under way, its list not yet taken. -/
def checkBegun (d : Dev) (p v : Nat) : Dev :=
  setF { setF (setF d (F.rkChk_evt p) (bits v 35 32)) (F.rkChk_cmask p) (bits v 27 0) with checks := Tab.erase d.checks p } (F.rkChk_busy p) 1

theorem SeesAlike.setChk (p q : Nat) (d : Dev) (lo v : Nat) : SeesAlike p d (Machine.setF d ⟨.rkChk q, lo⟩ v) := .setF (by simp) d v

theorem SeesAlike.setChecks (p : Nat) (d : Dev) (t : Tab Nat (List (List Nat))) : SeesAlike p d { d with checks := t } :=
  ⟨rfl, fun _ _ => rfl, rfl, fun _ => rfl⟩

theorem seesAlike_checkBegun (d : Dev) (p v : Nat) : SeesAlike p d (checkBegun d p v) :=
  ((SeesAlike.setChk ..).trans (.setChk ..)).trans ((SeesAlike.setChecks ..).trans (.setChk ..))

theorem getF_checkBegun_of_ne {p : Nat} {k : FKey} (hb : F.rkChk_busy p ≠ k) (he : F.rkChk_evt p ≠ k) (hc : F.rkChk_cmask p ≠ k) (d : Dev)
    (v : Nat) : getF (checkBegun d p v) k = getF d k :=
  (getF_setF_of_ne _ _ hb).trans ((getF_setF_of_ne _ _ hc).trans (getF_setF_of_ne _ _ he))

theorem getF_checkBegun_busy (d : Dev) (p v : Nat) : getF (checkBegun d p v) (F.rkChk_busy p) = 1 := getF_setF_same ..

theorem getF_checkBegun_evt (d : Dev) (p v : Nat) : getF (checkBegun d p v) (F.rkChk_evt p) = bits v 35 32 :=
  (getF_setF_of_ne _ _ (by simp)).trans ((getF_setF_of_ne _ _ (by simp)).trans ((getF_setF_same ..).trans (Nat.mod_mod ..)))

theorem getF_checkBegun_cmask (d : Dev) (p v : Nat) : getF (checkBegun d p v) (F.rkChk_cmask p) = bits v 27 0 :=
  (getF_setF_of_ne _ _ (by simp)).trans ((getF_setF_same ..).trans (Nat.mod_mod ..))

/-- The bytes of the check list. -/
def checkList (d : Dev) (p : Nat) : Nat × Nat := (128 * getF d (F.rkChkl_base p), 128 * getF d (F.rkChkl_count p))

/-- The check has read its list. -/
def listTaken (d : Dev) (p : Nat) : Dev :=
  noteRead { d with checks := Tab.put d.checks p (checkLayers d p) } p (checkList d p).1 (checkList d p).2

theorem onlyRead_listTaken (d : Dev) (p : Nat) : OnlyRead p d (listTaken d p) := by
  have put : OnlyRead p d { d with checks := Tab.put d.checks p (checkLayers d p) } := ⟨.setChecks .., rfl, rfl, fun _ _ => rfl⟩
  exact put.trans (.noteRead ..)

theorem openCheck_of_free {d : Dev} {p : Nat} (h : heldRange d p (checkList d p).1 (checkList d p).2 = false) :
    openCheck d p = checkReplicas (listTaken d p) p (checkLayers d p) := if_neg (by simpa [checkList] using h)

section
variable {d : Dev} {p : Nat} (v : Nat)

theorem checkList_checkBegun : checkList (checkBegun d p v) p = checkList d p := by
  unfold checkList
  rw [getF_checkBegun_of_ne (by simp) (by simp) (by simp), getF_checkBegun_of_ne (by simp) (by simp) (by simp)]

theorem checkLayers_checkBegun : checkLayers (checkBegun d p v) p = checkLayers d p := by
  unfold checkLayers
  rw [(seesAlike_checkBegun d p v).listWords, getF_checkBegun_of_ne (by simp) (by simp) (by simp),
    getF_checkBegun_of_ne (by simp) (by simp) (by simp)]

end

/-- A check has started and taken its list. -/
def checkTaken (d : Dev) (p v : Nat) : Dev := listTaken (checkBegun d p v) p

theorem seesAlike_checkTaken (d : Dev) (p v : Nat) : SeesAlike p d (checkTaken d p v) :=
  (seesAlike_checkBegun ..).trans (onlyRead_listTaken ..).sees

theorem getF_checkTaken (d : Dev) (p v lo : Nat) : getF (checkTaken d p v) ⟨.rkChk p, lo⟩ = getF (checkBegun d p v) ⟨.rkChk p, lo⟩ :=
  (onlyRead_listTaken ..).field_rkChk lo

theorem getF_checkTaken_bad (d : Dev) (p v : Nat) : getF (checkTaken d p v) (F.rkChk_bad p) = getF d (F.rkChk_bad p) :=
  (getF_checkTaken ..).trans (getF_checkBegun_of_ne (by simp) (by simp) (by simp) ..)

theorem getF_checkTaken_busy (d : Dev) (p v : Nat) : getF (checkTaken d p v) (F.rkChk_busy p) = 1 :=
  (getF_checkTaken ..).trans (getF_checkBegun_busy ..)

/-- A check that may start, and whose list no page holds. -/
structure CheckStarts (d : Dev) (p v : Nat) : Prop where
  start : bitOf v 63 = true
  unlocked : rackLocked d p = false
  owned : cmaskOk d p (bits v 27 0) = true
  free : heldRange d p (checkList d p).1 (checkList d p).2 = false

theorem CheckStarts.checkWrite_eq {d : Dev} {p v : Nat} (h : CheckStarts d p v) :
    checkWrite d p v = checkReplicas (checkTaken d p v) p (checkLayers d p) := by
  let e := setF (setF d (F.rkChk_evt p) (bits v 35 32)) (F.rkChk_cmask p) (bits v 27 0)
  have taken : rackGuard d p [(F.rkChk_evt p, bits v 35 32), (F.rkChk_cmask p, bits v 27 0)] = e := rackGuard_of_open h.unlocked _
  have idle : flag e (F.rkChk_busy p) = false := by
    have unlocked := h.unlocked
    rw [rackLocked, Bool.or_eq_false_iff] at unlocked
    rw [flag, getF_setF_of_ne _ _ (by simp), getF_setF_of_ne _ _ (by simp)]
    exact unlocked.2
  have mask : getF e (F.rkChk_cmask p) = bits v 27 0 := (getF_setF_same ..).trans (Nat.mod_mod ..)
  have alike : SeesAlike p d e := (SeesAlike.setChk ..).trans (.setChk ..)
  have opened : checkWrite d p v = openCheck (checkBegun d p v) p := by
    unfold checkWrite
    dsimp only
    rw [taken, if_neg (by simp [h.start, idle]), if_neg (by simp [mask, alike.cmaskOk, h.owned])]
    rfl
  rw [opened, openCheck_of_free, checkLayers_checkBegun]
  · rfl
  · rw [checkList_checkBegun, (seesAlike_checkBegun d p v).heldRange]
    exact h.free

/-- A block of a list is held. -/
def listWaits (p : Nat) (ls : List (List Nat)) (d : Dev) : Bool := ls.any (fun ws => (List.range (lCount ws)).any (replicaHeld d p ws))

theorem SeesAlike.listWaits {p : Nat} {d e : Dev} (h : SeesAlike p d e) (ls : List (List Nat)) : listWaits p ls e = listWaits p ls d := by
  have held (ws : List Nat) : Machine.replicaHeld e p ws = Machine.replicaHeld d p ws := funext (h.replicaHeld ws)
  simp only [Machine.listWaits, held]

/-- The check has ended. -/
def checkEnded (d : Dev) (p : Nat) : Dev := setF { d with checks := Tab.erase d.checks p } (F.rkChk_busy p) 0

theorem seesAlike_checkEnded (d : Dev) (p : Nat) : SeesAlike p d (checkEnded d p) := (SeesAlike.setChecks ..).trans (.setChk ..)

/-- Its event and its interrupt. -/
def checkPosted (d : Dev) (p : Nat) : Dev :=
  raise (postMask d (getF d (F.rkChk_cmask p)) (getF d (F.rkChk_evt p))) (some p) (F.rkIrq_chk p) (F.rkIrqEn_chk p)

theorem completeCheck_of_free {d : Dev} {p : Nat} {ls : List (List Nat)} (hb : flag d (F.rkChk_busy p) = true)
    (hc : Tab.get? d.checks p = some ls) (hw : listWaits p ls d = false) (hw' : listWaits p ls (checkReplicas d p ls) = false) :
    completeCheck d p = checkPosted (checkEnded (checkReplicas d p ls) p) p := by
  have busy : ¬(!flag d (F.rkChk_busy p)) = true := by rw [hb]; decide
  have free : ¬listWaits p ls d = true := by rw [hw]; decide
  have free' : ¬listWaits p ls (checkReplicas d p ls) = true := by rw [hw']; decide
  unfold completeCheck
  rw [if_neg busy, hc]
  exact (if_neg free).trans (if_neg free')

theorem sameView_raise {irq : FKey} (hk : ∀ p, irq.reg ≠ .hostPcfg p ∧ irq.reg ≠ .rkPcfg p ∧ irq.reg ≠ .rkSstat p)
    (d : Dev) (p : Option Nat) (en : FKey) : SameView d (raise d p irq en) := by
  have same {α : Type} (v : Dev → α) (hv : ∀ d f m, v { d with f := f, msis := m } = v d) : v (raise d p irq en) = v d := raise_same v hv ..
  have field (k : FKey) (h : irq.reg ≠ k.reg) : getF (raise d p irq en) k = getF d k :=
    (getF_raise ..).trans (getF_setF_of_ne _ _ (FKey.ne_of_reg h))
  exact ⟨same Dev.mem (fun _ _ _ => rfl), same Dev.pages (fun _ _ _ => rfl), same Dev.stamps (fun _ _ _ => rfl), same Dev.stg (fun _ _ _ => rfl),
    same Dev.sweeps (fun _ _ _ => rfl), fun q => field _ (hk q).1, fun q => field _ (hk q).2.1, fun q => field _ (hk q).2.2⟩

theorem seesAlike_checkPosted (d : Dev) (p : Nat) : SeesAlike p d (checkPosted d p) := by
  have posted (e : Dev) (mask n : Nat) : SeesAlike p e (postMask e mask n) :=
    .forEach (step := fun d c => evPost d c n 1) (fun _ _ => ⟨rfl, fun _ _ => rfl, rfl, fun _ => rfl⟩) _ e
  exact (posted ..).trans ((sameView_raise (by simp) ..).seesAlike p)

theorem getF_checkPosted_of_ne {p : Nat} {k : FKey} (hk : F.rkIrq_chk p ≠ k) (d : Dev) : getF (checkPosted d p) k = getF d k :=
  (getF_raise ..).trans ((getF_setF_of_ne _ _ hk).trans (postMask_same (getF · k) (fun _ _ => rfl) ..))

theorem getF_checkPosted_irq (d : Dev) (p : Nat) : getF (checkPosted d p) (F.rkIrq_chk p) = 1 := (getF_raise ..).trans (getF_setF_same ..)

/-! A block of the owner is checked against its digest (R208) -/

/-- What the check of an owner's block reads. -/
def digestRanges (ws : List Nat) (b : Nat) : List (Nat × Nat) :=
  [(blockAt (lWeight ws) b, 2 * blockLen ws b), (blockAt (lLees ws) b, 2 * blockLen ws b), (lHead ws + 64 * b, 64)]

theorem digestRanges_free {d : Dev} {p b : Nat} {ws : List Nat} (hw : heldRange d p (blockAt (lWeight ws) b) (2 * blockLen ws b) = false)
    (hl : heldRange d p (blockAt (lLees ws) b) (2 * blockLen ws b) = false) (hh : heldRange d p (lHead ws + 64 * b) 64 = false) :
    (digestRanges ws b).any (fun a => heldRange d p a.1 a.2) = false := by
  simp [digestRanges, hw, hl, hh]

/-- The block matches the digest its header records. -/
def DigestMatches (d : Dev) (p : Nat) (ws : List Nat) (b : Nat) : Prop :=
  wordsOf 4 (sm3 (blockBytes d p (blockAt (lWeight ws) b) (2 * blockLen ws b) ++ blockBytes d p (blockAt (lLees ws) b) (2 * blockLen ws b))) =
    (List.range 4).map (fun k => headerWord d p ws b (k + 4))

/-- A page whose copy elsewhere is not to be used. -/
def withoutCopy (x : Page) : Page := { x with src := none, ckptClean := false }

/-- A page without its clean copy is poisoned. -/
def pageDropped (p : Nat) (d : Dev) (k : Tier × Nat) : Dev :=
  match pageAt d p k.1 k.2 with
  | some x => poisonData (setPage d p k.1 k.2 (withoutCopy x)) (p, k.1, k.2)
  | none => d

/-- Page k of partition p is lost, and the partition's flags say so. -/
structure PageLost (p : Nat) (k : Tier × Nat) (d : Dev) : Prop where
  poison : pagePoison d p k = some .lost
  nonfin : getF d (F.fabNflag_nonfin p) = 1
  fault : getF d (F.fabNflag_fault p) = 1

/-- The pages of an owner's block. -/
def digestPages (d : Dev) (p : Nat) (ws : List Nat) (b : Nat) : List (Tier × Nat) :=
  pagesTouched d p (blockAt (lWeight ws) b) (2 * blockLen ws b) ++ pagesTouched d p (blockAt (lLees ws) b) (2 * blockLen ws b)

/-- What the check of an owner's block has read. -/
def digestRead (d : Dev) (p : Nat) (ws : List Nat) (b : Nat) : Dev := forEach (digestRanges ws b) d (fun d a => noteRead d p a.1 a.2)

section
variable {d : Dev} {p l b : Nat} {ws : List Nat} (hws : layerWords (sweepOf d p) l = ws)
include hws

theorem checkOwner_of_idle (h : ¬b < lCount ws ∨ blockInWork d p l b = true) : checkOwner d p l b = d := by
  unfold checkOwner
  dsimp only
  exact if_pos (by rw [hws]; simpa using h)

variable (hb : b < lCount ws) (hi : blockInWork d p l b = false) (hh : (digestRanges ws b).any (fun a => heldRange d p a.1 a.2) = false)
include hb hi hh

theorem checkOwner_of_match (hm : DigestMatches d p ws b) : checkOwner d p l b = digestRead d p ws b := by
  have work : ¬(decide (lCount ws ≤ b) || blockInWork d p l b) = true := by simp [hb, hi]
  have free : ¬(digestRanges ws b).any (fun a => heldRange d p a.1 a.2) = true := by simp [hh]
  unfold checkOwner
  rw [hws]
  exact (if_neg work).trans ((if_neg free).trans (if_pos hm))

theorem checkOwner_of_mismatch (hm : ¬DigestMatches d p ws b) : checkOwner d p l b =
    forEach (digestPages d p ws b) (digestRead d p ws b) (pageDropped p) := by
  have work : ¬(decide (lCount ws ≤ b) || blockInWork d p l b) = true := by simp [hb, hi]
  have free : ¬(digestRanges ws b).any (fun a => heldRange d p a.1 a.2) = true := by simp [hh]
  unfold checkOwner
  rw [hws]
  exact (if_neg work).trans ((if_neg free).trans (if_neg hm))

end

section
variable {d : Dev} {p : Nat} {j k : Tier × Nat}

theorem pageDropped_of_mapped {x : Page} (hx : pageAt d p k.1 k.2 = some x) :
    pageDropped p d k = poisonData (setPage d p k.1 k.2 (withoutCopy x)) (p, k.1, k.2) := by
  rw [pageDropped, hx]

theorem pagePoison_pageDropped_of_ne (h : j ≠ k) : pagePoison (pageDropped p d j) p k = pagePoison d p k := by
  unfold pageDropped
  split
  · exact (congrArg _ (get?_pages_poisonData_of_ne (fun e => h (Prod.mk.inj e).2) _)).trans (congrArg _ (pageAt_setPage_of_ne h ..))
  · rfl

theorem pageLost_losePage (d : Dev) (p : Nat) (k : Tier × Nat) (x : Page) : PageLost p k (losePage d (p, k.1, k.2) x) :=
  ⟨congrArg _ (pages_losePage d (p, k.1, k.2) x), (getF_setF_of_ne _ _ (by simp)).trans (getF_setF_same ..), getF_losePage_fault ..⟩

theorem pageLost_pageDropped (h : pagePoison d p k = some .sound) : PageLost p k (pageDropped p d k) := by
  obtain ⟨x, hx, hs⟩ := Option.map_eq_some_iff.1 h
  rw [pageDropped_of_mapped hx, poisonData_of_no_copy (x := withoutCopy x) (pageAt_setPage ..) hs rfl rfl]
  exact pageLost_losePage ..

/-- A page that is bad already stays as it is. -/
theorem pageDropped_of_unsound (h : pagePoison d p k ≠ some .sound) :
    pagePoison (pageDropped p d k) p k = pagePoison d p k ∧ ∀ f, getF (pageDropped p d k) f = getF d f := by
  cases hx : pageAt d p k.1 k.2 with
  | none =>
    rw [pageDropped, hx]
    exact ⟨rfl, fun _ => rfl⟩
  | some x =>
    have bad : x.poison ≠ .sound := fun hs => h (by rw [pagePoison, hx, Option.map_some, hs])
    rw [pageDropped_of_mapped hx, poisonData_of_unsound (x := withoutCopy x) (pageAt_setPage ..) bad, pagePoison, pageAt_setPage, pagePoison, hx]
    exact ⟨rfl, fun _ => rfl⟩

theorem PageLost.pageDropped (h : PageLost p k d) (j : Tier × Nat) : PageLost p k (pageDropped p d j) := by
  by_cases hs : pagePoison d p j = some .sound
  · have lost := pageLost_pageDropped hs
    have hne : j ≠ k := by
      rintro rfl
      rw [h.poison] at hs
      cases hs
    exact ⟨(pagePoison_pageDropped_of_ne hne).trans h.poison, lost.nonfin, lost.fault⟩
  · obtain ⟨same, field⟩ := pageDropped_of_unsound hs
    refine ⟨?_, (field _).trans h.nonfin, (field _).trans h.fault⟩
    rcases eq_or_ne j k with rfl | hne
    · exact same.trans h.poison
    · exact (pagePoison_pageDropped_of_ne hne).trans h.poison

theorem pageLost_forEach_pageDropped {ks : List (Tier × Nat)} (hk : k ∈ ks) (h : pagePoison d p k = some .sound) :
    PageLost p k (forEach ks d (Machine.pageDropped p)) := by
  have drop {e : Dev} (he : pagePoison e p k = some .sound ∨ PageLost p k e) : PageLost p k (Machine.pageDropped p e k) :=
    he.elim pageLost_pageDropped (fun lost => lost.pageDropped k)
  refine forEach_establishes (Q := fun e => pagePoison e p k = some .sound ∨ PageLost p k e) (fun e j he => ?_) (fun e he => drop he)
    (fun e j he => he.pageDropped j) hk (.inl h)
  rcases eq_or_ne j k with rfl | hne
  · exact .inr (drop he)
  · exact he.imp (pagePoison_pageDropped_of_ne hne).trans (fun lost => lost.pageDropped j)

end

/-- Settles O32: a layer's event by `posts_postMask` and `SweepDone`, a check by what its reads leave (`OnlyRead`), and a bad block by the
pages it poisons (`ReplicaRefilled`, `PageLost`). -/
theorem layersAndChecks : Obligations.LayersAndChecks := by
  intro s p hg w posted poisonOf quiet checked
  have seen {t : Dev} (h : SeesAlike p s.dev t) : quiet { s with dev := t } := ⟨h.mem, h.poison⟩
  have starts {v : Word} (h : checked v) : exec (.replicaCheck p v) s =
      .next { s with dev := checkReplicas (checkTaken s.dev p v.toNat) p (checkLayers s.dev p) } := by
    obtain ⟨start, unlocked, owned, free⟩ := h
    rw [exec_replicaCheck hg p start, CheckStarts.checkWrite_eq ⟨start, unlocked, owned, free⟩]
  refine ⟨fun l x hx h0 hp => ?layer, fun slot off data hs ho => ?staging, fun v hv hok => ?matching,
    fun v ws k hv hl hc hh hlost ho hk => ?mismatched, fun ls hb hc hok => ?ending,
    fun l b => ⟨fun hr hm => ?digest, fun hi => ?idle, fun k x hr hm hk hx hs => ?lost⟩⟩
  case layer =>
    have answered := exec_layerComplete hg p l
    rw [completeLayer_of_done hx h0 hp] at answered
    have sweep := sweepOf_layerPosted s.dev p l x
    refine ⟨_, answered, ?_, fun c hc => ?_, fun hst hs hall => ?_, (finishSweep_mem ..).trans (postMask_mem ..)⟩
    · exact (finishSweep_same (fun d => (sweepOf d p).layers) (fun _ _ _ _ => rfl) ..).trans (congrArg Sweep.layers sweep)
    · exact (finishSweep_same (fun d => (clusterOf d c).posts) (fun _ _ _ _ => rfl) ..).trans (posts_postMask _ _ _ hc)
    · have done := sweepDone_finishSweep ((sweepState_layerPosted s.dev p l x).trans hst) (by rwa [sweep]) (by rwa [sweep])
      rw [sweep] at done
      exact ⟨done.state, done.last, done.batch, done.irq⟩
  case staging =>
    rw [exec_stagingSlotWrite hg, stagingWrite, if_pos ⟨hs, ho⟩]
  case matching =>
    have alike := seesAlike_checkTaken s.dev p v.toNat
    have ran : OnlyRead p _ (checkReplicas (checkTaken s.dev p v.toNat) p (checkLayers s.dev p)) :=
      onlyRead_checkReplicas (fun ws hws i hi => (alike.replicaOk ws i).trans (hok ws hws i hi))
    refine ⟨_, starts hv, ?_, ?_, ?_, ?_, seen (alike.trans ran.sees)⟩
    · exact (ran.field_rkChk _).trans (getF_checkTaken_busy ..)
    · exact (ran.field_rkChk _).trans (getF_checkTaken_bad ..)
    · exact (ran.field_rkChk _).trans ((getF_checkTaken ..).trans (getF_checkBegun_evt ..))
    · exact (ran.field_rkChk _).trans ((getF_checkTaken ..).trans (getF_checkBegun_cmask ..))
  case mismatched =>
    have alike := seesAlike_checkTaken s.dev p v.toNat
    have answered := starts hv
    rw [hl, checkReplicas_one hc] at answered
    have refilled := replicaRefilled_replicaChecked (k := k) ((alike.replicaHeld ws 0).trans hh) ((alike.blockLost ws 0).trans hlost)
      ((alike.replicaOk ws 0).trans ho) (by rwa [alike.pagesTouched])
    refine ⟨_, answered, refilled.busy.trans (getF_checkTaken_busy ..), refilled.poison, ?_⟩
    rw [← getF_checkTaken_bad s.dev p v.toNat]
    exact refilled.bad
  case ending =>
    have ran : OnlyRead p s.dev (checkReplicas s.dev p ls) := onlyRead_checkReplicas (fun ws hws i hi => (hok ws hws i hi).1)
    have free : listWaits p ls s.dev = false := by
      simp only [listWaits, List.any_eq_false, List.mem_range, Bool.not_eq_true]
      exact fun ws hws i hi => (hok ws hws i hi).2
    have answered := exec_replicaCheckComplete hg p
    rw [completeCheck_of_free hb hc free ((ran.sees.listWaits ls).trans free)] at answered
    exact ⟨_, answered, (getF_checkPosted_of_ne (by simp) _).trans (getF_setF_same ..), getF_checkPosted_irq ..,
      seen (ran.sees.trans ((seesAlike_checkEnded ..).trans (seesAlike_checkPosted ..)))⟩
  case digest =>
    obtain ⟨hb, hi, hw, hl, hh⟩ := hr
    have answered := exec_ownerDigestCheck hg p l b
    rw [checkOwner_of_match rfl hb hi (digestRanges_free hw hl hh) hm] at answered
    exact ⟨_, answered, seen (OnlyRead.noteReads ..).sees⟩
  case idle =>
    rw [exec_ownerDigestCheck hg, checkOwner_of_idle rfl hi]
  case lost =>
    obtain ⟨hb, hi, hw, hl, hh⟩ := hr
    have answered := exec_ownerDigestCheck hg p l b
    rw [checkOwner_of_mismatch rfl hb hi (digestRanges_free hw hl hh) hm] at answered
    have sound : pagePoison (digestRead s.dev p (layerWords w l) b) p k = some .sound := by
      refine ((OnlyRead.noteReads ..).sees.poison k.1 k.2).trans ?_
      rw [hx, Option.map_some, hs]
    have listed : k ∈ digestPages s.dev p (layerWords w l) b := List.mem_append_left _ hk
    have lost := pageLost_forEach_pageDropped listed sound
    exact ⟨_, answered, lost.poison, lost.nonfin, lost.fault⟩

end Sys2Proof.Machine
end

section
namespace Sys2Proof.Machine

/-! Commands of the banks' maintenance (R214, R221 to R224) -/

section
variable {s : State} (hg : s.dev.powerGood = true) (c : ClusterId)
include hg

theorem exec_bankScrub (b : BankId) (w : Fin 32768) (found : Found) :
    exec (.bankScrub c b w found) s = .next { s with dev := bankError s.dev c b w found } :=
  congrArg Host.Outcome.next (onDev_of_good hg)

theorem exec_bankRepair (b : BankId) (what : BankRepairKind) :
    exec (.bankRepair c b what) s = .next { s with dev := noteWear (repairBank s.dev c b what) } :=
  congrArg Host.Outcome.next (onDev_of_good hg)

theorem exec_bankRequestBoost (b : BankId) (rank : Nat) (displaced : Bool) :
    exec (.bankRequestBoost c b rank displaced) s = .next { s with dev := boostRequest s.dev c rank displaced } :=
  congrArg Host.Outcome.next (onDev_of_good hg)

theorem exec_marchDestructive (who : Agent) (v : Word) :
    exec (.marchDestructive who c v) s = .next { s with dev := marchCommand who c v.toNat false s.dev } :=
  congrArg Host.Outcome.next (onDev_of_good hg)

theorem exec_marchPreserving (who : Agent) (v : Word) :
    exec (.marchPreserving who c v) s = .next { s with dev := marchCommand who c v.toNat true s.dev } :=
  congrArg Host.Outcome.next (onDev_of_good hg)

theorem exec_marchComplete (fails : List MarchFail) (final : List WordFound) (waited : Nat) :
    exec (.marchComplete c fails final waited) s = .next { s with dev := completeMarch s.dev c fails final waited } :=
  congrArg Host.Outcome.next (onDev_of_good hg)

end

theorem stallBank_width (c : Nat) : (F.mcArrStallBank_count c).width = 64 := rfl

/-! Errors found by a read (R221) -/

theorem rowErrors_noteError_same (d : Dev) (c b r n : Nat) (col : Option Nat) :
    rowErrors (noteError d c b r n col) c b r = rowErrors d c b r + n := by
  unfold rowErrors noteError
  rw [clusterOf_modCluster_same]
  simp only [noteRow, List.find?_cons, beq_self_eq_true, Bool.and_self, Option.map_some, Option.getD_some]

/-- A corrected error is counted, in its bank and in its row. -/
theorem errorCounted_bankError (d : Dev) (c b w bit : Nat) :
    getF (bankError d c b w (.correctable bit)) (F.bankStatus_ce c) = 1 ∧
      getF (bankError d c b w (.correctable bit)) (F.bankRepair_ce_count c b) =
        min (getF d (F.bankRepair_ce_count c b) + 1) (2 ^ (F.bankRepair_ce_count c b).width - 1) ∧
      rowErrors (bankError d c b w (.correctable bit)) c b (w / 32) = rowErrors d c b (w / 32) + 1 ∧
      (bankError d c b w (.correctable bit)).mem = d.mem := by
  have hw : (F.bankStatus_ce c).width = 1 := rfl
  refine ⟨?_, ?_, rowErrors_noteError_same .., ?_⟩
  · rw [bankError, getF_noteError, satF, getF_setF_of_ne _ _ (by simp), getF_setF_same, hw]
    rfl
  · rw [bankError, getF_noteError, getF_satF_same, getF_setF_of_ne _ _ (by simp)]
  · exact noteError_mem ..

theorem bankError_uncorrectable (d : Dev) (c b w : Nat) : bankError d c b w .uncorrectable =
    moduleFault (noteError (setF (loseWord d c b w) (F.bankStatus_ue c) 1) c b (w / 32) 2 none) (.bank c b) := rfl

theorem moduleFault_reports (d : Dev) (u : FaultUnit) : (moduleFault d u).reports = .moduleFault u :: d.reports := rfl
theorem noteError_reports (d : Dev) (c b r n : Nat) (col : Option Nat) : (noteError d c b r n col).reports = d.reports := rfl

/-- A lost word takes free bytes, and changes memory alone (log entry 70). -/
theorem loseWord_same {α : Type} (v : Dev → α) (hv : ∀ d n m, v { d with free := n, mem := m } = v d) (d : Dev) (c b w : Nat) :
    v (loseWord d c b w) = v d := by
  simp only [loseWord, freeBytes]
  exact hv ..

theorem getF_loseWord (d : Dev) (c b w : Nat) (k : FKey) : getF (loseWord d c b w) k = getF d k :=
  loseWord_same (getF · k) (fun _ _ _ => rfl) d c b w

theorem bankError_uncorrectable_reports (d : Dev) (c b w : Nat) :
    (bankError d c b w .uncorrectable).reports = .moduleFault (.bank c b) :: d.reports := by
  rw [bankError_uncorrectable, moduleFault_reports, noteError_reports, setF_reports, loseWord_same Dev.reports (fun _ _ _ => rfl)]

/-- The errors of a read change the status and the counts of banks alone. -/
theorem getF_bankError_of_reg {k : FKey} (hs : ∀ c, k.reg ≠ .bankStatus c) (hr : ∀ c b, k.reg ≠ .bankRepair c b) (d : Dev) (c b w : Nat)
    (found : Found) : getF (bankError d c b w found) k = getF d k := by
  cases found with
  | clean => rfl
  | correctable bit =>
    rw [bankError, getF_noteError, satF, getF_setF_of_ne _ _ (FKey.ne_of_reg (hr c b).symm),
      getF_setF_of_ne _ _ (FKey.ne_of_reg (hs c).symm)]
  | uncorrectable =>
    rw [bankError_uncorrectable, getF_moduleFault, getF_noteError, getF_setF_of_ne _ _ (FKey.ne_of_reg (hs c).symm), getF_loseWord]

theorem bankError_mem_of_ne {found : Found} (h : found ≠ .uncorrectable) (d : Dev) (c b w : Nat) : (bankError d c b w found).mem = d.mem := by
  cases found with
  | clean => rfl
  | correctable bit => exact (errorCounted_bankError ..).2.2.2
  | uncorrectable => exact absurd rfl h

theorem march_noteError (d : Dev) (c b r n : Nat) (col : Option Nat) (k : Nat) :
    (clusterOf (noteError d c b r n col) k).march = (clusterOf d k).march := by
  rcases eq_or_ne c k with rfl | h
  · rw [noteError, clusterOf_modCluster_same]
  · rw [noteError, modCluster, clusterOf_setCluster_of_ne _ _ h]

theorem clusterOf_moduleFault (d : Dev) (u : FaultUnit) (k : Nat) : clusterOf (moduleFault d u) k = clusterOf d k := rfl

theorem march_bankError (d : Dev) (c b w : Nat) (found : Found) (k : Nat) :
    (clusterOf (bankError d c b w found) k).march = (clusterOf d k).march := by
  cases found with
  | clean => rfl
  | correctable bit => exact march_noteError ..
  | uncorrectable =>
    rw [bankError_uncorrectable, clusterOf_moduleFault, march_noteError, clusterOf_setF, loseWord_same (clusterOf · k) (fun _ _ _ => rfl)]

/-- A module fault of bank b is reported and its cluster shows an uncorrectable error. -/
structure ErrorReported (c b : Nat) (d : Dev) : Prop where
  ue : getF d (F.bankStatus_ue c) = 1
  fault : Report.moduleFault (.bank c b) ∈ d.reports

theorem errorReported_bankError (d : Dev) (c b w : Nat) : ErrorReported c b (bankError d c b w .uncorrectable) :=
  ⟨bankError_uncorrectable_ue .., bankError_uncorrectable_reports d c b w ▸ List.mem_cons_self⟩

theorem ErrorReported.bankError {c b : Nat} {d : Dev} (h : ErrorReported c b d) (k x w : Nat) (found : Found) :
    ErrorReported c b (bankError d k x w found) := by
  have hw : (F.bankStatus_ue k).width = 1 := rfl
  cases found with
  | clean => exact h
  | correctable bit =>
    refine ⟨?_, h.fault⟩
    rw [Machine.bankError, getF_noteError, satF, getF_setF_of_ne _ _ (by simp), getF_setF_of_ne _ _ (by simp), h.ue]
  | uncorrectable =>
    refine ⟨?_, bankError_uncorrectable_reports d k x w ▸ List.mem_cons_of_mem _ h.fault⟩
    rw [bankError_uncorrectable, getF_moduleFault, getF_noteError, getF_setF, getF_loseWord, h.ue, hw]
    exact ite_self 1

/-! Repairs (R224, R225) -/

/-- A repair made: the cluster's record cleared, the repair counted, and the bank held for n cycles. -/
def repairMade (d : Dev) (c n lo : Nat) (g : Cluster → Cluster) : Dev :=
  noteWear (steadyBroken (bankHold (satF (modCluster d c g) ⟨.telWear2, lo⟩ 1) c n))

section
variable (d : Dev) (c n lo : Nat) (g : Cluster → Cluster)

theorem repairMade_mem : (repairMade d c n lo g).mem = d.mem := by
  rw [repairMade, noteWear_mem, steadyBroken_mem, bankHold_mem, satF, setF_mem, modCluster_mem]

theorem clusterOf_repairMade : clusterOf (repairMade d c n lo g) c = g (clusterOf d c) := by
  rw [repairMade, noteWear_same (clusterOf · c) (fun _ _ _ => rfl), steadyBroken_same (clusterOf · c) rfl]
  exact clusterOf_modCluster_same ..

theorem stalls_repairMade : getF (repairMade d c n lo g) (F.mcArrStallBank_count c) =
    (getF d (F.mcArrStallBank_count c) + n) % 2 ^ 64 := by
  rw [repairMade, getF_noteWear (by simp) (by simp), getF_steadyBroken_of_reg _ (by simp), bankHold, addF, getF_setF_same, stallBank_width,
    satF, getF_setF_of_ne _ _ (by simp), getF_modCluster]

/-- The bank map and the spares left are as the repair set them. -/
theorem getF_repairMade_of_reg {k : FKey} (h : (∃ b, k.reg = .bankRepair c b) ∨ k.reg = .bankMap c) :
    getF (repairMade d c n lo g) k = getF d k := by
  have other {r : Reg} (hr : r ≠ .bankMap c) (hb : ∀ b, r ≠ .bankRepair c b) : k.reg ≠ r := by
    rintro rfl
    rcases h with ⟨b, hk⟩ | hk
    · exact hb b hk
    · exact hr hk
  rw [repairMade, getF_noteWear (other (by simp) (by simp)) (other (by simp) (by simp)), getF_steadyBroken_of_reg _ (other (by simp) (by simp)),
    bankHold, addF, getF_setF_of_ne _ _ (FKey.ne_of_reg (other (by simp) (by simp)).symm), satF,
    getF_setF_of_ne _ _ (FKey.ne_of_reg (other (by simp) (by simp)).symm), getF_modCluster]

end

/-- A repair that takes one of the spares that field k counts, and holds the bank. -/
theorem spareTaken_repairMade {d : Dev} {c : Nat} {k : FKey} (hk : ∃ b, k.reg = .bankRepair c b) (h : getF d k < 2 ^ k.width) (n lo : Nat)
    (g : Cluster → Cluster) : ((repairMade (setF d k (getF d k - 1)) c n lo g).mem = d.mem ∧
      getF (repairMade (setF d k (getF d k - 1)) c n lo g) (F.mcArrStallBank_count c) = (getF d (F.mcArrStallBank_count c) + n) % 2 ^ 64) ∧
      getF (repairMade (setF d k (getF d k - 1)) c n lo g) k = getF d k - 1 := by
  have other : k ≠ F.mcArrStallBank_count c := by
    obtain ⟨b, hb⟩ := hk
    exact FKey.ne_of_reg (by simp [hb])
  refine ⟨⟨repairMade_mem .., ?_⟩, ?_⟩
  · rw [stalls_repairMade, getF_setF_of_ne _ _ other]
  · rw [getF_repairMade_of_reg _ _ _ _ _ (.inl hk), getF_setF_same]
    exact Nat.mod_eq_of_lt (Nat.lt_of_le_of_lt (Nat.sub_le ..) h)

/-- The spare bank stands in for bank b, which is held meanwhile. -/
theorem replaced_repairMade {d : Dev} {c b : Nat} (hb : b < 32) (n lo : Nat) (g : Cluster → Cluster) {e : Dev}
    (he : e = setF (setF d (F.bankMap_spare_for c) b) (F.bankRepair_replaced c b) 1) :
    ((repairMade e c n lo g).mem = d.mem ∧
      getF (repairMade e c n lo g) (F.mcArrStallBank_count c) = (getF d (F.mcArrStallBank_count c) + n) % 2 ^ 64) ∧
      getF (repairMade e c n lo g) (F.bankMap_spare_for c) = b ∧ getF (repairMade e c n lo g) (F.bankRepair_replaced c b) = 1 := by
  have spare : (F.bankMap_spare_for c).width = 6 := rfl
  have replaced : (F.bankRepair_replaced c b).width = 1 := rfl
  refine ⟨⟨(repairMade_mem ..).trans (by rw [he]; rfl), ?_⟩, ?_, ?_⟩
  · rw [stalls_repairMade, he, getF_setF_of_ne _ _ (by simp), getF_setF_of_ne _ _ (by simp)]
  · rw [getF_repairMade_of_reg _ _ _ _ _ (.inr rfl), he, getF_setF_of_ne _ _ (by simp), getF_setF_same, spare]
    exact Nat.mod_eq_of_lt (by omega)
  · rw [getF_repairMade_of_reg _ _ _ _ _ (.inl ⟨b, rfl⟩), he, getF_setF_same, replaced]
    rfl

/-- The records of row r of bank b go. -/
def rowCleared (b r : Nat) (x : Cluster) : Cluster := { x with ceRows := x.ceRows.filter (fun e => !(e.1 == b && e.2.1 == r)) }

/-- The records of bit column k of bank b go. -/
def columnCleared (b k : Nat) (x : Cluster) : Cluster := { x with ceCols := x.ceCols.filter (fun e => !(e.1 == b && e.2.1 == k)) }

/-- The records of bank b go. -/
def bankCleared (b : Nat) (x : Cluster) : Cluster :=
  { x with ceRows := x.ceRows.filter (fun e => e.1 != b), ceCols := x.ceCols.filter (fun e => e.1 != b) }

theorem rowErrors_of_cleared {d : Dev} {c b r : Nat} {x : Cluster} (h : clusterOf d c = rowCleared b r x) : rowErrors d c b r = 0 := by
  have none : (clusterOf d c).ceRows.find? (fun e => e.1 == b && e.2.1 == r) = none := by
    rw [h, rowCleared, List.find?_eq_none]
    intro e he
    simpa [imp_iff_not_or] using (List.mem_filter.1 he).2
  rw [rowErrors, none]
  rfl

theorem columnRows_of_cleared {d : Dev} {c b k : Nat} {x : Cluster} (h : clusterOf d c = columnCleared b k x) : columnRows d c b k = 0 := by
  have none : (clusterOf d c).ceCols.filter (fun e => e.1 == b && e.2.1 == k) = [] := by
    rw [h, columnCleared, List.filter_eq_nil_iff]
    intro e he
    simpa [imp_iff_not_or] using (List.mem_filter.1 he).2
  rw [columnRows, none]
  rfl

section
variable {d : Dev} {c b : Nat}

theorem noteWear_repairBank_row {r : Fin 1024} (hn : rowNeeds d c b r = true) (hl : 0 < getF d (F.bankRepair_rows_left c b)) :
    noteWear (repairBank d c b (.row r)) =
      repairMade (setF d (F.bankRepair_rows_left c b) (getF d (F.bankRepair_rows_left c b) - 1)) c 64 16 (rowCleared b r) :=
  congrArg noteWear (if_pos (by simp [hn, hl]))

theorem noteWear_repairBank_column {k : Fin 576} (hn : columnNeeds d c b k = true) (hl : 0 < getF d (F.bankRepair_cols_left c b)) :
    noteWear (repairBank d c b (.column k)) =
      repairMade (setF d (F.bankRepair_cols_left c b) (getF d (F.bankRepair_cols_left c b) - 1)) c 2048 0 (columnCleared b k) :=
  congrArg noteWear (if_pos (by simp [hn, hl]))

theorem noteWear_repairBank_whole_of_spare (hn : bankNeeds d c b = true) (hs : getF d (F.bankMap_spare_for c) = 0x3F) :
    noteWear (repairBank d c b .whole) =
      repairMade (setF (setF d (F.bankMap_spare_for c) b) (F.bankRepair_replaced c b) 1) c 65536 32 (bankCleared b) :=
  congrArg noteWear ((if_pos hn).trans (if_pos hs))

theorem repairBank_whole_of_taken (hn : bankNeeds d c b = true) (hs : getF d (F.bankMap_spare_for c) ≠ 0x3F) :
    repairBank d c b .whole = moduleFault d (.bank c b) := (if_pos hn).trans (if_neg hs)

end

/-! Boosts (R214) -/

/-- A request of this rank may be boosted. -/
def Boosted (d : Dev) (rank : Nat) : Prop := (3 ≤ rank ∧ rank ≤ 5) ∨ (rank = 7 ∧ Background.bankScrub ∈ d.forced)

theorem boostRequest_of_boosted {d : Dev} {rank : Nat} (h : Boosted d rank) (c : Nat) (displaced : Bool) :
    boostRequest d c rank displaced = if displaced then bankHold (satF d (F.bankStatus_boosts c) 1) c 1
      else satF d (F.bankStatus_boosts c) 1 := if_pos (by simpa [Boosted] using h)

theorem boostRequest_of_not {d : Dev} {rank : Nat} (h : ¬ Boosted d rank) (c : Nat) (displaced : Bool) :
    boostRequest d c rank displaced = d := if_neg (by simpa [Boosted] using h)

theorem boosts_boostRequest {d : Dev} {rank : Nat} (h : Boosted d rank) (c : Nat) (displaced : Bool) :
    getF (boostRequest d c rank displaced) (F.bankStatus_boosts c) =
      min (getF d (F.bankStatus_boosts c) + 1) (2 ^ (F.bankStatus_boosts c).width - 1) := by
  rw [boostRequest_of_boosted h]
  cases displaced with
  | true => exact (getF_setF_of_ne _ _ (by simp)).trans (getF_satF_same ..)
  | false => exact getF_satF_same ..

theorem stalls_boostRequest {d : Dev} {rank : Nat} (h : Boosted d rank) (c : Nat) : getF (boostRequest d c rank true) (F.mcArrStallBank_count c) =
    (getF d (F.mcArrStallBank_count c) + 1) % 2 ^ 64 := by
  rw [boostRequest_of_boosted h, if_pos rfl, bankHold, addF, getF_setF_same, stallBank_width, satF, getF_setF_of_ne _ _ (by simp)]

/-! March starts (R222, R223, Table 9.8) -/

section
variable {d : Dev} {who : Agent} {c v : Nat} {preserving : Bool}

theorem marchCommand_of_asked (hr : reachesCluster d who c = true) (h0 : bitOf v 0 = true) (h1 : bitOf v 1 = preserving) :
    marchCommand who c v preserving d = marchWrite { reachCluster d c with bus := .none } who c v := by
  rw [marchCommand, h0, h1, atCluster, if_pos hr, beq_self_eq_true]
  rfl

theorem marchWrite_of_running (h : getF d (F.bankMarchStatus_state c) = 1) :
    marchWrite d who c v = setF d (F.bankMarchStatus_refused c) 1 := if_pos h

/-- BANK_MARCH_CTRL takes mask, mode and background of a store; no background is refused for the destructive mode. -/
def marchSet (d : Dev) (c v : Nat) (preserving : Bool) : Dev :=
  let e := setF (setF d (F.bankMarchCtrl_bank_mask c) (bits v 63 32)) (F.bankMarchCtrl_mode c) (b2n preserving)
  if !preserving && bits v 7 4 == 0 then setF e (F.bankMarchStatus_refused c) 1 else setF e (F.bankMarchCtrl_bg c) (bits v 7 4)

theorem marchWrite_of_idle (h : getF d (F.bankMarchStatus_state c) ≠ 1) (h0 : bitOf v 0 = true) (h1 : bitOf v 1 = preserving) :
    marchWrite d who c v =
      if marchAllowed (marchSet d c v preserving) who c (bits v 63 32) preserving &&
          (preserving || getF (marchSet d c v preserving) (F.bankMarchCtrl_bg c) != 0) then
        beginMarch (marchSet d c v preserving) c (bits v 63 32) preserving
      else setF (marchSet d c v preserving) (F.bankMarchStatus_refused c) 1 := by
  subst h1
  refine (if_neg h).trans ?_
  dsimp only
  rw [h0]
  rfl

/-- e is d but for the settings and the status of the march engine. -/
structure MarchSettled (c : Nat) (d e : Dev) : Prop where
  field : ∀ k : FKey, k.reg ≠ .bankMarchCtrl c → k.reg ≠ .bankMarchStatus c → getF e k = getF d k
  cl : e.cl = d.cl
  mem : e.mem = d.mem

theorem marchSettled_reached (d : Dev) (c : Nat) : MarchSettled c d { reachCluster d c with bus := .none } :=
  ⟨fun k _ _ => getF_reachCluster d c k, reachCluster_cl d c, reachCluster_mem d c⟩

theorem marchSettled_marchSet (d : Dev) (c v : Nat) (preserving : Bool) : MarchSettled c d (marchSet d c v preserving) := by
  unfold marchSet
  extract_lets e
  have ctrl {k : FKey} (hk : k.reg ≠ .bankMarchCtrl c) : getF e k = getF d k :=
    (getF_setF_of_ne _ _ (FKey.ne_of_reg hk.symm)).trans (getF_setF_of_ne _ _ (FKey.ne_of_reg hk.symm))
  split
  · exact ⟨fun k hc hs => (getF_setF_of_ne _ _ (FKey.ne_of_reg hs.symm)).trans (ctrl hc), rfl, rfl⟩
  · exact ⟨fun k hc hs => (getF_setF_of_ne _ _ (FKey.ne_of_reg hc.symm)).trans (ctrl hc), rfl, rfl⟩

theorem MarchSettled.trans {c : Nat} {d e g : Dev} (h : MarchSettled c d e) (h' : MarchSettled c e g) : MarchSettled c d g :=
  ⟨fun k hc hs => (h'.field k hc hs).trans (h.field k hc hs), h'.cl.trans h.cl, h'.mem.trans h.mem⟩

/-- Who may march which banks does not depend on the engine's settings. -/
theorem MarchSettled.allowed {c : Nat} {d e : Dev} (h : MarchSettled c d e) (who : Agent) (mask : Nat) (preserving : Bool) :
    marchAllowed e who c mask preserving = marchAllowed d who c mask preserving := by
  have part : partOf e c = partOf d c := partOf_congr (fun p => h.field _ (by simp) (by simp)) c
  have owns (p : Nat) : ownsCluster e p c = ownsCluster d p c := by rw [ownsCluster, ownsCluster, h.field _ (by simp) (by simp)]
  have bank (b lo : Nat) : getF e ⟨.bankOwner c b, lo⟩ = getF d ⟨.bankOwner c b, lo⟩ := h.field _ (by simp) (by simp)
  simp only [marchAllowed, bankOpen, bank, part, owns]

theorem bg_marchSet (h : preserving = false → bits v 7 4 ≠ 0) : getF (marchSet d c v preserving) (F.bankMarchCtrl_bg c) = bits v 7 4 := by
  have hw : (F.bankMarchCtrl_bg c).width = 4 := rfl
  have given : ¬ (!preserving && bits v 7 4 == 0) = true := by
    cases preserving
    · simpa using h rfl
    · simp
  rw [marchSet, if_neg given, getF_setF_same, hw]
  exact Nat.mod_mod ..

theorem bg_marchSet_of_none (h : bits v 7 4 = 0) : getF (marchSet d c v false) (F.bankMarchCtrl_bg c) = getF d (F.bankMarchCtrl_bg c) := by
  rw [marchSet, if_pos (by simp [h]), getF_setF_of_ne _ _ (by simp), getF_setF_of_ne _ _ (by simp), getF_setF_of_ne _ _ (by simp)]

end

/-! A march that begins -/

/-- The march runs on the banks of a mask, and the engine's status says so. -/
structure MarchBegun (d : Dev) (c mask : Nat) (preserving : Bool) (e : Dev) : Prop where
  state : getF e (F.bankMarchStatus_state c) = 1
  march : (clusterOf e c).march = some ⟨mask, preserving⟩
  mem : e.mem = d.mem

theorem marchState_width (c : Nat) : (F.bankMarchStatus_state c).width = 2 := rfl

/-- What a run that begins sets before it takes its banks. -/
def marchCleared (d : Dev) (c mask : Nat) (preserving : Bool) : Dev :=
  modCluster (setF (setF (setF (setF d (F.bankMarchStatus_state c) 1) (F.bankMarchStatus_fails c) 0) (F.bankMarchStatus_step c) 0)
    (F.bankMarchFail_valid c) 0) c (fun x => { x with march := some ⟨mask, preserving⟩ })

theorem marchBegun_marchCleared (d : Dev) (c mask : Nat) (preserving : Bool) :
    MarchBegun d c mask preserving (marchCleared d c mask preserving) := by
  refine ⟨?_, congrArg Cluster.march (clusterOf_modCluster_same ..), rfl⟩
  rw [marchCleared, getF_modCluster, getF_setF_of_ne _ _ (by simp), getF_setF_of_ne _ _ (by simp), getF_setF_of_ne _ _ (by simp),
    getF_setF_same, marchState_width]
  rfl

theorem getF_marchCleared_owner (d : Dev) (c mask b : Nat) (preserving : Bool) :
    getF (marchCleared d c mask preserving) (F.bankOwner_owner c b) = getF d (F.bankOwner_owner c b) := by
  rw [marchCleared, getF_modCluster, getF_setF_of_ne _ _ (by simp), getF_setF_of_ne _ _ (by simp), getF_setF_of_ne _ _ (by simp),
    getF_setF_of_ne _ _ (by simp)]

theorem marchBegun_beginMarch (d : Dev) (c mask : Nat) (preserving : Bool) : MarchBegun d c mask preserving (beginMarch d c mask preserving) := by
  have begun := marchBegun_marchCleared d c mask preserving
  cases preserving with
  | true =>
    exact ⟨(getF_steadyBroken_of_reg _ (by simp)).trans begun.state, (steadyBroken_same (fun e => (clusterOf e c).march) rfl).trans begun.march,
      (steadyBroken_mem _).trans begun.mem⟩
  | false =>
    have kept (b : Nat) (e : Dev) (h : MarchBegun d c mask false e) : MarchBegun d c mask false (setF e (F.bankOwner_owner c b) 3) :=
      ⟨(getF_setF_of_ne _ _ (by simp)).trans h.state, h.march, h.mem⟩
    exact forEach_keeps (fun e b h => kept b e h) _ _ begun

/-- A field that every element of a list sets to one value, where one of them is it. -/
theorem getF_forEach_setF_of_mem {α : Type} {key : α → FKey} {n : Nat} {l : List α} {x : α} (hx : x ∈ l) (d : Dev) :
    getF (forEach l d (fun d y => setF d (key y) n)) (key x) = n % 2 ^ (key x).width := by
  refine forEach_establishes (g := fun d y => setF d (key y) n) (P := fun e => getF e (key x) = n % 2 ^ (key x).width)
    (Q := fun _ => True) (fun _ _ _ => trivial)
    (fun e _ => getF_setF_same ..) (fun e y h => ?_) hx trivial
  rw [getF_setF]
  split
  · next hk => rw [hk]
  · exact h

theorem mem_maskedBanks {mask b : Nat} (hb : b < 32) (h : bitOf mask b = true) : b ∈ (List.range 32).filter (fun b => bitOf mask b) :=
  List.mem_filter.2 ⟨List.mem_range.2 hb, h⟩

theorem owner_beginMarch_destructive (d : Dev) (c : Nat) {mask b : Nat} (hb : b < 32) (h : bitOf mask b = true) :
    getF (beginMarch d c mask false) (F.bankOwner_owner c b) = 3 :=
  getF_forEach_setF_of_mem (key := F.bankOwner_owner c) (mem_maskedBanks hb h) (marchCleared d c mask false)

theorem owner_beginMarch_preserving (d : Dev) (c mask b : Nat) :
    getF (beginMarch d c mask true) (F.bankOwner_owner c b) = getF d (F.bankOwner_owner c b) :=
  (getF_steadyBroken_of_reg _ (by simp)).trans (getF_marchCleared_owner d c mask b true)

/-! What a start comes to -/

/-- The engine's settings after a store, as the command finds the cluster. -/
def marchAsked (d : Dev) (c v : Nat) (preserving : Bool) : Dev := marchSet { reachCluster d c with bus := .none } c v preserving

theorem marchSettled_marchAsked (d : Dev) (c v : Nat) (preserving : Bool) : MarchSettled c d (marchAsked d c v preserving) :=
  (marchSettled_reached d c).trans (marchSettled_marchSet ..)

/-- The store asks for a start of the mode at a cluster that its agent reaches. -/
structure StartAsked (d : Dev) (who : Agent) (c v : Nat) (preserving : Bool) : Prop where
  reach : reachesCluster d who c = true
  start : bitOf v 0 = true
  mode : bitOf v 1 = preserving

section
variable {d : Dev} {who : Agent} {c v : Nat} {preserving : Bool} (h : StartAsked d who c v preserving)
include h

theorem marchCommand_of_running (hs : getF d (F.bankMarchStatus_state c) = 1) :
    marchCommand who c v preserving d = setF { reachCluster d c with bus := .none } (F.bankMarchStatus_refused c) 1 := by
  rw [marchCommand_of_asked h.reach h.start h.mode]
  exact marchWrite_of_running ((getF_reachCluster ..).trans hs)

variable (hs : getF d (F.bankMarchStatus_state c) ≠ 1)
include hs

theorem marchCommand_of_idle : marchCommand who c v preserving d =
    if marchAllowed d who c (bits v 63 32) preserving && (preserving || getF (marchAsked d c v preserving) (F.bankMarchCtrl_bg c) != 0) then
      beginMarch (marchAsked d c v preserving) c (bits v 63 32) preserving
    else setF (marchAsked d c v preserving) (F.bankMarchStatus_refused c) 1 := by
  have idle : getF { reachCluster d c with bus := .none } (F.bankMarchStatus_state c) ≠ 1 := fun hr => hs ((getF_reachCluster ..).symm.trans hr)
  rw [marchCommand_of_asked h.reach h.start h.mode, marchWrite_of_idle idle h.start h.mode, ← (marchSettled_marchAsked d c v preserving).allowed]
  rfl

theorem marchCommand_of_allowed (ha : marchAllowed d who c (bits v 63 32) preserving = true) (hb : preserving = false → bits v 7 4 ≠ 0) :
    marchCommand who c v preserving d = beginMarch (marchAsked d c v preserving) c (bits v 63 32) preserving := by
  rw [marchCommand_of_idle h hs, marchAsked, bg_marchSet hb, if_pos]
  cases preserving with
  | true => simp [ha]
  | false => simp [ha, hb rfl]

theorem marchCommand_of_refused (hr : marchAllowed d who c (bits v 63 32) preserving = false ∨
      (preserving = false ∧ bits v 7 4 = 0 ∧ getF d (F.bankMarchCtrl_bg c) = 0)) :
    marchCommand who c v preserving d = setF (marchAsked d c v preserving) (F.bankMarchStatus_refused c) 1 := by
  rw [marchCommand_of_idle h hs, if_neg]
  rcases hr with ha | ⟨rfl, hb, hz⟩
  · simp [ha]
  · have bg : getF (marchAsked d c v false) (F.bankMarchCtrl_bg c) = 0 := (bg_marchSet_of_none hb).trans ((getF_reachCluster ..).trans hz)
    simp [bg]

/-- A start that begins leaves memory to the run. -/
theorem marchBegun_marchCommand (ha : marchAllowed d who c (bits v 63 32) preserving = true) (hb : preserving = false → bits v 7 4 ≠ 0) :
    MarchBegun d c (bits v 63 32) preserving (marchCommand who c v preserving d) := by
  have begun := marchBegun_beginMarch (marchAsked d c v preserving) c (bits v 63 32) preserving
  rw [marchCommand_of_allowed h hs ha hb]
  exact ⟨begun.state, begun.march, begun.mem.trans (marchSettled_marchAsked ..).mem⟩

/-- A refused start is noted, and neither a march nor memory changes. -/
theorem marchRefused_marchCommand (hr : marchAllowed d who c (bits v 63 32) preserving = false ∨
      (preserving = false ∧ bits v 7 4 = 0 ∧ getF d (F.bankMarchCtrl_bg c) = 0)) :
    getF (marchCommand who c v preserving d) (F.bankMarchStatus_refused c) = 1 ∧
      (clusterOf (marchCommand who c v preserving d) c).march = (clusterOf d c).march ∧ (marchCommand who c v preserving d).mem = d.mem := by
  have hw : (F.bankMarchStatus_refused c).width = 1 := rfl
  have settled := marchSettled_marchAsked d c v preserving
  rw [marchCommand_of_refused h hs hr]
  refine ⟨?_, congrArg Cluster.march (clusterOf_congr settled.cl c), settled.mem⟩
  rw [getF_setF_same, hw]
  rfl

end

/-! A march ends (R222, R223, Tables 9.9 and 9.10) -/

/-- The run's failing reads are recorded and the engine is free. -/
def marchEnded (d : Dev) (c : Nat) (fails : List MarchFail) : Dev :=
  let e := forEach fails (satF (fails.head?.elim d (recordFail d c)) (F.bankMarchStatus_fails c) fails.length)
    (fun d f => noteError d c f.bank f.row 2 (some f.bit))
  modCluster (setF (setF e (F.bankMarchStatus_pass c) (b2n fails.isEmpty)) (F.bankMarchStatus_state c) 2) c (fun x => { x with march := none })

/-- The words of a preserving run whose final read failed, among the banks marched. -/
def marchedWords (c : Nat) (m : March) (final : List WordFound) : List WordFound :=
  final.filter (fun x => x.c.val == c && bitOf m.mask x.bank)

/-- The engine gives back a bank, zeroed (R222). -/
def bankGivenBack (c : Nat) (d : Dev) (b : Nat) : Dev :=
  setF { d with mem := memZero d.mem (spadBase c + 0x200000 * b) 0x200000 } (F.bankOwner_owner c b) 0

section
variable {d : Dev} {c : Nat} {m : March} (h : (clusterOf d c).march = some m) (fails : List MarchFail) (final : List WordFound) (waited : Nat)
include h

theorem completeMarch_eq : completeMarch d c fails final waited =
    if m.preserving then bankHold (wordErrors (marchEnded d c fails) (marchedWords c m final)) c waited
    else forEach ((List.range 32).filter (fun b => bitOf m.mask b)) (marchEnded d c fails) (bankGivenBack c) := by
  rw [completeMarch, h]
  cases fails <;> rfl

theorem completeMarch_of_preserving (hm : m.preserving = true) : completeMarch d c fails final waited =
    bankHold (wordErrors (marchEnded d c fails) (marchedWords c m final)) c waited := by
  rw [completeMarch_eq h, if_pos hm]

theorem completeMarch_of_destructive (hm : m.preserving = false) : completeMarch d c fails final waited =
    forEach ((List.range 32).filter (fun b => bitOf m.mask b)) (marchEnded d c fails) (bankGivenBack c) := by
  rw [completeMarch_eq h, hm, if_neg Bool.false_ne_true]

/-- What follows the end of the run leaves its result, and the engine free. -/
theorem completeMarch_keeps {α : Type} (v : Dev → α) (he : ∀ d k b w found, v (bankError d k b w found) = v d)
    (hh : ∀ d, v (bankHold d c waited) = v d) (hb : ∀ d b, v (bankGivenBack c d b) = v d) :
    v (completeMarch d c fails final waited) = v (marchEnded d c fails) := by
  cases hm : m.preserving with
  | true =>
    rw [completeMarch_of_preserving h fails final waited hm, hh]
    exact forEach_same v (fun d (x : WordFound) => he d x.c x.bank x.word x.found) _ _
  | false =>
    rw [completeMarch_of_destructive h fails final waited hm]
    exact forEach_same v hb _ _

theorem getF_completeMarch {k : FKey} (hk : k.reg = .bankMarchStatus c ∨ k.reg = .bankMarchFail c) :
    getF (completeMarch d c fails final waited) k = getF (marchEnded d c fails) k := by
  have other {r : Reg} (hs : r ≠ .bankMarchStatus c) (hf : r ≠ .bankMarchFail c) : k.reg ≠ r := by
    rintro rfl
    exact hk.elim hs hf
  exact completeMarch_keeps h fails final waited (getF · k)
    (getF_bankError_of_reg (fun _ => other (by simp) (by simp)) (fun _ _ => other (by simp) (by simp)))
    (fun d => getF_setF_of_ne _ _ (FKey.ne_of_reg (other (by simp) (by simp)).symm))
    (fun d b => getF_setF_of_ne _ _ (FKey.ne_of_reg (other (by simp) (by simp)).symm))

theorem march_completeMarch : (clusterOf (completeMarch d c fails final waited) c).march = none :=
  (completeMarch_keeps h fails final waited (fun e => (clusterOf e c).march) (fun d k b w found => march_bankError d k b w found c)
    (fun _ => rfl) (fun _ _ => rfl)).trans (congrArg Cluster.march (clusterOf_modCluster_same ..))

end

section
variable (d : Dev) (c : Nat) (fails : List MarchFail)

theorem state_marchEnded : getF (marchEnded d c fails) (F.bankMarchStatus_state c) = 2 := by
  rw [marchEnded, getF_modCluster, getF_setF_same, marchState_width]
  rfl

theorem pass_marchEnded : getF (marchEnded d c fails) (F.bankMarchStatus_pass c) = if fails = [] then 1 else 0 := by
  have hw : (F.bankMarchStatus_pass c).width = 1 := rfl
  rw [marchEnded, getF_modCluster, getF_setF_of_ne _ _ (by simp), getF_setF_same, hw, b2n_mod_two]
  cases fails <;> rfl

/-- Recording the run's end changes its result and its first failing read alone. -/
theorem getF_marchEnded_of_status {k : FKey} (hk : k.reg ≠ .bankMarchStatus c) :
    getF (marchEnded d c fails) k = getF (fails.head?.elim d (recordFail d c)) k := by
  have status (d : Dev) (lo v : Nat) : getF (setF d ⟨.bankMarchStatus c, lo⟩ v) k = getF d k := getF_setF_of_ne _ _ (FKey.ne_of_reg hk.symm)
  rw [marchEnded, getF_modCluster, status, status, forEach_same (getF · k) (fun _ _ => getF_noteError ..), satF, status]

theorem getF_recordFail_of_reg (f : MarchFail) {k : FKey} (hk : k.reg ≠ .bankMarchFail c) : getF (recordFail d c f) k = getF d k := by
  have fail (d : Dev) (lo v : Nat) : getF (setF d ⟨.bankMarchFail c, lo⟩ v) k = getF d k := getF_setF_of_ne _ _ (FKey.ne_of_reg hk.symm)
  simp only [recordFail, fail]

theorem stalls_marchEnded : getF (marchEnded d c fails) (F.mcArrStallBank_count c) = getF d (F.mcArrStallBank_count c) := by
  rw [getF_marchEnded_of_status _ _ _ (by simp)]
  cases fails with
  | nil => rfl
  | cons f rest => exact getF_recordFail_of_reg d c f (by simp)

/-- The first failing read stands in BANK_MARCH_FAIL (Table 9.10). -/
theorem failShown_marchEnded (f : MarchFail) (rest : List MarchFail) :
    getF (marchEnded d c (f :: rest)) (F.bankMarchFail_valid c) = 1 ∧
      getF (marchEnded d c (f :: rest)) (F.bankMarchFail_bank c) = f.bank % 2 ^ (F.bankMarchFail_bank c).width ∧
      getF (marchEnded d c (f :: rest)) (F.bankMarchFail_row c) = f.row % 2 ^ (F.bankMarchFail_row c).width := by
  have hw : (F.bankMarchFail_valid c).width = 1 := rfl
  have shown (lo : Nat) : getF (marchEnded d c (f :: rest)) ⟨.bankMarchFail c, lo⟩ = getF (recordFail d c f) ⟨.bankMarchFail c, lo⟩ :=
    getF_marchEnded_of_status _ _ _ (by simp)
  refine ⟨?_, ?_, ?_⟩
  · rw [shown, recordFail, getF_setF_of_ne _ _ (by simp), getF_setF_of_ne _ _ (by simp), getF_setF_of_ne _ _ (by simp),
      getF_setF_of_ne _ _ (by simp), getF_setF_same, hw]
    rfl
  · rw [shown, recordFail, getF_setF_of_ne _ _ (by simp), getF_setF_of_ne _ _ (by simp), getF_setF_of_ne _ _ (by simp), getF_setF_same]
  · rw [shown, recordFail, getF_setF_of_ne _ _ (by simp), getF_setF_of_ne _ _ (by simp), getF_setF_same]

theorem marchEnded_mem : (marchEnded d c fails).mem = d.mem := by
  have recorded : (fails.head?.elim d (recordFail d c)).mem = d.mem := by
    cases fails with
    | nil => rfl
    | cons f rest => exact recordFail_mem ..
  rw [marchEnded, modCluster_mem, setF_mem, setF_mem, forEach_mem (fun _ _ => noteError_mem ..), satF, setF_mem, recorded]

end

/-! The words of a preserving run, and the banks of a destructive one -/

theorem wordErrors_mem {l : List WordFound} (h : ∀ x ∈ l, x.found ≠ .uncorrectable) (d : Dev) : (wordErrors d l).mem = d.mem := by
  induction l generalizing d with
  | nil => rfl
  | cons x l ih =>
    exact (ih (fun y hy => h y (List.mem_cons_of_mem _ hy)) _).trans (bankError_mem_of_ne (h x List.mem_cons_self) ..)

theorem stalls_wordErrors (d : Dev) (l : List WordFound) (c : Nat) :
    getF (wordErrors d l) (F.mcArrStallBank_count c) = getF d (F.mcArrStallBank_count c) :=
  forEach_same (getF · (F.mcArrStallBank_count c)) (fun _ _ => getF_bankError_of_reg (by simp) (by simp) ..) l d

theorem errorReported_wordErrors {l : List WordFound} {x : WordFound} (hx : x ∈ l) (hf : x.found = .uncorrectable) (d : Dev) :
    ErrorReported x.c x.bank (wordErrors d l) :=
  forEach_establishes (Q := fun _ => True) (fun _ _ _ => trivial) (fun d _ => hf ▸ errorReported_bankError d x.c x.bank x.word)
    (fun _ y h => h.bankError y.c y.bank y.word y.found) hx trivial

/-- A bank is FREE and all zero. -/
structure BankZeroed (c b : Nat) (d : Dev) : Prop where
  owner : getF d (F.bankOwner_owner c b) = 0
  zero : ∀ i < 0x200000, memGet d.mem (spadBase c + 0x200000 * b + i) = 0

theorem bankZeroed_bankGivenBack (d : Dev) (c b : Nat) : BankZeroed c b (bankGivenBack c d b) := by
  refine ⟨(getF_setF_same ..).trans (Nat.zero_mod _), fun i hi => ?_⟩
  rw [bankGivenBack, setF_mem, memGet_memZero, if_pos (by omega)]

theorem BankZeroed.bankGivenBack {c b : Nat} {d : Dev} (h : BankZeroed c b d) (k : Nat) : BankZeroed c b (bankGivenBack c d k) := by
  refine ⟨?_, fun i hi => ?_⟩
  · rw [Machine.bankGivenBack, getF_setF]
    split
    · exact Nat.zero_mod _
    · exact h.owner
  · rw [Machine.bankGivenBack, setF_mem, memGet_memZero]
    split
    · rfl
    · exact h.zero i hi

/-! What a march leaves -/

section
variable {d : Dev} {m : March} (fails : List MarchFail) (final : List WordFound) (waited : Nat)

theorem failShown_completeMarch {c : Nat} (h : (clusterOf d c).march = some m) (f : MarchFail) (rest : List MarchFail) :
    getF (completeMarch d c (f :: rest) final waited) (F.bankMarchFail_valid c) = 1 ∧
      getF (completeMarch d c (f :: rest) final waited) (F.bankMarchFail_bank c) = f.bank % 2 ^ (F.bankMarchFail_bank c).width ∧
      getF (completeMarch d c (f :: rest) final waited) (F.bankMarchFail_row c) = f.row % 2 ^ (F.bankMarchFail_row c).width := by
  have kept (lo : Nat) : getF (completeMarch d c (f :: rest) final waited) ⟨.bankMarchFail c, lo⟩ =
      getF (marchEnded d c (f :: rest)) ⟨.bankMarchFail c, lo⟩ := getF_completeMarch h _ _ _ (.inr rfl)
  rw [kept, kept, kept]
  exact failShown_marchEnded d c f rest

/-- A preserving run changes memory only by words that it found lost, and holds requests for the cycles it took. -/
theorem preserved_completeMarch {c : ClusterId} (h : (clusterOf d c).march = some m) (hp : m.preserving = true) :
    ((∀ x ∈ final, x.found ≠ .uncorrectable) → (completeMarch d c fails final waited).mem = d.mem) ∧
      getF (completeMarch d c fails final waited) (F.mcArrStallBank_count c) = (getF d (F.mcArrStallBank_count c) + waited) % 2 ^ 64 ∧
      ∀ x ∈ final, x.c = c → bitOf m.mask x.bank = true → x.found = .uncorrectable →
        ErrorReported c x.bank (completeMarch d c fails final waited) := by
  rw [completeMarch_of_preserving h fails final waited hp]
  refine ⟨fun hf => ?_, ?_, fun x hx hc hbit hf => ?_⟩
  · rw [bankHold_mem, wordErrors_mem (l := marchedWords c m final) (fun x hx => hf x (List.mem_filter.1 hx).1), marchEnded_mem]
  · rw [bankHold, addF, getF_setF_same, stallBank_width, stalls_wordErrors, stalls_marchEnded]
  · have listed : x ∈ marchedWords c m final := List.mem_filter.2 ⟨hx, by simp [hc, hbit]⟩
    obtain ⟨ue, fault⟩ := errorReported_wordErrors listed hf (marchEnded d c fails)
    rw [hc] at ue fault
    exact ⟨(getF_setF_of_ne _ _ (by simp)).trans ue, fault⟩

theorem bankZeroed_completeMarch {c : Nat} (h : (clusterOf d c).march = some m) (hp : m.preserving = false) {b : Nat} (hb : b < 32)
    (hbit : bitOf m.mask b = true) : BankZeroed c b (completeMarch d c fails final waited) := by
  rw [completeMarch_of_destructive h fails final waited hp]
  exact forEach_establishes (Q := fun _ => True) (fun _ _ _ => trivial) (fun d _ => bankZeroed_bankGivenBack d c b)
    (fun _ k h => h.bankGivenBack k) (mem_maskedBanks hb hbit) trivial

end

/-- Settles O35: errors, repairs, boosts and marches, each by the law of its command. -/
theorem bankMaintenance : Obligations.BankMaintenance := by
  refine ⟨fun s c b hg => ?_, fun s who c v hg => ?_⟩
  · intro held
    refine ⟨fun w => exec_bankScrub hg c b w .clean, fun w bit => ⟨_, exec_bankScrub hg c b w _, errorCounted_bankError ..⟩,
      fun w => ⟨_, exec_bankScrub hg c b w _, bankError_uncorrectable_ue .., bankError_uncorrectable_reports ..,
        bankError_uncorrectable_mem ..⟩,
      fun r hn hl hlt => ⟨_, exec_bankRepair hg c b _, ?_⟩, fun k hn hl hlt => ⟨_, exec_bankRepair hg c b _, ?_⟩,
      fun hn hs => ⟨_, exec_bankRepair hg c b _, ?_⟩, fun hn hs => ⟨_, exec_bankRepair hg c b _, ?_⟩,
      fun rank displaced hb => ⟨_, exec_bankRequestBoost hg c b rank displaced, boosts_boostRequest hb c displaced, ?_, boostRequest_mem ..⟩,
      fun rank displaced hb => ?_⟩
    · obtain ⟨stalled, left⟩ := spareTaken_repairMade ⟨b, rfl⟩ hlt 64 16 (rowCleared b r)
      rw [noteWear_repairBank_row hn hl]
      dsimp only [held]
      exact ⟨stalled, left, rowErrors_of_cleared (clusterOf_repairMade _ c 64 16 (rowCleared b r))⟩
    · obtain ⟨stalled, left⟩ := spareTaken_repairMade ⟨b, rfl⟩ hlt 2048 0 (columnCleared b k)
      rw [noteWear_repairBank_column hn hl]
      dsimp only [held]
      exact ⟨stalled, left, columnRows_of_cleared (clusterOf_repairMade _ c 2048 0 (columnCleared b k))⟩
    · rw [noteWear_repairBank_whole_of_spare hn hs]
      dsimp only [held]
      exact replaced_repairMade b.isLt _ _ _ rfl
    · rw [repairBank_whole_of_taken hn hs]
      exact ⟨noteWear_same Dev.reports (fun _ _ _ => rfl) _, noteWear_mem _⟩
    · rintro rfl
      exact ⟨boostRequest_mem .., stalls_boostRequest hb c⟩
    · rw [exec_bankRequestBoost hg, boostRequest_of_not hb]
  · intro d mask asked idle
    have starts {preserving : Bool} (h : asked preserving) : StartAsked s.dev who c v.toNat preserving := by
      obtain ⟨hr, h0, h1⟩ := h
      exact ⟨hr, h0, h1⟩
    refine ⟨fun ⟨ha, hs⟩ hm hb => ⟨_, exec_marchDestructive hg c who v, ?_⟩,
      fun ⟨ha, hs⟩ hm => ⟨_, exec_marchPreserving hg c who v, ?_⟩,
      fun ⟨ha, hs⟩ hr => ⟨_, exec_marchDestructive hg c who v, marchRefused_marchCommand (starts ha) hs (hr.imp_right (.intro rfl))⟩,
      fun ⟨ha, hs⟩ hr => ⟨_, exec_marchPreserving hg c who v, marchRefused_marchCommand (starts ha) hs (.inl hr)⟩,
      fun ha hs => ?_, fun ha hs => ?_, fun m fails final waited hm => ⟨_, exec_marchComplete hg c fails final waited, ?_⟩⟩
    · obtain ⟨state, march, mem⟩ := marchBegun_marchCommand (starts ha) hs hm (fun _ => hb)
      refine ⟨state, march, fun b hlt hbit => ?_, mem⟩
      rw [marchCommand_of_allowed (starts ha) hs hm (fun _ => hb)]
      exact owner_beginMarch_destructive _ c hlt hbit
    · obtain ⟨state, march, mem⟩ := marchBegun_marchCommand (starts ha) hs hm nofun
      refine ⟨state, march, fun b _ => ?_, mem⟩
      rw [marchCommand_of_allowed (starts ha) hs hm nofun]
      exact (owner_beginMarch_preserving ..).trans ((marchSettled_marchAsked ..).field _ (by simp) (by simp))
    · rw [exec_marchDestructive hg, marchCommand_of_running (starts ha) hs]
    · rw [exec_marchPreserving hg, marchCommand_of_running (starts ha) hs]
    · refine ⟨(getF_completeMarch hm _ _ _ (.inl rfl)).trans (state_marchEnded ..),
        (getF_completeMarch hm _ _ _ (.inl rfl)).trans (pass_marchEnded ..), fun f rest hf => hf ▸ failShown_completeMarch final waited hm f rest,
        march_completeMarch hm .., fun hp => ?_, fun hp b hlt hbit => ?_⟩
      · obtain ⟨unchanged, stalled, reported⟩ := preserved_completeMarch fails final waited hm hp
        refine ⟨unchanged, stalled, fun x hx hc hbit hf => ?_⟩
        obtain ⟨ue, fault⟩ := reported x hx hc hbit hf
        exact ⟨ue, fault⟩
      · obtain ⟨owner, zero⟩ := bankZeroed_completeMarch fails final waited hm hp hlt hbit
        exact ⟨owner, zero⟩

end Sys2Proof.Machine
end

section
namespace Sys2Proof.Machine

/-! Entries of the trace (R368, R369, Table 15.8) -/

section
variable {s : State} (hg : s.dev.powerGood = true)
include hg

theorem exec_traceEntry (e : TraceEvent) : exec (.traceEntry e) s = .next { s with dev := traceEvent s.dev e } :=
  congrArg Host.Outcome.next (onDev_of_good hg)

theorem exec_traceEnable (p : PartId) (v : Word) :
    exec (.traceEnable p v) s = .next { s with dev := traceWrite { s.dev with bus := .none } p v.toNat } :=
  congrArg Host.Outcome.next (onDev_of_good hg)

theorem exec_mgtLinkChange (link fec : Bool) (addr : Option (BitVec 64)) :
    exec (.mgtLinkChange link fec addr) s = .next { s with dev := changeLink s.dev link fec addr } :=
  congrArg Host.Outcome.next (onDev_of_good hg)

end

section
variable {d : Dev} {e : TraceEvent}

theorem traceEvent_of_part {p : PartId} (hc : e.cls.val < 6) (hp : e.part = some p) : traceEvent d e = traceFor d e p := by
  rw [traceEvent, if_neg (Nat.not_le.2 hc), hp]

/-- A ring that records the class, long since its last entry and with room, takes the entry. -/
theorem traceFor_of_room {p : Nat} (hen : flag d (F.telTrace_en p) = true) (hm : bitOf (getF d (F.telTrace_mask p)) e.cls.val = true)
    (ht : Tab.get? d.traced p = none)
    (hr : (getF d (F.telThead_head p) + 2 ^ 32 - getF d (F.telThead_tail p)) % 2 ^ 32 < traceSize d p) :
    traceFor d e p = putTrace d p e := by
  simp only [traceFor, hen, hm, ht, hr, Bool.not_true, Bool.or_self, Bool.false_eq_true, if_false, if_true]

/-- Where the entry at head lies. -/
def traceSlot (d : Dev) (p : Nat) : Nat :=
  32 * getF d (F.telTrace_base p) + 32 * (getF d (F.telThead_head p) % traceSize d p)

theorem putTrace_of_open {p : Nat} (ho : shutBanks d (traceSlot d p) 32 = []) (hm : rangeMapped d p (traceSlot d p) 32 = true)
    (hw : heldWrite d p (traceSlot d p) 32 = false) : putTrace d p e =
      addF (guardedPut { d with traced := Tab.put d.traced p (ftcOf d) } p (traceSlot d p) (traceBytes d e)) (F.telThead_head p) 1 := by
  unfold putTrace
  extract_lets head a
  rw [if_neg (by simp [a, head, ← traceSlot.eq_def, ho]), if_neg (by simp [a, head, ← traceSlot.eq_def, hm, hw])]
  rfl

theorem putTrace_of_shut {p : Nat} (ho : shutBanks d (traceSlot d p) 32 ≠ []) :
    putTrace d p e = dropTrace (engineDeny d p (traceSlot d p) 32) p :=
  if_pos (by simpa [traceSlot] using ho)

end

theorem accessed_engineDeny (d : Dev) (p a n : Nat) : Accessed d (engineDeny d p a n) := by
  unfold engineDeny
  split
  · next x _ _ => exact ((Accessed.setF ⟨x.1, by simp⟩ d 1).trans (.setF ⟨x.1, by simp⟩ _ _)).trans (.setF ⟨p, by simp⟩ _ _)
  · exact .refl d

/-- A dropped entry is counted as lost (R369). -/
theorem getF_dropTrace_engineDeny (d : Dev) (p a n : Nat) : getF (dropTrace (engineDeny d p a n) p) (F.telTstat_lost p) =
    min (getF d (F.telTstat_lost p) + 1) (2 ^ (F.telTstat_lost p).width - 1) := by
  rw [dropTrace, getF_satF_same, (accessed_engineDeny d p a n).field _ (by simp [IsAccessReg])]

/-- A field as wide as the bits it takes of a store shows them. -/
theorem getF_setF_bits (d : Dev) {k : FKey} {h l : Nat} (hw : k.width = h + 1 - l) (v : Nat) : getF (setF d k (bits v h l)) k = bits v h l := by
  rw [getF_setF_same, hw]
  exact Nat.mod_mod ..

theorem getF_setF_b2n (d : Dev) {k : FKey} (hw : k.width = 1) (b : Bool) : getF (setF d k (b2n b)) k = b2n b := by
  rw [getF_setF_same, hw, b2n_mod_two]

theorem traceWrite_of_disabled {d : Dev} {p v : Nat} (he : flag d (F.telTrace_en p) = false) (hs : bits v 59 56 ≤ 12) :
    traceWrite d p v = setF (setF (setF (setF (setF d (F.telTrace_base p) (bits v 47 5)) (F.telTrace_mask p) (bits v 55 48))
      (F.telTrace_wrap p) (bits v 62 62)) (F.telTrace_size_log2 p) (bits v 59 56)) (F.telTrace_en p) (bits v 63 63) := by
  rw [traceWrite, he]
  simp only [Bool.false_and, Bool.false_eq_true, if_false, if_neg (Nat.not_lt.2 hs)]

/-- TEL_TRACE takes the store's fields, and no other register changes (Table 15.8). -/
theorem traceStored_traceWrite {d : Dev} {p v : Nat} (he : flag d (F.telTrace_en p) = false) (hs : bits v 59 56 ≤ 12) :
    getF (traceWrite d p v) (F.telTrace_en p) = bits v 63 63 ∧ getF (traceWrite d p v) (F.telTrace_base p) = bits v 47 5 ∧
      getF (traceWrite d p v) (F.telTrace_mask p) = bits v 55 48 ∧ getF (traceWrite d p v) (F.telTrace_size_log2 p) = bits v 59 56 ∧
      getF (traceWrite d p v) (F.telTrace_wrap p) = bits v 62 62 ∧
      (∀ k : FKey, k.reg ≠ .telTrace p → getF (traceWrite d p v) k = getF d k) ∧ (traceWrite d p v).mem = d.mem := by
  rw [traceWrite_of_disabled he hs]
  have other {k : FKey} (hk : k.reg ≠ .telTrace p) (d : Dev) (lo x : Nat) : getF (setF d ⟨.telTrace p, lo⟩ x) k = getF d k :=
    getF_setF_of_ne _ _ (FKey.ne_of_reg hk.symm)
  refine ⟨getF_setF_bits _ rfl v, ?_, ?_, ?_, ?_, fun k hk => by simp only [other hk], rfl⟩
  · rw [getF_setF_of_ne _ _ (by simp), getF_setF_of_ne _ _ (by simp), getF_setF_of_ne _ _ (by simp), getF_setF_of_ne _ _ (by simp)]
    exact getF_setF_bits _ rfl v
  · rw [getF_setF_of_ne _ _ (by simp), getF_setF_of_ne _ _ (by simp), getF_setF_of_ne _ _ (by simp)]
    exact getF_setF_bits _ rfl v
  · rw [getF_setF_of_ne _ _ (by simp)]
    exact getF_setF_bits _ rfl v
  · rw [getF_setF_of_ne _ _ (by simp), getF_setF_of_ne _ _ (by simp)]
    exact getF_setF_bits _ rfl v

/-! The FRU data, the test port and the management link (R384 to R386) -/

theorem exec_fruRead {s : State} (h : s.dev.standby = true) (off : BitVec 16) (n : Nat) : exec (.fruRead off n) s =
    .next { s with dev := { s.dev with i2c := (List.range n).map (fun i => fruByte s.sec ((off.toNat + i) % 65536)) } } :=
  congrArg Host.Outcome.next (if_pos h)

section
variable {d : Dev} (h : d.standby = true)

/-- What the pins do under an instruction of the test port (R386). -/
def pinsUnder (inReset : Bool) : JtagInstr → Nat
  | .extest | .clamp => if inReset then 1 else 0
  | .highz => if inReset then 2 else 0
  | _ => 0

include h

theorem tapLoad_eq (ir : JtagInstr) (tdo : List Bool) :
    tapLoad d ir tdo = { d with jtag := { d.jtag with ir := ir, tdo := tdo, pins := pinsUnder d.inReset ir } } := by
  have pins : tapPins { d with jtag := { d.jtag with ir := ir, tdo := tdo } } = pinsUnder d.inReset ir := by
    unfold tapPins
    rw [h]
    cases d.inReset <;> cases ir <;> rfl
  rw [tapLoad, if_pos h, setPins, pins]

theorem tapLoad_of_pins {n : Nat} {ir : JtagInstr} (hn : pinsUnder d.inReset ir = n) (tdo : List Bool) :
    tapLoad d ir tdo = { d with jtag := { d.jtag with ir := ir, tdo := tdo, pins := n } } := by
  rw [tapLoad_eq h, hn]

theorem tapSample_eq (seen load : List Bool) :
    tapSample d seen load = { d with jtag := ⟨.sample, load, pinLevels d seen, 0⟩ } := by
  rw [tapSample, if_pos h]
  exact tapLoad_eq (d := { d with jtag := { d.jtag with cells := load } }) h .sample _

theorem tapExtest_of_reset (hr : d.inReset = true) (drive : List Bool) : tapExtest d drive =
    { d with free := d.free + 1, jtag := ⟨.extest, drive, (List.range 14).map (Config.freeWord d.free).getLsbD, 1⟩ } := by
  rw [tapExtest, if_pos (by simp [hr, h])]
  exact tapLoad_of_pins (d := { d with free := d.free + 1, jtag := { d.jtag with cells := drive } }) h (by rw [hr]; rfl) _

theorem tapExtest_of_running (hr : d.inReset = false) (drive : List Bool) :
    tapExtest d drive = { d with jtag := { d.jtag with ir := .extest, tdo := [false], pins := 0 } } := by
  rw [tapExtest, if_neg (by simp [hr]), tapLoad_of_pins (n := 0) h (by rw [hr]; rfl)]

end

theorem foldl_packed_eq_zero {d : Dev} {r : Reg} {l : List FieldDef} (hl : ∀ x ∈ l, x.acc ≠ .wo) (a : Nat) :
    l.foldl (fun a x => if x.acc = .wo then a else a + getF d ⟨r, x.lo⟩ * 2 ^ x.lo) a = 0 ↔
      a = 0 ∧ ∀ x ∈ l, getF d ⟨r, x.lo⟩ = 0 := by
  induction l generalizing a with
  | nil => simp
  | cons y l ih =>
    rw [List.foldl_cons, if_neg (hl y List.mem_cons_self), ih (fun x hx => hl x (List.mem_cons_of_mem _ hx))]
    simp [and_assoc]

/-- ALERT_N is high while every bit of TEL_ALERT is 0 (R375). -/
theorem not_alertAsserted (d : Dev) : (!alertAsserted d) = decide (∀ x ∈ Reg.telAlert.fields, getF d ⟨.telAlert, x.lo⟩ = 0) := by
  have zero : packFields d .telAlert Reg.telAlert.fields = 0 ↔ ∀ x ∈ Reg.telAlert.fields, getF d ⟨.telAlert, x.lo⟩ = 0 :=
    (foldl_packed_eq_zero (by decide) 0).trans (and_iff_right rfl)
  rw [alertAsserted, ← decide_eq_decide.2 zero]
  exact Bool.not_not _

/-- The address goes with the link and what the router advertises (log entry 88). -/
theorem linkShown_changeLink (d : Dev) (link fec : Bool) (addr : Option (BitVec 64)) :
    getF (changeLink d link fec addr) F.mgtStatus_link = b2n link ∧ getF (changeLink d link fec addr) F.mgtStatus_fec_lock = b2n fec ∧
      getF (changeLink d link fec addr) F.mgtStatus_global = b2n (link && addr.isSome) ∧
      (∀ k : FKey, k.reg ≠ .mgtStatus → getF (changeLink d link fec addr) k = getF d k) ∧ (changeLink d link fec addr).mem = d.mem := by
  have other {k : FKey} (hk : k.reg ≠ .mgtStatus) (d : Dev) (lo x : Nat) : getF (setF d ⟨.mgtStatus, lo⟩ x) k = getF d k :=
    getF_setF_of_ne _ _ (FKey.ne_of_reg hk.symm)
  have shown : (if link then addr.map (fun x => x.toNat * 2 ^ 64 + mgtInterface) else none).isSome = (link && addr.isSome) := by
    cases link <;> simp
  unfold changeLink
  extract_lets a
  refine ⟨?_, ?_, (getF_setF_b2n _ rfl _).trans (congrArg b2n shown), fun k hk => by simp only [other hk]; rfl, rfl⟩
  · rw [getF_setF_of_ne _ _ (by simp), getF_setF_of_ne _ _ (by simp), getF_setF_b2n _ rfl]
  · rw [getF_setF_of_ne _ _ (by simp), getF_setF_b2n _ rfl]

/-- Settles O54: each command by the law of its effect above. -/
theorem traceAndPins : Obligations.TraceAndPins := by
  intro s d pins
  have answers {i : Instr} {e t : Dev} (hi : exec i s = .next { s with dev := e }) (ht : e = t) :
      exec i s = .next { s with dev := t } := hi.trans (ht ▸ rfl)
  refine ⟨fun e p hg hc hp hen hm ht => ?_, fun p v hg hen hs => ⟨_, exec_traceEnable hg p v, traceStored_traceWrite hen hs⟩,
    fun off n h => exec_fruRead h off n, fun h => ⟨?_, ?_, fun seen load => ?_⟩, fun h hr => ⟨?_, ?_, fun drive => ?_⟩,
    fun h hr => ⟨?_, ?_, fun drive => ?_⟩, fun link fec addr hg => ⟨_, exec_mgtLinkChange hg link fec addr, linkShown_changeLink ..⟩⟩
  · intro head size a noted hroom hmap
    have put : exec (.traceEntry e) s = .next { s with dev := putTrace d p e } := by
      rw [exec_traceEntry hg, traceEvent_of_part hc hp, traceFor_of_room hen hm ht hroom]
    refine ⟨fun ho hw => ?_, fun ho => ⟨_, put, ?_, ?_⟩⟩
    · rw [put, putTrace_of_open ho hmap hw]
      rfl
    · rw [putTrace_of_shut ho]
      exact engineDeny_mem ..
    · rw [putTrace_of_shut ho]
      exact getF_dropTrace_engineDeny ..
  · exact answers rfl (tapLoad_eq h .bypass [false])
  · exact answers rfl (tapLoad_eq h .idcode _)
  · refine answers rfl ((tapSample_eq h seen load).trans ?_)
    rw [pinLevels, not_alertAsserted]
    rfl
  · exact answers rfl (tapLoad_of_pins (n := 1) h (by rw [hr]; rfl) [false])
  · exact answers rfl (tapLoad_of_pins (n := 2) h (by rw [hr]; rfl) [false])
  · refine ⟨_, answers rfl (tapExtest_of_reset h hr drive), rfl, rfl, rfl, ?_, rfl, rfl, rfl⟩
    exact (List.length_map _).trans List.length_range
  · exact answers rfl (tapLoad_of_pins (n := 0) h (by rw [hr]; rfl) [false])
  · exact answers rfl (tapLoad_of_pins (n := 0) h (by rw [hr]; rfl) [false])
  · exact answers rfl (tapExtest_of_running h hr drive)

end Sys2Proof.Machine
end

section
namespace Sys2Proof.Machine

/-! The rings of a service port (R388, Table 16.13) -/

section
variable {s : State} (hg : s.dev.powerGood = true) (p : PartId) (q : SvcId)
include hg

theorem exec_svcRingEnable (recv : Bool) {v : Word} (h : bitOf v.toNat 63 = true) :
    exec (.svcRingEnable p q recv v) s = .next { s with dev := svcRingWrite s.dev p q recv v.toNat } :=
  (congrArg Host.Outcome.next (onDev_of_good hg)).trans (by rw [if_pos h])

theorem exec_svcRingDisable (recv : Bool) {v : Word} (h : bitOf v.toNat 63 = false) :
    exec (.svcRingDisable p q recv v) s = .next { s with dev := svcRingWrite s.dev p q recv v.toNat } :=
  (congrArg Host.Outcome.next (onDev_of_good hg)).trans (by rw [h]; rfl)

theorem exec_workEntryComplete (i : Nat) (res : WorkResult) :
    exec (.workEntryComplete p q i res) s = .next { s with dev := svcComplete s.dev p q i res } :=
  congrArg Host.Outcome.next (onDev_of_good hg)

/-- Each row of work entries is the engine's run for its op. -/
theorem exec_workEntry {op : Nat} {i : Instr} (h : [Instr.send p q, .sendWithImmediate p q, .rdmaWrite p q, .rdmaWriteWithImmediate p q,
    .rdmaRead p q, .udp p q][op]? = some i) : exec i s = .next { s with dev := svcRun op p q s.dev } := by
  obtain ⟨hop, rfl⟩ := List.getElem?_eq_some_iff.1 h
  match op, hop with
  | 0, _ | 1, _ | 2, _ | 3, _ | 4, _ | 5, _ => exact congrArg Host.Outcome.next (onDev_of_good hg)

end

section
variable {d : Dev} {p s v : Nat} {recv : Bool}

/-- The ring of an accepted store: its base and size taken. -/
def svcRingBased (d : Dev) (p s : Nat) (recv : Bool) (v : Nat) : Dev :=
  setF (setF d (svcBase recv p s) (bits v 47 5)) (svcSize recv p s) (bits v 51 48)

theorem svcRingWrite_of_enabled (he : flag d (svcEn recv p s) = true) (h : bitOf v 63 = true) :
    svcRingWrite d p s recv v = setF d (F.svcStat_wr_err p s) 1 := by
  rw [svcRingWrite, he, h]
  rfl

theorem svcRingWrite_of_sound (he : flag d (svcEn recv p s) = false) (h : bitOf v 63 = true) (h2 : 2 ≤ bits v 51 48)
    (h12 : bits v 51 48 ≤ 12) (ok : svcRingOk (svcRingBased d p s recv v) p s recv = true) :
    svcRingWrite d p s recv v = setF (svcRingBased d p s recv v) (svcEn recv p s) 1 := by
  rw [svcRingWrite, he, h]
  simp only [Bool.false_and, Bool.false_eq_true, if_false, if_pos (And.intro h2 h12), if_true]
  exact if_pos ok

/-- A ring is disabled, whatever base and size the store left. -/
theorem svcRingWrite_of_clearing (he : flag d (svcEn recv p s) = true) (h : bitOf v 63 = false) :
    ∃ e, svcRingWrite d p s recv v = if recv then setF (setF e (svcEn recv p s) 0) (svcHead recv p s) 0
      else svcAbort (setF (setF e (svcEn recv p s) 0) (svcHead recv p s) 0) p s := by
  rw [svcRingWrite, he, h]
  exact ⟨_, rfl⟩

theorem svcHead_ne_svcEn : svcHead recv p s ≠ svcEn recv p s := by cases recv <;> simp [svcHead, svcEn]

end

/-! What the completion of a work entry leaves alone -/

theorem svcFinish_svc (d : Dev) (p s : Nat) (e : SvcEntry) (st : Nat) : (svcFinish d p s e st).svc = d.svc := by
  have written (bs : List Byte) : (engineWrite d p e.slot bs).svc = d.svc :=
    (accessed_engineWrite ..).same Dev.svc (fun _ _ _ _ _ _ _ _ _ _ _ _ => rfl)
  have posted (d : Dev) (m n : Nat) : (postMask d m n).svc = d.svc := postMask_same Dev.svc (fun _ _ => rfl) d m n
  have raised (d : Dev) (o : Option Nat) (irq en : FKey) : (raise d o irq en).svc = d.svc := raise_same Dev.svc (fun _ _ _ => rfl) d o irq en
  simp only [svcFinish, apply_ite Dev.svc, written, posted, raised, ite_self]

/-- Its interrupts and what its write notes apart, no register changes. -/
theorem getF_svcFinish {p s : Nat} {k : FKey} (ha : ¬ IsAccessReg k.reg) (hi : k.reg ≠ .svcIrq p s) (d : Dev) (e : SvcEntry) (st : Nat) :
    getF (svcFinish d p s e st) k = getF d k := by
  have written (bs : List Byte) : getF (engineWrite d p e.slot bs) k = getF d k := (accessed_engineWrite ..).field k ha
  have posted (d : Dev) (m n : Nat) : getF (postMask d m n) k = getF d k := postMask_same (getF · k) (fun _ _ => rfl) d m n
  have raised (d : Dev) (o : Option Nat) (lo : Nat) (en : FKey) : getF (raise d o ⟨.svcIrq p s, lo⟩ en) k = getF d k :=
    (getF_raise ..).trans (getF_setF_of_ne _ _ (FKey.ne_of_reg hi.symm))
  simp only [svcFinish, apply_ite (getF · k), written, posted, raised, ite_self]

theorem svcOf_svcAbort (d : Dev) (p s : Nat) : svcOf (svcAbort d p s) p s = [] := by
  have gone : (svcAbort d p s).svc = Tab.erase d.svc (p, s) := forEach_same Dev.svc (fun _ _ => svcFinish_svc ..) _ _
  rw [svcOf, gone, Tab.get?_erase_same]
  rfl

theorem getF_svcAbort {p s : Nat} {k : FKey} (ha : ¬ IsAccessReg k.reg) (hi : k.reg ≠ .svcIrq p s) (d : Dev) :
    getF (svcAbort d p s) k = getF d k := forEach_same (getF · k) (fun _ _ => getF_svcFinish ha hi ..) _ _

/-- A ring disabled: en and head are 0, and of a work ring nothing is left in flight. -/
theorem ringDisabled_svcRingWrite {d : Dev} {p s v : Nat} {recv : Bool} (he : flag d (svcEn recv p s) = true) (h : bitOf v 63 = false) :
    getF (svcRingWrite d p s recv v) (svcEn recv p s) = 0 ∧ getF (svcRingWrite d p s recv v) (svcHead recv p s) = 0 ∧
      (recv = false → svcOf (svcRingWrite d p s recv v) p s = []) := by
  obtain ⟨e, he⟩ := svcRingWrite_of_clearing he h
  rw [he]
  have off : getF (setF (setF e (svcEn recv p s) 0) (svcHead recv p s) 0) (svcEn recv p s) = 0 := by
    rw [getF_setF_of_ne _ _ svcHead_ne_svcEn, getF_setF_same, Nat.zero_mod]
  have first : getF (setF (setF e (svcEn recv p s) 0) (svcHead recv p s) 0) (svcHead recv p s) = 0 := by
    rw [getF_setF_same, Nat.zero_mod]
  cases recv with
  | true => exact ⟨off, first, nofun⟩
  | false =>
    exact ⟨(getF_svcAbort (by simp [IsAccessReg, svcEn]) (by simp [svcEn]) _).trans off,
      (getF_svcAbort (by simp [IsAccessReg, svcHead]) (by simp [svcHead]) _).trans first, fun _ => svcOf_svcAbort ..⟩

/-! Work entries taken (R388, Table 16.12) -/

/-- The entry at the head of a work ring, as memory shows it. -/
def workAtHead (d : Dev) (p s : Nat) : SvcEntry :=
  ⟨svcSlot d false p s, (List.range 8).map (fun i => viewNat d p (svcSlot d false p s + 8 * i) 8), none⟩

/-- The ring as the engine takes the entry at its head. -/
def headPassed (d : Dev) (p s : Nat) : Dev := svcAdvance (noteRead d p (svcSlot d false p s) 64) false p s

/-- The entry at the head is in flight with a status, or none yet. -/
def headTaken (d : Dev) (p s : Nat) (st : Option Nat) : Dev :=
  { headPassed d p s with
    svc := Tab.put (headPassed d p s).svc (p, s) (svcOf (headPassed d p s) p s ++ [{ workAtHead d p s with status := st }]) }

/-- The packets of the entry at the head go out. -/
def headSent (d : Dev) (p s : Nat) : Dev :=
  { headTaken d p s none with
    svcOut := (svcPackets (headTaken d p s none) p s (workAtHead d p s)).reverse ++ (headTaken d p s none).svcOut }

theorem headPassed_eq (d : Dev) (p s : Nat) : headPassed d p s = setF (noteRead d p (svcSlot d false p s) 64) (F.svcWhead_head p s)
    ((getF d (F.svcWhead_head p s) + 1) % 2 ^ getF d (F.svcWring_size_log2 p s)) := by
  have seen (k : FKey) (h : ¬ IsAccessReg k.reg) : getF (noteRead d p (svcSlot d false p s) 64) k = getF d k := (accessed_noteRead ..).field k h
  rw [headPassed, svcAdvance, seen _ (by simp [IsAccessReg, svcHead]), seen _ (by simp [IsAccessReg, svcSize])]
  rfl

/-- An entry of the op is owned and new at the head of an enabled ring in banks that admit the engine, and nothing it needs is held. -/
structure HeadOffered (d : Dev) (p s op : Nat) : Prop where
  enabled : flag d (F.svcWring_en p s) = true
  owned : bitOf (nth (workAtHead d p s).words 0) 0 = true
  op : (workAtHead d p s).op = op
  slot : heldRange d p (svcSlot d false p s) 64 = false
  buffer : heldRange d p (workAtHead d p s).laddr (workAtHead d p s).bytes = false
  fresh : ∀ x ∈ svcOf d p s, x.slot ≠ svcSlot d false p s
  banks : shutBanks d (svcSlot d false p s) 64 = []

section
variable {d : Dev} {p s op : Nat} (h : HeadOffered d p s op)
include h

/-- The engine takes what is offered, its checks made. -/
theorem svcRun_of_offered : svcRun op p s d =
    let e := { workAtHead d p s with status := svcCheck d p s (workAtHead d p s) }
    let t := headTaken d p s e.status
    if e.status.isSome then (if e.status = some 0x12 then denyFirst t p [(e.laddr, e.bytes)] else t)
    else if op != 5 && !qpReady t p s e.qp then denyFirst t p [(qpAddr t p s e.qp, 64)]
    else
      let t' := { t with svcOut := (svcPackets t p s e).reverse ++ t.svcOut }
      let t' := if op = 5 then t' else qpAdvance t' p s e.qp (packetCount t p s e.qp e.bytes) 0
      if op = 4 then t' else noteRead t' p e.laddr e.bytes := by
  have new : (svcOf d p s).any (fun x => x.slot == svcSlot d false p s) = false := by
    simpa only [List.any_eq_false, beq_iff_eq] using h.fresh
  have taken : (flag d (F.svcWring_en p s) && bitOf (nth (workAtHead d p s).words 0) 0 &&
      ((workAtHead d p s).op == op || decide ((workAtHead d p s).op > 5)) && !(svcOf d p s).any (fun x => x.slot == svcSlot d false p s)) = true := by
    rw [h.enabled, h.owned, h.op, new, beq_self_eq_true]
    rfl
  unfold svcRun
  extract_lets a e
  rw [if_neg (by simp [a, h.banks]), if_neg (by simp [a, h.slot])]
  refine (if_pos taken).trans ?_
  rw [if_neg (Bool.not_eq_true _ ▸ h.buffer)]
  rfl

theorem svcRun_of_failed {st : Nat} (hc : svcCheck d p s (workAtHead d p s) = some st) : svcRun op p s d =
    if st = 0x12 then denyFirst (headTaken d p s (some st)) p [((workAtHead d p s).laddr, (workAtHead d p s).bytes)]
    else headTaken d p s (some st) := by
  rw [svcRun_of_offered h, hc]
  simp only [Option.isSome_some, if_true, Option.some.injEq]
  rfl

variable (hc : svcCheck d p s (workAtHead d p s) = none)
include hc

theorem svcRun_of_unready (h5 : op ≠ 5) (hq : qpReady (headTaken d p s none) p s (workAtHead d p s).qp = false) : svcRun op p s d =
    denyFirst (headTaken d p s none) p [(qpAddr (headTaken d p s none) p s (workAtHead d p s).qp, 64)] := by
  rw [svcRun_of_offered h, hc]
  refine (if_neg Bool.false_ne_true).trans (if_pos ?_)
  rw [bne_iff_ne.2 h5]
  exact congrArg not hq

theorem svcRun_of_ready (hq : op = 5 ∨ qpReady (headTaken d p s none) p s (workAtHead d p s).qp = true) : svcRun op p s d =
    let t := if op = 5 then headSent d p s else qpAdvance (headSent d p s) p s (workAtHead d p s).qp
      (packetCount (headTaken d p s none) p s (workAtHead d p s).qp (workAtHead d p s).bytes) 0
    if op = 4 then t else noteRead t p (workAtHead d p s).laddr (workAtHead d p s).bytes := by
  have goes : ¬ (op != 5 && !qpReady (headTaken d p s none) p s (workAtHead d p s).qp) = true := by
    rcases hq with rfl | hq
    · simp
    · simp [hq]
  rw [svcRun_of_offered h, hc]
  exact (if_neg Bool.false_ne_true).trans (if_neg goes)

end

/-! Work entries completed (R388) -/

/-- The i-th entry leaves the ring. -/
def entryLeft (d : Dev) (p s i : Nat) : Dev := { d with svc := Tab.put d.svc (p, s) ((svcOf d p s).eraseIdx i) }

/-- What the outcome of an entry that was sent does: the bytes it read, or an error of its QP. -/
def outcomeTaken (d : Dev) (p s : Nat) (e : SvcEntry) : WorkResult → Dev
  | .ok data => if e.op = 4 then engineWrite d p e.laddr (padTo e.bytes data) else d
  | .remote nak => qpError (if nak then addF d (F.svcStat_naks p s) 1 else d) p s e.qp
  | .key => qpError (addF d (F.svcStat_naks p s) 1) p s e.qp

section
variable {d : Dev} {p s i : Nat} {e : SvcEntry} (he : (svcOf d p s)[i]? = some e) (hw : heldWrite d p e.slot 64 = false)
  (ho : ((svcOf d p s).take i).any (fun x => x.op != 5 && x.qp == e.qp) = false)

include he hw ho

/-- An entry completes in its turn: decided at pickup, or by its outcome; a datagram only once it has gone. -/
theorem svcComplete_of_turn {res : WorkResult} (hr : e.op ≠ 4 ∨ heldWrite d p e.laddr e.bytes = false)
    (hu : e.status = none → e.op = 5 → workStatus res = 1) : svcComplete d p s i res =
      svcFinish (if e.status.isSome then entryLeft d p s i else outcomeTaken (entryLeft d p s i) p s e res) p s e
        (e.status.getD (workStatus res)) := by
  have goes : (e.status.isNone && e.op == 5 && e.status.getD (workStatus res) != 1) = false := by
    cases hs : e.status with
    | some st => rfl
    | none =>
      by_cases h5 : e.op = 5
      · simp [h5, hu hs h5]
      · simp [h5]
  have free : (heldWrite d p e.slot 64 || (e.op == 4 && heldWrite d p e.laddr e.bytes)) = false := by
    rcases hr with h4 | hb
    · simp [hw, h4]
    · simp [hw, hb]
  rw [svcComplete, he]
  simp only [ho, goes, free, Bool.and_false, Bool.or_self, Bool.false_eq_true, if_false]
  cases e.status with
  | some st => rfl
  | none => cases res <;> rfl

theorem svcComplete_of_decided {st : Nat} (hs : e.status = some st) (hr : e.op ≠ 4 ∨ heldWrite d p e.laddr e.bytes = false)
    (res : WorkResult) : svcComplete d p s i res = svcFinish (entryLeft d p s i) p s e st := by
  rw [svcComplete_of_turn he hw ho hr (by simp [hs]), hs]
  rfl

theorem svcComplete_of_outcome {res : WorkResult} (hs : e.status = none) (hr : e.op ≠ 4 ∨ heldWrite d p e.laddr e.bytes = false)
    (hu : e.op = 5 → workStatus res = 1) :
    svcComplete d p s i res = svcFinish (outcomeTaken (entryLeft d p s i) p s e res) p s e (workStatus res) := by
  rw [svcComplete_of_turn he hw ho hr (fun _ => hu), hs]
  rfl

end

/-- Settles O55: what each command finds decides which of the laws above it follows. -/
theorem serviceRings : Obligations.ServiceRings := by
  intro s p q v hg
  extract_lets d n based a e next taken packets sent offered ready live out rows
  have passed : headPassed d p q = next := headPassed_eq d p q
  have taking (st : Option Nat) : headTaken d p q st =
      { next with svc := Tab.put next.svc (p.val, q.val) (svcOf next p q ++ [{ e with status := st }]) } := by
    rw [headTaken, passed]
    rfl
  have offer {op : Nat} (h : offered op) : HeadOffered d p q op := by
    obtain ⟨hen, hown, hop, hslot, hbuf, hnew, hopen⟩ := h
    exact ⟨hen, hown, hop, hslot, hbuf, hnew, hopen⟩
  have enabling {recv : Bool} {t : Dev} (h : bitOf v.toNat 63 = true) (ht : svcRingWrite d p q recv v.toNat = t) :
      exec (.svcRingEnable p q recv v) s = out t := (exec_svcRingEnable hg p q recv h).trans (congrArg out ht)
  have row {op : Nat} {i : Instr} {t : Dev} (hi : rows[op]? = some i) (ht : svcRun op p q d = t) : exec i s = out t :=
    (exec_workEntry hg p q hi).trans (congrArg out ht)
  have runs {op : Nat} (h : ready op) (hq : op = 5 ∨ live) : svcRun op p q d =
      let t := if op = 5 then packets else sent
      if op = 4 then t else noteRead t p e.laddr e.bytes := by
    rw [svcRun_of_ready (offer h.1) h.2 (by rwa [taking none]), headSent, taking none]
    rfl
  have sends {op : Nat} (h : ready op) (hl : live) (h4 : op ≠ 4) (h5 : op ≠ 5) : svcRun op p q d = noteRead sent p e.laddr e.bytes :=
    (runs h (.inr hl)).trans (by simp only [if_neg h4, if_neg h5])
  refine ⟨fun recv hen h63 h2 h12 hok => enabling h63 (svcRingWrite_of_sound hen h63 h2 h12 hok),
    fun recv hen h63 => enabling h63 (svcRingWrite_of_enabled hen h63),
    fun recv hen h63 => ⟨_, exec_svcRingDisable hg p q recv h63, ?_⟩,
    fun h hl => row (op := 0) rfl (sends h hl (by decide) (by decide)), fun h hl => row (op := 1) rfl (sends h hl (by decide) (by decide)),
    fun h hl => row (op := 2) rfl (sends h hl (by decide) (by decide)), fun h hl => row (op := 3) rfl (sends h hl (by decide) (by decide)),
    fun h hl => row (op := 4) rfl (runs h (.inr hl)), fun h => row (op := 5) rfl (runs h (.inl rfl)),
    fun op i hi => ⟨fun h h5 hl => row hi ?_, fun st h hc => row hi ?_⟩, fun i x res hx hw ho => ?_⟩
  · obtain ⟨hen, hhead, hflight⟩ := ringDisabled_svcRingWrite (v := v.toNat) hen h63
    exact ⟨hen, hhead, hflight, rfl⟩
  · rw [svcRun_of_unready (offer h.1) h.2 h5 (by rw [taking none]; exact Bool.not_eq_true _ ▸ hl), taking none]
    rfl
  · rw [svcRun_of_failed (offer h) hc, taking (some st)]
    rfl
  · have completes {t : Dev} (ht : svcComplete d p q i res = t) : exec (.workEntryComplete p q i res) s = out t :=
      (exec_workEntryComplete hg p q i res).trans (congrArg out ht)
    intro rest
    refine ⟨fun st hs hr => completes (svcComplete_of_decided hx hw ho hs hr res), fun data hs hres h4 => completes ?_,
      fun data hs hres h4 hb => completes ?_, fun hs h5 hr => ?_⟩
    · rw [svcComplete_of_outcome hx hw ho hs (.inl h4) (by simp [hres, workStatus]), hres, outcomeTaken, if_neg h4]
      rfl
    · rw [svcComplete_of_outcome hx hw ho hs (.inr hb) (by simp [hres, workStatus]), hres, outcomeTaken, if_pos h4]
      rfl
    · have refuses := svcComplete_of_outcome (res := res) hx hw ho hs hr (fun h => absurd h h5)
      refine ⟨?_, ?_, ?_⟩
      all_goals
        rintro rfl
        exact completes refuses

end Sys2Proof.Machine
end

section
namespace Sys2Proof.Machine

/-! Packets that come in at a service port (R387, R388) -/

theorem exec_servicePacketReceive {s : State} (hg : s.dev.powerGood = true) (q : SvcId) (m : ServicePacket) :
    exec (.servicePacketReceive q m) s = .next { s with dev := svcReceive s.dev q m } :=
  congrArg Host.Outcome.next (onDev_of_good hg)

/-! A message for the receive entry at the head -/

section
variable {d : Dev} {p s qp imm : Nat} {data : List Byte}

theorem deliver_of_no_entry (h : recvEntry d p s = none) : deliver d p s qp imm data true =
    svcNak (denyFirst d p (if flag d (F.svcRring_en p s) then [(svcSlot d true p s, 32)] else [])) p s 9 qp := by
  rw [deliver, h]
  rfl

/-- The entry has room in memory that may be written now, and so may its own slot. -/
theorem deliver_of_entry {b size : Nat} (h : recvEntry d p s = some (b, size)) (hn : data.length ≤ size)
    (hm : rangeMapped d p b data.length = true) (ho : shutBanks d b data.length = []) (hb : heldWrite d p b data.length = false)
    (hs : heldWrite d p (svcSlot d true p s) 32 = false) (answers : Bool) : deliver d p s qp imm data answers =
      if answers then svcAck (fillRecv (engineWrite d p b data) p s data.length imm) p s qp data.length
      else fillRecv (engineWrite d p b data) p s data.length imm := by
  have fits : ¬(size < data.length ∨ rangeMapped d p b data.length = false) := by simp [hm, hn]
  rw [deliver, h]
  simp only [if_neg fits, ho, hb, hs, List.isEmpty_nil, Bool.not_true, Bool.or_self, Bool.false_eq_true, if_false]

/-! A request with a key -/

variable {key a n acc : Nat} {run : Dev → Dev}

theorem keyed_of_not_ready (h : qpReady d p s qp = false) : keyed d p s qp key a n acc run =
    svcNak (denyFirst d p [(qpAddr d p s qp, 64)]) p s 7 qp := by
  rw [keyed, h]
  rfl

theorem keyed_of_refused (h : qpReady d p s qp = true) (hk : keyAdmits d p s key a n acc = false) : keyed d p s qp key a n acc run =
    svcNak (denyFirst d p [(keyAddr d p s key, 32), (a, n)]) p s 8 qp := by
  rw [keyed, h, hk]
  rfl

theorem keyed_write_of_admitted (h : qpReady d p s qp = true) (hk : keyAdmits d p s key a n 1 = true) (hw : heldWrite d p a n = false) :
    keyed d p s qp key a n 1 run = run d := by
  rw [keyed, h, hk, hw]
  rfl

theorem keyed_read_of_admitted (h : qpReady d p s qp = true) (hk : keyAdmits d p s key a n 0 = true) (hr : heldRange d p a n = false) :
    keyed d p s qp key a n 0 run = run d := by
  rw [keyed, h, hk, hr]
  rfl

end

/-- An RDMA WRITE that its key admits: its bytes, with immediate data a receive entry too, and the answer. -/
def writeTaken (p s qp a : Nat) (data : List Byte) (imm : Option (BitVec 32)) (d : Dev) : Dev :=
  match imm with
  | none => svcAck (engineWrite d p a data) p s qp data.length
  | some x =>
    if (recvEntry d p s).isNone then
      svcNak (denyFirst d p (if flag d (F.svcRring_en p s) then [(svcSlot d true p s, 32)] else [])) p s 9 qp
    else if heldWrite d p (svcSlot d true p s) 32 then steadyBroken d
    else svcAck (fillRecv (engineWrite d p a data) p s data.length x.toNat) p s qp data.length

/-- An RDMA READ that its key admits: the bytes as the answer, on one sequence number for each of its packets. -/
def readTaken (p s qp a n : Nat) (d : Dev) : Dev :=
  qpAdvance (svcReply (noteRead d p a n) p s 6 qp (qpSeqs d p s qp).2 (viewRead d p a n)) p s qp 0 (packetCount d p s qp n)

section
variable {d : Dev} {p : PartId} {s qp : Nat} {data : List Byte}

theorem svcReceive_rdmaWrite (key : BitVec 32) (a : Word) (imm : Option (BitVec 32)) : svcReceive d s (.rdmaWrite p qp key a imm data) =
    keyed d p s qp key.toNat a.toNat data.length 1 (writeTaken p s qp a.toNat data imm) := by
  cases imm <;> rfl

theorem svcReceive_rdmaRead (key : BitVec 32) (a : Word) (n : Nat) : svcReceive d s (.rdmaRead p qp key a n) =
    keyed d p s qp key.toNat a.toNat n 0 (readTaken p s qp a.toNat n) := rfl

theorem svcReceive_send_of_ready (h : qpReady d p s qp = true) (imm : Option (BitVec 32)) : svcReceive d s (.send p qp imm data) =
    deliver d p s qp (match imm with | some x => x.toNat | none => 0) data true := if_pos h

theorem svcReceive_send_of_not_ready (h : qpReady d p s qp = false) (imm : Option (BitVec 32)) :
    svcReceive d s (.send p qp imm data) = svcNak (denyFirst d p [(qpAddr d p s qp, 64)]) p s 7 qp := by
  refine if_neg ?_
  rw [h]
  exact Bool.false_ne_true

theorem svcReceive_udp_of_short (h : data.length ≤ 8952) (port : BitVec 16) :
    svcReceive d s (.udp p port data) = deliver d p s 0 0 data false := if_pos h

theorem svcReceive_udp_of_long (h : 8952 < data.length) (port : BitVec 16) : svcReceive d s (.udp p port data) = d :=
  if_neg (Nat.not_le.2 h)

variable {key : BitVec 32} {a : Word} (h : qpReady d p s qp = true)
include h

theorem svcReceive_rdmaWrite_of_admitted (hk : keyAdmits d p s key.toNat a.toNat data.length 1 = true)
    (hw : heldWrite d p a.toNat data.length = false) :
    svcReceive d s (.rdmaWrite p qp key a none data) = svcAck (engineWrite d p a.toNat data) p s qp data.length := by
  rw [svcReceive_rdmaWrite, keyed_write_of_admitted h hk hw, writeTaken]

/-- Immediate data fill the receive entry at the head once the bytes are written. -/
theorem svcReceive_rdmaWrite_immediate_of_admitted (hk : keyAdmits d p s key.toNat a.toNat data.length 1 = true)
    (hw : heldWrite d p a.toNat data.length = false) (he : (recvEntry d p s).isSome = true)
    (hs : heldWrite d p (svcSlot d true p s) 32 = false) (imm : BitVec 32) :
    svcReceive d s (.rdmaWrite p qp key a (some imm) data) =
      svcAck (fillRecv (engineWrite d p a.toNat data) p s data.length imm.toNat) p s qp data.length := by
  have entry : (recvEntry d p s).isNone = false := by simp [← Option.not_isSome, he]
  rw [svcReceive_rdmaWrite, keyed_write_of_admitted h hk hw, writeTaken, entry, hs]
  rfl

theorem svcReceive_rdmaRead_of_admitted {n : Nat} (hk : keyAdmits d p s key.toNat a.toNat n 0 = true)
    (hr : heldRange d p a.toNat n = false) : svcReceive d s (.rdmaRead p qp key a n) = readTaken p s qp a.toNat n d := by
  rw [svcReceive_rdmaRead, keyed_read_of_admitted h hk hr]

end

/-- Settles O56: a packet is answered by what its QP, its key and the receive ring allow. -/
theorem servicePackets : Obligations.ServicePackets := by
  intro s p q qp key a data hg
  extract_lets d out nak ack up noEntry noQp free recv slotFree
  have answered {m : ServicePacket} {e : Dev} (h : svcReceive d q m = e) : recv m = out e :=
    (exec_servicePacketReceive hg q m).trans (congrArg out h)
  refine ⟨⟨answered rfl, answered rfl, answered rfl⟩, fun imm h => answered (svcReceive_send_of_not_ready h imm),
    fun imm h he => answered ((svcReceive_send_of_ready h imm).trans (deliver_of_no_entry he)),
    fun b size imm h he hn ⟨hm, ho, hb⟩ hs => ?_, fun h imm => answered ((svcReceive_rdmaWrite key a imm).trans (keyed_of_not_ready h)),
    fun h hk imm => answered ((svcReceive_rdmaWrite key a imm).trans (keyed_of_refused h hk)),
    fun h hk hw => ⟨answered (svcReceive_rdmaWrite_of_admitted h hk hw), fun imm he hs =>
      answered (svcReceive_rdmaWrite_immediate_of_admitted h hk hw he hs imm)⟩,
    fun n h hk hr => answered (svcReceive_rdmaRead_of_admitted h hk hr), fun port hn => answered (svcReceive_udp_of_long hn port),
    fun port b size hl he hn ⟨hm, ho, hb⟩ hs => ?_⟩
  · exact answered ((svcReceive_send_of_ready h imm).trans (deliver_of_entry he hn hm ho hb hs true))
  · exact answered ((svcReceive_udp_of_short hl port).trans (deliver_of_entry he hn hm ho hb hs false))

end Sys2Proof.Machine
end

section
namespace Sys2Proof.Machine

/-! The mover's rings (R238, R250, R251) -/

section
variable {s : State} (hg : s.dev.powerGood = true) (p : PartId)
include hg

theorem exec_moverRingEnable {v : Word} (hv : bitOf v.toNat 63 = true) :
    exec (.moverRingEnable p v) s = .next { s with dev := moverRingWrite s.dev p v.toNat } :=
  congrArg Host.Outcome.next ((onDev_of_good hg).trans (by rw [if_pos hv]))

theorem exec_moverRingDisable {v : Word} (hv : bitOf v.toNat 63 = false) :
    exec (.moverRingDisable p v) s = .next { s with dev := moverRingWrite s.dev p v.toNat } :=
  congrArg Host.Outcome.next ((onDev_of_good hg).trans (by rw [hv]; rfl))

theorem exec_moverEntryPickup : exec (.moverEntryPickup p) s = .next { s with dev := pickEntry s.dev p } :=
  congrArg Host.Outcome.next (onDev_of_good hg)

theorem exec_moverEntryResolve (i : Nat) : exec (.moverEntryResolve p i) s = .next { s with dev := settleEntry s.dev p i } :=
  congrArg Host.Outcome.next (onDev_of_good hg)

end

section
variable {d : Dev} {p v : Nat}

/-- Base and size as a store of v gives them, of a size that is not reserved. -/
def moverRingBased (d : Dev) (p v : Nat) : Dev := setF (setF d (F.hbmMring_base p) (bits v 47 5)) (F.hbmMring_size_log2 p) (bits v 51 48)

theorem getF_moverRingBased_base (d : Dev) (p v : Nat) : getF (moverRingBased d p v) (F.hbmMring_base p) = bits v 47 5 := by
  rw [moverRingBased, getF_setF_of_ne _ _ (by simp), getF_setF_bits _ rfl]

theorem getF_moverRingBased_size (d : Dev) (p v : Nat) : getF (moverRingBased d p v) (F.hbmMring_size_log2 p) = bits v 51 48 :=
  getF_setF_bits _ rfl v

/-- A store that enables a ring that is off: the ring must lie in the HBM window. -/
theorem moverRingWrite_of_enabling (hen : flag d (F.hbmMring_en p) = false) (hv : bitOf v 63 = true) (h2 : 2 ≤ bits v 51 48)
    (h12 : bits v 51 48 ≤ 12) : moverRingWrite d p v =
      if 32 * bits v 47 5 + 32 * 2 ^ bits v 51 48 ≤ 0x014000000000 then setF (moverRingBased d p v) (F.hbmMring_en p) 1
      else setF (moverRingBased d p v) (F.hbmMstat_ring_err p) 1 := by
  unfold moverRingWrite
  extract_lets en n put based a size
  have hb : based = moverRingBased d p v := if_pos ⟨h2, h12⟩
  have ha : a = 32 * bits v 47 5 := by simp only [a, hb, getF_moverRingBased_base]
  have hs : size = bits v 51 48 := by simp only [size, hb, getF_moverRingBased_size]
  rw [hen, if_neg Bool.false_ne_true, show en = true from hv, hs, ha, hb]
  simp only [h2, h12, true_and, Bool.not_true, Bool.false_eq_true, if_false]

theorem moverRingWrite_of_enabled (hen : flag d (F.hbmMring_en p) = true) (hv : bitOf v 63 = true) :
    moverRingWrite d p v = setF d (F.hbmMstat_wr_err p) 1 := by
  simp only [moverRingWrite, hen, hv, if_true]

/-- A ring that is cleared stops; then the store's base counts, and its size unless that is reserved. -/
theorem moverRingWrite_of_clearing (hen : flag d (F.hbmMring_en p) = true) (hv : bitOf v 63 = false) :
    moverRingWrite d p v = if 2 ≤ bits v 51 48 ∧ bits v 51 48 ≤ 12 then moverRingBased (stopMoverRing d p) p v
      else setF (setF (stopMoverRing d p) (F.hbmMring_base p) (bits v 47 5)) (F.hbmMstat_wr_err p) 1 := by
  rw [moverRingWrite, hen, hv]
  rfl

end

/-! An entry resolves (R238) -/

/-- The entry has left the ring, its status and own = 0 in word 0. -/
def entryWritten (d : Dev) (p i st : Nat) (e : MoverEntry) : Dev :=
  viewWriteNat { d with mover := Tab.put d.mover p ((moverOf d p).eraseIdx i) } p e.slot 8
    (e.w0 - bits e.w0 15 8 * 2 ^ 8 - e.w0 % 2 + st * 2 ^ 8)

/-- A late entry is counted. -/
def lateCounted (d : Dev) (p st : Nat) : Dev := if st = 0x02 then satF d (F.hbmMstat_late p) 1 else d

section
variable {d : Dev} {p i st : Nat} {e : MoverEntry}

theorem resolveEntry_of_entry (he : (moverOf d p)[i]? = some e) (st : Nat) : resolveEntry d p i st =
    if cmaskOk (lateCounted (entryWritten d p i st e) p st) p (bits e.w0 47 20) then
      postMask (lateCounted (entryWritten d p i st e) p st) (bits e.w0 47 20) (bits e.w0 19 16)
    else lateCounted (entryWritten d p i st e) p st := by
  rw [resolveEntry, he]
  rfl

theorem accessed_entryWritten (d : Dev) (p i st : Nat) (e : MoverEntry) :
    Accessed { d with mover := Tab.put d.mover p ((moverOf d p).eraseIdx i) } (entryWritten d p i st e) := accessed_viewWrite ..

theorem lateCounted_same {α : Type} (v : Dev → α) (hv : ∀ d f, v { d with f := f } = v d) (d : Dev) (p st : Nat) :
    v (lateCounted d p st) = v d := by
  unfold lateCounted
  split
  · exact hv ..
  · rfl

theorem getF_lateCounted_of_reg {k : FKey} (hk : k.reg ≠ .hbmMstat p) (d : Dev) (st : Nat) : getF (lateCounted d p st) k = getF d k := by
  unfold lateCounted
  split
  · exact getF_setF_of_ne _ _ (FKey.ne_of_reg hk.symm)
  · rfl

/-- A part of the state that neither registers nor posted events make up is as the write of word 0 left it. -/
theorem resolveEntry_same {α : Type} (v : Dev → α) (hv : ∀ d f c, v { d with f := f, cl := c } = v d) (he : (moverOf d p)[i]? = some e)
    (st : Nat) : v (resolveEntry d p i st) = v (entryWritten d p i st e) := by
  have late := lateCounted_same v (fun d f => hv d f d.cl) (entryWritten d p i st e) p st
  rw [resolveEntry_of_entry he]
  split
  · exact (postMask_same v (fun d c => hv d d.f c) ..).trans late
  · exact late

theorem moverOf_resolveEntry (he : (moverOf d p)[i]? = some e) (st : Nat) : moverOf (resolveEntry d p i st) p = (moverOf d p).eraseIdx i := by
  have left : (resolveEntry d p i st).mover = Tab.put d.mover p ((moverOf d p).eraseIdx i) :=
    (resolveEntry_same Dev.mover (fun _ _ _ => rfl) he st).trans
      ((accessed_entryWritten ..).same Dev.mover (fun _ _ _ _ _ _ _ _ _ _ _ _ => rfl))
  rw [moverOf, left, Tab.get?_put_same]
  rfl

theorem getF_resolveEntry {k : FKey} (hm : k.reg ≠ .hbmMstat p) (ha : ¬ IsAccessReg k.reg) (he : (moverOf d p)[i]? = some e) (st : Nat) :
    getF (resolveEntry d p i st) k = getF d k := by
  have counted : getF (lateCounted (entryWritten d p i st e) p st) k = getF d k :=
    (getF_lateCounted_of_reg hm ..).trans ((accessed_entryWritten ..).field k ha)
  rw [resolveEntry_of_entry he]
  split
  · exact (postMask_same (getF · k) (fun _ _ => rfl) ..).trans counted
  · exact counted

/-- The entry is gone and written, counted where it is late, and its event is on its way where its mask is the partition's. -/
structure EntryResolved (d : Dev) (p i st : Nat) (e : MoverEntry) (t : Dev) : Prop where
  left : moverOf t p = (moverOf d p).eraseIdx i
  mem : t.mem = (entryWritten d p i st e).mem
  late : st = 2 → getF t (F.hbmMstat_late p) = min (getF d (F.hbmMstat_late p) + 1) (2 ^ (F.hbmMstat_late p).width - 1)
  posts : cmaskOk d p (bits e.w0 47 20) = true → ∀ c < 28, bitOf (bits e.w0 47 20) c = true →
    (clusterOf t c).posts = (clusterOf d c).posts ++ [(bits e.w0 19 16, 1)]

theorem cmaskOk_congr {d e : Dev} {p : Nat} (h : getF e (F.hostPcfg_clusters p) = getF d (F.hostPcfg_clusters p)) (m : Nat) :
    cmaskOk e p m = cmaskOk d p m := by
  simp only [cmaskOk, ownsCluster, h]

theorem entryResolved_resolveEntry (he : (moverOf d p)[i]? = some e) (st : Nat) : EntryResolved d p i st e (resolveEntry d p i st) := by
  have written := accessed_entryWritten d p i st e
  refine ⟨moverOf_resolveEntry he st, resolveEntry_same Dev.mem (fun _ _ _ => rfl) he st, fun h2 => ?_, fun hm c hc hb => ?_⟩
  · have counted : getF (lateCounted (entryWritten d p i st e) p st) (F.hbmMstat_late p) =
        min (getF d (F.hbmMstat_late p) + 1) (2 ^ (F.hbmMstat_late p).width - 1) := by
      rw [lateCounted, if_pos h2, getF_satF_same, written.field _ (by simp [IsAccessReg])]
      rfl
    rw [resolveEntry_of_entry he, ← counted]
    split
    · exact postMask_same (getF · (F.hbmMstat_late p)) (fun _ _ => rfl) ..
    · rfl
  · have owned : getF (lateCounted (entryWritten d p i st e) p st) (F.hostPcfg_clusters p) = getF d (F.hostPcfg_clusters p) :=
      (getF_lateCounted_of_reg (by simp) ..).trans (written.field _ (by simp [IsAccessReg]))
    have clusters : (lateCounted (entryWritten d p i st e) p st).cl = d.cl := (lateCounted_same Dev.cl (fun _ _ => rfl) ..).trans written.cl
    rw [resolveEntry_of_entry he, cmaskOk_congr owned, if_pos hm, posts_postMask _ _ _ hc, if_pos hb, clusterOf_congr clusters]

end

/-! A ring stops (R250) -/

theorem moverOf_resolveFirst (d : Dev) (p st : Nat) : moverOf (resolveEntry d p 0 st) p = (moverOf d p).drop 1 := by
  cases h : moverOf d p with
  | nil => rw [resolveEntry, h]; exact h
  | cons e r => rw [moverOf_resolveEntry (e := e) (by rw [h]; rfl), h]; rfl

theorem moverOf_resolveFirsts {α : Type} (p st : Nat) (l : List α) (d : Dev) :
    moverOf (forEach l d (fun d _ => resolveEntry d p 0 st)) p = (moverOf d p).drop l.length := by
  induction l generalizing d with
  | nil => rfl
  | cons a r ih =>
    refine (ih (resolveEntry d p 0 st)).trans ?_
    rw [moverOf_resolveFirst, List.drop_drop, List.length_cons, Nat.add_comm]

theorem moverOf_stopMoverRing (d : Dev) (p : Nat) : moverOf (stopMoverRing d p) p = [] :=
  (moverOf_resolveFirsts p 0x16 (List.range (moverOf d p).length) d).trans (by rw [List.length_range, List.drop_length])

/-- A ring that is cleared: en and head are 0, and nothing is picked up. -/
theorem ringDisabled_moverRingWrite {d : Dev} {p v : Nat} (hen : flag d (F.hbmMring_en p) = true) (hv : bitOf v 63 = false) :
    getF (moverRingWrite d p v) (F.hbmMring_en p) = 0 ∧ getF (moverRingWrite d p v) (F.hbmMhead_head p) = 0 ∧
      moverOf (moverRingWrite d p v) p = [] := by
  have off : getF (stopMoverRing d p) (F.hbmMring_en p) = 0 := by
    rw [stopMoverRing, getF_setF_of_ne _ _ (by simp), getF_setF_same, Nat.zero_mod]
  have first : getF (stopMoverRing d p) (F.hbmMhead_head p) = 0 := by rw [stopMoverRing, getF_setF_same, Nat.zero_mod]
  rw [moverRingWrite_of_clearing hen hv]
  split
  · refine ⟨?_, ?_, moverOf_stopMoverRing d p⟩
    · rw [moverRingBased, getF_setF_of_ne _ _ (by simp), getF_setF_of_ne _ _ (by simp), off]
    · rw [moverRingBased, getF_setF_of_ne _ _ (by simp), getF_setF_of_ne _ _ (by simp), first]
  · refine ⟨?_, ?_, moverOf_stopMoverRing d p⟩
    · rw [getF_setF_of_ne _ _ (by simp), getF_setF_of_ne _ _ (by simp), off]
    · rw [getF_setF_of_ne _ _ (by simp), getF_setF_of_ne _ _ (by simp), first]

/-! Pickup (R238) -/

/-- Where the entry at head lies. -/
def moverSlot (d : Dev) (p : Nat) : Nat := 32 * getF d (F.hbmMring_base p) + 32 * getF d (F.hbmMhead_head p)

/-- The entry at head, as memory shows it. -/
def entryAtHead (d : Dev) (p : Nat) : MoverEntry :=
  ⟨moverSlot d p, viewNat d p (moverSlot d p) 8, viewNat d p (moverSlot d p + 8) 8, viewNat d p (moverSlot d p + 16) 8,
    viewNat d p (moverSlot d p + 24) 8, false, none⟩

/-- The ring once the entry at head is read. -/
def moverHeadPassed (d : Dev) (p : Nat) : Dev :=
  setF (noteRead d p (moverSlot d p) 32) (F.hbmMhead_head p) ((getF d (F.hbmMhead_head p) + 1) % 2 ^ getF d (F.hbmMring_size_log2 p))

section
variable {d : Dev} {p : Nat} (hen : flag d (F.hbmMring_en p) = true)
include hen

theorem pickEntry_of_held (hh : heldRange d p (moverSlot d p) 32 = true) : pickEntry d p = steadyBroken d := by
  rw [pickEntry, hen]
  exact if_pos hh

theorem pickEntry_of_owned (hh : heldRange d p (moverSlot d p) 32 = false) (ho : viewNat d p (moverSlot d p) 8 % 2 = 1) : pickEntry d p =
    { moverHeadPassed d p with mover := Tab.put (moverHeadPassed d p).mover p (moverOf (moverHeadPassed d p) p ++
      [{ entryAtHead d p with status := entryStatus (moverHeadPassed d p) p (entryAtHead d p) }]) } := by
  have open' : ¬ heldRange d p (32 * getF d (F.hbmMring_base p) + 32 * getF d (F.hbmMhead_head p)) 32 = true := by
    rw [← moverSlot, hh]
    exact Bool.false_ne_true
  have owned : ¬ viewNat d p (32 * getF d (F.hbmMring_base p) + 32 * getF d (F.hbmMhead_head p)) 8 % 2 = 0 := by
    rw [← moverSlot, ho]
    exact Nat.one_ne_zero
  rw [pickEntry, hen]
  exact (if_neg Bool.false_ne_true).trans ((if_neg open').trans (if_neg owned))

end

/-! Resolution (R238, R239) -/

section
variable {d : Dev} {p i : Nat} {e : MoverEntry} (he : (moverOf d p)[i]? = some e)
include he

theorem settleEntry_of_held (hh : heldWrite d p e.slot 32 = true) : settleEntry d p i = steadyBroken d := by
  rw [settleEntry, he]
  exact if_pos hh

variable (hh : heldWrite d p e.slot 32 = false)
include hh

theorem settleEntry_of_undone (hs : e.status = none) (hd : entryDone d p e = false) : settleEntry d p i = d := by
  rw [settleEntry, he]
  simp only [hh, hs, hd, Bool.false_eq_true, if_false]

theorem settleEntry_of_decided {st : Nat} (hs : e.status = some st) : settleEntry d p i = resolveEntry d p i st := by
  rw [settleEntry, he]
  simp only [hh, hs, Bool.false_eq_true, if_false]

/-- A PREFETCH or PIN done after its deadline is late (Table 10.5). -/
theorem settleEntry_of_done (hs : e.status = none) (hd : entryDone d p e = true) : settleEntry d p i =
    resolveEntry d p i (if (bits e.w0 7 4 = 0 ∨ bits e.w0 7 4 = 2) ∧ e.w3 ≠ 0 ∧ e.w3 < getF d F.fabFtc_ftc then 2 else 1) := by
  have late : (bits e.w0 7 4 % 2 == 0 && decide (bits e.w0 7 4 ≤ 2) && e.deadline != 0 && decide (e.deadline < ftcOf d)) =
      decide ((bits e.w0 7 4 = 0 ∨ bits e.w0 7 4 = 2) ∧ e.w3 ≠ 0 ∧ e.w3 < getF d F.fabFtc_ftc) := by
    have op : bits e.w0 7 4 % 2 = 0 ∧ bits e.w0 7 4 ≤ 2 ↔ bits e.w0 7 4 = 0 ∨ bits e.w0 7 4 = 2 := by omega
    rw [Bool.eq_iff_iff]
    simp only [Bool.and_eq_true, beq_iff_eq, bne_iff_ne, decide_eq_true_eq, and_assoc, ← op]
    rfl
  rw [settleEntry, he]
  simp only [hh, hs, hd, late, Bool.false_eq_true, if_false, if_true, decide_eq_true_eq]

end

/-- Settles O36: each command by the law above that the ring, the head or the entry asks for. -/
theorem moverRings : Obligations.MoverRings := by
  intro s p v hg
  extract_lets d n base based head a word x moved
  have enabling {t : Dev} (hv : bitOf v.toNat 63 = true) (ht : moverRingWrite d p v.toNat = t) :
      exec (.moverRingEnable p v) s = .next { s with dev := t } := (exec_moverRingEnable hg p hv).trans (by rw [ht])
  have picking {t : Dev} (ht : pickEntry d p = t) : exec (.moverEntryPickup p) s = .next { s with dev := t } :=
    (exec_moverEntryPickup hg p).trans (by rw [ht])
  have resolving {i : Nat} {t : Dev} (ht : settleEntry d p i = t) : exec (.moverEntryResolve p i) s = .next { s with dev := t } :=
    (exec_moverEntryResolve hg p i).trans (by rw [ht])
  refine ⟨fun hen hv h2 h12 hr => enabling hv ((moverRingWrite_of_enabling hen hv h2 h12).trans (if_pos hr)),
    fun hen hv h2 h12 hr => enabling hv ((moverRingWrite_of_enabling hen hv h2 h12).trans (if_neg (Nat.not_le.2 hr))),
    fun hen hv => enabling hv (moverRingWrite_of_enabled hen hv), fun hen hv => ⟨_, exec_moverRingDisable hg p hv, ?_⟩,
    fun hen hh ho => picking (pickEntry_of_owned hen hh ho), fun hen hh => picking (pickEntry_of_held hen hh),
    fun i e he hh => ?_, fun i e he hh => resolving (settleEntry_of_held he hh)⟩
  · obtain ⟨off, first, none⟩ := ringDisabled_moverRingWrite hen hv
    exact ⟨off, first, none, rfl⟩
  · intro late
    refine ⟨fun hs hd => resolving (settleEntry_of_undone he hh hs hd), fun st hst => ⟨_, resolving (t := resolveEntry d p i st) ?_, ?_⟩⟩
    · rcases hst with hs | ⟨hs, hd, hst⟩
      · exact settleEntry_of_decided he hh hs
      · rw [settleEntry_of_done he hh hs hd, hst]
        simp only [late, decide_eq_true_eq]
    · obtain ⟨left, mem, late, posts⟩ := entryResolved_resolveEntry he st
      exact ⟨left, rfl, mem, late, posts⟩

end Sys2Proof.Machine
end

section
namespace Sys2Proof.Machine

/-! The bytes of a page that is copied -/

/-- A load in canonical form stands over what was there, but for bytes it does not list. -/
theorem memGet_foldl_load {cs : List Host.Cell} (hc : Memory.wf cs = true) (a : Nat) {n i : Nat} (hi : i < n) {m : List Host.Cell}
    (hm : Memory.wf m = true) : memGet (cs.foldl (fun m e => if e.1 < n then memPut m (a + e.1) e.2 else m) m) (a + i) =
      if memGet cs i = 0 then memGet m (a + i) else memGet cs i := by
  induction cs generalizing m with
  | nil => simp [memGet]
  | cons c r ih =>
    obtain ⟨x, b⟩ := c
    obtain ⟨hb, habove, hr⟩ := Memory.wf_cons.1 hc
    have hput : Memory.wf (if x < n then memPut m (a + x) b else m) = true := by
      split
      · exact Memory.wf_memPut _ _ hm
      · exact hm
    rw [List.foldl_cons, ih hr hput]
    by_cases hx : x = i
    · subst hx
      rw [memGet_of_listedAbove habove (Nat.le_refl x), if_pos rfl, if_pos hi, memGet_memPut_same _ _ hm, memGet, if_pos rfl, if_neg hb]
    · have other : memGet (if x < n then memPut m (a + x) b else m) (a + i) = memGet m (a + i) := by
        split
        · exact memGet_memPut_of_ne b hm (by omega)
        · rfl
      simp only [other, memGet, if_neg hx]

theorem memGet_memLoad {m cs : List Host.Cell} (hm : Memory.wf m = true) (hc : Memory.wf cs = true) (a : Nat) {n i : Nat} (hi : i < n) :
    memGet (memLoad m a n cs) (a + i) = memGet cs i := by
  have zero : memGet (memZero m a n) (a + i) = 0 := by rw [memGet_memZero, if_pos ⟨Nat.le_add_right a i, by omega⟩]
  rw [memLoad, memGet_foldl_load hc a hi (Memory.wf_memZero a n hm), zero]
  split
  · next h => exact h.symm
  · rfl

theorem memCells_cons (x : Nat) (b : Byte) (r : List Host.Cell) (a n : Nat) : memCells ((x, b) :: r) a n =
    if a ≤ x ∧ x < a + n then (x - a, b) :: memCells r a n else memCells r a n := by
  by_cases h : a ≤ x ∧ x < a + n <;> simp [memCells, h]

theorem listedAbove_memCells {x a : Nat} (n : Nat) (hx : a ≤ x) {m : List Host.Cell} (h : listedAbove x m = true) :
    listedAbove (x - a) (memCells m a n) = true := by
  simp only [listedAbove, memCells, List.all_eq_true, List.mem_map, List.mem_filter, decide_eq_true_eq] at *
  rintro e ⟨c, ⟨hc, -⟩, rfl⟩
  have := h c hc
  dsimp only
  omega

theorem Memory.wf_memCells {m : List Host.Cell} (a n : Nat) (hm : Memory.wf m = true) : Memory.wf (memCells m a n) = true := by
  induction m with
  | nil => rfl
  | cons c r ih =>
    obtain ⟨x, b⟩ := c
    obtain ⟨hb, habove, hr⟩ := Memory.wf_cons.1 hm
    rw [memCells_cons]
    split
    · next h => exact Memory.wf_cons.2 ⟨hb, listedAbove_memCells n h.1 habove, ih hr⟩
    · exact ih hr

theorem memGet_memCells (m : List Host.Cell) (a : Nat) {n i : Nat} (hi : i < n) : memGet (memCells m a n) i = memGet m (a + i) := by
  induction m with
  | nil => rfl
  | cons c r ih =>
    obtain ⟨x, b⟩ := c
    rw [memCells_cons]
    split
    · have place : x - a = i ↔ x = a + i := by omega
      simp only [memGet, place, ih]
    · have other : x ≠ a + i := by omega
      rw [ih, memGet, if_neg other]

/-- A copy of n bytes shows what stood in their old place. -/
theorem memGet_copied {m : List Host.Cell} (hm : Memory.wf m = true) (a b : Nat) {n i : Nat} (hi : i < n) :
    memGet (memLoad m a n (memCells m b n)) (a + i) = memGet m (b + i) :=
  (memGet_memLoad hm (Memory.wf_memCells b n hm) a hi).trans (memGet_memCells m b hi)

/-! A page's data move to another frame (R231, R235) -/

section
variable {d : Dev} {k : PageKey} {x : Page} (hx : Tab.get? d.pages k = some x) (t : Tier) (f : Nat)
include hx

theorem placePage_of_page : placePage d k t f =
    { copyFrame d x.tier x.frame t f with pages := Tab.put d.pages k { x with tier := t, frame := f } } := by
  rw [placePage, hx]

theorem placePage_pages : (placePage d k t f).pages = Tab.put d.pages k { x with tier := t, frame := f } := by
  rw [placePage_of_page hx]

theorem memGet_placePage (hm : Memory.wf d.mem = true) {i : Nat} (hi : i < pageSize) :
    memGet (placePage d k t f).mem (framePlace t f + i) = memGet d.mem (framePlace x.tier x.frame + i) := by
  rw [placePage_of_page hx]
  exact memGet_copied hm _ _ hi

end

/-- Memory and the pages apart, a page that moves to another frame leaves the state as it was. -/
theorem placePage_same {α : Type} (v : Dev → α) (hv : ∀ d m g, v { d with mem := m, pages := g } = v d) (d : Dev) (k : PageKey) (t : Tier)
    (f : Nat) : v (placePage d k t f) = v d := by
  unfold placePage
  split
  · exact hv d _ _
  · rfl

theorem getF_placePage (d : Dev) (k : PageKey) (t : Tier) (f : Nat) (j : FKey) : getF (placePage d k t f) j = getF d j :=
  placePage_same (getF · j) (fun _ _ _ => rfl) ..

theorem getF_addF_same (d : Dev) (k : FKey) (n : Nat) : getF (addF d k n) k = (getF d k + n) % 2 ^ k.width := getF_setF_same ..

theorem getF_addF_of_ne (d : Dev) {k j : FKey} (n : Nat) (h : k ≠ j) : getF (addF d k n) j = getF d j := getF_setF_of_ne _ _ h

/-! Demand fault-ins and the pool's evictions (R235 to R237, R239) -/

section
variable {s : State} (hg : s.dev.powerGood = true)
include hg

theorem exec_demandFaultIn (p : PartId) (v : Nat) : exec (.demandFaultIn p v) s = .next { s with dev := faultIn s.dev p v } :=
  congrArg Host.Outcome.next (onDev_of_good hg)

theorem exec_poolEviction (p : PartId) : exec (.poolEviction p) s = .next { s with dev := poolEvict s.dev p } :=
  congrArg Host.Outcome.next (onDev_of_good hg)

theorem exec_pageMoveComplete (p : PartId) (w : Tier) (v : Nat) : exec (.pageMoveComplete p w v) s =
    .next (withAudit (fun d => afterSnap (pagesChanged (fun _ => completeMove s.dev (p, w, v)) d) p) s) :=
  congrArg Host.Outcome.next (if_pos hg)

theorem exec_pageAgeSample : exec .pageAgeSample s = .next { s with dev := agePages s.dev } :=
  congrArg Host.Outcome.next (onDev_of_good hg)

end

/-- What a fault-in is noted in: one that waited no longer does, another is counted and breaks steadiness. -/
def faultNoted (d : Dev) (p v : Nat) : Dev :=
  if (p, v) ∈ d.blocked then { d with blocked := d.blocked.erase (p, v) } else steadyBroken (addF d (F.hbmMstat_faultins p) 1)

section
variable {d : Dev} {p v : Nat} {x : Page}

theorem faultIn_of_no_need (hx : pageAt d p .hbm v = some x) (h : x.tier = .hbm ∨ comingIn d p v = true ∨ x.poison ≠ .sound) :
    faultIn d p v = d := by
  rw [faultIn, hx]
  exact if_pos h

section
variable (hx : pageAt d p .hbm v = some x) (ht : x.tier = .cellar) (hc : comingIn d p v = false) (hp : x.poison = .sound)
include hx ht hc hp

/-- A page whose data lie in the cellar: a frame of its own within the quota, else the victim's, else it waits. -/
theorem faultIn_of_away : faultIn d p v =
    if hbmUsed (faultNoted d p v) p < hbmQuota (faultNoted d p v) p then
      (match freeHbm (faultNoted d p v) v with
       | some f => { faultNoted d p v with moves := (faultNoted d p v).moves ++ [⟨(p, .hbm, v), .bring none, f⟩] }
       | none => faultNoted d p v)
    else match victim (faultNoted d p v) p with
      | some e => { faultNoted d p v with moves := (faultNoted d p v).moves ++ [⟨(p, .hbm, v), .swap e.1.2.2, e.2.frame⟩] }
      | none => { faultNoted d p v with blocked := (faultNoted d p v).blocked ++ [(p, v)] } := by
  have away : ¬ (x.tier = .hbm ∨ comingIn d p v = true ∨ x.poison ≠ .sound) := by simp [ht, hc, hp]
  have noted : (if d.blocked.contains (p, v) then { d with blocked := d.blocked.erase (p, v) }
      else steadyBroken (addF d (F.hbmMstat_faultins p) 1)) = faultNoted d p v := by
    simp only [List.contains_iff_mem, faultNoted]
  rw [faultIn, hx]
  dsimp only
  rw [if_neg away, noted] <;> rfl

theorem faultIn_of_room {f : Nat} (hq : hbmUsed (faultNoted d p v) p < hbmQuota (faultNoted d p v) p)
    (hf : freeHbm (faultNoted d p v) v = some f) :
    faultIn d p v = { faultNoted d p v with moves := (faultNoted d p v).moves ++ [⟨(p, .hbm, v), .bring none, f⟩] } := by
  rw [faultIn_of_away hx ht hc hp, if_pos hq, hf]

theorem faultIn_of_victim {y : PageKey × Page} (hq : hbmQuota (faultNoted d p v) p ≤ hbmUsed (faultNoted d p v) p)
    (hy : victim (faultNoted d p v) p = some y) :
    faultIn d p v = { faultNoted d p v with moves := (faultNoted d p v).moves ++ [⟨(p, .hbm, v), .swap y.1.2.2, y.2.frame⟩] } := by
  rw [faultIn_of_away hx ht hc hp, if_neg (Nat.not_lt.2 hq), hy]

theorem faultIn_of_no_victim (hq : hbmQuota (faultNoted d p v) p ≤ hbmUsed (faultNoted d p v) p)
    (hy : victim (faultNoted d p v) p = none) :
    faultIn d p v = { faultNoted d p v with blocked := (faultNoted d p v).blocked ++ [(p, v)] } := by
  rw [faultIn_of_away hx ht hc hp, if_neg (Nat.not_lt.2 hq), hy]

end

/-- The pool evicts when the mover has no other work. -/
theorem poolEvict_of_over {y : PageKey × Page} {f : Nat} (hq : hbmQuota d p < hbmUsed d p - movesOf d p goesOut)
    (hc : clrUsed d p < clrQuota d p) (hd : demandWaits d p = false) (hr : refillWaits d p = false)
    (hm : ∀ i g, (moverOf d p)[i]? = some g → g.op = 0 ∨ g.op = 2 → entryFree d p i = false) (hy : victim d p = some y)
    (hf : freeCellar d = some f) : poolEvict d p = { d with moves := d.moves ++ [⟨y.1, .evict, f⟩] } := by
  have idle : (moverOf d p).zipIdx.any (fun x => (x.1.op == 0 || x.1.op == 2) && entryFree d p x.2) = false := by
    rw [List.any_eq_false]
    rintro ⟨g, i⟩ hgi
    rw [Bool.not_eq_true, Bool.and_eq_false_imp]
    intro hop
    exact hm i g (List.mem_zipIdx_iff_getElem?.1 hgi) (by simpa using hop)
  unfold poolEvict
  simp only [hd, hr, idle, Bool.or_self, and_true, if_pos (And.intro hq hc), hy, beginEvict, hf]

theorem poolEvict_of_within (hq : hbmUsed d p - movesOf d p goesOut ≤ hbmQuota d p) : poolEvict d p = d :=
  if_neg (fun h => Nat.not_lt.2 hq h.1)

end

/-! Copies that end (R235, R237, R242) -/

theorem completeMove_of_move {d : Dev} {k : PageKey} {m : PageMove} (h : d.moves.find? (fun m => m.key == k) = some m) :
    completeMove d k = endMove d k :=
  if_pos (List.any_eq_true.2 ⟨m, List.mem_of_find?_eq_some h, List.find?_some h⟩)

/-- The moves without the one that ends. -/
def moveEnded (d : Dev) (m : PageMove) : Dev := { d with moves := d.moves.erase m }

section
variable {d : Dev} {k : PageKey} {f : Nat}

theorem completeMove_of_evict (h : d.moves.find? (fun m => m.key == k) = some ⟨k, .evict, f⟩) :
    completeMove d k = addF (placePage (moveEnded d ⟨k, .evict, f⟩) k .cellar f) (F.hbmMcnt_evicted k.1) 1 := by
  rw [completeMove_of_move h, endMove, h]
  rfl

theorem completeMove_of_swap {u : Nat} (h : d.moves.find? (fun m => m.key == k) = some ⟨k, .swap u, f⟩) :
    completeMove d k = swapPages (moveEnded d ⟨k, .swap u, f⟩) k (k.1, .hbm, u) := by
  rw [completeMove_of_move h, endMove, h]
  rfl

theorem completeMove_of_bring {t : Option Nat} (h : d.moves.find? (fun m => m.key == k) = some ⟨k, .bring t, f⟩) :
    completeMove d k = arrivePage (moveEnded d ⟨k, .bring t, f⟩) k f t := by
  rw [completeMove_of_move h, endMove, h]
  rfl

end

/-- The page is in its frame and the partition's counter of such moves one higher. -/
def pageBrought (d : Dev) (k : PageKey) (f : Nat) : Dev := addF (placePage d k .hbm f) (F.hbmMcnt_brought k.1) 1

theorem arrivePage_of_page {d : Dev} {k : PageKey} {x : Page} (hx : Tab.get? d.pages k = some x) (f : Nat) (t : Option Nat) :
    arrivePage d k f t = { pageBrought d k f with
      pages := Tab.put (pageBrought d k f).pages k { x with tier := .hbm, frame := f, age := 0, fetched := t }
      blocked := (pageBrought d k f).blocked.erase (k.1, k.2.2) } := by
  have moved : Tab.get? (pageBrought d k f).pages k = some { x with tier := .hbm, frame := f } := by
    rw [pageBrought, addF, setF_pages, placePage_pages hx, Tab.get?_put_same]
  unfold arrivePage
  extract_lets e
  rw [show e = pageBrought d k f from rfl, moved]

section
variable {d : Dev} {p v f : Nat} {x : Page} (hx : pageAt d p .hbm v = some x)
include hx

theorem evictEnded_completeMove (hm : Memory.wf d.mem = true)
    (h : d.moves.find? (fun m => m.key == (p, Tier.hbm, v)) = some ⟨(p, .hbm, v), .evict, f⟩) :
    pageAt (completeMove d (p, .hbm, v)) p .hbm v = some { x with tier := .cellar, frame := f } ∧
      (completeMove d (p, .hbm, v)).moves = d.moves.erase ⟨(p, .hbm, v), .evict, f⟩ ∧
      getF (completeMove d (p, .hbm, v)) (F.hbmMcnt_evicted p) = (getF d (F.hbmMcnt_evicted p) + 1) % 2 ^ (F.hbmMcnt_evicted p).width ∧
      ∀ i < pageSize, memGet (completeMove d (p, .hbm, v)).mem (cellarFrame f + i) = memGet d.mem (framePlace x.tier x.frame + i) := by
  rw [completeMove_of_evict h]
  refine ⟨?_, placePage_same Dev.moves (fun _ _ _ => rfl) .., ?_, fun i hi => ?_⟩
  · rw [pageAt, addF, setF_pages, placePage_pages (d := moveEnded d _) hx, Tab.get?_put_same]
  · rw [getF_addF_same, getF_placePage]
    rfl
  · rw [addF_mem]
    exact memGet_placePage (d := moveEnded d _) hx .cellar f hm hi

theorem bringEnded_completeMove {t : Option Nat} (hm : Memory.wf d.mem = true)
    (h : d.moves.find? (fun m => m.key == (p, Tier.hbm, v)) = some ⟨(p, .hbm, v), .bring t, f⟩) :
    pageAt (completeMove d (p, .hbm, v)) p .hbm v = some { x with tier := .hbm, frame := f, age := 0, fetched := t } ∧
      (completeMove d (p, .hbm, v)).moves = d.moves.erase ⟨(p, .hbm, v), .bring t, f⟩ ∧
      getF (completeMove d (p, .hbm, v)) (F.hbmMcnt_brought p) = (getF d (F.hbmMcnt_brought p) + 1) % 2 ^ (F.hbmMcnt_brought p).width ∧
      ∀ i < pageSize, memGet (completeMove d (p, .hbm, v)).mem (hbmFrame f + i) = memGet d.mem (framePlace x.tier x.frame + i) := by
  rw [completeMove_of_bring h, arrivePage_of_page (d := moveEnded d _) hx]
  refine ⟨Tab.get?_put_same .., placePage_same Dev.moves (fun _ _ _ => rfl) .., ?_, fun i hi => ?_⟩
  · refine (getF_addF_same ..).trans ?_
    rw [getF_placePage]
    rfl
  · exact memGet_placePage (d := moveEnded d _) hx .hbm f hm hi

/-- A page and its victim have changed places. -/
theorem swapEnded_completeMove {u : Nat} {z : Page} (h : d.moves.find? (fun m => m.key == (p, Tier.hbm, v)) = some ⟨(p, .hbm, v), .swap u, f⟩)
    (hu : u ≠ v) (hz : pageAt d p .hbm u = some z) :
    pageAt (completeMove d (p, .hbm, v)) p .hbm v = some { x with tier := z.tier, frame := z.frame, age := 0 } ∧
      pageAt (completeMove d (p, .hbm, v)) p .hbm u = some { z with tier := x.tier, frame := x.frame } ∧
      getF (completeMove d (p, .hbm, v)) (F.hbmMcnt_brought p) = (getF d (F.hbmMcnt_brought p) + 1) % 2 ^ (F.hbmMcnt_brought p).width ∧
      getF (completeMove d (p, .hbm, v)) (F.hbmMcnt_evicted p) = (getF d (F.hbmMcnt_evicted p) + 1) % 2 ^ (F.hbmMcnt_evicted p).width := by
  have hx' : Tab.get? (moveEnded d ⟨(p, .hbm, v), .swap u, f⟩).pages (p, .hbm, v) = some x := hx
  have hz' : Tab.get? (moveEnded d ⟨(p, .hbm, v), .swap u, f⟩).pages (p, .hbm, u) = some z := hz
  have other : ((p, .hbm, u) : PageKey) ≠ (p, .hbm, v) := by simpa using hu
  rw [completeMove_of_swap h, swapPages, hx', hz']
  refine ⟨?_, Tab.get?_put_same .., ?_, ?_⟩
  · exact (Tab.get?_put_of_ne _ _ other).trans (Tab.get?_put_same ..)
  · refine (getF_addF_of_ne _ _ (by simp)).trans ((getF_addF_same ..).trans ?_)
    rfl
  · refine (getF_addF_same ..).trans ?_
    rw [getF_addF_of_ne _ _ (by simp)]
    rfl

end

/-! A listed page is copied for the running snapshot (R239, R242) -/

/-- The snapshot with every listing of page k copied. -/
def Snap.copied (s : Snap) (d : Dev) (k : PageKey) : Snap :=
  { s with pages := s.pages.map (fun e => if e.key = k then e.copy d else e) }

section
variable {d : Dev} {k : PageKey} {x : Page}

theorem pageCells_of_sound (hx : Tab.get? d.pages k = some x) (hp : x.poison = .sound) :
    pageCells d k = some (memCells d.mem (framePlace x.tier x.frame) pageSize) := by
  rw [pageCells, hx]
  exact if_pos hp

theorem SnapPage.copy_of_sound (hx : Tab.get? d.pages k = some x) (hp : x.poison = .sound) {e : SnapPage} (he : e.key = k)
    (hc : e.cells = none) : e.copy d = ⟨k, some (memCells d.mem (framePlace x.tier x.frame) pageSize), x.stamp⟩ := by
  rw [SnapPage.copy, he, hc, pageCells_of_sound hx hp, hx, ← he]

theorem SnapPage.copy_of_copied {e : SnapPage} (hc : e.cells.isSome = true) : e.copy d = e := by
  obtain ⟨cs, hc⟩ := Option.isSome_iff_exists.1 hc
  rw [SnapPage.copy, hc]

theorem SnapPage.copy_key (e : SnapPage) : (e.copy d).key = e.key := by
  unfold SnapPage.copy
  split <;> rfl

theorem completeMove_of_uncopied {z : Snap} (hm : d.moves.any (fun m => m.key == k) = false) (hu : uncopied d k = true)
    (hz : Tab.get? d.snaps k.1 = some z) : completeMove d k = { d with snaps := Tab.put d.snaps k.1 (z.copied d k) } := by
  rw [completeMove, if_neg (by rw [hm]; exact Bool.false_ne_true), copyPage, hz]
  exact if_pos hu

theorem SnapPage.cells_copy_of_sound (hx : Tab.get? d.pages k = some x) (hp : x.poison = .sound) {e : SnapPage} (he : e.key = k) :
    (e.copy d).cells.isSome = true := by
  cases hc : e.cells with
  | none => rw [SnapPage.copy_of_sound hx hp he hc]; rfl
  | some cs => rw [SnapPage.copy_of_copied (by rw [hc]; rfl), hc]; rfl

theorem uncopied_snaps (d : Dev) (k : PageKey) (z : Snap) : uncopied { d with snaps := Tab.put d.snaps k.1 z } k =
    (getF d (F.clrSnap_state k.1) == 1 && z.pages.any (fun e => e.key == k && e.cells.isNone)) := by
  rw [uncopied, Tab.get?_put_same]
  rfl

/-- A sound page is copied, and the snapshot waits for it no longer. -/
theorem uncopied_copied {z : Snap} (hx : Tab.get? d.pages k = some x) (hp : x.poison = .sound) :
    uncopied { d with snaps := Tab.put d.snaps k.1 (z.copied d k) } k = false := by
  rw [uncopied_snaps, Bool.and_eq_false_iff, List.any_eq_false]
  refine .inr fun e he => ?_
  obtain ⟨g, -, rfl⟩ := List.mem_map.1 he
  split
  · next hk =>
    have copied := SnapPage.cells_copy_of_sound hx hp hk
    rw [Option.isSome_iff_ne_none] at copied
    simp [copied]
  · next hk => simp [hk]

end

theorem snap_of_uncopied {d : Dev} {k : PageKey} (h : uncopied d k = true) : ∃ z, Tab.get? d.snaps k.1 = some z := by
  cases hz : Tab.get? d.snaps k.1 with
  | none => simp [uncopied, hz] at h
  | some z => exact ⟨z, rfl⟩

/-- The copy of a listed page stands in the snapshot, and nothing else changes (R242). -/
theorem pageCopied_completeMove {d : Dev} {k : PageKey} {x : Page} (hx : Tab.get? d.pages k = some x) (hp : x.poison = .sound)
    (hm : d.moves.any (fun m => m.key == k) = false) (hu : uncopied d k = true) :
    uncopied (completeMove d k) k = false ∧ (completeMove d k).mem = d.mem ∧ (completeMove d k).pages = d.pages ∧
      ∀ z g, Tab.get? d.snaps k.1 = some z → g ∈ z.pages → g.key = k → g.cells = none →
        ∃ z', Tab.get? (completeMove d k).snaps k.1 = some z' ∧
          ⟨g.key, some (memCells d.mem (framePlace x.tier x.frame) pageSize), x.stamp⟩ ∈ z'.pages := by
  obtain ⟨y, hy⟩ := snap_of_uncopied hu
  rw [completeMove_of_uncopied hm hu hy]
  refine ⟨uncopied_copied hx hp, rfl, rfl, fun z g hz hg hk hc => ⟨_, Tab.get?_put_same .., ?_⟩⟩
  cases hy.symm.trans hz
  refine List.mem_map.2 ⟨g, hg, ?_⟩
  rw [if_pos hk, SnapPage.copy_of_sound hx hp hk hc, hk]

/-! Ages (R231) -/

/-- Every entry of a table changed by a function of its key and value. -/
theorem Tab.get?_map {κ α : Type} [DecidableEq κ] (t : Tab κ α) (g : κ → α → α) (k : κ) :
    Tab.get? (t.map (fun e => (e.1, g e.1 e.2))) k = (Tab.get? t k).map (g k) := by
  induction t with
  | nil => rfl
  | cons e r ih =>
    obtain ⟨x, v⟩ := e
    rw [List.map_cons, Tab.get?, Tab.get?, ih]
    split
    · next h => rw [h, Option.map_some]
    · rfl

theorem pageAt_agePages (d : Dev) (p : Nat) (w : Tier) (v : Nat) :
    pageAt (agePages d) p w v = (pageAt d p w v).map (fun x => { x with age := min 65535 (x.age + 1) }) :=
  Tab.get?_map d.pages (fun _ x => { x with age := min 65535 (x.age + 1) }) (p, w, v)

/-- Settles O38: each command by the law of the case it meets. -/
theorem pageMoves : Obligations.PageMoves := by
  intro s p v x hg
  extract_lets d e away gives moves counted
  have noted : faultNoted d p v = e := rfl
  have faulting {t : Dev} (ht : faultIn d p v = t) : gives t := (exec_demandFaultIn hg p v).trans (by rw [ht])
  have evicting {t : Dev} (ht : poolEvict d p = t) : exec (.poolEviction p) s = .next { s with dev := t } :=
    (exec_poolEviction hg p).trans (by rw [ht])
  have ends : moves (completeMove d (p, .hbm, v)) := exec_pageMoveComplete hg p .hbm v
  refine ⟨fun f ⟨hx, ht, hc, hp⟩ hq hf => faulting (faultIn_of_room hx ht hc hp hq hf),
    fun y ⟨hx, ht, hc, hp⟩ hq hy => faulting (faultIn_of_victim hx ht hc hp hq hy),
    fun ⟨hx, ht, hc, hp⟩ hq hy => faulting (faultIn_of_no_victim hx ht hc hp hq hy), fun hx h => faulting (faultIn_of_no_need hx h),
    fun y f hq hc hd hr hm hy hf => evicting (poolEvict_of_over hq hc hd hr hm hy hf), fun hq => evicting (poolEvict_of_within hq),
    fun f hm hx => ⟨fun h => ⟨_, ends, evictEnded_completeMove hx hm h⟩, fun t h => ⟨_, ends, bringEnded_completeMove hx hm h⟩,
      fun u z h hu hz => ⟨_, ends, swapEnded_completeMove hx h hu hz⟩,
      fun hm hu hp => ⟨_, ends, pageCopied_completeMove hx hp hm hu⟩⟩,
    ⟨_, exec_pageAgeSample hg, rfl, fun q w u y hy => by rw [pageAt_agePages, hy]; rfl⟩⟩

end Sys2Proof.Machine
end

section
namespace Sys2Proof.Machine

/-! What a route through the fabric depends on (R252, R267, R268) -/

/-- The registers that say where a module lies and which of its ports are up. -/
def IsRouteReg (r : Reg) : Prop := r = .fabCoord ∨ r = .fabTorus ∨ r = .fabCfg ∨ ∃ n, r = .fabSlice n ∨ r = .fabPort n

section
variable {d e : Dev} (h : ∀ k : FKey, IsRouteReg k.reg → getF e k = getF d k)
include h

theorem torusSize_congr : torusSize e = torusSize d := by
  funext x
  rw [torusSize, torusSize, h _ (by simp [IsRouteReg])]

theorem sliceSize_congr : sliceSize e = sliceSize d := by
  funext p x
  rw [sliceSize, sliceSize, h _ (by simp [IsRouteReg])]

theorem offsetAt_congr : offsetAt e = offsetAt d := by
  funext p c x
  rw [offsetAt, offsetAt, torusSize_congr h, h _ (by simp [IsRouteReg])]

theorem inSlice_congr : inSlice e = inSlice d := by
  funext p c
  rw [inSlice, inSlice, flag, h _ (by simp [IsRouteReg]), offsetAt_congr h, sliceSize_congr h, ← flag]

theorem axisPort_congr : axisPort e = axisPort d := by
  funext s a b x
  simp only [axisPort, fullAxis, torusSize_congr h, sliceSize_congr h, offsetAt_congr h]
  rfl

theorem ownCoord_congr : ownCoord e = ownCoord d := h _ (by simp [IsRouteReg])

theorem reachable_congr : reachable e = reachable d := by
  funext p dst
  have share : fabShare e p = fabShare d p := by rw [fabShare, fabShare, h _ (by simp [IsRouteReg])]
  have up (n : Nat) : portUp e n = portUp d n := by rw [portUp, portUp, portState, portState, h _ (by simp [IsRouteReg])]
  simp only [reachable, routePort, axisPort_congr h, inSlice_congr h, ownCoord_congr h, share, up]

end

/-! A page's data are lost, or fetched again (R248, R249) -/

/-- What a change of pages brings about depends on what it makes of the state at hand. -/
theorem pagesChanged_at (f : Dev → Dev) (d : Dev) : pagesChanged f d = pagesChanged (fun _ => f d) d := rfl

section
variable {s : State} (hg : s.dev.powerGood = true)
include hg

theorem exec_pagePoison (p : PartId) (w : Tier) (v g row : Nat) : exec (.pagePoison p w v g row) s =
    .next { s with dev := pagesChanged (fun _ => poisonPage s.dev (p, w, v) g row) s.dev } := congrArg Host.Outcome.next (onDev_of_good hg)

theorem exec_refillTimeout (p : PartId) (w : Tier) (v : Nat) : exec (.refillTimeout p w v) s =
    .next { s with dev := pagesChanged (fun _ => timeoutRefill s.dev (p, w, v)) s.dev } := congrArg Host.Outcome.next (onDev_of_good hg)

theorem exec_pageRefillComplete (p : PartId) (w : Tier) (v : Nat) : exec (.pageRefillComplete p w v) s =
    .next (withAudit (fun d => noteWear (afterSnap (pagesChanged (fun _ => refillPage s.dev (p, w, v)) d) p)) s) := by
  have made : exec (.pageRefillComplete p w v) s =
      .next (withAudit (fun d => noteWear (afterSnap (pagesChanged (fun d => refillPage d (p, w, v)) d) p)) s) :=
    congrArg Host.Outcome.next (if_pos hg)
  rw [made, withAudit, withAudit, withDev, withDev, pagesChanged_at]

theorem exec_patrolScrub (t : Tier) (f : Nat) (errors : List RowFound) : exec (.patrolScrub t f errors) s =
    .next { s with dev := pagesChanged (fun _ => patrolFrame s.dev t f errors) s.dev } := congrArg Host.Outcome.next (onDev_of_good hg)

theorem exec_dramRowRepair (t : Tier) (f : Nat) (spare : Bool) (g row : Nat) : exec (.dramRowRepair t f spare g row) s =
    .next { s with dev := noteWear (repairRow s.dev t f g row spare) } := congrArg Host.Outcome.next (onDev_of_good hg)

end

/-- Page k of record x is lost: the partition's flags and the log of errors show it, and its bytes are as they were. -/
structure LossShown (d : Dev) (k : PageKey) (x : Page) (y : Dev) : Prop where
  page : Tab.get? y.pages k = some { x with poison := .lost }
  nonfin : getF y (F.fabNflag_nonfin k.1) = 1
  fault : getF y (F.fabNflag_fault k.1) = 1
  logged : getF y F.hbmUeLog_valid = 1
  outcome : getF y F.hbmUeLog_outcome = 2
  mem : y.mem = d.mem

theorem lossShown_losePage (d : Dev) (k : PageKey) (x : Page) : LossShown d k x (losePage d k x) := by
  have unlogged {j : FKey} (hj : j.reg = .hbmUeLog) (e : Dev) : getF (setDataFault e k.1) j = getF e j := by
    rw [setDataFault, setNonfin, getF_setF_of_ne _ _ (FKey.ne_of_reg (by simp [hj])), getF_setF_of_ne _ _ (FKey.ne_of_reg (by simp [hj]))]
  refine ⟨pages_losePage .., ?_, getF_setF_same .., ?_, ?_, losePage_mem ..⟩
  · rw [losePage, setDataFault, getF_setF_of_ne _ _ (by simp), setNonfin, getF_setF_same]
    rfl
  · rw [losePage, unlogged rfl, logPoison]
    simp only [getF_setF, reduceCtorEq, FKey.mk.injEq, true_and, if_false, if_true, Nat.reduceEqDiff]
    rfl
  · rw [losePage, unlogged rfl, logPoison]
    simp only [getF_setF, reduceCtorEq, FKey.mk.injEq, true_and, if_false, if_true, Nat.reduceEqDiff]
    rfl

theorem LossShown.of_mem {d e y : Dev} {k : PageKey} {x : Page} (h : LossShown e k x y) (hm : e.mem = d.mem) : LossShown d k x y := by
  obtain ⟨page, nonfin, fault, logged, outcome, mem⟩ := h
  exact ⟨page, nonfin, fault, logged, outcome, mem.trans hm⟩

theorem timeoutRefill_of_refilling {d : Dev} {k : PageKey} {x : Page} (hx : Tab.get? d.pages k = some x) (hp : x.poison = .refilling) :
    timeoutRefill d k = losePage d k x := by
  rw [timeoutRefill, hx]
  exact if_pos hp

section
variable {d : Dev} {k : PageKey} {x : Page} {m q a : Nat}

theorem reachable_movesStopped (d : Dev) (k : PageKey) : reachable (movesStopped d k) = reachable d :=
  reachable_congr fun j hj => getF_movesStopped (by rcases hj with h | h | h | ⟨n, h | h⟩ <;> simp [IsPoisonReg, h]) d k

/-- A page with a source goes the way its source's module can be reached. -/
theorem poisonData_of_source (hx : Tab.get? d.pages k = some x) (hs : x.poison = .sound) (hsrc : x.src = some (m, q, a)) :
    poisonData d k = if reachable d k.1 (Config.moduleCoord m).toNat = true then refillBegun (movesStopped d k) k x m q a
      else losePage (movesStopped d k) k x := by
  have copy (e : Dev) : cleanCopy e k x = some (0, m, q, a) := by rw [cleanCopy, hsrc]
  rw [poisonData, hx]
  dsimp only
  rw [if_neg (not_not_intro hs), copy]
  dsimp only
  rw [← movesStopped, reachable_movesStopped]
  rfl

end

theorem fetchPage_reads_length (d : Dev) (k : PageKey) (m q a : Nat) : (fetchPage d k m q a).reads.length = d.reads.length + 128 := by
  have counted {step : Dev → Nat → Dev} (hs : ∀ d i, (step d i).reads.length = d.reads.length + 1) (l : List Nat) (d : Dev) :
      (forEach l d step).reads.length = d.reads.length + l.length := by
    induction l generalizing d with
    | nil => rfl
    | cons i r ih =>
      rw [List.length_cons]
      refine (ih (step d i)).trans ?_
      rw [hs]
      omega
  refine (counted (fun d i => ?_) (List.range 128) d).trans (by rw [List.length_range])
  rw [(portsOnly_sendTo ..).same Dev.reads (fun _ => rfl), List.length_append]
  rfl

/-! An uncorrectable error of a row (R246, R247) -/

/-- An uncorrectable error is counted in its device, and its row is bad. -/
def rowErrorNoted (d : Dev) (t : Tier) (f g row : Nat) : Dev :=
  { satF d (devUe t (frameDevice t f g)) 1 with badRows := (t, f, row) :: d.badRows }

/-- The device of an error has counted it, and its row is bad. -/
structure RowErrored (d : Dev) (t : Tier) (f g row : Nat) (y : Dev) : Prop where
  bad : (t, f, row) ∈ y.badRows
  counted : getF y (devUe t (frameDevice t f g)) =
    min (getF d (devUe t (frameDevice t f g)) + 1) (2 ^ (devUe t (frameDevice t f g)).width - 1)

theorem not_isPoisonReg_devUe (t : Tier) (n : Nat) : ¬ IsPoisonReg (devUe t n).reg := by cases t <;> simp [devUe, IsPoisonReg]

theorem poisonData_badRows (d : Dev) (k : PageKey) : (poisonData d k).badRows = d.badRows := by
  cases hx : Tab.get? d.pages k with
  | none => rw [poisonData_of_unmapped hx]
  | some x =>
    have stopped : (movesStopped d k).badRows = d.badRows := steadyBroken_same Dev.badRows rfl
    by_cases hs : x.poison = .sound
    · rcases poisonData_of_sound hx hs with h | ⟨m, q, a, h⟩
      · rw [h]
        exact stopped
      · rw [h]
        exact (fetchPage_same Dev.badRows (fun _ _ _ _ => rfl) ..).trans stopped
    · rw [poisonData_of_unsound hx hs]

theorem rowErrored_poisonData (d : Dev) (t : Tier) (f g row : Nat) (k : PageKey) :
    RowErrored d t f g row (poisonData (rowErrorNoted d t f g row) k) := by
  refine ⟨?_, ?_⟩
  · rw [poisonData_badRows]
    exact List.mem_cons_self
  · rw [getF_poisonData (not_isPoisonReg_devUe _ _)]
    exact getF_satF_same ..

theorem reachable_rowErrorNoted (d : Dev) (t : Tier) (f g row : Nat) : reachable (rowErrorNoted d t f g row) = reachable d := by
  refine reachable_congr fun j hj => getF_setF_of_ne d _ (FKey.ne_of_reg ?_)
  cases t <;> rcases hj with h | h | h | ⟨n, h | h⟩ <;> simp [devUe, h]

section
variable {d : Dev} {k : PageKey} {x : Page} (hx : Tab.get? d.pages k = some x) (hs : x.poison = .sound)
include hx hs

theorem poisonPage_of_sound (g row : Nat) : poisonPage d k g row = poisonData (rowErrorNoted d x.tier x.frame g row) k := by
  rw [poisonPage, hx]
  exact if_neg (not_not_intro hs)

theorem rowErrored_poisonPage (g row : Nat) : RowErrored d x.tier x.frame g row (poisonPage d k g row) := by
  rw [poisonPage_of_sound hx hs]
  exact rowErrored_poisonData ..

/-- Nothing clean stands anywhere: the page is lost at once. -/
theorem lossShown_poisonPage_of_no_copy (hsrc : x.src = none) (hc : x.ckptClean = false) (g row : Nat) :
    LossShown d k x (poisonPage d k g row) := by
  rw [poisonPage_of_sound hx hs, poisonData_of_no_copy (d := rowErrorNoted d x.tier x.frame g row) hx hs hsrc hc]
  exact (lossShown_losePage ..).of_mem (steadyBroken_same Dev.mem rfl)

variable {m q a : Nat} (hsrc : x.src = some (m, q, a))
include hsrc

theorem poisonPage_of_source (g row : Nat) : poisonPage d k g row =
    if reachable d k.1 (Config.moduleCoord m).toNat = true then refillBegun (movesStopped (rowErrorNoted d x.tier x.frame g row) k) k x m q a
    else losePage (movesStopped (rowErrorNoted d x.tier x.frame g row) k) k x := by
  rw [poisonPage_of_sound hx hs, poisonData_of_source (d := rowErrorNoted d x.tier x.frame g row) hx hs hsrc, reachable_rowErrorNoted]

theorem lossShown_poisonPage_of_unreachable (hr : reachable d k.1 (Config.moduleCoord m).toNat = false) (g row : Nat) :
    LossShown d k x (poisonPage d k g row) := by
  rw [poisonPage_of_source hx hs hsrc, if_neg (by rw [hr]; exact Bool.false_ne_true)]
  exact (lossShown_losePage ..).of_mem (steadyBroken_same Dev.mem rfl)

/-- The clean copy is on its way in READs, and the page held until then. -/
theorem refilling_poisonPage (hr : reachable d k.1 (Config.moduleCoord m).toNat = true) (g row : Nat) :
    Tab.get? (poisonPage d k g row).pages k = some { x with poison := .refilling } ∧
      (poisonPage d k g row).reads.length = d.reads.length + 128 := by
  rw [poisonPage_of_source hx hs hsrc, if_pos hr, refillBegun_pages, Tab.get?_put_same]
  refine ⟨rfl, (fetchPage_reads_length ..).trans ?_⟩
  exact congrArg (List.length · + 128) (steadyBroken_same Dev.reads rfl)

end

/-! The clean copy has come (R248) -/

theorem takeReserve_same {α : Type} (v : Dev → α) (hv : ∀ d j t, v { d with joined := j, taken := t } = v d) (d : Dev) (t : Tier) (f : Nat) :
    v (takeReserve d t f) = v d := by
  unfold takeReserve
  split
  · exact hv d _ d.taken
  · exact hv d d.joined _

/-- It stands in a reserve frame, the page sound again and its READs done. -/
theorem refilled_refillPage {d : Dev} {k : PageKey} {x : Page} {data : List Host.Cell} {f : Nat} (hx : Tab.get? d.pages k = some x)
    (hp : x.poison = .refilling) (hd : refillData d k = some data) (hf : reserveFrame d x.tier = some f) :
    Tab.get? (refillPage d k).pages k = some { x with frame := f, poison := .sound, age := 0 } ∧
      (refillPage d k).mem = memLoad d.mem (framePlace x.tier f) pageSize data ∧
      (refillPage d k).reads = d.reads.filter (fun r => r.key != k) := by
  unfold refillPage
  rw [hx, hd]
  dsimp only
  rw [if_neg (not_not_intro hp), hf]
  refine ⟨Tab.get?_put_same .., ?_, ?_⟩
  · exact congrArg (memLoad · (framePlace x.tier f) pageSize data) (takeReserve_mem d x.tier f)
  · exact congrArg (List.filter (fun r => r.key != k)) (takeReserve_same Dev.reads (fun _ _ _ => rfl) d x.tier f)

/-! The patrol (R246) -/

theorem patrolFrame_of_one {d : Dev} {t : Tier} {f : Nat} (hf : f < tierFrames t) (x : RowFound) :
    patrolFrame d t f [x] = notePatrol (patrolRow d t f x) t f := if_neg (Nat.not_le.2 hf)

theorem patrolFrame_of_none {d : Dev} {t : Tier} {f : Nat} (hf : f < tierFrames t) : patrolFrame d t f [] = notePatrol d t f :=
  if_neg (Nat.not_le.2 hf)

theorem notePatrol_same {α : Type} (v : Dev → α) (hv : ∀ d f l, v { d with f := f, patrolled := l } = v d) (d : Dev) (t : Tier) (f : Nat) :
    v (notePatrol d t f) = v d := by
  unfold notePatrol
  dsimp only
  generalize (if d.patrolled.contains (t, f) = true then d.patrolled else (t, f) :: d.patrolled) = l
  split
  · exact hv d _ []
  · exact hv d d.f l

theorem pageOfFrame_some {d : Dev} {t : Tier} {f : Nat} {e : PageKey × Page} (h : pageOfFrame d t f = some e) :
    e.2.tier = t ∧ e.2.frame = f := by simpa using List.find?_some h

theorem patrolRow_of_page {d : Dev} {t : Tier} {f : Nat} {e : PageKey × Page} (h : pageOfFrame d t f = some e) (g row : Nat) :
    patrolRow d t f ⟨g, row, .uncorrectable⟩ = poisonPage d e.1 g row := by
  unfold patrolRow
  dsimp only
  rw [h]

theorem patrolRow_of_no_page {d : Dev} {t : Tier} {f : Nat} (h : pageOfFrame d t f = none) (g row : Nat) :
    patrolRow d t f ⟨g, row, .uncorrectable⟩ = rowErrorNoted d t f g row := by
  unfold patrolRow
  dsimp only
  rw [h]
  rfl

/-- A page in the frame is no longer sound, and the row is bad. -/
theorem poisoned_patrolFrame {d : Dev} {t : Tier} {f : Nat} {e : PageKey × Page} (hf : f < tierFrames t) (h : pageOfFrame d t f = some e)
    (he : Tab.get? d.pages e.1 = some e.2) (hs : e.2.poison = .sound) (g row : Nat) :
    (Tab.get? (patrolFrame d t f [⟨g, row, .uncorrectable⟩]).pages e.1).map Page.poison ≠ some .sound ∧
      (t, f, row) ∈ (patrolFrame d t f [⟨g, row, .uncorrectable⟩]).badRows := by
  obtain ⟨ht, hfr⟩ := pageOfFrame_some h
  rw [patrolFrame_of_one hf, patrolRow_of_page h, notePatrol_same Dev.pages (fun _ _ _ => rfl),
    notePatrol_same Dev.badRows (fun _ _ _ => rfl)]
  refine ⟨?_, ?_⟩
  · rw [poisonPage_of_sound he hs]
    exact poison_poisonData_same _ _
  · have bad := (rowErrored_poisonPage he hs g row).bad
    rwa [ht, hfr] at bad

/-! Repair of a row (R247) -/

section
variable {d : Dev} {t : Tier} {f g row : Nat}

theorem repairRow_of_good (h : rowBad d t f row = false) (spare : Bool) : repairRow d t f g row spare = d :=
  if_pos (by simp [h])

variable (hf : f < tierFrames t) (h : rowBad d t f row = true)
include hf h

theorem repairRow_of_unused (hn : pageOfFrame d t f = none) (spare : Bool) : repairRow d t f g row spare = mendFrame d t f g row spare := by
  rw [repairRow, if_neg (by simp [h, hf]), hn]

/-- A page of the frame goes to a reserve frame first. -/
theorem repairRow_of_page {e : PageKey × Page} {r : Nat} (he : pageOfFrame d t f = some e) (hs : e.2.poison = .sound)
    (hr : reserveFrame d t = some r) (spare : Bool) :
    repairRow d t f g row spare = mendFrame (steadyBroken (placePage (takeReserve d t r) e.1 t r)) t f g row spare := by
  rw [repairRow, if_neg (by simp [h, hf]), he]
  dsimp only
  rw [if_neg (not_not_intro hs), hr]

end

/-- The row is sound again: soft-repaired, and recorded for hard repair. -/
def rowMended (d : Dev) (t : Tier) (f g row : Nat) : Dev :=
  satF { d with badRows := d.badRows.filter (fun x => x != (t, f, row)), frameErrs := Tab.erase d.frameErrs (t, f, row),
                hardRows := (t, f, row) :: d.hardRows } (devRepairs t (frameDevice t f g)) 1

theorem mendFrame_spare_same {α : Type} (v : Dev → α) (hv : ∀ d j, v { d with joined := j } = v d) (d : Dev) (t : Tier) (f g row : Nat) :
    v (mendFrame d t f g row true) = v (rowMended d t f g row) := by
  unfold mendFrame
  dsimp only
  rw [if_pos rfl]
  split
  · rfl
  · exact hv ..

theorem rowBad_rowMended (d : Dev) (t : Tier) (f g row : Nat) : rowBad (rowMended d t f g row) t f row = false := by
  have counted : rowErrs (rowMended d t f g row) t f row = 0 := by
    show (Tab.get? (Tab.erase d.frameErrs (t, f, row)) (t, f, row)).getD 0 = 0
    rw [Tab.get?_erase_same]
    rfl
  rw [rowBad, counted]
  simp [rowMended, satF, setF]

theorem devRepairs_reg (t : Tier) (n : Nat) : (devRepairs t n).reg = .hbmDev n ∨ (devRepairs t n).reg = .clrDev n := by
  cases t <;> simp [devRepairs]

theorem devRetired_reg (t : Tier) (n : Nat) : (devRetired t n).reg = .hbmDev n ∨ (devRetired t n).reg = .clrDev n := by
  cases t <;> simp [devRetired]

/-- With a spare row: no longer bad, noted for hard repair and counted. -/
theorem mended_noteWear_mendFrame (d : Dev) (t : Tier) (f g row : Nat) :
    rowBad (noteWear (mendFrame d t f g row true)) t f row = false ∧ (t, f, row) ∈ (noteWear (mendFrame d t f g row true)).hardRows ∧
      getF (noteWear (mendFrame d t f g row true)) (devRepairs t (frameDevice t f g)) =
        min (getF d (devRepairs t (frameDevice t f g)) + 1) (2 ^ (devRepairs t (frameDevice t f g)).width - 1) := by
  refine ⟨?_, ?_, ?_⟩
  · rw [noteWear_same (rowBad · t f row) (fun _ _ _ => rfl), mendFrame_spare_same (rowBad · t f row) (fun _ _ => rfl), rowBad_rowMended]
  · rw [noteWear_same Dev.hardRows (fun _ _ _ => rfl), mendFrame_spare_same Dev.hardRows (fun _ _ => rfl)]
    exact List.mem_cons_self
  · have reg := devRepairs_reg t (frameDevice t f g)
    rw [getF_noteWear (by rcases reg with h | h <;> simp [h]) (by rcases reg with h | h <;> simp [h]),
      mendFrame_spare_same (getF · _) (fun _ _ => rfl), rowMended, getF_satF_same]
    rfl

/-- Without one the frame leaves use. -/
theorem retired_noteWear_mendFrame (d : Dev) (t : Tier) (f g row : Nat) :
    (t, f) ∈ (noteWear (mendFrame d t f g row false)).retired ∧ frameFree (noteWear (mendFrame d t f g row false)) t f = false ∧
      getF (noteWear (mendFrame d t f g row false)) (devRetired t (frameDevice t f g)) =
        min (getF d (devRetired t (frameDevice t f g)) + 1) (2 ^ (devRetired t (frameDevice t f g)).width - 1) := by
  have gone : (t, f) ∈ (mendFrame d t f g row false).retired := List.mem_cons_self
  refine ⟨?_, ?_, ?_⟩
  · rwa [noteWear_same Dev.retired (fun _ _ _ => rfl)]
  · rw [noteWear_same (frameFree · t f) (fun _ _ _ => rfl), frameFree, List.contains_iff_mem.2 gone]
    simp
  · have reg := devRetired_reg t (frameDevice t f g)
    rw [getF_noteWear (by rcases reg with h | h <;> simp [h]) (by rcases reg with h | h <;> simp [h])]
    cases t with
    | hbm => exact (getF_setF_of_ne _ _ (by simp [devRetired])).trans (getF_satF_same ..)
    | cellar => exact (getF_setF_of_ne _ _ (by simp [devRetired])).trans (getF_satF_same ..)

theorem mendFrame_pages (d : Dev) (t : Tier) (f g row : Nat) : (mendFrame d t f g row true).pages = d.pages :=
  mendFrame_spare_same Dev.pages (fun _ _ => rfl) ..

/-- The page stands in the reserve frame with its bytes. -/
theorem moved_noteWear_repairRow {d : Dev} {t : Tier} {f g row r : Nat} {e : PageKey × Page} (hf : f < tierFrames t)
    (h : rowBad d t f row = true) (he : pageOfFrame d t f = some e) (hx : Tab.get? d.pages e.1 = some e.2) (hs : e.2.poison = .sound)
    (hr : reserveFrame d t = some r) (hm : Memory.wf d.mem = true) :
    Tab.get? (noteWear (repairRow d t f g row true)).pages e.1 = some { e.2 with tier := t, frame := r } ∧
      ∀ i < pageSize, memGet (noteWear (repairRow d t f g row true)).mem (framePlace t r + i) = memGet d.mem (framePlace t f + i) := by
  obtain ⟨ht, hfr⟩ := pageOfFrame_some he
  have there : Tab.get? (takeReserve d t r).pages e.1 = some e.2 := by rwa [takeReserve_same Dev.pages (fun _ _ _ => rfl)]
  rw [repairRow_of_page hf h he hs hr]
  refine ⟨?_, fun i hi => ?_⟩
  · rw [noteWear_same Dev.pages (fun _ _ _ => rfl), mendFrame_pages, steadyBroken_same Dev.pages rfl, placePage_pages there,
      Tab.get?_put_same]
  · rw [noteWear_mem, mendFrame_mem, steadyBroken_mem,
      memGet_placePage there t r (by rwa [takeReserve_mem]) hi, takeReserve_mem, ht, hfr]

/-- Settles O39: each command by the law of the page, the frame or the row that it finds. -/
theorem poisonedPages : Obligations.PoisonedPages := by
  intro s p w v g row x hg
  extract_lets d k bumped lost out hit errored
  have losing {y : Dev} (h : LossShown d k x y) : lost y := by
    obtain ⟨page, nonfin, fault, logged, outcome, mem⟩ := h
    exact ⟨page, nonfin, fault, logged, outcome, mem⟩
  have poisoning : out (.pagePoison p w v g row) (poisonPage d k g row) := exec_pagePoison hg p w v g row
  have error (h : hit) : errored (poisonPage d k g row) := by
    obtain ⟨bad, counted⟩ := rowErrored_poisonPage h.1 h.2 g row
    exact ⟨bad, counted⟩
  have scrubbing {f : Nat} {l : List RowFound} {y : Dev} (h : patrolFrame d w f l = y) : out (.patrolScrub w f l) y :=
    h ▸ exec_patrolScrub hg w f l
  have repairing {f : Nat} {spare : Bool} {y : Dev} (h : repairRow d w f g row spare = y) :
      exec (.dramRowRepair w f spare g row) s = .next { s with dev := noteWear y } := h ▸ exec_dramRowRepair hg w f spare g row
  refine ⟨fun h hsrc hc => ⟨_, poisoning, losing (lossShown_poisonPage_of_no_copy h.1 h.2 hsrc hc g row), error h⟩,
    fun m q a h hsrc hr => ⟨_, poisoning, losing (lossShown_poisonPage_of_unreachable h.1 h.2 hsrc hr g row), error h⟩,
    fun m q a h hsrc hr => ?_, fun hx hp => ⟨_, exec_refillTimeout hg p w v, ?_⟩,
    fun data f hx hp hd hf => ⟨_, exec_pageRefillComplete hg p w v, refilled_refillPage hx hp hd hf⟩, fun f hf => ?_⟩
  · obtain ⟨page, reads⟩ := refilling_poisonPage h.1 h.2 hsrc hr g row
    exact ⟨_, poisoning, page, reads, poisonPage_mem .., error h⟩
  · rw [timeoutRefill_of_refilling hx hp]
    exact losing (lossShown_losePage ..)
  · refine ⟨scrubbing (patrolFrame_of_none hf), fun n => scrubbing (patrolFrame_of_one hf _),
      fun hn => scrubbing ((patrolFrame_of_one hf _).trans (by rw [patrolRow_of_no_page hn]; rfl)),
      fun e he hx hs => ⟨_, scrubbing rfl, poisoned_patrolFrame hf he hx hs g row⟩,
      fun hb hn => ⟨_, repairing (repairRow_of_unused hf hb hn true), ?_⟩,
      fun hb hn => ⟨_, repairing (repairRow_of_unused hf hb hn false), ?_⟩,
      fun e r hb he hx hs hr hm => ⟨_, repairing rfl, moved_noteWear_repairRow hf hb he hx hs hr hm⟩,
      fun hb => repairing (repairRow_of_good hb true)⟩
    · obtain ⟨good, hard, counted⟩ := mended_noteWear_mendFrame d w f g row
      exact ⟨good, hard, counted, (noteWear_mem _).trans (mendFrame_mem ..)⟩
    · obtain ⟨gone, unusable, counted⟩ := retired_noteWear_mendFrame d w f g row
      exact ⟨gone, unusable, counted, (noteWear_mem _).trans (mendFrame_mem ..)⟩

end Sys2Proof.Machine
end

section
namespace Sys2Proof.Machine

/-! What a snapshot's start and end leave alone (R242, R243, R251) -/

/-- e is d but for the snapshot's register, what is noted of a broken STEADY, and when the start was asked for. -/
structure SnapNoted (p : Nat) (d e : Dev) : Prop where
  rest : e = { d with f := e.f, snapAt := e.snapAt }
  field : ∀ k : FKey, k.reg ≠ .clrSnap p → k.reg ≠ .pwrStatus → getF e k = getF d k

namespace SnapNoted
variable {p : Nat} {d e g : Dev}

theorem refl (p : Nat) (d : Dev) : SnapNoted p d d := ⟨rfl, fun _ _ _ => rfl⟩

theorem trans (h : SnapNoted p d e) (h' : SnapNoted p e g) : SnapNoted p d g :=
  ⟨h'.rest.trans (by rw [h.rest]), fun k hs hw => (h'.field k hs hw).trans (h.field k hs hw)⟩

theorem setF {k : FKey} (hk : k.reg = .clrSnap p) (d : Dev) (v : Nat) : SnapNoted p d (setF d k v) :=
  ⟨rfl, fun _ hs _ => getF_setF_of_ne d v (FKey.ne_of_reg (fun h => hs (h ▸ hk)))⟩

theorem snapAt (d : Dev) (t : Tab Nat Nat) : SnapNoted p d { d with snapAt := t } := ⟨rfl, fun _ _ _ => rfl⟩

theorem steadyBroken (p : Nat) (d : Dev) : SnapNoted p d (steadyBroken d) := by
  refine ⟨?_, fun k _ hw => getF_steadyBroken_of_reg d hw⟩
  unfold Machine.steadyBroken
  split <;> rfl

/-- A part of the state that is neither a register nor when the start was asked for. -/
theorem same {α : Type} (h : SnapNoted p d e) (v : Dev → α) (hv : ∀ d f t, v { d with f := f, snapAt := t } = v d) : v e = v d := by
  rw [h.rest]
  exact hv ..

theorem sameView (h : SnapNoted p d e) : SameView d e :=
  ⟨h.same Dev.mem (fun _ _ _ => rfl), h.same Dev.pages (fun _ _ _ => rfl), h.same Dev.stamps (fun _ _ _ => rfl),
    h.same Dev.stg (fun _ _ _ => rfl), h.same Dev.sweeps (fun _ _ _ => rfl), fun _ => h.field _ (by simp) (by simp),
    fun _ => h.field _ (by simp) (by simp), fun _ => h.field _ (by simp) (by simp)⟩

theorem route (h : SnapNoted p d e) (k : FKey) (hk : IsRouteReg k.reg) : getF e k = getF d k := by
  refine h.field k ?_ ?_ <;> rcases hk with hk | hk | hk | ⟨n, hk | hk⟩ <;> simp [hk]

theorem waitingDraw (h : SnapNoted p d e) (q : Nat) : waitingDraw e q = waitingDraw d q :=
  h.same (Machine.waitingDraw · q) (fun _ _ _ => rfl)

theorem listHeld (h : SnapNoted p d e) (q : Nat) (r : SnapReq) : listHeld e q r = listHeld d q r := (h.sameView.seesAlike q).heldRange ..

end SnapNoted

/-! The check of a snapshot (Table 10.6) depends on the pages, the view and the routes -/

theorem rangePagesOf_congr {d e : Dev} (h : e.pages = d.pages) (p : Nat) (l : List (Nat × Nat)) : rangePagesOf e p l = rangePagesOf d p l := by
  have page (w : Tier) (v : Nat) : pageAt e p w v = pageAt d p w v := by rw [pageAt, pageAt, h]
  have pages : pagesOf e p = pagesOf d p := by rw [pagesOf, pagesOf, h]
  induction l with
  | nil => rfl
  | cons x r ih =>
    obtain ⟨a, n⟩ := x
    simp only [rangePagesOf, page, pages, ih]

theorem snapCheck_congr {d e : Dev} (hv : SameView d e) (hr : ∀ k : FKey, IsRouteReg k.reg → getF e k = getF d k) (p : Nat) (r : SnapReq) :
    snapCheck e p r = snapCheck d p r := by
  have see := hv.seesAlike p
  have ranges : snapRanges e p r = snapRanges d p r := by simp only [snapRanges, see.viewNat]
  have page (w : Tier) (v : Nat) : pageAt e p w v = pageAt d p w v := by rw [hv.pageAt]
  simp only [snapCheck, see.rangePages, ranges, rangePagesOf_congr hv.pages, page, hv.pages, reachable_congr hr,
    hr F.fabCoord_module (by simp [IsRouteReg])]

theorem SnapNoted.snapCheck {p : Nat} {d e : Dev} (h : SnapNoted p d e) (q : Nat) (r : SnapReq) : snapCheck e q r = snapCheck d q r :=
  snapCheck_congr h.sameView h.route q r

/-! What waits for a snapshot's end (R306) -/

section
variable {d : Dev} {p : Nat}

theorem afterSnap_of_copying (h : getF d (F.clrSnap_state p) = 1) : afterSnap d p = d := by
  rw [afterSnap, startWaiting, if_pos h]

section
variable (hw : waitingDraw d p = none)
include hw

/-- Nothing was asked for: the end of a snapshot lets nothing start. -/
theorem afterSnap_of_idle (hs : flag d (F.clrSnap_start p) = false) : afterSnap d p = d := by
  rw [afterSnap, startWaiting, hw, hs]
  exact ite_self d

theorem afterSnap_of_asked (hc : getF d (F.clrSnap_state p) ≠ 1) (hs : flag d (F.clrSnap_start p) = true) : afterSnap d p = startSnap d p := by
  rw [afterSnap, startWaiting, hw, hs, if_neg hc]
  rfl

end

end

/-! A store to CLR_SNAPp (R243, R251, Table 10.13) -/

/-- wr_err is cleared where the store asks for it. -/
def wrErrCleared (d : Dev) (p v : Nat) : Dev := if bitOf v 61 then setF d (F.clrSnap_wr_err p) 0 else d

/-- The kind and gyle a start takes. -/
def snapAsked (d : Dev) (p v : Nat) : Dev :=
  setF (setF (wrErrCleared d p v) (F.clrSnap_kind p) (bits v 60 60)) (F.clrSnap_gyle p) (bits v 47 0)

/-- The kind and gyle alone, no start asked for. -/
def snapTaken (d : Dev) (p v : Nat) : Dev :=
  setF (setF (setF d (F.clrSnap_kind p) (bits v 60 60)) (F.clrSnap_gyle p) (bits v 47 0)) (F.clrSnap_start p) 0

/-- A start is asked for, from now unless one is already. -/
def startAsked (d : Dev) (p : Nat) : Dev :=
  if flag d (F.clrSnap_start p) then d else { setF d (F.clrSnap_start p) 1 with snapAt := Tab.put d.snapAt p d.mbxNext }

section
variable (d : Dev) (p v : Nat)

theorem snapNoted_wrErrCleared : SnapNoted p d (wrErrCleared d p v) := by
  unfold wrErrCleared
  split
  · exact .setF rfl d 0
  · exact .refl p d

theorem snapNoted_snapAsked : SnapNoted p d (snapAsked d p v) := ((snapNoted_wrErrCleared d p v).trans (.setF rfl _ _)).trans (.setF rfl _ _)

theorem snapNoted_snapTaken : SnapNoted p d (snapTaken d p v) := ((SnapNoted.setF rfl d _).trans (.setF rfl _ _)).trans (.setF rfl _ _)

theorem snapNoted_startAsked : SnapNoted p d (startAsked d p) := by
  unfold startAsked
  split
  · exact .refl p d
  · exact (SnapNoted.setF (k := F.clrSnap_start p) rfl d 1).trans (.snapAt _ _)

theorem getF_wrErrCleared {k : FKey} (hk : F.clrSnap_wr_err p ≠ k) : getF (wrErrCleared d p v) k = getF d k := by
  unfold wrErrCleared
  split
  · exact getF_setF_of_ne d 0 hk
  · rfl

theorem getF_snapAsked_state : getF (snapAsked d p v) (F.clrSnap_state p) = getF d (F.clrSnap_state p) := by
  rw [snapAsked, getF_setF_of_ne _ _ (by simp), getF_setF_of_ne _ _ (by simp), getF_wrErrCleared _ _ _ (by simp)]

theorem snapRegs_snapAsked : snapRegs (snapAsked d p v) p = snapRegs (snapTaken d p v) p := by
  have target {k : FKey} (hs : k.reg ≠ .clrSnap p) (hw : k.reg ≠ .pwrStatus) : getF (snapAsked d p v) k = getF (snapTaken d p v) k :=
    ((snapNoted_snapAsked d p v).field k hs hw).trans ((snapNoted_snapTaken d p v).field k hs hw).symm
  have kind : getF (snapAsked d p v) (F.clrSnap_kind p) = getF (snapTaken d p v) (F.clrSnap_kind p) := by
    rw [snapAsked, snapTaken, getF_setF_of_ne _ _ (by simp), getF_setF_same, getF_setF_of_ne _ _ (by simp), getF_setF_of_ne _ _ (by simp),
      getF_setF_same]
  have gyle : getF (snapAsked d p v) (F.clrSnap_gyle p) = getF (snapTaken d p v) (F.clrSnap_gyle p) := by
    rw [snapAsked, snapTaken, getF_setF_same, getF_setF_of_ne _ _ (by simp), getF_setF_same]
  rw [snapRegs, snapRegs, kind, gyle, target (by simp) (by simp), target (by simp) (by simp), target (by simp) (by simp),
    target (by simp) (by simp)]

theorem flag_startAsked : flag (startAsked d p) (F.clrSnap_start p) = true := by
  unfold startAsked
  split
  · assumption
  · show (getF (setF d (F.clrSnap_start p) 1) (F.clrSnap_start p) != 0) = true
    rw [getF_setF_same]
    rfl

theorem getF_startAsked_of_ne {k : FKey} (hk : F.clrSnap_start p ≠ k) : getF (startAsked d p) k = getF d k := by
  unfold startAsked
  split
  · rfl
  · exact getF_setF_of_ne d 1 hk

end

/-- Neither the request for a start nor a broken STEADY is part of what is asked for. -/
theorem snapRegs_congr {d e : Dev} {p : Nat} (h : ∀ k : FKey, F.clrSnap_start p ≠ k → k.reg ≠ .pwrStatus → getF e k = getF d k) :
    snapRegs e p = snapRegs d p := by
  rw [snapRegs, snapRegs, h _ (by simp) (by simp), h _ (by simp) (by simp), h _ (by simp) (by simp), h _ (by simp) (by simp),
    h _ (by simp) (by simp), h _ (by simp) (by simp)]

theorem snapRegs_queued (d : Dev) (p : Nat) : snapRegs (steadyBroken (startAsked d p)) p = snapRegs d p :=
  snapRegs_congr fun _ hs hw => (getF_steadyBroken_of_reg _ hw).trans (getF_startAsked_of_ne d p hs)

theorem startSnap_of_held {d : Dev} {p : Nat} (h : listHeld d p (snapRegs d p) = true) : startSnap d p = steadyBroken (startAsked d p) :=
  if_pos h

theorem startSnap_of_free {d : Dev} {p : Nat} (h : listHeld d p (snapRegs d p) = false) :
    startSnap d p = beginSnap (setF d (F.clrSnap_start p) 0) p (snapRegs d p) := if_neg (by rw [h]; exact Bool.false_ne_true)

section
variable {d : Dev} {p v : Nat}

theorem snapWrite_of_rest (hc : getF d (F.clrSnap_state p) ≠ 1) (h63 : bitOf v 63 = true) : snapWrite d p v = startSnap (snapAsked d p v) p := by
  have rest : getF (wrErrCleared d p v) (F.clrSnap_state p) ≠ 1 := by rwa [getF_wrErrCleared _ _ _ (by simp)]
  unfold snapWrite
  extract_lets e
  rw [show e = wrErrCleared d p v from rfl, if_neg rest, h63]
  rfl

theorem snapWrite_of_copying (hc : getF d (F.clrSnap_state p) = 1) : snapWrite d p v =
    if bitOf v 62 then endSnap (if bitOf v 63 then startAsked (setF (wrErrCleared d p v) (F.clrSnap_wr_err p) 1) p
      else setF (wrErrCleared d p v) (F.clrSnap_wr_err p) 1) p 3 0x02
    else if bitOf v 63 then startAsked (setF (wrErrCleared d p v) (F.clrSnap_wr_err p) 1) p
      else setF (wrErrCleared d p v) (F.clrSnap_wr_err p) 1 := by
  have copying : getF (wrErrCleared d p v) (F.clrSnap_state p) = 1 := by rwa [getF_wrErrCleared _ _ _ (by simp)]
  unfold snapWrite
  extract_lets e g src queued rest
  have asked : queued = if bitOf v 63 then startAsked g p else g := by
    simp only [queued, src, startAsked]
    cases bitOf v 63 <;> cases flag g (F.clrSnap_start p) <;> rfl
  rw [show e = wrErrCleared d p v from rfl, if_pos copying, asked]
  rfl

end

/-! A snapshot begins, or is refused (R243, Table 10.6) -/

/-- The snapshot of a request, none of its pages copied. -/
def snapOf (d : Dev) (p : Nat) (r : SnapReq) (ks : List PageKey) : Snap :=
  ⟨r.kind, r.gyle, r.module, r.addr, ks.map (fun k => ⟨k, none, 0⟩), viewRead d p r.list (16 * r.count)⟩

/-- The pages are listed, and what is held already comes before the snapshot. -/
def snapListed (d : Dev) (p : Nat) (r : SnapReq) (ks : List PageKey) : Dev :=
  { noteRead d p r.list (16 * r.count) with
    snaps := Tab.put (noteRead d p r.list (16 * r.count)).snaps p (snapOf d p r ks)
    held := (noteRead d p r.list (16 * r.count)).held.map (fun h => if h.p = p then { h with early := true } else h) }

section
variable {d : Dev} {p : Nat} {r : SnapReq}

theorem beginSnap_of_ok {ks : List PageKey} (h : snapCheck d p r = .ok ks) :
    beginSnap d p r = setF (setF (snapListed d p r ks) (F.clrSnap_state p) 1) (F.clrSnap_status p) 0 := by
  rw [beginSnap, h]
  rfl

theorem beginSnap_of_error {st : Nat} (h : snapCheck d p r = .error st) : beginSnap d p r = endSnap d p 3 st := by
  rw [beginSnap, h]

/-- A snapshot that has begun: it copies, none of its pages copied yet. -/
theorem begun_beginSnap {ks : List PageKey} (h : snapCheck d p r = .ok ks) :
    getF (beginSnap d p r) (F.clrSnap_state p) = 1 ∧ getF (beginSnap d p r) (F.clrSnap_status p) = 0 ∧
      Tab.get? (beginSnap d p r).snaps p = some (snapOf d p r ks) ∧ (beginSnap d p r).audits = d.audits := by
  rw [beginSnap_of_ok h]
  refine ⟨?_, getF_setF_same .., Tab.get?_put_same .., ?_⟩
  · rw [getF_setF_of_ne _ _ (by simp), getF_setF_same]
    rfl
  · exact (accessed_noteRead ..).same Dev.audits (fun _ _ _ _ _ _ _ _ _ _ _ _ => rfl)

end

theorem snapNoted_endSnap (d : Dev) (p st status : Nat) : SnapNoted p d (endSnap d p st status) :=
  ((SnapNoted.setF rfl d _).trans (.setF rfl _ _)).trans (.setF rfl _ _)

section
variable (d : Dev) (p st status : Nat)

theorem getF_endSnap_state : getF (endSnap d p st status) (F.clrSnap_state p) = st % 2 ^ (F.clrSnap_state p).width := by
  rw [endSnap, getF_setF_of_ne _ _ (by simp), getF_setF_of_ne _ _ (by simp), getF_setF_same]

theorem getF_endSnap_status : getF (endSnap d p st status) (F.clrSnap_status p) = status % 2 ^ (F.clrSnap_status p).width := by
  rw [endSnap, getF_setF_of_ne _ _ (by simp), getF_setF_same]

theorem flag_endSnap_start : flag (endSnap d p st status) (F.clrSnap_start p) = flag d (F.clrSnap_start p) := by
  rw [flag, endSnap, getF_setF_of_ne _ _ (by simp), getF_setF_of_ne _ _ (by simp), getF_setF_of_ne _ _ (by simp), ← flag]

end

/-- What a snapshot's end leaves where nothing was asked for. -/
theorem afterSnap_endSnap_of_idle {d : Dev} {p : Nat} (hw : waitingDraw d p = none) (hs : flag d (F.clrSnap_start p) = false)
    (st status : Nat) : afterSnap (endSnap d p st status) p = endSnap d p st status :=
  afterSnap_of_idle (((snapNoted_endSnap ..).waitingDraw p).trans hw) ((flag_endSnap_start ..).trans hs)

/-! A start (R243, R306): accepted, refused, or waiting -/

theorem snapCheck_snapAsked (d : Dev) (p v : Nat) (r : SnapReq) :
    snapCheck (setF (snapAsked d p v) (F.clrSnap_start p) 0) p r = snapCheck (snapTaken d p v) p r := by
  rw [((snapNoted_snapAsked d p v).trans (.setF rfl _ 0)).snapCheck, (snapNoted_snapTaken d p v).snapCheck]

section
variable {d : Dev} {p v : Nat} (hc : getF d (F.clrSnap_state p) ≠ 1) (h63 : bitOf v 63 = true)
include hc h63

/-- With no snapshot copying and a range list that can be read, the request is checked. -/
theorem snapWrite_of_free (hh : listHeld d p (snapRegs (snapTaken d p v) p) = false) : snapWrite d p v =
    beginSnap (setF (snapAsked d p v) (F.clrSnap_start p) 0) p (snapRegs (snapTaken d p v) p) := by
  rw [snapWrite_of_rest hc h63, startSnap_of_free, snapRegs_snapAsked]
  rwa [snapRegs_snapAsked, (snapNoted_snapAsked d p v).listHeld]

/-- The snapshot of an accepted start copies, and has copied none of its pages. -/
theorem begun_snapWrite {ks : List PageKey} (hh : listHeld d p (snapRegs (snapTaken d p v) p) = false)
    (hk : snapCheck (snapTaken d p v) p (snapRegs (snapTaken d p v) p) = .ok ks) :
    getF (afterSnap (snapWrite d p v) p) (F.clrSnap_state p) = 1 ∧ getF (afterSnap (snapWrite d p v) p) (F.clrSnap_status p) = 0 ∧
      (∃ l, Tab.get? (afterSnap (snapWrite d p v) p).snaps p = some { snapOf d p (snapRegs (snapTaken d p v) p) ks with ranges := l }) ∧
      (afterSnap (snapWrite d p v) p).audits = d.audits := by
  rw [← snapCheck_snapAsked] at hk
  obtain ⟨state, status, snap, audits⟩ := begun_beginSnap hk
  rw [snapWrite_of_free hc h63 hh, afterSnap_of_copying state]
  exact ⟨state, status, ⟨_, snap⟩, audits.trans ((snapNoted_snapAsked d p v).same Dev.audits (fun _ _ _ => rfl))⟩

variable (hw : waitingDraw d p = none)
include hw

theorem refused_snapWrite {st : Nat} (hh : listHeld d p (snapRegs (snapTaken d p v) p) = false)
    (hk : snapCheck (snapTaken d p v) p (snapRegs (snapTaken d p v) p) = .error st) :
    getF (afterSnap (snapWrite d p v) p) (F.clrSnap_state p) = 3 ∧
      getF (afterSnap (snapWrite d p v) p) (F.clrSnap_status p) = st % 2 ^ (F.clrSnap_status p).width ∧
      SnapNoted p d (afterSnap (snapWrite d p v) p) := by
  rw [← snapCheck_snapAsked] at hk
  have asked : SnapNoted p d (setF (snapAsked d p v) (F.clrSnap_start p) 0) := (snapNoted_snapAsked d p v).trans (.setF rfl _ 0)
  have none : flag (setF (snapAsked d p v) (F.clrSnap_start p) 0) (F.clrSnap_start p) = false := by rw [flag, getF_setF_same]; rfl
  rw [snapWrite_of_free hc h63 hh, beginSnap_of_error hk, afterSnap_endSnap_of_idle ((asked.waitingDraw p).trans hw) none]
  exact ⟨getF_endSnap_state .., getF_endSnap_status .., asked.trans (snapNoted_endSnap ..)⟩

/-- A start whose range list lies in a held page waits for it. -/
theorem queued_snapWrite (hh : listHeld d p (snapRegs (snapTaken d p v) p) = true) :
    flag (afterSnap (snapWrite d p v) p) (F.clrSnap_start p) = true ∧
      getF (afterSnap (snapWrite d p v) p) (F.clrSnap_state p) = getF d (F.clrSnap_state p) ∧
      SnapNoted p d (afterSnap (snapWrite d p v) p) := by
  have asked := snapNoted_snapAsked d p v
  have queued := (asked.trans (snapNoted_startAsked _ p)).trans (.steadyBroken p _)
  have state : getF (steadyBroken (startAsked (snapAsked d p v) p)) (F.clrSnap_state p) = getF d (F.clrSnap_state p) := by
    rw [getF_steadyBroken_of_reg _ (by simp), getF_startAsked_of_ne _ _ (by simp), getF_snapAsked_state]
  have start (e : Dev) : flag (steadyBroken (startAsked e p)) (F.clrSnap_start p) = true := by
    rw [flag, getF_steadyBroken_of_reg _ (by simp), ← flag, flag_startAsked]
  have first : snapWrite d p v = steadyBroken (startAsked (snapAsked d p v) p) := by
    rw [snapWrite_of_rest hc h63, startSnap_of_held]
    rwa [snapRegs_snapAsked, asked.listHeld]
  have again : afterSnap (steadyBroken (startAsked (snapAsked d p v) p)) p =
      steadyBroken (startAsked (steadyBroken (startAsked (snapAsked d p v) p)) p) := by
    rw [afterSnap_of_asked ((queued.waitingDraw p).trans hw) (by rwa [state]) (start _), startSnap_of_held]
    rwa [snapRegs_queued, snapRegs_snapAsked, queued.listHeld]
  rw [first, again]
  refine ⟨start _, ?_, (queued.trans (snapNoted_startAsked _ p)).trans (.steadyBroken p _)⟩
  rw [getF_steadyBroken_of_reg _ (by simp), getF_startAsked_of_ne _ _ (by simp), state]

end

section
variable {d : Dev} {p v : Nat} (hc : getF d (F.clrSnap_state p) = 1)
include hc

/-- One asked for while a snapshot copies waits, and wr_err says so. -/
theorem queued_snapWrite_of_copying (h63 : bitOf v 63 = true) (h62 : bitOf v 62 = false) :
    flag (afterSnap (snapWrite d p v) p) (F.clrSnap_start p) = true ∧ getF (afterSnap (snapWrite d p v) p) (F.clrSnap_wr_err p) = 1 ∧
      getF (afterSnap (snapWrite d p v) p) (F.clrSnap_state p) = 1 ∧ SnapNoted p d (afterSnap (snapWrite d p v) p) := by
  have written : snapWrite d p v = startAsked (setF (wrErrCleared d p v) (F.clrSnap_wr_err p) 1) p := by
    rw [snapWrite_of_copying hc, h62, h63]
    rfl
  have state : getF (startAsked (setF (wrErrCleared d p v) (F.clrSnap_wr_err p) 1) p) (F.clrSnap_state p) = 1 := by
    rw [getF_startAsked_of_ne _ _ (by simp), getF_setF_of_ne _ _ (by simp), getF_wrErrCleared _ _ _ (by simp), hc]
  rw [written, afterSnap_of_copying state]
  refine ⟨flag_startAsked .., ?_, state, ((snapNoted_wrErrCleared d p v).trans (.setF rfl _ 1)).trans (snapNoted_startAsked ..)⟩
  rw [getF_startAsked_of_ne _ _ (by simp), getF_setF_same]
  rfl

theorem aborted_snapWrite (h62 : bitOf v 62 = true) (h63 : bitOf v 63 = false) (hw : waitingDraw d p = none)
    (hs : flag d (F.clrSnap_start p) = false) :
    getF (afterSnap (snapWrite d p v) p) (F.clrSnap_state p) = 3 ∧ getF (afterSnap (snapWrite d p v) p) (F.clrSnap_status p) = 2 := by
  have noted : SnapNoted p d (setF (wrErrCleared d p v) (F.clrSnap_wr_err p) 1) := (snapNoted_wrErrCleared d p v).trans (.setF rfl _ 1)
  have idle : flag (setF (wrErrCleared d p v) (F.clrSnap_wr_err p) 1) (F.clrSnap_start p) = false := by
    rw [flag, getF_setF_of_ne _ _ (by simp), getF_wrErrCleared _ _ _ (by simp), ← flag, hs]
  have written : snapWrite d p v = endSnap (setF (wrErrCleared d p v) (F.clrSnap_wr_err p) 1) p 3 0x02 := by
    rw [snapWrite_of_copying hc, h62, h63]
    rfl
  rw [written, afterSnap_endSnap_of_idle ((noted.waitingDraw p).trans hw) idle]
  exact ⟨getF_endSnap_state .., getF_endSnap_status ..⟩

end

/-! The pages are copied (R243 to R245) -/

theorem sound_of_pageCells {d : Dev} {k : PageKey} (h : (pageCells d k).isSome = true) :
    ∃ x, Tab.get? d.pages k = some x ∧ x.poison = .sound := by
  unfold pageCells at h
  split at h
  · next x hx =>
    split at h
    · next hs => exact ⟨x, hx, hs⟩
    · simp at h
  · simp at h

theorem SnapPage.copied_of_can (d : Dev) (e : SnapPage) (h : e.cells.isSome = true ∨ (pageCells d e.key).isSome = true) :
    (e.copy d).cells.isSome = true := by
  rcases h with h | h
  · rwa [SnapPage.copy_of_copied h]
  · obtain ⟨x, hx, hs⟩ := sound_of_pageCells h
    exact SnapPage.cells_copy_of_sound hx hs rfl

theorem SnapPage.copy_of_unsound {d : Dev} {e : SnapPage} (h : (Tab.get? d.pages e.key).map Page.poison = some .lost) : e.copy d = e := by
  obtain ⟨x, hx, hp⟩ := Option.map_eq_some_iff.1 h
  have none : pageCells d e.key = none := by
    rw [pageCells, hx]
    exact if_neg (by rw [hp]; decide)
  rw [SnapPage.copy, none]
  cases e.cells <;> rfl

/-- Every copy is visible at the target; the peer's acknowledgement of a buddy's is awaited. -/
structure SnapDelivered (d : Dev) (p : Nat) (x : Snap) (e : Dev) : Prop where
  field : ∀ k : FKey, k.reg = .clrSnap p → getF e k = getF d k
  picked : e.picked = d.picked
  buddy : x.kind ≠ 1 → e.mem = d.mem ∧ (Tab.get? e.acks p).getD [] = (Tab.get? d.acks p).getD [] ++ [fillSnap d x]
  draw : x.kind = 1 → e.acks = d.acks

theorem portsOnly_sendWrites (d : Dev) (p m q a : Nat) (l : List Byte) : PortsOnly d (sendWrites d p m q a l) :=
  .forEach (fun _ _ => portsOnly_sendTo ..) _ d

theorem accessed_writeCellar (d : Dev) (p a : Nat) (cs : List Host.Cell) : Accessed d (writeCellar d p a cs) := by
  unfold writeCellar
  split
  · refine Accessed.trans ?_ (accessed_noteWrite ..)
    exact ⟨rfl, fun _ _ => rfl⟩
  · exact .refl d

theorem SnapDelivered.of_draw {d d' e : Dev} {p : Nat} {x : Snap} (hk : x.kind = 1) (hf : d'.f = d.f) (hp : d'.picked = d.picked)
    (ha : d'.acks = d.acks) (h : Accessed d' e) : SnapDelivered d p x e := by
  refine ⟨fun k hr => (h.field k (by simp [IsAccessReg, hr])).trans ?_, (h.same Dev.picked (fun _ _ _ _ _ _ _ _ _ _ _ _ => rfl)).trans hp,
    fun hn => absurd hk hn, fun _ => (h.same Dev.acks (fun _ _ _ _ _ _ _ _ _ _ _ _ => rfl)).trans ha⟩
  rw [getF, getF, hf]

theorem SnapDelivered.of_buddy {d e : Dev} {p : Nat} {x : Snap} (hk : x.kind ≠ 1) (h : PortsOnly { d with
    snaps := Tab.put d.snaps p (fillSnap d x), acks := Tab.put d.acks p ((Tab.get? d.acks p).getD [] ++ [fillSnap d x]) } e) :
    SnapDelivered d p x e := by
  refine ⟨fun k _ => h.field k, h.same Dev.picked (fun _ => rfl), fun _ => ⟨h.same Dev.mem (fun _ => rfl), ?_⟩, fun h1 => absurd h1 hk⟩
  rw [h.same Dev.acks (fun _ => rfl), Tab.get?_put_same]
  rfl

theorem completeSnap_of_copied {d : Dev} {p : Nat} {x : Snap} (hc : getF d (F.clrSnap_state p) = 1) (hx : Tab.get? d.snaps p = some x)
    (hall : ∀ e ∈ x.pages, e.cells.isSome = true ∨ (pageCells d e.key).isSome = true) :
    ∃ e, completeSnap d p = endSnap e p 2 0x01 ∧ SnapDelivered d p x e := by
  have whole (e : SnapPage) (he : e ∈ (fillSnap d x).pages) : e.cells.isNone = false := by
    obtain ⟨g, hg, rfl⟩ := List.mem_map.1 he
    rw [← Option.not_isSome, SnapPage.copied_of_can d g (hall g hg)]
    rfl
  have none : (fillSnap d x).pages.any (fun e => e.cells.isNone) = false := List.any_eq_false.2 (fun e he => by simp [whole e he])
  have noneLost (q : SnapPage → Bool) : (fillSnap d x).pages.any (fun e => e.cells.isNone && q e) = false :=
    List.any_eq_false.2 (fun e he => by simp [whole e he])
  unfold completeSnap
  rw [hx]
  dsimp only
  rw [if_neg (not_not_intro hc), noneLost, none]
  refine ⟨_, rfl, ?_⟩
  by_cases hk : x.kind = 1
  · refine SnapDelivered.of_draw hk (d' := { d with snaps := Tab.put d.snaps p (fillSnap d x) }) rfl rfl rfl ?_
    rw [if_pos (show (fillSnap d x).kind = 1 from hk)]
    exact (accessed_writeCellar ..).trans (.forEach (fun _ _ => accessed_writeCellar ..) _ _)
  · refine SnapDelivered.of_buddy hk ?_
    rw [if_neg (show ¬ (fillSnap d x).kind = 1 from hk)]
    exact PortsOnly.trans (.forEach (fun _ _ => portsOnly_sendWrites ..) _ _) (portsOnly_sendWrites ..)

/-- A lost page that is not copied ends the snapshot. -/
theorem completeSnap_of_lost {d : Dev} {p : Nat} {x : Snap} {e : SnapPage} (hc : getF d (F.clrSnap_state p) = 1)
    (hx : Tab.get? d.snaps p = some x) (he : e ∈ x.pages) (hn : e.cells = none)
    (hl : (Tab.get? d.pages e.key).map Page.poison = some .lost) : completeSnap d p = endSnap d p 3 0x04 := by
  obtain ⟨y, hy, hp⟩ := Option.map_eq_some_iff.1 hl
  have lost : (fillSnap d x).pages.any (fun e => e.cells.isNone &&
      (match Tab.get? d.pages e.key with | some x => x.poison == .lost | none => true)) = true := by
    refine List.any_eq_true.2 ⟨e, List.mem_map.2 ⟨e, he, SnapPage.copy_of_unsound hl⟩, ?_⟩
    simp [hn, hy, hp]
  unfold completeSnap
  rw [hx]
  dsimp only
  rw [if_neg (not_not_intro hc)]
  exact if_pos lost

section
variable {d : Dev} {p : Nat} {x : Snap} (hc : getF d (F.clrSnap_state p) = 1) (hs : flag d (F.clrSnap_start p) = false)
  (hw : waitingDraw d p = none) (hx : Tab.get? d.snaps p = some x)
include hc hs hw hx

/-- A snapshot that is complete is done, and waits for nothing but a buddy's acknowledgement. -/
theorem done_completeSnap (hall : ∀ e ∈ x.pages, e.cells.isSome = true ∨ (pageCells d e.key).isSome = true) :
    getF (afterSnap (completeSnap d p) p) (F.clrSnap_state p) = 2 ∧ getF (afterSnap (completeSnap d p) p) (F.clrSnap_status p) = 1 ∧
      (x.kind ≠ 1 → (afterSnap (completeSnap d p) p).mem = d.mem ∧
        (Tab.get? (afterSnap (completeSnap d p) p).acks p).getD [] = (Tab.get? d.acks p).getD [] ++ [fillSnap d x]) ∧
      (x.kind = 1 → (afterSnap (completeSnap d p) p).acks = d.acks) := by
  obtain ⟨e, he, delivered⟩ := completeSnap_of_copied hc hx hall
  have none : waitingDraw e p = none := by rw [waitingDraw, delivered.picked]; exact hw
  have idle : flag e (F.clrSnap_start p) = false := by rw [flag, delivered.field _ rfl]; exact hs
  rw [he, afterSnap_endSnap_of_idle none idle]
  exact ⟨getF_endSnap_state .., getF_endSnap_status .., delivered.buddy, delivered.draw⟩

theorem failed_completeSnap {e : SnapPage} (he : e ∈ x.pages) (hn : e.cells = none)
    (hl : (Tab.get? d.pages e.key).map Page.poison = some .lost) :
    getF (afterSnap (completeSnap d p) p) (F.clrSnap_state p) = 3 ∧ getF (afterSnap (completeSnap d p) p) (F.clrSnap_status p) = 4 ∧
      (afterSnap (completeSnap d p) p).mem = d.mem := by
  rw [completeSnap_of_lost hc hx he hn hl, afterSnap_endSnap_of_idle hw hs]
  exact ⟨getF_endSnap_state .., getF_endSnap_status .., endSnap_mem ..⟩

end

/-! Generations and acknowledgements (R244) -/

/-- A generation from the region's source becomes the readable one, and the source is told. -/
theorem generation_completeGeneration {d : Dev} {p src gyle : Nat} (he : flag d (F.clrBuddy_en p) = true)
    (hsrc : getF d (F.clrBuddySrc_src p) = src) (hg : gyle < 2 ^ 48) :
    getF (completeGeneration d p src gyle) (F.clrBuddy_gen p) = 1 - getF d (F.clrBuddy_gen p) ∧
      getF (completeGeneration d p src gyle) (F.clrBuddy_valid p) = 1 ∧
      getF (completeGeneration d p src gyle) (F.clrBuddySrc_last_gyle p) = gyle ∧
      (completeGeneration d p src gyle).acked = (src, p, gyle) :: d.acked := by
  have done : completeGeneration d p src gyle = setF (setF (setF { d with acked := (src, p, gyle % 2 ^ 48) :: d.acked } (F.clrBuddy_gen p)
      (1 - getF d (F.clrBuddy_gen p))) (F.clrBuddy_valid p) 1) (F.clrBuddySrc_last_gyle p) gyle :=
    if_pos (by rw [he, hsrc, beq_self_eq_true]; rfl)
  rw [done]
  refine ⟨?_, ?_, ?_, congrArg (fun n => (src, p, n) :: d.acked) (Nat.mod_eq_of_lt hg)⟩
  · rw [getF_setF_of_ne _ _ (by simp), getF_setF_of_ne _ _ (by simp), getF_setF_same]
    exact Nat.mod_eq_of_lt (Nat.lt_of_le_of_lt (Nat.sub_le 1 _) Nat.one_lt_two)
  · rw [getF_setF_of_ne _ _ (by simp), getF_setF_same]
    rfl
  · rw [getF_setF_same]
    exact Nat.mod_eq_of_lt hg

/-- What an acknowledgement of snapshot x says of a page: clean if listed and not written since, where it is the partition's. -/
def pageAcked (x : Snap) (p : Nat) (k : PageKey) (y : Page) : Page :=
  if k.1 = p then { y with ckptClean := x.pages.any (fun e => e.key == k && e.stamp == y.stamp) } else y

section
variable {d : Dev} {p : Nat} {x : Snap} {rest : List Snap} (h : (Tab.get? d.acks p).getD [] = x :: rest)
include h

/-- The oldest snapshot that awaits its acknowledgement is the peer's complete generation. -/
theorem ackSnap_of_waiting : ackSnap d p = { d with
    acks := Tab.put d.acks p rest, buddies := Tab.put d.buddies p ⟨x.module, peerPart d x, x.addr, x.pages.map (fun e => e.key)⟩
    pages := d.pages.map (fun e => (e.1, pageAcked x p e.1 e.2)) } := by
  have acked (e : PageKey × Page) : (if e.1.1 = p then
      (e.1, { e.2 with ckptClean := x.pages.any (fun k => k.key == e.1 && k.stamp == e.2.stamp) }) else e) = (e.1, pageAcked x p e.1 e.2) := by
    unfold pageAcked
    split <;> rfl
  rw [ackSnap, h]
  simp only [acked]

theorem pageAt_ackSnap (q : Nat) (w : Tier) (u : Nat) :
    pageAt (ackSnap d p) q w u = (pageAt d q w u).map (pageAcked x p (q, w, u)) := by
  rw [ackSnap_of_waiting h]
  exact Tab.get?_map d.pages (pageAcked x p) (q, w, u)

theorem pageAt_ackSnap_of_mine {w : Tier} {u : Nat} {y : Page} (hy : pageAt d p w u = some y) : pageAt (ackSnap d p) p w u =
    some { y with ckptClean := x.pages.any (fun e => e.key == (p, w, u) && e.stamp == y.stamp) } := by
  rw [pageAt_ackSnap h, hy, Option.map_some, pageAcked, if_pos rfl]

theorem pageAt_ackSnap_of_other {q : Nat} (hq : q ≠ p) (w : Tier) (u : Nat) : pageAt (ackSnap d p) q w u = pageAt d q w u := by
  have same : pageAcked x p (q, w, u) = id := funext fun _ => if_neg hq
  rw [pageAt_ackSnap h, same, Option.map_id_fun, id_eq]

theorem acks_ackSnap : Tab.get? (ackSnap d p).acks p = some rest := by
  rw [ackSnap_of_waiting h]
  exact Tab.get?_put_same ..

theorem afterSnap_ackSnap (hw : waitingDraw d p = none) (hs : flag d (F.clrSnap_start p) = false) : afterSnap (ackSnap d p) p = ackSnap d p := by
  rw [ackSnap_of_waiting h]
  exact afterSnap_of_idle hw hs

end

/-- The region is enabled, with no generation in it yet (R251). -/
theorem enabled_buddyWrite {d : Dev} {p v : Nat} (he : flag d (F.clrBuddy_en p) = false) (h63 : bitOf v 63 = true) :
    getF (buddyWrite d p v) (F.clrBuddy_en p) = 1 ∧ getF (buddyWrite d p v) (F.clrBuddy_valid p) = 0 ∧
      getF (buddyWrite d p v) (F.clrBuddy_base p) = bits v 18 0 ∧ getF (buddyWrite d p v) (F.clrBuddy_gpages p) = bits v 58 40 ∧
      ∀ k : FKey, k.reg ≠ .clrBuddy p → getF (buddyWrite d p v) k = getF d k := by
  have written : buddyWrite d p v = setF (setF (setF (setF d (F.clrBuddy_gpages p) (bits v 58 40)) (F.clrBuddy_base p) (bits v 18 0))
      (F.clrBuddy_en p) (bits v 63 63)) (F.clrBuddy_valid p) 0 := by
    rw [buddyWrite, he, h63]
    rfl
  have other {k : FKey} (hk : k.reg ≠ .clrBuddy p) (d : Dev) (lo x : Nat) : getF (setF d ⟨.clrBuddy p, lo⟩ x) k = getF d k :=
    getF_setF_of_ne _ _ (FKey.ne_of_reg hk.symm)
  rw [written]
  refine ⟨?_, ?_, ?_, ?_, fun k hk => by rw [other hk, other hk, other hk, other hk]⟩
  · rw [getF_setF_of_ne _ _ (by simp), getF_setF_bits _ rfl]
    exact eq_of_beq h63
  · rw [getF_setF_same]
    rfl
  · rw [getF_setF_of_ne _ _ (by simp), getF_setF_of_ne _ _ (by simp), getF_setF_bits _ rfl]
  · rw [getF_setF_of_ne _ _ (by simp), getF_setF_of_ne _ _ (by simp), getF_setF_of_ne _ _ (by simp), getF_setF_bits _ rfl]

theorem buddyWrite_of_enabled {d : Dev} {p v : Nat} (he : flag d (F.clrBuddy_en p) = true) (h63 : bitOf v 63 = true) :
    buddyWrite d p v = setF d (F.clrSnap_wr_err p) 1 := if_pos (by rw [he, h63]; rfl)

/-! The commands -/

/-- With no audit entry asked for, the module is as the command left it. -/
theorem flushAudit_dev {s : State} (h : s.dev.audits = []) : (flushAudit s).dev = s.dev := by
  have same : ({ s.dev with audits := [] } : Dev) = s.dev := by rw [← h]
  unfold flushAudit
  rw [h, same]
  dsimp only [List.foldl]
  split <;> rfl

section
variable {s : State} (hg : s.dev.powerGood = true) (p : PartId)
include hg

theorem exec_buddySnapshot {v : Word} (h63 : bitOf v.toNat 63 = true) (h60 : bitOf v.toNat 60 = false) :
    exec (.buddySnapshot p v) s = .next (flushAudit { s with dev := afterSnap (snapWrite s.dev p v.toNat) p }) :=
  congrArg Host.Outcome.next ((onMal_of_good hg).trans (by rw [h63, h60]; rfl))

theorem exec_drawSnapshot {v : Word} (h63 : bitOf v.toNat 63 = true) (h60 : bitOf v.toNat 60 = true) :
    exec (.drawSnapshot p v) s = .next (flushAudit { s with dev := afterSnap (snapWrite s.dev p v.toNat) p }) :=
  congrArg Host.Outcome.next ((onMal_of_good hg).trans (by rw [h63, h60]; rfl))

theorem exec_snapshotAbort {v : Word} (h62 : bitOf v.toNat 62 = true) : exec (.snapshotAbort p v) s =
    .next (withAudit (fun d => pagesChanged (fun _ => afterSnap (snapWrite s.dev p v.toNat) p) d) s) := by
  have made : exec (.snapshotAbort p v) s = .next (flushAudit { s with
      dev := if bitOf v.toNat 62 then pagesChanged (fun d => afterSnap (snapWrite d p v.toNat) p) s.dev else s.dev }) :=
    congrArg Host.Outcome.next (onMal_of_good hg)
  rw [made, if_pos h62, pagesChanged_at, withAudit, withDev]

theorem exec_snapshotComplete : exec (.snapshotComplete p) s =
    .next (withAudit (fun d => pagesChanged (fun _ => afterSnap (completeSnap s.dev p) p) d) s) := by
  have made : exec (.snapshotComplete p) s = .next (flushAudit { s with
      dev := pagesChanged (fun d => afterSnap (completeSnap d p) p) s.dev }) := congrArg Host.Outcome.next (onMal_of_good hg)
  rw [made, pagesChanged_at, withAudit, withDev]

theorem exec_buddyGenerationComplete (src : BitVec 16) (gyle : BitVec 48) : exec (.buddyGenerationComplete p src gyle) s =
    .next { s with dev := completeGeneration s.dev p src.toNat gyle.toNat } := congrArg Host.Outcome.next (onDev_of_good hg)

theorem exec_buddyAck : exec (.buddyAck p) s = .next (flushAudit { s with dev := afterSnap (ackSnap s.dev p) p }) :=
  congrArg Host.Outcome.next (onMal_of_good hg)

theorem exec_buddyRegionEnable {v : Word} (h63 : bitOf v.toNat 63 = true) :
    exec (.buddyRegionEnable p v) s = .next { s with dev := buddyWrite s.dev p v.toNat } :=
  congrArg Host.Outcome.next ((onDev_of_good hg).trans (by rw [if_pos h63]))

end

/-- Settles O40: each command by the law of the request, the snapshot or the region that it finds. -/
theorem snapshots : Obligations.Snapshots := by
  intro s p v hg ha hw
  extract_lets d taken r copying idle starts ends copied
  have started {i : Instr} (hi : exec i s = .next (flushAudit { s with dev := afterSnap (snapWrite d p v.toNat) p }))
      (h63 : bitOf v.toNat 63 = true) : starts i := by
    have answered (haud : (afterSnap (snapWrite d p v.toNat) p).audits = d.audits) :
        ∃ t, exec i s = .next t ∧ t.dev = afterSnap (snapWrite d p v.toNat) p :=
      ⟨_, hi, flushAudit_dev (s := { s with dev := afterSnap (snapWrite d p v.toNat) p }) (haud.trans ha)⟩
    have quiet {e : Dev} (h : SnapNoted p d e) : e.audits = d.audits ∧ e.mem = d.mem ∧ e.snaps = d.snaps :=
      ⟨h.same Dev.audits (fun _ _ _ => rfl), h.same Dev.mem (fun _ _ _ => rfl), h.same Dev.snaps (fun _ _ _ => rfl)⟩
    refine ⟨fun ks hc hh hk => ?_, fun st hc hh hk => ?_, fun hc hh => ?_, fun hc h62 => ?_⟩
    · obtain ⟨state, status, ⟨l, snap⟩, audits⟩ := begun_snapWrite hc h63 hh hk
      obtain ⟨t, ht, hd⟩ := answered audits
      refine ⟨t, ht, ?_⟩
      rw [hd]
      exact ⟨state, status, (afterSnap_mem ..).trans (snapWrite_mem ..), by rw [snap]; rfl⟩
    · obtain ⟨state, status, noted⟩ := refused_snapWrite hc h63 hw hh hk
      obtain ⟨audits, mem, snaps⟩ := quiet noted
      obtain ⟨t, ht, hd⟩ := answered audits
      refine ⟨t, ht, ?_⟩
      rw [hd]
      exact ⟨state, status, mem, snaps⟩
    · obtain ⟨start, state, noted⟩ := queued_snapWrite hc h63 hw hh
      obtain ⟨audits, mem, snaps⟩ := quiet noted
      obtain ⟨t, ht, hd⟩ := answered audits
      refine ⟨t, ht, ?_⟩
      rw [hd]
      exact ⟨start, state, mem, snaps⟩
    · obtain ⟨start, err, state, noted⟩ := queued_snapWrite_of_copying hc h63 h62
      obtain ⟨audits, mem, snaps⟩ := quiet noted
      obtain ⟨t, ht, hd⟩ := answered audits
      refine ⟨t, ht, ?_⟩
      rw [hd]
      exact ⟨start, err, state, mem, snaps⟩
  refine ⟨fun h63 h60 => started (exec_buddySnapshot hg p h63 h60) h63, fun h63 h60 => started (exec_drawSnapshot hg p h63 h60) h63,
    fun h62 h63 hc hs => ?_, fun x hc hs hx hall => ⟨_, exec_snapshotComplete hg p, done_completeSnap hc hs hw hx hall⟩,
    fun x e hc hs hx he hn hl => ⟨_, exec_snapshotComplete hg p, failed_completeSnap hc hs hw hx he hn hl⟩,
    fun src gyle he hsrc => ?_, fun x rest hx hs => ?_, fun he h63 => ?_, fun he h63 => ?_⟩
  · obtain ⟨state, status⟩ := aborted_snapWrite hc h62 h63 hw hs
    exact ⟨_, exec_snapshotAbort hg p h62, state, status, (afterSnap_mem ..).trans (snapWrite_mem ..)⟩
  · obtain ⟨gen, valid, last, acked⟩ := generation_completeGeneration he hsrc gyle.isLt
    exact ⟨_, exec_buddyGenerationComplete hg p src gyle, gen, valid, last, acked, completeGeneration_mem ..⟩
  · have quiet := afterSnap_ackSnap hx hw hs
    have audits : (afterSnap (ackSnap d p) p).audits = [] := by rw [quiet, ackSnap_of_waiting hx]; exact ha
    refine ⟨_, exec_buddyAck hg p, ?_⟩
    rw [flushAudit_dev audits, quiet]
    exact ⟨ackSnap_mem .., acks_ackSnap hx, fun w u y hy => pageAt_ackSnap_of_mine hx hy, fun q w u hq => pageAt_ackSnap_of_other hx hq w u⟩
  · obtain ⟨en, valid, base, gpages, other⟩ := enabled_buddyWrite he h63
    exact ⟨_, exec_buddyRegionEnable hg p h63, en, valid, base, gpages, other⟩
  · rw [exec_buddyRegionEnable hg p h63, buddyWrite_of_enabled he h63]

end Sys2Proof.Machine
end

section
namespace Sys2Proof.Machine

/-! A command of the mailbox that may run (R316, R318) -/

/-- A command of the module with the rails on, as exec answers it. -/
theorem exec_of_onMal {s : State} (hg : s.dev.powerGood = true) {f : Dev → Dev} {i : Instr} {e : Dev}
    (he : exec i s = .next (onMal f s)) (hf : f s.dev = e) : exec i s = .next (flushAudit { s with dev := e }) := by
  rw [he, onMal_of_good hg, hf]

theorem picked_of_cmdAt {d : Dev} {k op : Nat} {m : MbxCmd} (h : cmdAt d k op = some m) : d.picked[k]? = some m := by
  unfold cmdAt at h
  split at h
  · next x hx =>
    split at h
    · rw [hx, h]
    · cases h
  · cases h

theorem role_of_operatorCmd {m : MbxCmd} (h : operatorCmd m = true) : m.role = 0 := eq_of_beq (Bool.and_eq_true_iff.1 h).1

section
variable {d : Dev} {k op : Nat} {m : MbxCmd} {fields role : MbxCmd → Bool} (hc : cmdAt d k op = some m) (hf : fields m = true)
include hc hf

theorem runCmd_of_ready (hr : role m = true) (hu : (m.role != 0 && op != 0x43 && flag d F.secAudit_full) = false)
    (work : Dev → MbxCmd → Dev) : runCmd d k op fields role work = work d m := by
  rw [runCmd, hc]
  dsimp only
  rw [hf, hr, hu]
  rfl

/-- An operator's command with its fields right does its own work, whether the audit log is full or not. -/
theorem runCmd_of_operator (ho : operatorCmd m = true) (work : Dev → MbxCmd → Dev) : runCmd d k op fields operatorCmd work = work d m :=
  runCmd_of_ready hc hf ho (by rw [role_of_operatorCmd ho]; rfl) work

end

/-! Pages and the pool (R230, R234, R318) -/

theorem any_false_of_forall {α : Type} {l : List α} {q : α → Bool} (h : ∀ a ∈ l, q a = false) : l.any q = false :=
  List.any_eq_false.2 (fun a ha => by rw [h a ha]; exact Bool.false_ne_true)

section
variable {d : Dev} {k : Nat} {m : MbxCmd} (ho : operatorCmd m = true)
include ho

theorem runPageMap_of_free {w : Tier} {vs : List Nat} {e : Dev} (hc : cmdAt d k 0x20 = some m)
    (hf : fieldsOk m [allBits, (2 ^ 24 - 1) * 2 ^ 40 + 0x13FFF] = true) (h1 : 1 ≤ bits (m.arg 2) 13 0) (hn : bits (m.arg 2) 13 0 ≤ 8192)
    (hw : windowPages (m.arg 1) (bits (m.arg 2) 13 0) = some (w, vs)) (hfree : ∀ v ∈ vs, pageAt d m.part w v = none)
    (he : mapPages d m.part w (bits (m.arg 2) 63 40) (bitOf (m.arg 2) 16) vs = some e) : runPageMap d k = answer e m 0 [] := by
  have free : vs.any (fun v => (pageAt d m.part w v).isSome) = false := any_false_of_forall (fun v hv => by rw [hfree v hv]; rfl)
  rw [runPageMap, runCmd_of_operator hc (by rw [hf]; exact decide_eq_true ⟨h1, hn⟩) ho, hw]
  dsimp only
  rw [free, he]
  rfl

theorem runPageUnmap_of_mapped {w : Tier} {vs : List Nat} (hc : cmdAt d k 0x21 = some m) (hf : fieldsOk m [allBits, 0x3FFF] = true)
    (h17 : bitOf (m.arg 2) 17 = false) (h1 : 1 ≤ bits (m.arg 2) 13 0) (hn : bits (m.arg 2) 13 0 ≤ 8192)
    (hw : windowPages (m.arg 1) (bits (m.arg 2) 13 0) = some (w, vs)) (hmapped : ∀ v ∈ vs, (pageAt d m.part w v).isSome = true) :
    runPageUnmap d k = answer (vs.foldl (fun d v => unmapPage d m.part w v) d) m 0 [vs.length] := by
  have mapped : vs.any (fun v => (pageAt d m.part w v).isNone) = false :=
    any_false_of_forall (fun v hv => by rw [← Option.not_isSome, hmapped v hv]; rfl)
  have fields : (if bitOf (m.arg 2) 17 then fieldsOk m [0, (2 ^ 24 - 1) * 2 ^ 40 + 0x20000]
      else fieldsOk m [allBits, 0x3FFF] && countOk (bits (m.arg 2) 13 0)) = true := by
    rw [h17, hf]
    exact decide_eq_true ⟨h1, hn⟩
  rw [runPageUnmap, runCmd_of_operator hc fields ho]
  dsimp only
  rw [h17, hw]
  dsimp only
  rw [mapped, forEach, List.foldl_map, List.length_map]
  rfl

section
variable (hc : cmdAt d k 0x22 = some m) (hf : fieldsOk m [0xFFFFFF, 0x33, 0xFFFF, 2 ^ 48 - 1, 3] = true) (hpin : bits (m.arg 2) 1 0 ≠ 3)
  (hsrc : bits (m.arg 2) 5 4 ≠ 3) (haddr : bits (m.arg 2) 5 4 = 2 → m.arg 4 % pageSize = 0)
  (hks : inPageOrder (objectPages d m.part (m.arg 1)) ≠ [])
include hc hf hpin hsrc haddr hks

theorem runPageAttr_of_object : runPageAttr d k =
    match if bits (m.arg 2) 1 0 = 1 then pinPages d m.part (inPageOrder (objectPages d m.part (m.arg 1))) else some d with
    | some e => answer (attrPages e m (inPageOrder (objectPages d m.part (m.arg 1)))) m 0
        [(inPageOrder (objectPages d m.part (m.arg 1))).length]
    | none => answer d m 9 [] := by
  have aligned : (bits (m.arg 2) 5 4 == 2 && m.arg 4 % pageSize != 0) = false := by
    rw [Bool.and_eq_false_imp]
    intro h
    rw [haddr (eq_of_beq h)]
    rfl
  rw [runPageAttr, runCmd_of_operator hc (by rw [hf, bne_iff_ne.2 hpin, bne_iff_ne.2 hsrc, aligned]; rfl) ho]
  split
  · next h => exact absurd h hks
  · rfl

theorem runPageAttr_of_pinned {e : Dev} (he : (if bits (m.arg 2) 1 0 = 1 then
      pinPages d m.part (inPageOrder (objectPages d m.part (m.arg 1))) else some d) = some e) :
    runPageAttr d k = answer (attrPages e m (inPageOrder (objectPages d m.part (m.arg 1)))) m 0
      [(inPageOrder (objectPages d m.part (m.arg 1))).length] := by
  rw [runPageAttr_of_object ho hc hf hpin hsrc haddr hks, he]

theorem runPageAttr_of_unpinned (h1 : bits (m.arg 2) 1 0 = 1)
    (he : pinPages d m.part (inPageOrder (objectPages d m.part (m.arg 1))) = none) : runPageAttr d k = answer d m 9 [] := by
  rw [runPageAttr_of_object ho hc hf hpin hsrc haddr hks, if_pos h1, he]

end

/-! Formations are prepared, committed and cancelled (R295, R319) -/

section
variable (hc : cmdAt d k 0x30 = some m) (hf : formFields m = true)
include hc hf

theorem runForm_of_phase {phase : Nat} (hp : bits (m.arg 1) 1 0 = phase) (work : Dev → MbxCmd → Dev) : runForm d k phase work = work d m := by
  rw [runForm, picked_of_cmdAt hc]
  dsimp only
  rw [if_pos (.inl hp), runCmd_of_operator hc hf ho]

/-- The formation a PREPARE asks for. -/
def preparedForm (m : MbxCmd) : Formation :=
  ⟨m.arg 2, bits (m.arg 3) 24 0, bits (m.arg 3) 49 25, bits (m.arg 4) 15 0, if bits (m.arg 4) 31 16 = 0 then 1000 else bits (m.arg 4) 31 16,
    bits (m.arg 4) 46 32, 0, 0, 0, []⟩

theorem runForm_prepare (hp : bits (m.arg 1) 1 0 = 0) (hbox : boxFits d m.part (bits (m.arg 3) 24 0) (bits (m.arg 3) 49 25) = true)
    (hv : flag d (F.fabSlice_valid m.part) = false) (hn : Tab.get? d.forms m.part = none)
    (hr : sliceReady d m.part (bits (m.arg 3) 24 0) (bits (m.arg 3) 49 25) = true) : runForm d k 0 formPrepare =
      answer { d with forms := Tab.put d.forms m.part (preparedForm m) } m 0
        [groupRank (inBox d m.part (bits (m.arg 3) 24 0) (bits (m.arg 3) 49 25)) m.part 31 (ownCoord d)] := by
  rw [runForm_of_phase ho hc hf hp, formPrepare]
  dsimp only
  rw [hbox, hv, hn, hr]
  rfl

variable {x : Formation} (hx : formOf d m = some x) (h0 : x.phase = 0)
include hx h0

theorem runForm_commit (hp : bits (m.arg 1) 1 0 = 1) (ht : m.ftc + 400000 ≤ m.arg 5) : runForm d k 1 formCommit =
    setCmd { d with forms := Tab.put d.forms m.part { x with cmd := m.id, phase := 1, instant := m.arg 5 } } { m with waits := true } := by
  rw [runForm_of_phase ho hc hf hp, formCommit, hx]
  dsimp only
  rw [if_neg (not_not_intro h0), if_neg (Nat.not_lt.2 ht)]

theorem runForm_cancel (hp : bits (m.arg 1) 1 0 = 2) :
    runForm d k 2 formCancel = answer { d with forms := Tab.erase d.forms m.part } m 0 [] := by
  rw [runForm_of_phase ho hc hf hp, formCancel, hx]
  exact if_neg (not_not_intro h0)

end

/-! Dissolutions and draws (R297, R306, R320) -/

section
variable (hc : cmdAt d k 0x31 = some m) (hv : flag d (F.fabSlice_valid m.part) = true)
include hc hv

theorem runDissolve_at (hf : fieldsOk m [1, allBits] = true) (h0 : bitOf (m.arg 1) 0 = false) (ht : m.ftc + 400000 ≤ m.arg 2)
    (hn : Tab.get? d.ends m.part = none) :
    runDissolve d k = setCmd { d with ends := Tab.put d.ends m.part (m.arg 2, m.id) } { m with waits := true } := by
  rw [runDissolve, runCmd_of_operator hc (by rw [h0]; exact hf) ho]
  dsimp only
  rw [hv, h0, hn, if_neg (Nat.not_lt.2 ht)]
  rfl

theorem runDissolve_now (hf : fieldsOk m [1, 0] = true) (h0 : bitOf (m.arg 1) 0 = true) (hfault : flag d (F.fabSlstat_fault m.part) = true) :
    runDissolve d k = endDissolve (answer (dissolve d m.part) m 0 []) m.part 0x13 := by
  rw [runDissolve, runCmd_of_operator hc (by rw [h0]; exact hf) ho]
  dsimp only
  rw [hv, h0, hfault]
  rfl

end

section
variable (hc : cmdAt d k 0x32 = some m) (hf : fieldsOk m [allBits, allBits, 0xFFFF, 2 ^ 48 - 1] = true) (h3 : m.arg 3 ≠ 0)
include hc hf h3

theorem runDraw_of_allowed : runDraw d k false =
    if getF d (F.clrSnap_state m.part) = 1 ∨ flag d (F.clrSnap_start m.part) = true then setCmd d { m with waits := true } else draw d m :=
  runCmd_of_ready hc (by rw [hf, bne_iff_ne.2 h3]; rfl) (by rw [ho]; rfl) (by rw [role_of_operatorCmd ho]; rfl) _

theorem runDraw_of_free {ks : List PageKey} (hs : getF d (F.clrSnap_state m.part) ≠ 1) (hn : flag d (F.clrSnap_start m.part) = false)
    (hh : listHeld d m.part (drawReq m) = false) (hk : snapCheck d m.part (drawReq m) = .ok ks) (hq : clrUsed d m.part ≤ clrQuota d m.part) :
    runDraw d k false = answer (beginSnap d m.part (drawReq m)) m 0 [0] := by
  rw [runDraw_of_allowed ho hc hf h3, if_neg (by rw [hn]; simp [hs]), draw, hh, beginDraw, hk]
  exact if_neg (Nat.not_lt.2 hq)

end

end

/-! A formation at its instant (R296, R319) -/

/-- The fields of a slice and of the time counter that a formation and a dissolution set last. -/
def sliceField (k : FKey) : Bool :=
  match k.reg with
  | .fabSlice _ | .fabFtc => true
  | .fabEpoch p => k == F.fabEpoch_cur p
  | _ => false

/-- The formations, the dissolutions that wait and those fields as they were. -/
structure SliceKept (d e : Dev) : Prop where
  forms : e.forms = d.forms
  ends : e.ends = d.ends
  field : ∀ k, sliceField k = true → getF e k = getF d k

namespace SliceKept
variable {d e g : Dev}

theorem refl (d : Dev) : SliceKept d d := ⟨rfl, rfl, fun _ _ => rfl⟩

theorem trans (h : SliceKept d e) (h' : SliceKept e g) : SliceKept d g :=
  ⟨h'.forms.trans h.forms, h'.ends.trans h.ends, fun k hk => (h'.field k hk).trans (h.field k hk)⟩

theorem ite {q : Prop} [Decidable q] (h : SliceKept d e) (h' : SliceKept d g) : SliceKept d (if q then e else g) := by
  split
  · exact h
  · exact h'

theorem forEach {α : Type} {step : Dev → α → Dev} (hs : ∀ d a, SliceKept d (step d a)) (l : List α) (d : Dev) :
    SliceKept d (forEach l d step) :=
  forEach_keeps (P := fun e => SliceKept d e) (fun e a h => h.trans (hs e a)) l d (refl d)

theorem setF {k : FKey} (hk : sliceField k = false) (d : Dev) (v : Nat) : SliceKept d (setF d k v) :=
  ⟨rfl, rfl, fun _ hj => getF_setF_of_ne d v (fun h => by rw [← h, hk] at hj; cases hj)⟩

theorem raise {irq : FKey} (hk : sliceField irq = false) (d : Dev) (p : Option Nat) (en : FKey) : SliceKept d (raise d p irq en) :=
  ⟨raise_same Dev.forms (fun _ _ _ => rfl) .., raise_same Dev.ends (fun _ _ _ => rfl) ..,
    fun j hj => (getF_raise d p irq en j).trans ((setF hk d 1).field j hj)⟩

end SliceKept

theorem sliceKept_countTicks (n : Nat) (d e : Dev) : SliceKept e (countTicks n d e) := by
  refine SliceKept.trans (.forEach (fun e p => ?_) _ e) (.forEach (fun e c => .ite (.setF rfl e _) (.refl e)) _ _)
  split <;> exact .setF rfl e _

theorem PortsOnly.sliceKept {d e : Dev} (h : PortsOnly d e) : SliceKept d e :=
  ⟨h.same Dev.forms (fun _ => rfl), h.same Dev.ends (fun _ => rfl), fun k _ => h.field k⟩

theorem sliceKept_setChan (d : Dev) (p ch : Nat) (x : Chan) : SliceKept d (setChan d p ch x) := ⟨rfl, rfl, fun _ _ => rfl⟩

theorem sliceKept_releaseUse (d : Dev) (p ch : Nat) (x : Chan) (t : Nat) (a : Arrival) : SliceKept d (releaseUse d p ch x t a) :=
  (sliceKept_setChan d p ch _).trans (PortsOnly.forEach (step := fun e q => sendSb e q
    ⟨2, p, ch, useGen e p ch x, a.flags, t, if ch = 16 then a.value % 2 ^ 28 else 0⟩) (fun _ _ => portsOnly_sendSb ..) _ _).sliceKept

/-- A use that is no flag check finds no two modes, so it faults no slice as it goes up the tree. -/
theorem sliceKept_climb {d : Dev} {p ch : Nat} (h : (openUse d p ch).check = none) : SliceKept d (climb d p ch) := by
  unfold climb
  dsimp only
  refine .ite (.refl d) (.ite ?_ (.ite (.refl d) ?_))
  · split
    · exact .ite (sliceKept_setChan ..) (.refl d)
    · exact .refl d
  · split
    · exact .refl d
    · rw [h]
      exact .ite (sliceKept_releaseUse ..) ((sliceKept_setChan ..).trans (portsOnly_sendSb ..).sliceKept)

/-- The use is a new one where none is open. -/
theorem openUse_of_none {d : Dev} {p ch : Nat} (h : Tab.get? d.chans (p, ch) = none) :
    openUse d p ch = { Chan.fresh with cancelled := flag d (F.fabSlstat_fault p) } := by
  rw [openUse, h]

theorem check_openUse_of_some {d : Dev} {p ch : Nat} {x : Chan} (h : Tab.get? d.chans (p, ch) = some x) (hx : x.check = none) :
    (openUse d p ch).check = none := by
  rw [openUse, h]
  dsimp only
  split
  · rfl
  · exact hx

theorem sliceKept_arriveChan {d : Dev} {p ch : Nat} (h : Tab.get? d.chans (p, ch) = none) (a : Arrival) {g : Chan → Chan}
    (hg : ∀ x, (g x).check = x.check) : SliceKept d (arriveChan d p ch a g) := by
  refine (sliceKept_setChan d p ch _).trans (sliceKept_climb (check_openUse_of_some (Tab.get?_put_same ..) ?_))
  rw [hg, openUse_of_none h]
  rfl

section
variable (d : Dev) (p : Nat) (f : Formation)

/-- What a formation writes of the slice's registers beside the box and the epoch. -/
theorem getF_writeSlice {k : FKey} (hs : k.reg ≠ .fabSlcfg p) (he : k.reg ≠ .fabEpoch p) :
    getF (writeSlice d p f) k = getF (inBox d p f.origin f.size) k := by
  have other {r : Reg} (hr : k.reg ≠ r) (d : Dev) (lo x : Nat) : getF (setF d ⟨r, lo⟩ x) k = getF d k :=
    getF_setF_of_ne _ _ (FKey.ne_of_reg hr.symm)
  have sealed (d : Dev) : getF (sealSlice d p) k = getF d k := other hs _ _ _
  rw [writeSlice, syncOpen, other he, other he, other he, sealed, other hs, other hs, other hs, other hs, other hs]

theorem getF_writeSlice_valid : getF (writeSlice d p f) (F.fabSlice_valid p) = 1 := by
  rw [getF_writeSlice _ _ _ (by simp) (by simp), inBox, getF_setF_same]
  rfl

theorem getF_writeSlice_ftc : getF (writeSlice d p f) F.fabFtc_ftc = getF d F.fabFtc_ftc := by
  rw [getF_writeSlice _ _ _ (by simp) (by simp), inBox, getF_setF_of_ne _ _ (by simp), getF_setF_of_ne _ _ (by simp),
    getF_setF_of_ne _ _ (by simp)]

theorem getF_writeSlice_epoch : getF (writeSlice d p f) (F.fabEpoch_cur p) = f.epoch % 2 ^ (F.fabEpoch_cur p).width := by
  rw [writeSlice, syncOpen, getF_setF_of_ne _ _ (by simp), getF_setF_of_ne _ _ (by simp), getF_setF_same]

theorem writeSlice_forms : (writeSlice d p f).forms = d.forms := rfl

end

section
variable {d : Dev} {p : Nat} {f : Formation} (hf : Tab.get? d.forms p = some f)
include hf

/-- What a formation's instant leaves: the slice, the time and the epoch, and the formation under way (R296, R319). -/
theorem instantForm_at (h1 : f.phase = 1) (hm : d.malt = 1) : getF (instantForm d p) (F.fabSlice_valid p) = 1 ∧
    getF (instantForm d p) F.fabFtc_ftc = max (ftcOf d) f.instant % 2 ^ 64 ∧
    getF (instantForm d p) (F.fabEpoch_cur p) = f.epoch % 2 ^ (F.fabEpoch_cur p).width ∧
    (Tab.get? (instantForm d p).forms p).map Formation.phase = some 2 := by
  unfold instantForm
  rw [hf]
  dsimp only
  rw [if_neg (by simp [h1, hm])]
  have arrived (e : Dev) (a : Arrival) : SliceKept e (arriveChan { e with chans := Tab.erase e.chans (p, 17) } p 17 a
      (fun x => { x with engine := true, formation := true })) :=
    SliceKept.trans (e := { e with chans := Tab.erase e.chans (p, 17) }) ⟨rfl, rfl, fun _ _ => rfl⟩
      (sliceKept_arriveChan (Tab.get?_erase_same ..) a (fun _ => rfl))
  refine ⟨((arrived ..).field _ rfl).trans (getF_writeSlice_valid ..), ((arrived ..).field _ rfl).trans ((getF_writeSlice_ftc ..).trans ?_),
    ((arrived ..).field _ (by simp [sliceField])).trans (getF_writeSlice_epoch ..), ?_⟩
  · exact getF_setF_same ..
  · rw [(arrived ..).forms, writeSlice_forms, Tab.get?_put_same]
    rfl

/-! A formation ends (R319) -/

section
variable {x : Chan} {t : Nat} {a : Arrival} (h2 : f.phase = 2) (hx : Tab.get? d.chans (p, 17) = some x) (hform : x.formation = true)
  (hr : x.release = some (t, a))
include h2 hx hform hr

theorem releaseForm_of_released : releaseForm d p =
    if bitOf a.flags 1 then failForm (setF d F.fabFtc_ftc (max (ftcOf d) t)) p f 0x0F
    else if bitOf a.flags 3 then failForm (setF d F.fabFtc_ftc (max (ftcOf d) t)) p f 0x0D
    else if bitOf a.flags 4 then failForm (setF d F.fabFtc_ftc (max (ftcOf d) t)) p f 0x0E
    else if bitOf a.flags 5 then failForm (setF d F.fabFtc_ftc (max (ftcOf d) t)) p f 0x02
    else endForm (setF d F.fabFtc_ftc (max (ftcOf d) t)) p f := by
  rw [releaseForm, hf, hx]
  dsimp only
  rw [hr]
  exact if_neg (by simp [h2, hform])

theorem releaseForm_agreed (hb : bits a.flags 5 3 = 0) (h1 : bitOf a.flags 1 = false) :
    releaseForm d p = endForm (setF d F.fabFtc_ftc (max (ftcOf d) t)) p f := by
  obtain ⟨h3, h4, h5⟩ : bitOf a.flags 3 = false ∧ bitOf a.flags 4 = false ∧ bitOf a.flags 5 = false := by
    simp only [bits, bitOf, Nat.reducePow, Nat.reduceAdd, Nat.reduceSub, beq_eq_false_iff_ne] at hb ⊢
    omega
  rw [releaseForm_of_released hf h2 hx hform hr, h1, h3, h4, h5]
  rfl

theorem releaseForm_refused (h1 : bitOf a.flags 1 = true) : releaseForm d p = failForm (setF d F.fabFtc_ftc (max (ftcOf d) t)) p f 0x0F := by
  rw [releaseForm_of_released hf h2 hx hform hr, h1]
  rfl

theorem releaseForm_mixed (h1 : bitOf a.flags 1 = false) (h3 : bitOf a.flags 3 = true) :
    releaseForm d p = failForm (setF d F.fabFtc_ftc (max (ftcOf d) t)) p f 0x0D := by
  rw [releaseForm_of_released hf h2 hx hform hr, h1, h3]
  rfl

end

theorem timeoutForm_of_alone (h2 : f.phase = 2) (hx : Tab.get? d.chans (p, 17) = none) : timeoutForm d p = failForm d p f 0x12 := by
  rw [timeoutForm, hf, hx]
  exact if_pos ⟨h2, rfl⟩

theorem lapseForm_of_prepared (h0 : f.phase = 0) : lapseForm d p =
    if d.picked.any (fun m => m.chan == p && m.opcode == 0x30 && bits (m.arg 1) 1 0 == 1 && m.arg 2 == f.token) then d
    else { d with forms := Tab.erase d.forms p } := by
  rw [lapseForm, hf]
  dsimp only
  cases d.picked.any (fun m => m.chan == p && m.opcode == 0x30 && bits (m.arg 1) 1 0 == 1 && m.arg 2 == f.token)
  · exact if_pos ⟨h0, rfl⟩
  · exact if_neg (fun h => Bool.noConfusion h.2)

end

/-! A dissolution (R297, R320) -/

theorem ends_finishPost (d : Dev) (k : Coll) : (finishPost d k).ends = d.ends := by
  have finished (n : Nat) (j : Job) : (finishJob d k.c n j).ends = d.ends := by
    rw [finishJob_eq, (seqOnly_settle ..).same Dev.ends (fun _ _ _ _ => rfl), jobEnded, (seqOnly_signal ..).same Dev.ends (fun _ _ _ _ => rfl),
      noteFlag]
    split <;> rfl
  unfold finishPost
  split
  · split
    · exact finished ..
    · rfl
  · rfl

theorem ends_resolveColl (d : Dev) (k : Coll) (steps status : Nat) : (resolveColl d k steps status).ends = d.ends := by
  have posted (d : Dev) : (postMask d k.cmask k.evt).ends = d.ends := postMask_same Dev.ends (fun _ _ => rfl) ..
  have written (d : Dev) : (writeStatus d k steps status).ends = d.ends :=
    (accessed_engineWrite ..).same Dev.ends (fun _ _ _ _ _ _ _ _ _ _ _ _ => rfl)
  have synced (d : Dev) : (syncOpen d k.p).ends = d.ends := rfl
  have raised (d : Dev) (o : Option Nat) (irq en : FKey) : (raise d o irq en).ends = d.ends := raise_same Dev.ends (fun _ _ _ => rfl) ..
  unfold resolveColl
  rw [ends_finishPost]
  simp only [apply_ite Dev.ends, raised, synced, posted, written, ite_self]

theorem ends_abortColls (d : Dev) (p : Nat) : (abortColls d p).ends = d.ends :=
  forEach_same Dev.ends (g := fun d k => resolveColl d k k.stepped 3) (fun _ _ => ends_resolveColl ..) _ d

theorem ends_withdrawCancelled (d : Dev) (c : Nat) : (withdrawCancelled d c).ends = d.ends := by
  have gone : (withdraw d c).ends = d.ends := (seqOnly_withdraw d c).same Dev.ends (fun _ _ _ _ => rfl)
  unfold withdrawCancelled
  split
  · dsimp only
    split
    · split
      · exact gone
      · rfl
    · split
      · exact gone
      · rfl
    · rfl
  · rfl

theorem barrierKept_cancelChannels (d : Dev) (p : Nat) : BarrierKept (chansCancelled d p) (cancelChannels d p) :=
  .forEach (fun _ _ => .ite (barrierKept_withdrawCancelled ..) (.refl _)) _ _

theorem ends_cancelChannels (d : Dev) (p : Nat) : (cancelChannels d p).ends = d.ends := by
  refine forEach_same Dev.ends (fun e c => ?_) _ (chansCancelled d p)
  rw [apply_ite Dev.ends, ends_withdrawCancelled, ite_self]

/-! The answer to a command leaves the slices alone (R317) -/

theorem sliceKept_answer (d : Dev) (m : MbxCmd) (status : Nat) (res : List Nat) : SliceKept d (answer d m status res) := by
  have mailed (e : Dev) (l : List (Nat × Nat)) : SliceKept e (forEach l e (fun d x => setF d (F.mbxRsp_word m.chan m.slot x.2) x.1)) :=
    .forEach (fun d _ => .setF rfl d _) l e
  have gone : SliceKept d { d with picked := d.picked.filter (fun x => x.id != m.id) } := ⟨rfl, rfl, fun _ _ => rfl⟩
  have audited (e : Dev) (r : AuditReq) : SliceKept e (audit e r) := ⟨rfl, rfl, fun _ _ => rfl⟩
  have told (e : Dev) (x : List Datagram) : SliceKept e { e with datagrams := x } := ⟨rfl, rfl, fun _ _ => rfl⟩
  have raised (e : Dev) : SliceKept e (raise e (some m.chan) (F.mbxIrq_resp m.chan) (F.mbxIrqEn_resp m.chan)) := .raise rfl ..
  unfold answer
  refine .ite ?_ (SliceKept.trans ?_ (audited ..))
  all_goals exact gone.trans (.ite (told ..) ((mailed ..).trans (raised _)))

theorem sliceKept_answerId (d : Dev) (id status : Nat) (res : List Nat) : SliceKept d (answerId d id status res) := by
  unfold answerId
  split
  · exact sliceKept_answer ..
  · exact .refl d

theorem sliceField_stgState (n : Nat) : sliceField (stgState n) = false := by unfold stgState; split <;> rfl
theorem sliceField_stgItems (n : Nat) : sliceField (stgItems n) = false := by unfold stgItems; split <;> rfl
theorem sliceField_stgLast (n : Nat) : sliceField (stgLast n) = false := by unfold stgLast; split <;> rfl

theorem sliceKept_endSet (d : Dev) (n status : Nat) (res : List Nat) : SliceKept d (endSet d n status res) := by
  have gone : SliceKept d { d with sets := Tab.erase d.sets n } := ⟨rfl, rfl, fun _ _ => rfl⟩
  have closed := (gone.trans (.setF (sliceField_stgState n) _ 0)).trans (.setF (sliceField_stgItems n) _ 0)
  have unblocked (e : Dev) : SliceKept e (unblockStarts e) := ⟨rfl, rfl, fun _ _ => rfl⟩
  have ended := closed.trans (.ite (q := n = 4) (unblocked _) (.refl _))
  unfold endSet
  dsimp only
  split
  · exact (ended.trans (.setF (sliceField_stgLast n) _ _)).trans (sliceKept_answerId ..)
  · exact ended

theorem sliceKept_cancelGyleSet (d : Dev) (p : Nat) : SliceKept d (cancelGyleSet d p) := .ite (sliceKept_endSet ..) (.refl d)

/-- A dissolution leaves no slice, the time as it was, and the dissolutions that wait. -/
theorem dissolve_at (d : Dev) (p : Nat) : getF (dissolve d p) (F.fabSlice_valid p) = 0 ∧
    getF (dissolve d p) F.fabFtc_ftc = getF d F.fabFtc_ftc ∧ (dissolve d p).ends = d.ends := by
  have kept : SliceKept { setF (setF (setF (abortColls (cancelChannels d p) p) (F.fabSlice_valid p) 0) (F.fabSlstat_fault p) 0)
      (F.fabNflag_chk_valid p) 0 with cuts := Tab.erase (abortColls (cancelChannels d p) p).cuts p } (dissolve d p) :=
    sliceKept_cancelGyleSet ..
  have aborted : BarrierKept (chansCancelled d p) (abortColls (cancelChannels d p) p) :=
    (barrierKept_cancelChannels d p).trans (barrierKept_abortColls ..)
  refine ⟨(kept.field _ rfl).trans ?_, (kept.field _ rfl).trans ?_, kept.ends.trans ?_⟩
  · show getF (setF (setF (setF (abortColls (cancelChannels d p) p) (F.fabSlice_valid p) 0) (F.fabSlstat_fault p) 0)
      (F.fabNflag_chk_valid p) 0) (F.fabSlice_valid p) = 0
    rw [getF_setF_of_ne _ _ (by simp), getF_setF_of_ne _ _ (by simp), getF_setF_same]
    rfl
  · show getF (setF (setF (setF (abortColls (cancelChannels d p) p) (F.fabSlice_valid p) 0) (F.fabSlstat_fault p) 0)
      (F.fabNflag_chk_valid p) 0) F.fabFtc_ftc = getF d F.fabFtc_ftc
    rw [getF_setF_of_ne _ _ (by simp), getF_setF_of_ne _ _ (by simp), getF_setF_of_ne _ _ (by simp)]
    exact aborted.field _ rfl
  · exact (ends_abortColls ..).trans (ends_cancelChannels ..)

/-- The dissolution that waited for its FTC is done at it. -/
theorem instantDissolve_at {d : Dev} {p : Nat} {e : Nat × Nat} (he : Tab.get? d.ends p = some e) (hm : d.malt = 1) :
    getF (instantDissolve d p) (F.fabSlice_valid p) = 0 ∧ getF (instantDissolve d p) F.fabFtc_ftc = max (ftcOf d) e.1 % 2 ^ 64 ∧
      Tab.get? (instantDissolve d p).ends p = none := by
  obtain ⟨valid, time, ends⟩ := dissolve_at (setF d F.fabFtc_ftc (max (ftcOf d) e.1)) p
  have waited : Tab.get? (dissolve (setF d F.fabFtc_ftc (max (ftcOf d) e.1)) p).ends p = some e := by rw [ends]; exact he
  rw [instantDissolve, he]
  dsimp only
  rw [if_pos hm, endDissolve, waited]
  have answered := sliceKept_answerId { dissolve (setF d F.fabFtc_ftc (max (ftcOf d) e.1)) p with
    ends := Tab.erase (dissolve (setF d F.fabFtc_ftc (max (ftcOf d) e.1)) p).ends p } e.2 0 []
  refine ⟨(answered.field _ rfl).trans valid, (answered.field _ rfl).trans (time.trans (getF_setF_same ..)), ?_⟩
  rw [answered.ends]
  exact Tab.get?_erase_same ..

/-! The commands -/

section
variable {s : State} (hg : s.dev.powerGood = true)
include hg

/-- What a command brings about that lets held accesses go on, as exec answers it. -/
theorem exec_of_pagesChanged {f : Dev → Dev} {i : Instr} {e : Dev} (he : exec i s = .next (onMal (fun d => pagesChanged f d) s))
    (hf : f s.dev = e) : exec i s = .next (flushAudit { s with dev := pagesChanged (fun _ => e) s.dev }) :=
  exec_of_onMal hg he (by rw [pagesChanged_at, hf])

/-- What an event brings about that moves the time counter on, as exec answers it. -/
theorem exec_of_passing {f : Dev → Dev} {i : Instr} {e : Dev} (he : exec i s = .next (onMal (passing f) s)) (hf : f s.dev = e) :
    exec i s = .next (flushAudit { s with dev := passing (fun _ => e) s.dev }) :=
  exec_of_onMal hg he (by rw [passing, passing, hf])

theorem exec_draw_of_rights (hr : s.sec.fuses.rights.getLsbD 0 = false) {k : Nat} {e : Dev} (he : runDraw s.dev k false = e) :
    exec (.draw k) s = .next (flushAudit { s with dev := e }) := by
  have made : exec (.draw k) s = .next (flushAudit { s with dev := runDraw s.dev k (s.sec.fuses.rights.getLsbD 0) }) :=
    congrArg Host.Outcome.next (onSec_of_good hg)
  rw [made, hr, he]

theorem formed_formationInstant {p : PartId} {f : Formation} (hf : Tab.get? s.dev.forms p.val = some f) (hm : s.dev.malt = 1)
    (h1 : f.phase = 1) : ∃ e, exec (.formationInstant p) s = .next (withAudit (fun _ => e) s) ∧ getF e (F.fabSlice_valid p) = 1 ∧
      getF e F.fabFtc_ftc = max (ftcOf s.dev) f.instant % 2 ^ 64 ∧ getF e (F.fabEpoch_cur p) = f.epoch % 2 ^ (F.fabEpoch_cur p).width ∧
      (Tab.get? e.forms p.val).map Formation.phase = some 2 := by
  obtain ⟨valid, time, epoch, phase⟩ := instantForm_at hf h1 hm
  have ticks : SliceKept (instantForm s.dev p) (passing (fun d => instantForm d p) s.dev) := sliceKept_countTicks ..
  refine ⟨_, exec_onMal hg rfl, (ticks.field _ rfl).trans valid, (ticks.field _ rfl).trans time,
    (ticks.field _ (by simp [sliceField])).trans epoch, ?_⟩
  rw [ticks.forms]
  exact phase

theorem dissolved_dissolutionInstant {p : PartId} {e : Nat × Nat} (he : Tab.get? s.dev.ends p.val = some e) (hm : s.dev.malt = 1) :
    ∃ t, exec (.dissolutionInstant p) s = .next (flushAudit t) ∧ getF t.dev (F.fabSlice_valid p) = 0 ∧
      getF t.dev F.fabFtc_ftc = max (ftcOf s.dev) e.1 % 2 ^ 64 ∧ Tab.get? t.dev.ends p.val = none := by
  obtain ⟨valid, time, ends⟩ := instantDissolve_at he hm
  have ticks : SliceKept (instantDissolve s.dev p) (passing (fun d => instantDissolve d p) s.dev) := sliceKept_countTicks ..
  refine ⟨{ s with dev := passing (fun d => instantDissolve d p) s.dev }, exec_of_onMal hg rfl rfl, (ticks.field _ rfl).trans valid,
    (ticks.field _ rfl).trans time, ?_⟩
  exact (congrArg (Tab.get? · p.val) ticks.ends).trans ends

end

theorem runTrain_of_unused {d : Dev} {k : Nat} {m : MbxCmd} (hc : cmdAt d k 0x33 = some m) (hf : fieldsOk m [0xF] = true)
    (h9 : m.arg 1 ≤ 9) (hr : m.role = 1) (ha : flag d F.secAudit_full = false) (hu : ∀ q < 4, sliceUses d q (m.arg 1) = false) :
    runTrain d k = setPortState (modPort (setF (setCmd d { m with waits := true }) (F.fabPort_disc (m.arg 1)) 0) (m.arg 1)
      (fun x => { x with signal := false })) (m.arg 1) 2 := by
  have unused : (List.range 4).any (fun q => sliceUses d q (m.arg 1)) = false := any_false_of_forall (fun q hq => hu q (List.mem_range.1 hq))
  rw [runTrain, runCmd_of_ready hc (by rw [hf]; exact decide_eq_true h9) (by rw [hr]; rfl) (by rw [ha, Bool.and_false]), unused]
  rfl

/-- Settles O47: each command by what its own work makes of it once it may run, each instant by what it leaves of the slice's registers. -/
theorem operatorCommands : Obligations.OperatorCommands := by
  intro s k m p hg
  extract_lets d is answered freed n
  refine ⟨?map, ?unmap, ?attr, ?query, ?form, ?formed, ?dissolveAt, ?dissolveNow, ?dissolved, ?draw, ?train⟩
  case map =>
    rintro w vs e ⟨hc, hf, ho⟩ h1 hn hw hfree he
    exact exec_of_onMal hg rfl (runPageMap_of_free ho hc hf h1 hn hw hfree he)
  case unmap =>
    rintro w vs ⟨hc, hf, ho⟩ h17 h1 hn hw hmapped
    exact exec_of_pagesChanged hg rfl (runPageUnmap_of_mapped ho hc hf h17 h1 hn hw hmapped)
  case attr =>
    rintro ⟨hc, hf, ho⟩ hpin hsrc haddr hks
    exact ⟨fun e he => exec_of_pagesChanged hg rfl (runPageAttr_of_pinned ho hc hf hpin hsrc haddr hks he),
      fun h1 he => exec_of_pagesChanged hg rfl (runPageAttr_of_unpinned ho hc hf hpin hsrc haddr hks h1 he)⟩
  case query =>
    rintro ⟨hc, hf, ho⟩
    exact exec_of_onMal hg rfl (runCmd_of_operator hc hf ho _)
  case form =>
    intro hc hf ho
    exact ⟨fun hp hbox hv hn hr => exec_of_onMal hg rfl (runForm_prepare ho hc hf hp hbox hv hn hr),
      fun x hp hx h0 ht => exec_of_onMal hg rfl (runForm_commit ho hc hf hx h0 hp ht),
      fun x hp hx h0 => exec_of_onMal hg rfl (runForm_cancel ho hc hf hx h0 hp)⟩
  case formed =>
    intro f hf taken
    refine ⟨fun hm h1 => formed_formationInstant hg hf hm h1, fun x t a h2 hx hform hr => ?_,
      fun h2 hx => exec_of_onMal hg rfl (timeoutForm_of_alone hf h2 hx), fun h0 => exec_of_onMal hg rfl (lapseForm_of_prepared hf h0)⟩
    exact ⟨fun hb h1 => exec_of_passing hg rfl (releaseForm_agreed hf h2 hx hform hr hb h1),
      fun h1 => exec_of_passing hg rfl (releaseForm_refused hf h2 hx hform hr h1),
      fun h1 h3 => exec_of_passing hg rfl (releaseForm_mixed hf h2 hx hform hr h1 h3)⟩
  case dissolveAt =>
    rintro ⟨hc, hf, ho⟩ h0 hv ht hn
    exact exec_of_onMal hg rfl (runDissolve_at ho hc hv hf h0 ht hn)
  case dissolveNow =>
    rintro ⟨hc, hf, ho⟩ h0 hv hfault
    exact exec_of_onMal hg rfl (runDissolve_now ho hc hv hf h0 hfault)
  case dissolved => exact fun e he hm => dissolved_dissolutionInstant hg he hm
  case draw =>
    rintro ⟨hc, hf, ho⟩ h3 hr
    exact ⟨fun hw => exec_draw_of_rights hg hr ((runDraw_of_allowed ho hc hf h3).trans (if_pos hw)),
      fun ks hs hn hh hk hq => exec_draw_of_rights hg hr (runDraw_of_free ho hc hf h3 hs hn hh hk hq)⟩
  case train =>
    intro hc hf h9 hr ha hu
    exact exec_of_onMal hg rfl (runTrain_of_unused hc hf h9 hr ha hu)

end Sys2Proof.Machine
end
